-- ==== Sys2Proof/Word.lean ====
section
/-! DEFINITION. The word types of the Stamas 9 and their plainest arithmetic (00 R5, R9). -/

namespace Sys2Proof

/-- A byte of storage (R5). -/
abbrev Byte := BitVec 8
/-- A scalar register value (R183). -/
abbrev Word := BitVec 64
/-- A vector element or a strand instruction word (R183, R186). -/
abbrev Half := BitVec 32
/-- An engine word (R202). -/
abbrev EWord := BitVec 16

/-- Zext(bit, 64) of R9. -/
def boolWord (b : Bool) : Word := if b then 1 else 0

end Sys2Proof
end

