-- ==== Sys2Proof/Config.lean ====
section
/-! DEFINITION. What an implementation fixes and the values the spec leaves free.
Every `opaque` below has no body, so no proof can see its value (log entry 1). -/

namespace Sys2Proof.Config

/-- Extra cycles an untimed action takes (R64, R209 call such figures unbounded); the argument is the
free-value counter of State. -/
opaque untimedDelay : Nat → Nat
/-- How far beyond its lowest legal place a store stands in the package coherence order (R103). -/
opaque coherenceSkip : Nat → Nat
/-- Which FREE Almanac entry `xlat` takes (R40), as an offset from the lowest one. -/
opaque freeEntry : Nat → Nat
/-- Which token-frame-cache entry a fill into a full cache replaces (R39). -/
opaque tfcVictim : Nat → Nat
/-- A choice the spec leaves open between two outcomes (R314, R320). -/
opaque choice : Nat → Bool
/-- Which of several things the spec leaves unordered goes first (R76, R115). -/
opaque pick : Nat → Nat
/-- Whether a write of a copy command that is ready is performed now (R64, R75): cycle, command, bytes still to write. -/
opaque writeNow : Nat → Nat → Nat → Bool
/-- The bytes of the state of a started engine command in a dump (R406): command, cycle. -/
opaque commandImage : Nat → Nat → List (BitVec 8)
/-- A byte the spec leaves open. -/
opaque freeByte : Nat → BitVec 8
/-- The fixed hash of a line address that chooses its home slice, and its slice among those of its stack (R78, R79). -/
opaque sliceHash : Nat → Nat
/-- Whether a port of this package has a path to a package of its domain (R367). -/
opaque portReaches : Nat → Nat → Bool
/-- AES-256-CMAC of R48: seal key number, sealed bytes (as a number), package, partition. -/
opaque cmac : Nat → Nat → Nat → Nat → BitVec 64
/-- The 64-bit MAC of a line in the integrity mode (R384): key number, line, write counter, contents. -/
opaque lineTag : Nat → Nat → Nat → Nat → BitVec 64
/-- The MAC of a node of the counter tree (R384): key number, node, counter. -/
opaque nodeTag : Nat → Nat → Nat → BitVec 64
/-- SHA-256 of a key or certificate (R389, R391), as a number. -/
opaque sha256 : Nat → BitVec 256
/-- The signature of R391 over a receipt's first 96 bytes, as a number. -/
opaque receiptSignature : Nat → BitVec 512
/-- The port hash of R367 over destination package, line address and the list of usable ports. -/
opaque portHash : Nat → Nat → Nat → Nat
/-- The hash of the package's identity certificate (R391). -/
opaque identityHash : BitVec 256
/-- This package's number in its domain of at most 512 (R367). -/
opaque packageIndex : Fin 512
def packageNumber : Nat := packageIndex.val

/-- Main memory ends here (R32). -/
def mainMemoryEnd : Nat := 0xC000000000
/-- Almanac entries (R38). -/
def almanacSize : Nat := 1048576
/-- Token frame cache entries (R39). -/
def tfcSize : Nat := 512
/-- Cycles in 10 ms, 50 ms, 2 ms, 1 ms and 100 ms at 4.0 GHz (R427, R60, R128, R150, R369, R63). -/
def sweepAbortCycles : Nat := 40000000
def portLostCycles : Nat := 200000000
def gangWithdrawCycles : Nat := 8000000
def rekeyCycles : Nat := 4000000
def reclaimCycles : Nat := 400000000
/-- Cycles of one microsecond. -/
def cyclesPerMicro : Nat := 4000

end Sys2Proof.Config
end

