-- ==== Sys2Proof/Syntax.lean ====
section
/-! DEFINITION. The instructions, engine words and events of spec/opcode_table.json, one constructor
per row, and the data they carry. Register fields keep the width of their encoding (R184). -/

namespace Sys2Proof

/-- The engines of a core, in the order of R299's ENG field. -/
inductive EngineId where
  | matrix | copy | lantern
  deriving DecidableEq, Repr

/-- Worlds of R34. -/
inductive World where
  | secure | nonSecure
  deriving DecidableEq, Repr

/-- Protection modes of R34, numbered as `kinfo mode` (R45). -/
inductive ProtMode where
  | clear | encrypted | integrity
  deriving DecidableEq, Repr

/-- Owners of a frame (R34). -/
inductive FrameOwner where
  | part (p : Nat) | firmware | free
  deriving DecidableEq, Repr

/-- Where a page is resident (R82): frames of this package, the flash tier, or a lender's frames. -/
inductive PagePlace where
  | main (frame : Nat)
  | flash (block : Nat)
  | lent (pkg frame : Nat)
  deriving DecidableEq, Repr

/-- The directions of a port: out of this package, into it (R366, R369). -/
inductive LinkDir where
  | tx | rx
  deriving DecidableEq, Repr

/-- One direction of a port (R366). -/
structure LinkEnd where
  port : Nat
  dir : LinkDir
  deriving DecidableEq, Repr

/-- What F2 does with an `xlat` fault (R42): gives pages their places, after releasing entries the
partition no longer holds under a live task, and restarts the `xlat`; or delivers the fault. -/
inductive XlatAction where
  | resolve (pages : List (Nat × PagePlace)) (released : List Nat)
  | deliver
  deriving DecidableEq, Repr

/-- A launch descriptor (R335); `z35`, `z40` are the bytes that must be 0. -/
structure Descriptor where
  imgVa : Nat
  imgLen : Nat
  load : Nat
  entry : Nat
  tvec : Nat
  sbase : Nat
  slimit : Nat
  size : Nat
  place : Nat
  z35 : Nat
  tlimit : Nat
  z40 : Nat
  deriving DecidableEq, Repr

/-- A packet (R339): header fields as they arrive, then the descriptors; `extra` counts bytes that make no whole one. -/
structure Packet where
  kind : Nat
  nparts : Nat
  serial : Nat
  b3 : Nat
  cookie : Nat
  b8 : Nat
  parts : List Descriptor
  extra : Nat
  deriving DecidableEq, Repr

/-- A node of a task graph (R346): its descriptor and its predecessors. -/
structure GraphNode where
  desc : Descriptor
  preds : List Nat
  deriving DecidableEq, Repr

/-- A node as a message carries it: the 64 bytes of its descriptor, its predecessors. -/
structure NodeMessage where
  desc : List (BitVec 8)
  preds : List Nat
  deriving DecidableEq, Repr

/-- One page of a partition's page tables (R31): page number in granules, granule exponent (16 or 21),
rights, mode, place. -/
structure PageMap where
  page : Nat
  gran : Nat
  rights : BitVec 2
  mode : ProtMode
  place : PagePlace
  deriving DecidableEq, Repr

/-- The operator's request to create a partition (R26, R29, R35, R81, R431, R372). `pages` stands for the
page tables F2 builds (R31). -/
structure PartitionRequest where
  num : Nat
  job : Nat
  world : World
  clusters : List Nat
  poolMb : List Nat
  share : Nat
  ways : Nat
  groups : List Nat
  frames : List Nat
  flashBlocks : Nat
  lentFrames : Nat
  pages : List PageMap
  policy : List (Nat × Nat)
  deriving DecidableEq, Repr

/-- What a remote request asks of a slice (R127): an atomic with its operands, a reduction asking for no old value (R124); a `waita`
registration, or the withdrawal of the one sent under a number (R130). -/
inductive RemoteOp where
  | load | store (x : Nat) | atomic (op : BitVec 4) (t x : Nat) (reduction : Bool) | register (x : Nat) | withdraw (seq : Nat)
  deriving DecidableEq, Repr

/-- A request that arrives over Axtos (R127, R368): source package and virtual core (R399), port and sequence, whether it
goes to a memory-side cache slice or an L2 home slice of a die, address, size. -/
structure RemoteRequest where
  pkg : Nat
  core : Nat
  port : Nat
  seq : Nat
  die : Option Nat
  addr : Nat
  size : Nat
  op : RemoteOp
  deriving DecidableEq, Repr

/-- What an accepted flit carries for the link itself (R369): the last flit its sender has accepted, or a request to rekey. -/
inductive LinkNote where
  | ack (seq : BitVec 16) | rekey
  deriving DecidableEq, Repr

/-- What a flit was sealed under at its sender (R369): rekey count and counter. -/
structure FlitSeal where
  key : Nat
  ctr : Nat
  deriving DecidableEq, Repr

/-- A switch that is to lose a job key, and whether it has reset (R374). -/
structure KeyLoss where
  switch : Nat
  reset : Bool
  deriving DecidableEq, Repr

/-- The source a 1588 clock locks to (R379): its domain and its time in ns. -/
structure PtpSource where
  domain : Nat
  time : Nat
  deriving DecidableEq, Repr

/-- A virtual core of a partition (R26). -/
structure VirtualCore where
  part : Nat
  core : Nat
  deriving DecidableEq, Repr

/-- A collective group as it is asked for (R376, R377): its members in rank order, and the switch that hosts each node of its
tree that one can. -/
structure GroupSetup where
  members : List (Nat × Nat)
  hosts : List ((Nat × Nat) × Nat)
  deriving DecidableEq, Repr

/-- Peers of an SPDM session (R371): a switch, with its model (R374), or the peer port of a port. -/
inductive SpdmPeer where
  | switch (n model : Nat) | port (n : Nat)
  deriving DecidableEq, Repr

/-- UET delivery modes and options a peer asks for (R370); `other` is any feature or option the rule does not name. -/
structure UetOptions where
  unordered : Bool
  ordered : Bool
  unreliable : Bool
  idempotent : Bool
  other : Bool
  remoteAccess : Bool
  encrypted : Bool
  receiverCredit : Bool
  mtu : Nat
  messageBytes : Nat
  inFlight : Nat
  deriving DecidableEq, Repr

/-- A firmware image (R388): whether the maker's signature verifies, and the key under which its owner signature does. -/
structure FirmwareImage where
  digest : Nat
  version : Nat
  makerOk : Bool
  ownerKey : Option Nat
  deriving DecidableEq, Repr

/-- A request of R389: the key hash it names or the key it carries, the nonce, and the key under which its signature
verifies. -/
structure OwnerRequest where
  key : Nat
  nonce : Nat
  signedBy : Option Nat
  deriving DecidableEq, Repr

/-- What asks for a reset (R428): power, a request on job 0 with its signature good or not, F3. -/
inductive ResetCause where
  | power
  | request (signed : Bool)
  | watchdog
  deriving DecidableEq, Repr

/-- What the outside gives a bring-up (R429): the ports whose training fails, the operator's PTP domain (R379), what asked for the
reset (R428). -/
structure BootEnv where
  badPorts : List Nat
  domain : Nat
  cause : ResetCause
  deriving DecidableEq, Repr

/-- The instructions of spec/opcode_table.json: strand words, engine words and events. -/
inductive Instr where
  /-- ADD (R213). -/
  | add (d a b : BitVec 5)
  /-- SUB (R213). -/
  | sub (d a b : BitVec 5)
  /-- AND (R213). -/
  | and (d a b : BitVec 5)
  /-- OR (R213). -/
  | or (d a b : BitVec 5)
  /-- XOR (R213). -/
  | xor (d a b : BitVec 5)
  /-- ANDN (R213). -/
  | andn (d a b : BitVec 5)
  /-- ORN (R213). -/
  | orn (d a b : BitVec 5)
  /-- XNOR (R213). -/
  | xnor (d a b : BitVec 5)
  /-- SLL (R213). -/
  | sll (d a b : BitVec 5)
  /-- SRL (R213). -/
  | srl (d a b : BitVec 5)
  /-- SRA (R213). -/
  | sra (d a b : BitVec 5)
  /-- ROL (R213). -/
  | rol (d a b : BitVec 5)
  /-- ROR (R213). -/
  | ror (d a b : BitVec 5)
  /-- MUL (R213). -/
  | mul (d a b : BitVec 5)
  /-- MULH (R213). -/
  | mulh (d a b : BitVec 5)
  /-- MULHU (R213). -/
  | mulhu (d a b : BitVec 5)
  /-- DIV (R214). -/
  | div (d a b : BitVec 5)
  /-- DIVU (R214). -/
  | divu (d a b : BitVec 5)
  /-- REM (R214). -/
  | rem (d a b : BitVec 5)
  /-- REMU (R214). -/
  | remu (d a b : BitVec 5)
  /-- MIN (R213). -/
  | min (d a b : BitVec 5)
  /-- MAX (R213). -/
  | max (d a b : BitVec 5)
  /-- MINU (R213). -/
  | minu (d a b : BitVec 5)
  /-- MAXU (R213). -/
  | maxu (d a b : BitVec 5)
  /-- CLZ (R213). -/
  | clz (d a : BitVec 5)
  /-- CTZ (R213). -/
  | ctz (d a : BitVec 5)
  /-- POPC (R213). -/
  | popc (d a : BitVec 5)
  /-- BSWAP (R213). -/
  | bswap (d a : BitVec 5)
  /-- BREV (R213). -/
  | brev (d a : BitVec 5)
  /-- SEL (R213). -/
  | sel (d a b : BitVec 5)
  /-- ADDI (R215). -/
  | addi (d a : BitVec 5) (i : BitVec 12)
  /-- ANDI (R215). -/
  | andi (d a : BitVec 5) (i : BitVec 12)
  /-- ORI (R215). -/
  | ori (d a : BitVec 5) (i : BitVec 12)
  /-- XORI (R215). -/
  | xori (d a : BitVec 5) (i : BitVec 12)
  /-- SLLI (R215). -/
  | slli (d a : BitVec 5) (n : BitVec 6)
  /-- SRLI (R215). -/
  | srli (d a : BitVec 5) (n : BitVec 6)
  /-- SRAI (R215). -/
  | srai (d a : BitVec 5) (n : BitVec 6)
  /-- RORI (R215). -/
  | rori (d a : BitVec 5) (n : BitVec 6)
  /-- MOVI (R216). -/
  | movi (d : BitVec 5) (v : BitVec 17) (sh : BitVec 6)
  /-- LUT3 (R218). -/
  | lut3 (d a b c : BitVec 5) (tbl : BitVec 8)
  /-- FSL (R217). -/
  | fsl (d a b : BitVec 5) (n : BitVec 6)
  /-- FSR (R217). -/
  | fsr (d a b : BitVec 5) (n : BitVec 6)
  /-- CMP_EQ (R219). -/
  | cmpEq (a b : BitVec 5)
  /-- CMP_NE (R219). -/
  | cmpNe (a b : BitVec 5)
  /-- CMP_LT (R219). -/
  | cmpLt (a b : BitVec 5)
  /-- CMP_GE (R219). -/
  | cmpGe (a b : BitVec 5)
  /-- CMP_LTU (R219). -/
  | cmpLtu (a b : BitVec 5)
  /-- CMP_GEU (R219). -/
  | cmpGeu (a b : BitVec 5)
  /-- TST (R219). -/
  | tst (a b : BitVec 5)
  /-- CMPI_EQ (R219). -/
  | cmpiEq (a : BitVec 5) (i : BitVec 12)
  /-- CMPI_NE (R219). -/
  | cmpiNe (a : BitVec 5) (i : BitVec 12)
  /-- CMPI_LT (R219). -/
  | cmpiLt (a : BitVec 5) (i : BitVec 12)
  /-- CMPI_GE (R219). -/
  | cmpiGe (a : BitVec 5) (i : BitVec 12)
  /-- CMPI_LTU (R219). -/
  | cmpiLtu (a : BitVec 5) (i : BitVec 12)
  /-- CMPI_GEU (R219). -/
  | cmpiGeu (a : BitVec 5) (i : BitVec 12)
  /-- TSTI (R219). -/
  | tsti (a : BitVec 5) (i : BitVec 12)
  /-- PTG (R221). -/
  | ptg (t : BitVec 2) (i : BitVec 23)
  /-- BR (R222). -/
  | br (t : BitVec 2)
  /-- BZ (R222). -/
  | bz (t : BitVec 2)
  /-- CALL (R226). -/
  | call (t : BitVec 2)
  /-- RET (R226). -/
  | ret (n : BitVec 2)
  /-- PTR (R221). -/
  | ptr (t : BitVec 2) (a : BitVec 5)
  /-- MFB (R221). -/
  | mfb (d : BitVec 5) (t : BitVec 2)
  /-- MTL (R157). -/
  | mtl (a : BitVec 5) (x : BitVec 2)
  /-- MFL (R157). -/
  | mfl (d : BitVec 5) (x : BitVec 2)
  /-- LOOP_PUSH (R158). -/
  | loopPush
  /-- LOOP_POP (R158). -/
  | loopPop
  /-- MFBC (R220). -/
  | mfbc (d : BitVec 5)
  /-- MTBC (R220). -/
  | mtbc (a : BitVec 5)
  /-- LOOP (R155). -/
  | loop (a : BitVec 5) (i : BitVec 12)
  /-- END (R137). -/
  | endOp
  /-- ERET (R231). -/
  | eret
  /-- TRAP (R229). -/
  | trap (n : BitVec 5)
  /-- SVC (R230). -/
  | svc (n : BitVec 5)
  /-- MFC (R233). -/
  | mfc (d y x : BitVec 5)
  /-- MTC (R233). -/
  | mtc (a y x : BitVec 5)
  /-- CTR_SEL (R403). -/
  | ctrSel (a : BitVec 5) (n : BitVec 4)
  /-- YIELD (R148). -/
  | yield (cnt : BitVec 12) (mask : BitVec 16)
  /-- SYNC (R141). -/
  | sync
  /-- ALIGN_EQUINOX (R141). -/
  | alignEquinox
  /-- FENCE_CO (R95). -/
  | fenceCo
  /-- FENCE_CL (R95). -/
  | fenceCl
  /-- FENCE_DI (R95). -/
  | fenceDi
  /-- FENCE_PK (R105). -/
  | fencePk
  /-- FENCE_DM (R106). -/
  | fenceDm
  /-- TAG_WANY (R257). -/
  | tagWany (a : BitVec 5)
  /-- TAG_WALL (R257). -/
  | tagWall (a : BitVec 5)
  /-- TAG_FFR (R258). -/
  | tagFfr (d a : BitVec 5)
  /-- TAG_CLR (R259). -/
  | tagClr (a : BitVec 5)
  /-- BAR_ARRIVE (R144). -/
  | barArrive (d i : BitVec 5)
  /-- BAR_DROP (R144). -/
  | barDrop (d i : BitVec 5)
  /-- BAR_WAIT (R144). -/
  | barWait (a i : BitVec 5)
  /-- ENQ_M (R293). -/
  | enqM (a : BitVec 5)
  /-- ENQ_C (R293). -/
  | enqC (a : BitVec 5)
  /-- ENQ_L (R293). -/
  | enqL (a : BitVec 5)
  /-- FMTQ (R293). -/
  | fmtq (a : BitVec 5)
  /-- XLAT (R40). -/
  | xlat (k : BitVec 4) (a b : BitVec 5) (r : BitVec 2)
  /-- KINFO (R45). -/
  | kinfo (d : BitVec 5) (k : BitVec 4) (f : BitVec 5)
  /-- KMOV (R46). -/
  | kmov (j k : BitVec 4)
  /-- KSUB (R47). -/
  | ksub (j k : BitVec 4) (o l : BitVec 5)
  /-- KST (R48). -/
  | kst (k j : BitVec 4) (o : BitVec 5)
  /-- KST_L (R48). -/
  | kstL (k : BitVec 4) (b i : BitVec 5)
  /-- KLD (R49). -/
  | kld (k j : BitVec 4) (o : BitVec 5)
  /-- KLD_L (R49). -/
  | kldL (k : BitVec 4) (b i : BitVec 5)
  /-- KCLR (R46). -/
  | kclr (k : BitVec 4)
  /-- KREL (R50). -/
  | krel (k : BitVec 4)
  /-- LD (R240). -/
  | ld (d : BitVec 5) (k : BitVec 4) (b : BitVec 5) (p : BitVec 3) (o : BitVec 2) (g : BitVec 1) (z : BitVec 2)
  /-- ST (R240). -/
  | st (d : BitVec 5) (k : BitVec 4) (b : BitVec 5) (p : BitVec 3) (o z : BitVec 2)
  /-- LDS (R245). -/
  | lds (z : BitVec 2) (d a : BitVec 5) (g : BitVec 1) (o : BitVec 2) (i : BitVec 11)
  /-- STS (R245). -/
  | sts (z : BitVec 2) (d a : BitVec 5) (o : BitVec 2) (i : BitVec 11)
  /-- AMO_ADD (R119). -/
  | amoAdd (z : BitVec 1) (d k b c : BitVec 4) (p : BitVec 3) (o : BitVec 2)
  /-- AMO_AND (R119). -/
  | amoAnd (z : BitVec 1) (d k b c : BitVec 4) (p : BitVec 3) (o : BitVec 2)
  /-- AMO_OR (R119). -/
  | amoOr (z : BitVec 1) (d k b c : BitVec 4) (p : BitVec 3) (o : BitVec 2)
  /-- AMO_XOR (R119). -/
  | amoXor (z : BitVec 1) (d k b c : BitVec 4) (p : BitVec 3) (o : BitVec 2)
  /-- AMO_MIN (R119). -/
  | amoMin (z : BitVec 1) (d k b c : BitVec 4) (p : BitVec 3) (o : BitVec 2)
  /-- AMO_MAX (R119). -/
  | amoMax (z : BitVec 1) (d k b c : BitVec 4) (p : BitVec 3) (o : BitVec 2)
  /-- AMO_MINU (R119). -/
  | amoMinu (z : BitVec 1) (d k b c : BitVec 4) (p : BitVec 3) (o : BitVec 2)
  /-- AMO_MAXU (R119). -/
  | amoMaxu (z : BitVec 1) (d k b c : BitVec 4) (p : BitVec 3) (o : BitVec 2)
  /-- AMO_SWAP (R119). -/
  | amoSwap (z : BitVec 1) (d k b c : BitVec 4) (p : BitVec 3) (o : BitVec 2)
  /-- AMO_CAS (R119). -/
  | amoCas (z : BitVec 1) (d k b c : BitVec 4) (p : BitVec 3) (o : BitVec 2)
  /-- AMO_FADD (R121). -/
  | amoFadd (d k b c : BitVec 4) (p : BitVec 3) (o : BitVec 2)
  /-- AMO_ADDT (R129). -/
  | amoAddt (z : BitVec 1) (d k b c : BitVec 4) (p : BitVec 3) (o : BitVec 2)
  /-- WAITA (R130). -/
  | waita (z : BitVec 1) (d k b c : BitVec 4) (p : BitVec 3)
  /-- LAMO_ADD (R120). -/
  | lamoAdd (z : BitVec 1) (d a i c : BitVec 4) (o : BitVec 2)
  /-- LAMO_AND (R120). -/
  | lamoAnd (z : BitVec 1) (d a i c : BitVec 4) (o : BitVec 2)
  /-- LAMO_OR (R120). -/
  | lamoOr (z : BitVec 1) (d a i c : BitVec 4) (o : BitVec 2)
  /-- LAMO_XOR (R120). -/
  | lamoXor (z : BitVec 1) (d a i c : BitVec 4) (o : BitVec 2)
  /-- LAMO_MIN (R120). -/
  | lamoMin (z : BitVec 1) (d a i c : BitVec 4) (o : BitVec 2)
  /-- LAMO_MAX (R120). -/
  | lamoMax (z : BitVec 1) (d a i c : BitVec 4) (o : BitVec 2)
  /-- LAMO_MINU (R120). -/
  | lamoMinu (z : BitVec 1) (d a i c : BitVec 4) (o : BitVec 2)
  /-- LAMO_MAXU (R120). -/
  | lamoMaxu (z : BitVec 1) (d a i c : BitVec 4) (o : BitVec 2)
  /-- LAMO_SWAP (R120). -/
  | lamoSwap (z : BitVec 1) (d a i c : BitVec 4) (o : BitVec 2)
  /-- LAMO_CAS (R120). -/
  | lamoCas (z : BitVec 1) (d a i c : BitVec 4) (o : BitVec 2)
  /-- LAMO_FADD (R121). -/
  | lamoFadd (d a i c : BitVec 4) (o : BitVec 2)
  /-- VADD_I32 (R269). -/
  | vaddI32 (d a b : BitVec 4) (p : BitVec 3)
  /-- VSUB_I32 (R269). -/
  | vsubI32 (d a b : BitVec 4) (p : BitVec 3)
  /-- VMUL_I32 (R269). -/
  | vmulI32 (d a b : BitVec 4) (p : BitVec 3)
  /-- VMULH_I32 (R269). -/
  | vmulhI32 (d a b : BitVec 4) (p : BitVec 3)
  /-- VMULH_U32 (R269). -/
  | vmulhU32 (d a b : BitVec 4) (p : BitVec 3)
  /-- VMIN_I32 (R269). -/
  | vminI32 (d a b : BitVec 4) (p : BitVec 3)
  /-- VMAX_I32 (R269). -/
  | vmaxI32 (d a b : BitVec 4) (p : BitVec 3)
  /-- VMIN_U32 (R269). -/
  | vminU32 (d a b : BitVec 4) (p : BitVec 3)
  /-- VMAX_U32 (R269). -/
  | vmaxU32 (d a b : BitVec 4) (p : BitVec 3)
  /-- VADDS_I32 (R269). -/
  | vaddsI32 (d a b : BitVec 4) (p : BitVec 3)
  /-- VSUBS_I32 (R269). -/
  | vsubsI32 (d a b : BitVec 4) (p : BitVec 3)
  /-- VABS_I32 (R269). -/
  | vabsI32 (d a : BitVec 4) (p : BitVec 3)
  /-- VNEG_I32 (R269). -/
  | vnegI32 (d a : BitVec 4) (p : BitVec 3)
  /-- VAND (R269). -/
  | vand (d a b : BitVec 4) (p : BitVec 3)
  /-- VOR (R269). -/
  | vor (d a b : BitVec 4) (p : BitVec 3)
  /-- VXOR (R269). -/
  | vxor (d a b : BitVec 4) (p : BitVec 3)
  /-- VANDN (R269). -/
  | vandn (d a b : BitVec 4) (p : BitVec 3)
  /-- VSLL (R269). -/
  | vsll (d a b : BitVec 4) (p : BitVec 3)
  /-- VSRL (R269). -/
  | vsrl (d a b : BitVec 4) (p : BitVec 3)
  /-- VSRA (R269). -/
  | vsra (d a b : BitVec 4) (p : BitVec 3)
  /-- VMOV (R269). -/
  | vmov (d a : BitVec 4) (p : BitVec 3)
  /-- VSEL (R269). -/
  | vsel (d a b : BitVec 4) (p : BitVec 3)
  /-- VCLZ (R269). -/
  | vclz (d a : BitVec 4) (p : BitVec 3)
  /-- VPOPC (R269). -/
  | vpopc (d a : BitVec 4) (p : BitVec 3)
  /-- VADD_F32 (R271). -/
  | vaddF32 (d a b : BitVec 4) (p m : BitVec 3)
  /-- VSUB_F32 (R271). -/
  | vsubF32 (d a b : BitVec 4) (p m : BitVec 3)
  /-- VMUL_F32 (R271). -/
  | vmulF32 (d a b : BitVec 4) (p m : BitVec 3)
  /-- VFMA_F32 (R271). -/
  | vfmaF32 (d a b c : BitVec 4) (p m : BitVec 3)
  /-- VMIN_F32 (R271). -/
  | vminF32 (d a b : BitVec 4) (p : BitVec 3)
  /-- VMAX_F32 (R271). -/
  | vmaxF32 (d a b : BitVec 4) (p : BitVec 3)
  /-- VABS_F32 (R271). -/
  | vabsF32 (d a : BitVec 4) (p : BitVec 3)
  /-- VNEG_F32 (R271). -/
  | vnegF32 (d a : BitVec 4) (p : BitVec 3)
  /-- VCVT_NARROW (R273). -/
  | vcvtNarrow (d a f : BitVec 4) (p m : BitVec 3)
  /-- VCVT_WIDEN (R274). -/
  | vcvtWiden (d a f : BitVec 4) (p : BitVec 3)
  /-- VCVT_I32_F32 (R275). -/
  | vcvtI32F32 (d a : BitVec 4) (p m : BitVec 3)
  /-- VCVT_F32_I32 (R275). -/
  | vcvtF32I32 (d a : BitVec 4) (p m : BitVec 3)
  /-- VCVTS_NARROW (R273). -/
  | vcvtsNarrow (d a f : BitVec 4) (p m : BitVec 3)
  /-- VSUM_RA (R277). -/
  | vsumRa (d a : BitVec 4) (t : BitVec 2)
  /-- VSUM_CA (R277). -/
  | vsumCa (d a : BitVec 4) (t : BitVec 2)
  /-- VMAX_RA (R277). -/
  | vmaxRa (d a : BitVec 4) (t : BitVec 2)
  /-- VMAX_CA (R277). -/
  | vmaxCa (d a : BitVec 4) (t : BitVec 2)
  /-- VMIN_RA (R277). -/
  | vminRa (d a : BitVec 4) (t : BitVec 2)
  /-- VMIN_CA (R277). -/
  | vminCa (d a : BitVec 4) (t : BitVec 2)
  /-- VROT_RA (R278). -/
  | vrotRa (d a : BitVec 4) (n : BitVec 6)
  /-- VROT_CA (R278). -/
  | vrotCa (d a n : BitVec 4)
  /-- VBROW (R278). -/
  | vbrow (d a r : BitVec 4)
  /-- VBCOL (R278). -/
  | vbcol (d a : BitVec 4) (c : BitVec 6)
  /-- VIDX_R (R278). -/
  | vidxR (d : BitVec 4)
  /-- VIDX_C (R278). -/
  | vidxC (d : BitVec 4)
  /-- VEXT (R279). -/
  | vext (d a r : BitVec 4) (c : BitVec 6)
  /-- VINS (R279). -/
  | vins (d a r : BitVec 4) (c : BitVec 6)
  /-- VBCAST (R279). -/
  | vbcast (d a : BitVec 4)
  /-- VCMP (R280). -/
  | vcmp (d : BitVec 3) (a b : BitVec 4) (p c t : BitVec 3)
  /-- PAND (R281). -/
  | pand (d a b : BitVec 3)
  /-- POR (R281). -/
  | por (d a b : BitVec 3)
  /-- PXOR (R281). -/
  | pxor (d a b : BitVec 3)
  /-- PANDN (R281). -/
  | pandn (d a b : BitVec 3)
  /-- PNOT (R281). -/
  | pnot (d a : BitVec 3)
  /-- VANY (R281). -/
  | vany (a : BitVec 3)
  /-- VALL (R281). -/
  | vall (a : BitVec 3)
  /-- PCNT (R281). -/
  | pcnt (d : BitVec 4) (a : BitVec 3)
  /-- PMOV (R281). -/
  | pmov (d a : BitVec 3)
  /-- VRCP (R283). -/
  | vrcp (d a : BitVec 4) (p : BitVec 3) (g : BitVec 1)
  /-- VRSQRT (R283). -/
  | vrsqrt (d a : BitVec 4) (p : BitVec 3) (g : BitVec 1)
  /-- VSQRT (R283). -/
  | vsqrt (d a : BitVec 4) (p : BitVec 3) (g : BitVec 1)
  /-- VEXP2 (R283). -/
  | vexp2 (d a : BitVec 4) (p : BitVec 3) (g : BitVec 1)
  /-- VLOG2 (R283). -/
  | vlog2 (d a : BitVec 4) (p : BitVec 3) (g : BitVec 1)
  /-- VEXP (R283). -/
  | vexp (d a : BitVec 4) (p : BitVec 3) (g : BitVec 1)
  /-- VTANH (R283). -/
  | vtanh (d a : BitVec 4) (p : BitVec 3) (g : BitVec 1)
  /-- VSIGM (R283). -/
  | vsigm (d a : BitVec 4) (p : BitVec 3) (g : BitVec 1)
  /-- VSIN (R283). -/
  | vsin (d a : BitVec 4) (p : BitVec 3) (g : BitVec 1)
  /-- VCOS (R283). -/
  | vcos (d a : BitVec 4) (p : BitVec 3) (g : BitVec 1)
  /-- VERF (R283). -/
  | verf (d a : BitVec 4) (p : BitVec 3) (g : BitVec 1)
  /-- CMPT (R288). -/
  | cmpt (a b : BitVec 4) (t : BitVec 2)
  /-- VQNT (R289). -/
  | vqnt (d a : BitVec 4) (t : BitVec 2) (f : BitVec 4)
  /-- VDQNT (R290). -/
  | vdqnt (d a : BitVec 4) (t : BitVec 2) (f : BitVec 4)
  /-- VLD (R248). -/
  | vld (d a b : BitVec 4) (p : BitVec 3)
  /-- VST (R248). -/
  | vst (d a b : BitVec 4) (p : BitVec 3)
  /-- VLD_L (R249). -/
  | vldL (d a : BitVec 4) (p : BitVec 3)
  /-- VST_L (R249). -/
  | vstL (d a : BitVec 4) (p : BitVec 3)
  /-- NOP (R203). -/
  | nop
  /-- SVAL (R203). -/
  | sval (n : BitVec 5)
  /-- KTOK (R203). -/
  | ktok (n : BitVec 4)
  /-- AT (R206). -/
  | atStamp
  /-- GATE (R206). -/
  | gate
  /-- DUP (R203). -/
  | dup
  /-- DROP (R203). -/
  | drop
  /-- SWAP (R203). -/
  | swap
  /-- LIT (R202). -/
  | lit (n : BitVec 14)
  /-- LITX (R202). -/
  | litx (n : BitVec 14)
  /-- MMA (R306). -/
  | mma (z : BitVec 1)
  /-- MMA_SP (R306). -/
  | mmaSp (z : BitVec 1)
  /-- MWB (R307). -/
  | mwb (c : BitVec 1)
  /-- COPY_1D (R312). -/
  | copy1d
  /-- COPY_ND (R313). -/
  | copyNd (n : BitVec 3)
  /-- GATHER (R315). -/
  | gather (e : BitVec 3)
  /-- SCATTER (R315). -/
  | scatter (e : BitVec 3)
  /-- WBFILL (R316). -/
  | wbfill
  /-- COLL_AR (R318). -/
  | collAr (t o : BitVec 2)
  /-- COLL_RS (R318). -/
  | collRs (t o : BitVec 2)
  /-- COLL_AG (R318). -/
  | collAg (t : BitVec 2)
  /-- LRST (R328). -/
  | lrst
  /-- LDLY (R329). -/
  | ldly
  /-- LWIN (R328). -/
  | lwin
  /-- LLAUNCH_MIN (R326). -/
  | llaunchMin
  /-- LLAUNCH_MAX (R326). -/
  | llaunchMax
  /-- LCAP_V (R331). -/
  | lcapV
  /-- LCAP_O (R331). -/
  | lcapO (k : BitVec 7)
  /-- SVC_TIME (R230): Firmware replies with package time in ns. -/
  | svcTime (core : Nat)
  /-- SVC_LOG (R230): Firmware appends s1–s4 and the rank to the telemetry log, or drops the record if full. -/
  | svcLog (core : Nat)
  /-- SVC_LIMIT (R230): Firmware replies with the microseconds left in the task's time limit. -/
  | svcLimit (core : Nat)
  /-- SVC_UNASSIGNED (R230): Firmware replies s2 = all ones for service numbers 3–31. -/
  | svcUnassigned (core : Nat)
  /-- TELEMETRY_LOG_DRAIN (R230): F6 sends telemetry log records over UET, freeing their places. -/
  | telemetryLogDrain (part count : Nat)
  /-- COUNTER_WRAP (R401): A counter steps from 2^48 − 1 to 0 and sets OVF. -/
  | counterWrap (n : BitVec 4)
  /-- WATCH_INSTALLED (R408): A VIRT atomic watch is installed at every serialisation point and the mtc to WPMASK retires. -/
  | watchInstalled
  /-- VIGIL (R147): An instruction reaches issue with VIGIL.COUNT = 0 and the task ends. -/
  | vigil
  /-- EQUINOX_RELEASE (R140): Once every crew core has arrived, the instance releases on one common cycle, setting Calendars if all-align. -/
  | equinoxRelease (task : Nat)
  /-- BAR_HELD_ARRIVAL (R144): A second arrival in one phase is applied on the cycle after the phase completes. -/
  | barHeldArrival (cluster : Nat) (id : BitVec 5) (pos : BitVec 3)
  /-- XLAT_FAULT_RESOLUTION (R42): F2 resolves an xlat fault and restarts it, or delivers it precisely to the handler. -/
  | xlatFaultResolution (core : Nat) (act : XlatAction)
  /-- WRITE_EXPOSURE (R68): A timed write takes effect at its bank on its exposure cycle and clears its pending bits. -/
  | writeExposure
  /-- LOCAL_STORE_PERFORMED (R246): A store through the CSM window or to the die pool is performed and leaves the local store queue. -/
  | localStorePerformed (id : Nat)
  /-- TOKEN_STORE_PERFORMED (R241): A token store is performed at its home slice, memory-side cache or lender and leaves the token store queue. -/
  | tokenStorePerformed (id : Nat)
  /-- EXPORTED_STORE_APPLY (R102): A die applies an exported store from another die once its clock condition holds. -/
  | exportedStoreApply (src dst : Nat)
  /-- LOAD_DATA_RETURN (R90): A load's data returns and is written to its destination, or the register is marked poisoned. -/
  | loadDataReturn (id : Nat)
  /-- POISON (R243): An owed poison report is delivered at a reader of the marked register or at an ordering point. -/
  | poison
  /-- INTEGRITY (R359): A MAC failure is reported and ends the task; F4 logs it and retires the frame. -/
  | integrity
  /-- TFC_MISS_FILL (R39): A token frame cache miss reads the Almanac entry while the strand or engine stalls. -/
  | tfcMissFill
  /-- ATOMIC_APPLY (R114): An atomic or reduction is applied indivisibly at its serialisation point. -/
  | atomicApply (id : Nat)
  /-- ATOMIC_RESULT_RETURN (R125): An atomic's old value or a reduction's acknowledgement returns to the core. -/
  | atomicResultReturn (id : Nat)
  /-- WAITA_REGISTER (R130): A waita's registration reaches its serialisation point and compares or registers. -/
  | waitaRegister (id : Nat)
  /-- WAITA_TIMEOUT (R130): A waita times out after 2^TOEXP cycles and returns BC = 0. -/
  | waitaTimeout
  /-- LOCAL_ATOMIC_APPLY (R116): After earlier writes expose and locks clear, a local atomic takes the row for one bank cycle. -/
  | localAtomicApply (id : Nat)
  /-- ENGINE_LAUNCH_START (R297): A held launch starts when its engine is free and its gate or stamp condition holds. -/
  | engineLaunchStart (e : EngineId)
  /-- MATRIX_COMPLETE (R306): A matrix launch's tile becomes final and its tag is set. -/
  | matrixComplete (id : Nat)
  /-- MWB_COMPLETE (R307): A write-back's rows expose, its lock releases and its tag is set. -/
  | mwbComplete (id : Nat)
  /-- COPY_COMPLETE (R317): A copy command completes, exposes its writes, releases locks and sets its tag. -/
  | copyComplete (id : Nat)
  /-- COLLECTIVE_COMPLETE (R320): A collective finishes or fails for every member and sets its tag. -/
  | collectiveComplete (task group : Nat)
  /-- LANTERN_COMPLETE (R330): A Lantern command ends its occupancy, latches its state and sets its tag. -/
  | lanternComplete (id : Nat)
  /-- DEFERRED_REPORT_DELIVERY (R354): A pending ENGINE, SCHEDMISS, engine POISON or imprecise WATCH report is taken at the next issue and the engine emptied. -/
  | deferredReportDelivery
  /-- PC_SAMPLE (R393): Every 2^EXP cycles the core writes a PC sample record to the sample ring. -/
  | pcSample
  /-- RING_DRAIN (R396): F6 drains sample and wait rings to the telemetry stream, counting lost records. -/
  | ringDrain (part die : Nat)
  /-- DISPATCH_ROUND (R341): F1 chooses a ready queue by level and weight and dispatches its part or node. -/
  | dispatchRound (part : Nat)
  /-- IMAGE_LOAD (R336): F2 copies the program image into every crew core and the crew starts at ENTRY. -/
  | imageLoad (task : Nat)
  /-- TLIMIT_EXPIRY (R337): The task's time limit expires and the task ends with status LIMIT. -/
  | tlimitExpiry (task : Nat)
  /-- PREEMPTION_REQUEST (R150): F1 posts a gang pre-emption request to a cluster's cores. -/
  | preemptionRequest (cluster : Nat)
  /-- GANG_WITHDRAW (R150): After 2 ms without every core stopping, F1 withdraws the request and restores stopped cores. -/
  | gangWithdraw (cluster : Nat)
  /-- CONTEXT_SAVE (R363): After the drain, a pre-empting yield saves the live state and local memories. -/
  | contextSave
  /-- CONTEXT_RESTORE (R364): A context is restored, tokens revalidated, and REVOKED taken if needed. -/
  | contextRestore (core ctx : Nat)
  /-- TASKS (R339): A TASKS packet arrives, is checked and appended to its queue or rejected. -/
  | tasks (part queue : Nat) (msg : List (BitVec 8))
  /-- REPLAY (R339): A REPLAY packet naming a graph arrives and is appended to its queue. -/
  | replay (part queue : Nat) (msg : List (BitVec 8))
  /-- QUEUE_CREATE (R340): A control request creates a queue with level, weight and ring. -/
  | queueCreate (part queue level weight ring : Nat)
  /-- QUEUE_DESTROY (R343): A control request destroys a queue at its journal record. -/
  | queueDestroy (part queue : Nat)
  /-- ARM (R344): Arms an armed-launch entry with its packet and landing buffer. -/
  | arm (part tag queue : Nat) (msg : List (BitVec 8)) (bufLen bufVa : Nat) (rearm : Bool)
  /-- DISARM (R344): Disarms an armed entry, at once or when its task ends. -/
  | disarm (part tag : Nat)
  /-- FIRE (R345): A FIRE message lands its payload and appends the armed packet, or gets BUSY. -/
  | fire (part : Nat) (head payload : List (BitVec 8))
  /-- GRAPH_DEFINE (R346): A control request defines a task graph of up to 512 nodes. -/
  | graphDefine (part graph : Nat) (nodes : List NodeMessage)
  /-- PATCH (R347): Rewrites one graph node at its journal record. -/
  | patch (part graph node : Nat) (new : NodeMessage)
  /-- COLLECTIVE_GROUP_CREATE (R376): The resident service creates a collective group for the task. -/
  | collectiveGroupCreate (task group : Nat) (setup : GroupSetup)
  /-- PARTITION_CREATE (R431): F2 creates a partition with its quotas, Almanac share and keys. -/
  | partitionCreate (req : PartitionRequest)
  /-- PARTITION_TEARDOWN (R390): Tears down a partition in six steps ending in a signed erasure receipt. -/
  | partitionTeardown (part : Nat) (nonce : BitVec 64)
  /-- JOURNAL_ACK (R349): F7's mailbox acknowledges a journal record, which then takes effect. -/
  | journalAck
  /-- UNCORRECTABLE_ERROR_REPORT (R348): A firmware core's uncorrectable error report reaches F3. -/
  | uncorrectableErrorReport (fcore : Nat) (imem : Bool)
  /-- TAKEOVER (R350): F7 replays F1's journal and resumes dispatch as F1. -/
  | takeover
  /-- JUBILEE_SWEEP (R59): F2 marks an entry REVOKING, raises its generation and broadcasts a token invalidate. -/
  | jubileeSweep (index : Nat)
  /-- TOKEN_INVALIDATE (R59): A core receives the invalidate and drops its cache entries for the index. -/
  | tokenInvalidate (core index : Nat)
  /-- SWEEP_ACK (R59): A core acknowledges once every access and command under the old generation has completed. -/
  | sweepAck (core index : Nat)
  /-- SWEEP_ABORT (R60): After 10 ms without acknowledgement, the core aborts commands holding the pin and acknowledges. -/
  | sweepAbort (core index : Nat)
  /-- SWEEP_FREE (R59): After all 256 acknowledgements F2 unpins the frames and frees the entry. -/
  | sweepFree (index : Nat)
  /-- SEAL_KEY_ROTATION (R60): F2 rotates seal keys to return a quarantined entry to service. -/
  | sealKeyRotation (index : Nat)
  /-- PAGE_MOVE (R82): F2 moves an unpinned page between tiers. -/
  | pageMove (part page : Nat) (dest : PagePlace)
  /-- LENDER_RECLAIM (R63): A lender's F5 asks the borrower to revoke entries naming lent frames. -/
  | lenderReclaim (pkg lo count : Nat)
  /-- GRANT_CLOSE (R63): After 100 ms without a report, the lender closes its grant for the range. -/
  | grantClose (pkg lo count : Nat)
  /-- GRANT_OPEN (R368): A lender's F5 opens a grant of frames to a borrowing package. -/
  | grantOpen (pkg lo count : Nat)
  /-- POT_CHANGE (R382): F2 changes a frame's world, owner or mode in four steps. -/
  | potChange (frame : Nat) (world : World) (owner : FrameOwner) (mode : ProtMode)
  /-- REMOTE_REQUEST_ARRIVAL (R127): A remote request reaches a slice and is applied once, answered from the replay filter, or refused busy. -/
  | remoteRequestArrival (req : RemoteRequest)
  /-- REMOTE_RETRANSMIT (R127): A source port retransmits an unanswered request under its sequence number. -/
  | remoteRetransmit (port dest seq : Nat)
  /-- REMOTE_REQUEST_LOST (R128): A request whose port stays out of UP past 50 ms completes as lost, with poison. -/
  | remoteRequestLost (core id : Nat)
  /-- AXTOS_TRAINING_START (R366): F5 starts training a DOWN port. -/
  | axtosTrainingStart (link : LinkEnd)
  /-- AXTOS_TRAINING_DONE (R366): Training completes to KEYING or fails to DOWN. -/
  | axtosTrainingDone (link : LinkEnd) (ok : Bool)
  /-- AXTOS_KEYS_INSTALLED (R366): Link keys are installed and the port goes UP; held requests are resent. -/
  | axtosKeysInstalled (link : LinkEnd)
  /-- FLIT_RECEIVE (R369): A flit arrives and is accepted, discarded as duplicate, or triggers retry or rekey. -/
  | flitReceive (port : Nat) (seq : BitVec 16) (sealed : FlitSeal) (intact : Bool) (note : Option LinkNote)
  /-- LINK_RETRY (R369): The sender resends stored ciphertext for a retry request under the same counter. -/
  | linkRetry (port : Nat) (seq : BitVec 16)
  /-- REKEY_TIMEOUT (R369): A rekey handshake not complete within 1 ms takes the port DOWN. -/
  | rekeyTimeout (link : LinkEnd)
  /-- SPDM_SESSION (R371): F4 runs an SPDM 1.3 session with a switch or peer port. -/
  | spdmSession (peer : SpdmPeer) (algsOk : Bool) (measurement : Nat)
  /-- JOB_KEY_GRANT (R374): F4 gives a job key to an attested switch inside an SPDM session. -/
  | jobKeyGrant (part switch : Nat)
  /-- JOB_KEY_WITHDRAW (R374): F4 erases a job key from a switch that resets or fails attestation. -/
  | jobKeyWithdraw (part : Nat) (loss : KeyLoss)
  /-- UET_CONNECTION_SETUP (R370): A UET peer connects and unsupported options are refused. -/
  | uetConnectionSetup (peer : Nat) (opts : UetOptions)
  /-- PTP_LOCK (R379): The 1588 clock first locks and package time is stepped. -/
  | ptpLock (source : PtpSource)
  /-- PTP_SOURCE_LOSS (R379): Port 0 loses its time source and the package enters holdover. -/
  | ptpSourceLoss
  /-- SAMPLECFG_WRITE (R392): F6 writes SAMPLECFG at the management job's request. -/
  | samplecfgWrite (vcore : VirtualCore) (value : BitVec 64)
  /-- DEBUG_REQUEST (R71): F6 writes DBGCFG at a debug request. -/
  | debugRequest (core : Nat) (value : BitVec 2)
  /-- SCHEDULE_STOP_ARM (R405): F6 arms a stop for a core or crew at Calendar value C. -/
  | scheduleStopArm (cores : List Nat) (cycle : Nat)
  /-- SCHEDULE_CYCLE_STOP (R405): The core freezes on the edge before cycle C and F6 dumps pending results. -/
  | scheduleCycleStop
  /-- STOP_RESUME (R406): Dump entries are reinjected and the core issues again on cycle C. -/
  | stopResume (core : Nat)
  /-- LIVE_DUMP (R407): A posted live dump is taken at the next yield and the context copied without ending it. -/
  | liveDump (core : Nat)
  /-- FIRMWARE_IMAGE (R388): A doubly signed firmware image is checked and staged. -/
  | firmwareImage (img : FirmwareImage)
  /-- TRANSFER (R389): An owner-signed TRANSFER tears down partitions and clears owner keys. -/
  | transfer (req : OwnerRequest)
  /-- ENROL (R389): A new owner key matching TRANSFER's hash is enrolled. -/
  | enrol (req : OwnerRequest)
  /-- THERMAL_STOP (R426): A die at 100 °C or more makes F6 stop dispatch. -/
  | thermalStop (die celsius : Nat)
  /-- THERMAL_RESUME (R426): Dispatch resumes once every die reads 95 °C or less. -/
  | thermalResume (celsius : List Nat)
  /-- THERMAL_TRIP (R426): At 110 °C a hardware trip removes package power. -/
  | thermalTrip (die celsius : Nat)
  /-- POWER_ON (R428): Power-on reset runs the bring-up sequence. -/
  | powerOn (env : BootEnv)
  /-- MODULE_RESET (R428): A signed request or F3 resets the module and runs bring-up. -/
  | moduleReset (env : BootEnv)
  /-- RECOVERY (R430): In recovery the module accepts only a job-0 firmware image and resets if it passes. -/
  | recovery (img : FirmwareImage)
  /-- PTP_SOURCE_REGAINED (R379): Port 0 regains its 1588 time source, holdover ends and the ±20 ns agreement holds again. -/
  | ptpSourceRegained
  /-- REKEY_COMPLETE (R369): A rekey handshake completes: both ends raise the rekey count, derive a new key and salt, reset the counter, and the sender resends unacknowledged flits under the new key. -/
  | rekeyComplete (link : LinkEnd)
  /-- RECLAIM_COMPLETION (R63): The borrower's completion report reaches the lender, which then unpins the lent frames. -/
  | reclaimCompletion (pkg lo count : Nat)
  /-- CUMULATIVE_ACKNOWLEDGEMENT (R127): A source port's cumulative acknowledgement reaches a slice and frees the replay filter entries it covers, and its acknowledgements free the port's window of 4,096 requests. -/
  | cumulativeAcknowledgement (pkg port dest seq : Nat)
  /-- RESERVED_ENCODING (R200): The strand reaches issue at a reserved instruction word, which raises ILLEGAL with TRAPVAL equal to the word and has no other effect. -/
  | reservedEncoding (word : BitVec 32)
  /-- RESERVED_ENGINE_WORD (R298): An engine dequeues a reserved engine word, or a word of another engine, raises ENGINE RESV and halts. -/
  | reservedEngineWord (word : BitVec 16)
  deriving DecidableEq, Repr

end Sys2Proof
end

