-- ==== Sys2Proof/WellFormed.lean ====
section
/-! DEFINITION. Which terms of Instr are instructions: the reserved values and combinations of
09 R189-R203, and the ranges of the numbers events carry. -/

namespace Sys2Proof

/-- A control-register number R234 assigns. -/
def ctrlAssigned (n : Nat) : Bool := n ≤ 23 || (32 ≤ n && n ≤ 63)

/-- The number x·32 + b of R194. -/
def ctrlNumber (x y : BitVec 5) : Nat := x.toNat * 32 + y.toNat

/-- ORD of a load: plain or acquire (R88). -/
def loadOrd (o : BitVec 2) : Bool := o.toNat ≤ 1
/-- ORD of a store: plain or release (R88). -/
def storeOrd (o : BitVec 2) : Bool := o == 0 || o == 2
/-- SCOPE 0-4 (R87). -/
def scopeOk (p : BitVec 3) : Bool := p.toNat ≤ 4
/-- RM 0-4 (R167). -/
def rmOk (m : BitVec 3) : Bool := m.toNat ≤ 4
/-- Physical core number. -/
def coreOk (c : Nat) : Bool := c < 256
/-- Partition number. -/
def partOk (p : Nat) : Bool := p < 64
/-- Axtos port number. -/
def portOk (p : Nat) : Bool := p < 16

/-- Package number in a domain of at most 512 (R1, R367). -/
def pkgOk (k : Nat) : Bool := k < 512
/-- A lender of a page is a package of the domain (R1). -/
def placeOk (d : PagePlace) : Bool :=
  match d with
  | .lent k _ => pkgOk k
  | _ => true

/-- Well-formedness of an instruction, engine word or event. -/
def Instr.wf : Instr → Bool
  | .mtl _ x | .mfl _ x => x != 3                                  -- R193
  | .mfc _ y x => ctrlAssigned (ctrlNumber x y)                    -- R194, R234
  | .mtc _ y x => ctrlAssigned (ctrlNumber x y) && !(x == 1 && y.toNat < 16)   -- R403
  | .yield c _ => c != 0                                           -- R148
  | .xlat _ _ _ r => r != 0                                        -- R44
  | .kinfo _ _ f => f.toNat ≤ 10                                   -- R45
  | .ld _ _ _ p o g z => scopeOk p && loadOrd o && !(g == 1 && z == 3)       -- R88, R189
  | .st _ _ _ p o _ => scopeOk p && storeOrd o                     -- R88
  | .lds z _ _ g o _ => loadOrd o && !(g == 1 && z == 3)           -- R244
  | .sts _ _ _ o _ => storeOrd o                                   -- R244
  | .amoAdd _ _ _ _ _ p _ | .amoAnd _ _ _ _ _ p _ | .amoOr _ _ _ _ _ p _ | .amoXor _ _ _ _ _ p _
  | .amoMin _ _ _ _ _ p _ | .amoMax _ _ _ _ _ p _ | .amoMinu _ _ _ _ _ p _ | .amoMaxu _ _ _ _ _ p _
  | .amoSwap _ _ _ _ _ p _ | .amoCas _ _ _ _ _ p _ | .amoAddt _ _ _ _ _ p _ => scopeOk p   -- R88
  | .amoFadd _ _ _ _ p _ => scopeOk p
  | .waita _ _ _ _ _ p => scopeOk p
  | .vaddF32 _ _ _ _ m | .vsubF32 _ _ _ _ m | .vmulF32 _ _ _ _ m => rmOk m   -- R197
  | .vfmaF32 _ _ _ _ _ m => rmOk m
  | .vcvtNarrow _ _ f _ m => rmOk m && (1 ≤ f.toNat && f.toNat ≤ 7)            -- R272
  | .vcvtsNarrow _ _ f _ m => rmOk m && (f == 1 || f == 2 || f == 4)
  | .vcvtWiden _ _ f _ => (1 ≤ f.toNat && f.toNat ≤ 7) || f == 10
  | .vcvtI32F32 _ _ _ m | .vcvtF32I32 _ _ _ m => rmOk m
  | .vsumRa _ _ t | .vsumCa _ _ t => t == 0 || t == 2              -- R198
  | .vmaxRa _ _ t | .vmaxCa _ _ t | .vminRa _ _ t | .vminCa _ _ t => t != 3
  | .vcmp _ _ _ _ c t => c.toNat ≤ 5 && t.toNat ≤ 2                -- R280
  | .vqnt _ _ t f | .vdqnt _ _ t f =>
      3 ≤ f.toNat && f.toNat ≤ 9 && (t == 0 || f == 8 || f == 9)   -- R287
  | .copyNd n => n != 0                                            -- R203: N = 1 is copy.1d
  | .gather e | .scatter e => e != 7                               -- R312
  | .collAr t o | .collRs t o => o != 3 && t != 3                  -- R318
  | .collAg t => t != 3
  | .svcTime c | .svcLog c | .svcLimit c | .svcUnassigned c | .stopResume c | .liveDump c => coreOk c
  | .samplecfgWrite v _ => decide (v.part < 64) && coreOk v.core
  | .debugRequest c _ | .contextRestore c _ => coreOk c
  | .xlatFaultResolution c a => coreOk c && match a with
      | .resolve pages _ => pages.all fun x => placeOk x.2
      | .deliver => true
  | .remoteRequestLost c _ => coreOk c
  | .tokenInvalidate c i | .sweepAck c i | .sweepAbort c i => coreOk c && i < Config.almanacSize
  | .jubileeSweep i | .sweepFree i | .sealKeyRotation i => i < Config.almanacSize
  | .scheduleStopArm cs _ => cs.all coreOk
  | .telemetryLogDrain p _ | .ringDrain p _ | .dispatchRound p | .partitionTeardown p _ => partOk p
  | .tasks p q _ | .replay p q _ | .queueDestroy p q => partOk p && q < 64          -- R340
  | .queueCreate p q l w _ => partOk p && q < 64 && l ≤ 7 && (1 ≤ w && w ≤ 16)      -- R340
  | .arm p _ q _ _ _ _ => partOk p && q < 64
  | .disarm p _ | .fire p _ _ => partOk p
  | .graphDefine p g _ | .patch p g _ _ => partOk p && g < 256                      -- R346
  | .jobKeyGrant p _ | .jobKeyWithdraw p _ => partOk p
  | .pageMove p _ d => partOk p && placeOk d                                        -- R1
  | .preemptionRequest c | .gangWithdraw c => c < 32
  | .barHeldArrival c _ _ => c < 32
  | .exportedStoreApply a b => a < 4 && b < 4 && a != b
  | .thermalStop d _ | .thermalTrip d _ => d < 4
  | .uncorrectableErrorReport f _ => f < 8                          -- R348
  | .axtosTrainingStart l | .axtosTrainingDone l _ | .axtosKeysInstalled l | .rekeyTimeout l | .rekeyComplete l => portOk l.port
  | .flitReceive p _ _ _ _ | .linkRetry p _ => portOk p
  | .potChange f _ _ _ => f < Config.mainMemoryEnd / 65536
  | .lenderReclaim k _ _ | .grantClose k _ _ | .grantOpen k _ _ | .reclaimCompletion k _ _ => pkgOk k        -- R367
  | .remoteRequestArrival r => pkgOk r.pkg && portOk r.port && r.core < 256
  | .remoteRetransmit p k _ => portOk p && pkgOk k
  | .cumulativeAcknowledgement k p d _ => pkgOk k && portOk p && pkgOk d
  | .collectiveGroupCreate _ g x => g < 256 && x.members.all fun m => pkgOk m.1 && m.2 < 256                     -- R376
  | .ptpLock x => x.domain < 128                                         -- R379
  | .partitionCreate r => partOk r.num && r.pages.all fun g => placeOk g.place
  | .add .. | .sub .. | .and .. | .or .. | .xor .. | .andn .. | .orn .. | .xnor .. | .sll .. | .srl .. | .sra ..
  | .rol .. | .ror .. | .mul .. | .mulh .. | .mulhu .. | .div .. | .divu .. | .rem .. | .remu .. | .min .. | .max ..
  | .minu .. | .maxu .. | .clz .. | .ctz .. | .popc .. | .bswap .. | .brev .. | .sel .. | .addi .. | .andi .. | .ori ..
  | .xori .. | .slli .. | .srli .. | .srai .. | .rori .. | .movi .. | .lut3 .. | .fsl .. | .fsr .. | .cmpEq .. | .cmpNe ..
  | .cmpLt .. | .cmpGe .. | .cmpLtu .. | .cmpGeu .. | .tst .. | .cmpiEq .. | .cmpiNe .. | .cmpiLt .. | .cmpiGe ..
  | .cmpiLtu .. | .cmpiGeu .. | .tsti .. | .ptg .. | .br .. | .bz .. | .call .. | .ret .. | .ptr .. | .mfb .. | .loopPush
  | .loopPop | .mfbc .. | .mtbc .. | .loop .. | .endOp | .eret | .trap .. | .svc .. | .counterWrap .. | .ctrSel ..
  | .watchInstalled | .vigil | .sync | .alignEquinox | .equinoxRelease .. | .fenceCo | .fenceCl | .fenceDi | .fencePk
  | .fenceDm | .tagWany .. | .tagWall .. | .tagFfr .. | .tagClr .. | .barArrive .. | .barDrop .. | .barWait .. | .enqM ..
  | .enqC .. | .enqL .. | .fmtq .. | .kmov .. | .ksub .. | .kst .. | .kstL .. | .kld .. | .kldL .. | .kclr .. | .krel ..
  | .writeExposure | .localStorePerformed .. | .tokenStorePerformed .. | .loadDataReturn .. | .poison | .integrity
  | .tfcMissFill | .atomicApply .. | .atomicResultReturn .. | .waitaRegister .. | .waitaTimeout | .lamoAdd .. | .lamoAnd ..
  | .lamoOr .. | .lamoXor .. | .lamoMin .. | .lamoMax .. | .lamoMinu .. | .lamoMaxu .. | .lamoSwap .. | .lamoCas ..
  | .lamoFadd .. | .localAtomicApply .. | .vaddI32 .. | .vsubI32 .. | .vmulI32 .. | .vmulhI32 .. | .vmulhU32 ..
  | .vminI32 .. | .vmaxI32 .. | .vminU32 .. | .vmaxU32 .. | .vaddsI32 .. | .vsubsI32 .. | .vabsI32 .. | .vnegI32 ..
  | .vand .. | .vor .. | .vxor .. | .vandn .. | .vsll .. | .vsrl .. | .vsra .. | .vmov .. | .vsel .. | .vclz .. | .vpopc ..
  | .vminF32 .. | .vmaxF32 .. | .vabsF32 .. | .vnegF32 .. | .vrotRa .. | .vrotCa .. | .vbrow .. | .vbcol .. | .vidxR ..
  | .vidxC .. | .vext .. | .vins .. | .vbcast .. | .pand .. | .por .. | .pxor .. | .pandn .. | .pnot .. | .vany .. | .vall ..
  | .pcnt .. | .pmov .. | .vrcp .. | .vrsqrt .. | .vsqrt .. | .vexp2 .. | .vlog2 .. | .vexp .. | .vtanh .. | .vsigm ..
  | .vsin .. | .vcos .. | .verf .. | .cmpt .. | .vld .. | .vst .. | .vldL .. | .vstL .. | .nop | .sval .. | .ktok ..
  | .atStamp | .gate | .dup | .drop | .swap | .lit .. | .litx .. | .mma .. | .mmaSp .. | .mwb .. | .copy1d | .wbfill
  | .lrst | .ldly | .lwin | .llaunchMin | .llaunchMax | .lcapV | .lcapO .. | .engineLaunchStart .. | .matrixComplete ..
  | .mwbComplete .. | .copyComplete .. | .collectiveComplete .. | .lanternComplete .. | .deferredReportDelivery
  | .pcSample | .imageLoad .. | .tlimitExpiry .. | .contextSave | .journalAck
  | .takeover
  | .spdmSession .. | .uetConnectionSetup .. | .ptpSourceLoss | .scheduleCycleStop | .firmwareImage ..
  | .transfer .. | .enrol .. | .thermalResume .. | .powerOn .. | .moduleReset .. | .recovery .. | .ptpSourceRegained
  | .reservedEncoding .. | .reservedEngineWord .. => true

end Sys2Proof
end

