-- ==== Sys2Proof/Decode.lean ====
section
/-! DEFINITION. The encodings of 09 (R183-R204): the formats, the encoder, and the decoder of strand words
and engine words. The decoder forms the one instruction a word's opcode fields name and accepts it when it is
well formed and its own encoding is the word, so every reserved bit is refused (R200). -/

namespace Sys2Proof

/-- Format R of R186, R187 (A: the atomics' form of R117, R118; X: format NI). -/
def encR (minor : BitVec 5) (x : BitVec 5) (b : BitVec 5) (a : BitVec 5) (d : BitVec 5) (major : BitVec 7) : BitVec 32 :=
  minor ++ x ++ b ++ a ++ d ++ major

/-- Format I of R186, R187 (A: the atomics' form of R117, R118; X: format NI). -/
def encI (imm : BitVec 12) (f3 : BitVec 3) (a : BitVec 5) (d : BitVec 5) (major : BitVec 7) : BitVec 32 :=
  imm ++ f3 ++ a ++ d ++ major

/-- Format F of R186, R187 (A: the atomics' form of R117, R118; X: format NI). -/
def encF (f4 : BitVec 4) (sh : BitVec 6) (b : BitVec 5) (a : BitVec 5) (d : BitVec 5) (major : BitVec 7) : BitVec 32 :=
  f4 ++ sh ++ b ++ a ++ d ++ major

/-- Format M of R186, R187 (A: the atomics' form of R117, R118; X: format NI). -/
def encM (sz : BitVec 2) (sg : BitVec 1) (ord : BitVec 2) (scope : BitVec 3) (z : BitVec 2) (b : BitVec 5) (a : BitVec 5) (d : BitVec 5) (major : BitVec 7) : BitVec 32 :=
  sz ++ sg ++ ord ++ scope ++ z ++ b ++ a ++ d ++ major

/-- Format N of R186, R187 (A: the atomics' form of R117, R118; X: format NI). -/
def encN (f6 : BitVec 6) (pg : BitVec 3) (c : BitVec 4) (b : BitVec 4) (a : BitVec 4) (d : BitVec 4) (major : BitVec 7) : BitVec 32 :=
  f6 ++ pg ++ c ++ b ++ a ++ d ++ major

/-- Format A of R186, R187 (A: the atomics' form of R117, R118; X: format NI). -/
def encA (op : BitVec 4) (ord : BitVec 2) (scope : BitVec 3) (c : BitVec 4) (b : BitVec 4) (a : BitVec 4) (d : BitVec 4) (major : BitVec 7) : BitVec 32 :=
  op ++ ord ++ scope ++ c ++ b ++ a ++ d ++ major

/-- Format X of R186, R187 (A: the atomics' form of R117, R118; X: format NI). -/
def encX (f6 : BitVec 6) (imm : BitVec 7) (b : BitVec 4) (a : BitVec 4) (d : BitVec 4) (major : BitVec 7) : BitVec 32 :=
  f6 ++ imm ++ b ++ a ++ d ++ major

/-- Format J of R186, R187 (A: the atomics' form of R117, R118; X: format NI). -/
def encJ (imm : BitVec 23) (bt : BitVec 2) (major : BitVec 7) : BitVec 32 :=
  imm ++ bt ++ major

/-- Format T of R186, R187 (A: the atomics' form of R117, R118; X: format NI). -/
def encT (tlo : BitVec 5) (c : BitVec 5) (b : BitVec 5) (a : BitVec 5) (d : BitVec 5) (thi : BitVec 3) (row : BitVec 4) : BitVec 32 :=
  tlo ++ c ++ b ++ a ++ d ++ thi ++ row

/-- Format S of R186, R187 (A: the atomics' form of R117, R118; X: format NI). -/
def encS (imm : BitVec 11) (ord : BitVec 2) (sc : BitVec 1) (sg : BitVec 1) (a : BitVec 5) (d : BitVec 5) (ls : BitVec 1) (sz : BitVec 2) (row : BitVec 4) : BitVec 32 :=
  imm ++ ord ++ sc ++ sg ++ a ++ d ++ ls ++ sz ++ row

/-- Format Y of R186, R187 (A: the atomics' form of R117, R118; X: format NI). -/
def encY (mask : BitVec 16) (dhi : BitVec 9) (dlo : BitVec 3) (row : BitVec 4) : BitVec 32 :=
  mask ++ dhi ++ dlo ++ row

/-- Format U of R186, R187 (A: the atomics' form of R117, R118; X: format NI). -/
def encU (slo : BitVec 3) (v : BitVec 17) (d : BitVec 5) (shi : BitVec 3) (row : BitVec 4) : BitVec 32 :=
  slo ++ v ++ d ++ shi ++ row

/-- The 32-bit word of a strand instruction (R186-R199); none for engine words and events. -/
def encodeWord : Instr → Option (BitVec 32)
  | .add d a b => some (encR 0#5 0#5 b a d 16#7)
  | .sub d a b => some (encR 1#5 0#5 b a d 16#7)
  | .and d a b => some (encR 2#5 0#5 b a d 16#7)
  | .or d a b => some (encR 3#5 0#5 b a d 16#7)
  | .xor d a b => some (encR 4#5 0#5 b a d 16#7)
  | .andn d a b => some (encR 5#5 0#5 b a d 16#7)
  | .orn d a b => some (encR 6#5 0#5 b a d 16#7)
  | .xnor d a b => some (encR 7#5 0#5 b a d 16#7)
  | .sll d a b => some (encR 8#5 0#5 b a d 16#7)
  | .srl d a b => some (encR 9#5 0#5 b a d 16#7)
  | .sra d a b => some (encR 10#5 0#5 b a d 16#7)
  | .rol d a b => some (encR 11#5 0#5 b a d 16#7)
  | .ror d a b => some (encR 12#5 0#5 b a d 16#7)
  | .mul d a b => some (encR 13#5 0#5 b a d 16#7)
  | .mulh d a b => some (encR 14#5 0#5 b a d 16#7)
  | .mulhu d a b => some (encR 15#5 0#5 b a d 16#7)
  | .div d a b => some (encR 16#5 0#5 b a d 16#7)
  | .divu d a b => some (encR 17#5 0#5 b a d 16#7)
  | .rem d a b => some (encR 18#5 0#5 b a d 16#7)
  | .remu d a b => some (encR 19#5 0#5 b a d 16#7)
  | .min d a b => some (encR 20#5 0#5 b a d 16#7)
  | .max d a b => some (encR 21#5 0#5 b a d 16#7)
  | .minu d a b => some (encR 22#5 0#5 b a d 16#7)
  | .maxu d a b => some (encR 23#5 0#5 b a d 16#7)
  | .clz d a => some (encR 24#5 0#5 0#5 a d 16#7)
  | .ctz d a => some (encR 25#5 0#5 0#5 a d 16#7)
  | .popc d a => some (encR 26#5 0#5 0#5 a d 16#7)
  | .bswap d a => some (encR 27#5 0#5 0#5 a d 16#7)
  | .brev d a => some (encR 28#5 0#5 0#5 a d 16#7)
  | .sel d a b => some (encR 29#5 0#5 b a d 16#7)
  | .addi d a i => some (encI i 0#3 a d 32#7)
  | .andi d a i => some (encI i 1#3 a d 32#7)
  | .ori d a i => some (encI i 2#3 a d 32#7)
  | .xori d a i => some (encI i 3#3 a d 32#7)
  | .slli d a n => some (encI (0#6 ++ n) 4#3 a d 32#7)
  | .srli d a n => some (encI (0#6 ++ n) 5#3 a d 32#7)
  | .srai d a n => some (encI (0#6 ++ n) 6#3 a d 32#7)
  | .rori d a n => some (encI (0#6 ++ n) 7#3 a d 32#7)
  | .movi d v sh => some (encU (sh.extractLsb' 0 3) v d (sh.extractLsb' 3 3) 15#4)
  | .lut3 d a b c tbl => some (encT (tbl.extractLsb' 0 5) c b a d (tbl.extractLsb' 5 3) 3#4)
  | .fsl d a b n => some (encF 0#4 n b a d 48#7)
  | .fsr d a b n => some (encF 1#4 n b a d 48#7)
  | .cmpEq a b => some (encR 0#5 0#5 b a 0#5 64#7)
  | .cmpNe a b => some (encR 1#5 0#5 b a 0#5 64#7)
  | .cmpLt a b => some (encR 2#5 0#5 b a 0#5 64#7)
  | .cmpGe a b => some (encR 3#5 0#5 b a 0#5 64#7)
  | .cmpLtu a b => some (encR 4#5 0#5 b a 0#5 64#7)
  | .cmpGeu a b => some (encR 5#5 0#5 b a 0#5 64#7)
  | .tst a b => some (encR 6#5 0#5 b a 0#5 64#7)
  | .cmpiEq a i => some (encI i 0#3 a 0#5 80#7)
  | .cmpiNe a i => some (encI i 1#3 a 0#5 80#7)
  | .cmpiLt a i => some (encI i 2#3 a 0#5 80#7)
  | .cmpiGe a i => some (encI i 3#3 a 0#5 80#7)
  | .cmpiLtu a i => some (encI i 4#3 a 0#5 80#7)
  | .cmpiGeu a i => some (encI i 5#3 a 0#5 80#7)
  | .tsti a i => some (encI i 6#3 a 0#5 80#7)
  | .ptg t i => some (encJ i t 1#7)
  | .br t => some (encR 0#5 0#5 0#5 (0#3 ++ t) 0#5 17#7)
  | .bz t => some (encR 1#5 0#5 0#5 (0#3 ++ t) 0#5 17#7)
  | .call t => some (encR 2#5 0#5 0#5 (0#3 ++ t) 0#5 17#7)
  | .ret n => some (encR 3#5 0#5 0#5 0#5 (0#3 ++ n) 17#7)
  | .ptr t a => some (encR 4#5 0#5 0#5 a (0#3 ++ t) 17#7)
  | .mfb d t => some (encR 5#5 0#5 0#5 (0#3 ++ t) d 17#7)
  | .mtl a x => some (encR 6#5 (0#3 ++ x) 0#5 a 0#5 17#7)
  | .mfl d x => some (encR 7#5 (0#3 ++ x) 0#5 0#5 d 17#7)
  | .loopPush => some (encR 8#5 0#5 0#5 0#5 0#5 17#7)
  | .loopPop => some (encR 9#5 0#5 0#5 0#5 0#5 17#7)
  | .mfbc d => some (encR 10#5 0#5 0#5 0#5 d 17#7)
  | .mtbc a => some (encR 11#5 0#5 0#5 a 0#5 17#7)
  | .loop a i => some (encI i 0#3 a 0#5 33#7)
  | .endOp => some (encR 0#5 0#5 0#5 0#5 0#5 49#7)
  | .eret => some (encR 1#5 0#5 0#5 0#5 0#5 49#7)
  | .trap n => some (encR 2#5 n 0#5 0#5 0#5 49#7)
  | .svc n => some (encR 3#5 n 0#5 0#5 0#5 49#7)
  | .mfc d y x => some (encR 4#5 x y 0#5 d 49#7)
  | .mtc a y x => some (encR 5#5 x y a 0#5 49#7)
  | .ctrSel a n => some (encR 5#5 1#5 (0#1 ++ n) a 0#5 49#7)
  | .yield cnt mask => some (encY mask (cnt.extractLsb' 3 9) (cnt.extractLsb' 0 3) 14#4)
  | .sync => some (encR 0#5 0#5 0#5 0#5 0#5 65#7)
  | .alignEquinox => some (encR 1#5 0#5 0#5 0#5 0#5 65#7)
  | .fenceCo => some (encR 2#5 0#5 0#5 0#5 0#5 65#7)
  | .fenceCl => some (encR 2#5 1#5 0#5 0#5 0#5 65#7)
  | .fenceDi => some (encR 2#5 2#5 0#5 0#5 0#5 65#7)
  | .fencePk => some (encR 2#5 3#5 0#5 0#5 0#5 65#7)
  | .fenceDm => some (encR 2#5 4#5 0#5 0#5 0#5 65#7)
  | .tagWany a => some (encR 3#5 0#5 0#5 a 0#5 65#7)
  | .tagWall a => some (encR 4#5 0#5 0#5 a 0#5 65#7)
  | .tagFfr d a => some (encR 5#5 0#5 0#5 a d 65#7)
  | .tagClr a => some (encR 6#5 0#5 0#5 a 0#5 65#7)
  | .barArrive d i => some (encR 7#5 i 0#5 0#5 d 65#7)
  | .barDrop d i => some (encR 8#5 i 0#5 0#5 d 65#7)
  | .barWait a i => some (encR 9#5 i 0#5 a 0#5 65#7)
  | .enqM a => some (encR 0#5 0#5 0#5 a 0#5 81#7)
  | .enqC a => some (encR 1#5 0#5 0#5 a 0#5 81#7)
  | .enqL a => some (encR 2#5 0#5 0#5 a 0#5 81#7)
  | .fmtq a => some (encR 3#5 0#5 0#5 a 0#5 81#7)
  | .xlat k a b r => some (encR 0#5 (0#3 ++ r) b a (0#1 ++ k) 43#7)
  | .kinfo d k f => some (encR 1#5 f 0#5 (0#1 ++ k) d 43#7)
  | .kmov j k => some (encR 2#5 0#5 0#5 (0#1 ++ k) (0#1 ++ j) 43#7)
  | .ksub j k o l => some (encR 3#5 l o (0#1 ++ k) (0#1 ++ j) 43#7)
  | .kst k j o => some (encR 4#5 0#5 o (0#1 ++ j) (0#1 ++ k) 43#7)
  | .kstL k b i => some (encR 5#5 i b 0#5 (0#1 ++ k) 43#7)
  | .kld k j o => some (encR 6#5 0#5 o (0#1 ++ j) (0#1 ++ k) 43#7)
  | .kldL k b i => some (encR 7#5 i b 0#5 (0#1 ++ k) 43#7)
  | .kclr k => some (encR 8#5 0#5 0#5 0#5 (0#1 ++ k) 43#7)
  | .krel k => some (encR 9#5 0#5 0#5 (0#1 ++ k) 0#5 43#7)
  | .ld d k b p o g z => some (encM z g o p 0#2 b (0#1 ++ k) d 9#7)
  | .st d k b p o z => some (encM z 0#1 o p 0#2 b (0#1 ++ k) d 25#7)
  | .lds z d a g o i => some (encS i o 0#1 g a d 0#1 z 13#4)
  | .sts z d a o i => some (encS i o 0#1 0#1 a d 1#1 z 13#4)
  | .amoAdd z d k b c p o => some (encA 0#4 o p c b k d (z ++ 59#6))
  | .amoAnd z d k b c p o => some (encA 1#4 o p c b k d (z ++ 59#6))
  | .amoOr z d k b c p o => some (encA 2#4 o p c b k d (z ++ 59#6))
  | .amoXor z d k b c p o => some (encA 3#4 o p c b k d (z ++ 59#6))
  | .amoMin z d k b c p o => some (encA 4#4 o p c b k d (z ++ 59#6))
  | .amoMax z d k b c p o => some (encA 5#4 o p c b k d (z ++ 59#6))
  | .amoMinu z d k b c p o => some (encA 6#4 o p c b k d (z ++ 59#6))
  | .amoMaxu z d k b c p o => some (encA 7#4 o p c b k d (z ++ 59#6))
  | .amoSwap z d k b c p o => some (encA 8#4 o p c b k d (z ++ 59#6))
  | .amoCas z d k b c p o => some (encA 9#4 o p c b k d (z ++ 59#6))
  | .amoFadd d k b c p o => some (encA 10#4 o p c b k d 59#7)
  | .amoAddt z d k b c p o => some (encA 11#4 o p c b k d (z ++ 59#6))
  | .waita z d k b c p => some (encA 12#4 0#2 p c b k d (z ++ 59#6))
  | .lamoAdd z d a i c o => some (encA 0#4 o 0#3 c i a d (z ++ 55#6))
  | .lamoAnd z d a i c o => some (encA 1#4 o 0#3 c i a d (z ++ 55#6))
  | .lamoOr z d a i c o => some (encA 2#4 o 0#3 c i a d (z ++ 55#6))
  | .lamoXor z d a i c o => some (encA 3#4 o 0#3 c i a d (z ++ 55#6))
  | .lamoMin z d a i c o => some (encA 4#4 o 0#3 c i a d (z ++ 55#6))
  | .lamoMax z d a i c o => some (encA 5#4 o 0#3 c i a d (z ++ 55#6))
  | .lamoMinu z d a i c o => some (encA 6#4 o 0#3 c i a d (z ++ 55#6))
  | .lamoMaxu z d a i c o => some (encA 7#4 o 0#3 c i a d (z ++ 55#6))
  | .lamoSwap z d a i c o => some (encA 8#4 o 0#3 c i a d (z ++ 55#6))
  | .lamoCas z d a i c o => some (encA 9#4 o 0#3 c i a d (z ++ 55#6))
  | .lamoFadd d a i c o => some (encA 10#4 o 0#3 c i a d 55#7)
  | .vaddI32 d a b p => some (encN 0#6 p 0#4 b a d 5#7)
  | .vsubI32 d a b p => some (encN 1#6 p 0#4 b a d 5#7)
  | .vmulI32 d a b p => some (encN 2#6 p 0#4 b a d 5#7)
  | .vmulhI32 d a b p => some (encN 3#6 p 0#4 b a d 5#7)
  | .vmulhU32 d a b p => some (encN 4#6 p 0#4 b a d 5#7)
  | .vminI32 d a b p => some (encN 5#6 p 0#4 b a d 5#7)
  | .vmaxI32 d a b p => some (encN 6#6 p 0#4 b a d 5#7)
  | .vminU32 d a b p => some (encN 7#6 p 0#4 b a d 5#7)
  | .vmaxU32 d a b p => some (encN 8#6 p 0#4 b a d 5#7)
  | .vaddsI32 d a b p => some (encN 9#6 p 0#4 b a d 5#7)
  | .vsubsI32 d a b p => some (encN 10#6 p 0#4 b a d 5#7)
  | .vabsI32 d a p => some (encN 11#6 p 0#4 0#4 a d 5#7)
  | .vnegI32 d a p => some (encN 12#6 p 0#4 0#4 a d 5#7)
  | .vand d a b p => some (encN 13#6 p 0#4 b a d 5#7)
  | .vor d a b p => some (encN 14#6 p 0#4 b a d 5#7)
  | .vxor d a b p => some (encN 15#6 p 0#4 b a d 5#7)
  | .vandn d a b p => some (encN 16#6 p 0#4 b a d 5#7)
  | .vsll d a b p => some (encN 17#6 p 0#4 b a d 5#7)
  | .vsrl d a b p => some (encN 18#6 p 0#4 b a d 5#7)
  | .vsra d a b p => some (encN 19#6 p 0#4 b a d 5#7)
  | .vmov d a p => some (encN 20#6 p 0#4 0#4 a d 5#7)
  | .vsel d a b p => some (encN 21#6 p 0#4 b a d 5#7)
  | .vclz d a p => some (encN 22#6 p 0#4 0#4 a d 5#7)
  | .vpopc d a p => some (encN 23#6 p 0#4 0#4 a d 5#7)
  | .vaddF32 d a b p m => some (encN (m ++ 0#3) p 0#4 b a d 21#7)
  | .vsubF32 d a b p m => some (encN (m ++ 1#3) p 0#4 b a d 21#7)
  | .vmulF32 d a b p m => some (encN (m ++ 2#3) p 0#4 b a d 21#7)
  | .vfmaF32 d a b c p m => some (encN (m ++ 3#3) p c b a d 21#7)
  | .vminF32 d a b p => some (encN 4#6 p 0#4 b a d 21#7)
  | .vmaxF32 d a b p => some (encN 5#6 p 0#4 b a d 21#7)
  | .vabsF32 d a p => some (encN 6#6 p 0#4 0#4 a d 21#7)
  | .vnegF32 d a p => some (encN 7#6 p 0#4 0#4 a d 21#7)
  | .vcvtNarrow d a f p m => some (encN (m ++ 0#3) p f 0#4 a d 37#7)
  | .vcvtWiden d a f p => some (encN 1#6 p f 0#4 a d 37#7)
  | .vcvtI32F32 d a p m => some (encN (m ++ 2#3) p 0#4 0#4 a d 37#7)
  | .vcvtF32I32 d a p m => some (encN (m ++ 3#3) p 0#4 0#4 a d 37#7)
  | .vcvtsNarrow d a f p m => some (encN (m ++ 4#3) p f 0#4 a d 37#7)
  | .vsumRa d a t => some (encX 0#6 (0#5 ++ t) 0#4 a d 53#7)
  | .vsumCa d a t => some (encX 1#6 (0#5 ++ t) 0#4 a d 53#7)
  | .vmaxRa d a t => some (encX 2#6 (0#5 ++ t) 0#4 a d 53#7)
  | .vmaxCa d a t => some (encX 3#6 (0#5 ++ t) 0#4 a d 53#7)
  | .vminRa d a t => some (encX 4#6 (0#5 ++ t) 0#4 a d 53#7)
  | .vminCa d a t => some (encX 5#6 (0#5 ++ t) 0#4 a d 53#7)
  | .vrotRa d a n => some (encX 6#6 (0#1 ++ n) 0#4 a d 53#7)
  | .vrotCa d a n => some (encX 7#6 (0#3 ++ n) 0#4 a d 53#7)
  | .vbrow d a r => some (encX 8#6 (0#3 ++ r) 0#4 a d 53#7)
  | .vbcol d a c => some (encX 9#6 (0#1 ++ c) 0#4 a d 53#7)
  | .vidxR d => some (encX 10#6 0#7 0#4 0#4 d 53#7)
  | .vidxC d => some (encX 11#6 0#7 0#4 0#4 d 53#7)
  | .vext d a r c => some (encX 12#6 (0#1 ++ c) r a d 53#7)
  | .vins d a r c => some (encX 13#6 (0#1 ++ c) r a d 53#7)
  | .vbcast d a => some (encX 14#6 0#7 0#4 a d 53#7)
  | .vcmp d a b p c t => some (encN (t ++ c) p 0#4 b a (0#1 ++ d) 69#7)
  | .pand d a b => some (encN 24#6 0#3 0#4 (0#1 ++ b) (0#1 ++ a) (0#1 ++ d) 69#7)
  | .por d a b => some (encN 25#6 0#3 0#4 (0#1 ++ b) (0#1 ++ a) (0#1 ++ d) 69#7)
  | .pxor d a b => some (encN 26#6 0#3 0#4 (0#1 ++ b) (0#1 ++ a) (0#1 ++ d) 69#7)
  | .pandn d a b => some (encN 27#6 0#3 0#4 (0#1 ++ b) (0#1 ++ a) (0#1 ++ d) 69#7)
  | .pnot d a => some (encN 28#6 0#3 0#4 0#4 (0#1 ++ a) (0#1 ++ d) 69#7)
  | .vany a => some (encN 29#6 0#3 0#4 0#4 (0#1 ++ a) 0#4 69#7)
  | .vall a => some (encN 30#6 0#3 0#4 0#4 (0#1 ++ a) 0#4 69#7)
  | .pcnt d a => some (encN 31#6 0#3 0#4 0#4 (0#1 ++ a) d 69#7)
  | .pmov d a => some (encN 32#6 0#3 0#4 0#4 (0#1 ++ a) (0#1 ++ d) 69#7)
  | .vrcp d a p g => some (encN (0#5 ++ g) p 0#4 0#4 a d 85#7)
  | .vrsqrt d a p g => some (encN (1#5 ++ g) p 0#4 0#4 a d 85#7)
  | .vsqrt d a p g => some (encN (2#5 ++ g) p 0#4 0#4 a d 85#7)
  | .vexp2 d a p g => some (encN (3#5 ++ g) p 0#4 0#4 a d 85#7)
  | .vlog2 d a p g => some (encN (4#5 ++ g) p 0#4 0#4 a d 85#7)
  | .vexp d a p g => some (encN (5#5 ++ g) p 0#4 0#4 a d 85#7)
  | .vtanh d a p g => some (encN (6#5 ++ g) p 0#4 0#4 a d 85#7)
  | .vsigm d a p g => some (encN (7#5 ++ g) p 0#4 0#4 a d 85#7)
  | .vsin d a p g => some (encN (8#5 ++ g) p 0#4 0#4 a d 85#7)
  | .vcos d a p g => some (encN (9#5 ++ g) p 0#4 0#4 a d 85#7)
  | .verf d a p g => some (encN (10#5 ++ g) p 0#4 0#4 a d 85#7)
  | .cmpt a b t => some (encN 0#6 0#3 (0#2 ++ t) b a 0#4 101#7)
  | .vqnt d a t f => some (encN 1#6 0#3 f (0#2 ++ t) a d 101#7)
  | .vdqnt d a t f => some (encN 2#6 0#3 f (0#2 ++ t) a d 101#7)
  | .vld d a b p => some (encN 0#6 p 0#4 b a d 117#7)
  | .vst d a b p => some (encN 1#6 p 0#4 b a d 117#7)
  | .vldL d a p => some (encN 2#6 p 0#4 0#4 a d 117#7)
  | .vstL d a p => some (encN 3#6 p 0#4 0#4 a d 117#7)
  | .nop => none
  | .sval _ => none
  | .ktok _ => none
  | .atStamp => none
  | .gate => none
  | .dup => none
  | .drop => none
  | .swap => none
  | .lit _ => none
  | .litx _ => none
  | .mma _ => none
  | .mmaSp _ => none
  | .mwb _ => none
  | .copy1d => none
  | .copyNd _ => none
  | .gather _ => none
  | .scatter _ => none
  | .wbfill => none
  | .collAr _ _ => none
  | .collRs _ _ => none
  | .collAg _ => none
  | .lrst => none
  | .ldly => none
  | .lwin => none
  | .llaunchMin => none
  | .llaunchMax => none
  | .lcapV => none
  | .lcapO _ => none
  | .svcTime _ => none
  | .svcLog _ => none
  | .svcLimit _ => none
  | .svcUnassigned _ => none
  | .telemetryLogDrain _ _ => none
  | .counterWrap _ => none
  | .watchInstalled => none
  | .vigil => none
  | .equinoxRelease _ => none
  | .barHeldArrival _ _ _ => none
  | .xlatFaultResolution _ _ => none
  | .writeExposure => none
  | .localStorePerformed _ => none
  | .tokenStorePerformed _ => none
  | .exportedStoreApply _ _ => none
  | .loadDataReturn _ => none
  | .poison => none
  | .integrity => none
  | .tfcMissFill => none
  | .atomicApply _ => none
  | .atomicResultReturn _ => none
  | .waitaRegister _ => none
  | .waitaTimeout => none
  | .localAtomicApply _ => none
  | .engineLaunchStart _ => none
  | .matrixComplete _ => none
  | .mwbComplete _ => none
  | .copyComplete _ => none
  | .collectiveComplete _ _ => none
  | .lanternComplete _ => none
  | .deferredReportDelivery => none
  | .pcSample => none
  | .ringDrain _ _ => none
  | .dispatchRound _ => none
  | .imageLoad _ => none
  | .tlimitExpiry _ => none
  | .preemptionRequest _ => none
  | .gangWithdraw _ => none
  | .contextSave => none
  | .contextRestore _ _ => none
  | .tasks _ _ _ => none
  | .replay _ _ _ => none
  | .queueCreate _ _ _ _ _ => none
  | .queueDestroy _ _ => none
  | .arm _ _ _ _ _ _ _ => none
  | .disarm _ _ => none
  | .fire _ _ _ => none
  | .graphDefine _ _ _ => none
  | .patch _ _ _ _ => none
  | .collectiveGroupCreate _ _ _ => none
  | .partitionCreate _ => none
  | .partitionTeardown _ _ => none
  | .journalAck => none
  | .uncorrectableErrorReport _ _ => none
  | .takeover => none
  | .jubileeSweep _ => none
  | .tokenInvalidate _ _ => none
  | .sweepAck _ _ => none
  | .sweepAbort _ _ => none
  | .sweepFree _ => none
  | .sealKeyRotation _ => none
  | .pageMove _ _ _ => none
  | .lenderReclaim _ _ _ => none
  | .grantClose _ _ _ => none
  | .grantOpen _ _ _ => none
  | .potChange _ _ _ _ => none
  | .remoteRequestArrival _ => none
  | .remoteRetransmit _ _ _ => none
  | .remoteRequestLost _ _ => none
  | .axtosTrainingStart _ => none
  | .axtosTrainingDone _ _ => none
  | .axtosKeysInstalled _ => none
  | .flitReceive _ _ _ _ _ => none
  | .linkRetry _ _ => none
  | .rekeyTimeout _ => none
  | .spdmSession _ _ _ => none
  | .jobKeyGrant _ _ => none
  | .jobKeyWithdraw _ _ => none
  | .uetConnectionSetup _ _ => none
  | .ptpLock _ => none
  | .ptpSourceLoss => none
  | .samplecfgWrite _ _ => none
  | .debugRequest _ _ => none
  | .scheduleStopArm _ _ => none
  | .scheduleCycleStop => none
  | .stopResume _ => none
  | .liveDump _ => none
  | .firmwareImage _ => none
  | .transfer _ => none
  | .enrol _ => none
  | .thermalStop _ _ => none
  | .thermalResume _ => none
  | .thermalTrip _ _ => none
  | .powerOn _ => none
  | .moduleReset _ => none
  | .recovery _ => none
  | .ptpSourceRegained => none
  | .rekeyComplete _ => none
  | .reclaimCompletion _ _ _ => none
  | .cumulativeAcknowledgement _ _ _ _ => none
  | .reservedEncoding _ => none
  | .reservedEngineWord _ => none

/-- The 16-bit word of an engine instruction (R202, R203); none for the others. -/
def encodeEngineWord : Instr → Option (BitVec 16)
  | .nop => some (0#16)
  | .sval n => some (8#11 ++ n)
  | .ktok n => some (32#12 ++ n)
  | .atStamp => some (768#16)
  | .gate => some (1024#16)
  | .dup => some (1280#16)
  | .drop => some (1536#16)
  | .swap => some (1792#16)
  | .lit n => some (1#2 ++ n)
  | .litx n => some (2#2 ++ n)
  | .mma z => some (24576#15 ++ z)
  | .mmaSp z => some (24704#15 ++ z)
  | .mwb c => some (24832#15 ++ c)
  | .copy1d => some (53248#16)
  | .copyNd n => some (6656#13 ++ n)
  | .gather e => some (6688#13 ++ e)
  | .scatter e => some (6720#13 ++ e)
  | .wbfill => some (54016#16)
  | .collAr t o => some (3392#12 ++ o ++ t)
  | .collRs t o => some (3408#12 ++ o ++ t)
  | .collAg t => some (13696#14 ++ t)
  | .lrst => some (57344#16)
  | .ldly => some (57600#16)
  | .lwin => some (57856#16)
  | .llaunchMin => some (58112#16)
  | .llaunchMax => some (58113#16)
  | .lcapV => some (58368#16)
  | .lcapO k => some (458#9 ++ k)
  | .add _ _ _ => none
  | .sub _ _ _ => none
  | .and _ _ _ => none
  | .or _ _ _ => none
  | .xor _ _ _ => none
  | .andn _ _ _ => none
  | .orn _ _ _ => none
  | .xnor _ _ _ => none
  | .sll _ _ _ => none
  | .srl _ _ _ => none
  | .sra _ _ _ => none
  | .rol _ _ _ => none
  | .ror _ _ _ => none
  | .mul _ _ _ => none
  | .mulh _ _ _ => none
  | .mulhu _ _ _ => none
  | .div _ _ _ => none
  | .divu _ _ _ => none
  | .rem _ _ _ => none
  | .remu _ _ _ => none
  | .min _ _ _ => none
  | .max _ _ _ => none
  | .minu _ _ _ => none
  | .maxu _ _ _ => none
  | .clz _ _ => none
  | .ctz _ _ => none
  | .popc _ _ => none
  | .bswap _ _ => none
  | .brev _ _ => none
  | .sel _ _ _ => none
  | .addi _ _ _ => none
  | .andi _ _ _ => none
  | .ori _ _ _ => none
  | .xori _ _ _ => none
  | .slli _ _ _ => none
  | .srli _ _ _ => none
  | .srai _ _ _ => none
  | .rori _ _ _ => none
  | .movi _ _ _ => none
  | .lut3 _ _ _ _ _ => none
  | .fsl _ _ _ _ => none
  | .fsr _ _ _ _ => none
  | .cmpEq _ _ => none
  | .cmpNe _ _ => none
  | .cmpLt _ _ => none
  | .cmpGe _ _ => none
  | .cmpLtu _ _ => none
  | .cmpGeu _ _ => none
  | .tst _ _ => none
  | .cmpiEq _ _ => none
  | .cmpiNe _ _ => none
  | .cmpiLt _ _ => none
  | .cmpiGe _ _ => none
  | .cmpiLtu _ _ => none
  | .cmpiGeu _ _ => none
  | .tsti _ _ => none
  | .ptg _ _ => none
  | .br _ => none
  | .bz _ => none
  | .call _ => none
  | .ret _ => none
  | .ptr _ _ => none
  | .mfb _ _ => none
  | .mtl _ _ => none
  | .mfl _ _ => none
  | .loopPush => none
  | .loopPop => none
  | .mfbc _ => none
  | .mtbc _ => none
  | .loop _ _ => none
  | .endOp => none
  | .eret => none
  | .trap _ => none
  | .svc _ => none
  | .mfc _ _ _ => none
  | .mtc _ _ _ => none
  | .ctrSel _ _ => none
  | .yield _ _ => none
  | .sync => none
  | .alignEquinox => none
  | .fenceCo => none
  | .fenceCl => none
  | .fenceDi => none
  | .fencePk => none
  | .fenceDm => none
  | .tagWany _ => none
  | .tagWall _ => none
  | .tagFfr _ _ => none
  | .tagClr _ => none
  | .barArrive _ _ => none
  | .barDrop _ _ => none
  | .barWait _ _ => none
  | .enqM _ => none
  | .enqC _ => none
  | .enqL _ => none
  | .fmtq _ => none
  | .xlat _ _ _ _ => none
  | .kinfo _ _ _ => none
  | .kmov _ _ => none
  | .ksub _ _ _ _ => none
  | .kst _ _ _ => none
  | .kstL _ _ _ => none
  | .kld _ _ _ => none
  | .kldL _ _ _ => none
  | .kclr _ => none
  | .krel _ => none
  | .ld _ _ _ _ _ _ _ => none
  | .st _ _ _ _ _ _ => none
  | .lds _ _ _ _ _ _ => none
  | .sts _ _ _ _ _ => none
  | .amoAdd _ _ _ _ _ _ _ => none
  | .amoAnd _ _ _ _ _ _ _ => none
  | .amoOr _ _ _ _ _ _ _ => none
  | .amoXor _ _ _ _ _ _ _ => none
  | .amoMin _ _ _ _ _ _ _ => none
  | .amoMax _ _ _ _ _ _ _ => none
  | .amoMinu _ _ _ _ _ _ _ => none
  | .amoMaxu _ _ _ _ _ _ _ => none
  | .amoSwap _ _ _ _ _ _ _ => none
  | .amoCas _ _ _ _ _ _ _ => none
  | .amoFadd _ _ _ _ _ _ => none
  | .amoAddt _ _ _ _ _ _ _ => none
  | .waita _ _ _ _ _ _ => none
  | .lamoAdd _ _ _ _ _ _ => none
  | .lamoAnd _ _ _ _ _ _ => none
  | .lamoOr _ _ _ _ _ _ => none
  | .lamoXor _ _ _ _ _ _ => none
  | .lamoMin _ _ _ _ _ _ => none
  | .lamoMax _ _ _ _ _ _ => none
  | .lamoMinu _ _ _ _ _ _ => none
  | .lamoMaxu _ _ _ _ _ _ => none
  | .lamoSwap _ _ _ _ _ _ => none
  | .lamoCas _ _ _ _ _ _ => none
  | .lamoFadd _ _ _ _ _ => none
  | .vaddI32 _ _ _ _ => none
  | .vsubI32 _ _ _ _ => none
  | .vmulI32 _ _ _ _ => none
  | .vmulhI32 _ _ _ _ => none
  | .vmulhU32 _ _ _ _ => none
  | .vminI32 _ _ _ _ => none
  | .vmaxI32 _ _ _ _ => none
  | .vminU32 _ _ _ _ => none
  | .vmaxU32 _ _ _ _ => none
  | .vaddsI32 _ _ _ _ => none
  | .vsubsI32 _ _ _ _ => none
  | .vabsI32 _ _ _ => none
  | .vnegI32 _ _ _ => none
  | .vand _ _ _ _ => none
  | .vor _ _ _ _ => none
  | .vxor _ _ _ _ => none
  | .vandn _ _ _ _ => none
  | .vsll _ _ _ _ => none
  | .vsrl _ _ _ _ => none
  | .vsra _ _ _ _ => none
  | .vmov _ _ _ => none
  | .vsel _ _ _ _ => none
  | .vclz _ _ _ => none
  | .vpopc _ _ _ => none
  | .vaddF32 _ _ _ _ _ => none
  | .vsubF32 _ _ _ _ _ => none
  | .vmulF32 _ _ _ _ _ => none
  | .vfmaF32 _ _ _ _ _ _ => none
  | .vminF32 _ _ _ _ => none
  | .vmaxF32 _ _ _ _ => none
  | .vabsF32 _ _ _ => none
  | .vnegF32 _ _ _ => none
  | .vcvtNarrow _ _ _ _ _ => none
  | .vcvtWiden _ _ _ _ => none
  | .vcvtI32F32 _ _ _ _ => none
  | .vcvtF32I32 _ _ _ _ => none
  | .vcvtsNarrow _ _ _ _ _ => none
  | .vsumRa _ _ _ => none
  | .vsumCa _ _ _ => none
  | .vmaxRa _ _ _ => none
  | .vmaxCa _ _ _ => none
  | .vminRa _ _ _ => none
  | .vminCa _ _ _ => none
  | .vrotRa _ _ _ => none
  | .vrotCa _ _ _ => none
  | .vbrow _ _ _ => none
  | .vbcol _ _ _ => none
  | .vidxR _ => none
  | .vidxC _ => none
  | .vext _ _ _ _ => none
  | .vins _ _ _ _ => none
  | .vbcast _ _ => none
  | .vcmp _ _ _ _ _ _ => none
  | .pand _ _ _ => none
  | .por _ _ _ => none
  | .pxor _ _ _ => none
  | .pandn _ _ _ => none
  | .pnot _ _ => none
  | .vany _ => none
  | .vall _ => none
  | .pcnt _ _ => none
  | .pmov _ _ => none
  | .vrcp _ _ _ _ => none
  | .vrsqrt _ _ _ _ => none
  | .vsqrt _ _ _ _ => none
  | .vexp2 _ _ _ _ => none
  | .vlog2 _ _ _ _ => none
  | .vexp _ _ _ _ => none
  | .vtanh _ _ _ _ => none
  | .vsigm _ _ _ _ => none
  | .vsin _ _ _ _ => none
  | .vcos _ _ _ _ => none
  | .verf _ _ _ _ => none
  | .cmpt _ _ _ => none
  | .vqnt _ _ _ _ => none
  | .vdqnt _ _ _ _ => none
  | .vld _ _ _ _ => none
  | .vst _ _ _ _ => none
  | .vldL _ _ _ => none
  | .vstL _ _ _ => none
  | .svcTime _ => none
  | .svcLog _ => none
  | .svcLimit _ => none
  | .svcUnassigned _ => none
  | .telemetryLogDrain _ _ => none
  | .counterWrap _ => none
  | .watchInstalled => none
  | .vigil => none
  | .equinoxRelease _ => none
  | .barHeldArrival _ _ _ => none
  | .xlatFaultResolution _ _ => none
  | .writeExposure => none
  | .localStorePerformed _ => none
  | .tokenStorePerformed _ => none
  | .exportedStoreApply _ _ => none
  | .loadDataReturn _ => none
  | .poison => none
  | .integrity => none
  | .tfcMissFill => none
  | .atomicApply _ => none
  | .atomicResultReturn _ => none
  | .waitaRegister _ => none
  | .waitaTimeout => none
  | .localAtomicApply _ => none
  | .engineLaunchStart _ => none
  | .matrixComplete _ => none
  | .mwbComplete _ => none
  | .copyComplete _ => none
  | .collectiveComplete _ _ => none
  | .lanternComplete _ => none
  | .deferredReportDelivery => none
  | .pcSample => none
  | .ringDrain _ _ => none
  | .dispatchRound _ => none
  | .imageLoad _ => none
  | .tlimitExpiry _ => none
  | .preemptionRequest _ => none
  | .gangWithdraw _ => none
  | .contextSave => none
  | .contextRestore _ _ => none
  | .tasks _ _ _ => none
  | .replay _ _ _ => none
  | .queueCreate _ _ _ _ _ => none
  | .queueDestroy _ _ => none
  | .arm _ _ _ _ _ _ _ => none
  | .disarm _ _ => none
  | .fire _ _ _ => none
  | .graphDefine _ _ _ => none
  | .patch _ _ _ _ => none
  | .collectiveGroupCreate _ _ _ => none
  | .partitionCreate _ => none
  | .partitionTeardown _ _ => none
  | .journalAck => none
  | .uncorrectableErrorReport _ _ => none
  | .takeover => none
  | .jubileeSweep _ => none
  | .tokenInvalidate _ _ => none
  | .sweepAck _ _ => none
  | .sweepAbort _ _ => none
  | .sweepFree _ => none
  | .sealKeyRotation _ => none
  | .pageMove _ _ _ => none
  | .lenderReclaim _ _ _ => none
  | .grantClose _ _ _ => none
  | .grantOpen _ _ _ => none
  | .potChange _ _ _ _ => none
  | .remoteRequestArrival _ => none
  | .remoteRetransmit _ _ _ => none
  | .remoteRequestLost _ _ => none
  | .axtosTrainingStart _ => none
  | .axtosTrainingDone _ _ => none
  | .axtosKeysInstalled _ => none
  | .flitReceive _ _ _ _ _ => none
  | .linkRetry _ _ => none
  | .rekeyTimeout _ => none
  | .spdmSession _ _ _ => none
  | .jobKeyGrant _ _ => none
  | .jobKeyWithdraw _ _ => none
  | .uetConnectionSetup _ _ => none
  | .ptpLock _ => none
  | .ptpSourceLoss => none
  | .samplecfgWrite _ _ => none
  | .debugRequest _ _ => none
  | .scheduleStopArm _ _ => none
  | .scheduleCycleStop => none
  | .stopResume _ => none
  | .liveDump _ => none
  | .firmwareImage _ => none
  | .transfer _ => none
  | .enrol _ => none
  | .thermalStop _ _ => none
  | .thermalResume _ => none
  | .thermalTrip _ _ => none
  | .powerOn _ => none
  | .moduleReset _ => none
  | .recovery _ => none
  | .ptpSourceRegained => none
  | .rekeyComplete _ => none
  | .reclaimCompletion _ _ _ => none
  | .cumulativeAcknowledgement _ _ _ _ => none
  | .reservedEncoding _ => none
  | .reservedEngineWord _ => none

/-- The word of an instruction as a number, 0 for events. -/
def encode (i : Instr) : Nat :=
  match encodeWord i with
  | some w => w.toNat
  | none => match encodeEngineWord i with
    | some w => w.toNat
    | none => 0

/-- The instruction a word of major Alu names (R190). -/
def candAlu (w : BitVec 32) : Option Instr :=
  match (w.extractLsb' 27 5).toNat with
  | 0 => some (.add (w.extractLsb' 7 5) (w.extractLsb' 12 5) (w.extractLsb' 17 5))
  | 1 => some (.sub (w.extractLsb' 7 5) (w.extractLsb' 12 5) (w.extractLsb' 17 5))
  | 2 => some (.and (w.extractLsb' 7 5) (w.extractLsb' 12 5) (w.extractLsb' 17 5))
  | 3 => some (.or (w.extractLsb' 7 5) (w.extractLsb' 12 5) (w.extractLsb' 17 5))
  | 4 => some (.xor (w.extractLsb' 7 5) (w.extractLsb' 12 5) (w.extractLsb' 17 5))
  | 5 => some (.andn (w.extractLsb' 7 5) (w.extractLsb' 12 5) (w.extractLsb' 17 5))
  | 6 => some (.orn (w.extractLsb' 7 5) (w.extractLsb' 12 5) (w.extractLsb' 17 5))
  | 7 => some (.xnor (w.extractLsb' 7 5) (w.extractLsb' 12 5) (w.extractLsb' 17 5))
  | 8 => some (.sll (w.extractLsb' 7 5) (w.extractLsb' 12 5) (w.extractLsb' 17 5))
  | 9 => some (.srl (w.extractLsb' 7 5) (w.extractLsb' 12 5) (w.extractLsb' 17 5))
  | 10 => some (.sra (w.extractLsb' 7 5) (w.extractLsb' 12 5) (w.extractLsb' 17 5))
  | 11 => some (.rol (w.extractLsb' 7 5) (w.extractLsb' 12 5) (w.extractLsb' 17 5))
  | 12 => some (.ror (w.extractLsb' 7 5) (w.extractLsb' 12 5) (w.extractLsb' 17 5))
  | 13 => some (.mul (w.extractLsb' 7 5) (w.extractLsb' 12 5) (w.extractLsb' 17 5))
  | 14 => some (.mulh (w.extractLsb' 7 5) (w.extractLsb' 12 5) (w.extractLsb' 17 5))
  | 15 => some (.mulhu (w.extractLsb' 7 5) (w.extractLsb' 12 5) (w.extractLsb' 17 5))
  | 16 => some (.div (w.extractLsb' 7 5) (w.extractLsb' 12 5) (w.extractLsb' 17 5))
  | 17 => some (.divu (w.extractLsb' 7 5) (w.extractLsb' 12 5) (w.extractLsb' 17 5))
  | 18 => some (.rem (w.extractLsb' 7 5) (w.extractLsb' 12 5) (w.extractLsb' 17 5))
  | 19 => some (.remu (w.extractLsb' 7 5) (w.extractLsb' 12 5) (w.extractLsb' 17 5))
  | 20 => some (.min (w.extractLsb' 7 5) (w.extractLsb' 12 5) (w.extractLsb' 17 5))
  | 21 => some (.max (w.extractLsb' 7 5) (w.extractLsb' 12 5) (w.extractLsb' 17 5))
  | 22 => some (.minu (w.extractLsb' 7 5) (w.extractLsb' 12 5) (w.extractLsb' 17 5))
  | 23 => some (.maxu (w.extractLsb' 7 5) (w.extractLsb' 12 5) (w.extractLsb' 17 5))
  | 24 => some (.clz (w.extractLsb' 7 5) (w.extractLsb' 12 5))
  | 25 => some (.ctz (w.extractLsb' 7 5) (w.extractLsb' 12 5))
  | 26 => some (.popc (w.extractLsb' 7 5) (w.extractLsb' 12 5))
  | 27 => some (.bswap (w.extractLsb' 7 5) (w.extractLsb' 12 5))
  | 28 => some (.brev (w.extractLsb' 7 5) (w.extractLsb' 12 5))
  | 29 => some (.sel (w.extractLsb' 7 5) (w.extractLsb' 12 5) (w.extractLsb' 17 5))
  | _ => none

/-- The instruction a word of major AluI names (R191). -/
def candAluI (w : BitVec 32) : Option Instr :=
  match (w.extractLsb' 17 3).toNat with
  | 0 => some (.addi (w.extractLsb' 7 5) (w.extractLsb' 12 5) (w.extractLsb' 20 12))
  | 1 => some (.andi (w.extractLsb' 7 5) (w.extractLsb' 12 5) (w.extractLsb' 20 12))
  | 2 => some (.ori (w.extractLsb' 7 5) (w.extractLsb' 12 5) (w.extractLsb' 20 12))
  | 3 => some (.xori (w.extractLsb' 7 5) (w.extractLsb' 12 5) (w.extractLsb' 20 12))
  | 4 => some (.slli (w.extractLsb' 7 5) (w.extractLsb' 12 5) (w.extractLsb' 20 6))
  | 5 => some (.srli (w.extractLsb' 7 5) (w.extractLsb' 12 5) (w.extractLsb' 20 6))
  | 6 => some (.srai (w.extractLsb' 7 5) (w.extractLsb' 12 5) (w.extractLsb' 20 6))
  | 7 => some (.rori (w.extractLsb' 7 5) (w.extractLsb' 12 5) (w.extractLsb' 20 6))
  | _ => none

/-- The instruction a word of major Fun names (R191). -/
def candFun (w : BitVec 32) : Option Instr :=
  match (w.extractLsb' 28 4).toNat with
  | 0 => some (.fsl (w.extractLsb' 7 5) (w.extractLsb' 12 5) (w.extractLsb' 17 5) (w.extractLsb' 22 6))
  | 1 => some (.fsr (w.extractLsb' 7 5) (w.extractLsb' 12 5) (w.extractLsb' 17 5) (w.extractLsb' 22 6))
  | _ => none

/-- The instruction a word of major Cmp names (R192). -/
def candCmp (w : BitVec 32) : Option Instr :=
  match (w.extractLsb' 27 5).toNat with
  | 0 => some (.cmpEq (w.extractLsb' 12 5) (w.extractLsb' 17 5))
  | 1 => some (.cmpNe (w.extractLsb' 12 5) (w.extractLsb' 17 5))
  | 2 => some (.cmpLt (w.extractLsb' 12 5) (w.extractLsb' 17 5))
  | 3 => some (.cmpGe (w.extractLsb' 12 5) (w.extractLsb' 17 5))
  | 4 => some (.cmpLtu (w.extractLsb' 12 5) (w.extractLsb' 17 5))
  | 5 => some (.cmpGeu (w.extractLsb' 12 5) (w.extractLsb' 17 5))
  | 6 => some (.tst (w.extractLsb' 12 5) (w.extractLsb' 17 5))
  | _ => none

/-- The instruction a word of major CmpI names (R192). -/
def candCmpI (w : BitVec 32) : Option Instr :=
  match (w.extractLsb' 17 3).toNat with
  | 0 => some (.cmpiEq (w.extractLsb' 12 5) (w.extractLsb' 20 12))
  | 1 => some (.cmpiNe (w.extractLsb' 12 5) (w.extractLsb' 20 12))
  | 2 => some (.cmpiLt (w.extractLsb' 12 5) (w.extractLsb' 20 12))
  | 3 => some (.cmpiGe (w.extractLsb' 12 5) (w.extractLsb' 20 12))
  | 4 => some (.cmpiLtu (w.extractLsb' 12 5) (w.extractLsb' 20 12))
  | 5 => some (.cmpiGeu (w.extractLsb' 12 5) (w.extractLsb' 20 12))
  | 6 => some (.tsti (w.extractLsb' 12 5) (w.extractLsb' 20 12))
  | _ => none

/-- The instruction a word of major Ctl names (R193). -/
def candCtl (w : BitVec 32) : Option Instr :=
  match (w.extractLsb' 27 5).toNat with
  | 0 => some (.br (w.extractLsb' 12 2))
  | 1 => some (.bz (w.extractLsb' 12 2))
  | 2 => some (.call (w.extractLsb' 12 2))
  | 3 => some (.ret (w.extractLsb' 7 2))
  | 4 => some (.ptr (w.extractLsb' 7 2) (w.extractLsb' 12 5))
  | 5 => some (.mfb (w.extractLsb' 7 5) (w.extractLsb' 12 2))
  | 6 => some (.mtl (w.extractLsb' 12 5) (w.extractLsb' 22 2))
  | 7 => some (.mfl (w.extractLsb' 7 5) (w.extractLsb' 22 2))
  | 8 => some (.loopPush)
  | 9 => some (.loopPop)
  | 10 => some (.mfbc (w.extractLsb' 7 5))
  | 11 => some (.mtbc (w.extractLsb' 12 5))
  | _ => none

/-- The instruction a word of major Loop names (R189). -/
def candLoop (w : BitVec 32) : Option Instr :=
  match (w.extractLsb' 17 3).toNat with
  | 0 => some (.loop (w.extractLsb' 12 5) (w.extractLsb' 20 12))
  | _ => none

/-- The instruction a word of major Sys names (R194). -/
def candSys (w : BitVec 32) : Option Instr :=
  match (w.extractLsb' 27 5).toNat with
  | 0 => some (.endOp)
  | 1 => some (.eret)
  | 2 => some (.trap (w.extractLsb' 22 5))
  | 3 => some (.svc (w.extractLsb' 22 5))
  | 4 => some (.mfc (w.extractLsb' 7 5) (w.extractLsb' 17 5) (w.extractLsb' 22 5))
  | 5 => if w.extractLsb' 22 5 = 1 ∧ w.extractLsb' 21 1 = 0 then some (.ctrSel (w.extractLsb' 12 5) (w.extractLsb' 17 4)) else some (.mtc (w.extractLsb' 12 5) (w.extractLsb' 17 5) (w.extractLsb' 22 5))
  | _ => none

/-- The instruction a word of major Sync names (R195). -/
def candSync (w : BitVec 32) : Option Instr :=
  match (w.extractLsb' 27 5).toNat with
  | 0 => some (.sync)
  | 1 => some (.alignEquinox)
  | 3 => some (.tagWany (w.extractLsb' 12 5))
  | 4 => some (.tagWall (w.extractLsb' 12 5))
  | 5 => some (.tagFfr (w.extractLsb' 7 5) (w.extractLsb' 12 5))
  | 6 => some (.tagClr (w.extractLsb' 12 5))
  | 7 => some (.barArrive (w.extractLsb' 7 5) (w.extractLsb' 22 5))
  | 8 => some (.barDrop (w.extractLsb' 7 5) (w.extractLsb' 22 5))
  | 9 => some (.barWait (w.extractLsb' 12 5) (w.extractLsb' 22 5))
  | 2 => match (w.extractLsb' 22 5).toNat with
    | 0 => some .fenceCo
    | 1 => some .fenceCl
    | 2 => some .fenceDi
    | 3 => some .fencePk
    | 4 => some .fenceDm
    | _ => none
  | _ => none

/-- The instruction a word of major Enq names (R195). -/
def candEnq (w : BitVec 32) : Option Instr :=
  match (w.extractLsb' 27 5).toNat with
  | 0 => some (.enqM (w.extractLsb' 12 5))
  | 1 => some (.enqC (w.extractLsb' 12 5))
  | 2 => some (.enqL (w.extractLsb' 12 5))
  | 3 => some (.fmtq (w.extractLsb' 12 5))
  | _ => none

/-- The instruction a word of major Tok names (R44). -/
def candTok (w : BitVec 32) : Option Instr :=
  match (w.extractLsb' 27 5).toNat with
  | 0 => some (.xlat (w.extractLsb' 7 4) (w.extractLsb' 12 5) (w.extractLsb' 17 5) (w.extractLsb' 22 2))
  | 1 => some (.kinfo (w.extractLsb' 7 5) (w.extractLsb' 12 4) (w.extractLsb' 22 5))
  | 2 => some (.kmov (w.extractLsb' 7 4) (w.extractLsb' 12 4))
  | 3 => some (.ksub (w.extractLsb' 7 4) (w.extractLsb' 12 4) (w.extractLsb' 17 5) (w.extractLsb' 22 5))
  | 4 => some (.kst (w.extractLsb' 7 4) (w.extractLsb' 12 4) (w.extractLsb' 17 5))
  | 5 => some (.kstL (w.extractLsb' 7 4) (w.extractLsb' 17 5) (w.extractLsb' 22 5))
  | 6 => some (.kld (w.extractLsb' 7 4) (w.extractLsb' 12 4) (w.extractLsb' 17 5))
  | 7 => some (.kldL (w.extractLsb' 7 4) (w.extractLsb' 17 5) (w.extractLsb' 22 5))
  | 8 => some (.kclr (w.extractLsb' 7 4))
  | 9 => some (.krel (w.extractLsb' 12 4))
  | _ => none

/-- The instruction a word of major Amo names (R117, R119). -/
def candAmo (w : BitVec 32) : Option Instr :=
  match (w.extractLsb' 28 4).toNat with
  | 0 => some (.amoAdd (w.extractLsb' 6 1) (w.extractLsb' 7 4) (w.extractLsb' 11 4) (w.extractLsb' 15 4) (w.extractLsb' 19 4) (w.extractLsb' 23 3) (w.extractLsb' 26 2))
  | 1 => some (.amoAnd (w.extractLsb' 6 1) (w.extractLsb' 7 4) (w.extractLsb' 11 4) (w.extractLsb' 15 4) (w.extractLsb' 19 4) (w.extractLsb' 23 3) (w.extractLsb' 26 2))
  | 2 => some (.amoOr (w.extractLsb' 6 1) (w.extractLsb' 7 4) (w.extractLsb' 11 4) (w.extractLsb' 15 4) (w.extractLsb' 19 4) (w.extractLsb' 23 3) (w.extractLsb' 26 2))
  | 3 => some (.amoXor (w.extractLsb' 6 1) (w.extractLsb' 7 4) (w.extractLsb' 11 4) (w.extractLsb' 15 4) (w.extractLsb' 19 4) (w.extractLsb' 23 3) (w.extractLsb' 26 2))
  | 4 => some (.amoMin (w.extractLsb' 6 1) (w.extractLsb' 7 4) (w.extractLsb' 11 4) (w.extractLsb' 15 4) (w.extractLsb' 19 4) (w.extractLsb' 23 3) (w.extractLsb' 26 2))
  | 5 => some (.amoMax (w.extractLsb' 6 1) (w.extractLsb' 7 4) (w.extractLsb' 11 4) (w.extractLsb' 15 4) (w.extractLsb' 19 4) (w.extractLsb' 23 3) (w.extractLsb' 26 2))
  | 6 => some (.amoMinu (w.extractLsb' 6 1) (w.extractLsb' 7 4) (w.extractLsb' 11 4) (w.extractLsb' 15 4) (w.extractLsb' 19 4) (w.extractLsb' 23 3) (w.extractLsb' 26 2))
  | 7 => some (.amoMaxu (w.extractLsb' 6 1) (w.extractLsb' 7 4) (w.extractLsb' 11 4) (w.extractLsb' 15 4) (w.extractLsb' 19 4) (w.extractLsb' 23 3) (w.extractLsb' 26 2))
  | 8 => some (.amoSwap (w.extractLsb' 6 1) (w.extractLsb' 7 4) (w.extractLsb' 11 4) (w.extractLsb' 15 4) (w.extractLsb' 19 4) (w.extractLsb' 23 3) (w.extractLsb' 26 2))
  | 9 => some (.amoCas (w.extractLsb' 6 1) (w.extractLsb' 7 4) (w.extractLsb' 11 4) (w.extractLsb' 15 4) (w.extractLsb' 19 4) (w.extractLsb' 23 3) (w.extractLsb' 26 2))
  | 10 => some (.amoFadd (w.extractLsb' 7 4) (w.extractLsb' 11 4) (w.extractLsb' 15 4) (w.extractLsb' 19 4) (w.extractLsb' 23 3) (w.extractLsb' 26 2))
  | 11 => some (.amoAddt (w.extractLsb' 6 1) (w.extractLsb' 7 4) (w.extractLsb' 11 4) (w.extractLsb' 15 4) (w.extractLsb' 19 4) (w.extractLsb' 23 3) (w.extractLsb' 26 2))
  | 12 => some (.waita (w.extractLsb' 6 1) (w.extractLsb' 7 4) (w.extractLsb' 11 4) (w.extractLsb' 15 4) (w.extractLsb' 19 4) (w.extractLsb' 23 3))
  | _ => none

/-- The instruction a word of major Lamo names (R118, R119). -/
def candLamo (w : BitVec 32) : Option Instr :=
  match (w.extractLsb' 28 4).toNat with
  | 0 => some (.lamoAdd (w.extractLsb' 6 1) (w.extractLsb' 7 4) (w.extractLsb' 11 4) (w.extractLsb' 15 4) (w.extractLsb' 19 4) (w.extractLsb' 26 2))
  | 1 => some (.lamoAnd (w.extractLsb' 6 1) (w.extractLsb' 7 4) (w.extractLsb' 11 4) (w.extractLsb' 15 4) (w.extractLsb' 19 4) (w.extractLsb' 26 2))
  | 2 => some (.lamoOr (w.extractLsb' 6 1) (w.extractLsb' 7 4) (w.extractLsb' 11 4) (w.extractLsb' 15 4) (w.extractLsb' 19 4) (w.extractLsb' 26 2))
  | 3 => some (.lamoXor (w.extractLsb' 6 1) (w.extractLsb' 7 4) (w.extractLsb' 11 4) (w.extractLsb' 15 4) (w.extractLsb' 19 4) (w.extractLsb' 26 2))
  | 4 => some (.lamoMin (w.extractLsb' 6 1) (w.extractLsb' 7 4) (w.extractLsb' 11 4) (w.extractLsb' 15 4) (w.extractLsb' 19 4) (w.extractLsb' 26 2))
  | 5 => some (.lamoMax (w.extractLsb' 6 1) (w.extractLsb' 7 4) (w.extractLsb' 11 4) (w.extractLsb' 15 4) (w.extractLsb' 19 4) (w.extractLsb' 26 2))
  | 6 => some (.lamoMinu (w.extractLsb' 6 1) (w.extractLsb' 7 4) (w.extractLsb' 11 4) (w.extractLsb' 15 4) (w.extractLsb' 19 4) (w.extractLsb' 26 2))
  | 7 => some (.lamoMaxu (w.extractLsb' 6 1) (w.extractLsb' 7 4) (w.extractLsb' 11 4) (w.extractLsb' 15 4) (w.extractLsb' 19 4) (w.extractLsb' 26 2))
  | 8 => some (.lamoSwap (w.extractLsb' 6 1) (w.extractLsb' 7 4) (w.extractLsb' 11 4) (w.extractLsb' 15 4) (w.extractLsb' 19 4) (w.extractLsb' 26 2))
  | 9 => some (.lamoCas (w.extractLsb' 6 1) (w.extractLsb' 7 4) (w.extractLsb' 11 4) (w.extractLsb' 15 4) (w.extractLsb' 19 4) (w.extractLsb' 26 2))
  | 10 => some (.lamoFadd (w.extractLsb' 7 4) (w.extractLsb' 11 4) (w.extractLsb' 15 4) (w.extractLsb' 19 4) (w.extractLsb' 26 2))
  | _ => none

/-- The instruction a word of major VInt names (R196). -/
def candVInt (w : BitVec 32) : Option Instr :=
  match (w.extractLsb' 26 6).toNat with
  | 0 => some (.vaddI32 (w.extractLsb' 7 4) (w.extractLsb' 11 4) (w.extractLsb' 15 4) (w.extractLsb' 23 3))
  | 1 => some (.vsubI32 (w.extractLsb' 7 4) (w.extractLsb' 11 4) (w.extractLsb' 15 4) (w.extractLsb' 23 3))
  | 2 => some (.vmulI32 (w.extractLsb' 7 4) (w.extractLsb' 11 4) (w.extractLsb' 15 4) (w.extractLsb' 23 3))
  | 3 => some (.vmulhI32 (w.extractLsb' 7 4) (w.extractLsb' 11 4) (w.extractLsb' 15 4) (w.extractLsb' 23 3))
  | 4 => some (.vmulhU32 (w.extractLsb' 7 4) (w.extractLsb' 11 4) (w.extractLsb' 15 4) (w.extractLsb' 23 3))
  | 5 => some (.vminI32 (w.extractLsb' 7 4) (w.extractLsb' 11 4) (w.extractLsb' 15 4) (w.extractLsb' 23 3))
  | 6 => some (.vmaxI32 (w.extractLsb' 7 4) (w.extractLsb' 11 4) (w.extractLsb' 15 4) (w.extractLsb' 23 3))
  | 7 => some (.vminU32 (w.extractLsb' 7 4) (w.extractLsb' 11 4) (w.extractLsb' 15 4) (w.extractLsb' 23 3))
  | 8 => some (.vmaxU32 (w.extractLsb' 7 4) (w.extractLsb' 11 4) (w.extractLsb' 15 4) (w.extractLsb' 23 3))
  | 9 => some (.vaddsI32 (w.extractLsb' 7 4) (w.extractLsb' 11 4) (w.extractLsb' 15 4) (w.extractLsb' 23 3))
  | 10 => some (.vsubsI32 (w.extractLsb' 7 4) (w.extractLsb' 11 4) (w.extractLsb' 15 4) (w.extractLsb' 23 3))
  | 11 => some (.vabsI32 (w.extractLsb' 7 4) (w.extractLsb' 11 4) (w.extractLsb' 23 3))
  | 12 => some (.vnegI32 (w.extractLsb' 7 4) (w.extractLsb' 11 4) (w.extractLsb' 23 3))
  | 13 => some (.vand (w.extractLsb' 7 4) (w.extractLsb' 11 4) (w.extractLsb' 15 4) (w.extractLsb' 23 3))
  | 14 => some (.vor (w.extractLsb' 7 4) (w.extractLsb' 11 4) (w.extractLsb' 15 4) (w.extractLsb' 23 3))
  | 15 => some (.vxor (w.extractLsb' 7 4) (w.extractLsb' 11 4) (w.extractLsb' 15 4) (w.extractLsb' 23 3))
  | 16 => some (.vandn (w.extractLsb' 7 4) (w.extractLsb' 11 4) (w.extractLsb' 15 4) (w.extractLsb' 23 3))
  | 17 => some (.vsll (w.extractLsb' 7 4) (w.extractLsb' 11 4) (w.extractLsb' 15 4) (w.extractLsb' 23 3))
  | 18 => some (.vsrl (w.extractLsb' 7 4) (w.extractLsb' 11 4) (w.extractLsb' 15 4) (w.extractLsb' 23 3))
  | 19 => some (.vsra (w.extractLsb' 7 4) (w.extractLsb' 11 4) (w.extractLsb' 15 4) (w.extractLsb' 23 3))
  | 20 => some (.vmov (w.extractLsb' 7 4) (w.extractLsb' 11 4) (w.extractLsb' 23 3))
  | 21 => some (.vsel (w.extractLsb' 7 4) (w.extractLsb' 11 4) (w.extractLsb' 15 4) (w.extractLsb' 23 3))
  | 22 => some (.vclz (w.extractLsb' 7 4) (w.extractLsb' 11 4) (w.extractLsb' 23 3))
  | 23 => some (.vpopc (w.extractLsb' 7 4) (w.extractLsb' 11 4) (w.extractLsb' 23 3))
  | _ => none

/-- The instruction a word of major VFp names (R197). -/
def candVFp (w : BitVec 32) : Option Instr :=
  match (w.extractLsb' 26 3).toNat with
  | 0 => some (.vaddF32 (w.extractLsb' 7 4) (w.extractLsb' 11 4) (w.extractLsb' 15 4) (w.extractLsb' 23 3) (w.extractLsb' 29 3))
  | 1 => some (.vsubF32 (w.extractLsb' 7 4) (w.extractLsb' 11 4) (w.extractLsb' 15 4) (w.extractLsb' 23 3) (w.extractLsb' 29 3))
  | 2 => some (.vmulF32 (w.extractLsb' 7 4) (w.extractLsb' 11 4) (w.extractLsb' 15 4) (w.extractLsb' 23 3) (w.extractLsb' 29 3))
  | 3 => some (.vfmaF32 (w.extractLsb' 7 4) (w.extractLsb' 11 4) (w.extractLsb' 15 4) (w.extractLsb' 19 4) (w.extractLsb' 23 3) (w.extractLsb' 29 3))
  | 4 => some (.vminF32 (w.extractLsb' 7 4) (w.extractLsb' 11 4) (w.extractLsb' 15 4) (w.extractLsb' 23 3))
  | 5 => some (.vmaxF32 (w.extractLsb' 7 4) (w.extractLsb' 11 4) (w.extractLsb' 15 4) (w.extractLsb' 23 3))
  | 6 => some (.vabsF32 (w.extractLsb' 7 4) (w.extractLsb' 11 4) (w.extractLsb' 23 3))
  | 7 => some (.vnegF32 (w.extractLsb' 7 4) (w.extractLsb' 11 4) (w.extractLsb' 23 3))
  | _ => none

/-- The instruction a word of major VCvt names (R197). -/
def candVCvt (w : BitVec 32) : Option Instr :=
  match (w.extractLsb' 26 3).toNat with
  | 0 => some (.vcvtNarrow (w.extractLsb' 7 4) (w.extractLsb' 11 4) (w.extractLsb' 19 4) (w.extractLsb' 23 3) (w.extractLsb' 29 3))
  | 1 => some (.vcvtWiden (w.extractLsb' 7 4) (w.extractLsb' 11 4) (w.extractLsb' 19 4) (w.extractLsb' 23 3))
  | 2 => some (.vcvtI32F32 (w.extractLsb' 7 4) (w.extractLsb' 11 4) (w.extractLsb' 23 3) (w.extractLsb' 29 3))
  | 3 => some (.vcvtF32I32 (w.extractLsb' 7 4) (w.extractLsb' 11 4) (w.extractLsb' 23 3) (w.extractLsb' 29 3))
  | 4 => some (.vcvtsNarrow (w.extractLsb' 7 4) (w.extractLsb' 11 4) (w.extractLsb' 19 4) (w.extractLsb' 23 3) (w.extractLsb' 29 3))
  | _ => none

/-- The instruction a word of major VAx names (R198). -/
def candVAx (w : BitVec 32) : Option Instr :=
  match (w.extractLsb' 26 6).toNat with
  | 0 => some (.vsumRa (w.extractLsb' 7 4) (w.extractLsb' 11 4) (w.extractLsb' 19 2))
  | 1 => some (.vsumCa (w.extractLsb' 7 4) (w.extractLsb' 11 4) (w.extractLsb' 19 2))
  | 2 => some (.vmaxRa (w.extractLsb' 7 4) (w.extractLsb' 11 4) (w.extractLsb' 19 2))
  | 3 => some (.vmaxCa (w.extractLsb' 7 4) (w.extractLsb' 11 4) (w.extractLsb' 19 2))
  | 4 => some (.vminRa (w.extractLsb' 7 4) (w.extractLsb' 11 4) (w.extractLsb' 19 2))
  | 5 => some (.vminCa (w.extractLsb' 7 4) (w.extractLsb' 11 4) (w.extractLsb' 19 2))
  | 6 => some (.vrotRa (w.extractLsb' 7 4) (w.extractLsb' 11 4) (w.extractLsb' 19 6))
  | 7 => some (.vrotCa (w.extractLsb' 7 4) (w.extractLsb' 11 4) (w.extractLsb' 19 4))
  | 8 => some (.vbrow (w.extractLsb' 7 4) (w.extractLsb' 11 4) (w.extractLsb' 19 4))
  | 9 => some (.vbcol (w.extractLsb' 7 4) (w.extractLsb' 11 4) (w.extractLsb' 19 6))
  | 10 => some (.vidxR (w.extractLsb' 7 4))
  | 11 => some (.vidxC (w.extractLsb' 7 4))
  | 12 => some (.vext (w.extractLsb' 7 4) (w.extractLsb' 11 4) (w.extractLsb' 15 4) (w.extractLsb' 19 6))
  | 13 => some (.vins (w.extractLsb' 7 4) (w.extractLsb' 11 4) (w.extractLsb' 15 4) (w.extractLsb' 19 6))
  | 14 => some (.vbcast (w.extractLsb' 7 4) (w.extractLsb' 11 4))
  | _ => none

/-- The instruction a word of major VPred names (R199). -/
def candVPred (w : BitVec 32) : Option Instr :=
  match (w.extractLsb' 26 6).toNat with
  | 24 => some (.pand (w.extractLsb' 7 3) (w.extractLsb' 11 3) (w.extractLsb' 15 3))
  | 25 => some (.por (w.extractLsb' 7 3) (w.extractLsb' 11 3) (w.extractLsb' 15 3))
  | 26 => some (.pxor (w.extractLsb' 7 3) (w.extractLsb' 11 3) (w.extractLsb' 15 3))
  | 27 => some (.pandn (w.extractLsb' 7 3) (w.extractLsb' 11 3) (w.extractLsb' 15 3))
  | 28 => some (.pnot (w.extractLsb' 7 3) (w.extractLsb' 11 3))
  | 29 => some (.vany (w.extractLsb' 11 3))
  | 30 => some (.vall (w.extractLsb' 11 3))
  | 31 => some (.pcnt (w.extractLsb' 7 4) (w.extractLsb' 11 3))
  | 32 => some (.pmov (w.extractLsb' 7 3) (w.extractLsb' 11 3))
  | n => if n < 24 then some (.vcmp (w.extractLsb' 7 3) (w.extractLsb' 11 4) (w.extractLsb' 15 4) (w.extractLsb' 23 3) (w.extractLsb' 26 3) (w.extractLsb' 29 3)) else none

/-- The instruction a word of major VSf names (R199). -/
def candVSf (w : BitVec 32) : Option Instr :=
  match (w.extractLsb' 27 5).toNat with
  | 0 => some (.vrcp (w.extractLsb' 7 4) (w.extractLsb' 11 4) (w.extractLsb' 23 3) (w.extractLsb' 26 1))
  | 1 => some (.vrsqrt (w.extractLsb' 7 4) (w.extractLsb' 11 4) (w.extractLsb' 23 3) (w.extractLsb' 26 1))
  | 2 => some (.vsqrt (w.extractLsb' 7 4) (w.extractLsb' 11 4) (w.extractLsb' 23 3) (w.extractLsb' 26 1))
  | 3 => some (.vexp2 (w.extractLsb' 7 4) (w.extractLsb' 11 4) (w.extractLsb' 23 3) (w.extractLsb' 26 1))
  | 4 => some (.vlog2 (w.extractLsb' 7 4) (w.extractLsb' 11 4) (w.extractLsb' 23 3) (w.extractLsb' 26 1))
  | 5 => some (.vexp (w.extractLsb' 7 4) (w.extractLsb' 11 4) (w.extractLsb' 23 3) (w.extractLsb' 26 1))
  | 6 => some (.vtanh (w.extractLsb' 7 4) (w.extractLsb' 11 4) (w.extractLsb' 23 3) (w.extractLsb' 26 1))
  | 7 => some (.vsigm (w.extractLsb' 7 4) (w.extractLsb' 11 4) (w.extractLsb' 23 3) (w.extractLsb' 26 1))
  | 8 => some (.vsin (w.extractLsb' 7 4) (w.extractLsb' 11 4) (w.extractLsb' 23 3) (w.extractLsb' 26 1))
  | 9 => some (.vcos (w.extractLsb' 7 4) (w.extractLsb' 11 4) (w.extractLsb' 23 3) (w.extractLsb' 26 1))
  | 10 => some (.verf (w.extractLsb' 7 4) (w.extractLsb' 11 4) (w.extractLsb' 23 3) (w.extractLsb' 26 1))
  | _ => none

/-- The instruction a word of major VQ names (R199). -/
def candVQ (w : BitVec 32) : Option Instr :=
  match (w.extractLsb' 26 6).toNat with
  | 0 => some (.cmpt (w.extractLsb' 11 4) (w.extractLsb' 15 4) (w.extractLsb' 19 2))
  | 1 => some (.vqnt (w.extractLsb' 7 4) (w.extractLsb' 11 4) (w.extractLsb' 15 2) (w.extractLsb' 19 4))
  | 2 => some (.vdqnt (w.extractLsb' 7 4) (w.extractLsb' 11 4) (w.extractLsb' 15 2) (w.extractLsb' 19 4))
  | _ => none

/-- The instruction a word of major VMem names (R199). -/
def candVMem (w : BitVec 32) : Option Instr :=
  match (w.extractLsb' 26 6).toNat with
  | 0 => some (.vld (w.extractLsb' 7 4) (w.extractLsb' 11 4) (w.extractLsb' 15 4) (w.extractLsb' 23 3))
  | 1 => some (.vst (w.extractLsb' 7 4) (w.extractLsb' 11 4) (w.extractLsb' 15 4) (w.extractLsb' 23 3))
  | 2 => some (.vldL (w.extractLsb' 7 4) (w.extractLsb' 11 4) (w.extractLsb' 23 3))
  | 3 => some (.vstL (w.extractLsb' 7 4) (w.extractLsb' 11 4) (w.extractLsb' 23 3))
  | _ => none

/-- The instruction the opcode map (R188) and the minor tables name for a word. -/
def candidate (w : BitVec 32) : Option Instr :=
  match (w.extractLsb' 0 7).toNat with
  | 1 => some (.ptg (w.extractLsb' 7 2) (w.extractLsb' 9 23))
  | 3 => some (.lut3 (w.extractLsb' 7 5) (w.extractLsb' 12 5) (w.extractLsb' 17 5) (w.extractLsb' 22 5) (w.extractLsb' 4 3 ++ w.extractLsb' 27 5))
  | 5 => candVInt w
  | 9 => some (.ld (w.extractLsb' 7 5) (w.extractLsb' 12 4) (w.extractLsb' 17 5) (w.extractLsb' 24 3) (w.extractLsb' 27 2) (w.extractLsb' 29 1) (w.extractLsb' 30 2))
  | 13 => some (.lds (w.extractLsb' 4 2) (w.extractLsb' 7 5) (w.extractLsb' 12 5) (w.extractLsb' 17 1) (w.extractLsb' 19 2) (w.extractLsb' 21 11))
  | 14 => some (.yield (w.extractLsb' 7 9 ++ w.extractLsb' 4 3) (w.extractLsb' 16 16))
  | 15 => some (.movi (w.extractLsb' 7 5) (w.extractLsb' 12 17) (w.extractLsb' 4 3 ++ w.extractLsb' 29 3))
  | 16 => candAlu w
  | 17 => candCtl w
  | 19 => some (.lut3 (w.extractLsb' 7 5) (w.extractLsb' 12 5) (w.extractLsb' 17 5) (w.extractLsb' 22 5) (w.extractLsb' 4 3 ++ w.extractLsb' 27 5))
  | 21 => candVFp w
  | 25 => some (.st (w.extractLsb' 7 5) (w.extractLsb' 12 4) (w.extractLsb' 17 5) (w.extractLsb' 24 3) (w.extractLsb' 27 2) (w.extractLsb' 30 2))
  | 29 => some (.lds (w.extractLsb' 4 2) (w.extractLsb' 7 5) (w.extractLsb' 12 5) (w.extractLsb' 17 1) (w.extractLsb' 19 2) (w.extractLsb' 21 11))
  | 30 => some (.yield (w.extractLsb' 7 9 ++ w.extractLsb' 4 3) (w.extractLsb' 16 16))
  | 31 => some (.movi (w.extractLsb' 7 5) (w.extractLsb' 12 17) (w.extractLsb' 4 3 ++ w.extractLsb' 29 3))
  | 32 => candAluI w
  | 33 => candLoop w
  | 35 => some (.lut3 (w.extractLsb' 7 5) (w.extractLsb' 12 5) (w.extractLsb' 17 5) (w.extractLsb' 22 5) (w.extractLsb' 4 3 ++ w.extractLsb' 27 5))
  | 37 => candVCvt w
  | 43 => candTok w
  | 45 => some (.lds (w.extractLsb' 4 2) (w.extractLsb' 7 5) (w.extractLsb' 12 5) (w.extractLsb' 17 1) (w.extractLsb' 19 2) (w.extractLsb' 21 11))
  | 46 => some (.yield (w.extractLsb' 7 9 ++ w.extractLsb' 4 3) (w.extractLsb' 16 16))
  | 47 => some (.movi (w.extractLsb' 7 5) (w.extractLsb' 12 17) (w.extractLsb' 4 3 ++ w.extractLsb' 29 3))
  | 48 => candFun w
  | 49 => candSys w
  | 51 => some (.lut3 (w.extractLsb' 7 5) (w.extractLsb' 12 5) (w.extractLsb' 17 5) (w.extractLsb' 22 5) (w.extractLsb' 4 3 ++ w.extractLsb' 27 5))
  | 53 => candVAx w
  | 55 => candLamo w
  | 59 => candAmo w
  | 61 => some (.lds (w.extractLsb' 4 2) (w.extractLsb' 7 5) (w.extractLsb' 12 5) (w.extractLsb' 17 1) (w.extractLsb' 19 2) (w.extractLsb' 21 11))
  | 62 => some (.yield (w.extractLsb' 7 9 ++ w.extractLsb' 4 3) (w.extractLsb' 16 16))
  | 63 => some (.movi (w.extractLsb' 7 5) (w.extractLsb' 12 17) (w.extractLsb' 4 3 ++ w.extractLsb' 29 3))
  | 64 => candCmp w
  | 65 => candSync w
  | 67 => some (.lut3 (w.extractLsb' 7 5) (w.extractLsb' 12 5) (w.extractLsb' 17 5) (w.extractLsb' 22 5) (w.extractLsb' 4 3 ++ w.extractLsb' 27 5))
  | 69 => candVPred w
  | 77 => some (.sts (w.extractLsb' 4 2) (w.extractLsb' 7 5) (w.extractLsb' 12 5) (w.extractLsb' 19 2) (w.extractLsb' 21 11))
  | 78 => some (.yield (w.extractLsb' 7 9 ++ w.extractLsb' 4 3) (w.extractLsb' 16 16))
  | 79 => some (.movi (w.extractLsb' 7 5) (w.extractLsb' 12 17) (w.extractLsb' 4 3 ++ w.extractLsb' 29 3))
  | 80 => candCmpI w
  | 81 => candEnq w
  | 83 => some (.lut3 (w.extractLsb' 7 5) (w.extractLsb' 12 5) (w.extractLsb' 17 5) (w.extractLsb' 22 5) (w.extractLsb' 4 3 ++ w.extractLsb' 27 5))
  | 85 => candVSf w
  | 93 => some (.sts (w.extractLsb' 4 2) (w.extractLsb' 7 5) (w.extractLsb' 12 5) (w.extractLsb' 19 2) (w.extractLsb' 21 11))
  | 94 => some (.yield (w.extractLsb' 7 9 ++ w.extractLsb' 4 3) (w.extractLsb' 16 16))
  | 95 => some (.movi (w.extractLsb' 7 5) (w.extractLsb' 12 17) (w.extractLsb' 4 3 ++ w.extractLsb' 29 3))
  | 99 => some (.lut3 (w.extractLsb' 7 5) (w.extractLsb' 12 5) (w.extractLsb' 17 5) (w.extractLsb' 22 5) (w.extractLsb' 4 3 ++ w.extractLsb' 27 5))
  | 101 => candVQ w
  | 109 => some (.sts (w.extractLsb' 4 2) (w.extractLsb' 7 5) (w.extractLsb' 12 5) (w.extractLsb' 19 2) (w.extractLsb' 21 11))
  | 110 => some (.yield (w.extractLsb' 7 9 ++ w.extractLsb' 4 3) (w.extractLsb' 16 16))
  | 111 => some (.movi (w.extractLsb' 7 5) (w.extractLsb' 12 17) (w.extractLsb' 4 3 ++ w.extractLsb' 29 3))
  | 115 => some (.lut3 (w.extractLsb' 7 5) (w.extractLsb' 12 5) (w.extractLsb' 17 5) (w.extractLsb' 22 5) (w.extractLsb' 4 3 ++ w.extractLsb' 27 5))
  | 117 => candVMem w
  | 119 => candLamo w
  | 123 => candAmo w
  | 125 => some (.sts (w.extractLsb' 4 2) (w.extractLsb' 7 5) (w.extractLsb' 12 5) (w.extractLsb' 19 2) (w.extractLsb' 21 11))
  | 126 => some (.yield (w.extractLsb' 7 9 ++ w.extractLsb' 4 3) (w.extractLsb' 16 16))
  | 127 => some (.movi (w.extractLsb' 7 5) (w.extractLsb' 12 17) (w.extractLsb' 4 3 ++ w.extractLsb' 29 3))
  | _ => none

/-- Why a word is refused (R200, R203). -/
inductive Reject where
  /-- Its opcode, minor, operation or engine is not listed. -/
  | reservedOpcode
  /-- It holds a reserved value or combination. -/
  | reservedValue
  /-- A reserved field or bit is not zero. -/
  | reservedField
  deriving DecidableEq, Repr

/-- The strand decoder (R200): decided from the word alone. -/
def decodeWord (w : BitVec 32) : Except Reject Instr :=
  match candidate w with
  | none => .error .reservedOpcode
  | some i =>
    if encodeWord i = some w then
      if i.wf then .ok i else .error .reservedValue
    else .error .reservedField

/-- The engine word a class, operation and modifier name (R202, R203). -/
def engineCandidate (w : BitVec 16) : Option Instr :=
  match (w.extractLsb' 14 2).toNat with
  | 0 => match (w.extractLsb' 8 6).toNat with
    | 0 => some (.nop)
    | 1 => some (.sval (w.extractLsb' 0 5))
    | 2 => some (.ktok (w.extractLsb' 0 4))
    | 3 => some (.atStamp)
    | 4 => some (.gate)
    | 5 => some (.dup)
    | 6 => some (.drop)
    | 7 => some (.swap)
    | _ => none
  | 1 => some (.lit (w.extractLsb' 0 14))
  | 2 => some (.litx (w.extractLsb' 0 14))
  | 3 => match (w.extractLsb' 8 6).toNat with
    | 0 => some (.mma (w.extractLsb' 0 1))
    | 1 => some (.mmaSp (w.extractLsb' 0 1))
    | 2 => some (.mwb (w.extractLsb' 0 1))
    | 16 => if w.extractLsb' 0 3 = 0 then some .copy1d else some (.copyNd (w.extractLsb' 0 3))
    | 17 => some (.gather (w.extractLsb' 0 3))
    | 18 => some (.scatter (w.extractLsb' 0 3))
    | 19 => some (.wbfill)
    | 20 => some (.collAr (w.extractLsb' 0 2) (w.extractLsb' 2 2))
    | 21 => some (.collRs (w.extractLsb' 0 2) (w.extractLsb' 2 2))
    | 22 => some (.collAg (w.extractLsb' 0 2))
    | 32 => some (.lrst)
    | 33 => some (.ldly)
    | 34 => some (.lwin)
    | 35 => if w.extractLsb' 0 1 = 0 then some .llaunchMin else some .llaunchMax
    | 36 => some (.lcapV)
    | 37 => some (.lcapO (w.extractLsb' 0 7))
    | _ => none
  | _ => none

/-- The engine decoder (R203). -/
def decodeEngineWord (w : BitVec 16) : Except Reject Instr :=
  match engineCandidate w with
  | none => .error .reservedOpcode
  | some i =>
    if encodeEngineWord i = some w then
      if i.wf then .ok i else .error .reservedValue
    else .error .reservedField

/-- Little-endian bytes as a number (R5). -/
def bytesToNat : List Byte → Nat
  | [] => 0
  | b :: bs => b.toNat + 256 * bytesToNat bs

/-- A number as n little-endian bytes (R5). -/
def natToBytes : Nat → Nat → List Byte
  | 0, _ => []
  | n + 1, x => BitVec.ofNat 8 x :: natToBytes n (x / 256)

/-- The strand instruction in the first four bytes of a list, with the rest (R211, R5). -/
def decodeBytes : List Byte → Except Reject (Instr × List Byte)
  | b0 :: b1 :: b2 :: b3 :: rest =>
    match decodeWord (BitVec.ofNat 32 (bytesToNat [b0, b1, b2, b3])) with
    | .ok i => .ok (i, rest)
    | .error e => .error e
  | _ => .error .reservedOpcode

/-- The engine instruction in the first two bytes of a list, with the rest (R202, R5). -/
def decodeEngineBytes : List Byte → Except Reject (Instr × List Byte)
  | b0 :: b1 :: rest =>
    match decodeEngineWord (BitVec.ofNat 16 (bytesToNat [b0, b1])) with
    | .ok i => .ok (i, rest)
    | .error e => .error e
  | _ => .error .reservedOpcode

/-- What the decoder reads from an instruction of spec/opcode_table.json: strand rows have 32 bits,
engine rows 16. -/
def decodeTableWord (nbits w : Nat) : Option Instr :=
  if nbits ≤ 16 then
    match decodeEngineBytes (natToBytes 2 w) with
    | .ok (i, _) => some i
    | .error _ => none
  else
    match decodeBytes (natToBytes 4 w) with
    | .ok (i, _) => some i
    | .error _ => none

end Sys2Proof
end

