-- ==== Sys2Proof/Machine/State.lean ====
section
/-! DEFINITION. The state of the package as plain data, the reasons a step can stop, and the state after
bring-up (21 R429). Registers follow 09 R183 and 10 R234. -/

namespace Sys2Proof.Machine

/-- A sparse table: keys strictly rising, one value a key. -/
abbrev SMap (α : Type) := List (Nat × α)
/-- Byte memory: addresses strictly rising, no listed byte 0; an unlisted byte reads 0 (R28, R382, R429). -/
abbrev Memory := List Host.Cell

/-- Why a run stops. -/
inductive Fault where
  /-- Raised by an access whose Almanac entry names a frame outside main memory, an address the physical
  map does not decode (02 R32). Safe: firmware never gives such a frame out. -/
  | notDecoded (addr : Nat)
  deriving DecidableEq, Repr

/-- Why a step is refused. -/
inductive Refusal where
  /-- An instruction without a meaning, by its mnemonic. Safe: nothing is claimed of it. -/
  | notModelled (mnemonic : String)
  deriving DecidableEq, Repr

/-- The 128-bit token image, field by field (03 R36). -/
structure Token where
  vbase : BitVec 56
  lenm1 : BitVec 32
  index : BitVec 20
  gen : BitVec 12
  part : BitVec 6
  rights : BitVec 2
  deriving DecidableEq, Repr

/-- The zero token of reset and `kclr` (R36). -/
def Token.zero : Token := ⟨0, 0, 0, 0, 0, 0⟩

/-- A vector register: element (r, c) is entry 64r + c (09 R183). -/
abbrev VReg := Vector (BitVec 32) 1024
/-- A predicate register: bit 64r + c governs element (r, c) (R183). -/
abbrev PReg := BitVec 1024

/-- Registers whose results interlock (09 R209). -/
inductive Reg where
  | s (n : Nat) | v (n : Nat) | p (n : Nat) | k (n : Nat) | b (n : Nat) | bc | loopRegs
  deriving DecidableEq, Repr

/-- Delay slots still to run (10 R222): how many, where control goes after them (none: on), and the
earliest cycle at which the target can issue (R225). -/
structure Slots where
  left : Nat
  target : Option (BitVec 32)
  earliest : Nat
  deriving DecidableEq, Repr

/-- A timed write on its way to a bank or slice (04 R68): exposure cycle, whether it goes to a lane slice
(address column·8192 + offset), the bytes, whether it was issued by the strand. -/
structure TimedWrite where
  expose : Nat
  lane : Bool
  cells : List Host.Cell
  strand : Bool
  deriving DecidableEq, Repr

/-- Where an untimed access goes (02 R21, 03 R38): main memory of this package, memory lent by another
package, a cluster's CSM (its eight parts in a row), a die's pool, the weight buffer, the own scratchpad (local
atomics). -/
inductive Space where
  | main | lent (pkg : Nat) | csm (cluster : Nat) | pool (die : Nat) | wb | own
  deriving DecidableEq, Repr

/-- What an outstanding access does when it is performed. -/
inductive AccKind where
  /-- A load of the bytes of `reads` into a register; `sext` sign-extends (R240, R245). -/
  | load (dst : Reg) (sext : Bool)
  /-- `kld`: unseal into a token register (R49). -/
  | kload (dst : Nat)
  /-- `vld` of an interlocked region under a guard (R248). -/
  | vload (dst : Nat) (guard : PReg)
  /-- A store: its parts are performed each on its own (R76). -/
  | store
  /-- An atomic: operation, destination (0: reduction), T and x of R119. -/
  | atomic (op : BitVec 4) (dst : Nat) (t x : Nat)
  /-- A `waita` registration: destination and threshold operand (R130). -/
  | waita (dst : Nat) (x : Nat)
  deriving DecidableEq, Repr

/-- How a `waita` ended (06 R130, R132): value, BC, END and SETTER of its wait record (19 R398, R399). -/
structure WaitEnd where
  value : BitVec 64
  bc : Bool
  ended : Nat
  setter : BitVec 32
  deriving DecidableEq, Repr

/-- How far an access has come; `answered` is a wait that has ended at its lender, whose reply has still to come (06 R128). -/
inductive AccStage where
  | waiting | applied (old : Nat) (num : Option (Nat × Nat)) | registered | answered (r : WaitEnd)
  deriving DecidableEq, Repr

/-- An outstanding access of a strand, in program order (05 R89-R93). `reads` are the address ranges it
still has to read, `got` what it has read, `parts` what it has still to write; `va` is VBASE + offset or
the local address (R360); `line` the number of the line that failed (18 R386); `way` the Axtos ports that the hash gave its one or two lines as it issued (17 R367), `port` and `port2` the ports on
which the requests for them went out, with their numbers (R127, R128), `arrived` the cycle at which it came to the bank, row or slice
where it waits to be served (R115). -/
structure Access where
  id : Nat
  kind : AccKind
  space : Space
  reads : List (Nat × Nat)
  got : List Host.Cell
  parts : List (List Host.Cell)
  n : Nat
  ord : BitVec 2
  scope : BitVec 3
  index : Option Nat
  va : Nat
  issued : Nat
  due : Nat
  stage : AccStage
  poisoned : Bool
  badMac : Bool
  line : Option Nat
  way : Option Nat × Option Nat
  port : Option (Nat × Nat)
  port2 : Option (Nat × Nat)
  arrived : Option Nat
  deriving DecidableEq, Repr

/-- A POISON or INTEGRITY report (16 R360); `cycle` is that of its event, which a later issue delivers (R243, R361); `line` is
the number of the line of main memory that failed (18 R386). -/
structure PoisonReport where
  cycle : Nat
  integrity : Bool
  src : BitVec 3
  reg : BitVec 5
  addr : BitVec 56
  line : Option Nat
  deriving DecidableEq, Repr

/-- An ENGINE or SCHEDMISS report (13 R299); `cycle` is that of the fault (R300). -/
structure EngineReport where
  cycle : Nat
  schedmiss : Bool
  eng : EngineId
  sub : BitVec 6
  widx : BitVec 24
  stamp : BitVec 32
  deriving DecidableEq, Repr

/-- A WATCH report (19 R410); `cycle` is the cycle of an engine's write, for SKID, or that on which an atomic's report comes to
its core (R412). -/
structure WatchReport where
  kind : BitVec 2
  wp : BitVec 1
  cycle : Nat
  src : BitVec 17
  hit : BitVec 16
  deriving DecidableEq, Repr

/-- A parameter-stack entry (09 R205). -/
inductive Entry where
  | int (x : BitVec 64) | tok (t : Token)
  deriving DecidableEq, Repr

/-- What a collective's launch is a release of (05 R97, R107): the strand's accesses of numbers below `acc`, its timed
writes, which have exposed by the cycle `clear`, and the stores it has made or seen. -/
structure Release where
  acc : Nat
  clear : Nat
  dep : List Nat
  msc : List Nat
  deriving DecidableEq, Repr

/-- An engine word with the value captured for it (R204), and what its `enq.c` comes after (R97). -/
structure EItem where
  word : BitVec 16
  cap : Option Entry
  rel : Release
  deriving DecidableEq, Repr

/-- A packet in an engine queue and the cycle from which it can be taken (R204, R294). -/
structure EPacket where
  items : List EItem
  ready : Nat
  deriving DecidableEq, Repr

/-- A pending start condition (R206, R296). -/
inductive Cond where
  | stamp (x : BitVec 64) | gate (mask : BitVec 64)
  deriving DecidableEq, Repr

/-- A place argument (13 R295). -/
inductive Place where
  | loc (a : Nat) | tok (t : Token) (off : Nat)
  deriving DecidableEq, Repr

/-- One dimension of a copy (13 R313). -/
structure Dim where
  count : Nat
  sstride : Int
  dstride : Int
  deriving DecidableEq, Repr

/-- Collective operations (13 R318). -/
inductive CollKind where
  | ar | rs | ag
  deriving DecidableEq, Repr

/-- A launch with its arguments (13 R304, R312, R318; 14 R327). -/
inductive LaunchKind where
  | mma (zero sparse : Bool) (tile k a b : Nat) (fmt : BitVec 64) (curve : Nat)
  | mwb (clr : Bool) (tile dst : Nat) (fmt : BitVec 64)
  | copy (size : Nat) (dims : List Dim) (src dst : Place)
  | gather (elog idx count : Nat) (src dst : Place)
  | scatter (elog idx count : Nat) (src dst : Place)
  | wbfill (count : Nat) (src : Place) (dst : Nat)
  | coll (kind : CollKind) (op dt group count : Nat) (src dst : Place)
  | lrst
  | ldly (n i0 src : Nat)
  | lwin (w : Nat)
  | llaunch (max : Bool) (row : Nat)
  | lcapV (dst : Nat)
  | lcapO (k dst : Nat)
  deriving DecidableEq, Repr

/-- A launch held at the head of its engine (R294): for a collective, what it is a release of and whether every hop of its
group was KEYED as it was dequeued, so that it runs in the network (17 R375). -/
structure Launch where
  kind : LaunchKind
  tag : Nat
  cond : Option Cond
  widx : BitVec 24
  deq : Nat
  rel : Release
  network : Bool
  deriving DecidableEq, Repr

/-- A started command (R306, R307, R317, R330): start cycle, next position in its work, cycle of that work, finish,
index bytes or line kinds read, writes issued and not yet performed (at addresses of its destination place), the tile
or rows it holds, whether some element was null or the command failed, the last store of its die it made, cycles lost
or a stage reached, a poison report to post with its tag (R361), and, while its next write is held at a bank of a CSM part, the
cycle it came there, the core and the row (R74). -/
structure Cmd where
  id : Nat
  launch : Launch
  start : Nat
  pos : Nat
  due : Nat
  doneAt : Option Nat
  idx : List Nat
  buf : List Host.Cell
  saved : List (BitVec 32)
  null : Bool
  exports : Nat
  shift : Nat
  poison : Option PoisonReport
  arrived : Option (Nat × Nat × Nat)
  deriving DecidableEq, Repr

/-- An engine of a core (R202-R207, R292-R301). -/
structure Engine where
  queue : List EPacket
  hand : List EItem
  stack : List Entry
  cond : Option Cond
  widx : BitVec 24
  held : Option Launch
  running : List Cmd
  report : Option EngineReport
  freeAt : Nat
  dequeued : Nat
  deriving DecidableEq, Repr

/-- A lock of a command on bytes of the own scratchpad or weight buffer (04 R74, 13 R311):
engine, command, byte ranges [lo, hi) in the local map. -/
structure Lock where
  eng : EngineId
  cmd : Nat
  ranges : List (Nat × Nat)
  deriving DecidableEq, Repr

/-- An accumulator tile: element (i, j) is entry 16i + j (13 R303). -/
abbrev Tile := Vector (BitVec 32) 128

/-- A curve: 17 breakpoints (08 R172). -/
abbrev Curve := List (Nat × Nat)

/-- The Lantern state (14 R322): delay cells by 128i + j, unlisted open (255); results by output, unlisted
NEVER; the order list; TW and the value of it that `mfc` still reads. -/
structure Lantern where
  delay : SMap (BitVec 8)
  tw : BitVec 11
  twOld : BitVec 11
  twSince : Nat
  result : SMap (BitVec 16)
  order : List Nat
  deriving DecidableEq, Repr

/-- A token-frame-cache entry (03 R39). -/
structure TfcEntry where
  index : Nat
  frame : Nat
  gen : BitVec 12
  active : Bool
  rights : BitVec 2
  mode : ProtMode
  deriving DecidableEq, Repr

/-- What the instruction at issue has done while it stalls. -/
inductive Waiting where
  | none
  /-- A fence or the fence of `sync`, `align`, `svc`: clocks every die must reach (05 R105). -/
  | fence (clock : List Nat)
  /-- `sync`, `align`: arrived at the instance numbered so; the crew rank of its last arriver once it is released (07 R141,
  19 R399). -/
  | equinox (n : Nat) (last : Option Nat)
  /-- `svc`: request sent, firmware due at a cycle; the reply when it has come (10 R230). -/
  | svc (due : Nat) (reply : Option (Option (BitVec 64) × BitVec 64))
  /-- `waita`: registration under way; the result when the wait has ended (06 R130). -/
  | waita (id : Nat) (result : Option WaitEnd)
  /-- `xlat`: fault given to F2 (03 R42): reason and address; whether F2 has delivered it. -/
  | xlat (reason : Nat) (addr : Nat) (deliver : Bool)
  /-- `mtc` of WPMASK: watch being installed, due at a cycle (19 R408). -/
  | install (due : Nat) (done : Bool)
  /-- A pre-empting `yield` or a live dump draining (07 R148, 19 R407). -/
  | drain
  /-- `bar.wait`: the message that the phase has completed comes at a cycle, and SETTER of its record (11 R262, 19 R399). -/
  | told (due : Nat) (setter : BitVec 32)
  /-- `cmpt`: reading rows until the cycle, then retiring (12 R288). -/
  | cmpt (rows : List Host.Cell) (next retireAt : Nat)
  /-- A multi-cycle stall until a cycle (06 R116, 03 R54). -/
  | until (cycle : Nat)
  /-- A stack instruction or `cmpt` that reads outside the own scratchpad: what it has read, and whether a row of it was poisoned
  (04 R70, 12 R288). -/
  | got (bytes : List Byte) (bad : Bool)
  deriving DecidableEq, Repr

/-- The context of a core: none, about to issue its first instruction, running, ended, or stopped by R405. -/
inductive Ctx where
  | idle | starting | running | ended | frozen
  deriving DecidableEq, Repr

/-- A row of the own scratchpad as a row read of the strand's fetch found it: its first byte, its bytes, the cycle of the
read, and the read slots it lost that have not yet delayed an issue (10 R212). -/
structure FetchRow where
  addr : Nat
  bytes : List Byte
  at' : Nat
  lost : Nat
  deriving DecidableEq, Repr

/-- A row read that is asked for and not yet made: the cycle of its next request and the slots lost (10 R212). -/
structure RowRead where
  addr : Nat
  next : Nat
  lost : Nat
  deriving DecidableEq, Repr

/-- Where a strand read of a later cycle goes: a scalar register, a token register, the loop registers, the elements of one
group of four rows of a vector register under a guard. -/
inductive LateDest where
  | s (n : Nat) (sext : Bool)
  | k (n : Nat)
  | loop
  | rows (n : Nat) (guard : PReg) (grp : Nat)
  | lanes (n : Nat) (guard : PReg) (grp : Nat) (offs : List Nat)
  deriving DecidableEq, Repr

/-- A read that a strand load makes on a cycle after its issue: the upper part of a split load (04 R76), whose lower bytes
are `low`, or rows 4g to 4g + 3 of a vector load on cycle u + g (11 R250). -/
structure LateRead where
  cycle : Nat
  addr : Nat
  n : Nat
  low : List Byte
  dest : LateDest
  deriving DecidableEq, Repr

/-- One core. `rows` and `rowReads` are the rows fetched and asked for, `lastRow` the row of the last instruction fetched,
`jumped` says that the instruction at pc is the target of a taken transfer, `coFence` is the cycle after the last `fence.co`
retired, or 0 (R212). `bankReads` are the scratchpad banks read, by cycle, and `bankWrites` the rows written, by cycle, with whether an atomic holds
the row's ports (R67, R116); `late` are the reads that issued loads make on later cycles (R69); `depMsc` are the places in the
coherence order of atomics' writes that the strand has seen and that have no number yet (R93); `mscSeen` gives, by byte, the place
of the store that the strand read at the memory-side cache (R91). `doneNow` are the tags engines have set this cycle (tag, engine + 4 if TAGREV was set too); `fmtNow` and `statusNow` the
FMTSTAT and STATUS bits engines have set this cycle, against which a clear of this cycle loses (R181, R233,
R259). `headPc` and `headSlot` are the address of the instruction at the head of issue as the cycle began and whether it
is a delay slot, and whether the context ran and was in its handler then (R393); `fmtLate` are the FMTSTAT bits that vector
instructions set as they retire, by cycle (R181, R291); `redHeld` are reports of reductions that lost to the trap whose
handler runs (R355); `poolAt` is the first byte of the die-pool allotment in the die's pool (02 R29); `waitStart` and `waitCal` are the cycle and the CALENDAR at which the stall in progress began (19 R398); `ctrRead`
is the register that an `mfc` of this cycle reads a counter into, and the counter (R403); `frozenAt` is the cycle that would have been C of a stop (R405). -/
structure Core where
  phys : Nat
  ctx : Ctx
  task : Nat
  s : Vector (BitVec 64) 32
  v : Vector VReg 16
  p : Vector PReg 8
  k : Vector Token 16
  b : Vector (BitVec 64) 4
  bc : Bool
  lc : BitVec 32
  ls : BitVec 64
  le : BitVec 64
  heldLs : Option (BitVec 64)
  heldLe : Option (BitVec 64)
  pc : BitVec 32
  slots : Option Slots
  oob : Bool
  revpend : Bool
  inh : Bool
  dsField : BitVec 2
  trapCause : BitVec 8
  trapPc : BitVec 32
  trapVal : BitVec 64
  trapTgt : BitVec 32
  tvec : BitVec 32
  sbase : BitVec 32
  slimit : BitVec 32
  calendar : BitVec 64
  vigil : BitVec 16
  tags : BitVec 64
  tagrev : BitVec 64
  oobcnt : BitVec 32
  fmtstat : BitVec 5
  waitcfg : BitVec 5
  crew : BitVec 64
  vtopo : BitVec 64
  poolAt : Nat
  dbgcfg : BitVec 2
  samplecfg : BitVec 64
  wpbase : Vector (BitVec 64) 2
  wpmask : Vector (BitVec 64) 2
  ctrsel : Vector (BitVec 64) 16
  ctrval : Vector (BitVec 64) 16
  ctrRead : Option (BitVec 5 × BitVec 4)
  rows : List FetchRow
  rowReads : List RowRead
  lastRow : Option Nat
  jumped : Bool
  coFence : Nat
  scr : Memory
  lanes : Memory
  wb : Memory
  timed : List TimedWrite
  locks : List Lock
  bankReads : List (Nat × Nat)
  bankWrites : List (Nat × Nat × Bool)
  late : List LateRead
  ready : List (Reg × Nat)
  btime : Vector Nat 4
  nextIssue : Nat
  vecFree : Nat
  divFree : Nat
  quantDone : Nat
  acc : List Access
  accNext : Nat
  dep : List Nat
  depMsc : List Nat
  mscSeen : SMap (Nat × Nat)
  tfc : List TfcEntry
  tfcReq : Option (Nat × Nat × Nat)
  marks : List (Reg × PoisonReport)
  owed : List PoisonReport
  redOwed : List PoisonReport
  redHeld : List PoisonReport
  engPoison : List PoisonReport
  watchNow : Option WatchReport
  watchQ : List WatchReport
  watchLost : Bool
  watchFly : List WatchReport
  waiting : Waiting
  waitStart : Nat
  waitCal : BitVec 64
  preempt : Bool
  dump : Bool
  stopAt : Option (BitVec 56)
  sweeps : List (Nat × Nat × Nat)
  matrix : Engine
  copy : Engine
  lantern : Engine
  cmdNext : Nat
  fq : List (BitVec 64)
  tiles : Vector Tile 8
  tileFinal : Vector Nat 8
  curves : Vector Curve 4
  lan : Lantern
  eqx : Nat
  doneNow : List (Nat × Nat)
  fmtNow : BitVec 5
  fmtLate : List (Nat × BitVec 5)
  statusNow : BitVec 2
  acted : Bool
  headPc : BitVec 32
  headSlot : Bool
  headRun : Bool
  headInh : Bool
  frozenAt : Nat
  cur : Option Instr
  stall : BitVec 8
  events : List (BitVec 8)
  deriving DecidableEq, Repr

/-- A barrier object (07 R143). `held` are the further arrivals that wait for the phase to complete (R144): position and the phase they will belong to; `touched` says that an arrival or drop was applied this cycle and `cand` the last of them in the
order of R145 (8 + position for an arrival); `lastPos` is the one that completed the last phase. -/
structure Barrier where
  phase : BitVec 32
  members : BitVec 8
  arr : BitVec 8
  join : BitVec 8
  held : List (Nat × BitVec 32)
  touched : Bool
  cand : Nat
  lastPos : Nat
  deriving DecidableEq, Repr

/-- What is kept of a cluster for a partition it was taken from (02 R27, R28): barrier objects, and by position the scratchpad,
lane slices and weight buffer of each core. -/
structure Kept where
  bars : Vector Barrier 32
  mems : List (Memory × Memory × Memory)
  deriving DecidableEq, Repr

/-- A cluster's barrier objects, the partition it serves, its gang request (07 R143, R150), and what is kept for
partitions it was taken from. -/
structure Cluster where
  bars : Vector Barrier 32
  owner : Option Nat
  gangSince : Option Nat
  kept : SMap Kept
  deriving DecidableEq, Repr

/-- Where a byte's value stands in the package coherence order, and which export wrote it (05 R103). -/
structure Mark where
  stamp : Nat
  seq : Nat
  die : Nat
  num : Nat
  deriving DecidableEq, Repr

/-- An exported store (05 R101): source die, number, clock, bytes and their places in the order. -/
structure Export where
  src : Nat
  num : Nat
  clock : List Nat
  cells : List (Nat × Byte × Mark)
  due : Nat
  deriving DecidableEq, Repr

/-- A registered `waita` (06 R130): core, access, first byte, size. -/
structure Waiter where
  core : Nat
  acc : Nat
  addr : Nat
  n : Nat
  deriving DecidableEq, Repr

/-- One die: pool and its poisoned rows, the pool rows read or written, by cycle, with whether an atomic holds the row's ports (06
R116), its view of package memory, exports and applied counts,
stores still to apply, waiters of scope DI (02 R29, 05 R101, R102, 06 R132). -/
structure Die where
  pool : Memory
  poolPoison : List Nat
  rowUse : List (Nat × Nat × Bool)
  view : Memory
  marks : SMap Mark
  exported : Nat
  applied : List Nat
  inbox : List Export
  waiters : List Waiter
  celsius : Nat
  deriving DecidableEq, Repr

/-- States of an Almanac entry (03 R38). -/
inductive EntryState where
  | free | active | revoking
  deriving DecidableEq, Repr

/-- An Almanac entry (R38); `tasks` are the tasks whose end releases it, `quarantined` R60;
`home` none is this package; `acks` the cores that have acknowledged a sweep; `made` its age. -/
structure AlmanacEntry where
  state : EntryState
  gen : BitVec 12
  owner : Nat
  pinBase : Nat
  length : Nat
  rights : BitVec 2
  gran : Nat
  mode : ProtMode
  home : Option Nat
  frames : List Nat
  task : Nat
  made : Nat
  acks : List Nat
  quarantined : Bool
  owners : List Nat
  deriving DecidableEq, Repr

/-- A POT entry (02 R34, 18 R382). -/
structure PotEntry where
  world : World
  owner : FrameOwner
  mode : ProtMode
  transition : Bool
  deriving DecidableEq, Repr

/-- How a task, part or node ended (15 R342). -/
inductive EndStatus where
  | ok | fault | vigil | limit | destroyed | rejected | image | busy
  deriving DecidableEq, Repr

/-- A finished part: its index, status, CAUSE, RANK, TRAPPC. -/
structure PartEnd where
  idx : Nat
  status : EndStatus
  cause : BitVec 8
  rank : Nat
  trapPc : BitVec 32
  deriving DecidableEq, Repr

/-- A completion record (15 R342). -/
structure Completion where
  cookie : Nat
  queue : Nat
  status : EndStatus
  cause : BitVec 8
  ran : Nat
  first : Nat
  rank : Nat
  trapPc : BitVec 32
  time : Nat
  deriving DecidableEq, Repr

/-- A fire (15 R345): the tag and number of the armed entry, where its payload lies, how long it is. -/
structure Fired where
  tag : Nat
  id : Nat
  va : Nat
  len : Nat
  deriving DecidableEq, Repr

/-- A packet in a queue (15 R339, R346): parts or nodes dispatched, ended, dropped; the snapshot of a
replay; the fire that appended it. -/
structure QPacket where
  id : Nat
  pk : Packet
  nodes : Option (List GraphNode)
  dispatched : List Nat
  ended : List PartEnd
  dropped : Bool
  armed : Option Fired
  deriving DecidableEq, Repr

/-- A queue (15 R340). -/
structure Queue where
  part : Nat
  num : Nat
  level : Nat
  weight : Nat
  ring : Nat
  packets : List QPacket
  destroyed : Bool
  kicked : Bool
  deriving DecidableEq, Repr

/-- Scheduling state of one level of a partition (15 R341): the rounds passed over, the queue that has the turn, the
rounds it has taken in a row. -/
structure Level where
  passed : Nat
  last : Option Nat
  taken : Nat
  deriving DecidableEq, Repr

/-- States of an armed entry (15 R344). -/
inductive ArmState where
  | armed | fired
  deriving DecidableEq, Repr

/-- An armed entry that is not FREE (15 R344); `id` tells it from an earlier entry of its tag. -/
structure ArmEntry where
  id : Nat
  part : Nat
  tag : Nat
  queue : Nat
  pk : Packet
  bufLen : Nat
  bufVa : Nat
  rearm : Bool
  state : ArmState
  disarm : Bool
  deriving DecidableEq, Repr

/-- A collective group of a task (17 R376, R377): its members in rank order, and the switch that hosts each node of its tree
that one can; the others are the member's `mid`. -/
structure Group where
  num : Nat
  members : List (Nat × Nat)
  hosts : List ((Nat × Nat) × Nat)
  deriving DecidableEq, Repr

/-- A member's launch of a collective of its task (13 R318, R320): group, its number in the group's order at that
core, core, whether it started, the command if it has, and the bytes its command had read, by number, as its result was issued. -/
structure CollRec where
  group : Nat
  seq : Nat
  core : Nat
  started : Bool
  cmd : Nat
  src : List Host.Cell
  deriving DecidableEq, Repr

/-- A task (07 R134, 15 R335): its packet and part, crew cores by rank, cores that retired `end`,
arrivals at the Equinox instance in hand, released instances, the package time (R379) at which its time began to run, how it ended, where its payload lies and its length. -/
structure Task where
  id : Nat
  part : Nat
  queue : Nat
  packet : Nat
  idx : Nat
  desc : Descriptor
  cores : List Nat
  loaded : Bool
  ended : List Nat
  arrivals : List (Nat × Bool)
  released : Nat
  lastArriver : Nat
  releaseDue : Nat
  startedAt : Option Nat
  ending : Option PartEnd
  payload : Option (Nat × Nat)
  groups : List Group
  colls : List CollRec
  deriving DecidableEq, Repr

/-- A saved context (07 R149, 16 R363): the core as saved, and whether its image is damaged. -/
structure Saved where
  id : Nat
  core : Core
  damaged : Bool
  deriving DecidableEq, Repr

/-- A teardown under way (18 R390): the requester's nonce and the step in hand. -/
structure Teardown where
  nonce : BitVec 64
  step : Nat
  deriving DecidableEq, Repr

/-- A partition (02 R26-R35, 03 R431, 04 R81, 18 R383). Keys are numbered: `sealKey`, `dataKey` (XTS), `macKey` (GCM), `flashKey`
(of its namespace's slot, R387), `jobKey`; `versions` are the version counts of its pages on flash, by page address (R387); `sampling`
is the SAMPLECFG that its virtual cores start their next context with (19 R392);
`log` counts telemetry records awaiting F6, `logDropped` those dropped; `rings` are SEQ numbers of the
sample and wait ring of each virtual die and what F6 has read; `flash` holds the bytes of its
flash blocks at block·2 MiB, `badBlocks` those whose page fails its MAC (18 R387); `lastPin` says by page address when a page was last pinned (R84). -/
structure Partition where
  req : PartitionRequest
  pages : List PageMap
  frames : List Nat
  sealKey : Nat
  dataKey : Nat
  macKey : Nat
  flashKey : Nat
  jobKey : Option Nat
  versions : SMap Nat
  sampling : SMap (BitVec 64)
  log : List (List Nat)
  logDropped : Nat
  ringSeq : SMap (Nat × Nat)
  ringRead : SMap (Nat × Nat)
  ringLost : Nat
  levels : List Level
  graphs : SMap (List GraphNode)
  flash : Memory
  badBlocks : List Nat
  lastPin : SMap Nat
  records : List (Nat × Completion)
  teardown : Option Teardown
  deriving DecidableEq, Repr

/-- Journal events of F1 (15 R349): `whole` is the release of a record that concerns a packet as a whole and that no queue
holds, `define` the acceptance of a graph. -/
inductive JournalEvent where
  | dispatch (part queue packet idx : Nat)
  | taskEnd (task : Nat)
  | release (part queue packet : Nat)
  | queueCreate (part queue level weight ring : Nat)
  | queueDestroy (part queue : Nat)
  | arm (e : ArmEntry)
  | disarm (part tag : Nat)
  | fire (part queue ring : Nat) (pk : Packet) (f : Fired)
  | define (part graph : Nat) (nodes : List GraphNode)
  | whole (part ring cookie queue first : Nat) (status : EndStatus)
  | patch (part graph node : Nat) (new : GraphNode)
  | replayStart (part queue packet : Nat)
  deriving DecidableEq, Repr

/-- Port states (17 R366). -/
inductive PortState where
  | down | training | keying | up
  deriving DecidableEq, Repr

/-- One direction of an Axtos port (17 R366, R369): its state, rekey count, counter and sequence number, and since when a
rekey is under way. -/
structure Link where
  state : PortState
  rekey : Nat
  ctr : Nat
  seq : BitVec 16
  rekeySince : Option Nat
  deriving DecidableEq, Repr

/-- An Axtos port: its directions out and in, since when they are not both UP, its SPDM session (17 R369), the flits sent and
kept for retry with their counters, the flits accepted, tag failures in a row, the number a retry is asked from. By
destination package (06 R127): `nextSeq` the number of the next request, `acked` the first one not yet acknowledged. -/
structure Port where
  tx : Link
  rx : Link
  downSince : Nat
  session : Nat
  retry : List (BitVec 16 × Nat)
  delivered : List (BitVec 16)
  failures : Nat
  retryFrom : Option (BitVec 16)
  nextSeq : SMap Nat
  acked : SMap Nat
  deriving DecidableEq, Repr

/-- Replies this package's slices and ingress sent (06 R127, 17 R368): data, an acknowledgement, a refusal by a full filter,
poisoned data, and the end of a wait of another package with its value and BC (R130). -/
inductive Reply where
  | data (pkg port seq value : Nat)
  | ack (pkg port seq : Nat)
  | busy (pkg port seq : Nat)
  | poison (pkg port seq : Nat)
  | waited (pkg port seq value : Nat) (bc : Bool)
  deriving DecidableEq, Repr

/-- A replay-filter entry (06 R127): slice, source package, port, sequence, the reply sent. -/
structure FilterEntry where
  slice : Nat
  pkg : Nat
  port : Nat
  seq : Nat
  reply : Reply
  deriving DecidableEq, Repr

/-- Attestation of a switch (17 R374, R375): model, measurement, time of attestation since its last reset, jobs it holds keys
of. -/
structure Switch where
  num : Nat
  model : Nat
  measurement : Nat
  attestedAt : Option Nat
  keys : List Nat
  deriving DecidableEq, Repr

/-- A grant to a borrowing package (17 R368), and a reclaim under way since (03 R63); `key` numbers the borrower's XTS key,
which the lender holds while the grant is open (18 R387). -/
structure Grant where
  pkg : Nat
  lo : Nat
  count : Nat
  reclaim : Option Nat
  key : Option Nat
  deriving DecidableEq, Repr

/-- Ownership states (18 R389). -/
inductive Ownership where
  | owned | transferring | unowned
  deriving DecidableEq, Repr

/-- An erasure receipt's contents (18 R391). -/
structure Receipt where
  serial : Nat
  part : Nat
  job : Nat
  nonce : BitVec 64
  frames : Nat
  ways : Nat
  namespaces : Nat
  time : Nat
  deriving DecidableEq, Repr

/-- A security-log entry for INTEGRITY (18 R386); `node` says that a tree node failed. A page of the flash tier has no
frame and no rank (R387). -/
structure SecEntry where
  part : Nat
  frame : Option Nat
  line : Nat
  node : Bool
  time : Nat
  rank : Option Nat
  trapPc : BitVec 32
  deriving DecidableEq, Repr

/-- Trust, firmware and package state that survives or not as 21 R428 says. -/
structure Trust where
  ownership : Ownership
  ownerKey : Option Nat
  nextOwner : BitVec 256
  nonces : List Nat
  minVersion : Nat
  staged : Option FirmwareImage
  running : Option FirmwareImage
  receiptSerial : Nat
  receipts : List Receipt
  secLog : List SecEntry
  deriving DecidableEq, Repr

/-- The states the module is in (21 R428-R430). -/
inductive Boot where
  | running | recovery | off
  deriving DecidableEq, Repr

/-- What F3 logs: an uncorrectable error of a firmware core, in its instruction memory or not (15 R348, R350), a memory
report that leads to POISON (16 R359), a restore that failed (R365). -/
inductive F3Entry where
  | firmware (core : Nat) (imem : Bool) | poison (r : PoisonReport) | restore (task : Nat)
  deriving DecidableEq, Repr

/-- A request to F1 that waits in its mailbox (15 R348): the record F1 makes of it when it accepts it. -/
abbrev Request := JournalEvent

/-- What F6 and F4 report: holdover (17 R379), the package as failed (15 R350), a teardown that failed (18 R390), a stop
that a save cancelled (19 R405), a dump that the end of its task left undone (R407). -/
inductive Flag where
  | holdover | failed | teardown (part : Nat) | stopCancelled (core : Nat) | dumpMissed (core : Nat)
  deriving DecidableEq, Repr

/-- A die-pool allotment of a partition's virtual die (02 R29): the die, and a contiguous range of its pool in MiB. -/
structure PoolRange where
  part : Nat
  vdie : Nat
  die : Nat
  base : Nat
  mb : Nat
  deriving DecidableEq, Repr

/-- The key store of one of the twelve memory controllers (18 R383): the number of the firmware's key, and by partition those of
its XTS and its GCM key. 0 is no key. -/
structure KeyStore where
  firmware : Nat
  parts : SMap (Nat × Nat)
  deriving DecidableEq, Repr

/-- Firmware state outside partitions (15 R348-R350, 21 R426). `corrected` counts corrected memory errors (18 R385),
`failures` holds the request numbers that F5 logs (06 R128); `requests` is what stands in F1's mailbox, `owed` the journal records
that wait for room in F7's (15 R348). -/
structure Firmware where
  journal : List JournalEvent
  acked : Nat
  requests : List Request
  owed : List JournalEvent
  schedulerF7 : Bool
  f1Halted : Bool
  f4Halted : Bool
  stopped : Bool
  thermalStop : Bool
  errors : List F3Entry
  corrected : Nat
  failures : List Nat
  telemetryFlags : List Flag
  deriving DecidableEq, Repr

/-- The 1588 clock (17 R379): the operator's domain, locked, in holdover, and package time minus elapsed cycle time in ns. -/
structure Ptp where
  domain : Nat
  locked : Bool
  holdover : Bool
  base : Int
  deriving DecidableEq, Repr

/-- A dump or copy handed to a requester (19 R406, R407); a live one holds the die-pool allotment by offset, one of a stopped
context the entries of its pending results. -/
structure Dump where
  core : Nat
  live : Bool
  image : Core
  pool : List Host.Cell
  entries : List (List Byte)
  deriving DecidableEq, Repr

/-- The package. `core` is the core whose turn it is, `others` the other cores a task runs on. `remoteWaits` are
registrations of other packages (06 R127), `outbox` the replies that wait for a port, with the line they go by (R367). `releases` are
the Almanac entries, with their generations, that F2 has been asked to release; `potWork` the frames in TRANSITION and what they become
(18 R382); `moves` the pages that F2 is to move to a place once nothing pins them (04 R82); `held` the requests of partitions whose
teardown failed, with the step that did, whose unfinished resources stay with firmware (18 R390); `fwDue` the cycle at which firmware acts next of itself; `slice` the home slice whose turn it is (05 R101). By line number: `poisonLines` are uncorrectable, `macLines`
fail their MAC, `correctedLines` are read with a corrected error (18 R385), `writeCtr` are the write counters (R384). By level and
index: `macNodes` are the nodes of the counter tree that fail their MAC, `poisonNodes` those that are uncorrectable, `treeCtr` their
counters; `treeRoot` is the counter of the root; `lineMac` and `nodeMac` are the MACs stored with lines and nodes. `pools` are the
die-pool allotments (02 R29), `keyStores` those of the memory controllers (18 R383). -/
structure State where
  core : Core
  others : List Core
  clusters : SMap Cluster
  dies : Vector Die 4
  mem : Memory
  marks : SMap Mark
  floor : SMap Nat
  pkgWaiters : List Waiter
  lentMem : Memory
  lentWaiters : List Waiter
  remoteWaits : List RemoteRequest
  poisonLines : List Nat
  macLines : List Nat
  macNodes : List (Nat × Nat)
  poisonNodes : List (Nat × Nat)
  correctedLines : List Nat
  writeCtr : SMap (BitVec 56)
  treeCtr : SMap (BitVec 56)
  treeRoot : BitVec 56
  lineMac : SMap (BitVec 64)
  nodeMac : SMap (BitVec 64)
  keyStores : Vector KeyStore 12
  pools : List PoolRange
  almanac : SMap AlmanacEntry
  pot : SMap PotEntry
  parts : SMap Partition
  tasks : List Task
  taskNext : Nat
  packetNext : Nat
  queues : List Queue
  arms : List ArmEntry
  saved : List Saved
  dumps : List Dump
  fw : Firmware
  ports : Vector Port 16
  filter : List FilterEntry
  replies : List Reply
  outbox : List (Nat × Reply)
  switches : List Switch
  grants : List Grant
  borrowed : List Grant
  uet : List Nat
  ptp : Ptp
  trust : Trust
  boot : Boot
  bootStep : Nat
  keyNext : Nat
  releases : List (Nat × Nat)
  potWork : List (Nat × PotEntry)
  moves : List (Nat × Nat × PagePlace)
  held : List (Nat × PartitionRequest)
  fwDue : Nat
  now : Nat
  turnEng : EngineId
  phase : Nat
  slice : Nat
  left : Nat
  inputs : List (Nat × Instr)
  fv : Nat
  seq : Nat
  deriving DecidableEq, Repr

/-- An engine with nothing in it (07 R136). -/
def Engine.empty : Engine := ⟨[], [], [], none, 0, none, [], none, 0, 0⟩

/-- The identity curve of task start (08 R173). -/
def Curve.identity : Curve := (List.range 17).map fun i => (2048 * i, 2048 * i)

/-- The Lantern state of task start (14 R322). -/
def Lantern.initial : Lantern := ⟨[], 1024, 1024, 0, [], []⟩

/-- A core with the register values of 07 R136, not running a task. Registers R136 takes from the launch
or the placement hold 0 here (log entry 3). -/
def Core.initial (phys : Nat) : Core where
  phys := phys
  ctx := .idle
  task := 0
  s := Vector.replicate 32 0
  v := Vector.replicate 16 (Vector.replicate 1024 0)
  p := (Vector.replicate 8 0).set 0 (BitVec.allOnes 1024)
  k := Vector.replicate 16 Token.zero
  b := Vector.replicate 4 0
  bc := false
  lc := 0
  ls := 0
  le := 0
  heldLs := none
  heldLe := none
  pc := 0
  slots := none
  oob := false
  revpend := false
  inh := false
  dsField := 0
  trapCause := 0
  trapPc := 0
  trapVal := 0
  trapTgt := 0
  tvec := 0
  sbase := 0
  slimit := 0
  calendar := 0
  vigil := 65520
  tags := 0
  tagrev := 0
  oobcnt := 0
  fmtstat := 0
  waitcfg := 20
  crew := 0
  vtopo := 0
  poolAt := 0
  dbgcfg := 0
  samplecfg := 0
  wpbase := Vector.replicate 2 0
  wpmask := Vector.replicate 2 0
  ctrsel := Vector.replicate 16 0
  ctrval := Vector.replicate 16 0
  ctrRead := none
  rows := []
  rowReads := []
  lastRow := none
  jumped := false
  coFence := 0
  scr := []
  lanes := []
  wb := []
  timed := []
  locks := []
  bankReads := []
  bankWrites := []
  late := []
  ready := []
  btime := Vector.replicate 4 0
  nextIssue := 0
  vecFree := 0
  divFree := 0
  quantDone := 0
  acc := []
  accNext := 0
  dep := [0, 0, 0, 0]
  depMsc := []
  mscSeen := []
  tfc := []
  tfcReq := none
  marks := []
  owed := []
  redOwed := []
  redHeld := []
  engPoison := []
  watchNow := none
  watchQ := []
  watchLost := false
  watchFly := []
  waiting := .none
  waitStart := 0
  waitCal := 0
  preempt := false
  dump := false
  stopAt := none
  sweeps := []
  matrix := Engine.empty
  copy := Engine.empty
  lantern := Engine.empty
  cmdNext := 0
  fq := []
  tiles := Vector.replicate 8 (Vector.replicate 128 0)
  tileFinal := Vector.replicate 8 0
  curves := Vector.replicate 4 Curve.identity
  lan := Lantern.initial
  eqx := 0
  doneNow := []
  fmtNow := 0
  fmtLate := []
  statusNow := 0
  acted := false
  headPc := 0
  headSlot := false
  headRun := false
  headInh := false
  frozenAt := 0
  cur := none
  stall := 0
  events := []

/-- A barrier object of task start for the members given (07 R143). -/
def Barrier.initial (members : BitVec 8) : Barrier := ⟨0, members, 0, 0, [], false, 0, 0⟩

/-- A die after bring-up (21 R429). -/
def Die.initial : Die := ⟨[], [], [], [], [], 0, [0, 0, 0, 0], [], [], 0⟩

/-- A direction after bring-up: trained, keyed and UP (21 R429 step 5). -/
def Link.initial : Link := ⟨.up, 0, 0, 0, none⟩

/-- A port after bring-up. -/
def Port.initial : Port := ⟨Link.initial, Link.initial, 0, 0, [], [], 0, none, [], []⟩

/-- The package right after a reset: bring-up (21 R429) has completed and no partition exists.
Nothing is listed in memory, the Almanac (FREE, generation 1) or the POT (free, non-secure, clear). -/
def State.reset : State where
  core := Core.initial 0
  others := []
  clusters := []
  dies := Vector.replicate 4 Die.initial
  mem := []
  marks := []
  floor := []
  pkgWaiters := []
  lentMem := []
  lentWaiters := []
  remoteWaits := []
  poisonLines := []
  macLines := []
  macNodes := []
  poisonNodes := []
  correctedLines := []
  writeCtr := []
  treeCtr := []
  treeRoot := 0
  lineMac := []
  nodeMac := []
  keyStores := Vector.replicate 12 ⟨1, []⟩
  pools := []
  almanac := []
  pot := []
  parts := []
  tasks := []
  taskNext := 1
  packetNext := 1
  queues := []
  arms := []
  saved := []
  dumps := []
  fw := ⟨[], 0, [], [], false, false, false, false, false, [], 0, [], []⟩
  ports := Vector.replicate 16 Port.initial
  filter := []
  replies := []
  outbox := []
  switches := []
  grants := []
  borrowed := []
  uet := []
  ptp := ⟨0, true, false, 0⟩
  trust := ⟨.owned, some 0, 0, [], 0, none, some ⟨0, 0, true, some 0⟩, 0, [], []⟩
  boot := .running
  bootStep := 7
  keyNext := 2
  releases := []
  potWork := []
  moves := []
  held := []
  fwDue := 0
  now := 0
  turnEng := .matrix
  phase := 0
  slice := 0
  left := 0
  inputs := []
  fv := 0
  seq := 0

end Sys2Proof.Machine
end

