-- ==== Sys2Proof/Machine/Ops.lean ====
section
/-! DEFINITION. The named operations over memory, registers and time that every meaning calls: sparse
memories, register files, the local map, retirement, taking a trap and returning from one, token checks. -/

namespace Sys2Proof.Machine

abbrev Out := Host.Outcome State Fault Refusal

/-! ## Sparse tables and memory -/

/-- The value at a key. -/
def mapGet {α : Type} (m : SMap α) (k : Nat) : Option α :=
  match m with
  | [] => none
  | (a, x) :: rest => if a = k then some x else mapGet rest k

/-- The table with a key's value set, keys rising. -/
def mapSet {α : Type} (m : SMap α) (k : Nat) (x : α) : SMap α :=
  match m with
  | [] => [(k, x)]
  | (a, y) :: rest =>
    if k < a then (k, x) :: (a, y) :: rest
    else if k = a then (k, x) :: rest
    else (a, y) :: mapSet rest k x

/-- The table without a key. -/
def mapErase {α : Type} (m : SMap α) (k : Nat) : SMap α :=
  match m with
  | [] => []
  | (a, y) :: rest => if a = k then rest else (a, y) :: mapErase rest k

/-- The byte at an address; what an unlisted address reads as is 0 (R28, R382, R429). -/
def memGet (m : Memory) (a : Nat) : Byte := (mapGet m a).getD 0

/-- The memory with one byte written, in canonical form. -/
def memSet (m : Memory) (a : Nat) (x : Byte) : Memory := if x = 0 then mapErase m a else mapSet m a x

/-- Keys strictly rising, all at least `lo`. -/
def keysRising {α : Type} (lo : Nat) (m : SMap α) : Bool :=
  match m with
  | [] => true
  | (a, _) :: rest => decide (lo ≤ a) && keysRising (a + 1) rest

/-- The canonical form of a memory: addresses strictly rising, no entry equal to what an unlisted
address reads as. -/
def Memory.wf (m : Memory) : Bool := keysRising 0 m && m.all fun c => c.2 != 0

/-- n bytes from an address. -/
def memRead (m : Memory) (a : Nat) : Nat → List Byte
  | 0 => []
  | n + 1 => memGet m a :: memRead m (a + 1) n

/-- n bytes from an address as a number (R5). -/
def memReadNat (m : Memory) (a n : Nat) : Nat := bytesToNat (memRead m a n)

/-- Bytes written from an address on. -/
def memWrite (m : Memory) (a : Nat) : List Byte → Memory
  | [] => m
  | x :: xs => memWrite (memSet m a x) (a + 1) xs

/-- Cells written one by one, the later over the earlier. -/
def memPut (m : Memory) : List Host.Cell → Memory
  | [] => m
  | (a, x) :: rest => memPut (memSet m a x) rest

/-- The cells of bytes laid out from an address. -/
def cellsAt (a : Nat) : List Byte → List Host.Cell
  | [] => []
  | x :: xs => (a, x) :: cellsAt (a + 1) xs

/-! ## Registers -/

/-- A scalar register; `s0` reads zero (R185). -/
def Core.rs (c : Core) (r : BitVec 5) : Word := if r = 0 then 0 else c.s[r.toNat]

/-- A scalar register named by a 4-bit field (R184). -/
def Core.rn (c : Core) (r : BitVec 4) : Word := c.rs (r.setWidth 5)

/-- Write a scalar register; a write to `s0` is discarded (R185). -/
def Core.ws (c : Core) (r : BitVec 5) (x : Word) : Core :=
  if r = 0 then c else { c with s := c.s.set r.toNat x }

/-- Write a scalar register named by a 4-bit field. -/
def Core.wn (c : Core) (r : BitVec 4) (x : Word) : Core := c.ws (r.setWidth 5) x

/-- A vector register. -/
def Core.rv (c : Core) (r : BitVec 4) : VReg := c.v[r.toNat]

/-- Write a vector register. -/
def Core.wv (c : Core) (r : BitVec 4) (x : VReg) : Core := { c with v := c.v.set r.toNat x }

/-- A predicate register; `p0` reads all ones (R185). -/
def Core.rp (c : Core) (r : BitVec 3) : PReg := if r = 0 then BitVec.allOnes 1024 else c.p[r.toNat]

/-- Write a predicate register; a write to `p0` is discarded (R185). -/
def Core.wp (c : Core) (r : BitVec 3) (x : PReg) : Core :=
  if r = 0 then c else { c with p := c.p.set r.toNat x }

/-- A token register. -/
def Core.rk (c : Core) (r : BitVec 4) : Token := c.k[r.toNat]

/-- Write a token register. -/
def Core.wk (c : Core) (r : BitVec 4) (t : Token) : Core := { c with k := c.k.set r.toNat t }

/-- A branch-target register. -/
def Core.rb (c : Core) (r : BitVec 2) : Word := c.b[r.toNat]

/-- An address with bits [1:0] cleared (R211). -/
def clear4 (x : Word) : Word := x &&& ~~~3

/-- Write a branch-target register; bits [1:0] are always zero (R183, R221). -/
def Core.wb' (c : Core) (r : BitVec 2) (x : Word) (now : Nat) : Core :=
  { c with b := c.b.set r.toNat (clear4 x), btime := c.btime.set r.toNat now }

/-- The element of a vector register. -/
def VReg.get (x : VReg) (r c : Nat) : BitVec 32 := x.toArray.getD (64 * r + c) 0

/-- A vector register from its elements. -/
def VReg.of (f : Nat → Nat → BitVec 32) : VReg :=
  ⟨((List.range 1024).map fun i => f (i / 64) (i % 64)).toArray, by simp⟩

/-- The bit of a predicate that governs element (r, c). -/
def PReg.bit (x : PReg) (r c : Nat) : Bool := x.getLsbD (64 * r + c)

/-- A predicate from its bits. -/
def PReg.of (f : Nat → Nat → Bool) : PReg :=
  BitVec.ofNat 1024 ((List.range 1024).foldr (fun i acc => 2 * acc + (f (i / 64) (i % 64)).toNat) 0)

/-- The image of a token as a 128-bit number (R36). -/
def Token.toNat (t : Token) : Nat :=
  t.vbase.toNat * 2 ^ 72 + t.lenm1.toNat * 2 ^ 40 + t.index.toNat * 2 ^ 20 + t.gen.toNat * 2 ^ 8
    + t.part.toNat * 4 + t.rights.toNat

/-- The token of a 128-bit image (R36). -/
def Token.ofNat (x : Nat) : Token :=
  ⟨BitVec.ofNat 56 (x / 2 ^ 72), BitVec.ofNat 32 (x / 2 ^ 40), BitVec.ofNat 20 (x / 2 ^ 20),
    BitVec.ofNat 12 (x / 2 ^ 8), BitVec.ofNat 6 (x / 4), BitVec.ofNat 2 x⟩

/-- The extent length of a token in bytes (R36). -/
def Token.len (t : Token) : Nat := t.lenm1.toNat + 1

/-! ## Cores and time -/

/-- Change the running core. -/
def State.mod (s : State) (f : Core → Core) : State := { s with core := f s.core }

/-- All cores that are on. -/
def State.cores (s : State) : List Core := s.core :: s.others

/-- A core put before the first of a higher number. -/
def insertCore (c : Core) : List Core → List Core
  | [] => [c]
  | x :: xs => if c.phys ≤ x.phys then c :: x :: xs else x :: insertCore c xs

/-- All cores that are on, in increasing number. -/
def State.sorted (s : State) : List Core := s.cores.foldr insertCore []

/-- The core of a physical number, if it is on. -/
def State.coreAt (s : State) (n : Nat) : Option Core := s.cores.find? fun c => c.phys = n

/-- Change the core of a physical number. -/
def State.modAt (s : State) (n : Nat) (f : Core → Core) : State :=
  { s with
    core := if s.core.phys = n then f s.core else s.core
    others := s.others.map fun c => if c.phys = n then f c else c }

/-- The physical core and scratchpad address of byte x of a cluster's CSM (R23). -/
def csmCore (cluster x : Nat) : Nat := cluster * 8 + x / 0x100000
def csmAddr (x : Nat) : Nat := 0x200000 + x % 0x100000

/-- A byte of a cluster's CSM as it stands at its bank. -/
def State.csmByte (s : State) (cluster x : Nat) : Byte :=
  match s.coreAt (csmCore cluster x) with
  | some c => memGet c.scr (csmAddr x)
  | none => 0

/-- n bytes of a cluster's CSM. -/
def State.csmRead (s : State) (cluster x : Nat) : Nat → List Byte
  | 0 => []
  | n + 1 => s.csmByte cluster x :: s.csmRead cluster (x + 1) n

/-- Change every core. -/
def State.modAll (s : State) (f : Core → Core) : State :=
  { s with core := f s.core, others := s.others.map f }

/-- A fresh free value's number. -/
def State.draw (s : State) : Nat × State := (s.fv, { s with fv := s.fv + 1 })

/-- The cycle at which an untimed action begun now is due, at least one cycle on (R64). -/
def State.dueCycle (s : State) : Nat := s.now + 1 + Config.untimedDelay s.fv

/-- Package time in ns (R379): 4 cycles a ns (R427). -/
def State.time (s : State) : Nat := (s.ptp.base + (s.now / 4 : Nat)).toNat

/-- The die of a physical core (R26). -/
def dieOf (phys : Nat) : Nat := phys / 64 % 4
/-- The physical cluster of a core. -/
def clusterOf (phys : Nat) : Nat := phys / 8
/-- The position of a core in its cluster. -/
def posOf (phys : Nat) : Nat := phys % 8

/-- Fields of VTOPO (R30). -/
def Core.partId (c : Core) : Nat := (c.vtopo.extractLsb' 56 6).toNat
def Core.poolMb (c : Core) : Nat := (c.vtopo.extractLsb' 48 8).toNat
def Core.ncores (c : Core) : Nat := (c.vtopo.extractLsb' 32 9).toNat
def Core.vcore (c : Core) : Nat := (c.vtopo.extractLsb' 0 8).toNat
/-- Fields of CREW (R135). -/
def Core.rank (c : Core) : Nat := (c.crew.extractLsb' 0 9).toNat
def Core.crewSize (c : Core) : Nat := (c.crew.extractLsb' 16 9).toNat

/-- Record a counter event of this cycle (19 R402). -/
def Core.note (c : Core) (e : BitVec 8) : Core := { c with events := e :: c.events }

/-- The cycle from which a register can be read. -/
def Core.readyAt (c : Core) (r : Reg) : Nat :=
  c.ready.foldl (fun m x => if x.1 = r then max m x.2 else m) 0

/-- How long after its first part the last part of a register is ready: a vector register's row groups come one a cycle (R209). -/
def Reg.span : Reg → Nat
  | .v _ => 3
  | _ => 0

/-- The register becomes usable at a cycle (R209); a token register not before every earlier write to it has taken effect
(R252). -/
def Core.after (c : Core) (r : Reg) (cycle : Nat) : Core :=
  let cycle := match r with
    | .k _ => max cycle (c.readyAt r)
    | _ => cycle
  { c with ready := (r, cycle) :: c.ready.filter fun x => x.1 ≠ r }

/-- A write clears a register's poison mark; its report stays owed (R243). -/
def Core.unmark (c : Core) (r : Reg) : Core :=
  { c with
    owed := c.owed ++ (c.marks.filter fun m => m.1 = r).map (·.2)
    marks := c.marks.filter fun m => m.1 ≠ r }

/-! ## Frames of token memory -/

/-- The Almanac entry of an index; an unlisted one is FREE at generation 1 (R429). -/
def freshEntry : AlmanacEntry :=
  ⟨.free, 1, 0, 0, 1, 0, 16, .clear, none, [], 0, 0, [], false, []⟩

def State.entry (s : State) (i : Nat) : AlmanacEntry := (mapGet s.almanac i).getD freshEntry

/-- The POT entry of a frame that is free: non-secure, clear (R429). -/
def freshPot : PotEntry := ⟨.nonSecure, .free, .clear, false⟩

/-- The channel group of a frame: frames are numbered through the groups in order, 65,536 to a group (R33; DESIGN CHOICE, log
entry 49). -/
def channelGroup (f : Nat) : Nat := f / 65536

/-- The POT entry of a frame; one that is not listed is as bring-up marks every entry (R429 step 4). -/
def State.potOf (s : State) (f : Nat) : PotEntry := (mapGet s.pot f).getD freshPot

/-- The mode that protects a frame: that of its POT entry; the firmware's own frames, in channel groups 0 and 1, are in the integrity
mode (R33, R383). -/
def State.modeOf (s : State) (f : Nat) : ProtMode := if channelGroup f < 2 then .integrity else (s.potOf f).mode

/-- The i-th frame after a frame, as F2 places them: round-robin over the channel groups of the partition (R33). -/
def nthFrame (groups : List Nat) (f i : Nat) : Nat :=
  if groups.contains (channelGroup f) then
    let q := groups.idxOf (channelGroup f) + i
    groups.getD (q % groups.length) 0 * 65536 + (f % 65536 + q / groups.length)
  else f + i

def pageAddr (g : PageMap) : Nat := g.page * 2 ^ g.gran
def pageBytes (g : PageMap) : Nat := 2 ^ g.gran
/-- The 64 KiB units of a page. -/
def pageUnits (g : PageMap) : Nat := 2 ^ g.gran / 65536

/-- The frames of a page that starts at a frame (R33). -/
def pageFrames (groups : List Nat) (g : PageMap) (f : Nat) : List Nat := (List.range (pageUnits g)).map (nthFrame groups f)

/-- The frames whose POT entries must agree with that of a frame: those of the mapped 2 MiB page that lies on it, or it alone
(R34). -/
def State.potFrames (s : State) (f : Nat) : List Nat :=
  match (s.potOf f).owner with
  | .part n =>
    ((mapGet s.parts n).bind fun p => (p.pages.filterMap fun g => match g.place with
      | .main x => some (pageFrames p.req.groups g x)
      | _ => none).find? fun fs => fs.contains f).getD [f]
  | _ => [f]

/-- The entries that pin one of the frames of main memory. -/
def State.pinsFrames (s : State) (fs : List Nat) : List Nat :=
  (s.almanac.filter fun e => e.2.home.isNone && e.2.state != .free && e.2.frames.any fun f => fs.contains f).map (·.1)

/-- Whether F2 has been asked to release an entry as it stands. -/
def State.released (s : State) (i : Nat) : Bool := s.releases.any fun r => r.1 == i && r.2 == (s.entry i).gen.toNat

/-- F2 is asked to release the ACTIVE ones of some entries, each once (R59). -/
def State.askSweeps (s : State) (is : List Nat) : State :=
  { s with releases := s.releases ++ (is.filter fun i => (s.entry i).state == .active && !s.released i).map fun i =>
      (i, (s.entry i).gen.toNat) }

/-- The physical address of a virtual one under an entry: its frames start at the granule that holds the
pin base (R38, R31). -/
def AlmanacEntry.phys (e : AlmanacEntry) (va : Nat) : Nat :=
  let base := e.pinBase / 2 ^ e.gran * 2 ^ e.gran
  e.frames.getD ((va - base) / 65536) (Config.mainMemoryEnd / 65536) * 65536 + va % 65536

/-- Address ranges of n bytes from a virtual address, cut where frames end. -/
def AlmanacEntry.ranges (e : AlmanacEntry) (va n : Nat) : List (Nat × Nat) :=
  if n = 0 then []
  else
    let first := min n (65536 - va % 65536)
    if first = n then [(e.phys va, n)]
    else [(e.phys va, first), (e.phys (va + first), n - first)]

/-! ## The local map (R21, R22) -/

/-- Regions of the local space. -/
inductive Region where
  | scratch | csm | pool | weight
  deriving DecidableEq, Repr

/-- The region that holds a local address, for an allotment of `mb` MiB (R21, R29). -/
def regionOf (mb a : Nat) : Option Region :=
  if a < 0x300000 then some .scratch
  else if 0x10000000 ≤ a ∧ a < 0x10800000 then some .csm
  else if 0x20000000 ≤ a ∧ a < 0x20000000 + mb * 0x100000 ∧ a < 0x24000000 then some .pool
  else if 0x30000000 ≤ a ∧ a < 0x30200000 then some .weight
  else none

/-- The region of an access of n bytes, if R22 lets it pass. -/
def localCheck (mb : Nat) (a n : Nat) (store : Bool) : Option Region :=
  match regionOf mb a with
  | none => none
  | some r =>
    if regionOf mb (a + n - 1) = some r ∧ ¬(store ∧ r = .weight) then some r else none

/-- The local access check of the running core; an address with bits [63:32] set fails (R22). -/
def Core.local? (c : Core) (a : Word) (n : Nat) (store : Bool) : Option Region :=
  if a.toNat < 2 ^ 32 then localCheck c.poolMb a.toNat n store else none

/-- The space and address of a local byte address of a region, seen from a core (R23, R29): in the die's pool, from the first byte of
the allotment of its virtual die on. -/
def Core.spaceOf (c : Core) (r : Region) (a : Nat) : Space × Nat :=
  match r with
  | .scratch => (.own, a)
  | .csm => (.csm (clusterOf c.phys), a - 0x10000000)
  | .pool => (.pool (dieOf c.phys), c.poolAt + (a - 0x20000000))
  | .weight => (.wb, a - 0x30000000)

/-! ## Timed reads (R69) -/

/-- A byte as a timed read of a cycle sees it: the bank's byte under the unexposed writes whose exposure
cycle has come by then. -/
def timedByte (m : Memory) (ws : List TimedWrite) (lane : Bool) (cycle a : Nat) : Byte :=
  ws.foldl (fun x w => if w.lane = lane ∧ w.expose ≤ cycle then
    w.cells.foldl (fun y c => if c.1 = a then c.2 else y) x else x) (memGet m a)

/-- n bytes of the own scratchpad by a timed read at a cycle. -/
def Core.scrRead (c : Core) (cycle a : Nat) : Nat → List Byte
  | 0 => []
  | n + 1 => timedByte c.scr c.timed false cycle a :: c.scrRead cycle (a + 1) n

/-- A strand's scalar timed read: the part below a 64-byte boundary at u, the part above at u + 1 (R76). -/
def Core.scrReadSplit (c : Core) (u a n : Nat) : List Byte :=
  let low := min n (64 - a % 64)
  c.scrRead u a low ++ c.scrRead (u + 1) (a + low) (n - low)

/-- The upper part of a split load is read a cycle later (R76); until then the register holds what stands there now, and no
instruction can read it. -/
def Core.readUpper (c : Core) (u a n : Nat) (dest : LateDest) : Core :=
  let low := min n (64 - a % 64)
  if low < n then { c with late := c.late ++ [⟨u + 1, a + low, n - low, c.scrRead u a low, dest⟩] } else c

/-- The reads of rows 4g to 4g + 3, g in 1 to 3, of a vector load that issues at u (R250); until then the register holds
what stands there now, and no instruction can read it. -/
def Core.readGroups (c : Core) (u : Nat) (read : Nat → LateRead) : Core :=
  { c with late := c.late ++ [1, 2, 3].map fun g => { read g with cycle := u + g } }

/-- Banks of a byte range (R66). -/
def banksOf (a n : Nat) : List Nat := (List.range ((a + n + 63) / 64 - a / 64)).map fun i => (a / 64 + i) % 32

/-- A read of the own scratchpad takes its banks' read ports on a cycle (R67). -/
def Core.takePort (c : Core) (cycle a n : Nat) : Core :=
  { c with bankReads := c.bankReads ++ (banksOf a n).map fun b => (cycle, b) }

/-- A scalar timed read takes its ports: the part above a 64-byte boundary a cycle later (R76). -/
def Core.takePorts (c : Core) (u a n : Nat) : Core :=
  let low := min n (64 - a % 64)
  if low < n then (c.takePort u a low).takePort (u + 1) (a + low) (n - low) else c.takePort u a n

/-- Whether [a, a + n) of the own scratchpad needs a bank that the strand, the fetch or the copy engine reads on a cycle
(R67). -/
def Core.bankTaken (c : Core) (cycle a n : Nat) : Bool := (banksOf a n).any fun b => c.bankReads.contains (cycle, b)

/-- A write of [a, a + n) is performed at its bank on a cycle; an atomic holds both ports of its row (R67, R116). -/
def Core.takeWrite (c : Core) (cycle a n : Nat) (atomic : Bool) : Core :=
  { c with bankWrites := c.bankWrites ++ (List.range ((a + n + 63) / 64 - a / 64)).map fun i => (cycle, a / 64 + i, atomic) }

/-- A bank of [a, a + n) has its write port taken on a cycle: by a write to another row, or by an atomic (R67, R116). -/
def Core.writeTaken (c : Core) (cycle a n : Nat) : Bool :=
  c.bankWrites.any fun w => w.1 == cycle && (banksOf a n).contains (w.2.1 % 32)
    && (w.2.2 || !(decide (a / 64 ≤ w.2.1) && decide (w.2.1 * 64 < a + n)))

/-- Whether [a, a + n) crosses a 64-byte boundary (R76). -/
def crosses64 (a n : Nat) : Bool := n > 64 - a % 64

/-- The words with a pending bit: the 4-byte words of a strand's or tile's unexposed writes (R72). -/
def pendingIn (ws : List TimedWrite) (lane : Bool) (a : Nat) : Bool :=
  ws.any fun w => w.lane = lane && w.cells.any fun c => c.1 / 4 = a / 4

/-- The lowest byte of [a, a + n) whose word is pending. -/
def firstPending (ws : List TimedWrite) (lane : Bool) (a : Nat) : Nat → Option Nat
  | 0 => none
  | n + 1 => if pendingIn ws lane a then some a else firstPending ws lane (a + 1) n

/-- The lowest byte of [a, a + n) of the own scratchpad whose word is pending on a cycle: a write's bit is set up to its
exposure cycle (R72). -/
def Core.pendingOn (c : Core) (cycle a n : Nat) : Option Nat :=
  firstPending (c.timed.filter fun w => decide (cycle < w.expose)) false a n

/-- DBGCFG.PENDTRAP and PENDENG (R71). -/
def Core.pendTrap (c : Core) : Bool := c.dbgcfg.getLsbD 0
def Core.pendEng (c : Core) : Bool := c.dbgcfg.getLsbD 0 && c.dbgcfg.getLsbD 1

/-- Bytes of the own scratchpad under a lock (R74). -/
def Core.lockedAt (c : Core) (lo hi : Nat) : Bool :=
  c.locks.any fun l => l.ranges.any fun r => r.1 / 64 * 64 < hi && lo < (r.2 + 63) / 64 * 64

/-- Queue a timed strand write (R68). -/
def Core.pushTimed (c : Core) (w : TimedWrite) : Core := { c with timed := c.timed ++ [w] }

/-- A scalar strand store to the own alias: exposure t + 4, the upper part of a split t + 5 (R68, R76). -/
def Core.scrStore (c : Core) (now a : Nat) (bs : List Byte) : Core :=
  let low := min bs.length (64 - a % 64)
  let c1 := c.pushTimed ⟨now + 4, false, cellsAt a (bs.take low), true⟩
  if low < bs.length then c1.pushTimed ⟨now + 5, false, cellsAt (a + low) (bs.drop low), true⟩ else c1

/-- A write to the own bank that takes effect now (R68, R116): older unexposed writes stay behind it. -/
def Core.scrPut (c : Core) (cells : List Host.Cell) : Core := { c with scr := memPut c.scr cells }

/-! ## Task end (R137, R138, R342) -/

def State.task? (s : State) (id : Nat) : Option Task := s.tasks.find? fun t => t.id = id

def State.modTask (s : State) (id : Nat) (f : Task → Task) : State :=
  { s with tasks := s.tasks.map fun t => if t.id = id then f t else t }

def State.modQueue (s : State) (part num : Nat) (f : Queue → Queue) : State :=
  { s with queues := s.queues.map fun q => if q.part = part ∧ q.num = num then f q else q }

def State.modPart (s : State) (p : Nat) (f : Partition → Partition) : State :=
  match mapGet s.parts p with
  | some x => { s with parts := mapSet s.parts p (f x) }
  | none => s

/-- The number of parts or nodes of a queued packet. -/
def QPacket.size (q : QPacket) : Nat :=
  match q.nodes with
  | some ns => ns.length
  | none => q.pk.parts.length

/-- The ends that count: the lowest index that did not end OK (R342). -/
def worstEnd (es : List PartEnd) : Option PartEnd :=
  es.foldl (fun m e => if e.status = .ok then m else
    match m with
    | none => some e
    | some w => if e.idx < w.idx then some e else some w) none

/-- Predecessors all ended OK (R346). -/
def nodeReady (q : QPacket) (preds : List Nat) : Bool :=
  preds.all fun p => q.ended.any fun e => e.idx = p && e.status = .ok

/-- Nodes that depend, directly or not, on one that did not end OK (R346); predecessors have lower
numbers, so one pass in rising order suffices. -/
def droppedNodes (q : QPacket) (ns : List GraphNode) : List Nat :=
  (ns.zipIdx).foldl (fun acc x =>
    if x.1.preds.any (fun p => acc.contains p || q.ended.any fun e => e.idx = p && e.status ≠ .ok)
    then acc ++ [x.2] else acc) []

/-- The parts or nodes that can still be dispatched now or later. -/
def QPacket.openIdx (q : QPacket) : List Nat :=
  if q.dropped then []
  else match q.nodes with
    | some ns =>
      let dead := droppedNodes q ns
      (List.range ns.length).filter fun i => !(q.dispatched.contains i) && !(dead.contains i)
    | none =>
      if q.pk.serial = 1 ∧ (worstEnd q.ended).isSome then []
      else (List.range q.pk.parts.length).filter fun i => !(q.dispatched.contains i)

/-- A REPLAY packet that has not started (R339). -/
def QPacket.unstarted (q : QPacket) : Bool := q.pk.kind == 1 && q.nodes.isNone && !q.dropped

/-- Whether a packet has ended: nothing open and every dispatched part ended (R342). -/
def QPacket.over (q : QPacket) : Bool :=
  !q.unstarted && q.openIdx.isEmpty && q.dispatched.all fun i => q.ended.any fun e => e.idx = i

/-- The completion record of a packet (R342); `destroyed` says that its queue was, while it was the head (R343). -/
def QPacket.record (q : QPacket) (num time : Nat) (destroyed : Bool) : Completion :=
  match worstEnd q.ended with
  | some e => ⟨q.pk.cookie, num, e.status, e.cause, q.dispatched.length, e.idx, e.rank, e.trapPc, time⟩
  | none =>
    if destroyed then
      ⟨q.pk.cookie, num, .destroyed, 0, q.dispatched.length,
        ((List.range q.size).find? fun i => !(q.dispatched.contains i)).getD 0xFFFFFFFF, 0, 0, time⟩
    else ⟨q.pk.cookie, num, .ok, 0, q.dispatched.length, 0xFFFFFFFF, 0, 0, time⟩

/-- The code of a status (R342). -/
def EndStatus.code : EndStatus → Nat
  | .ok => 0
  | .fault => 1
  | .vigil => 2
  | .limit => 3
  | .destroyed => 4
  | .rejected => 5
  | .image => 6
  | .busy => 7

/-- The 32 bytes of a completion record (R342). -/
def Completion.bytes (r : Completion) : List Byte :=
  natToBytes 4 r.cookie ++ natToBytes 1 r.queue ++ natToBytes 1 r.status.code ++ [r.cause] ++ [0] ++ natToBytes 4 r.ran
    ++ natToBytes 4 r.first ++ natToBytes 2 r.rank ++ [0, 0] ++ natToBytes 4 r.trapPc.toNat ++ natToBytes 8 r.time

/-- A record that concerns a packet as a whole and names no part (R339, R342, R343). -/
def wholeRecord (cookie num first time : Nat) (st : EndStatus) : Completion :=
  ⟨cookie, num, st, 0, 0, first, 0, 0, time⟩

/-- Write a completion record to a ring of a partition (R342). -/
def State.record (s : State) (part ring : Nat) (r : Completion) : State :=
  s.modPart part fun p => { p with records := p.records ++ [(ring, r)] }

/-- F1, or F7 in its place, is at work (R350). -/
def State.scheduling (s : State) : Bool := !s.fw.f1Halted || s.fw.schedulerF7

/-- The journal records that await F7's acknowledgement. -/
def State.unacked (s : State) : List JournalEvent := s.fw.journal.drop s.fw.acked

/-- Slots of a firmware core's mailbox: a sender to a full one waits (R348). -/
def mailboxSlots : Nat := 128

/-- F7's mailbox has room for the copy of another record, and none waits for it. -/
def State.journalOpen (s : State) : Bool := decide (s.unacked.length < mailboxSlots) && s.fw.owed.isEmpty

/-- Write a journal record; it takes effect when it is acknowledged (R349). One whose copy finds F7's mailbox full waits (R348). -/
def State.journal (s : State) (e : JournalEvent) : State :=
  if s.journalOpen then { s with fw := { s.fw with journal := s.fw.journal ++ [e] } }
  else { s with fw := { s.fw with owed := s.fw.owed ++ [e] } }

/-- Records that wait are entered, the oldest first, as far as F7's mailbox has room for their copies (R348). -/
def State.enterOwed (s : State) : State :=
  s.fw.owed.foldl (fun st e => st.journal e) { s with fw := { s.fw with owed := [] } }

/-- The head of a queue: its first packet with something still to dispatch (R340). -/
def Queue.head (q : Queue) : Option QPacket := q.packets.find? fun k => k.unstarted || !k.openIdx.isEmpty

/-- The decisions F1 owes a queue: the release of packets that are over, in queue order, and the start of a replay that
has become the head (R339, R342). -/
def Queue.decisions (q : Queue) : List JournalEvent :=
  ((q.packets.filter fun k => k.over).map fun k => .release q.part q.num k.id)
    ++ (match q.head with
      | some k => if k.unstarted then [.replayStart q.part q.num k.id] else []
      | none => [])

/-- F1 enters the decisions it owes in its journal, as far as F7's mailbox takes their copies. -/
def State.scan (s : State) : State :=
  if ¬ s.scheduling then s
  else (s.queues.flatMap Queue.decisions).foldl (fun st e =>
    if st.unacked.contains e || !st.journalOpen then st else st.journal e) s

/-- A message reaches F1's mailbox; it is taken when F1, or F7 in its place, comes to it (R348). -/
def State.post (s : State) (e : Request) : State := { s with fw := { s.fw with requests := s.fw.requests ++ [e] } }

/-- An armed entry whose task ended: ARMED again under REARM, else FREE; a disarm takes effect (R344, R345). -/
def State.rearm (s : State) (part id : Nat) : State :=
  { s with arms := (s.arms.filter fun a =>
      !(a.part = part && a.id = id && (a.disarm || !a.rearm))).map fun a =>
        if a.part = part ∧ a.id = id then { a with state := .armed } else a }

/-- The packet a task came from. -/
def State.packetOf (s : State) (t : Task) : Option QPacket :=
  (s.queues.find? fun q => q.part = t.part && q.num = t.queue).bind fun q => q.packets.find? fun k => k.id = t.packet

/-- The journal record of a task's end takes effect: the end is entered in its packet, F2 is to release the pins of the
task, and its armed entry returns (R59, R137, R138, R345). -/
def State.closeTask (s : State) (t : Task) (e : PartEnd) : State :=
  let s1 := s.modQueue t.part t.queue fun q =>
    { q with packets := q.packets.map fun k => if k.id = t.packet then { k with ended := k.ended ++ [e] } else k }
  let s2 := match (s.packetOf t).bind fun k => k.armed with
    | some a => s1.rearm t.part a.id
    | none => s1
  { s2 with
    tasks := s2.tasks.filter fun x => x.id ≠ t.id
    saved := s2.saved.filter fun x => x.core.task ≠ t.id
    releases := s2.releases ++ ((s2.almanac.filter fun x => x.2.task = t.id ∧ x.2.state = .active).map fun x =>
      (x.1, x.2.gen.toNat)) }

/-- A task has ended: F0 reports it and the end is entered in the journal (R349, R350). -/
def State.partEnded (s : State) (t : Task) (e : PartEnd) : State :=
  if t.ending.isSome then s
  else (s.modTask t.id fun x => { x with ending := some e }).journal (.taskEnd t.id)

/-- What a core keeps when its task ends by a fault: its started commands run on, queued ones are
discarded and their tags left (R138). -/
def Core.stopStrand (c : Core) : Core :=
  let cut (e : Engine) : Engine := { e with queue := [], hand := [], stack := [], cond := none, held := none, report := none }
  { c with ctx := .ended, waiting := .none, cur := none, slots := none, preempt := false, dump := false
           acc := c.acc.filter fun a => match a.kind with | .waita .. => false | _ => true
           matrix := cut c.matrix, copy := cut c.copy, lantern := cut c.lantern, fq := [] }

/-! ## Sample and wait rings (19 R395-R399) -/

/-- Fields of SAMPLECFG (R392). -/
def Core.wthr (c : Core) : Nat := (c.samplecfg.extractLsb' 22 4).toNat
def Core.wlog (c : Core) : Bool := c.samplecfg.getLsbD 21
def Core.ringLog (c : Core) : Nat := (c.samplecfg.extractLsb' 16 5).toNat
def Core.sampleExp (c : Core) : Nat := (c.samplecfg.extractLsb' 8 5).toNat
def Core.sen (c : Core) : Bool := c.samplecfg.getLsbD 0
def Core.vdie (c : Core) : Nat := (c.vtopo.extractLsb' 16 2).toNat

/-- The local address of the slot of a record: the wait ring at the top of the allotment, the sample ring
directly below (R395). -/
def Core.ringSlot (c : Core) (isWait : Bool) (seq : Nat) : Nat :=
  let size := 32 * 2 ^ c.ringLog
  0x20000000 + c.poolMb * 0x100000 - (if isWait then size else 2 * size) + seq % 2 ^ c.ringLog * 32

/-- Write a record of 32 bytes to a ring of a core's die in one row write; `mk` gives the bytes for its sequence number. The
record it overwrites counts as lost if F6 has not read it (R396). -/
def State.ringWrite (s : State) (c : Core) (isWait : Bool) (mk : Nat → List Byte) : State :=
  match mapGet s.parts c.partId with
  | none => s
  | some p =>
    let q := (mapGet p.ringSeq c.vdie).getD (0, 0)
    let seq := if isWait then q.2 else q.1
    let q' := if isWait then (q.1, q.2 + 1) else (q.1 + 1, q.2)
    let r := (mapGet p.ringRead c.vdie).getD (0, 0)
    let lost : Nat := if (if isWait then r.2 else r.1) + 2 ^ c.ringLog ≤ seq then 1 else 0
    let a := (c.spaceOf .pool (c.ringSlot isWait seq)).2
    let d := dieOf c.phys
    if h : d < 4 then
      { s with
        parts := mapSet s.parts c.partId { p with ringSeq := mapSet p.ringSeq c.vdie q', ringLost := p.ringLost + lost }
        dies := s.dies.set d { s.dies[d] with pool := memWrite s.dies[d].pool a (mk seq) } }
    else s

/-- KIND and FLAG of the wait record of a waiting instruction (R398). -/
def Core.waitKind (c : Core) (i : Instr) : Option (Nat × Word) :=
  match i with
  | .tagWany a => some (1, c.rs a)
  | .tagWall a => some (2, c.rs a)
  | .barWait _ id => some (3, id.setWidth 64)
  | .waita _ _ k b _ _ => some (4, (c.rk k).vbase.setWidth 64 + c.rn b)
  | .sync | .alignEquinox => some (5, BitVec.ofNat 64 (c.eqx + 1))
  | _ => none

/-- The wait record of a core whose instruction ends its wait, if it stalled long enough (R398). -/
def State.logWait (s : State) (c : Core) (i : Instr) (ended : Nat) (setter : BitVec 32) : State :=
  let cycles := s.now - c.waitStart
  match c.waitKind i with
  | none => s
  | some (kind, flag) =>
    if ¬ c.wlog ∨ c.stall < 9 ∨ 12 < c.stall ∨ cycles < 2 ^ c.wthr then s
    else s.ringWrite c true fun seq =>
      natToBytes 4 seq ++ natToBytes 4 c.pc.toNat ++ natToBytes 4 (min cycles 0xFFFFFFFF)
        ++ [BitVec.ofNat 8 kind, BitVec.ofNat 8 ended] ++ natToBytes 2 c.rank ++ natToBytes 4 setter.toNat
        ++ natToBytes 4 (c.waitCal.toNat % 2 ^ 32) ++ natToBytes 8 flag.toNat

/-- SETTER of class 0: an engine and the tag it set; of class 1: a core; 2: none; 3: firmware (R399). -/
def setterEngine (eng tag : Nat) : BitVec 32 := BitVec.ofNat 32 (eng * 2 ^ 16 + tag * 2 ^ 8)
def setterCore (pkg n : Nat) : BitVec 32 := BitVec.ofNat 32 (2 ^ 30 + pkg * 2 ^ 16 + n)
def setterNone : BitVec 32 := BitVec.ofNat 32 (2 * 2 ^ 30)
def setterFirmware : BitVec 32 := BitVec.ofNat 32 (3 * 2 ^ 30)

/-- The records of waits that the end of their task ends, END 4, in increasing physical core number (R396, R398). -/
def State.logEnded (s : State) (task : Nat) : State :=
  s.sorted.foldl (fun st c =>
    match c.cur with
    | some i => if c.task = task ∧ c.ctx = .running then st.logWait c i 4 setterNone else st
    | none => st) s

/-! ## The end of a task -/

/-- The registrations of a task's cores leave every waiter table. -/
def State.dropWaiters (s : State) (id : Nat) : State :=
  let keep (ws : List Waiter) := ws.filter fun w => !(s.cores.any fun c => c.phys == w.core && c.task == id)
  { s with dies := s.dies.map fun d => { d with waiters := keep d.waiters }
           pkgWaiters := keep s.pkgWaiters, lentWaiters := keep s.lentWaiters }

/-- F6 reports the live dumps that cores of a task still owed as it ended (R407). -/
def State.dumpsMissed (s : State) (cs : List Core) : State :=
  { s with fw := { s.fw with telemetryFlags := s.fw.telemetryFlags ++ (cs.filter Core.dump).map fun c => .dumpMissed c.phys } }

/-- The task ends under R138 with this end. -/
def State.endTask (s : State) (id : Nat) (status : EndStatus) (cause : BitVec 8) (rank : Nat) (pc : BitVec 32) : State :=
  let s1 := ((s.logEnded id).dumpsMissed (s.cores.filter fun c => c.task = id)).dropWaiters id |>.modAll fun c => if c.task = id then c.stopStrand else c
  match s1.task? id with
  | some t => s1.partEnded t ⟨t.idx, status, cause, rank, pc⟩
  | none => s1

/-! ## Traps (R352, R356-R359) and return (R231) -/

/-- Trap entry on the running core: cause, value, resume address (R352, R224). Reports of reductions that lose to the trap
are kept for after its `eret` (R355). -/
def Core.enterTrap (c : Core) (now : Nat) (code : BitVec 8) (val : Word) (pc : BitVec 32) : Core :=
  let pend := match c.slots with
    | some ⟨left, some t, _⟩ => some (left, t)
    | _ => none
  { c with
    trapCause := code
    trapPc := pc &&& ~~~3
    trapVal := val
    dsField := match pend with | some x => BitVec.ofNat 2 x.1 | none => 0
    trapTgt := match pend with | some x => x.2 &&& ~~~3 | none => c.trapTgt
    inh := true
    redHeld := c.redHeld ++ c.redOwed
    redOwed := []
    pc := c.tvec
    slots := none
    waiting := .none
    cur := none
    acted := true
    headPc := c.tvec
    headSlot := false
    headInh := true
    nextIssue := now + 6
    stall := 18
    events := 0x0E :: c.events }

/-- Taking a trap: to the handler at TVEC; with no handler, or in a handler, the task ends (R356, R357). -/
def State.takeTrap (s : State) (code : BitVec 8) (val : Word) (pc : BitVec 32) : State :=
  if s.core.inh then s.endTask s.core.task .fault (code + 0x80) s.core.rank pc
  else if s.core.tvec = 0 then s.endTask s.core.task .fault code s.core.rank pc
  else { s with core := s.core.enterTrap s.now code val pc }

/-- The VIGIL fault ends the task, in or out of a handler (R147, R357, R359). -/
def State.vigilFault (s : State) : State := s.endTask s.core.task .vigil 9 s.core.rank s.core.pc

/-- TRAPVAL of a POISON or INTEGRITY report (R360). -/
def PoisonReport.val (r : PoisonReport) : Word := r.src ++ r.reg ++ r.addr

/-- The nodes of the counter tree of arity 8 over a line: level and index, the lowest first (R384). -/
def nodesOver (line : Nat) : List (Nat × Nat) := (List.range 11).map fun i => (i + 1, line / 8 ^ (i + 1))

/-- A line lies under a tree node that fails its MAC (R385). -/
def State.nodeFails (s : State) (line : Nat) : Bool := (nodesOver line).any fun x => s.macNodes.contains x

/-- The frame's entry is marked TRANSITION (R382 step 1). -/
def State.inChange (s : State) (f : Nat) : State := { s with pot := mapSet s.pot f { s.potOf f with transition := true } }

/-- Steps 1 of the change of a frame to the firmware owner (R382, R386): a change under way ends so. -/
def State.toFirmware (s : State) (f : Nat) : State :=
  let e := s.potOf f
  { s.inChange f with
    potWork := if e.transition then s.potWork.map fun w => if w.1 = f then (f, { w.2 with owner := .firmware }) else w
      else s.potWork ++ [(f, { e with owner := .firmware })] }

/-- F4's record of an INTEGRITY, and steps 1 and 2 of the change of the frame to the firmware owner (R359, R382, R386): no partition
has the frame any more, and F2 sweeps the entries that pin it. R386 names the frame alone, R34 wants the entries of a mapped 2 MiB
page to agree: all its frames go (DESIGN CHOICE, log entry 71). -/
def State.logIntegrity (s : State) (part line : Nat) (rank : Option Nat) (pc : BitVec 32) : State :=
  let fs := s.potFrames (line / 512)
  let s1 := fs.foldl State.toFirmware s
  State.askSweeps { s1 with
    trust := { s1.trust with secLog := s1.trust.secLog ++ [⟨part, some (line / 512), line % 512, s.nodeFails line, s.time, rank, pc⟩] }
    parts := s1.parts.map fun x => (x.1, { x.2 with frames := x.2.frames.filter fun y => !fs.contains y }) } (s1.pinsFrames fs)

/-- INTEGRITY ends the task and is logged (R359). -/
def State.integrityFault (s : State) (r : PoisonReport) : State :=
  let s1 := match r.line with
    | some l => s.logIntegrity s.core.partId l (some s.core.rank) s.core.pc
    | none => s
  s1.endTask s.core.task .fault 13 s.core.rank s.core.pc

/-- F3 logs a memory report; the two of requests lost with their port are F5's (R128, R359, R360). -/
def State.logPoison (s : State) (r : PoisonReport) : State :=
  if r.src = 4 ∨ r.src = 6 then s else { s with fw := { s.fw with errors := s.fw.errors ++ [.poison r] } }

/-- Deliver a POISON report as a trap, or end the task for INTEGRITY (R243, R359). -/
def State.takePoison (s : State) (r : PoisonReport) : State :=
  if r.integrity then s.integrityFault r else (s.logPoison r).takeTrap 12 r.val s.core.pc

/-- Return from a handler (R231); the reports that lost to its trap are taken at the next issue (R355). -/
def Core.leaveTrap (c : Core) (now : Nat) : Core :=
  { c with
    inh := false
    redOwed := c.redHeld ++ c.redOwed
    redHeld := []
    pc := c.trapPc &&& ~~~3
    slots := if c.dsField = 0 then none else some ⟨c.dsField.toNat, some (c.trapTgt &&& ~~~3), now + 4⟩
    dsField := 0
    nextIssue := now + 4 }

/-! ## Retirement (R147, R156, R222) -/

/-- Take up the held loop writes (R157). -/
def Core.applyHeld (c : Core) : Core :=
  { c with ls := c.heldLs.getD c.ls, le := c.heldLe.getD c.le, heldLs := none, heldLe := none }

/-- Whether the instruction at pc is the delay slot of a taken transfer. -/
def Core.inTakenSlot (c : Core) : Bool :=
  match c.slots with
  | some ⟨_, some _, _⟩ => true
  | _ => false

/-- The instruction at pc is the last delay slot of a taken transfer. -/
def Core.leavesSlot (c : Core) : Bool :=
  match c.slots with
  | some ⟨1, some _, _⟩ => true
  | _ => false

/-- The program counter after an instruction that does not itself transfer: delay slots, then the
loop-end test (R156, R222). A loop-back goes to the low 32 bits of `ls`; the spec does not say what bits [63:32] do
(DESIGN CHOICE, log entry 61). -/
def Core.advance (c : Core) : Core :=
  let test := c.lc ≠ 0 ∧ c.pc.setWidth 64 = c.le ∧ ¬ c.inTakenSlot
  let slots' := match c.slots with
    | some ⟨n + 2, t, e⟩ => some (⟨n + 1, t, e⟩ : Slots)
    | _ => none
  let seq := match c.slots with
    | some ⟨1, some t, _⟩ => t
    | _ => c.pc + 4
  let from' := match c.slots with
    | some ⟨1, some _, e⟩ => max c.nextIssue e
    | _ => c.nextIssue
  if test then
    if 1 < c.lc.toNat then
      let c1 := c.applyHeld
      { c1 with lc := c.lc - 1, pc := c1.ls.setWidth 32, slots := slots' }
    else { c.applyHeld with lc := 0, pc := (c.le + 4).setWidth 32, slots := slots' }
  else { c with pc := seq, slots := slots', nextIssue := from', jumped := c.jumped || c.leavesSlot }

/-- End of an instruction at issue: counted, Vigil lowered, the strand done for this cycle (R147, R209). -/
def Core.finish (c : Core) (counts : Bool) (now : Nat) : Core :=
  { c with
    vigil := if counts then c.vigil - 1 else c.vigil
    cur := none
    waiting := .none
    acted := true
    stall := 0
    nextIssue := max c.nextIssue (now + 1)
    events := 0x02 :: c.events }

/-- Retirement of an instruction that does not transfer. -/
def Core.retire (c : Core) (now : Nat) : Core := (c.advance).finish true now

/-- Retirement of a `br`, `bz`, `call` or `ret`: two delay slots, then the target if taken (R222). -/
def Core.retireBranch (c : Core) (target : Option (BitVec 32)) (earliest now : Nat) : Core :=
  ({ c with pc := c.pc + 4, slots := some ⟨2, target, earliest⟩ }).finish true now

/-- Retirement to an address with no delay slots (R155, R231). -/
def Core.retireTo (c : Core) (pc : BitVec 32) (now : Nat) : Core := ({ c with pc := pc }).finish true now

/-- The row of 64 bytes that holds an address. -/
def lineOf (a : Nat) : Nat := a / 64 * 64

/-- Ask for a row of the scratchpad to be read for the strand's fetch, from a cycle on (R212). -/
def Core.askRow (c : Core) (a now : Nat) : Core :=
  let r := lineOf a
  if 0x300000 ≤ r ∨ c.rowReads.any (fun x => x.addr == r) then c else { c with rowReads := c.rowReads ++ [⟨r, now, 0⟩] }

/-- A cycle on which the strand stalls for a reason of R394. -/
def Core.stalled (c : Core) (reason : BitVec 8) (now : Nat) : Core :=
  { c with
    acted := true
    stall := reason
    waitStart := if c.stall = reason then c.waitStart else now
    waitCal := if c.stall = reason then c.waitCal else c.calendar }

def State.stallFor (s : State) (reason : BitVec 8) : State := s.mod fun c => c.stalled reason s.now

/-! ## Tokens (R10, R37, R39, R52) -/

/-- Results of Token.Check, with an invalid token told apart for the bookkeeping of R52. -/
inductive Check where
  | ok | oob | invalid | stale | miss
  deriving DecidableEq, Repr

/-- The frame an access through a token looks up in the token frame cache. -/
def Token.frameOf (t : Token) (off : Nat) : Nat :=
  (t.vbase.toNat + (if off < t.len then off else 0)) / 65536

/-- The offsets of an access whose frames are looked up: its first byte, and its last, in the next frame perhaps. R39 does not say
which frames of the byte range of a command are looked up: those of its first and last byte, and for a side that is indexed that of
offset 0 (DESIGN CHOICE, log entry 76). -/
def Token.lookups (t : Token) (off n : Nat) : List Nat :=
  if n = 0 ∨ t.len < off + n ∨ t.frameOf (off + n - 1) = t.frameOf off then [off] else [off, off + n - 1]

/-- The line of the token frame cache for the frame of an offset of a token. -/
def Core.cached (c : Core) (t : Token) (off : Nat) : Option TfcEntry :=
  c.tfc.find? fun e => e.index = t.index.toNat && e.frame = t.frameOf off

/-- The first offset of an access whose frame is not in the token frame cache. -/
def Core.missAt (c : Core) (t : Token) (off n : Nat) : Option Nat := (t.lookups off n).find? fun o => (c.cached t o).isNone

/-- Token.Check on the running core (R10, R37): a lookup that is not in the token frame cache is a miss. -/
def Core.check (c : Core) (owner : Nat) (t : Token) (off n : Nat) : Check :=
  if t.gen = 0 ∨ t.part.toNat ≠ c.partId ∨ owner ≠ t.part.toNat then .invalid
  else if (c.missAt t off n).isSome then .miss
  else if (t.lookups off n).any fun o => (c.cached t o).any fun e => !e.active || e.gen != t.gen then .stale
  else if t.len < off + n then .oob
  else .ok

/-- Token.Check of the running core against the Almanac's owner field. An entry no one owns yet is stale,
not foreign (R37). -/
def State.check (s : State) (t : Token) (off n : Nat) : Check :=
  let e := s.entry t.index.toNat
  s.core.check (if e.state = .free then t.part.toNat else e.owner) t off n

/-- A check that needs rights (R51): stale first, then invalid, out of extent, rights miss (R52). -/
def State.checkRights (s : State) (t : Token) (off n : Nat) (need : BitVec 2) : Check :=
  match s.check t off n with
  | .ok => if t.rights &&& need = need then .ok else .oob
  | x => x

/-- Saturating OOBCNT and STATUS.OOB (R47, R52, R53). -/
def Core.countOob (c : Core) : Core :=
  { c with oobcnt := if c.oobcnt = BitVec.allOnes 32 then c.oobcnt else c.oobcnt + 1, oob := true
           events := 0x0A :: c.events }

/-- The bookkeeping of a null access (R52). -/
def Core.nullBook (c : Core) (k : Check) : Core :=
  match k with
  | .stale => { c with revpend := true, events := 0x0A :: c.events }
  | .ok | .miss => c
  | .oob | .invalid => c.countOob

/-- Start the fill of a token-frame-cache miss; the strand stalls meanwhile (R39). -/
def State.startFill (s : State) (t : Token) (off : Nat) : State :=
  match s.core.tfcReq with
  | some _ => s.stallFor 1
  | none =>
    State.stallFor { s with
      core := { s.core with tfcReq := some (t.index.toNat, t.frameOf off, s.dueCycle), events := 0x0B :: s.core.events }
      fv := s.fv + 1 } 1

/-- A token-frame-cache fill from the Almanac (R39): a stale entry replaces every cached line of its index,
and a full cache loses one entry of free choice. -/
def tfcFill (tfc : List TfcEntry) (e : TfcEntry) (victim : Nat) : List TfcEntry :=
  let kept := if e.active then tfc else tfc.filter fun x => x.index ≠ e.index
  if kept.length < Config.tfcSize then kept ++ [e] else (kept.eraseIdx (victim % kept.length)) ++ [e]

/-! ## Outstanding accesses -/

/-- The ranges an access still has to read. -/
def Access.unread (a : Access) : List (Nat × Nat) := a.reads.filter fun r => !(a.got.any fun c => c.1 = r.1)

/-- The ranges an access still has to touch (R91). -/
def Access.touches (a : Access) : List (Nat × Nat) :=
  a.unread ++ (a.parts.flatMap fun p => p.map fun c => (c.1, 1))

def rangesMeet (x y : List (Nat × Nat)) : Bool :=
  x.any fun a => y.any fun b => decide (a.1 < b.1 + b.2) && decide (b.1 < a.1 + a.2)

/-- An access of the list of outstanding ones. -/
def Core.access? (c : Core) (id : Nat) : Option Access := c.acc.find? fun a => a.id = id

def Core.setAccess (c : Core) (a : Access) : Core :=
  { c with acc := c.acc.map fun x => if x.id = a.id then a else x }

def Core.dropAccess (c : Core) (id : Nat) : Core := { c with acc := c.acc.filter fun x => x.id ≠ id }

/-- Whether an access is a store of the strand. -/
def Access.isStore (a : Access) : Bool :=
  match a.kind with
  | .store => true
  | _ => false

/-- Whether an access is a load. -/
def Access.isLoad (a : Access) : Bool :=
  match a.kind with
  | .load .. | .kload .. | .vload .. => true
  | _ => false

/-- A remote-home access, which takes part in no ordering but that of `fence.dm` (R96). -/
def Access.lent (a : Access) : Bool :=
  match a.space with
  | .lent _ => true
  | _ => false

/-- Whether an access goes through a token. -/
def Access.isToken (a : Access) : Bool :=
  match a.space with
  | .main | .lent _ => true
  | _ => false

/-- Outstanding token loads, atomics and reductions and interlocked loads (R125, R246). A local atomic with a destination
and a `waita` count as well; R125 and R246 do not name them (DESIGN CHOICE, log entry 45). -/
def Core.loadsOut (c : Core) : Nat := (c.acc.filter fun a => !a.isStore).length
/-- Entries of the token store queue (R241). -/
def Core.tokenStores (c : Core) : Nat := (c.acc.filter fun a => a.isStore && a.isToken).length
/-- Entries of the local store queue: 16 for a vector store (R246, R250). -/
def Core.localStores (c : Core) : Nat :=
  c.acc.foldl (fun m a => if a.isStore && !a.isToken then m + (if 64 < a.n then 16 else 1) else m) 0

/-! ## The lines of a remote access (R76, R367) -/

/-- A port that is UP in both directions carries requests (R366). -/
def Port.goes (x : Port) : Bool := x.tx.state == .up && x.rx.state == .up

/-- The port a request to a lender's line goes out on: of those UP with a path to it, by the port hash (R367). -/
def State.portFor (s : State) (pkg addr : Nat) : Option Nat :=
  let open' := (List.range 16).filter fun p => ((s.ports[p]?).any fun x => x.goes) && Config.portReaches p pkg
  if open'.isEmpty then none else open'[Config.portHash pkg (addr % 2 ^ 48 / 128) (open'.foldl (fun m p => m + 2 ^ p) 0) % open'.length]?

/-- A byte address lies in the second of the two lines an access may touch: frames keep the low bits of addresses. -/
def Access.upper (a : Access) (x : Nat) : Bool := x / 128 % 2 != a.va / 128 % 2

/-- An access to a lender that crosses a line is two requests (R76, R367). -/
def Access.crossing (a : Access) : Bool := a.lent && decide (128 < a.va % 128 + a.n)

/-- An address that an access still has to touch in one of its lines. -/
def Access.lineAddr (a : Access) (upper : Bool) : Nat := ((a.touches.find? fun r => a.upper r.1 == upper).getD (0, 0)).1

/-- The ports that the hash gives the lines of an access on this cycle. -/
def State.waysFor (s : State) (a : Access) : Option Nat × Option Nat :=
  match a.space with
  | .lent k => (s.portFor k (a.lineAddr false), if a.crossing then s.portFor k (a.lineAddr true) else none)
  | _ => (none, none)

/-- Add an access to the outstanding ones, due at a free cycle; the ports of a remote one are those of its issue cycle (R367). -/
def State.issueAccess (s : State) (a : Access) : State :=
  { s with
    core := { s.core with acc := s.core.acc ++ [{ a with
                            id := s.core.accNext, issued := s.now, due := s.dueCycle, way := s.waysFor a }]
                          accNext := s.core.accNext + 1 }
    fv := s.fv + 1 }

/-- The pieces of an untimed access that are single-copy atomic (R77): naturally aligned, at most 8 bytes. -/
def piecesGo : Nat → Nat → Nat → List (Nat × Nat)
  | 0, _, _ => []
  | fuel + 1, a, n =>
    if n = 0 then []
    else
      let m := min n (8 - a % 8)
      if (m = 1 ∨ m = 2 ∨ m = 4 ∨ m = 8) ∧ a % m = 0 then (a, m) :: piecesGo fuel (a + m) (n - m)
      else (a, 1) :: piecesGo fuel (a + 1) (n - 1)

def pieces (a n : Nat) : List (Nat × Nat) := piecesGo n a n

/-- The cells of bytes laid out over pieces. -/
def cellParts : List (Nat × Nat) → List Byte → List (List Host.Cell)
  | [], _ => []
  | (a, n) :: rest, bs => cellsAt a (bs.take n) :: cellParts rest (bs.drop n)

/-- Cells of bytes over address ranges. -/
def cellsOver : List (Nat × Nat) → List Byte → List Host.Cell
  | [], _ => []
  | (a, n) :: rest, bs => cellsAt a (bs.take n) ++ cellsOver rest (bs.drop n)

end Sys2Proof.Machine
end

