-- ==== Sys2Proof/Machine/Operands.lean ====
section
/-! DEFINITION. Operand forms: the registers an instruction reads and writes, the local and token addresses
it forms, and the gate every strand instruction passes at issue: illegal placement, Vigil, interlocks,
its own address traps, owed poison (09 R209, 10 R238, 11 R263, 16 R355). -/

namespace Sys2Proof.Machine

def sr (r : BitVec 5) : Reg := .s r.toNat
def sn (r : BitVec 4) : Reg := .s r.toNat
def vr (r : BitVec 4) : Reg := .v r.toNat
def pr (r : BitVec 3) : Reg := .p r.toNat
def kr (r : BitVec 4) : Reg := .k r.toNat
def br' (r : BitVec 2) : Reg := .b r.toNat
/-- The stack pointer `s31` (R183). -/
def spReg : BitVec 5 := 31

/-! ## Registers an instruction reads (R209) -/

/-- The registers an instruction reads, but for those an `enq.*` captures. R265 does not say whether a guarded instruction reads its
destination, whose other elements it keeps: it does, so it waits for it and takes its poison mark (DESIGN CHOICE, log entry 77). -/
def sourcesOf : Instr → List Reg
  | .add _ a b | .sub _ a b | .and _ a b | .or _ a b | .xor _ a b | .andn _ a b | .orn _ a b | .xnor _ a b
  | .sll _ a b | .srl _ a b | .sra _ a b | .rol _ a b | .ror _ a b | .mul _ a b | .mulh _ a b | .mulhu _ a b
  | .div _ a b | .divu _ a b | .rem _ a b | .remu _ a b | .min _ a b | .max _ a b | .minu _ a b | .maxu _ a b
  | .fsl _ a b _ | .fsr _ a b _ | .cmpEq a b | .cmpNe a b | .cmpLt a b | .cmpGe a b | .cmpLtu a b | .cmpGeu a b
  | .tst a b => [sr a, sr b]
  | .sel _ a b => [sr a, sr b, .bc]
  | .clz _ a | .ctz _ a | .popc _ a | .bswap _ a | .brev _ a | .addi _ a _ | .andi _ a _ | .ori _ a _
  | .xori _ a _ | .slli _ a _ | .srli _ a _ | .srai _ a _ | .rori _ a _ | .cmpiEq a _ | .cmpiNe a _ | .cmpiLt a _
  | .cmpiGe a _ | .cmpiLtu a _ | .cmpiGeu a _ | .tsti a _ | .ptr _ a | .mtbc a | .loop a _ | .mtc a _ _
  | .ctrSel a _ | .tagWany a | .tagWall a | .tagFfr _ a | .tagClr a | .barWait a _ | .enqM a | .enqC a | .enqL a
  | .fmtq a => [sr a]
  | .lut3 _ a b c _ => [sr a, sr b, sr c]
  | .br t | .bz t => [br' t, .bc]
  | .call t => [br' t, .s 31]
  | .ret _ => [.s 31]
  | .mfb _ t => [br' t]
  | .mtl a _ => [sr a, .loopRegs]
  | .mfl _ _ => [.loopRegs]
  | .loopPush => [.s 31, .loopRegs]
  | .loopPop => [.s 31]
  | .mfbc _ => [.bc]
  | .svc _ => [.s 1, .s 2, .s 3, .s 4, .s 5, .s 6]
  | .xlat _ a b _ => [sr a, sr b]
  | .kinfo _ k _ | .kmov _ k | .krel k => [kr k]
  | .ksub _ k o l => [kr k, sr o, sr l]
  | .kst k j o => [kr k, kr j, sr o]
  | .kstL k b _ => [kr k, sr b]
  | .kld _ j o => [kr j, sr o]
  | .kldL _ b _ => [sr b]
  | .ld _ k b _ _ _ _ => [kr k, sr b]
  | .st d k b _ _ _ => [sr d, kr k, sr b]
  | .lds _ _ a _ _ _ => [sr a]
  | .sts _ d a _ _ => [sr d, sr a]
  | .amoAdd _ _ k b c _ _ | .amoAnd _ _ k b c _ _ | .amoOr _ _ k b c _ _ | .amoXor _ _ k b c _ _
  | .amoMin _ _ k b c _ _ | .amoMax _ _ k b c _ _ | .amoMinu _ _ k b c _ _ | .amoMaxu _ _ k b c _ _
  | .amoSwap _ _ k b c _ _ | .amoFadd _ k b c _ _ => [kr k, sn b, sn c]
  | .amoCas _ d k b c _ _ | .amoAddt _ d k b c _ _ => [sn d, kr k, sn b, sn c]
  | .waita _ _ k b c _ => [kr k, sn b, sn c]
  | .lamoAdd _ _ a _ c _ | .lamoAnd _ _ a _ c _ | .lamoOr _ _ a _ c _ | .lamoXor _ _ a _ c _
  | .lamoMin _ _ a _ c _ | .lamoMax _ _ a _ c _ | .lamoMinu _ _ a _ c _ | .lamoMaxu _ _ a _ c _
  | .lamoSwap _ _ a _ c _ | .lamoFadd _ a _ c _ => [sn a, sn c]
  | .lamoCas _ d a _ c _ => [sn d, sn a, sn c]
  | .vaddI32 d a b p | .vsubI32 d a b p | .vmulI32 d a b p | .vmulhI32 d a b p | .vmulhU32 d a b p
  | .vminI32 d a b p | .vmaxI32 d a b p | .vminU32 d a b p | .vmaxU32 d a b p | .vaddsI32 d a b p
  | .vsubsI32 d a b p | .vand d a b p | .vor d a b p | .vxor d a b p | .vandn d a b p | .vsll d a b p
  | .vsrl d a b p | .vsra d a b p | .vminF32 d a b p | .vmaxF32 d a b p | .vaddF32 d a b p _ | .vsubF32 d a b p _
  | .vmulF32 d a b p _ => if p = 0 then [vr a, vr b] else [vr a, vr b, vr d, pr p]
  | .vsel _ a b p => [vr a, vr b, pr p]
  | .vfmaF32 d a b c p _ => if p = 0 then [vr a, vr b, vr c] else [vr a, vr b, vr c, vr d, pr p]
  | .vabsI32 d a p | .vnegI32 d a p | .vmov d a p | .vclz d a p | .vpopc d a p | .vabsF32 d a p | .vnegF32 d a p
  | .vcvtNarrow d a _ p _ | .vcvtWiden d a _ p | .vcvtI32F32 d a p _ | .vcvtF32I32 d a p _
  | .vcvtsNarrow d a _ p _ | .vrcp d a p _ | .vrsqrt d a p _ | .vsqrt d a p _ | .vexp2 d a p _ | .vlog2 d a p _
  | .vexp d a p _ | .vtanh d a p _ | .vsigm d a p _ | .vsin d a p _ | .vcos d a p _ | .verf d a p _ =>
      if p = 0 then [vr a] else [vr a, vr d, pr p]
  | .vsumRa _ a _ | .vsumCa _ a _ | .vmaxRa _ a _ | .vmaxCa _ a _ | .vminRa _ a _ | .vminCa _ a _
  | .vrotRa _ a _ | .vrotCa _ a _ | .vbrow _ a _ | .vbcol _ a _ | .vext _ a _ _ | .vqnt _ a _ _
  | .vdqnt _ a _ _ => [vr a]
  | .vins d a _ _ => [vr d, sn a]
  | .vbcast _ a => [sn a]
  | .vcmp d a b p _ _ => if p = 0 then [vr a, vr b] else [vr a, vr b, pr d, pr p]
  | .pand _ a b | .por _ a b | .pxor _ a b | .pandn _ a b => [pr a, pr b]
  | .pnot _ a | .vany a | .vall a | .pcnt _ a | .pmov _ a => [pr a]
  | .cmpt a b _ => [sn a, sn b]
  | .vld d a b p => if p = 0 then [sn a, sn b] else [sn a, sn b, vr d, pr p]
  | .vst d a b p => [sn a, sn b, vr d, pr p]
  | .vldL d a p => if p = 0 then [vr a] else [vr a, vr d, pr p]
  | .vstL d a p => [vr a, vr d, pr p]
  | _ => []

/-- The registers an instruction writes. -/
def destsOf : Instr → List Reg
  | .add d _ _ | .sub d _ _ | .and d _ _ | .or d _ _ | .xor d _ _ | .andn d _ _ | .orn d _ _ | .xnor d _ _
  | .sll d _ _ | .srl d _ _ | .sra d _ _ | .rol d _ _ | .ror d _ _ | .mul d _ _ | .mulh d _ _ | .mulhu d _ _
  | .div d _ _ | .divu d _ _ | .rem d _ _ | .remu d _ _ | .min d _ _ | .max d _ _ | .minu d _ _ | .maxu d _ _
  | .sel d _ _ | .clz d _ | .ctz d _ | .popc d _ | .bswap d _ | .brev d _ | .addi d _ _ | .andi d _ _ | .ori d _ _
  | .xori d _ _ | .slli d _ _ | .srli d _ _ | .srai d _ _ | .rori d _ _ | .movi d _ _ | .lut3 d _ _ _ _
  | .fsl d _ _ _ | .fsr d _ _ _ | .mfb d _ | .mfl d _ | .mfbc d | .mfc d _ _ | .barArrive d _
  | .barDrop d _ | .kinfo d _ _ | .ld d _ _ _ _ _ _ | .lds _ d _ _ _ _ => [sr d]
  | .tagFfr d _ => [sr d, .bc]
  | .cmpEq .. | .cmpNe .. | .cmpLt .. | .cmpGe .. | .cmpLtu .. | .cmpGeu .. | .tst .. | .cmpiEq .. | .cmpiNe ..
  | .cmpiLt .. | .cmpiGe .. | .cmpiLtu .. | .cmpiGeu .. | .tsti .. | .mtbc .. | .vany .. | .vall .. => [.bc]
  | .ptg t _ | .ptr t _ => [br' t]
  | .ret n => [br' n, .s 31]
  | .call _ => [.s 31]
  | .loopPush | .loopPop => [.s 31, .loopRegs]
  | .svc _ => [.s 1, .s 2]
  | .xlat k _ _ _ | .ksub k _ _ _ | .kld k _ _ | .kldL k _ _ | .kclr k | .krel k => [kr k]
  | .kmov j _ => [kr j]
  | .amoAdd _ d _ _ _ _ _ | .amoAnd _ d _ _ _ _ _ | .amoOr _ d _ _ _ _ _ | .amoXor _ d _ _ _ _ _
  | .amoMin _ d _ _ _ _ _ | .amoMax _ d _ _ _ _ _ | .amoMinu _ d _ _ _ _ _ | .amoMaxu _ d _ _ _ _ _
  | .amoSwap _ d _ _ _ _ _ | .amoCas _ d _ _ _ _ _ | .amoFadd d _ _ _ _ _ | .amoAddt _ d _ _ _ _ _
  | .lamoAdd _ d _ _ _ _ | .lamoAnd _ d _ _ _ _ | .lamoOr _ d _ _ _ _ | .lamoXor _ d _ _ _ _
  | .lamoMin _ d _ _ _ _ | .lamoMax _ d _ _ _ _ | .lamoMinu _ d _ _ _ _ | .lamoMaxu _ d _ _ _ _
  | .lamoSwap _ d _ _ _ _ | .lamoCas _ d _ _ _ _ | .lamoFadd d _ _ _ _ => [sn d]
  | .waita _ d _ _ _ _ => [sn d, .bc]
  | .vaddI32 d _ _ _ | .vsubI32 d _ _ _ | .vmulI32 d _ _ _ | .vmulhI32 d _ _ _ | .vmulhU32 d _ _ _
  | .vminI32 d _ _ _ | .vmaxI32 d _ _ _ | .vminU32 d _ _ _ | .vmaxU32 d _ _ _ | .vaddsI32 d _ _ _
  | .vsubsI32 d _ _ _ | .vand d _ _ _ | .vor d _ _ _ | .vxor d _ _ _ | .vandn d _ _ _ | .vsll d _ _ _
  | .vsrl d _ _ _ | .vsra d _ _ _ | .vsel d _ _ _ | .vminF32 d _ _ _ | .vmaxF32 d _ _ _ | .vaddF32 d _ _ _ _
  | .vsubF32 d _ _ _ _ | .vmulF32 d _ _ _ _ | .vfmaF32 d _ _ _ _ _ | .vabsI32 d _ _ | .vnegI32 d _ _ | .vmov d _ _
  | .vclz d _ _ | .vpopc d _ _ | .vabsF32 d _ _ | .vnegF32 d _ _ | .vcvtNarrow d _ _ _ _ | .vcvtWiden d _ _ _
  | .vcvtI32F32 d _ _ _ | .vcvtF32I32 d _ _ _ | .vcvtsNarrow d _ _ _ _ | .vrcp d _ _ _ | .vrsqrt d _ _ _
  | .vsqrt d _ _ _ | .vexp2 d _ _ _ | .vlog2 d _ _ _ | .vexp d _ _ _ | .vtanh d _ _ _ | .vsigm d _ _ _
  | .vsin d _ _ _ | .vcos d _ _ _ | .verf d _ _ _ | .vsumRa d _ _ | .vsumCa d _ _ | .vmaxRa d _ _ | .vmaxCa d _ _
  | .vminRa d _ _ | .vminCa d _ _ | .vrotRa d _ _ | .vrotCa d _ _ | .vbrow d _ _ | .vbcol d _ _ | .vidxR d | .vidxC d
  | .vins d _ _ _ | .vbcast d _ | .vqnt d _ _ _ | .vdqnt d _ _ _ | .vld d _ _ _ | .vldL d _ _ => [vr d]
  | .vext d _ _ _ | .pcnt d _ => [sn d]
  | .vcmp d _ _ _ _ _ | .pand d _ _ | .por d _ _ | .pxor d _ _ | .pandn d _ _ | .pnot d _ | .pmov d _ => [pr d]
  | _ => []

/-- Word i of an engine packet (R204). -/
def packetWord (x : Word) (i : Nat) : BitVec 16 := x.extractLsb' (16 * i) 16

/-- The registers whose values an `enq.*` captures (R204). -/
def capturedRegs (x : Word) : List Reg :=
  (List.range 4).filterMap fun i =>
    let w := packetWord x i
    if w.extractLsb' 5 11 = 8 then some (Reg.s (w.extractLsb' 0 5).toNat)
    else if w.extractLsb' 4 12 = 32 then some (Reg.k (w.extractLsb' 0 4).toNat)
    else none

/-- All registers an instruction reads in this state. -/
def Core.reads (c : Core) (i : Instr) : List Reg :=
  match i with
  | .enqM a | .enqC a | .enqL a => sr a :: capturedRegs (c.rs a)
  | i => (sourcesOf i)

/-! ## Illegal placement (R155, R156, R223, R231, R232) -/

/-- Instructions that may not stand in a delay slot (R223). -/
def noSlot : Instr → Bool
  | .br _ | .bz _ | .call _ | .ret _ | .eret | .endOp | .trap _ | .yield _ _ | .loop _ _ | .loopPush | .loopPop
  | .sync | .alignEquinox => true
  | _ => false

/-- Instructions that may not issue at le or le - 4 of an active loop (R156). -/
def noLoopEnd : Instr → Bool
  | .br _ | .bz _ | .call _ | .ret _ | .loop _ _ | .loopPop | .endOp => true
  | _ => false

/-- Whether an instruction is illegal where it stands. -/
def Core.misplaced (c : Core) (i : Instr) : Bool :=
  ((noSlot i) && c.slots.isSome)
  || ((noLoopEnd i) && c.lc != 0 && (c.pc.setWidth 64 == c.le || c.pc.setWidth 64 == c.le - 4))
  || (match i with
      | .eret => !c.inh
      | .yield _ _ => c.inh
      | _ => false)

/-! ## Units -/

/-- How long an instruction occupies the vector unit; 0: not at all (R250, R266). -/
def vecOcc : Instr → Nat
  | .vaddI32 .. | .vsubI32 .. | .vmulI32 .. | .vmulhI32 .. | .vmulhU32 .. | .vminI32 .. | .vmaxI32 .. | .vminU32 ..
  | .vmaxU32 .. | .vaddsI32 .. | .vsubsI32 .. | .vabsI32 .. | .vnegI32 .. | .vand .. | .vor .. | .vxor .. | .vandn ..
  | .vsll .. | .vsrl .. | .vsra .. | .vmov .. | .vsel .. | .vclz .. | .vpopc .. | .vaddF32 .. | .vsubF32 ..
  | .vmulF32 .. | .vfmaF32 .. | .vminF32 .. | .vmaxF32 .. | .vabsF32 .. | .vnegF32 .. | .vcvtNarrow .. | .vcvtWiden ..
  | .vcvtI32F32 .. | .vcvtF32I32 .. | .vcvtsNarrow .. | .vsumRa .. | .vsumCa .. | .vmaxRa .. | .vmaxCa .. | .vminRa ..
  | .vminCa .. | .vrotRa .. | .vrotCa .. | .vbrow .. | .vbcol .. | .vidxR .. | .vidxC .. | .vbcast .. | .vcmp ..
  | .vdqnt .. | .vld .. | .vst .. | .vldL .. | .vstL .. => 4
  | .vext .. | .vins .. => 1
  | .vqnt .. => 8
  | .vrcp _ _ _ g | .vrsqrt _ _ _ g | .vsqrt _ _ _ g | .vexp2 _ _ _ g | .vlog2 _ _ _ g | .vexp _ _ _ g
  | .vtanh _ _ _ g | .vsigm _ _ _ g | .vsin _ _ _ g | .vcos _ _ _ g | .verf _ _ _ g => if g = 0 then 4 else 8
  | _ => 0

/-- Whether an instruction is a vector instruction for R402 event 0x03. -/
def isVector (i : Instr) : Bool :=
  (vecOcc i) != 0 || (match i with
    | .pand .. | .por .. | .pxor .. | .pandn .. | .pnot .. | .vany .. | .vall .. | .pcnt .. | .pmov .. => true
    | _ => false)

/-- Divider instructions (R237). -/
def usesDiv : Instr → Bool
  | .div .. | .divu .. | .rem .. | .remu .. => true
  | _ => false

/-- Ordering points of R243. -/
def orderPoint : Instr → Bool
  | .fenceCo | .fenceCl | .fenceDi | .fencePk | .fenceDm | .sync | .alignEquinox | .yield _ _ | .endOp | .svc _ => true
  | _ => false

/-! ## Addresses -/

/-- Bytes of a size code (R239). -/
def sizeOf (z : BitVec 2) : Nat := 2 ^ z.toNat
/-- Bytes of an atomic (R117): the size bit of the major. -/
def amoSize (z : BitVec 1) : Nat := if z = 0 then 4 else 8

/-- A local access: address, bytes, whether it writes, whether it is an atomic. -/
structure LocalAccess where
  addr : Word
  n : Nat
  store : Bool
  atomic : Bool
  deriving DecidableEq, Repr

/-- The address of `vld` and `vst` (R248). -/
def Core.vecAddr (c : Core) (a b : BitVec 4) : Word := (c.rn a + c.rn b) &&& ~~~(63 : Word)

/-- The local access of an instruction (R118, R153, R244, R248, R288, R44). -/
def Core.localAccess (c : Core) : Instr → Option LocalAccess
  | .lds z _ a _ _ i => some ⟨c.rs a + (i.setWidth 64) <<< z.toNat, sizeOf z, false, false⟩
  | .sts z _ a _ i => some ⟨c.rs a + (i.setWidth 64) <<< z.toNat, sizeOf z, true, false⟩
  | .vld _ a b _ => some ⟨c.vecAddr a b, 4096, false, false⟩
  | .vst _ a b _ => some ⟨c.vecAddr a b, 4096, true, false⟩
  | .kstL _ b i => some ⟨c.rs b + (i.setWidth 64) <<< 5, 32, true, false⟩
  | .kldL _ b i => some ⟨c.rs b + (i.setWidth 64) <<< 5, 32, false, false⟩
  | .call _ => some ⟨c.rs spReg - 8, 8, true, false⟩
  | .ret _ => some ⟨c.rs spReg, 8, false, false⟩
  | .loopPush => some ⟨c.rs spReg - 24, 24, true, false⟩
  | .loopPop => some ⟨c.rs spReg, 24, false, false⟩
  | .cmpt a b _ => some ⟨c.rn a + c.rn b, 68, false, false⟩
  | .lamoAdd z _ a i _ _ | .lamoAnd z _ a i _ _ | .lamoOr z _ a i _ _ | .lamoXor z _ a i _ _ | .lamoMin z _ a i _ _
  | .lamoMax z _ a i _ _ | .lamoMinu z _ a i _ _ | .lamoMaxu z _ a i _ _ | .lamoSwap z _ a i _ _
  | .lamoCas z _ a i _ _ =>
      some ⟨c.rn a + BitVec.ofNat 64 (i.toNat * amoSize z), amoSize z, true, true⟩
  | .lamoFadd _ a i _ _ => some ⟨c.rn a + BitVec.ofNat 64 (i.toNat * 4), 4, true, true⟩
  | _ => none

/-- A token access: token, offset, bytes, rights it needs, whether it must be aligned. -/
structure TokenAccess where
  tok : Token
  off : Nat
  n : Nat
  need : BitVec 2
  atomic : Bool
  deriving DecidableEq, Repr

/-- The token access of an instruction (R51, R120, R130, R240). -/
def Core.tokenAccess (c : Core) : Instr → Option TokenAccess
  | .ld _ k b _ _ _ z => some ⟨c.rk k, (c.rs b).toNat, sizeOf z, 1, false⟩
  | .st _ k b _ _ z => some ⟨c.rk k, (c.rs b).toNat, sizeOf z, 2, false⟩
  | .kst _ j o => some ⟨c.rk j, (c.rs o).toNat, 32, 2, false⟩
  | .kld _ j o => some ⟨c.rk j, (c.rs o).toNat, 32, 1, false⟩
  | .amoAdd z _ k b _ _ _ | .amoAnd z _ k b _ _ _ | .amoOr z _ k b _ _ _ | .amoXor z _ k b _ _ _
  | .amoMin z _ k b _ _ _ | .amoMax z _ k b _ _ _ | .amoMinu z _ k b _ _ _ | .amoMaxu z _ k b _ _ _
  | .amoSwap z _ k b _ _ _ | .amoCas z _ k b _ _ _ | .amoAddt z _ k b _ _ _ =>
      some ⟨c.rk k, (c.rn b).toNat, amoSize z, 3, true⟩
  | .amoFadd _ k b _ _ _ => some ⟨c.rk k, (c.rn b).toNat, 4, 3, true⟩
  | .waita z _ k b _ _ => some ⟨c.rk k, (c.rn b).toNat, amoSize z, 1, true⟩
  | .kinfo _ k f => if 7 ≤ f.toNat then some ⟨c.rk k, 0, 0, 0, false⟩ else none
  | _ => none

/-- VBASE + offset as R51 and R123 form it. -/
def TokenAccess.va (t : TokenAccess) : Nat := t.tok.vbase.toNat + t.off

/-- Lane-slice offset of a column (R249). -/
def laneOff (x : VReg) (col : Nat) : Nat := (x.get 0 col).toNat / 4 * 4

/-! ## The instruction's own address traps, in the order of R355 -/

/-- A stack instruction's bound test (R153). -/
def Core.stackBad (c : Core) (push : Bool) (n : Nat) : Bool :=
  let sp := (c.rs spReg).toNat
  sp % 8 != 0 ||
    (if push then sp < c.slimit.toNat + n || c.sbase.toNat < sp
     else sp < c.slimit.toNat || c.sbase.toNat < sp + n)

/-- ALIGN and STACK (R123, R153). -/
def Core.alignTrap (c : Core) (i : Instr) : Option (BitVec 8 × Word) :=
  match i with
  | .call _ => if c.stackBad true 8 then some (4, c.rs spReg) else none
  | .ret _ => if c.stackBad false 8 then some (4, c.rs spReg) else none
  | .loopPush => if c.stackBad true 24 then some (4, c.rs spReg) else none
  | .loopPop => if c.stackBad false 24 then some (4, c.rs spReg) else none
  | i =>
    match c.localAccess i, c.tokenAccess i with
    | some a, _ => if a.atomic ∧ a.addr.toNat % a.n ≠ 0 then some (3, a.addr) else none
    | none, some t => if t.atomic ∧ t.va % t.n ≠ 0 then some (3, BitVec.ofNat 64 t.va) else none
    | none, none => none

/-- The lowest column whose lane-slice access runs past the slice (R25, R249). -/
def laneBad (x : VReg) : Option Nat :=
  ((List.range 64).find? fun c => 0x2000 ≤ laneOff x c + 63).map fun c => laneOff x c

/-- LADDR (R22, R25). -/
def Core.laddrTrap (c : Core) (i : Instr) : Option Word :=
  match i with
  | .vldL _ a _ | .vstL _ a _ => (laneBad (c.rv a)).map (BitVec.ofNat 64)
  | i =>
    match c.localAccess i with
    | some a =>
      match c.local? a.addr a.n a.store with
      | some _ => none
      | none => some a.addr
    | none => none

/-- The own-alias reads of a load that issues on a cycle: cycle, first byte, length. A vector load reads four rows of its
register a cycle, a split load its upper part a cycle later (R69, R76, R250). -/
def ownReads (i : Instr) (u a n : Nat) : List (Nat × Nat × Nat) :=
  match i with
  | .vld .. => (List.range 4).map fun g => (u + g, a + 1024 * g, 1024)
  | .cmpt .. => [(u, a, min n (64 - a % 64))]
  | _ =>
    let low := min n (64 - a % 64)
    if low < n then [(u, a, low), (u + 1, a + low, n - low)] else [(u, a, n)]

/-- PENDING under PENDTRAP (R72): own-alias timed reads and `vld.l`, each read on its own cycle. The elements of a `vld.l`
whose guard bit is 0 are tested as well: R249 does not leave them out (DESIGN CHOICE, log entry 46). -/
def Core.pendingTrap (c : Core) (now : Nat) (i : Instr) : Option Word :=
  if ¬ c.pendTrap then none
  else match i with
    | .vldL _ a _ =>
      ((List.range 64).find? fun col =>
        (List.range 4).any fun g => (firstPending (c.timed.filter fun w => decide (now + g < w.expose)) true
          (col * 8192 + laneOff (c.rv a) col + 16 * g) 16).isSome).map fun col =>
          BitVec.ofNat 64 (col * 8192 + laneOff (c.rv a) col)
    | .ret _ | .loopPop => none
    | i =>
      match c.localAccess i with
      | some a =>
        if a.store ∨ c.local? a.addr a.n a.store ≠ some .scratch then none
        else ((ownReads i now a.addr.toNat a.n).findSome? fun r => c.pendingOn r.1 r.2.1 r.2.2).map (BitVec.ofNat 64)
      | none => none

/-! ## What has been performed where (R93, R101, R102) -/

/-- How many stores of die e have been performed or applied in die d (R101, R102). -/
def State.countIn (s : State) (d e : Nat) : Nat :=
  match s.dies[d]? with
  | some x => if d = e then x.exported else x.applied.getD e 0
  | none => 0

/-- The clock of a die. -/
def State.dieClock (s : State) (d : Nat) : List Nat := (List.range 4).map fun e => s.countIn d e

/-- Every die has reached a clock. -/
def State.reached (s : State) (clock : List Nat) : Bool :=
  (List.range 4).all fun d => (List.range 4).all fun e => decide (clock.getD e 0 ≤ s.countIn d e)

/-- What the strand has stored and seen is performed or applied in its own die (R93, R95). -/
def State.seenHere (s : State) : Bool :=
  s.core.depMsc.isEmpty && (List.range 4).all fun e => decide (s.core.dep.getD e 0 ≤ s.countIn (dieOf s.core.phys) e)

/-! ## Interlocks -/

/-- A register waits for an outstanding load or atomic, or an untimed vector load (R90). -/
def Core.inFlight (c : Core) (r : Reg) : Bool :=
  r != .s 0 && c.acc.any fun a => match a.kind with
    | .load d _ => d == r
    | .kload d => Reg.k d == r
    | .vload d _ => Reg.v d == r
    | .atomic _ d _ _ => Reg.s d == r
    | .store => false
    | .waita _ _ => false

/-- Whether a register can be used at a cycle (R209); `s0` and `p0` are constants (R185). -/
def Core.usable (c : Core) (now : Nat) (r : Reg) : Bool :=
  r == .s 0 || r == .p 0 || (decide (c.readyAt r ≤ now) && !c.inFlight r)

/-- Outstanding acquires of the strand that still hold later accesses (R92); a remote-home access orders
nothing (R96). -/
def Core.acquiring (c : Core) : Bool :=
  c.acc.any fun a => a.ord.getLsbD 0 && (match a.space with | .lent _ => false | _ => true)

/-- Width in bits of a format's elements (R159). -/
def fmtWidth (f : Nat) : Nat :=
  if f = 0 then 32 else if f = 1 ∨ f = 2 then 16 else if f = 5 ∨ f = 7 ∨ f = 9 then 4 else 8

/-- Fields of a format word (R302). -/
def fwFA (w : BitVec 64) : Nat := (w.extractLsb' 0 4).toNat
def fwFB (w : BitVec 64) : Nat := (w.extractLsb' 4 4).toNat
def fwCT (w : BitVec 64) : Nat := (w.extractLsb' 8 2).toNat
def fwSCA (w : BitVec 64) : Bool := w.getLsbD 10
def fwSCB (w : BitVec 64) : Bool := w.getLsbD 11
def fwLDA (w : BitVec 64) : Nat := (w.extractLsb' 16 12).toNat
def fwLDB (w : BitVec 64) : Nat := (w.extractLsb' 28 12).toNat
def fwSOFA (w : BitVec 64) : Nat := (w.extractLsb' 40 12).toNat
def fwSOFB (w : BitVec 64) : Nat := (w.extractLsb' 52 12).toNat

/-- Elements of a chunk (R177). -/
def chunkLen (w : BitVec 64) : Nat := 512 / max (fmtWidth (fwFA w)) (fmtWidth (fwFB w))

/-- Whether an operand format is read with block scales (R168, R302). -/
def fmtScaled (f : Nat) (opt : Bool) : Bool := f == 3 || f == 4 || f == 5 || f == 8 || f == 9 || opt

/-- Byte ranges of the own scratchpad that a matrix launch reads on its cycle q: elements and scales of its chunk
(R305, R306). -/
def chunkReads (k : LaunchKind) (q : Nat) : List (Nat × Nat) :=
  match k with
  | .mma _ sparse _ kk a b w _ =>
    let lo := q * chunkLen w
    let n := min (chunkLen w) (kk - lo)
    let row (base ld sof f : Nat) (scaled : Bool) (i : Nat) : List (Nat × Nat) :=
      let at' := base + 16 * ld * i
      (at' + lo * fmtWidth f / 8, (n * fmtWidth f + 7) / 8)
        :: (if scaled ∧ n ≠ 0 then [(at' + sof + lo / 32, (lo + n - 1) / 32 - lo / 32 + 1)] else [])
    ((List.range 8).flatMap fun i => row a (fwLDA w) (fwSOFA w) (fwFA w) (fmtScaled (fwFA w) (fwSCA w)) i)
      ++ (if sparse then []
          else (List.range 16).flatMap fun j => row b (fwLDB w) (fwSOFB w) (fwFB w) (fmtScaled (fwFB w) (fwSCB w)) j)
  | _ => []

/-- Whether the own matrix engine reads, on a cycle, a bank that [a, a + n) lies in (R67). -/
def Core.matrixReads (c : Core) (cycle a n : Nat) : Bool :=
  c.matrix.running.any fun m => decide (m.start ≤ cycle) &&
    (chunkReads m.launch.kind (cycle - m.start)).any fun r =>
      decide (r.2 ≠ 0) && (banksOf r.1 r.2).any fun b => (banksOf a n).contains b

/-- Whether a write slot of the bank of a row is reserved on a cycle for another row by the strand (R67). -/
def Core.slotTaken (c : Core) (cycle a : Nat) : Bool :=
  c.timed.any fun w => w.strand && !w.lane && w.expose = cycle &&
    w.cells.any fun x => x.1 / 64 % 32 = a / 64 % 32 && x.1 / 64 ≠ a / 64

/-- The bytes of [a, a + n) of the own scratchpad that lie in its CSM part, as bytes of the cluster's CSM. -/
def Core.inCsm (c : Core) (a n : Nat) : List (Nat × Nat) :=
  let lo := max a 0x200000
  if lo < a + n then [(posOf c.phys * 0x100000 + (lo - 0x200000), a + n - lo)] else []

/-- Outstanding accesses of this strand to its own scratchpad that touch [a, a + n) (R91, R116). -/
def Core.ownBusy (c : Core) (a n : Nat) : Bool :=
  c.acc.any fun x => (x.space == .own && rangesMeet x.touches [(a, n)])
    || (x.space == .csm (clusterOf c.phys) && rangesMeet x.touches (c.inCsm a n))

/-- Unexposed writes of the own core on bytes of the scratchpad (R116, R153). -/
def Core.unexposed (c : Core) (a n : Nat) : Bool :=
  c.timed.any fun w => !w.lane && w.cells.any fun x => decide (a ≤ x.1) && decide (x.1 < a + n)

/-- Outstanding accesses of the strand on the local bytes [a, a + n) of a region outside the own alias: untimed accesses, those
by the own alias to bytes of the own CSM part, and unexposed stores by it (R91). For a reading stack instruction, the writes
alone (R153). -/
def Core.accessesTo (c : Core) (writes : Bool) (r : Region) (a n : Nat) : Bool :=
  let x := c.spaceOf r a
  let own := (List.range n).filter fun i => r == .csm && csmCore (clusterOf c.phys) (x.2 + i) == c.phys
  c.acc.any (fun y => !(writes && y.isLoad) && ((y.space == x.1 && rangesMeet y.touches [(x.2, n)])
      || (y.space == .own && own.any fun i => rangesMeet y.touches [(csmAddr (x.2 + i), 1)])))
    || own.any fun i => c.unexposed (csmAddr (x.2 + i)) 1

/-- A read port that the strand's loads need on one of their cycles is taken: by the own matrix engine, or by an earlier read
of the strand or the fetch (R67). -/
def Core.readLost (c : Core) (now : Nat) (i : Instr) (a n : Nat) : Bool :=
  (ownReads i now a n).any fun r => c.matrixReads r.1 r.2.1 r.2.2 || c.bankTaken r.1 r.2.1 r.2.2

/-- Whether a packet holds a launch word (R293). -/
def hasLaunch (x : Word) : Bool := (List.range 4).any fun i => (packetWord x i).getLsbD 15 && (packetWord x i).getLsbD 14

/-- The engine queue of an `enq.*` or `fmtq` is full (R292). -/
def Core.queueFull (c : Core) : Instr → Bool
  | .enqM _ => 32 ≤ c.matrix.queue.length
  | .enqC _ => 32 ≤ c.copy.queue.length
  | .enqL _ => 16 ≤ c.lantern.queue.length
  | .fmtq _ => 16 ≤ c.fq.length
  | _ => false

/-- A release store to the own alias waits until what precedes it is performed (R93); accesses to remote-home memory do
not hold it (R96). -/
def Core.releaseWait (c : Core) (now : Nat) : Bool :=
  (c.acc.any fun x => !x.lent) || c.timed.any (fun w => w.strand && decide (now + 4 ≤ w.expose))
    || c.late.any fun x => decide (now + 4 ≤ x.cycle)

/-- Reading stack instructions (R153). -/
def isPop : Instr → Bool
  | .ret _ | .loopPop => true
  | _ => false

/-- Loads that read outside the own scratchpad while the strand waits: the stack instructions and `cmpt`. As loads at scope
CO they come after the strand's earlier writes to their bytes and after its acquires (R91, R92, R288). -/
def waitsHere (i : Instr) : Bool := (isPop i) || (match i with
  | .cmpt .. => true
  | _ => false)

/-- Release stores to local memory (R244). -/
def isLocalRelease : Instr → Bool
  | .sts _ _ _ o _ => o == 2
  | _ => false

/-- A write slot that an instruction needs is taken (R67, R68). -/
def Core.slotLost (c : Core) (now a n : Nat) (i : Instr) : Bool :=
  match i with
  | .vst _ _ _ _ => (List.range 64).any fun k => c.slotTaken (now + 6 + k / 16) (a + 64 * k)
  | _ => c.slotTaken (now + 4) a || (crosses64 a n && c.slotTaken (now + 5) (a + 64 - a % 64))

/-- The lowest of the reasons that hold (R394). -/
def lowestReason (xs : List (Bool × BitVec 8)) : Option (BitVec 8) :=
  xs.foldl (fun m x => if x.1 then some (match m with | some y => if x.2 < y then x.2 else y | none => x.2) else m) none

/-- Instructions that observe tags (R98). -/
def observesTags : Instr → Bool
  | .tagWany _ | .tagWall _ | .tagFfr _ _ => true
  | .mfc _ y x => ctrlNumber x y == 10
  | _ => false

/-- Memory stalls of an instruction whose addresses pass, by reason of R394. An acquire is kept before what follows it, the
observation of a tag among it (R92, R109-R112). -/
def Core.memStall (c : Core) (now : Nat) (i : Instr) : Option (BitVec 8) :=
  match i with
  | .tagWany _ | .tagWall _ | .tagFfr _ _ | .mfc _ _ _ => if observesTags i ∧ c.acquiring then some 1 else none
  | .vldL _ _ _ => if c.acquiring then some 1 else none
  | .vstL _ _ _ => if c.acquiring then some 1 else none
  | .enqM a | .enqC a | .enqL a =>
    if hasLaunch (c.rs a) ∧ c.acquiring then some 1 else if c.queueFull i then some 7 else none
  | .fmtq _ => if c.queueFull i then some 7 else none
  | i =>
    match c.localAccess i, c.tokenAccess i with
    | some x, _ =>
      let a := x.addr.toNat
      match c.local? x.addr x.n x.store with
      | some .scratch =>
        lowestReason [
          (c.acquiring || c.ownBusy a x.n, 1),
          (!x.atomic && !x.store && c.readLost now i a x.n, 4),
          (!x.atomic && x.store && c.slotLost now a x.n i, 4),
          (c.lockedAt a (a + x.n), 6),
          (isLocalRelease i && c.releaseWait now, 8),
          (x.atomic && decide (32 ≤ c.loadsOut), 8),
          (isPop i && c.unexposed a x.n, 19),
          (x.atomic && c.unexposed a x.n, 20)]
      | some r =>
        lowestReason [
          (waitsHere i && c.acquiring, 1),
          (x.store && !x.atomic && decide (16 < c.localStores + (if 64 < x.n then 16 else 1)), 8),
          ((!x.store || x.atomic) && decide (32 ≤ c.loadsOut), 8),
          (waitsHere i && c.accessesTo (isPop i) r a x.n, if isPop i then 19 else 16),
          (x.atomic && r == .csm && csmCore (clusterOf c.phys) (c.spaceOf r a).2 == c.phys
            && c.unexposed (csmAddr (c.spaceOf r a).2) x.n, 20)]
      | none => none
    | none, some t =>
      match i with
      | .kinfo .. => none
      | .st .. | .kst .. => if 32 ≤ c.tokenStores then some 8 else none
      | _ => if t.n ≠ 0 ∧ 32 ≤ c.loadsOut then some 8 else none
    | none, none => none

/-- An engine has nothing queued, in hand, held or running. -/
def Engine.idle (e : Engine) : Bool := e.queue.isEmpty && e.hand.isEmpty && e.held.isNone && e.running.isEmpty

/-- What `cmpt` waits for before it reads (R288): the matrix engine and every earlier `vqnt` and `vdqnt`. -/
def Core.cmptWaits (c : Core) (now : Nat) : Instr → Bool
  | .cmpt _ _ _ => !c.matrix.idle || decide (now < c.quantDone)
  | _ => false

/-- The row of a local atomic on another core's CSM part is under a bank lock: the strand waits (R116). -/
def State.rowLocked (s : State) (i : Instr) : Bool :=
  match s.core.localAccess i with
  | some x =>
    let a := (s.core.spaceOf .csm x.addr.toNat).2
    x.atomic && s.core.local? x.addr x.n x.store == some .csm
      && (s.coreAt (csmCore (clusterOf s.core.phys) a)).any fun c => c.lockedAt (csmAddr a) (csmAddr a + x.n)
  | none => false

/-- A release store to the own alias waits for the stores that its strand has seen (R93). -/
def State.releaseUnseen (s : State) (i : Instr) : Bool :=
  isLocalRelease i && !s.seenHere && (s.core.localAccess i).any fun x => s.core.local? x.addr x.n x.store == some .scratch

/-- What memory makes an instruction wait for at issue, by reason of R394. -/
def State.memStall (s : State) (i : Instr) : Option (BitVec 8) :=
  let own := s.core.memStall s.now i
  lowestReason [(own.isSome, own.getD 0), (s.rowLocked i, 6), (s.releaseUnseen i, 8)]

/-- A read of FMTSTAT is interlocked with the bits that earlier vector instructions have still to set (R181, R209). -/
def Core.fmtWaits (c : Core) (now : Nat) : Instr → Bool
  | .mfc _ y x => ctrlNumber x y == 13 && c.fmtLate.any fun x => decide (now < x.1)
  | _ => false

/-- Register and unit interlocks, by reason of R394. -/
def Core.regStall (c : Core) (now : Nat) (i : Instr) : Option (BitVec 8) :=
  if ¬ ((c.reads i).all (c.usable now) && (destsOf i).all fun r => !c.inFlight r) then some 1
  else if c.fmtWaits now i then some 1
  else if (vecOcc i) ≠ 0 ∧ now < c.vecFree then some 2
  else if (usesDiv i) ∧ now < c.divFree then some 3
  else if c.cmptWaits now i then some 16
  else none

/-- The drain of a pre-empting `yield` is over as far as it can go: an engine that has halted dequeues nothing more (R300,
R363). -/
def Core.drainOver (c : Core) : Bool :=
  let spent (g : Engine) : Bool := g.idle || (g.report.isSome && g.running.isEmpty)
  spent c.matrix && spent c.copy && spent c.lantern && c.acc.isEmpty && c.timed.isEmpty && c.late.isEmpty

/-- A pre-empting `yield` waits out its drain before a report is delivered at it (R363). -/
def Core.draining (c : Core) : Bool :=
  match c.cur, c.waiting with
  | some (.yield ..), .drain => !c.drainOver
  | _, _ => false

/-- The report R243 delivers at an instruction: of a marked register it reads, else, at an ordering point, the first one owed;
none at a `yield` that still drains (R363). Of several marks the one made first goes (log entry 8). -/
def Core.duePoison (c : Core) (i : Instr) : Option PoisonReport :=
  if c.draining then none
  else match c.marks.find? fun m => (c.reads i).contains m.1 with
  | some m => some m.2
  | none => if (orderPoint i) then (c.owed ++ c.marks.map (·.2)).head? else none

/-- The core with a delivered report no longer owed, and its mark gone (R243). -/
def Core.settle (c : Core) (r : PoisonReport) : Core :=
  if c.marks.any fun m => m.2 = r then
    { c with marks := c.marks.eraseIdx ((c.marks.map (·.2)).idxOf r) }
  else { c with owed := c.owed.erase r }

/-! ## The gate -/

/-- What an instruction meets when it reaches issue. -/
inductive Gate where
  | go
  | stall (reason : BitVec 8)
  | miss (t : Token) (off : Nat)
  | trap (code : BitVec 8) (val : Word)
  | vigil
  | poison (r : PoisonReport)
  deriving DecidableEq, Repr

/-- Whether Vigil stops it (R147). -/
def vigilExempt : Instr → Bool
  | .yield _ _ | .endOp => true
  | _ => false

/-- A token access whose check misses the token frame cache (R39). -/
def State.tokenMiss (s : State) (i : Instr) : Option (Token × Nat) :=
  match s.core.tokenAccess i with
  | some t => if s.check t.tok t.off t.n = .miss then some (t.tok, (s.core.missAt t.tok t.off t.n).getD t.off) else none
  | none => none

/-- An instruction that has already issued and waits for its end does not meet the gate again. -/
def Waiting.committed : Waiting → Bool
  | .none | .fence _ | .drain | .told .. => false
  | _ => true

/-- The reason of an instruction that waits for a register or a unit: the lowest of those that hold (R394). -/
def State.stallReason (s : State) (i : Instr) (r : BitVec 8) : BitVec 8 :=
  if r = 1 then 1 else match s.memStall i with
    | some q => if q < r then q else r
    | none => r

/-- What meets an instruction at issue, in the order of R355. The XLAT of an `xlat` ranks before a poison it
reads, which its own meaning delivers. -/
def gate (i : Instr) (s : State) : Gate :=
  let c := s.core
  if c.waiting.committed then .go
  else if c.misplaced i then .trap 1 (BitVec.ofNat 64 (encode i))
  else if c.vigil = 0 ∧ ¬ (vigilExempt i) then .vigil
  else match c.regStall s.now i with
  | some r => .stall (s.stallReason i r)
  | none =>
    match c.alignTrap i with
    | some (code, v) => .trap code v
    | none =>
      match c.laddrTrap i with
      | some v => .trap 2 v
      | none =>
        match s.memStall i with
        | some r => .stall r
        | none =>
          match s.tokenMiss i with
          | some (t, off) => .miss t off
          | none =>
            match c.pendingTrap s.now i with
            | some v => .trap 5 v
            | none =>
              match i, c.duePoison i with
              | .xlat .., _ => .go
              | _, some r => .poison r
              | _, none => .go

/-- Run an instruction's own effect if nothing at issue stops it. -/
def withGate (i : Instr) (s : State) (eff : State → State) : Out :=
  match gate i s with
  | .go => .next (eff s)
  | .stall r => .next (s.stallFor r)
  | .miss t off => .next (s.startFill t off)
  | .trap code v => .next (s.takeTrap code v s.core.pc)
  | .vigil => .next s.vigilFault
  | .poison r => .next (State.takePoison (s.mod fun c => c.settle r) r)

/-- The effect of an instruction that changes only its core and does not transfer. -/
def retireWith (s : State) (f : Core → Core) : State := s.mod fun c => (f c).retire s.now

end Sys2Proof.Machine
end

