-- ==== Sys2Proof/Machine/Flags.lean ====
section
/-! DEFINITION. Flag computations: the branch condition of compares, votes and `tag.ffr` (10 R219, 11 R258,
12 R281), the sticky bits of FMTSTAT (08 R180, R181) and STATUS (10 R235). -/

namespace Sys2Proof.Machine

/-- The conditions of CMP and CMPI (R192, R219). -/
inductive Cond6 where
  | eq | ne | lt | ge | ltu | geu | tst
  deriving DecidableEq, Repr

/-- Whether a condition holds of two scalar values (R219). -/
def condHolds (c : Cond6) (a b : Word) : Bool :=
  match c with
  | .eq => a == b
  | .ne => a != b
  | .lt => decide (a.toInt < b.toInt)
  | .ge => decide (b.toInt ≤ a.toInt)
  | .ltu => decide (a.toNat < b.toNat)
  | .geu => decide (b.toNat ≤ a.toNat)
  | .tst => (a &&& b) != 0

/-- FMTSTAT bits (R180). -/
def fmtSat : BitVec 5 := 1
def fmtNancv : BitVec 5 := 2
def fmtMiovf : BitVec 5 := 4
def fmtMnan : BitVec 5 := 8
def fmtCtbad : BitVec 5 := 16

/-- Set FMTSTAT bits; they are sticky (R181). -/
def Core.fmtSet (c : Core) (bits : BitVec 5) : Core := { c with fmtstat := c.fmtstat ||| bits }

/-- FMTSTAT bits that a vector instruction sets as it retires, on the cycle its result is ready (R181, R266, R291; DESIGN
CHOICE, log entry 57: the spec gives no cycle of retirement). -/
def Core.fmtLater (c : Core) (cycle : Nat) (bits : BitVec 5) : Core := { c with fmtLate := c.fmtLate ++ [(cycle, bits)] }

/-- The STATUS register as `mfc` reads it (R235). -/
def Core.status (c : Core) : Word :=
  BitVec.ofNat 64 (8 * c.dsField.toNat + 4 * c.inh.toNat + 2 * c.revpend.toNat + c.oob.toNat)

/-- Write STATUS: OOB and REVPEND W1C, DS RW with 3 stored as 0, INH read-only (R235). -/
def Core.setStatus (c : Core) (x : Word) : Core :=
  { c with
    oob := c.oob && !x.getLsbD 0
    revpend := c.revpend && !x.getLsbD 1
    dsField := if x.extractLsb' 3 2 = 3 then 0 else x.extractLsb' 3 2 }

/-- The lowest set bit of a word, if any. -/
def lowestBit (x : Word) : Option Nat := (List.range 64).find? fun i => x.getLsbD i

/-- The number of set bits. -/
def popCount {w : Nat} (x : BitVec w) : Nat := (List.range w).foldl (fun n i => n + (x.getLsbD i).toNat) 0

end Sys2Proof.Machine
end

