-- ==== Sys2Proof/Machine/Numbers.lean ====
section
/-! DEFINITION. Numbers: formats, exact values, Round under five modes, curves and quantisation, special
functions (08 R159-R175, 00 R11, 12 R282-R286). -/

namespace Sys2Proof.Machine

/-- Rounding modes (R11, R167). -/
inductive RMode where
  | rne | rtz | rdn | rup | rna
  deriving DecidableEq, Repr

/-- The mode an RM field names (R167); 5-7 are reserved and never reach here. -/
def rmOf (m : BitVec 3) : RMode :=
  if m = 1 then .rtz else if m = 2 then .rdn else if m = 3 then .rup else if m = 4 then .rna else .rne

/-- An exact value: NaN, an infinity or a zero with its sign, another rational. -/
inductive Val where
  | nan | inf (neg : Bool) | zero (neg : Bool) | num (q : Rat)
  deriving DecidableEq, Repr

/-- 2^k. -/
def pow2 (k : Int) : Rat := if 0 ≤ k then ((2 ^ k.toNat : Nat) : Rat) else mkRat 1 (2 ^ (-k).toNat)

/-- A rational as a value; zero takes the sign given. -/
def Val.ofRat (q : Rat) (zneg : Bool) : Val := if q = 0 then .zero zneg else .num q

def Val.neg? : Val → Bool
  | .nan => false
  | .inf n | .zero n => n
  | .num q => decide (q < 0)

/-- The finite value; infinities and NaN read 0 here. -/
def Val.rat : Val → Rat
  | .num q => q
  | _ => 0

/-- A floating format: fraction bits, lowest normal exponent, largest finite magnitude code, infinity code
if it has one, canonical NaN if it has one, total width (R160). -/
structure FFmt where
  fb : Nat
  emin : Int
  maxCode : Nat
  inf : Option Nat
  nan : Option Nat
  width : Nat
  deriving DecidableEq, Repr

def fp32 : FFmt := ⟨23, -126, 0x7F7FFFFF, some 0x7F800000, some 0x7FC00000, 32⟩
def bf16 : FFmt := ⟨7, -126, 0x7F7F, some 0x7F80, some 0x7FC0, 16⟩
def fp16 : FFmt := ⟨10, -14, 0x7BFF, some 0x7C00, some 0x7E00, 16⟩
def e4m3 : FFmt := ⟨3, -6, 0x7E, none, some 0x7F, 8⟩
def e5m2 : FFmt := ⟨2, -14, 0x7B, some 0x7C, some 0x7E, 8⟩
def e2m1 : FFmt := ⟨1, 0, 7, none, none, 4⟩

/-- The magnitude a finite magnitude code encodes (R160). -/
def FFmt.mag (f : FFmt) (m : Nat) : Rat :=
  if m / 2 ^ f.fb = 0 then (m : Rat) * pow2 (f.emin - f.fb)
  else ((2 ^ f.fb + m % 2 ^ f.fb : Nat) : Rat) * pow2 ((m / 2 ^ f.fb : Nat) - 1 + f.emin - f.fb)

/-- The value of a code (R160). -/
def FFmt.val (f : FFmt) (code : Nat) : Val :=
  let m := code % 2 ^ (f.width - 1)
  let neg := decide (2 ^ (f.width - 1) ≤ code % 2 ^ f.width)
  if m = 0 then .zero neg
  else if m ≤ f.maxCode then .num (if neg then -(f.mag m) else f.mag m)
  else if f.inf = some m then .inf neg
  else .nan

/-- The floor of the binary logarithm of a positive rational. -/
def ratLog2 (q : Rat) : Int :=
  let e : Int := (Nat.log2 q.num.natAbs : Int) - (Nat.log2 q.den : Int)
  if q < pow2 e then e - 1 else if pow2 (e + 1) ≤ q then e + 1 else e

/-- A nonnegative rational rounded to an integer under a mode, for a value of the sign given (R11). -/
def roundMagNat (mode : RMode) (neg : Bool) (q : Rat) : Nat :=
  let n := q.num.natAbs
  let lo := n / q.den
  let r := n % q.den
  if r = 0 then lo
  else
    let up := match mode with
      | .rne => decide (q.den < 2 * r) || (decide (2 * r = q.den) && lo % 2 == 1)
      | .rna => decide (q.den ≤ 2 * r)
      | .rtz => false
      | .rdn => neg
      | .rup => !neg
    if up then lo + 1 else lo

/-- Round to an integer (R11). -/
def roundInt (mode : RMode) (q : Rat) : Int :=
  let m := roundMagNat mode (decide (q < 0)) |q|
  if q < 0 then -(m : Int) else m

/-- The unbounded magnitude code of a rounded magnitude: beyond `maxCode` it has overflowed. -/
def FFmt.roundMag (f : FFmt) (mode : RMode) (neg : Bool) (q : Rat) : Nat :=
  let e := max (ratLog2 q) f.emin
  ((e - f.emin).toNat) * 2 ^ f.fb + roundMagNat mode neg (q / pow2 (e - f.fb))

/-- Sign and magnitude as a code. -/
def FFmt.code (f : FFmt) (neg : Bool) (m : Nat) : Nat := if neg then 2 ^ (f.width - 1) + m else m

/-- Whether overflow gives the infinity under a mode (IEEE 754-2019, R11). -/
def overflowsToInf (mode : RMode) (neg : Bool) : Bool :=
  match mode with
  | .rne | .rna => true
  | .rtz => false
  | .rdn => neg
  | .rup => !neg

/-- Round(x, fmt, mode) as a code (R11), with R165 for infinities and NaN. -/
def FFmt.round (f : FFmt) (mode : RMode) (x : Val) : Nat :=
  match x with
  | .nan => f.nan.getD 0
  | .inf neg => f.code neg (f.inf.getD f.maxCode)
  | .zero neg => f.code neg 0
  | .num q =>
    let neg := decide (q < 0)
    let m := f.roundMag mode neg |q|
    if m ≤ f.maxCode then f.code neg m
    else match f.inf with
      | some i => f.code neg (if overflowsToInf mode neg then i else f.maxCode)
      | none => f.code neg f.maxCode

/-- The FP32 value of an element. -/
def f32 (x : BitVec 32) : Val := fp32.val x.toNat
/-- Round to FP32. -/
def toF32 (mode : RMode) (x : Val) : BitVec 32 := BitVec.ofNat 32 (fp32.round mode x)
/-- The canonical NaN of FP32 (R164). -/
def nan32 : BitVec 32 := 0x7FC00000

/-! ## Sums and products of values (R166, R271) -/

/-- Exact addition; an exact zero sum is +0 unless both addends are -0. -/
def Val.add (a b : Val) : Val :=
  match a, b with
  | .nan, _ | _, .nan => .nan
  | .inf m, .inf n => if m = n then .inf m else .nan
  | .inf m, _ => .inf m
  | _, .inf n => .inf n
  | .zero m, .zero n => .zero (m && n)
  | x, y => Val.ofRat (x.rat + y.rat) false

def Val.negate : Val → Val
  | .nan => .nan
  | .inf n => .inf !n
  | .zero n => .zero !n
  | .num q => .num (-q)

/-- Exact multiplication; the sign of a zero is the XOR of the signs (R271). -/
def Val.mul (a b : Val) : Val :=
  match a, b with
  | .nan, _ | _, .nan => .nan
  | .inf _, .zero _ | .zero _, .inf _ => .nan
  | .inf m, y => .inf (m != y.neg?)
  | x, .inf n => .inf (x.neg? != n)
  | .zero m, y => .zero (m != y.neg?)
  | x, .zero n => .zero (x.neg? != n)
  | .num p, .num q => .num (p * q)

/-- Whether a value is smaller, with -0 below +0 (R271, R277). -/
def Val.below (a b : Val) : Bool :=
  match a, b with
  | .nan, _ | _, .nan => false
  | .inf m, .inf n => m && !n
  | .inf m, _ => m
  | _, .inf n => !n
  | .zero m, .zero n => m && !n
  | x, y => decide (x.rat < y.rat)

/-- Equality of R280: -0 equals +0, NaN equals nothing. -/
def Val.same (a b : Val) : Bool :=
  match a, b with
  | .nan, _ | _, .nan => false
  | .inf m, .inf n => m == n
  | .inf _, _ | _, .inf _ => false
  | x, y => x.rat == y.rat

/-- Order of R280. -/
def Val.less (a b : Val) : Bool := a.below b && !a.same b

/-- FP32 addition and multiplication and fused multiply-add under a mode. -/
def fadd (m : RMode) (a b : BitVec 32) : BitVec 32 := toF32 m ((f32 a).add (f32 b))
def fsub (m : RMode) (a b : BitVec 32) : BitVec 32 := toF32 m ((f32 a).add (f32 b).negate)
def fmul (m : RMode) (a b : BitVec 32) : BitVec 32 := toF32 m ((f32 a).mul (f32 b))
def ffma (m : RMode) (a b e : BitVec 32) : BitVec 32 := toF32 m (((f32 a).mul (f32 b)).add (f32 e))

/-- A NaN is made canonical. -/
def canon (x : BitVec 32) : BitVec 32 := if f32 x = .nan then nan32 else x

/-- `vmin` and `vmax` of two FP32 elements (R271, R277): a NaN gives way to the other operand. -/
def fmin (a b : BitVec 32) : BitVec 32 :=
  if f32 a = .nan then canon b else if f32 b = .nan then a else if (f32 b).below (f32 a) then b else a
def fmax (a b : BitVec 32) : BitVec 32 :=
  if f32 a = .nan then canon b else if f32 b = .nan then a else if (f32 a).below (f32 b) then b else a

/-- The exact sum of values rounded once (R277). -/
def fsum (xs : List (BitVec 32)) : BitVec 32 :=
  let vs := xs.map f32
  let hasInf (n : Bool) := vs.any fun v => v == .inf n
  if vs.any (· == .nan) || (hasInf true && hasInf false) then nan32
  else if hasInf false then toF32 .rne (.inf false)
  else if hasInf true then toF32 .rne (.inf true)
  else toF32 .rne (Val.ofRat (vs.foldl (fun q v => q + v.rat) 0) (vs.all fun v => v == .zero true))

/-! ## Conversions (R165, R168, R273-R275) -/

/-- The floating format of a code of R159. -/
def ffmtOf (f : Nat) : Option FFmt :=
  match f with
  | 0 => some fp32
  | 1 => some bf16
  | 2 => some fp16
  | 3 => some e4m3
  | 4 => some e5m2
  | 5 => some e2m1
  | _ => none

/-- Sat to a range (R10). -/
def satInt (lo hi x : Int) : Int := if x < lo then lo else if hi < x then hi else x

/-- Conversion to an integer range (R165, R168): value and flags. -/
def toInt (mode : RMode) (lo hi : Int) (x : Val) : Int × BitVec 5 :=
  match x with
  | .nan => (0, fmtNancv)
  | .inf true => (lo, fmtSat)
  | .inf false => (hi, fmtSat)
  | .zero _ => (0, 0)
  | .num q =>
    let r := roundInt mode q
    if r < lo then (lo, fmtSat) else if hi < r then (hi, fmtSat) else (r, 0)

/-- Narrowing to a floating format (R273): code and flags. `sat` is op 4. An exact zero gives +0 (R166). -/
def toFmt (f : FFmt) (mode : RMode) (sat : Bool) (x : Val) : Nat × BitVec 5 :=
  match x with
  | .nan => if f = e2m1 then (0, fmtNancv) else (f.round mode x, 0)
  | .inf _ => (f.round mode x, if f.inf = none then fmtSat else 0)
  | .zero _ => (0, 0)
  | .num q =>
    if f.inf = none then (f.round mode x, if f.mag f.maxCode < |q| then fmtSat else 0)
    else
      let c := f.round mode x
      if sat ∧ f.inf = some (c % 2 ^ (f.width - 1)) then (f.code (decide (q < 0)) f.maxCode, fmtSat) else (c, 0)

/-- vcvt to a narrow format (R273): the element and flags. -/
def narrow (fmt : Nat) (mode : RMode) (sat : Bool) (x : BitVec 32) : BitVec 32 × BitVec 5 :=
  match ffmtOf fmt with
  | some f => let r := toFmt f mode sat (f32 x); (BitVec.ofNat 32 r.1, r.2)
  | none =>
    let w := fmtWidth fmt
    let r := toInt mode (-(2 ^ (w - 1) : Int)) (2 ^ (w - 1) - 1) (f32 x)
    (BitVec.ofInt 32 (r.1 % 2 ^ w), r.2)

/-- Two's complement of the low w bits. -/
def signed (w x : Nat) : Int := if 2 ^ (w - 1) ≤ x % 2 ^ w then (x % 2 ^ w : Nat) - 2 ^ w else (x % 2 ^ w : Nat)

/-- The value an E8M0 code gives (R161). -/
def e8m0 (e : Nat) : Val := if e % 256 = 255 then .nan else .num (pow2 ((e % 256 : Nat) - 127))

/-- The value of an unscaled element code, companded formats apart (R160-R162, R166). -/
def elemVal (fmt code : Nat) : Val :=
  if fmt = 5 then (match e2m1.val code with | .zero _ => .zero false | v => v)
  else if fmt = 6 ∨ fmt = 7 then Val.ofRat (signed (fmtWidth fmt) code : Rat) false
  else if fmt = 10 then e8m0 code
  else match ffmtOf fmt with
    | some f => f.val code
    | none => .nan

/-- vcvt from a narrow format (R274). -/
def widen (fmt : Nat) (x : BitVec 32) : BitVec 32 := toF32 .rne (elemVal fmt (x.toNat % 2 ^ fmtWidth fmt))

/-! ## Curves (R171-R175) -/

/-- Validity of a curve (R172). -/
def Curve.valid (c : Curve) : Bool :=
  c.length = 17 && c.head? = some (0, 0) && c.getLast? = some (32768, 32768) &&
    (c.zip c.tail).all fun x => decide (x.1.1 < x.2.1) && decide (x.1.2 < x.2.2)

/-- The curve of a 68-byte image (R172). -/
def curveOf (bs : List Byte) : Curve :=
  (List.range 17).map fun i =>
    (bytesToNat ((bs.drop (4 * i)).take 2), bytesToNat ((bs.drop (4 * i + 2)).take 2))

/-- The segment of a curve for a coordinate: the largest i in 0-15 whose breakpoint does not exceed it. -/
def segment (ks : List Nat) (x : Rat) : Nat :=
  (List.range 16).foldl (fun m i => if (ks.getD i 0 : Rat) ≤ x then i else m) 0

/-- Linear interpolation in segment i, from coordinates `xs` to `ys`. -/
def interp (xs ys : List Nat) (i : Nat) (x : Rat) : Rat :=
  let x0 : Rat := xs.getD i 0
  let x1 : Rat := xs.getD (i + 1) 0
  let y0 : Rat := ys.getD i 0
  let y1 : Rat := ys.getD (i + 1) 0
  y0 + (x - x0) * (y1 - y0) / (x1 - x0)

/-- The decode table entry D[m] (R175). -/
def Curve.decode (c : Curve) (bigM m : Nat) : Int :=
  let xs := c.map (·.1)
  let ys := c.map (·.2)
  let v : Rat := mkRat (32768 * m) bigM
  roundInt .rne (65536 * (interp ys xs (segment ys v) v / 32768))

/-- The magnitude code of a companded element and whether it saturated (R174); a is |x|·2^(127-E). -/
def Curve.encode (c : Curve) (bigM : Nat) (a : Rat) : Nat × Bool :=
  let sat := decide (1 < a)
  let a' := if sat then 1 else a
  let xs := c.map (·.1)
  let ys := c.map (·.2)
  let x : Rat := 32768 * a'
  let y := interp xs ys (segment xs x) x / 32768
  ((roundInt .rne (bigM * y)).toNat, sat)

/-- The value of an element of a scaled block (R169, R171), companded formats with their curve. -/
def scaledVal (c : Curve) (fmt code e : Nat) : Val :=
  if e % 256 = 255 then .nan
  else
    let s := pow2 ((e % 256 : Nat) - 127)
    if fmt = 8 ∨ fmt = 9 then
      let h := 2 ^ (fmtWidth fmt - 1)
      let m := code % h
      if m = 0 then .zero false
      else
        let v := (c.decode (h - 1) m : Rat) * pow2 (-16) * s
        Val.ofRat (if h ≤ code % (2 * h) then -v else v) false
    else (elemVal fmt code).mul (.num s)

/-! ## Block quantisation (R168, R170) -/

/-- The unclamped exponent u of a block (R170). -/
def blockExp (fmt : Nat) (amax : Rat) : Int :=
  if fmt = 3 then ratLog2 amax - 8
  else if fmt = 4 then ratLog2 amax - 15
  else if fmt = 5 then ratLog2 amax - 2
  else
    let q := if fmt = 6 then amax / 127 else if fmt = 7 then amax / 7 else amax
    let e := ratLog2 q
    if pow2 e = q then e else e + 1

/-- One element of a block under a scale E (R168, R170, R174): code and flags. -/
def quantElem (c : Curve) (fmt : Nat) (e : Nat) (x : Val) : Nat × BitVec 5 :=
  let q := x.rat * pow2 (127 - e)
  if fmt = 8 ∨ fmt = 9 then
    let h := 2 ^ (fmtWidth fmt - 1)
    let r := c.encode (h - 1) |q|
    (if r.1 = 0 then 0 else if q < 0 then r.1 + h else r.1, if r.2 then fmtSat else 0)
  else match ffmtOf fmt with
    | some f =>
      let y := Val.ofRat q false
      let m := f.round .rne y
      if f.mag f.maxCode < |q| ∧ f.inf = none then (m, fmtSat)
      else if f.inf = some (m % 2 ^ (f.width - 1)) then (f.code y.neg? f.maxCode, fmtSat)
      else (m, 0)
    | none =>
      let w := fmtWidth fmt
      let r := toInt .rne (-(2 ^ (w - 1) : Int)) (2 ^ (w - 1) - 1) (Val.ofRat q false)
      ((r.1 % 2 ^ w).toNat, r.2)

/-- A block of 32 values (R170): scale, codes, flags. -/
def quantBlock (c : Curve) (fmt : Nat) (xs : List Val) : Nat × List Nat × BitVec 5 :=
  if xs.any fun v => match v with | .nan | .inf _ => true | _ => false then
    (255, xs.map fun _ => 0, fmtNancv)
  else
    let amax := xs.foldl (fun m v => max m |v.rat|) 0
    if amax = 0 then (0, xs.map fun _ => 0, 0)
    else
      let e := (min (max (blockExp fmt amax + 127) 0) 254).toNat
      let rs := xs.map (quantElem c fmt e)
      (e, rs.map (·.1), rs.foldl (fun f r => f ||| r.2) 0)

/-! ## Special functions (R282-R286): bounds of the exact value by integers at scale 2^P -/

/-- An interval of reals: bounds in units of 2^-P. -/
abbrev Iv := Int × Int

def floorDiv (a b : Int) : Int := a / b
def ceilDiv (a b : Int) : Int := -((-a) / b)

def ivOf (P : Nat) (q : Rat) : Iv :=
  (floorDiv (q.num * 2 ^ P) q.den, ceilDiv (q.num * 2 ^ P) q.den)

def ivAdd (a b : Iv) : Iv := (a.1 + b.1, a.2 + b.2)
def ivSub (a b : Iv) : Iv := (a.1 - b.2, a.2 - b.1)

def ivMul (P : Nat) (a b : Iv) : Iv :=
  let p := a.1 * b.1
  let q := a.1 * b.2
  let r := a.2 * b.1
  let t := a.2 * b.2
  (floorDiv (min (min p q) (min r t)) (2 ^ P), ceilDiv (max (max p q) (max r t)) (2 ^ P))

/-- Division by a positive integer. -/
def ivDivN (a : Iv) (n : Nat) : Iv := (floorDiv a.1 n, ceilDiv a.2 n)

/-- Division by an interval of positive numbers. -/
def ivDiv (P : Nat) (a b : Iv) : Iv :=
  let lo := if 0 ≤ a.1 then floorDiv (a.1 * 2 ^ P) b.2 else floorDiv (a.1 * 2 ^ P) b.1
  let hi := if 0 ≤ a.2 then ceilDiv (a.2 * 2 ^ P) b.1 else ceilDiv (a.2 * 2 ^ P) b.2
  (lo, hi)

/-- Widen by an amount. -/
def ivWide (a : Iv) (e : Int) : Iv := (a.1 - e, a.2 + e)

/-- Sum of the terms of a power series: the first term, the factor from term k to k + 1, `fuel` terms. -/
def ivSeries (next : Nat → Iv → Iv) : Nat → Nat → Iv → Iv → Iv
  | 0, _, _, acc => acc
  | fuel + 1, k, t, acc => ivSeries next fuel (k + 1) (next k t) (ivAdd acc t)

/-- Terms taken at precision P; every series used has a factor of at most 1/2 beyond them. -/
def termCount (P : Nat) : Nat := P / 3 + 40

/-- exp of an interval within [-1, 1]: Taylor terms after 8 halvings, then 8 squarings. -/
def ivSquare (P : Nat) : Nat → Iv → Iv
  | 0, a => a
  | n + 1, a => ivSquare P n (ivMul P a a)

def ivExp (P : Nat) (x : Iv) : Iv :=
  let r := ivDivN x 256
  let s := ivSeries (fun k t => ivDivN (ivMul P t r) (k + 1)) (termCount P / 4) 0 (2 ^ P, 2 ^ P) (0, 0)
  ivSquare P 8 (ivWide s 2)

/-- atanh of 1/n or of a ratio of at most 1/3, times 2. -/
def ivAtanh2 (P : Nat) (z : Iv) : Iv :=
  let z2 := ivMul P z z
  let term : Nat → Iv → Iv := fun _ t => ivMul P t z2
  let rec go : Nat → Nat → Iv → Iv → Iv
    | 0, _, _, acc => acc
    | fuel + 1, k, t, acc => go fuel (k + 1) (term k t) (ivAdd acc (ivDivN t (2 * k + 1)))
  let s := go (termCount P) 0 z (0, 0)
  let w := ivWide s 2
  (2 * w.1, 2 * w.2)

def ivLn2 (P : Nat) : Iv := ivAtanh2 P (ivOf P (mkRat 1 3))

/-- atan of 1/n. -/
def ivAtanInv (P n : Nat) : Iv :=
  let n2 := n * n
  let rec go : Nat → Nat → Iv → Iv → Iv
    | 0, _, _, acc => acc
    | fuel + 1, k, t, acc =>
      let u := ivDivN t (2 * k + 1)
      go fuel (k + 1) (ivDivN t n2) (if k % 2 = 0 then ivAdd acc u else ivSub acc u)
  ivWide (go (termCount P) 0 (ivOf P (mkRat 1 n)) (0, 0)) 2

/-- pi, by Machin's formula. -/
def ivPi (P : Nat) : Iv :=
  let a := ivAtanInv P 5
  let b := ivAtanInv P 239
  (16 * a.1 - 4 * b.2, 16 * a.2 - 4 * b.1)

/-- The integer square root, bit by bit. -/
def isqrtGo (n : Nat) : Nat → Nat → Nat
  | 0, r => r
  | k + 1, r => let r' := r + 2 ^ k; isqrtGo n k (if r' * r' ≤ n then r' else r)

def isqrt (n : Nat) : Nat := isqrtGo n (Nat.log2 n / 2 + 1) 0

/-- Bounds of the square root of a positive rational. -/
def ivSqrt (P : Nat) (lo hi : Nat) : Iv :=
  (isqrt (lo * 2 ^ P), isqrt (hi * 2 ^ P) + 1)

/-- Powers of two below and above, for rational bounds. -/
def ivRat (P : Nat) (a : Iv) : Rat × Rat := (mkRat a.1 (2 ^ P), mkRat a.2 (2 ^ P))

/-- exp x for rational x, |x| at most 200: 2^n·exp(x - n ln 2). -/
def expBounds (P : Nat) (x : Rat) : Rat × Rat :=
  let l := ivLn2 P
  let n := (ivOf P x).1 / l.1
  let r := ivSub (ivOf P x) (min (n * l.1) (n * l.2), max (n * l.1) (n * l.2))
  let e := ivRat P (ivExp P r)
  (e.1 * pow2 n, e.2 * pow2 n)

/-- 2^x for rational x, |x| at most 200. -/
def exp2Bounds (P : Nat) (x : Rat) : Rat × Rat :=
  let n := x.floor
  let f := x - n
  if f = 0 then (pow2 n, pow2 n)
  else
    let e := ivRat P (ivExp P (ivMul P (ivOf P f) (ivLn2 P)))
    (e.1 * pow2 n, e.2 * pow2 n)

/-- log2 of a positive rational. -/
def log2Bounds (P : Nat) (x : Rat) : Rat × Rat :=
  let e := ratLog2 x
  let m := x / pow2 e
  if m = 1 then (e, e)
  else
    let l := ivDiv P (ivAtanh2 P (ivOf P ((m - 1) / (m + 1)))) (ivLn2 P)
    let b := ivRat P l
    (e + b.1, e + b.2)

/-- sin and cos of an interval within [-1, 1] (of a quarter turn at most). -/
def ivSin (P : Nat) (r : Iv) : Iv :=
  let r2 := ivMul P r r
  ivWide (ivSeries (fun k t => let u := ivDivN (ivMul P t r2) ((2 * k + 2) * (2 * k + 3)); (-u.2, -u.1))
    (termCount P / 2) 0 r (0, 0)) 2
def ivCos (P : Nat) (r : Iv) : Iv :=
  let r2 := ivMul P r r
  ivWide (ivSeries (fun k t => let u := ivDivN (ivMul P t r2) ((2 * k + 1) * (2 * k + 2)); (-u.2, -u.1))
    (termCount P / 2) 0 (2 ^ P, 2 ^ P) (0, 0)) 2

/-- sin x (or cos x) for a rational x of any size: reduce by quarter turns. -/
def sinBounds (P : Nat) (cosine : Bool) (x : Rat) : Rat × Rat :=
  let p := ivPi P
  let ix := ivOf P x
  let n := (2 * ix.1 + p.1 / 2) / p.1
  let r := ivSub ix (floorDiv (min (n * p.1) (n * p.2)) 2, ceilDiv (max (n * p.1) (n * p.2)) 2)
  let q := (n + (if cosine then 1 else 0)) % 4
  let v := if q = 0 then ivSin P r else if q = 1 then ivCos P r
    else if q = 2 then (let s := ivSin P r; (-s.2, -s.1)) else (let s := ivCos P r; (-s.2, -s.1))
  ivRat P v

/-- tanh of a rational, |x| at most 64: x·series near 0, else by exp. -/
def tanhBounds (P : Nat) (x : Rat) : Rat × Rat :=
  let e := expBounds P (2 * |x|)
  let lo := (e.1 - 1) / (e.1 + 1)
  let hi := (e.2 - 1) / (e.2 + 1)
  if x < 0 then (-hi, -lo) else (lo, hi)

/-- 1/(1 + exp(-x)), |x| at most 200. -/
def sigmBounds (P : Nat) (x : Rat) : Rat × Rat :=
  let e := expBounds P (-x)
  (1 / (1 + e.2), 1 / (1 + e.1))

/-- erf of a rational, |x| at most 16: 2/√π·exp(-x²)·Σ 2^n x^(2n+1)/(2n+1)!!. -/
def erfBounds (P : Nat) (x : Rat) : Rat × Rat :=
  let ax := |x|
  let x2 := ivOf P (2 * ax * ax)
  let s := ivWide (ivSeries (fun k t => ivDivN (ivMul P t x2) (2 * k + 3)) (termCount P + 700) 0 (ivOf P ax) (0, 0)) 2
  let e := expBounds P (-(ax * ax))
  let p := ivPi P
  let rp := ivSqrt P p.1.toNat p.2.toNat
  let b := ivRat P (ivDiv P (2 * s.1, 2 * s.2) rp)
  let lo := b.1 * e.1
  let hi := b.2 * e.2
  if x < 0 then (-hi, -lo) else (lo, hi)

/-- The special functions of R282 by code. -/
inductive Sfn where
  | rcp | rsqrt | sqrt | exp2 | log2 | exp | tanh | sigm | sin | cos | erf
  deriving DecidableEq, Repr

/-- Special values (R285). -/
def Sfn.special (f : Sfn) (x : Val) : Option Val :=
  match x with
  | .nan => some .nan
  | .inf n =>
    match f with
    | .rcp => some (.zero n)
    | .rsqrt => some (if n then .nan else .zero false)
    | .sqrt => some (if n then .nan else .inf false)
    | .exp2 | .exp => some (if n then .zero false else .inf false)
    | .log2 => some (if n then .nan else .inf false)
    | .tanh | .erf => some (.num (if n then -1 else 1))
    | .sigm => some (if n then .zero false else .num 1)
    | .sin | .cos => some .nan
  | .zero n =>
    match f with
    | .rcp => some (.inf n)
    | .rsqrt => some (.inf n)
    | .sqrt | .tanh | .erf | .sin => some (.zero n)
    | .exp2 | .exp | .cos => some (.num 1)
    | .log2 => some (.inf true)
    | .sigm => some (.num (mkRat 1 2))
  | .num q =>
    match f with
    | .rsqrt | .sqrt => if q < 0 then some .nan else none
    | .log2 => if q < 0 then some .nan else if q = 1 then some (.zero false) else none
    | _ => none

/-- Bounds of the square root of a positive rational, equal when it is rational at this precision. -/
def sqrtBounds (P : Nat) (q : Rat) : Rat × Rat :=
  let n := q.num.toNat * q.den * 4 ^ P
  let r := isqrt n
  if r * r = n then (mkRat r (q.den * 2 ^ P), mkRat r (q.den * 2 ^ P))
  else (mkRat r (q.den * 2 ^ P), mkRat (r + 1) (q.den * 2 ^ P))

/-- Bounds of f(x) at precision P. Beyond the ranges below the exact value rounds as the number given. -/
def Sfn.bounds (f : Sfn) (P : Nat) (x : Rat) : Rat × Rat :=
  match f with
  | .rcp => (1 / x, 1 / x)
  | .rsqrt => let s := sqrtBounds P (1 / x); s
  | .sqrt => sqrtBounds P x
  | .exp2 => if 200 < x then (pow2 200, pow2 200) else if x < -200 then (pow2 (-200), pow2 (-200)) else exp2Bounds P x
  | .exp => if 200 < x then (pow2 200, pow2 200) else if x < -200 then (pow2 (-200), pow2 (-200)) else expBounds P x
  | .log2 => log2Bounds P x
  | .tanh => if 64 < |x| then (let v := 1 - pow2 (-90); if x < 0 then (-v, -v) else (v, v)) else tanhBounds P x
  | .sigm => if 200 < x then (1 - pow2 (-90), 1 - pow2 (-90)) else if x < -200 then (pow2 (-200), pow2 (-200))
      else sigmBounds P x
  | .sin => sinBounds P false x
  | .cos => sinBounds P true x
  | .erf => if 16 < |x| then (let v := 1 - pow2 (-90); if x < 0 then (-v, -v) else (v, v)) else erfBounds P x

/-- The accurate grade's rounding (R283). -/
def accRound (q : Rat) : BitVec 32 := toF32 .rne (.num q)

/-- The fast grade's rounding (R284): 16 fraction bits, results below 2^-126 flushed to signed zero. -/
def fastRound (q : Rat) : BitVec 32 :=
  let neg := decide (q < 0)
  if |q| < pow2 (-126) then (if neg then 0x80000000 else 0)
  else
    let e := ratLog2 |q|
    let m := roundMagNat .rne neg (|q| / pow2 (e - 16))
    let code := ((e + 126).toNat * 2 ^ 16 + m) * 128
    BitVec.ofNat 32 ((if neg then 2 ^ 31 else 0) + (if code < 0x7F800000 then code else 0x7F800000))

/-- The rounded value: of the first precision at which both bounds round alike, at the last one that of the lower bound. No
FP32 input leaves 700 bits undecided (DEDUCED, log entry 20). -/
def Sfn.rounded (f : Sfn) (rnd : Rat → BitVec 32) (x : Rat) : BitVec 32 :=
  let b := f.bounds 200 x
  if b.1 ≠ 0 ∧ b.2 ≠ 0 ∧ rnd b.1 = rnd b.2 then rnd b.1 else rnd (f.bounds 700 x).1

/-- A special function of one element (R283-R285). -/
def Sfn.apply (f : Sfn) (fast : Bool) (x : BitVec 32) : BitVec 32 :=
  let v := f32 x
  let v' := match v with
    | .num q => if fast ∧ |q| < pow2 (-126) then .zero (decide (q < 0)) else v
    | y => y
  match f.special v' with
  | some r => toF32 .rne r
  | none => f.rounded (if fast then fastRound else accRound) v'.rat

end Sys2Proof.Machine
end

