-- ==== Sys2Proof/Machine/Scalar.lean ====
section
/-! DEFINITION. Scalar arithmetic, logic, immediates, compares and the branch condition (10 R213-R220). -/

namespace Sys2Proof.Machine

/-- Write a scalar result usable `lat` cycles on (R209); the write clears a poison mark (R243). -/
def Core.put (c : Core) (d : BitVec 5) (x : Word) (now lat : Nat) : Core :=
  ((c.unmark (sr d)).ws d x).after (sr d) (now + lat)

/-- Write BC (R219). -/
def Core.putBc (c : Core) (b : Bool) (now : Nat) : Core := { c with bc := b }.after .bc (now + 1)

/-- Count of leading zeros; the width when the value is 0 (R213). -/
def clzCount {w : Nat} (x : BitVec w) : Nat := if x = 0 then w else w - 1 - Nat.log2 x.toNat

/-- Count of trailing zeros; 64 when the value is 0. -/
def ctzCount (x : Word) : Nat := (lowestBit x).getD 64

/-- Bytes reversed (R213). -/
def byteSwap (x : Word) : Word :=
  BitVec.ofNat 64 ((List.range 8).foldl (fun a i => a * 256 + (x.extractLsb' (8 * i) 8).toNat) 0)

/-- The truth table of `lut3` (R187, R218): bit i of the result is tbl[4·a[i] + 2·b[i] + c[i]]. -/
def lut3Word (a b c : Word) (tbl : BitVec 8) : Word :=
  BitVec.ofNat 64 ((List.range 64).foldr (fun i acc =>
    2 * acc + (tbl.getLsbD (4 * (a.getLsbD i).toNat + 2 * (b.getLsbD i).toNat + (c.getLsbD i).toNat)).toNat) 0)

/-- Division rounds toward zero; the borderline cases of R214. -/
def divS (a b : Word) : Word :=
  if b = 0 then BitVec.allOnes 64 else BitVec.ofInt 64 (Int.tdiv a.toInt b.toInt)
def divU (a b : Word) : Word := if b = 0 then BitVec.allOnes 64 else BitVec.ofNat 64 (a.toNat / b.toNat)
def remS (a b : Word) : Word := if b = 0 then a else BitVec.ofInt 64 (Int.tmod a.toInt b.toInt)
def remU (a b : Word) : Word := if b = 0 then a else BitVec.ofNat 64 (a.toNat % b.toNat)

/-- The shift count n = sb[5:0] (R213). -/
def shamt (b : Word) : Nat := b.toNat % 64

/-- A result of two scalar registers. -/
def alu2 (i : Instr) (d a b : BitVec 5) (lat : Nat) (f : Word → Word → Word) (s : State) : Out :=
  withGate i s fun s => retireWith s fun c => c.put d (f (c.rs a) (c.rs b)) s.now lat

/-- A result of one scalar register. -/
def alu1 (i : Instr) (d a : BitVec 5) (f : Word → Word) (s : State) : Out :=
  withGate i s fun s => retireWith s fun c => c.put d (f (c.rs a)) s.now 1

/-- A division: the divider is busy for 34 cycles (R237). -/
def divOp (i : Instr) (d a b : BitVec 5) (f : Word → Word → Word) (s : State) : Out :=
  withGate i s fun s => retireWith s fun c =>
    { c with divFree := s.now + 34 }.put d (f (c.rs a) (c.rs b)) s.now 36

/-- A compare of two registers. -/
def cmpRR (i : Instr) (k : Cond6) (a b : BitVec 5) (s : State) : Out :=
  withGate i s fun s => retireWith s fun c => c.putBc (condHolds k (c.rs a) (c.rs b)) s.now

/-- A compare with an immediate. -/
def cmpRI (i : Instr) (k : Cond6) (a : BitVec 5) (x : Word) (s : State) : Out :=
  withGate i s fun s => retireWith s fun c => c.putBc (condHolds k (c.rs a) x) s.now

/-- add (R213: sa + sb modulo 2^64). -/
def execAdd (d a b : BitVec 5) (s : State) : Out :=
  alu2 (.add d a b) d a b 1 (fun x y => x + y) s

/-- sub (R213: sa - sb modulo 2^64). -/
def execSub (d a b : BitVec 5) (s : State) : Out :=
  alu2 (.sub d a b) d a b 1 (fun x y => x - y) s

/-- and (R213). -/
def execAnd (d a b : BitVec 5) (s : State) : Out :=
  alu2 (.and d a b) d a b 1 (fun x y => x &&& y) s

/-- or (R213). -/
def execOr (d a b : BitVec 5) (s : State) : Out :=
  alu2 (.or d a b) d a b 1 (fun x y => x ||| y) s

/-- xor (R213). -/
def execXor (d a b : BitVec 5) (s : State) : Out :=
  alu2 (.xor d a b) d a b 1 (fun x y => x ^^^ y) s

/-- andn (R213: sa AND NOT sb). -/
def execAndn (d a b : BitVec 5) (s : State) : Out :=
  alu2 (.andn d a b) d a b 1 (fun x y => x &&& ~~~y) s

/-- orn (R213: sa OR NOT sb). -/
def execOrn (d a b : BitVec 5) (s : State) : Out :=
  alu2 (.orn d a b) d a b 1 (fun x y => x ||| ~~~y) s

/-- xnor (R213). -/
def execXnor (d a b : BitVec 5) (s : State) : Out :=
  alu2 (.xnor d a b) d a b 1 (fun x y => ~~~(x ^^^ y)) s

/-- sll (R213). -/
def execSll (d a b : BitVec 5) (s : State) : Out :=
  alu2 (.sll d a b) d a b 1 (fun x y => x <<< shamt y) s

/-- srl (R213). -/
def execSrl (d a b : BitVec 5) (s : State) : Out :=
  alu2 (.srl d a b) d a b 1 (fun x y => x >>> shamt y) s

/-- sra (R213). -/
def execSra (d a b : BitVec 5) (s : State) : Out :=
  alu2 (.sra d a b) d a b 1 (fun x y => x.sshiftRight (shamt y)) s

/-- rol (R213). -/
def execRol (d a b : BitVec 5) (s : State) : Out :=
  alu2 (.rol d a b) d a b 1 (fun x y => x.rotateLeft (shamt y)) s

/-- ror (R213). -/
def execRor (d a b : BitVec 5) (s : State) : Out :=
  alu2 (.ror d a b) d a b 1 (fun x y => x.rotateRight (shamt y)) s

/-- mul (R213: the low 64 bits). -/
def execMul (d a b : BitVec 5) (s : State) : Out :=
  alu2 (.mul d a b) d a b 3 (fun x y => x * y) s

/-- mulh (R213: the high 64 bits, signed). -/
def execMulh (d a b : BitVec 5) (s : State) : Out :=
  alu2 (.mulh d a b) d a b 4 (fun x y => BitVec.ofInt 64 (x.toInt * y.toInt / 2 ^ 64)) s

/-- mulhu (R213: the high 64 bits, unsigned). -/
def execMulhu (d a b : BitVec 5) (s : State) : Out :=
  alu2 (.mulhu d a b) d a b 4 (fun x y => BitVec.ofNat 64 (x.toNat * y.toNat / 2 ^ 64)) s

/-- min (R213). -/
def execMin (d a b : BitVec 5) (s : State) : Out :=
  alu2 (.min d a b) d a b 1 (fun x y => if y.toInt < x.toInt then y else x) s

/-- max (R213). -/
def execMax (d a b : BitVec 5) (s : State) : Out :=
  alu2 (.max d a b) d a b 1 (fun x y => if x.toInt < y.toInt then y else x) s

/-- minu (R213). -/
def execMinu (d a b : BitVec 5) (s : State) : Out :=
  alu2 (.minu d a b) d a b 1 (fun x y => if y.toNat < x.toNat then y else x) s

/-- maxu (R213). -/
def execMaxu (d a b : BitVec 5) (s : State) : Out :=
  alu2 (.maxu d a b) d a b 1 (fun x y => if x.toNat < y.toNat then y else x) s

/-- div (R214). -/
def execDiv (d a b : BitVec 5) (s : State) : Out := divOp (.div d a b) d a b divS s

/-- divu (R214). -/
def execDivu (d a b : BitVec 5) (s : State) : Out := divOp (.divu d a b) d a b divU s

/-- rem (R214). -/
def execRem (d a b : BitVec 5) (s : State) : Out := divOp (.rem d a b) d a b remS s

/-- remu (R214). -/
def execRemu (d a b : BitVec 5) (s : State) : Out := divOp (.remu d a b) d a b remU s

/-- clz (R213). -/
def execClz (d a : BitVec 5) (s : State) : Out :=
  alu1 (.clz d a) d a (fun x => BitVec.ofNat 64 (clzCount x)) s

/-- ctz (R213). -/
def execCtz (d a : BitVec 5) (s : State) : Out :=
  alu1 (.ctz d a) d a (fun x => BitVec.ofNat 64 (ctzCount x)) s

/-- popc (R213). -/
def execPopc (d a : BitVec 5) (s : State) : Out :=
  alu1 (.popc d a) d a (fun x => BitVec.ofNat 64 (popCount x)) s

/-- bswap (R213). -/
def execBswap (d a : BitVec 5) (s : State) : Out :=
  alu1 (.bswap d a) d a (fun x => byteSwap x) s

/-- brev (R213). -/
def execBrev (d a : BitVec 5) (s : State) : Out :=
  alu1 (.brev d a) d a (fun x => x.reverse) s

/-- sel (R213): sa when BC = 1, sb when BC = 0. -/
def execSel (d a b : BitVec 5) (s : State) : Out :=
  alu2 (.sel d a b) d a b 1 (fun x y => if s.core.bc then x else y) s

/-- addi (R191, R215). -/
def execAddi (d a : BitVec 5) (i : BitVec 12) (s : State) : Out :=
  alu1 (.addi d a i) d a (fun x => x + i.signExtend 64) s

/-- andi (R191, R215). -/
def execAndi (d a : BitVec 5) (i : BitVec 12) (s : State) : Out :=
  alu1 (.andi d a i) d a (fun x => x &&& i.setWidth 64) s

/-- ori (R191, R215). -/
def execOri (d a : BitVec 5) (i : BitVec 12) (s : State) : Out :=
  alu1 (.ori d a i) d a (fun x => x ||| i.setWidth 64) s

/-- xori (R191, R215). -/
def execXori (d a : BitVec 5) (i : BitVec 12) (s : State) : Out :=
  alu1 (.xori d a i) d a (fun x => x ^^^ i.setWidth 64) s

/-- slli (R191, R215). -/
def execSlli (d a : BitVec 5) (n : BitVec 6) (s : State) : Out :=
  alu1 (.slli d a n) d a (fun x => x <<< n.toNat) s

/-- srli (R191, R215). -/
def execSrli (d a : BitVec 5) (n : BitVec 6) (s : State) : Out :=
  alu1 (.srli d a n) d a (fun x => x >>> n.toNat) s

/-- srai (R191, R215). -/
def execSrai (d a : BitVec 5) (n : BitVec 6) (s : State) : Out :=
  alu1 (.srai d a n) d a (fun x => x.sshiftRight n.toNat) s

/-- rori (R191, R215). -/
def execRori (d a : BitVec 5) (n : BitVec 6) (s : State) : Out :=
  alu1 (.rori d a n) d a (fun x => x.rotateRight n.toNat) s

/-- movi (R216): Zext(v)·2^sh truncated to 64 bits. -/
def execMovi (d : BitVec 5) (v : BitVec 17) (sh : BitVec 6) (s : State) : Out :=
  withGate (.movi d v sh) s fun s => retireWith s fun c => c.put d (v.setWidth 64 <<< sh.toNat) s.now 1

/-- lut3 (R218). -/
def execLut3 (d a b c : BitVec 5) (tbl : BitVec 8) (s : State) : Out :=
  withGate (.lut3 d a b c tbl) s fun s => retireWith s fun k =>
    k.put d (lut3Word (k.rs a) (k.rs b) (k.rs c) tbl) s.now 1

/-- fsl (R217): bits [127:64] of sa:sb shifted left by n. -/
def execFsl (d a b : BitVec 5) (n : BitVec 6) (s : State) : Out :=
  alu2 (.fsl d a b n) d a b 1 (fun x y => ((x ++ y : BitVec 128) <<< n.toNat).extractLsb' 64 64) s

/-- fsr (R217): bits [63:0] of sa:sb shifted right by n. -/
def execFsr (d a b : BitVec 5) (n : BitVec 6) (s : State) : Out :=
  alu2 (.fsr d a b n) d a b 1 (fun x y => ((x ++ y : BitVec 128) >>> n.toNat).extractLsb' 0 64) s

/-- cmpEq (R192, R219). -/
def execCmpEq (a b : BitVec 5) (s : State) : Out := cmpRR (.cmpEq a b) .eq a b s

/-- cmpNe (R192, R219). -/
def execCmpNe (a b : BitVec 5) (s : State) : Out := cmpRR (.cmpNe a b) .ne a b s

/-- cmpLt (R192, R219). -/
def execCmpLt (a b : BitVec 5) (s : State) : Out := cmpRR (.cmpLt a b) .lt a b s

/-- cmpGe (R192, R219). -/
def execCmpGe (a b : BitVec 5) (s : State) : Out := cmpRR (.cmpGe a b) .ge a b s

/-- cmpLtu (R192, R219). -/
def execCmpLtu (a b : BitVec 5) (s : State) : Out := cmpRR (.cmpLtu a b) .ltu a b s

/-- cmpGeu (R192, R219). -/
def execCmpGeu (a b : BitVec 5) (s : State) : Out := cmpRR (.cmpGeu a b) .geu a b s

/-- tst (R192, R219). -/
def execTst (a b : BitVec 5) (s : State) : Out := cmpRR (.tst a b) .tst a b s

/-- cmpiEq (R192, R219). -/
def execCmpiEq (a : BitVec 5) (i : BitVec 12) (s : State) : Out := cmpRI (.cmpiEq a i) .eq a (i.signExtend 64) s

/-- cmpiNe (R192, R219). -/
def execCmpiNe (a : BitVec 5) (i : BitVec 12) (s : State) : Out := cmpRI (.cmpiNe a i) .ne a (i.signExtend 64) s

/-- cmpiLt (R192, R219). -/
def execCmpiLt (a : BitVec 5) (i : BitVec 12) (s : State) : Out := cmpRI (.cmpiLt a i) .lt a (i.signExtend 64) s

/-- cmpiGe (R192, R219). -/
def execCmpiGe (a : BitVec 5) (i : BitVec 12) (s : State) : Out := cmpRI (.cmpiGe a i) .ge a (i.signExtend 64) s

/-- cmpiLtu (R192, R219). -/
def execCmpiLtu (a : BitVec 5) (i : BitVec 12) (s : State) : Out := cmpRI (.cmpiLtu a i) .ltu a (i.signExtend 64) s

/-- cmpiGeu (R192, R219). -/
def execCmpiGeu (a : BitVec 5) (i : BitVec 12) (s : State) : Out := cmpRI (.cmpiGeu a i) .geu a (i.signExtend 64) s

/-- tsti (R192, R219). -/
def execTsti (a : BitVec 5) (i : BitVec 12) (s : State) : Out := cmpRI (.tsti a i) .tst a (i.setWidth 64) s

/-- mfbc (R220). -/
def execMfbc (d : BitVec 5) (s : State) : Out :=
  withGate (.mfbc d) s fun s => retireWith s fun c => c.put d (boolWord c.bc) s.now 1

/-- mtbc (R220): BC takes sa[0]. -/
def execMtbc (a : BitVec 5) (s : State) : Out :=
  withGate (.mtbc a) s fun s => retireWith s fun c => c.putBc ((c.rs a).getLsbD 0) s.now

end Sys2Proof.Machine
end

