-- ==== Sys2Proof/Machine/MemOps.lean ====
section
/-! DEFINITION. Shared operations of the memory instructions: watchpoint strikes of strand stores, local and
token loads and stores, sealing (03 R36-R53, 11 R239-R252, 19 R409). -/

namespace Sys2Proof.Machine

/-! ## Watchpoints (19 R408, R409) -/

/-- MODE of watchpoint n. -/
def Core.wpMode (c : Core) (n : Fin 2) : Nat := (c.wpmask[n].extractLsb' 16 2).toNat

/-- The bytes a write of n bytes at an address writes. -/
def span (a n : Nat) : Nat → Bool := fun b => decide (a ≤ b) && decide (b < a + n)

/-- The watched bytes of watchpoint n that a write writes. -/
def Core.wpHit (c : Core) (n : Fin 2) (w : Nat → Bool) : BitVec 16 :=
  let base := (c.wpbase[n].extractLsb' 4 52).toNat * 16
  let base' := if c.wpMode n = 1 then base % 2 ^ 32 else base
  BitVec.ofNat 16 ((List.range 16).foldr (fun i acc => 2 * acc + (c.wpmask[n].getLsbD i && w (base' + i)).toNat) 0)

/-- The strike of a write of one kind (enable bit: 18 STORE, 19 ENGW, 20 ATOM) at local or virtual
addresses: watchpoint and bytes; watchpoint 0 when both are struck (R409). -/
def Core.strike (c : Core) (enable : Nat) (isLocal : Bool) (w : Nat → Bool) : Option (BitVec 1 × BitVec 16) :=
  let mode := if isLocal then 1 else 2
  let try' (n : Fin 2) : Option (BitVec 16) :=
    if c.wpMode n = mode ∧ c.wpmask[n].getLsbD enable ∧ c.wpHit n w ≠ 0 then some (c.wpHit n w) else none
  match try' 0 with
  | some h => some (0, h)
  | none => (try' 1).map fun h => (1, h)

/-- A strand store's strike makes a precise report; none in a handler (R409, R411). -/
def Core.strikeStore (c : Core) (isLocal : Bool) (w : Nat → Bool) (now : Nat) : Core :=
  if c.inh then c
  else match c.strike 18 isLocal w with
    | some (wp, hit) => { c with watchNow := some ⟨0, wp, now, 0, hit⟩ }
    | none => c

/-- Post an imprecise report: the queue holds four (R412). -/
def Core.postWatch (c : Core) (r : WatchReport) : Core :=
  if c.watchQ.length < 4 then { c with watchQ := c.watchQ ++ [r] } else { c with watchLost := true }

/-- An atomic's report sets out for its core, among those that come before it and after it (R412). -/
def Core.sendWatch (c : Core) (r : WatchReport) : Core :=
  { c with watchFly := (c.watchFly.filter fun x => decide (x.cycle ≤ r.cycle)) ++ r :: c.watchFly.filter fun x => !decide (x.cycle ≤ r.cycle) }

/-- The reports that have come to the core are posted, in the order they came (R412). -/
def Core.watchesCome (c : Core) (now : Nat) : Core :=
  (c.watchFly.filter fun x => decide (x.cycle ≤ now)).foldl Core.postWatch
    { c with watchFly := c.watchFly.filter fun x => !decide (x.cycle ≤ now) }

/-! ## Access records -/

/-- An access with nothing filled in but what it is. -/
def Access.make (kind : AccKind) (space : Space) (n : Nat) (ord : BitVec 2) (scope : BitVec 3) (va : Nat) : Access :=
  ⟨0, kind, space, [], [], [], n, ord, scope, none, va, 0, 0, .waiting, false, false, none, (none, none), none, none, none⟩

/-- The value of loaded bytes: zero- or sign-extended to 64 bits (R240, R245). -/
def loadValue (bs : List Byte) (sext : Bool) : Word :=
  let w := 8 * bs.length
  if sext then BitVec.ofInt 64 (signed w (bytesToNat bs)) else BitVec.ofNat 64 (bytesToNat bs)

/-- Trunc(x, 8n) as bytes (R240). -/
def storeBytes (n : Nat) (x : Word) : List Byte := natToBytes n x.toNat

/-! ## Local memory -/

/-- A local load that is not timed: one access of up to two parts (R70, R76). -/
def State.localFetch (s : State) (kind : AccKind) (r : Region) (a n : Nat) (ord : BitVec 2) : State :=
  let x := s.core.spaceOf r a
  s.issueAccess { Access.make kind x.1 n ord 0 a with reads := pieces x.2 n }

/-- The parts of a store of bytes through the CSM window: one of at most 8 bytes to the core's own part is seen whole by the
timed reads of its own core, up to a boundary; else the pieces are performed each on its own (R76, R77). -/
def Core.windowParts (c : Core) (k x : Nat) (bs : List Byte) : List (List Host.Cell) :=
  let low := min bs.length (64 - x % 64)
  if bs.length ≤ 8 ∧ csmCore k x = c.phys then
    cellsAt x (bs.take low) :: (if low < bs.length then [cellsAt (x + low) (bs.drop low)] else [])
  else cellParts (pieces x bs.length) bs

/-- The parts of a store to a space that is not timed. -/
def Core.storeParts (c : Core) (sp : Space) (x : Nat) (bs : List Byte) : List (List Host.Cell) :=
  match sp with
  | .csm k => c.windowParts k x bs
  | _ => cellParts (pieces x bs.length) bs

/-- A local store of bytes: timed to the own alias, else through the local store queue (R68, R246). -/
def State.localStore (s : State) (r : Region) (a : Nat) (bs : List Byte) (ord : BitVec 2) : State :=
  match r with
  | .scratch => s.mod fun c => c.scrStore s.now a bs
  | _ =>
    let x := s.core.spaceOf r a
    s.issueAccess { Access.make .store x.1 bs.length ord 0 a with parts := s.core.storeParts x.1 x.2 bs }

/-! ## Token memory -/

/-- The space of an entry: main memory here, or lent by the package of its home (R38, R62). -/
def AlmanacEntry.space (e : AlmanacEntry) : Space :=
  match e.home with
  | none => .main
  | some p => .lent p

/-- Addresses of lent memory are kept apart by package. -/
def AlmanacEntry.offset (e : AlmanacEntry) : Nat :=
  match e.home with
  | none => 0
  | some p => p * 2 ^ 48

/-- The physical ranges of n bytes from a virtual address. -/
def AlmanacEntry.places (e : AlmanacEntry) (va n : Nat) : List (Nat × Nat) :=
  (e.ranges va n).map fun x => (e.offset + x.1, x.2)

/-- The cells of bytes stored at a virtual address, piece by piece (R76, R77). -/
def AlmanacEntry.storeParts (e : AlmanacEntry) (va : Nat) (bs : List Byte) : List (List Host.Cell) :=
  cellParts ((pieces va bs.length).flatMap fun x => e.places x.1 x.2) bs

/-- The ranges a load reads, piece by piece. -/
def AlmanacEntry.loadRanges (e : AlmanacEntry) (va n : Nat) : List (Nat × Nat) :=
  (pieces va n).flatMap fun x => e.places x.1 x.2

/-- Issue a token load that passed its check. -/
def State.tokenFetch (s : State) (kind : AccKind) (t : TokenAccess) (ord : BitVec 2) (scope : BitVec 3) : State :=
  let e := s.entry t.tok.index.toNat
  s.issueAccess { Access.make kind e.space t.n ord scope t.va with
    reads := e.loadRanges t.va t.n, index := some t.tok.index.toNat }

/-- Issue a token store that passed its check. -/
def State.tokenStore (s : State) (t : TokenAccess) (bs : List Byte) (ord : BitVec 2) (scope : BitVec 3) : State :=
  let e := s.entry t.tok.index.toNat
  s.issueAccess { Access.make .store e.space t.n ord scope t.va with
    parts := e.storeParts t.va bs, index := some t.tok.index.toNat }

/-! ## Sealing (R48, R49) -/

/-- The seal key of the running partition (R60). -/
def State.sealKey (s : State) : Nat := ((mapGet s.parts s.core.partId).map (·.sealKey)).getD 0

/-- The MAC over an image (R48). -/
def sealMac (key image part : Nat) : BitVec 64 := Config.cmac key image Config.packageNumber part

/-- The sealed form of a token: 32 bytes (R48). -/
def sealToken (key part : Nat) (t : Token) : List Byte :=
  natToBytes 16 t.toNat ++ natToBytes 8 (sealMac key t.toNat part).toNat ++ natToBytes 8 0

/-- Unsealing (R49). -/
def unsealToken (key part : Nat) (bs : List Byte) : Token :=
  let image := bytesToNat (bs.take 16)
  if bytesToNat (bs.drop 24) ≠ 0 ∨ bytesToNat ((bs.drop 16).take 8) ≠ (sealMac key image part).toNat
      ∨ (Token.ofNat image).part.toNat ≠ part then Token.zero
  else Token.ofNat image

/-- Write a token register usable `lat` cycles on. -/
def Core.putK (c : Core) (k : BitVec 4) (t : Token) (now lat : Nat) : Core :=
  ((c.unmark (kr k)).wk k t).after (kr k) (now + lat)

end Sys2Proof.Machine
end

