-- ==== Sys2Proof/Machine/Control.lean ====
section
/-! DEFINITION. Branch targets, transfers, calls, hardware loops (07 R152-R158, 10 R221-R227). -/

namespace Sys2Proof.Machine

/-- ptg (R221). -/
def execPtg (t : BitVec 2) (i : BitVec 23) (s : State) : Out :=
  withGate (.ptg t i) s fun s => retireWith s fun c =>
    let c1 := c.wb' t (c.pc.setWidth 64 + 4 * i.signExtend 64) s.now
    (c1.askRow (c1.rb t).toNat s.now).after (br' t) (s.now + 1)

/-- ptr (R221): bits [1:0] cleared. -/
def execPtr (t : BitVec 2) (a : BitVec 5) (s : State) : Out :=
  withGate (.ptr t a) s fun s => retireWith s fun c =>
    let c1 := c.wb' t (c.rs a) s.now
    (c1.askRow (c1.rb t).toNat s.now).after (br' t) (s.now + 1)

/-- mfb (R221). -/
def execMfb (d : BitVec 5) (t : BitVec 2) (s : State) : Out :=
  withGate (.mfb d t) s fun s => retireWith s fun c => c.put d (c.rb t) s.now 1

/-- The earliest issue of a target reached through bt (R225). -/
def Core.targetFrom (c : Core) (t : BitVec 2) (now : Nat) : Nat :=
  if now < c.btime[t.toNat] + 4 then c.btime[t.toNat] + 6 else 0

/-- br and bz (R222): BC and bt as they stand at issue. -/
def condBranch (i : Instr) (t : BitVec 2) (want : Bool) (s : State) : Out :=
  withGate i s fun s => s.mod fun c =>
    c.retireBranch (if c.bc = want then some ((c.rb t).setWidth 32) else none) (c.targetFrom t s.now) s.now

/-- br (R222). -/
def execBr (t : BitVec 2) (s : State) : Out := condBranch (.br t) t true s

/-- bz (R222). -/
def execBz (t : BitVec 2) (s : State) : Out := condBranch (.bz t) t false s

/-- The stack write of `call` and `loop.push` (R153, R409). -/
def State.push (s : State) (bs : List Byte) : State :=
  let a := s.core.rs spReg - BitVec.ofNat 64 bs.length
  match s.core.local? a bs.length true with
  | some r =>
    (s.localStore r a.toNat bs 0).mod fun c =>
      (c.strikeStore true (span a.toNat bs.length) s.now).put spReg a s.now 1
  | none => s

/-- call (R154, R226): the return address skips the delay slots. -/
def execCall (t : BitVec 2) (s : State) : Out :=
  withGate (.call t) s fun s =>
    let ret := s.core.pc.setWidth 64 + 12
    (s.push (natToBytes 8 ret.toNat)).mod fun c =>
      (c.askRow (s.core.rb t).toNat s.now).retireBranch (some ((s.core.rb t).setWidth 32)) (s.core.targetFrom t s.now) s.now

/-- The bytes of a local range as they stand, for an interlocked read at this cycle (R70). -/
def State.localNow (s : State) (r : Region) (a n : Nat) : List Byte :=
  match r with
  | .scratch => s.core.scrRead s.now a n
  | .csm => s.csmRead (clusterOf s.core.phys) (s.core.spaceOf r a).2 n
  | .pool => memRead s.dies[dieOf s.core.phys % 4].pool (s.core.spaceOf r a).2 n
  | .weight => memRead s.core.wb (s.core.spaceOf r a).2 n

/-- Whether a local range of the die pool touches a poisoned row (R80). -/
def State.poolPoisoned (s : State) (r : Region) (a n : Nat) : Bool :=
  r == .pool &&
    let x := (s.core.spaceOf r a).2
    s.dies[dieOf s.core.phys % 4].poolPoison.any fun row => decide (x < row + 64) && decide (row < x + n)

/-- The stack read of `ret` and `loop.pop`: timed in the own alias; elsewhere it waits an untimed while and for what is read there
then (R67, R70, R153). -/
def State.pop (s : State) (n : Nat) (eff : List Byte → Bool → State → State) : State :=
  let a := (s.core.rs spReg).toNat
  match regionOf s.core.poolMb a with
  | some .scratch => eff (s.localNow .scratch a n) false (s.mod fun c => c.takePorts s.now a n)
  | some _ =>
    match s.core.waiting with
    | .got bs bad => eff bs bad s
    | .until _ => s.stallFor 1
    | _ => State.stallFor { s with core := { s.core with waiting := .until s.dueCycle }, fv := s.fv + 1 } 1
  | none => s

/-- Owe the report of a poisoned stack read (R243); the registers it would have written keep their values. -/
def Core.owe (c : Core) (reg a now : Nat) : Core :=
  { c with owed := c.owed ++ [⟨now, false, 3, BitVec.ofNat 5 reg, BitVec.ofNat 56 a, none⟩] }

/-- ret (R154, R226): control reaches the loaded address 4 cycles on at the earliest (R225). A poisoned stack row leaves the
register as it was, control goes where it points, `sp` moves, and the report is owed to the next ordering point: R226 and
R243 do not say so (DESIGN CHOICE, log entry 47). -/
def execRet (n : BitVec 2) (s : State) : Out :=
  withGate (.ret n) s fun s => s.pop 8 fun bs bad s => s.mod fun c =>
    let x : Word := if bad then c.rb n else BitVec.ofNat 64 (bytesToNat bs)
    let c0 := if bad then c.owe n.toNat (c.rs spReg).toNat s.now else c
    let c1 := ((c0.wb' n x s.now).after (br' n) (s.now + 1)).put spReg (c.rs spReg + 8) s.now 1
    (c1.askRow ((c1.rb n).setWidth 32).toNat s.now).retireBranch (some ((c1.rb n).setWidth 32)) (s.now + 4) s.now

/-- loop (R155). Held writes of `ls` and `le` take effect first, as at `loop.push`, and the new loop's values replace them:
R155 and R157 do not say how the two meet (DESIGN CHOICE, log entry 48). -/
def execLoop (a : BitVec 5) (i : BitVec 12) (s : State) : Out :=
  withGate (.loop a i) s fun s => s.mod fun c =>
    let n : BitVec 32 := (c.rs a).setWidth 32
    let pc64 : Word := c.pc.setWidth 64
    let last : Word := pc64 + 4 * (i.setWidth 64 + 1)
    let c1 := { c.applyHeld with ls := pc64 + 4, le := last, lc := n }.after .loopRegs (s.now + 1)
    if n = 0 then c1.retireTo ((last + 4).setWidth 32) s.now
    else c1.retireTo (c.pc + 4) s.now

/-- Write a loop register (R157): x is 0 `lc`, 1 `ls`, 2 `le`. -/
def Core.writeLoop (c : Core) (x : BitVec 2) (v : Word) : Core :=
  if x = 0 then
    let c1 := { c with lc := v.setWidth 32 }
    if c1.lc = 0 then c1.applyHeld else c1
  else if c.lc = 0 then
    if x = 1 then { c with ls := clear4 v } else { c with le := clear4 v }
  else if x = 1 then { c with heldLs := some (clear4 v) } else { c with heldLe := some (clear4 v) }

/-- Read a loop register; a held value is read (R157). -/
def Core.readLoop (c : Core) (x : BitVec 2) : Word :=
  if x = 0 then c.lc.setWidth 64 else if x = 1 then c.heldLs.getD c.ls else c.heldLe.getD c.le

/-- mtl (R157). -/
def execMtl (a : BitVec 5) (x : BitVec 2) (s : State) : Out :=
  withGate (.mtl a x) s fun s => retireWith s fun c => (c.writeLoop x (c.rs a)).after .loopRegs (s.now + 1)

/-- mfl (R157). -/
def execMfl (d : BitVec 5) (x : BitVec 2) (s : State) : Out :=
  withGate (.mfl d x) s fun s => retireWith s fun c => c.put d (c.readLoop x) s.now 1

/-- loop.push (R158): held writes first, then 24 bytes to the stack, and lc = 0. -/
def execLoopPush (s : State) : Out :=
  withGate .loopPush s fun s =>
    let s1 := s.mod Core.applyHeld
    let bs := natToBytes 8 s1.core.lc.toNat ++ natToBytes 8 s1.core.ls.toNat ++ natToBytes 8 s1.core.le.toNat
    retireWith (s1.push bs) fun c => { c with lc := 0, nextIssue := s.now + 3 }.after .loopRegs (s.now + 3)

/-- loop.pop (R158). Held writes take effect first, and the popped values replace them (log entry 48); a split read takes its
upper part a cycle later (R76). R158 says that the values are read back and not what becomes of bits they have beyond the registers'
own: bits [1:0] of `ls` and `le` are cleared and the low 32 bits of `lc` are kept (DESIGN CHOICE, log entry 69). -/
def execLoopPop (s : State) : Out :=
  withGate .loopPop s fun s => s.pop 24 fun bs bad s => retireWith s fun c =>
    let c0 := { c with nextIssue := s.now + 3 }.put spReg (c.rs spReg + 24) s.now 1
    if bad then c0.owe 0 (c.rs spReg).toNat s.now
    else
      let c1 := if regionOf c.poolMb (c.rs spReg).toNat = some .scratch then c0.readUpper s.now (c.rs spReg).toNat 24 .loop else c0
      { c1.applyHeld with
        lc := BitVec.ofNat 32 (bytesToNat (bs.take 8))
        ls := clear4 (BitVec.ofNat 64 (bytesToNat ((bs.drop 8).take 8)))
        le := clear4 (BitVec.ofNat 64 (bytesToNat (bs.drop 16))) }.after .loopRegs (s.now + 3)

end Sys2Proof.Machine
end

