-- ==== Sys2Proof/Machine/VectorInt.lean ====
section
/-! DEFINITION. Vector integer arithmetic and the shared form of guarded vector results (12 R264-R269). -/

namespace Sys2Proof.Machine

/-- The elements written where the guard is set, the old ones elsewhere (R264). -/
def guarded (g : PReg) (old : VReg) (f : Nat → Nat → BitVec 32) : VReg :=
  VReg.of fun r c => if g.bit r c then f r c else old.get r c

/-- A vector instruction issues: the unit is busy for its occupancy (R266, R402). -/
def Core.useVec (c : Core) (now occ : Nat) : Core :=
  { c with vecFree := if occ = 0 then c.vecFree else now + occ }.note 3

/-- Write a vector register usable `lat` cycles on (R265). -/
def Core.putV (c : Core) (d : BitVec 4) (x : VReg) (now lat : Nat) : Core :=
  ((c.unmark (vr d)).wv d x).after (vr d) (now + lat)

/-- Write a predicate register usable `lat` cycles on. -/
def Core.putP (c : Core) (d : BitVec 3) (x : PReg) (now lat : Nat) : Core :=
  (c.wp d x).after (pr d) (now + lat)

/-- A guarded element-by-element result. -/
def vecOp (i : Instr) (d : BitVec 4) (p : BitVec 3) (lat : Nat) (f : Core → Nat → Nat → BitVec 32) (s : State) : Out :=
  withGate i s fun s => retireWith s fun c =>
    (c.useVec s.now (vecOcc i)).putV d (guarded (c.rp p) (c.rv d) (f c)) s.now lat

/-- Two vector sources. -/
def vec2 (i : Instr) (d a b : BitVec 4) (p : BitVec 3) (lat : Nat) (f : BitVec 32 → BitVec 32 → BitVec 32)
    (s : State) : Out :=
  vecOp i d p lat (fun c r k => f ((c.rv a).get r k) ((c.rv b).get r k)) s

/-- One vector source. -/
def vec1 (i : Instr) (d a : BitVec 4) (p : BitVec 3) (lat : Nat) (f : BitVec 32 → BitVec 32) (s : State) : Out :=
  vecOp i d p lat (fun c r k => f ((c.rv a).get r k)) s

/-- Clamped to [-2^31, 2^31 - 1] (R269). -/
def clamp32 (x : Int) : BitVec 32 := BitVec.ofInt 32 (satInt (-2147483648) 2147483647 x)

/-- The shift count b[4:0] (R269). -/
def shamt32 (b : BitVec 32) : Nat := b.toNat % 32

/-- vaddI32 (R269). -/
def execVaddI32 (d a b : BitVec 4) (p : BitVec 3) (s : State) : Out :=
  vec2 (.vaddI32 d a b p) d a b p 4 (fun x y => x + y) s

/-- vsubI32 (R269). -/
def execVsubI32 (d a b : BitVec 4) (p : BitVec 3) (s : State) : Out :=
  vec2 (.vsubI32 d a b p) d a b p 4 (fun x y => x - y) s

/-- vmulI32 (R269). -/
def execVmulI32 (d a b : BitVec 4) (p : BitVec 3) (s : State) : Out :=
  vec2 (.vmulI32 d a b p) d a b p 6 (fun x y => x * y) s

/-- vmulhI32 (R269). -/
def execVmulhI32 (d a b : BitVec 4) (p : BitVec 3) (s : State) : Out :=
  vec2 (.vmulhI32 d a b p) d a b p 6 (fun x y => BitVec.ofInt 32 (x.toInt * y.toInt / 2 ^ 32)) s

/-- vmulhU32 (R269). -/
def execVmulhU32 (d a b : BitVec 4) (p : BitVec 3) (s : State) : Out :=
  vec2 (.vmulhU32 d a b p) d a b p 6 (fun x y => BitVec.ofNat 32 (x.toNat * y.toNat / 2 ^ 32)) s

/-- vminI32 (R269). -/
def execVminI32 (d a b : BitVec 4) (p : BitVec 3) (s : State) : Out :=
  vec2 (.vminI32 d a b p) d a b p 4 (fun x y => if y.toInt < x.toInt then y else x) s

/-- vmaxI32 (R269). -/
def execVmaxI32 (d a b : BitVec 4) (p : BitVec 3) (s : State) : Out :=
  vec2 (.vmaxI32 d a b p) d a b p 4 (fun x y => if x.toInt < y.toInt then y else x) s

/-- vminU32 (R269). -/
def execVminU32 (d a b : BitVec 4) (p : BitVec 3) (s : State) : Out :=
  vec2 (.vminU32 d a b p) d a b p 4 (fun x y => if y.toNat < x.toNat then y else x) s

/-- vmaxU32 (R269). -/
def execVmaxU32 (d a b : BitVec 4) (p : BitVec 3) (s : State) : Out :=
  vec2 (.vmaxU32 d a b p) d a b p 4 (fun x y => if x.toNat < y.toNat then y else x) s

/-- vaddsI32 (R269). -/
def execVaddsI32 (d a b : BitVec 4) (p : BitVec 3) (s : State) : Out :=
  vec2 (.vaddsI32 d a b p) d a b p 4 (fun x y => clamp32 (x.toInt + y.toInt)) s

/-- vsubsI32 (R269). -/
def execVsubsI32 (d a b : BitVec 4) (p : BitVec 3) (s : State) : Out :=
  vec2 (.vsubsI32 d a b p) d a b p 4 (fun x y => clamp32 (x.toInt - y.toInt)) s

/-- vand (R269). -/
def execVand (d a b : BitVec 4) (p : BitVec 3) (s : State) : Out :=
  vec2 (.vand d a b p) d a b p 4 (fun x y => x &&& y) s

/-- vor (R269). -/
def execVor (d a b : BitVec 4) (p : BitVec 3) (s : State) : Out :=
  vec2 (.vor d a b p) d a b p 4 (fun x y => x ||| y) s

/-- vxor (R269). -/
def execVxor (d a b : BitVec 4) (p : BitVec 3) (s : State) : Out :=
  vec2 (.vxor d a b p) d a b p 4 (fun x y => x ^^^ y) s

/-- vandn (R269). -/
def execVandn (d a b : BitVec 4) (p : BitVec 3) (s : State) : Out :=
  vec2 (.vandn d a b p) d a b p 4 (fun x y => x &&& ~~~y) s

/-- vsll (R269). -/
def execVsll (d a b : BitVec 4) (p : BitVec 3) (s : State) : Out :=
  vec2 (.vsll d a b p) d a b p 4 (fun x y => x <<< shamt32 y) s

/-- vsrl (R269). -/
def execVsrl (d a b : BitVec 4) (p : BitVec 3) (s : State) : Out :=
  vec2 (.vsrl d a b p) d a b p 4 (fun x y => x >>> shamt32 y) s

/-- vsra (R269). -/
def execVsra (d a b : BitVec 4) (p : BitVec 3) (s : State) : Out :=
  vec2 (.vsra d a b p) d a b p 4 (fun x y => x.sshiftRight (shamt32 y)) s

/-- vabsI32 (R269). -/
def execVabsI32 (d a : BitVec 4) (p : BitVec 3) (s : State) : Out :=
  vec1 (.vabsI32 d a p) d a p 4 (fun x => if x.toInt < 0 then -x else x) s

/-- vnegI32 (R269). -/
def execVnegI32 (d a : BitVec 4) (p : BitVec 3) (s : State) : Out :=
  vec1 (.vnegI32 d a p) d a p 4 (fun x => -x) s

/-- vmov (R269). -/
def execVmov (d a : BitVec 4) (p : BitVec 3) (s : State) : Out :=
  vec1 (.vmov d a p) d a p 4 (fun x => x) s

/-- vclz (R269). -/
def execVclz (d a : BitVec 4) (p : BitVec 3) (s : State) : Out :=
  vec1 (.vclz d a p) d a p 4 (fun x => BitVec.ofNat 32 (clzCount x)) s

/-- vpopc (R269). -/
def execVpopc (d a : BitVec 4) (p : BitVec 3) (s : State) : Out :=
  vec1 (.vpopc d a p) d a p 4 (fun x => BitVec.ofNat 32 (popCount x)) s

/-- vsel (R264, R269): every element is written; the guard selects. -/
def execVsel (d a b : BitVec 4) (p : BitVec 3) (s : State) : Out :=
  vecOp (.vsel d a b p) d 0 4
    (fun c r k => if (c.rp p).bit r k then (c.rv a).get r k else (c.rv b).get r k) s

end Sys2Proof.Machine
end

