-- ==== Sys2Proof/Machine/Memory.lean ====
section
/-! DEFINITION. Token loads and stores, local loads and stores, vector loads and stores (11 R239-R250). -/

namespace Sys2Proof.Machine

/-- What a token access does at issue: its own effect if it passes its check, else the null effect and its
bookkeeping (R51, R52). -/
def tokenForm (i : Instr) (event : BitVec 8) (null : Core → Core) (eff : TokenAccess → State → State) (s : State) : Out :=
  withGate i s fun s =>
    match s.core.tokenAccess i with
    | none => s
    | some t =>
      match s.checkRights t.tok t.off t.n t.need with
      | .ok => retireWith (eff t s) fun c => c.note event
      | k => retireWith s fun c => (null (c.nullBook k)).note event

/-- ld (R240, R241). -/
def execLd (d : BitVec 5) (k : BitVec 4) (b : BitVec 5) (p : BitVec 3) (o : BitVec 2) (g : BitVec 1) (z : BitVec 2)
    (s : State) : Out :=
  tokenForm (.ld d k b p o g z) 8 (fun c => c.put d 0 s.now 1)
    (fun t s => s.tokenFetch (.load (sr d) (g = 1)) t o p) s

/-- st (R240, R241). -/
def execSt (d : BitVec 5) (k : BitVec 4) (b : BitVec 5) (p : BitVec 3) (o z : BitVec 2) (s : State) : Out :=
  tokenForm (.st d k b p o z) 8 (fun c => c)
    (fun t s => (s.tokenStore t (storeBytes t.n (s.core.rs d)) o p).mod fun c =>
      c.strikeStore false (span t.va t.n) s.now) s

/-- What a local access does at issue (R245). -/
def localForm (i : Instr) (eff : Region → Nat → Nat → State → State) (s : State) : Out :=
  withGate i s fun s =>
    match s.core.localAccess i with
    | none => s
    | some a =>
      match s.core.local? a.addr a.n a.store with
      | some r => retireWith (eff r a.addr.toNat a.n s) fun c => c
      | none => s

/-- lds (R245, R246). -/
def execLds (z : BitVec 2) (d a : BitVec 5) (g : BitVec 1) (o : BitVec 2) (i : BitVec 11) (s : State) : Out :=
  localForm (.lds z d a g o i) (fun r a n s =>
    match r with
    | .scratch => s.mod fun c =>
        ((c.takePorts s.now a n).readUpper s.now a n (.s d.toNat (g = 1))).put d (loadValue (c.scrReadSplit s.now a n) (g = 1))
          s.now (if crosses64 a n then 4 else 3)
    | _ => s.localFetch (.load (sr d) (g = 1)) r a n o) s

/-- sts (R245, R246). -/
def execSts (z : BitVec 2) (d a : BitVec 5) (o : BitVec 2) (i : BitVec 11) (s : State) : Out :=
  localForm (.sts z d a o i) (fun r a n s =>
    (s.localStore r a (storeBytes n (s.core.rs d)) o).mod fun c => c.strikeStore true (span a n) s.now) s

/-- Element (r, c) of 4,096 bytes (R248). -/
def elemAt (bs : List Byte) (r c : Nat) : BitVec 32 := BitVec.ofNat 32 (bytesToNat ((bs.drop (256 * r + 4 * c)).take 4))

/-- The 4,096 bytes of a timed `vld` issued at u: rows 4g to 4g + 3 are read at u + g (R250). -/
def Core.vecRead (c : Core) (u a : Nat) : List Byte :=
  (List.range 4).flatMap fun g => c.scrRead (u + g) (a + 1024 * g) 1024

/-- The cells of element (r, c) of a register at A + 256r + 4c. -/
def elemCells (x : VReg) (a r c : Nat) : List Host.Cell :=
  cellsAt (a + 256 * r + 4 * c) (natToBytes 4 (x.get r c).toNat)

/-- The cells of the guarded elements of rows 4g to 4g + 3. -/
def groupCells (g : PReg) (cell : Nat → Nat → List Host.Cell) (grp : Nat) : List Host.Cell :=
  (List.range 4).flatMap fun k => (List.range 64).flatMap fun col =>
    if g.bit (4 * grp + k) col then cell (4 * grp + k) col else []

/-- The timed writes of a vector store issued at t: rows 4g to 4g + 3 at t + g + 6 (R68). -/
def Core.pushRows (c : Core) (lane : Bool) (t : Nat) (cells : Nat → List Host.Cell) : Core :=
  (List.range 4).foldl (fun c g => c.pushTimed ⟨t + g + 6, lane, cells g, true⟩) c

/-- The 8-byte pieces of a guarded vector store that is not timed (R77, R248). -/
def vecParts (x : VReg) (g : PReg) (a : Nat) : List (List Host.Cell) :=
  ((List.range 512).map fun j =>
    let r := j / 32
    let c := 2 * (j % 32)
    (if g.bit r c then elemCells x a r c else []) ++ (if g.bit r (c + 1) then elemCells x a r (c + 1) else [])).filter
      fun p => !p.isEmpty

/-- vld (R248, R250). -/
def execVld (d a b : BitVec 4) (p : BitVec 3) (s : State) : Out :=
  localForm (.vld d a b p) (fun r a n s =>
    match r with
    | .scratch => s.mod fun c =>
        ((((List.range 4).foldl (fun c g => c.takePort (s.now + g) (a + 1024 * g) 1024) c).readGroups s.now fun g =>
          ⟨0, a + 1024 * g, 1024, [], .rows d.toNat (c.rp p) g⟩).useVec s.now 4).putV d (guarded (c.rp p) (c.rv d) (elemAt (c.vecRead s.now a))) s.now 6
    | _ => (s.localFetch (.vload d.toNat (s.core.rp p)) r a n 0).mod fun c => c.useVec s.now 4) s

/-- vst (R248, R250). -/
def execVst (d a b : BitVec 4) (p : BitVec 3) (s : State) : Out :=
  localForm (.vst d a b p) (fun r a n s =>
    let c := s.core
    let g := c.rp p
    let s1 := match r with
      | .scratch => s.mod fun c => c.pushRows false s.now (groupCells g (elemCells (c.rv d) a))
      | _ =>
        let x := c.spaceOf r a
        s.issueAccess { Access.make .store x.1 n 0 0 a with parts := vecParts (c.rv d) g x.2 }
    s1.mod fun c => (c.useVec s.now 4).strikeStore true
      (fun b => span a n b && g.bit ((b - a) / 256) ((b - a) % 256 / 4)) s.now) s

/-- The word of a lane slice as a timed read at a cycle sees it. -/
def Core.laneWord (c : Core) (cycle col off : Nat) : BitVec 32 :=
  BitVec.ofNat 32 (bytesToNat ((List.range 4).map fun i => timedByte c.lanes c.timed true cycle (col * 8192 + off + i)))

/-- vld.l (R249, R250). -/
def execVldL (d a : BitVec 4) (p : BitVec 3) (s : State) : Out :=
  withGate (.vldL d a p) s fun s => retireWith s fun c =>
    ((c.readGroups s.now fun g => ⟨0, 0, 0, [], .lanes d.toNat (c.rp p) g ((List.range 64).map (laneOff (c.rv a)))⟩).useVec s.now 4).putV d
      (guarded (c.rp p) (c.rv d) fun r col =>
      c.laneWord (s.now + r / 4) col (laneOff (c.rv a) col + 4 * r)) s.now 4

/-- vst.l (R249, R250). -/
def execVstL (d a : BitVec 4) (p : BitVec 3) (s : State) : Out :=
  withGate (.vstL d a p) s fun s => retireWith s fun c =>
    (c.useVec s.now 4).pushRows true s.now (groupCells (c.rp p) fun r col =>
      cellsAt (col * 8192 + laneOff (c.rv a) col + 4 * r) (natToBytes 4 ((c.rv d).get r col).toNat))

/-! ## Reads on later cycles (R69, R76, R250) -/

/-- A read that an issued load makes on this cycle: its bytes go to the parts of the register they are for. -/
def State.readLate (s : State) (x : LateRead) : State :=
  s.mod fun c =>
    let bs := x.low ++ c.scrRead s.now x.addr x.n
    let group (n : Nat) (g : PReg) (grp : Nat) (f : Nat → Nat → BitVec 32) : Core :=
      let d : BitVec 4 := BitVec.ofNat 4 n
      c.wv d (VReg.of fun r col => if r / 4 = grp ∧ g.bit r col then f r col else (c.rv d).get r col)
    match x.dest with
    | .s n sext => c.ws (BitVec.ofNat 5 n) (loadValue bs sext)
    | .k n => c.wk (BitVec.ofNat 4 n) (unsealToken s.sealKey c.partId bs)
    | .loop => { c with
        lc := BitVec.ofNat 32 (bytesToNat (bs.take 8))
        ls := clear4 (BitVec.ofNat 64 (bytesToNat ((bs.drop 8).take 8)))
        le := clear4 (BitVec.ofNat 64 (bytesToNat (bs.drop 16))) }
    | .rows n g grp => group n g grp fun r col => elemAt bs (r % 4) col
    | .lanes n g grp offs => group n g grp fun r col => c.laneWord s.now col (offs.getD col 0 + 4 * r)

/-- The register a later read is for. -/
def LateDest.reg : LateDest → Reg
  | .s n _ => .s n
  | .k n => .k n
  | .loop => .loopRegs
  | .rows n _ _ => .v n
  | .lanes n _ _ _ => .v n

/-- A later read is due. -/
def LateRead.due (x : LateRead) (now : Nat) : Bool := decide (x.cycle ≤ now)

/-- A later read of this cycle loses its bank to the own matrix engine (R67). -/
def Core.lateLost (c : Core) (now : Nat) : Bool := c.late.any fun x => x.due now && c.matrixReads now x.addr x.n

/-- A load that loses a read slot stalls the strand: its later reads, its ports, its unit and its result move one cycle on
(R67). -/
def Core.lateWait (c : Core) (now : Nat) : Core :=
  let mine (r : Nat × Nat) : Bool := c.late.any fun x => x.cycle == r.1 && (banksOf x.addr x.n).contains r.2
  { c.stalled 4 now with
    late := c.late.map fun x => { x with cycle := x.cycle + 1 }
    bankReads := (c.bankReads.filter fun r => !mine r)
      ++ c.late.flatMap fun x => (banksOf x.addr x.n).map fun b => (x.cycle + 1, b)
    vecFree := if now < c.vecFree then c.vecFree + 1 else c.vecFree
    ready := c.ready.map fun y => if c.late.any fun x => x.dest.reg == y.1 then (y.1, y.2 + 1) else y }

/-- A later read that is due is made. -/
def State.makeLate (s : State) (x : LateRead) : State :=
  (s.readLate x).mod fun c => { c with late := c.late.erase x }

end Sys2Proof.Machine
end

