-- ==== Sys2Proof/Machine/Token.lean ====
section
/-! DEFINITION. The token instructions: translation, reading, narrowing, sealing, release (03 R36-R50). -/

namespace Sys2Proof.Machine

/-! ## xlat (R40-R42) -/

/-- The page that holds a virtual address (R31). -/
def pageAt (pages : List PageMap) (a : Nat) : Option PageMap :=
  pages.find? fun p => decide (p.page * 2 ^ p.gran ≤ a) && decide (a < (p.page + 1) * 2 ^ p.gran)

/-- The 64 KiB units of an extent, by their first address. -/
def unitsOf (va len : Nat) : List Nat :=
  (List.range ((va + len - 1) / 65536 - va / 65536 + 1)).map fun i => (va / 65536 + i) * 65536

/-- The frame that holds a unit of a page that is resident in main memory, placed over the partition's channel groups, or lent
(R33). -/
def pageFrame (groups : List Nat) (p : PageMap) (u : Nat) : Option Nat :=
  match p.place with
  | .main f => some (nthFrame groups f ((u - p.page * 2 ^ p.gran) / 65536))
  | .lent _ f => some (f + (u - p.page * 2 ^ p.gran) / 65536)
  | .flash _ => none

/-- The codes of R41 that apply at a unit: 1 UNMAPPED, 3 PERM, 4 MIXED, 5 OWNER. -/
def State.unitFaults (s : State) (part : Nat) (p : Partition) (first : Option PageMap) (rights : BitVec 2) (u : Nat) : List Nat :=
  match pageAt p.pages u with
  | none => [1]
  | some g =>
    (if g.rights &&& rights = rights then [] else [3])
      ++ (if first.any fun f => decide (f.mode ≠ g.mode) then [4] else [])
      ++ (match g.place with
        | .main _ =>
          let e := s.potOf ((pageFrame p.req.groups g u).getD 0)
          (if e.mode = g.mode then [] else [4])
            ++ (if e.world = p.req.world ∧ e.owner = .part part then [] else [5])
        | _ => [])

/-- The lowest code found and the lowest address at which it applies (R40). R41 does not say which page's address MIXED has where
pages differ in mode: it is that of the first whose mode differs from the mode of the page at `va` (DESIGN CHOICE, log entry 72). -/
def State.extentFault (s : State) (part : Nat) (p : Partition) (rights : BitVec 2) (va len : Nat) : Option (Nat × Nat) :=
  let first := pageAt p.pages va
  (unitsOf va len).foldl (fun m u =>
    (s.unitFaults part p first rights u).foldl (fun m code =>
      match m with
      | none => some (code, max va u)
      | some (k, a) => if code < k then some (code, max va u) else some (k, a)) m) none

/-- Entries that count against a partition's share (R431). -/
def State.shareUsed (s : State) (part : Nat) : Nat :=
  (s.almanac.filter fun e => decide (e.2.owner = part) && decide (e.2.state ≠ .free)).length

/-- A FREE Almanac entry in service, of free choice (R40, R60). R40 does not say what an `xlat` does when none is left though the
share is not exhausted, which quarantined entries bring about (R60, R431): it takes an index of free choice (DESIGN CHOICE, log
entry 73). -/
def State.freeIndex (s : State) : Nat :=
  let from' := Config.freeEntry s.fv
  ((List.range (s.almanac.length + 1)).map fun i => (from' + i) % Config.almanacSize).find? (fun i =>
    decide ((s.entry i).state = .free) && !(s.entry i).quarantined) |>.getD (from' % Config.almanacSize)

/-- What an `xlat` meets: a fault, pages that F2 must first bring into one place, or an entry to fill. -/
inductive XlatPlan where
  | fault (reason addr : Nat)
  | paging
  | ok (home : Option Nat) (gran : Nat) (mode : ProtMode) (frames : List Nat)
  deriving DecidableEq, Repr

/-- The package that lends a page; none for main memory. -/
def pageLender (p : PageMap) : Option (Option Nat) :=
  match p.place with
  | .main _ => some none
  | .lent k _ => some (some k)
  | .flash _ => none

/-- Some frame of the extent is in TRANSITION (18 R382). -/
def State.inTransition (s : State) (p : Partition) (us : List Nat) : Bool :=
  us.any fun u =>
    match (pageAt p.pages u).bind fun g => match g.place with | .main _ => pageFrame p.req.groups g u | _ => none with
    | some f => (s.potOf f).transition
    | none => false

/-- The checks of R40 in their order; a fill that meets a frame in TRANSITION waits (18 R382). R45 gives the granule of an
extent only where its pages have one size: for pages of both sizes the model records 16 (DESIGN CHOICE, log entry 53). -/
def State.xlatPlan (s : State) (part : Nat) (sa sb : Word) (rights : BitVec 2) : XlatPlan :=
  let va := sa.toNat
  let len := sb.toNat
  if len = 0 ∨ 2 ^ 56 ≤ va then .fault 1 va
  else if 2 ^ 32 < len then .fault 2 va
  else if 2 ^ 56 ≤ va + len - 1 then .fault 1 va
  else match mapGet s.parts part with
    | none => .fault 1 va
    | some p =>
      if s.inTransition p (unitsOf va len) then .paging
      else match s.extentFault part p rights va len with
      | some (code, a) => .fault code a
      | none =>
        let pages := (unitsOf va len).filterMap fun u => pageAt p.pages u
        match pages with
        | [] => .fault 1 va
        | g :: _ =>
          match pageLender g with
          | none => .paging
          | some home =>
            if pages.any fun q => decide (pageLender q ≠ some home) then .paging
            else if p.req.share ≤ s.shareUsed part then .fault 6 va
            else
              let gran := if pages.all fun q => decide (q.gran = 21) then 21 else 16
              let base := va / 2 ^ gran * 2 ^ gran
              .ok home gran g.mode ((unitsOf base (va + len - base)).filterMap fun u =>
                (pageAt p.pages u).bind fun q => pageFrame p.req.groups q u)

/-- Fill an Almanac entry, pin its frames, and give the token image (R40). Lines of the index that a core cached while the
entry was not ACTIVE go with the fill. -/
def State.fillEntry (s : State) (part task : Nat) (va len : Nat) (rights : BitVec 2) (home : Option Nat) (gran : Nat)
    (mode : ProtMode) (frames : List Nat) : Token × State :=
  let i := s.freeIndex
  let e := s.entry i
  let e' : AlmanacEntry :=
    ⟨.active, e.gen, part, va, len, rights, gran, mode, home, frames, task, s.seq, [], false,
      if e.owners.contains part then e.owners else e.owners ++ [part]⟩
  let s1 := { s.modAll (fun c => { c with tfc := c.tfc.filter fun l => l.index ≠ i }) with
    almanac := mapSet s.almanac i e', seq := s.seq + 1, fv := s.fv + 1 }
  (⟨BitVec.ofNat 56 va, BitVec.ofNat 32 (len - 1), BitVec.ofNat 20 i, e.gen, BitVec.ofNat 6 part, rights⟩,
    s1.modPart part fun p =>
      let pages := (unitsOf va len).filterMap fun u => pageAt p.pages u
      { p with lastPin := pages.foldl (fun m q => mapSet m (q.page * 2 ^ q.gran) s.seq) p.lastPin })

/-- xlat (R40-R42): it stalls an untimed while; a fault goes to F2 first, which restarts or delivers it. -/
def execXlat (k : BitVec 4) (a b : BitVec 5) (r : BitVec 2) (s : State) : Out :=
  withGate (.xlat k a b r) s fun s =>
    let c := s.core
    match c.waiting with
    | .until due =>
      if s.now < due then s.stallFor 14
      else match s.xlatPlan c.partId (c.rs a) (c.rs b) r with
        | .fault code at' => State.stallFor { s with core := { c with waiting := .xlat code at' false } } 14
        | .paging => State.stallFor { s with core := { c with waiting := .xlat 0 (c.rs a).toNat false } } 14
        | .ok home gran mode frames =>
          match c.duePoison (.xlat k a b r) with
          | some p => State.takePoison (s.mod fun c => c.settle p) p
          | none =>
            let (t, s1) := s.fillEntry c.partId c.task (c.rs a).toNat (c.rs b).toNat r home gran mode frames
            retireWith s1 fun c => (c.putK k t s.now 1).note 0x0C
    | .xlat code at' true => s.takeTrap 6 (BitVec.ofNat 64 (code * 2 ^ 56 + at' % 2 ^ 56)) c.pc
    | .xlat _ _ false => s.stallFor 14
    | _ => State.stallFor { s with core := { c with waiting := .until s.dueCycle }, fv := s.fv + 1 } 14

/-! ## Reading, copying, narrowing (R45-R47) -/

/-- The field of a token image or of its entry (R45); `chk` is Token.Check(ka, 0, 0). -/
def kinfoField (t : Token) (e : AlmanacEntry) (chk : Check) (f : Nat) : Word :=
  let gone : Bool := chk = .stale || chk = .invalid
  let ones : Word := BitVec.allOnes 64
  match f with
  | 0 => boolWord (t.gen ≠ 0)
  | 1 => if t.gen ≠ 0 then BitVec.ofNat 64 t.len else 0
  | 2 => t.vbase.setWidth 64
  | 3 => t.gen.setWidth 64
  | 4 => t.index.setWidth 64
  | 5 => t.part.setWidth 64
  | 6 => t.rights.setWidth 64
  | 7 => boolWord gone
  | 8 => if gone then ones else BitVec.ofNat 64 (e.home.getD Config.packageNumber)
  | 9 => if gone then ones else match e.mode with | .clear => 0 | .encrypted => 1 | .integrity => 2
  | _ => if gone then ones else BitVec.ofNat 64 e.gran

/-- kinfo (R45). -/
def execKinfo (d : BitVec 5) (k : BitVec 4) (f : BitVec 5) (s : State) : Out :=
  withGate (.kinfo d k f) s fun s =>
    let t := s.core.rk k
    let v := kinfoField t (s.entry t.index.toNat) (s.check t 0 0) f.toNat
    retireWith s fun c => c.put d v s.now (if 7 ≤ f.toNat then 4 else 1)

/-- kmov (R46). -/
def execKmov (j k : BitVec 4) (s : State) : Out :=
  withGate (.kmov j k) s fun s => retireWith s fun c => c.putK j (c.rk k) s.now 1

/-- kclr (R46). -/
def execKclr (k : BitVec 4) (s : State) : Out :=
  withGate (.kclr k) s fun s => retireWith s fun c => c.putK k Token.zero s.now 1

/-- ksub (R47). -/
def execKsub (j k : BitVec 4) (o l : BitVec 5) (s : State) : Out :=
  withGate (.ksub j k o l) s fun s => retireWith s fun c =>
    let t := c.rk k
    let off := (c.rs o).toNat
    let len := (c.rs l).toNat
    if t.gen = 0 then c.putK j Token.zero s.now 1
    else if len = 0 ∨ t.len < off + len then
      { c with oobcnt := if c.oobcnt = BitVec.allOnes 32 then c.oobcnt else c.oobcnt + 1, oob := true }.putK j Token.zero s.now 1
    else c.putK j { t with vbase := t.vbase + BitVec.ofNat 56 off, lenm1 := BitVec.ofNat 32 (len - 1) } s.now 1

/-! ## Sealed tokens (R48, R49) -/

/-- kst (R48). -/
def execKst (k j : BitVec 4) (o : BitVec 5) (s : State) : Out :=
  tokenForm (.kst k j o) 8 (fun c => c)
    (fun t s => (s.tokenStore t (sealToken s.sealKey s.core.partId (s.core.rk k)) 0 2).mod fun c =>
      c.strikeStore false (span t.va t.n) s.now) s

/-- kst.l (R48). -/
def execKstL (k : BitVec 4) (b i : BitVec 5) (s : State) : Out :=
  localForm (.kstL k b i) (fun r a n s =>
    (s.localStore r a (sealToken s.sealKey s.core.partId (s.core.rk k)) 0).mod fun c =>
      c.strikeStore true (span a n) s.now) s

/-- kld (R49). -/
def execKld (k j : BitVec 4) (o : BitVec 5) (s : State) : Out :=
  tokenForm (.kld k j o) 8 (fun c => c.putK k Token.zero s.now 1)
    (fun t s => s.tokenFetch (.kload k.toNat) t 0 2) s

/-- kld.l (R49, R251): latency 9 from the own alias, split or not. -/
def execKldL (k : BitVec 4) (b i : BitVec 5) (s : State) : Out :=
  localForm (.kldL k b i) (fun r a n s =>
    match r with
    | .scratch => s.mod fun c => ((c.takePorts s.now a n).readUpper s.now a n (.k k.toNat)).putK k (unsealToken s.sealKey c.partId (c.scrReadSplit s.now a n)) s.now 9
    | _ => s.localFetch (.kload k.toNat) r a n 0) s

/-- krel (R50): the request is posted to F2; an invalid or stale token is only cleared. -/
def execKrel (k : BitVec 4) (s : State) : Out :=
  withGate (.krel k) s fun s =>
    let t := s.core.rk k
    let e := s.entry t.index.toNat
    let held := t.gen ≠ 0 ∧ t.part.toNat = s.core.partId ∧ e.owner = t.part.toNat ∧ e.state = .active ∧ e.gen = t.gen
    let s1 := if held then { s with releases := s.releases ++ [(t.index.toNat, t.gen.toNat)] } else s
    retireWith s1 fun c => c.putK k Token.zero s.now 1

end Sys2Proof.Machine
end

