-- ==== Sys2Proof/Machine/Atomics.lean ====
section
/-! DEFINITION. Token and local atomics, reductions, and `waita` (06 R114-R133, 11 R253). What an atomic does
at its serialisation point is the atomic-apply events' meaning. -/

namespace Sys2Proof.Machine

/-- A token atomic: T and x of R119 as the registers stand, and the access (R120, R125). -/
def amoForm (i : Instr) (op d c : BitVec 4) (p : BitVec 3) (o : BitVec 2) (s : State) : Out :=
  tokenForm i 9 (fun k => k.put (d.setWidth 5) 0 s.now 1)
    (fun t s =>
      let m := 2 ^ (8 * t.n)
      s.tokenFetch (.atomic op d.toNat ((s.core.rn d).toNat % m) ((s.core.rn c).toNat % m)) t o p) s

/-- A local atomic (R116, R118, R120). -/
def lamoForm (i : Instr) (op d c : BitVec 4) (o : BitVec 2) (s : State) : Out :=
  localForm i (fun r a n s =>
    let m := 2 ^ (8 * n)
    s.localFetch (.atomic op d.toNat ((s.core.rn d).toNat % m) ((s.core.rn c).toNat % m)) r a n o) s

/-- amo.add (R119, R120). -/
def execAmoAdd (z : BitVec 1) (d k b c : BitVec 4) (p : BitVec 3) (o : BitVec 2) (s : State) : Out :=
  amoForm (.amoAdd z d k b c p o) 0 d c p o s

/-- amo.and (R119, R120). -/
def execAmoAnd (z : BitVec 1) (d k b c : BitVec 4) (p : BitVec 3) (o : BitVec 2) (s : State) : Out :=
  amoForm (.amoAnd z d k b c p o) 1 d c p o s

/-- amo.or (R119, R120). -/
def execAmoOr (z : BitVec 1) (d k b c : BitVec 4) (p : BitVec 3) (o : BitVec 2) (s : State) : Out :=
  amoForm (.amoOr z d k b c p o) 2 d c p o s

/-- amo.xor (R119, R120). -/
def execAmoXor (z : BitVec 1) (d k b c : BitVec 4) (p : BitVec 3) (o : BitVec 2) (s : State) : Out :=
  amoForm (.amoXor z d k b c p o) 3 d c p o s

/-- amo.min (R119, R120). -/
def execAmoMin (z : BitVec 1) (d k b c : BitVec 4) (p : BitVec 3) (o : BitVec 2) (s : State) : Out :=
  amoForm (.amoMin z d k b c p o) 4 d c p o s

/-- amo.max (R119, R120). -/
def execAmoMax (z : BitVec 1) (d k b c : BitVec 4) (p : BitVec 3) (o : BitVec 2) (s : State) : Out :=
  amoForm (.amoMax z d k b c p o) 5 d c p o s

/-- amo.minu (R119, R120). -/
def execAmoMinu (z : BitVec 1) (d k b c : BitVec 4) (p : BitVec 3) (o : BitVec 2) (s : State) : Out :=
  amoForm (.amoMinu z d k b c p o) 6 d c p o s

/-- amo.maxu (R119, R120). -/
def execAmoMaxu (z : BitVec 1) (d k b c : BitVec 4) (p : BitVec 3) (o : BitVec 2) (s : State) : Out :=
  amoForm (.amoMaxu z d k b c p o) 7 d c p o s

/-- amo.swap (R119, R120). -/
def execAmoSwap (z : BitVec 1) (d k b c : BitVec 4) (p : BitVec 3) (o : BitVec 2) (s : State) : Out :=
  amoForm (.amoSwap z d k b c p o) 8 d c p o s

/-- amo.cas (R119, R120). -/
def execAmoCas (z : BitVec 1) (d k b c : BitVec 4) (p : BitVec 3) (o : BitVec 2) (s : State) : Out :=
  amoForm (.amoCas z d k b c p o) 9 d c p o s

/-- amo.fadd (R121). -/
def execAmoFadd (d k b c : BitVec 4) (p : BitVec 3) (o : BitVec 2) (s : State) : Out :=
  amoForm (.amoFadd d k b c p o) 10 d c p o s

/-- amo.addt (R129). -/
def execAmoAddt (z : BitVec 1) (d k b c : BitVec 4) (p : BitVec 3) (o : BitVec 2) (s : State) : Out :=
  amoForm (.amoAddt z d k b c p o) 11 d c p o s

/-- lamo.add (R119, R120). -/
def execLamoAdd (z : BitVec 1) (d a i c : BitVec 4) (o : BitVec 2) (s : State) : Out :=
  lamoForm (.lamoAdd z d a i c o) 0 d c o s

/-- lamo.and (R119, R120). -/
def execLamoAnd (z : BitVec 1) (d a i c : BitVec 4) (o : BitVec 2) (s : State) : Out :=
  lamoForm (.lamoAnd z d a i c o) 1 d c o s

/-- lamo.or (R119, R120). -/
def execLamoOr (z : BitVec 1) (d a i c : BitVec 4) (o : BitVec 2) (s : State) : Out :=
  lamoForm (.lamoOr z d a i c o) 2 d c o s

/-- lamo.xor (R119, R120). -/
def execLamoXor (z : BitVec 1) (d a i c : BitVec 4) (o : BitVec 2) (s : State) : Out :=
  lamoForm (.lamoXor z d a i c o) 3 d c o s

/-- lamo.min (R119, R120). -/
def execLamoMin (z : BitVec 1) (d a i c : BitVec 4) (o : BitVec 2) (s : State) : Out :=
  lamoForm (.lamoMin z d a i c o) 4 d c o s

/-- lamo.max (R119, R120). -/
def execLamoMax (z : BitVec 1) (d a i c : BitVec 4) (o : BitVec 2) (s : State) : Out :=
  lamoForm (.lamoMax z d a i c o) 5 d c o s

/-- lamo.minu (R119, R120). -/
def execLamoMinu (z : BitVec 1) (d a i c : BitVec 4) (o : BitVec 2) (s : State) : Out :=
  lamoForm (.lamoMinu z d a i c o) 6 d c o s

/-- lamo.maxu (R119, R120). -/
def execLamoMaxu (z : BitVec 1) (d a i c : BitVec 4) (o : BitVec 2) (s : State) : Out :=
  lamoForm (.lamoMaxu z d a i c o) 7 d c o s

/-- lamo.swap (R119, R120). -/
def execLamoSwap (z : BitVec 1) (d a i c : BitVec 4) (o : BitVec 2) (s : State) : Out :=
  lamoForm (.lamoSwap z d a i c o) 8 d c o s

/-- lamo.cas (R119, R120). -/
def execLamoCas (z : BitVec 1) (d a i c : BitVec 4) (o : BitVec 2) (s : State) : Out :=
  lamoForm (.lamoCas z d a i c o) 9 d c o s

/-- lamo.fadd (R121). -/
def execLamoFadd (d a i c : BitVec 4) (o : BitVec 2) (s : State) : Out :=
  lamoForm (.lamoFadd d a i c o) 10 d c o s

/-! ## What an atomic computes (R119, R121, R129) -/

/-- The new value of n bytes, from the old one, T and x. -/
def amoNew (op : BitVec 4) (n old t x : Nat) : Nat :=
  let w := 8 * n
  let less (u : Bool) (p q : Nat) : Bool := if u then decide (p < q) else decide (signed w p < signed w q)
  match op.toNat with
  | 0 | 11 => (old + x) % 2 ^ w
  | 1 => old &&& x
  | 2 => old ||| x
  | 3 => old ^^^ x
  | 4 => if less false x old then x else old
  | 5 => if less false old x then x else old
  | 6 => if less true x old then x else old
  | 7 => if less true old x then x else old
  | 8 => x
  | 9 => if old = t then x else old
  | 10 => (fadd .rne (BitVec.ofNat 32 old) (BitVec.ofNat 32 x)).toNat
  | _ => old

/-- Whether an atomic writes at all: a `cas` whose comparison fails does not (R119). -/
def amoWrites (op : BitVec 4) (old t : Nat) : Bool := op != 9 || old == t

/-- Whether an `amo.addt` from old to new crosses its threshold T (R129). -/
def amoCrosses (n old new t : Nat) : Bool :=
  let v := signed (8 * n)
  (decide (v old < v t) && decide (v t ≤ v new)) || (decide (v new ≤ v t) && decide (v t < v old))

/-! ## waita (R130-R132) -/

/-- End a `waita`: its result, and its wait record (R130, R398). -/
def State.endWaita (s : State) (i : Instr) (d : BitVec 4) (r : WaitEnd) : State :=
  retireWith (s.logWait s.core i r.ended r.setter) fun c => (c.put (d.setWidth 5) r.value s.now 1).putBc r.bc s.now

/-- waita (R130). -/
def execWaita (z : BitVec 1) (d k b c : BitVec 4) (p : BitVec 3) (s : State) : Out :=
  withGate (.waita z d k b c p) s fun s =>
    match s.core.waiting, s.core.tokenAccess (.waita z d k b c p) with
    | .waita _ (some r), _ => s.endWaita (.waita z d k b c p) d r
    | .waita _ none, _ => s.stallFor 12
    | _, none => s
    | _, some t =>
      match s.checkRights t.tok t.off t.n t.need with
      | .ok =>
        let s1 := s.tokenFetch (.waita d.toNat ((s.core.rn c).toNat % 2 ^ (8 * t.n))) t 0 p
        State.stallFor (s1.mod fun c => { c with waiting := .waita (c.accNext - 1) none }) 12
      | bad => retireWith s fun c => ((c.nullBook bad).put (d.setWidth 5) 0 s.now 1).putBc true s.now

end Sys2Proof.Machine
end

