-- ==== Sys2Proof/Machine/System.lean ====
section
/-! DEFINITION. Fences' waiting, the end of a task, traps by instruction, `svc`, control registers, counters and
`yield` (05 R95, R105, R106; 07 R137, R147-R151; 10 R228-R236; 19 R400-R404, R408). -/

namespace Sys2Proof.Machine

/-! ## What a fence waits for (R95, R96, R105) -/

/-- Every earlier access of the strand is performed in its die: its timed stores are exposed, the reads of its loads are made
(R89, R250); accesses to remote-home memory count only at scope DM (R96). -/
def Core.ownDone (c : Core) (dm : Bool) : Bool :=
  (c.acc.all fun a => !dm && (match a.space with | .lent _ => true | _ => false)) && c.timed.all (fun w => !w.strand) && c.late.isEmpty

/-- The fence of scope PK or DM: then `k`, else a stall for the reason given (R105, R106). -/
def State.fenced (s : State) (dm : Bool) (reason : BitVec 8) (k : State → State) : State :=
  match s.core.waiting with
  | .fence clock => if s.reached clock then k s else s.stallFor reason
  | _ =>
    if ¬ s.core.ownDone dm ∨ ¬ s.seenHere then s.stallFor reason
    else
      let clock := s.dieClock (dieOf s.core.phys)
      if s.reached clock then k s
      else State.stallFor (s.mod fun c => { c with waiting := .fence clock }) reason

/-! ## end (R137) -/

/-- What `end` and a pre-empting `yield` wait for (R137, R148, R73). -/
def Core.drained (c : Core) : Bool :=
  c.matrix.idle && c.copy.idle && c.lantern.idle && c.acc.isEmpty && c.timed.isEmpty

/-! ## Deferred reports (R260, R300, R301, R354-R361, R412) -/

/-- A report to deliver. -/
inductive Report where
  | precise (r : WatchReport) | engine (e : EngineId) (r : EngineReport) | read (r : PoisonReport) | reduction (r : PoisonReport)
  | imprecise (r : WatchReport)
  deriving DecidableEq, Repr

/-- The instruction at issue has issued and waits for its end, or is a wait that R260 does not let a report interrupt. -/
def Core.holdsReports (c : Core) : Bool :=
  c.waiting.committed || (match c.waiting with | .fence _ => true | _ => false)
    || (match c.cur with
      | some .fenceCo | some .fenceCl | some .fenceDi | some .fencePk | some .fenceDm => c.stall == 13
      | some .sync | some .alignEquinox => c.stall == 10
      | some (.svc _) => c.stall == 15
      | _ => false)

/-- A wait that R260 lets an engine's report interrupt is in progress. -/
def Core.openWait (c : Core) : Bool :=
  match c.cur with
  | some (.tagWany _) | some (.tagWall _) | some (.barWait ..) => true
  | _ => false

/-- A report of this cycle is for a later issue; an engine's is also for a wait in progress (R243, R260, R300, R361). -/
def Core.ripe (c : Core) (cycle now : Nat) : Bool := decide (cycle < now) || c.openWait

/-- The report among those pending that goes first (R355): in a handler only those that end the task. -/
def Core.firstReport (c : Core) (now : Nat) : Option Report :=
  match c.watchNow with
  | some r => some (.precise r)
  | none =>
    let eng (e : EngineId) (g : Engine) : Option Report :=
      if c.inh then none else (g.report.filter fun r => c.ripe r.cycle now).map fun r => .engine e r
    let reads := (c.engPoison.find? fun r => c.ripe r.cycle now && (!c.inh || r.integrity)).map Report.read
    let red := (c.redOwed.find? fun r => decide (r.cycle < now)).map Report.reduction
    let late := if c.inh then none else c.watchQ.head?.map Report.imprecise
    ((((eng .matrix c.matrix <|> eng .copy c.copy) <|> eng .lantern c.lantern) <|> reads) <|> red) <|> late

/-- The report that is taken at this boundary. -/
def Core.nextReport (c : Core) (now : Nat) : Option Report :=
  if c.holdsReports || c.draining then none else c.firstReport now

/-- A report would be taken at the next cycle's boundary: an `end` or a `yield` that waits does not retire before it (R137,
R151, R363). -/
def Core.reporting (c : Core) (now : Nat) : Bool := (c.firstReport (now + 1)).isSome

/-! ## The end of a core's part (R137) -/

/-- The core runs no further instruction of its task. -/
def Core.finishTask (c : Core) (now : Nat) : Core :=
  let clear (e : Engine) : Engine := { e with stack := [], cond := none }
  { c with ctx := .ended, slots := none, preempt := false, dump := false, fq := []
           matrix := clear c.matrix, copy := clear c.copy, lantern := clear c.lantern }.finish false now

/-- end (R137): the task completes when every crew core has retired it. -/
def execEndOp (s : State) : Out :=
  withGate .endOp s fun s =>
    if ¬ s.core.drained ∨ s.core.reporting s.now then State.stallFor (s.mod fun c => { c with waiting := .drain }) 17
    else
      let s1 := ((s.dumpsMissed [s.core]).mod fun c => c.finishTask s.now).modTask s.core.task fun t => { t with ended := t.ended ++ [s.core.rank] }
      match s1.task? s.core.task with
      | some t => if t.cores.length ≤ t.ended.length then s1.partEnded t ⟨t.idx, .ok, 0, 0, 0⟩ else s1
      | none => s1

/-! ## Traps by instruction (R229, R231) -/

/-- eret (R231). -/
def execEret (s : State) : Out :=
  withGate .eret s fun s => s.mod fun c => (c.leaveTrap s.now).finish true s.now

/-- trap (R229): it counts against Vigil. -/
def execTrap (n : BitVec 5) (s : State) : Out :=
  withGate (.trap n) s fun s =>
    State.takeTrap (s.mod fun c => { c with vigil := c.vigil - 1 }.note 2) 8 (n.setWidth 64) (s.core.pc + 4)

/-- svc (R230): a fence.pk, the request, the reply. -/
def execSvc (n : BitVec 5) (s : State) : Out :=
  withGate (.svc n) s fun s =>
    match s.core.waiting with
    | .svc _ none => s.stallFor 15
    | .svc _ (some (r1, r2)) => retireWith s fun c =>
        let c1 := match r1 with
          | some x => c.put 1 x s.now 1
          | none => c
        c1.put 2 r2 s.now 1
    | _ => s.fenced false 15 fun s =>
        State.stallFor { s with core := { s.core with waiting := .svc s.dueCycle none }, fv := s.fv + 1 } 15

/-! ## Counters (R400-R404) -/

/-- A core takes a sample on this cycle (R393). -/
def Core.samples (c : Core) : Bool :=
  c.sen && c.headRun && decide ((c.calendar.toNat + 997 * c.vcore) % 2 ^ c.sampleExp = 0)

/-- Whether an event code of R402 occurred on the core this cycle. -/
def Core.occurred (c : Core) (e : BitVec 8) : Bool :=
  if e = 0 then false
  else if e = 1 then true
  else if 0x41 ≤ e.toNat ∧ e.toNat ≤ 0x54 then c.stall.toNat = e.toNat - 0x40
  else if e = 0x0F then c.samples
  else if 0x0F < e.toNat then false
  else c.events.contains e

/-- Whether counter n counts this cycle (R401); event 0x80 + n marks its clear in this cycle, 0xF0 that the
cycle began in a handler. -/
def Core.countsNow (c : Core) (n : Fin 16) : Bool :=
  let sel := c.ctrsel[n]
  sel.getLsbD 15 && (sel.getLsbD 16 || !c.events.contains 0xF0) && !c.events.contains (BitVec.ofNat 8 (0x80 + n))
    && c.occurred (sel.extractLsb' 0 8)

/-- A counter one step on: OVF on the wrap (R401). -/
def ctrStep (x : Word) : Word :=
  if x.extractLsb' 0 48 = BitVec.allOnes 48 then 1#64 <<< 63 else x + 1

/-- A counter with this cycle's event (R401). -/
def Core.ctrNow (c : Core) (n : Fin 16) : Word := if c.countsNow n then ctrStep c.ctrval[n] else c.ctrval[n]

/-- A write to CTRSEL n (R403, R404). -/
def Core.writeSel (c : Core) (n : Fin 16) (x : Word) : Core :=
  let new : Word := x &&& 0x180FF
  let clears := x.getLsbD 17 ∨ new ≠ c.ctrsel[n]
  if clears then
    { c with ctrsel := c.ctrsel.set n new, ctrval := c.ctrval.set n 0, events := BitVec.ofNat 8 (0x80 + n) :: c.events }
  else c

/-- ctr.sel (R403). -/
def execCtrSel (a : BitVec 5) (n : BitVec 4) (s : State) : Out :=
  withGate (.ctrSel a n) s fun s => retireWith s fun c => c.writeSel n.toFin (c.rs a)

/-! ## Control registers (R233-R236) -/

/-- TW as `mfc` reads it (R328). -/
def Core.twRead (c : Core) (now : Nat) : BitVec 11 := if c.lan.twSince < now then c.lan.tw else c.lan.twOld

/-- The value of a control register on the cycle of its `mfc`, which counts as the instruction retired (R234, R403). CREW
is read whole, with SIZE in bits [24:16] (R135, R233); the slots 100 and 101 that the example of R19 shows would have SIZE 0
(DESIGN CHOICE, log entry 54). -/
def Core.readCreg (c : Core) (now n : Nat) : Word :=
  match n with
  | 0 => c.status
  | 1 => c.trapCause.setWidth 64
  | 2 => c.trapPc.setWidth 64
  | 3 => c.trapVal
  | 4 => c.tvec.setWidth 64
  | 5 => c.trapTgt.setWidth 64
  | 6 => c.sbase.setWidth 64
  | 7 => c.slimit.setWidth 64
  | 8 => c.calendar
  | 9 => c.vigil.setWidth 64
  | 10 => c.tags
  | 11 => c.tagrev
  | 12 => c.oobcnt.setWidth 64
  | 13 => c.fmtstat.setWidth 64
  | 14 => c.waitcfg.setWidth 64
  | 15 => c.crew
  | 16 => c.vtopo
  | 17 => c.dbgcfg.setWidth 64
  | 18 => (c.twRead now).setWidth 64
  | 19 => c.samplecfg
  | 20 => c.wpbase[0]
  | 21 => c.wpmask[0]
  | 22 => c.wpbase[1]
  | 23 => c.wpmask[1]
  | n =>
    let k : Fin 16 := Fin.ofNat 16 (n % 16)
    if n < 48 then c.ctrsel[k] else { (c.note 2) with stall := 0 }.ctrNow k

/-- mfc (R233); a counter is read with every event of this cycle, which the end of the cycle knows (R403, R404). -/
def execMfc (d y x : BitVec 5) (s : State) : Out :=
  withGate (.mfc d y x) s fun s => retireWith s fun c =>
    let n := ctrlNumber x y
    if 48 ≤ n then { c.put d (c.readCreg s.now n) s.now 3 with ctrRead := some (d, BitVec.ofNat 4 n) }
    else c.put d (c.readCreg s.now n) s.now 1

/-- The stored form of WPMASK: MODE 3 is stored as 0 (R408). -/
def wpmaskStored (x : Word) : Word :=
  let y : Word := x &&& 0x1FFFFF
  if y.extractLsb' 16 2 = 3 then y &&& ~~~0x30000 else y

/-- Write a control register field by field (R233-R236); a bit set by hardware this cycle stays set. -/
def Core.writeCreg (c : Core) (n : Nat) (x : Word) : Core :=
  let lo : BitVec 32 := x.setWidth 32
  match n with
  | 0 =>
    let c1 := c.setStatus x
    { c1 with oob := c1.oob || c.statusNow.getLsbD 0, revpend := c1.revpend || c.statusNow.getLsbD 1 }
  | 1 => { c with trapCause := x.setWidth 8 }
  | 2 => { c with trapPc := lo &&& ~~~3 }
  | 3 => { c with trapVal := x }
  | 4 => { c with tvec := lo &&& ~~~3 }
  | 5 => { c with trapTgt := lo &&& ~~~3 }
  | 6 => { c with sbase := lo &&& ~~~7 }
  | 7 => { c with slimit := lo &&& ~~~7 }
  | 12 => { c with oobcnt := lo }
  | 13 => { c with fmtstat := (c.fmtstat &&& ~~~(x.setWidth 5)) ||| c.fmtNow }
  | 14 => { c with waitcfg := x.setWidth 5 }
  | 20 => { c with wpbase := c.wpbase.set 0 (x &&& 0xFFFFFFFFFFFFF0) }
  | 21 => { c with wpmask := c.wpmask.set 0 (wpmaskStored x) }
  | 22 => { c with wpbase := c.wpbase.set 1 (x &&& 0xFFFFFFFFFFFFF0) }
  | 23 => { c with wpmask := c.wpmask.set 1 (wpmaskStored x) }
  | n => if 32 ≤ n ∧ n < 48 then c.writeSel (Fin.ofNat 16 (n - 32)) x else c

/-- Whether a write installs a watch on virtual atomics, for which the `mtc` stalls (R408). -/
def installs (n : Nat) (x : Word) : Bool := (n == 21 || n == 23) && (wpmaskStored x).extractLsb' 16 2 == 2 && x.getLsbD 20

/-- mtc (R233, R408). -/
def execMtc (a y x : BitVec 5) (s : State) : Out :=
  withGate (.mtc a y x) s fun s =>
    let n := ctrlNumber x y
    let v := s.core.rs a
    let done := retireWith s fun c => c.writeCreg n v
    match s.core.waiting with
    | .install _ true => done
    | .install _ false => s.stallFor 1
    | _ =>
      if installs n v then State.stallFor { s with core := { s.core with waiting := .install s.dueCycle false }, fv := s.fv + 1 } 1
      else done

/-! ## yield (R54, R148, R407) -/

/-- TRAPVAL of REVOKED: the token registers that are stale (R54). -/
def State.staleMask (s : State) : Word :=
  BitVec.ofNat 64 ((List.range 16).foldr (fun i acc =>
    let t := s.core.rk (BitVec.ofNat 4 i)
    let e := s.entry t.index.toNat
    let stale := t.gen ≠ 0 ∧ t.part.toNat = s.core.partId ∧ (e.state = .free ∨ e.owner = t.part.toNat)
      ∧ (e.state ≠ .active ∨ e.gen ≠ t.gen)
    2 * acc + (decide stale).toNat) 0)

/-- Once a check on an index is stale on the core, every later one is: the lines of the cache whose entries a `yield` finds
stale are dropped (R60). -/
def State.dropStale (s : State) : State :=
  s.mod fun c => { c with tfc := c.tfc.filter fun e =>
    !((List.range 16).any fun i => (c.rk (BitVec.ofNat 4 i)).index.toNat == e.index)
      || ((s.entry e.index).state == .active && (s.entry e.index).gen == e.gen) }

/-- The die-pool allotment of the running core's virtual die, by offset (R29, R407). -/
def State.allotment (s : State) : List Host.Cell :=
  let base := (s.core.spaceOf .pool 0x20000000).2
  ((s.dies.toArray.getD (dieOf s.core.phys) s.dies[3]).pool.filter fun x =>
    decide (base ≤ x.1) && decide (x.1 < base + s.core.poolMb * 0x100000)).map fun x => (x.1 - base, x.2)

/-- yield (R148): REVOKED first; a pending dump, then a pending pre-emption, take it once it has drained and the reads of its
loads are made. -/
def execYield (cnt : BitVec 12) (mask : BitVec 16) (s : State) : Out :=
  withGate (.yield cnt mask) s fun s =>
    match s.core.waiting with
    | .until c =>
      if s.now < c then s.stallFor 18
      else State.takeTrap (s.dropStale.mod fun c => { c with revpend := false }) 7 s.staleMask s.core.pc
    | w =>
      if w ≠ .drain ∧ s.core.revpend then
        State.stallFor { s with
          core := { s.core with waiting := .until (s.now + Config.untimedDelay s.fv % 65) }, fv := s.fv + 1 } 18
      else
        let s1 := s.mod fun c => { c with vigil := cnt.setWidth 16 <<< 4 }
        let leave (s : State) : State := s.mod fun c => (c.advance).finish false s.now
        if ¬ s.core.preempt ∧ ¬ s.core.dump then leave s1
        else if ¬ s.core.drained ∨ ¬ s.core.late.isEmpty ∨ s.core.reporting s.now then
          State.stallFor (s.mod fun c => { c with waiting := .drain }) 17
        else
          let s2 := if s.core.dump then
              { s1 with core := { s1.core with dump := false }, dumps := s1.dumps ++ [⟨s.core.phys, true, s1.core, s.allotment, []⟩] }
            else s1
          if s.core.preempt then State.stallFor (s2.mod fun c => { c with vigil := s.core.vigil, waiting := .drain }) 17 else leave s2

end Sys2Proof.Machine
end

