-- ==== Sys2Proof/Machine/CurveLoad.lean ====
section
/-! DEFINITION. Loading a companding curve into a slot (12 R288, 08 R172, R173). -/

namespace Sys2Proof.Machine

/-- The end of the bank row that holds a byte. -/
def rowEnd (a : Nat) : Nat := (a / 64 + 1) * 64

/-- The part of the 68 bytes from a that a `cmpt` reads at `next`: up to the end of its bank row. -/
def cmptRow (a next : Nat) : Nat := min (a + 68) (rowEnd next) - next

/-- Read one bank row at this cycle, or wait for its port or its lock (R67, R74), or trap on a pending word of it (R72); after the
last row the retirement is 40 cycles on (R288). -/
def State.cmptRead (s : State) (rows : List Host.Cell) (a next : Nat) : State :=
  let n := cmptRow a next
  let wait (reason : BitVec 8) : State := State.stallFor (s.mod fun c => { c with waiting := .cmpt rows next 0 }) reason
  if s.core.lockedAt next (next + n) then wait 6
  else if s.core.matrixReads s.now next n ∨ s.core.bankTaken s.now next n then wait 16
  else match (if s.core.pendTrap then s.core.pendingOn s.now next n else none) with
  | some x => s.takeTrap 5 (BitVec.ofNat 64 x) s.core.pc
  | none =>
  let rows' := rows ++ cellsAt next (s.core.scrRead s.now next n)
  let w : Waiting := if a + 68 ≤ next + n then .cmpt rows' 0 (s.now + 40) else .cmpt rows' (next + n) 0
  State.stallFor (s.mod fun c => { c.takePort s.now next n with waiting := w }) 16

/-- cmpt (R288): rows in order, then 40 cycles, then the slot changes or CTBAD is set. Outside the own scratchpad its 68 bytes are
read on one cycle, which is free (R76 and R77 do not say how the read is cut), and one that meets a poisoned pool row leaves
the slot as it was, owes the report with register 0 and retires at once (DESIGN CHOICE, log entry 70). -/
def execCmpt (a b : BitVec 4) (t : BitVec 2) (s : State) : Out :=
  withGate (.cmpt a b t) s fun s =>
    let addr := (s.core.rn a + s.core.rn b).toNat
    match s.core.waiting with
    | .cmpt rows next 0 => s.cmptRead rows addr next
    | .cmpt rows _ due =>
      if s.now < due then s.stallFor 16
      else
        let curve := curveOf (rows.map (·.2))
        retireWith s fun c =>
          if curve.valid then { c with curves := c.curves.set t.toNat curve } else c.fmtSet fmtCtbad
    | .until _ => s.stallFor 16
    | .got bs bad =>
      if bad then retireWith s fun c => c.owe 0 addr s.now
      else State.stallFor (s.mod fun c => { c with waiting := .cmpt (cellsAt addr bs) 0 (s.now + 39) }) 16
    | _ =>
      if regionOf s.core.poolMb addr = some .scratch then s.cmptRead [] addr addr
      else State.stallFor { s with core := { s.core with waiting := .until s.dueCycle }, fv := s.fv + 1 } 16

end Sys2Proof.Machine
end

