-- ==== Sys2Proof/Machine/Sync.lean ====
section
/-! DEFINITION. Synchronisation: fences, the Equinox, tags, cluster barriers, and the pushes to the engine queues
(05 R95, R105, R106; 07 R140-R145; 11 R254-R262; 13 R292-R294). -/

namespace Sys2Proof.Machine

/-! ## Fences (R95, R254) -/

/-- A fence within the die: every earlier access of the strand is performed and exposed, and what it has seen is in the die. -/
def dieFence (i : Instr) (s : State) : Out :=
  withGate i s fun s => if s.core.ownDone false ∧ s.seenHere then retireWith s fun c => c else s.stallFor 13

/-- fence.co (R95); a taken transfer after it reaches words fetched anew (R212). -/
def execFenceCo (s : State) : Out :=
  withGate .fenceCo s fun s =>
    if s.core.ownDone false ∧ s.seenHere then retireWith s fun c => { c with coFence := s.now + 1 } else s.stallFor 13

/-- fence.cl (R95). -/
def execFenceCl (s : State) : Out := dieFence .fenceCl s

/-- fence.di (R95). -/
def execFenceDi (s : State) : Out := dieFence .fenceDi s

/-- fence.pk (R105). -/
def execFencePk (s : State) : Out :=
  withGate .fencePk s fun s => s.fenced false 13 fun s => retireWith s fun c => c

/-- fence.dm (R106). -/
def execFenceDm (s : State) : Out :=
  withGate .fenceDm s fun s => s.fenced true 13 fun s => retireWith s fun c => c

/-! ## The Equinox (R140, R141) -/

/-- Arrival of the running core at its next instance. -/
def State.arrive (s : State) (isAlign : Bool) : State :=
  (s.modTask s.core.task fun t =>
    { t with arrivals := t.arrivals ++ [(s.core.rank, isAlign)], lastArriver := s.core.rank }).mod fun c =>
      { c with waiting := .equinox (c.eqx + 1) none }

/-- sync and align: a fence.pk, the arrival, the wait for the release (R141, R398). -/
def equinox (i : Instr) (isAlign : Bool) (s : State) : Out :=
  withGate i s fun s =>
    match s.core.waiting with
    | .equinox _ (some last) =>
      retireWith (s.logWait s.core i 0 (setterCore Config.packageNumber last)) fun c => { c with eqx := c.eqx + 1 }
    | .equinox _ none => s.stallFor 10
    | _ => s.fenced false 10 fun s => State.stallFor (s.arrive isAlign) 10

/-- sync (R141). -/
def execSync (s : State) : Out := equinox .sync false s

/-- align (R141). -/
def execAlignEquinox (s : State) : Out := equinox .alignEquinox true s

/-! ## Tags (R255-R259) -/

/-- The tags among a mask that engines have set this cycle. -/
def Core.setNow (c : Core) (m : Word) : List (Nat × Nat) := c.doneNow.filter fun x => m.getLsbD x.1

/-- SETTER of a tag wait that ends now: the lowest tag set this cycle (R399). -/
def Core.tagSetter (c : Core) (m : Word) : BitVec 32 :=
  match (c.setNow m).foldl (fun b x => match b with
      | none => some x
      | some y => if x.1 < y.1 then some x else some y) (none : Option (Nat × Nat)) with
  | some x => setterEngine (x.2 % 4) x.1
  | none => setterNone

/-- A wait on tags: retire when the test holds (R257). -/
def tagWait (i : Instr) (a : BitVec 5) (test : Word → Word → Bool) (s : State) : Out :=
  withGate i s fun s =>
    let m := s.core.rs a
    if test s.core.tags m then retireWith (s.logWait s.core i 0 (s.core.tagSetter m)) fun c => c
    else s.stallFor 9

/-- tag.wany (R257). -/
def execTagWany (a : BitVec 5) (s : State) : Out := tagWait (.tagWany a) a (fun t m => m == 0 || t &&& m != 0) s

/-- tag.wall (R257). -/
def execTagWall (a : BitVec 5) (s : State) : Out := tagWait (.tagWall a) a (fun t m => t &&& m == m) s

/-- tag.ffr (R258). -/
def execTagFfr (d a : BitVec 5) (s : State) : Out :=
  withGate (.tagFfr d a) s fun s => retireWith s fun c =>
    match lowestBit (c.tags &&& c.rs a) with
    | none => (c.put d 64 s.now 1).putBc false s.now
    | some i => (c.put d (BitVec.ofNat 64 (i + 256 * (c.tagrev.getLsbD i).toNat)) s.now 1).putBc true s.now

/-- A mask of tag numbers. -/
def tagMask (xs : List Nat) : Word := xs.foldl (fun m i => m ||| (1#64 <<< (i % 64))) 0

/-- tag.clr (R259): a bit that a completion sets on this cycle stays set. -/
def execTagClr (a : BitVec 5) (s : State) : Out :=
  withGate (.tagClr a) s fun s => retireWith s fun c =>
    { c with
      tags := (c.tags &&& ~~~(c.rs a)) ||| tagMask (c.doneNow.map (·.1))
      tagrev := (c.tagrev &&& ~~~(c.rs a)) ||| tagMask ((c.doneNow.filter fun x => 4 ≤ x.2).map (·.1)) }

/-! ## Cluster barriers (R143-R145) -/

/-- The barrier objects of the running core's cluster. -/
def State.cluster (s : State) (k : Nat) : Cluster :=
  (mapGet s.clusters k).getD ⟨Vector.replicate 32 (Barrier.initial 0), none, none, []⟩

def State.modBar (s : State) (k : Nat) (id : BitVec 5) (f : Barrier → Barrier) : State :=
  let c := s.cluster k
  { s with clusters := mapSet s.clusters k { c with bars := c.bars.set id.toNat (f c.bars[id.toNat]) } }

/-- A position as a mask. -/
def posBit (q : Nat) : BitVec 8 := 1#8 <<< q

/-- An arrival at an object (R144); the last arrival or drop of a cycle is kept in the order of R145. -/
def Barrier.arrive (b : Barrier) (q : Nat) : Barrier :=
  let b1 := { b with touched := true, cand := max b.cand (8 + q) }
  if b.members &&& posBit q = 0 then { b1 with join := b.join ||| posBit q }
  else { b1 with arr := b.arr ||| posBit q }

/-- A drop (R144). -/
def Barrier.drop (b : Barrier) (q : Nat) : Barrier :=
  { b with members := b.members &&& ~~~(posBit q), join := b.join &&& ~~~(posBit q), touched := true, cand := max b.cand q }

/-- Whether an arrival is held: a member that has already arrived in this phase, or whose earlier arrival is still held
(R144). -/
def Barrier.holds (b : Barrier) (q : Nat) : Bool :=
  b.members &&& posBit q != 0 && (b.arr &&& posBit q != 0 || b.held.any fun x => x.1 == q)

/-- The phase a held arrival of a position will belong to: the next one after its last (R144). -/
def Barrier.heldPhase (b : Barrier) (q : Nat) : BitVec 32 :=
  match (b.held.filter fun x => x.1 == q).getLast? with
  | some x => x.2 + 1
  | none => b.phase + 1

/-- The completion test at the end of a cycle (R144). -/
def Barrier.complete (b : Barrier) : Barrier :=
  let b0 := { b with touched := false, cand := 0 }
  if b.touched ∧ b.arr &&& b.members = b.members then
    { b0 with phase := b.phase + 1, arr := 0, members := b.members ||| b.join, join := 0, lastPos := b.cand % 8 }
  else b0

/-- The cycle that stands in `ready` for a reply that waits for a held arrival: never reached, and it names the
barrier and the phase the arrival will belong to. -/
def heldReply (id : BitVec 5) (phase : BitVec 32) : Nat := 2 ^ 62 + 32 * phase.toNat + id.toNat

/-- bar.arrive and bar.drop issue when the release wait of R93 is over (R262). -/
def barForm (i : Instr) (eff : State → State) (s : State) : Out :=
  withGate i s fun s => if s.core.ownDone false ∧ s.seenHere then eff s else s.stallFor 8

/-- bar.arrive (R144). -/
def execBarArrive (d id : BitVec 5) (s : State) : Out :=
  barForm (.barArrive d id) (fun s =>
    let k := clusterOf s.core.phys
    let q := posOf s.core.phys
    let b := (s.cluster k).bars[id.toNat]
    if b.holds q then
      let ph := b.heldPhase q
      retireWith (s.modBar k id fun b => { b with held := b.held ++ [(q, ph)] }) fun c =>
        (c.put d (ph.setWidth 64) s.now 1).after (sr d) (heldReply id ph)
    else
      retireWith { s.modBar k id (fun b => b.arrive q) with fv := s.fv + 1 } fun c =>
        (c.put d (b.phase.setWidth 64) s.now 1).after (sr d) s.dueCycle) s

/-- bar.drop (R144). -/
def execBarDrop (d id : BitVec 5) (s : State) : Out :=
  barForm (.barDrop d id) (fun s =>
    let k := clusterOf s.core.phys
    let b := (s.cluster k).bars[id.toNat]
    retireWith { s.modBar k id (fun b => b.drop (posOf s.core.phys)) with fv := s.fv + 1 } fun c =>
      (c.put d (b.phase.setWidth 64) s.now 1).after (sr d) s.dueCycle) s

/-- The phase that a `bar.wait` of a core names has completed (R144). -/
def State.phaseOver (s : State) (c : Core) (a id : BitVec 5) : Bool :=
  let ago := (((s.cluster (clusterOf c.phys)).bars[id.toNat]).phase - (c.rs a).setWidth 32).toNat
  decide (1 ≤ ago) && decide (ago ≤ 2 ^ 31)

/-- bar.wait (R144, R262): at once if the phase has completed when it issues; else it stalls until the message of the
completion has come, an untimed while later. The next instruction issues on the cycle after. -/
def execBarWait (a id : BitVec 5) (s : State) : Out :=
  withGate (.barWait a id) s fun s =>
    match s.core.waiting with
    | .told due setter =>
      if due ≤ s.now then retireWith (s.logWait s.core (.barWait a id) 0 setter) fun c => c else s.stallFor 11
    | _ => if s.core.stall ≠ 11 ∧ s.phaseOver s.core a id then retireWith s fun c => c else s.stallFor 11

/-- The stalled `bar.wait` of a core whose phase has completed by the end of this cycle: the message of it is on its way, with the
position that completed the phase (R262, R399). -/
def State.tellWait (s : State) (c : Core) : State :=
  match c.cur, c.waiting with
  | some (.barWait a id), .none =>
    if c.stall = 11 ∧ s.phaseOver c a id then
      let k := clusterOf c.phys
      let who := ((s.coreAt (k * 8 + ((s.cluster k).bars[id.toNat]).lastPos)).map Core.vcore).getD 0
      { s.modAt c.phys (fun c => { c with waiting := .told s.dueCycle (setterCore Config.packageNumber who) }) with fv := s.fv + 1 }
    else s
  | _, _ => s

/-! ## Engine queues (R292-R294) -/

/-- What stands before a collective's launch in the strand, which is a release for its buffers (R97, R107). -/
def Core.released (c : Core) : Release :=
  ⟨c.accNext, c.timed.foldl (fun m w => if w.strand then max m w.expose else m) 0, c.dep, c.depMsc⟩

/-- An engine word with the value captured for it (R204). -/
def Core.item (c : Core) (w : BitVec 16) : EItem :=
  ⟨w, if w.extractLsb' 5 11 = 8 then some (.int (c.rs (w.extractLsb' 0 5)))
      else if w.extractLsb' 4 12 = 32 then some (.tok (c.rk (w.extractLsb' 0 4)))
      else none, c.released⟩

/-- A packet with the captures of R204. -/
def Core.packet (c : Core) (x : Word) (now : Nat) : EPacket :=
  ⟨(List.range 4).map fun i => c.item (packetWord x i), now + 2⟩

def Engine.push (e : Engine) (p : EPacket) : Engine := { e with queue := e.queue ++ [p] }

/-- enq.m (R293). -/
def execEnqM (a : BitVec 5) (s : State) : Out :=
  withGate (.enqM a) s fun s => retireWith s fun c => { c with matrix := c.matrix.push (c.packet (c.rs a) s.now) }

/-- enq.c (R293). -/
def execEnqC (a : BitVec 5) (s : State) : Out :=
  withGate (.enqC a) s fun s => retireWith s fun c => { c with copy := c.copy.push (c.packet (c.rs a) s.now) }

/-- enq.l (R293). -/
def execEnqL (a : BitVec 5) (s : State) : Out :=
  withGate (.enqL a) s fun s => retireWith s fun c => { c with lantern := c.lantern.push (c.packet (c.rs a) s.now) }

/-- fmtq (R293). -/
def execFmtq (a : BitVec 5) (s : State) : Out :=
  withGate (.fmtq a) s fun s => retireWith s fun c => { c with fq := c.fq ++ [c.rs a] }

end Sys2Proof.Machine
end

