-- ==== Sys2Proof/Machine/EngineOps.lean ====
section
/-! DEFINITION. What the three engines share: parameter stack, faults, tags, launches and their start
(09 R202-R207, 13 R292-R301, 03 R58). -/

namespace Sys2Proof.Machine

def Core.eng (c : Core) : EngineId → Engine
  | .matrix => c.matrix
  | .copy => c.copy
  | .lantern => c.lantern

def Core.modEng (c : Core) (e : EngineId) (f : Engine → Engine) : Core :=
  match e with
  | .matrix => { c with matrix := f c.matrix }
  | .copy => { c with copy := f c.copy }
  | .lantern => { c with lantern := f c.lantern }

/-- The number of an engine (R299). -/
def engNum : EngineId → Nat
  | .matrix => 0
  | .copy => 1
  | .lantern => 2

/-- A tag is set, and TAGREV with it for a completion that is revoked, unstarted or failed (R255). -/
def Core.setTag (c : Core) (e : EngineId) (tag : Nat) (rev : Bool) : Core :=
  let bit : Word := 1#64 <<< (tag % 64)
  { c with
    tags := c.tags ||| bit
    tagrev := if rev then c.tagrev ||| bit else c.tagrev
    doneNow := c.doneNow ++ [(tag % 64, engNum e + (if rev then 4 else 0))] }

/-- CYC[31:0] of a pending stamp, or 0 (R299). -/
def stampOf (c : Option Cond) : BitVec 32 :=
  match c with
  | some (.stamp x) => x.setWidth 32
  | _ => 0

/-- An engine faults: it halts with its report, which names the engine `who`, its stack and condition emptied (R205, R298,
R300). One that has halted raises no other fault (R301). -/
def Core.engFaultAs (c : Core) (e who : EngineId) (sched : Bool) (sub : Nat) (widx : BitVec 24) (stamp : BitVec 32) (now : Nat) :
    Core :=
  if (c.eng e).report.isSome then c
  else (c.modEng e fun g =>
    { g with stack := [], cond := none, held := none, report := some ⟨now, sched, who, BitVec.ofNat 6 sub, widx, stamp⟩ }).note 0x0D

/-- An engine faults in its own name (R299). -/
def Core.engFault (c : Core) (e : EngineId) (sched : Bool) (sub : Nat) (widx : BitVec 24) (stamp : BitVec 32) (now : Nat) :
    Core := c.engFaultAs e e sched sub widx stamp now

/-- FMTSTAT bits a matrix command sets; they win against a clear of this cycle (R181). -/
def Core.engFmt (c : Core) (bits : BitVec 5) : Core :=
  { c.fmtSet bits with fmtNow := c.fmtNow ||| bits }

/-- The bookkeeping of a null engine access; the STATUS bit wins against a clear of this cycle (R52, R58, R233). -/
def Core.engNull (c : Core) (k : Check) : Core :=
  let c1 := c.nullBook k
  match k with
  | .stale => { c1 with statusNow := c1.statusNow ||| 2 }
  | .oob | .invalid => { c1 with statusNow := c1.statusNow ||| 1 }
  | .ok | .miss => c1

/-! ## Taking a word -/

/-- The engine with its next word taken: one word a cycle, numbered (R204, R207, R294). -/
def Engine.take (g : Engine) (now : Nat) : Engine :=
  { g with hand := g.hand.tail, widx := g.widx + 1, dequeued := now + 1 }

/-- The captured value of the word in hand (R204). -/
def Engine.captured (g : Engine) : Option Entry := g.hand.head?.bind fun i => i.cap

/-- A parameter word: its effect on the engine, or a fault by subcode (R298). -/
def paramWord (s : State) (f : Core → Engine → Except Nat Engine) : Out :=
  let e := s.turnEng
  let g := s.core.eng e
  match f s.core g with
  | .ok g' => .next (s.mod fun c => c.modEng e fun _ => g'.take s.now)
  | .error sub => .next (s.mod fun c =>
      (c.modEng e fun g => g.take s.now).engFault e false sub g.widx (stampOf g.cond) s.now)

/-- Push an entry; the ninth is refused (R205). -/
def Engine.pushEntry (g : Engine) (x : Entry) : Except Nat Engine :=
  if g.stack.length < 8 then .ok { g with stack := x :: g.stack } else .error 2

/-- Pop an integer: UNDER when absent, KIND when a token reference (R205, R298). -/
def popInt (st : List Entry) : Except Nat (BitVec 64 × List Entry) :=
  match st with
  | [] => .error 3
  | .int x :: r => .ok (x, r)
  | .tok _ :: _ => .error 4

/-- Pop a place: one integer, or a token reference with its offset beneath (R295). -/
def popPlace (st : List Entry) : Except Nat (Place × List Entry) :=
  match st with
  | [] => .error 3
  | .int x :: r => .ok (.loc x.toNat, r)
  | .tok t :: r =>
    match popInt r with
    | .ok (o, r') => .ok (.tok t o.toNat, r')
    | .error n => .error n

/-- Pop a number. -/
def popNat (st : List Entry) : Except Nat (Nat × List Entry) :=
  match popInt st with
  | .ok (x, r) => .ok (x.toNat, r)
  | .error n => .error n

/-! ## Launch words (R298, R58) -/

/-- A launch with its arguments popped: tag, the rest of the stack, what it does, the subcodes of the format,
argument, place and descriptor checks it fails, the token ranges it names with the right each needs. -/
structure Prepared where
  tag : Nat
  rest : List Entry
  kind : LaunchKind
  bad : List Nat
  tokens : List (Token × Nat × Nat × BitVec 2)
  deriving DecidableEq, Repr

/-- The lowest subcode found: the checks are made in the order of their numbers (R298). -/
def firstBad (xs : List Nat) : Option Nat := xs.foldl (fun m x => match m with
  | none => some x
  | some y => some (min x y)) none

/-- Whether a stamp's reserved bit is set (R296). -/
def stampBad (c : Option Cond) : Bool :=
  match c with
  | some (.stamp x) => x.getLsbD 62
  | _ => false

/-- CALENDAR[55:0] has reached a stamp's CYC (R297). -/
def Core.stampPast (c : Core) (x : BitVec 64) : Bool :=
  decide ((x.setWidth 56).toNat ≤ (c.calendar.setWidth 56).toNat)

/-- The results of Token.Check for the tokens of a launch. -/
def State.launchChecks (s : State) (p : Prepared) : List Check :=
  p.tokens.map fun x => s.checkRights x.1 x.2.1 x.2.2.1 x.2.2.2

/-- The token and offset of a launch that misses the token frame cache. -/
def State.launchMiss (s : State) (p : Prepared) : Option (Token × Nat) :=
  (p.tokens.find? fun x => s.checkRights x.1 x.2.1 x.2.2.1 x.2.2.2 = .miss).map fun x =>
    (x.1, (s.core.missAt x.1 x.2.1 x.2.2.1).getD x.2.1)

/-- A fill of the token frame cache for an engine, which waits with its word in hand (R39). -/
def State.engineMiss (s : State) (t : Token) (off : Nat) : State :=
  match s.core.tfcReq with
  | some _ => s
  | none =>
    { s with
      core := { s.core with tfcReq := some (t.index.toNat, t.frameOf off, s.dueCycle), events := 0x0B :: s.core.events }
      fv := s.fv + 1 }

/-- The launch after its word is taken: stack cut, condition consumed, and the format word popped for the matrix engine. -/
def Core.takenLaunch (c : Core) (e : EngineId) (rest : List Entry) (now : Nat) : Core :=
  let c1 := c.modEng e fun g => { g.take now with stack := rest, cond := none }
  if e = .matrix then { c1 with fq := c1.fq.tail } else c1

/-- A group set up for the running task (R376). -/
def State.group? (s : State) (g : Nat) : Option Group := (s.task? s.core.task).bind fun t => t.groups.find? fun x => x.num = g

/-- States of a hop of a group's tree (R375). -/
inductive HopState where
  | unattested | attested | keyed
  deriving DecidableEq, Repr

/-- The state F5 keeps for a hop: of the switch that would compute its nodes, for the partition's job. -/
def State.hop (s : State) (part switch : Nat) : HopState :=
  match s.switches.find? fun x => x.num = switch with
  | some x => if x.keys.contains part then .keyed else if x.attestedAt.isSome then .attested else .unattested
  | none => .unattested

/-- Every hop of a group is KEYED: a collective dequeued now runs in the network (R375). A tree that no switch hosts runs at the
endpoints. -/
def State.inNetwork (s : State) (k : LaunchKind) : Bool :=
  match k with
  | .coll _ _ _ g _ _ _ => (s.group? g).any fun x => !x.hosts.isEmpty && x.hosts.all fun h => s.hop s.core.partId h.2 == .keyed
  | _ => false

/-- What the word in hand comes after (R97). -/
def Engine.release (g : Engine) : Release := (g.hand.head?.map EItem.rel).getD ⟨0, 0, [], []⟩

/-- A launch word of another engine's: reserved, and a Lantern word is reported as the Lantern's (R204, R298, R334). -/
def wrongQueue (own : EngineId) (s : State) : Out :=
  let e := s.turnEng
  let g := s.core.eng e
  .next (s.mod fun c => (c.modEng e fun g => g.take s.now).engFaultAs e (if own = .lantern then .lantern else e) false 1 g.widx
    (stampOf g.cond) s.now)

/-- A launch word of engine `own` (R298): a word of another engine is reserved; else arguments popped, checks in order,
tokens checked, then held at the head of its engine. `unset` says that it is a collective of a group that is not set up
(R320). -/
def launchWord (own : EngineId) (s : State) (parse : Core → List Entry → Except Nat Prepared) (unset : Prepared → Bool) : Out :=
  if s.turnEng ≠ own then wrongQueue own s
  else
  let e := s.turnEng
  let g := s.core.eng e
  match parse s.core g.stack with
  | .error sub => .next (s.mod fun c => (c.modEng e fun g => g.take s.now).engFault e false sub g.widx (stampOf g.cond) s.now)
  | .ok p =>
    let bad := p.bad ++ (if p.tag < 64 then [] else [8]) ++ (if stampBad g.cond then [8] else [])
    match firstBad bad with
    | some sub => .next (s.mod fun c =>
        let c1 := (c.takenLaunch e p.rest s.now).engFault e false sub g.widx (stampOf g.cond) s.now
        if p.tag < 64 then c1.setTag e p.tag true else c1)
    | none =>
      match s.launchMiss p with
      | some (t, off) => .next (State.mod (s.engineMiss t off) fun c => c.modEng e fun g => { g with dequeued := s.now + 1 })
      | none =>
        let rs := s.launchChecks p
        let stop := if rs.contains .stale then some Check.stale
          else if rs.all fun r => r = .ok then none else some Check.oob
        match stop with
        | some k => .next (s.mod fun c => ((c.takenLaunch e p.rest s.now).engNull k).setTag e p.tag true)
        | none =>
          if unset p then .next (s.mod fun c => (c.takenLaunch e p.rest s.now).setTag e p.tag true)
          else
            let late := match g.cond with
              | some (.stamp x) => s.core.stampPast x
              | _ => false
            if late then .next (s.mod fun c =>
              ((c.takenLaunch e p.rest s.now).engFault e true 1 g.widx (stampOf g.cond) s.now).setTag e p.tag true)
            else .next (s.mod fun c =>
              (c.takenLaunch e p.rest s.now).modEng e fun h => { h with held := some ⟨p.kind, p.tag, g.cond, g.widx, s.now, g.release, s.inNetwork p.kind⟩ })

end Sys2Proof.Machine
end

