-- ==== Sys2Proof/Machine/EngineWords.lean ====
section
/-! DEFINITION. The engine words: parameter words, and the launch words of the three engines with their arguments
and checks (09 R202-R206, 13 R295-R318, 14 R327, R334). What a started command does stands in Matrix, Copy,
Collective and Lantern. -/

namespace Sys2Proof.Machine

/-! ## Parameter words (R202, R203) -/

/-- nop (R203). -/
def execNop (s : State) : Out := paramWord s fun _ g => .ok g

/-- sval (R203, R204): the value captured at the `enq.*`. -/
def execSval (n : BitVec 5) (s : State) : Out :=
  paramWord s fun c g => g.pushEntry (g.captured.getD (.int (c.rs n)))

/-- ktok (R203, R204). -/
def execKtok (n : BitVec 4) (s : State) : Out :=
  paramWord s fun c g => g.pushEntry (g.captured.getD (.tok (c.rk n)))

/-- A start condition: the integer is popped; a second one pending is a fault (R206). -/
def condWord (mk : BitVec 64 → Cond) (s : State) : Out :=
  paramWord s fun _ g =>
    match popInt g.stack with
    | .error n => .error n
    | .ok (x, r) => if g.cond.isSome then .error 5 else .ok { g with stack := r, cond := some (mk x) }

/-- at (R206, R296). -/
def execAtStamp (s : State) : Out := condWord .stamp s

/-- gate (R206). -/
def execGate (s : State) : Out := condWord .gate s

/-- dup (R203). -/
def execDup (s : State) : Out :=
  paramWord s fun _ g =>
    match g.stack with
    | [] => .error 3
    | x :: _ => g.pushEntry x

/-- drop (R203). -/
def execDrop (s : State) : Out :=
  paramWord s fun _ g =>
    match g.stack with
    | [] => .error 3
    | _ :: r => .ok { g with stack := r }

/-- swap (R203). -/
def execSwap (s : State) : Out :=
  paramWord s fun _ g =>
    match g.stack with
    | x :: y :: r => .ok { g with stack := y :: x :: r }
    | _ => .error 3

/-- lit (R202). -/
def execLit (n : BitVec 14) (s : State) : Out := paramWord s fun _ g => g.pushEntry (.int (n.setWidth 64))

/-- litx (R202). -/
def execLitx (n : BitVec 14) (s : State) : Out :=
  paramWord s fun _ g =>
    match popInt g.stack with
    | .error e => .error e
    | .ok (v, r) => .ok { g with stack := .int (v * 16384 + n.setWidth 64) :: r }

/-- The words of the Lantern's opcodes, reserved ones among them (R327). -/
def lanternWord (w : BitVec 16) : Bool := decide (0xE000 ≤ w.toNat) && decide (w.toNat < 0xE600)

/-- A reserved word (R204, R298), one of the Lantern's reported as the Lantern's (R327, R334). -/
def execReservedEngineWord (w : BitVec 16) (s : State) : Out := wrongQueue (if lanternWord w then .lantern else s.turnEng) s

/-! ## Place rules -/

/-- The bytes [a, a + n) lie in the own scratchpad. -/
def inScratch (a n : Nat) : Bool := decide (a + n ≤ 0x300000)

/-- The bytes [a, a + n) lie in the weight buffer. -/
def inWeight (a n : Nat) : Bool := decide (0x30000000 ≤ a) && decide (a + n ≤ 0x30200000)

/-- Bytes of n elements and of their scales (R163, R169). -/
def rowBytes (f n : Nat) : Nat := (n * fmtWidth f + 7) / 8

/-- The ranges of one operand: `rows` rows of K elements from a base with a stride, and their scale bytes (R305). -/
def operandRanges (base ld sof f k rows : Nat) (scaled : Bool) : List (Nat × Nat) :=
  (List.range rows).flatMap fun i =>
    (base + 16 * ld * i, rowBytes f k) ::
      (if scaled then [(base + 16 * ld * i + sof, (k + 31) / 32)] else [])

/-- The lines of the 16 columns of a sparse-capable B, each taken to hold a dense line's elements (R304). -/
def lineRanges (b ld f k : Nat) : List (Nat × Nat) :=
  let lines := (k + 512 / fmtWidth f - 1) / (512 / fmtWidth f)
  (List.range 16).map fun j => (b + 16 * ld * j, 128 * lines)

/-- Everything a matrix launch reads (R304, R305). -/
def mmaReads (sparse : Bool) (k a b : Nat) (w : BitVec 64) : List (Nat × Nat) × List (Nat × Nat) :=
  (operandRanges a (fwLDA w) (fwSOFA w) (fwFA w) k 8 (fmtScaled (fwFA w) (fwSCA w)),
    if sparse then lineRanges b (fwLDB w) (fwFB w) k
    else operandRanges b (fwLDB w) (fwSOFB w) (fwFB w) k 16 (fmtScaled (fwFB w) (fwSCB w)))

/-- An operand format of the matrix engine (R302). -/
def matrixFmt (f : Nat) : Bool := f == 1 || (3 ≤ f && f ≤ 9)

/-- The format word of `mma` and `mma.sp` is valid (R302). -/
def mmaFmtOk (sparse : Bool) (w : BitVec 64) : Bool :=
  matrixFmt (fwFA w) && matrixFmt (fwFB w)
    && (!fwSCA w || fwFA w == 6 || fwFA w == 7) && (!fwSCB w || fwFB w == 6 || fwFB w == 7)
    && w.extractLsb' 12 4 == 0 && (!sparse || fwSOFB w == 0)

/-- The format word of `mwb` is valid (R302). -/
def mwbFmtOk (w : BitVec 64) : Bool :=
  (fwFA w == 0 || fwFA w == 1 || fwFA w == 6) && w.extractLsb' 4 12 == 0 && w.extractLsb' 28 36 == 0

/-- Bytes of an `mwb` output row (R307). -/
def mwbRow (w : BitVec 64) : Nat := if fwFA w = 0 then 64 else if fwFA w = 1 then 32 else 16

/-- A subcode when a check fails. -/
def failIf (b : Bool) (sub : Nat) : List Nat := if b then [sub] else []

/-- Reading and writing rights (R36). -/
def needRead : BitVec 2 := 1
def needWrite : BitVec 2 := 2

/-! ## Matrix launches (R302-R307) -/

/-- Arguments and checks of `mma` and `mma.sp`. -/
def mmaParse (z sparse : Bool) (c : Core) (st : List Entry) : Except Nat Prepared := do
  let (tag, st) ← popNat st
  let (tile, st) ← popNat st
  let (k, st) ← popNat st
  let (b, st) ← popNat st
  let (a, st) ← popNat st
  let w := c.fq.headD 0
  let rd := mmaReads sparse k a b w
  return ⟨tag, st, .mma z sparse tile k a b w (fwCT w),
    failIf c.fq.isEmpty 6 ++ failIf (!c.fq.isEmpty && !mmaFmtOk sparse w) 7
      ++ failIf (k == 0 || decide (16384 < k) || decide (7 < tile)) 8
      ++ failIf (!(rd.1.all fun r => inScratch r.1 r.2)
          || (if sparse then b % 128 != 0 || fwLDB w % 8 != 0 || !(rd.2.all fun r => inWeight r.1 r.2)
              else !(rd.2.all fun r => inScratch r.1 r.2))) 9, []⟩

/-- Arguments and checks of `mwb`. -/
def mwbParse (clr : Bool) (c : Core) (st : List Entry) : Except Nat Prepared := do
  let (tag, st) ← popNat st
  let (tile, st) ← popNat st
  let (d, st) ← popNat st
  let w := c.fq.headD 0
  return ⟨tag, st, .mwb clr tile d w,
    failIf c.fq.isEmpty 6 ++ failIf (!c.fq.isEmpty && !mwbFmtOk w) 7 ++ failIf (decide (7 < tile)) 8
      ++ failIf (d % 64 != 0 || fwLDA w % 4 != 0 || !inScratch (d + 16 * fwLDA w * 7) (mwbRow w)) 9, []⟩

/-- mma (R306). -/
def execMma (z : BitVec 1) (s : State) : Out := launchWord .matrix s (mmaParse (z == 1) false) fun _ => false

/-- mma.sp (R306, R309). -/
def execMmaSp (z : BitVec 1) (s : State) : Out := launchWord .matrix s (mmaParse (z == 1) true) fun _ => false

/-- mwb (R307). -/
def execMwb (clr : BitVec 1) (s : State) : Out := launchWord .matrix s (mwbParse (clr == 1)) fun _ => false

/-! ## Copy launches (R312-R316) -/

/-- A range of a local engine place lies in one region that allows it (R21, R312); the weight buffer does not. -/
def Core.enginePlace (c : Core) (lo hi : Int) : Bool :=
  if lo < 0 then false
  else match localCheck c.poolMb lo.toNat (max (hi - lo).toNat 1) true with
    | none => false
    | some .weight => false
    | some _ => true

/-- Whether a place passes the place rules over offsets [lo, hi) from it. -/
def Core.placeOk (c : Core) (p : Place) (lo hi : Int) : Bool :=
  match p with
  | .loc a => c.enginePlace (a + lo) (a + hi)
  | .tok .. => true

/-- What Token.Check is asked for a place over offsets [lo, hi): a range below zero is out of extent (R313). -/
def placeTokens (p : Place) (lo hi : Int) (need : BitVec 2) : List (Token × Nat × Nat × BitVec 2) :=
  match p with
  | .loc _ => []
  | .tok t off =>
    if (off : Int) + lo < 0 then [(t, 2 ^ 80, 0, need)]
    else [(t, ((off : Int) + lo).toNat, (hi - lo).toNat, need)]

/-- The bounding range of a copy's side as offsets from its place (R58, R313). -/
def boundsOf (size : Nat) (dims : List (Nat × Int)) : Int × Int :=
  dims.foldl (fun r d =>
    let e := ((d.1 : Int) - 1) * d.2
    (r.1 + min 0 e, r.2 + max 0 e)) (0, (size : Int))

/-- Bounding ranges of source and destination. -/
def srcBounds (size : Nat) (dims : List Dim) : Int × Int := boundsOf size (dims.map fun d => (d.count, d.sstride))
def dstBounds (size : Nat) (dims : List Dim) : Int × Int := boundsOf size (dims.map fun d => (d.count, d.dstride))

/-- A copy with its places checked. -/
def copyPrepared (c : Core) (tag : Nat) (st : List Entry) (size : Nat) (dims : List Dim) (src dst : Place)
    (bad : List Nat) : Prepared :=
  let a := srcBounds size dims
  let b := dstBounds size dims
  ⟨tag, st, .copy size dims src dst,
    bad ++ failIf (!c.placeOk src a.1 a.2 || !c.placeOk dst b.1 b.2) 9,
    placeTokens src a.1 a.2 needRead ++ placeTokens dst b.1 b.2 needWrite⟩

/-- Arguments and checks of `copy.1d`. -/
def copy1dParse (c : Core) (st : List Entry) : Except Nat Prepared := do
  let (tag, st) ← popNat st
  let (len, st) ← popNat st
  let (dst, st) ← popPlace st
  let (src, st) ← popPlace st
  return copyPrepared c tag st len [] src dst (failIf (decide (2 ^ 32 ≤ len)) 8)

/-- The dimensions of a descriptor, if they are in range (R313). -/
def descDims (bs : List Byte) : Nat → Option (List Dim)
  | 0 => some []
  | n + 1 =>
    let f (i : Nat) : Nat := bytesToNat ((bs.drop i).take 4)
    match descDims (bs.drop 16) n with
    | none => none
    | some ds =>
      if f 0 = 0 ∨ 2 ^ 24 < f 0 ∨ f 4 ≠ 0 then none
      else some (⟨f 0, signed 32 (f 8), signed 32 (f 12)⟩ :: ds)

/-- A descriptor of N dimensions: element size and dimensions (R313). -/
def descOf (bs : List Byte) (n : Nat) : Option (Nat × List Dim) :=
  let e := bytesToNat (bs.take 1)
  if 6 < e ∨ bytesToNat ((bs.drop 1).take 1) ≠ n ∨ bytesToNat ((bs.drop 2).take 14) ≠ 0 then none
  else (descDims (bs.drop 16) n).map fun ds => (2 ^ e, ds)

/-- Words that an engine's issued write will change, as its pending bits show (R72). -/
def Core.engineWrites (c : Core) : List Host.Cell :=
  (c.matrix.running ++ c.copy.running ++ c.lantern.running).flatMap fun m =>
    if c.locks.any fun l => l.cmd = m.id then m.buf else []

/-- An engine's operand read of [a, a + n) meets a pending word (R72). -/
def Core.operandPending (c : Core) (a n : Nat) : Bool :=
  (firstPending c.timed false a n).isSome
    || c.engineWrites.any fun w => decide (a / 4 ≤ w.1 / 4) && decide (w.1 / 4 * 4 < a + n)

/-- Arguments and checks of `copy.Nd`: the descriptor is read on the dequeue cycle (R313). -/
def copyNdParse (n now : Nat) (c : Core) (st : List Entry) : Except Nat Prepared := do
  let (tag, st) ← popNat st
  let (d, st) ← popNat st
  let (dst, st) ← popPlace st
  let (src, st) ← popPlace st
  let bytes := 16 + 16 * n
  let nothing : LaunchKind := .copy 0 [] src dst
  if !inScratch d bytes then return ⟨tag, st, nothing, [9], []⟩
  else if c.pendEng ∧ c.operandPending d bytes then return ⟨tag, st, nothing, [12], []⟩
  else match descOf (c.scrRead now d bytes) n with
    | none => return ⟨tag, st, nothing, [10], []⟩
    | some (size, dims) => return copyPrepared c tag st size dims src dst []

/-- Arguments and checks of `gather` and `scatter` (R315). The indexed place must stand in a region; its elements
are checked as they are used. -/
def indexedParse (scatter : Bool) (e : Nat) (c : Core) (st : List Entry) : Except Nat Prepared := do
  let (tag, st) ← popNat st
  let (idx, st) ← popNat st
  let (count, st) ← popNat st
  let (dst, st) ← popPlace st
  let (src, st) ← popPlace st
  let free : Int := ((count * 2 ^ e : Nat) : Int)
  let a := if scatter then free else 0
  let b := if scatter then 0 else free
  return ⟨tag, st, if scatter then .scatter e idx count src dst else .gather e idx count src dst,
    failIf (count == 0 || decide (2 ^ 24 < count)) 8
      ++ failIf (!inScratch idx (4 * count) || !c.placeOk src 0 a || !c.placeOk dst 0 b) 9,
    (if scatter then placeTokens src 0 a needRead else (placeTokens src 0 0 needRead).map fun x => (x.1, 0, 0, x.2.2.2))
      ++ (if scatter then (placeTokens dst 0 0 needWrite).map fun x => (x.1, 0, 0, x.2.2.2)
          else placeTokens dst 0 b needWrite)⟩

/-- Arguments and checks of `wbfill` (R312, R316). -/
def wbfillParse (c : Core) (st : List Entry) : Except Nat Prepared := do
  let (tag, st) ← popNat st
  let (count, st) ← popNat st
  let (dst, st) ← popNat st
  let (src, st) ← popPlace st
  let n : Int := ((count * 128 : Nat) : Int)
  return ⟨tag, st, .wbfill count src dst,
    failIf (count == 0 || decide (16384 < count)) 8
      ++ failIf (dst % 128 != 0 || !inWeight dst (count * 128) || !c.placeOk src 0 n) 9,
    placeTokens src 0 n needRead⟩

/-- copy.1d (R312). -/
def execCopy1d (s : State) : Out := launchWord .copy s copy1dParse fun _ => false

/-- copy.Nd, N = n + 1 (R313). -/
def execCopyNd (n : BitVec 3) (s : State) : Out := launchWord .copy s (copyNdParse (n.toNat + 1) s.now) fun _ => false

/-- gather (R315). -/
def execGather (e : BitVec 3) (s : State) : Out := launchWord .copy s (indexedParse false e.toNat) fun _ => false

/-- scatter (R315). -/
def execScatter (e : BitVec 3) (s : State) : Out := launchWord .copy s (indexedParse true e.toNat) fun _ => false

/-- wbfill (R316). -/
def execWbfill (s : State) : Out := launchWord .copy s wbfillParse fun _ => false

/-! ## Collective launches (R318) -/

/-- Element size of a collective's data type (R318). -/
def collSize (dt : Nat) : Nat := if dt = 1 then 2 else 4

/-- The members of a group set up for the running task (R376). -/
def State.groupOf (s : State) (g : Nat) : Option (List (Nat × Nat)) := (s.group? g).map Group.members

/-- Bytes a collective's launch reads and writes, for G members (R318). -/
def collBytes (kind : CollKind) (dt count g : Nat) : Nat × Nat :=
  let n := count * collSize dt
  match kind with
  | .ar => (n, n)
  | .rs => (g * n, n)
  | .ag => (n, g * n)

/-- Arguments and checks of a collective. A group that is not set up gives no size: its places and its tokens are checked over the
bytes of one member (R24, R58, R318, R320; DESIGN CHOICE, log entry 50). -/
def collParse (s : State) (kind : CollKind) (op dt : Nat) (c : Core) (st : List Entry) : Except Nat Prepared := do
  let (tag, st) ← popNat st
  let (group, st) ← popNat st
  let (count, st) ← popNat st
  let (dst, st) ← popPlace st
  let (src, st) ← popPlace st
  let arg := failIf (decide (255 < group) || count == 0 || decide (2 ^ 24 < count)) 8
  let k : LaunchKind := .coll kind op dt group count src dst
  let n := collBytes kind dt count (((s.groupOf group).map List.length).getD 1)
  return ⟨tag, st, k, arg ++ failIf (!c.placeOk src 0 n.1 || !c.placeOk dst 0 n.2) 9,
    placeTokens src 0 n.1 needRead ++ placeTokens dst 0 n.2 needWrite⟩

/-- Whether the group of a collective is not set up for the task (R320). -/
def State.groupUnset (s : State) (p : Prepared) : Bool :=
  match p.kind with
  | .coll _ _ _ g _ _ _ => (s.groupOf g).isNone
  | _ => false

/-- A core's launches of the collectives of its task, in its own order (R320). -/
def State.noteCollOf (s : State) (c : Core) (kind : LaunchKind) (started : Bool) (cmd : Nat) : State :=
  match kind with
  | .coll _ _ _ g _ _ _ => s.modTask c.task fun t =>
      let seq := (t.colls.filter fun r => r.group = g && r.core = c.phys).length
      { t with colls := t.colls ++ [⟨g, seq, c.phys, started, cmd, []⟩] }
  | _ => s

/-- The running core's launch of a collective of its task. -/
def State.noteColl (s : State) (kind : LaunchKind) (started : Bool) (cmd : Nat) : State := s.noteCollOf s.core kind started cmd

/-- The group that a collective's word names, where its arguments reach so far: they may be short or of the wrong kind behind it. -/
def collGroup (st : List Entry) : Option Nat :=
  match popNat st with
  | .ok (_, r) => match popNat r with
    | .ok (g, _) => some g
    | .error _ => none
  | .error _ => none

/-- A collective that is taken and not held has not started: it counts as this member's launch, of a fault in its arguments as well
if they name the group (R320). -/
def collWord (kind : CollKind) (op dt : Nat) (s : State) : Out :=
  match launchWord .copy s (collParse s kind op dt) s.groupUnset with
  | .next s' =>
    match collGroup s.core.copy.stack with
    | none => .next s'
    | some g => if s'.core.copy.widx = s.core.copy.widx ∨ s'.core.copy.held.isSome then .next s'
                else .next (s'.noteColl (.coll kind op dt g 0 (.loc 0) (.loc 0)) false 0)
  | o => o

/-- The operation and data type numbers of a collective's modifier (R318). -/
def execCollAr (t o : BitVec 2) (s : State) : Out := collWord .ar o.toNat t.toNat s

/-- coll.rs (R318). -/
def execCollRs (t o : BitVec 2) (s : State) : Out := collWord .rs o.toNat t.toNat s

/-- coll.ag (R318). -/
def execCollAg (t : BitVec 2) (s : State) : Out := collWord .ag 0 t.toNat s

/-! ## Lantern launches (R327, R334) -/

/-- A launch that has only a tag and checks. -/
def lanternPrepared (tag : Nat) (st : List Entry) (k : LaunchKind) (arg place : Bool) : Prepared :=
  ⟨tag, st, k, failIf arg 8 ++ failIf place 9, []⟩

/-- lrst (R328). -/
def execLrst (s : State) : Out :=
  launchWord .lantern s (fun _ st => do
    let (tag, st) ← popNat st
    return lanternPrepared tag st .lrst false false) fun _ => false

/-- ldly (R329). -/
def execLdly (s : State) : Out :=
  launchWord .lantern s (fun _ st => do
    let (tag, st) ← popNat st
    let (n, st) ← popNat st
    let (i0, st) ← popNat st
    let (src, st) ← popNat st
    return lanternPrepared tag st (.ldly n i0 src) (n == 0 || decide (128 < n) || decide (127 < i0) || decide (128 < i0 + n))
      (src % 64 != 0 || !inScratch src (128 * n))) fun _ => false

/-- lwin (R328). -/
def execLwin (s : State) : Out :=
  launchWord .lantern s (fun _ st => do
    let (tag, st) ← popNat st
    let (w, st) ← popNat st
    return lanternPrepared tag st (.lwin w) (w == 0 || decide (1024 < w)) false) fun _ => false

/-- A Lantern launch (R326). -/
def llaunchParse (mx : Bool) (_ : Core) (st : List Entry) : Except Nat Prepared := do
  let (tag, st) ← popNat st
  let (row, st) ← popNat st
  return lanternPrepared tag st (.llaunch mx row) false (row % 64 != 0 || !inScratch row 256)

/-- llaunch.min (R326). -/
def execLlaunchMin (s : State) : Out := launchWord .lantern s (llaunchParse false) fun _ => false

/-- llaunch.max (R326). -/
def execLlaunchMax (s : State) : Out := launchWord .lantern s (llaunchParse true) fun _ => false

/-- lcap.v (R331). -/
def execLcapV (s : State) : Out :=
  launchWord .lantern s (fun _ st => do
    let (tag, st) ← popNat st
    let (d, st) ← popNat st
    return lanternPrepared tag st (.lcapV d) false (d % 64 != 0 || !inScratch d 256)) fun _ => false

/-- lcap.o, its number k + 1 (R331). -/
def execLcapO (k : BitVec 7) (s : State) : Out :=
  launchWord .lantern s (fun _ st => do
    let (tag, st) ← popNat st
    let (d, st) ← popNat st
    return lanternPrepared tag st (.lcapO (k.toNat + 1) d) false (d % 2 != 0 || !inScratch d (2 * (k.toNat + 1)))) fun _ => false

end Sys2Proof.Machine
end

