-- ==== Sys2Proof/Machine/Perform.lean ====
section
/-! DEFINITION. Performing accesses: package memory by die, export and the package coherence order, the local
memories others reach, and when an access may be performed (05 R89-R104, 04 R70-R80, 06 R114-R116). -/

namespace Sys2Proof.Machine

/-! ## Home slices (R33, R78, R79) -/

/-- The home slice of a line among the 32 of each die. -/
def homeSlice (a : Nat) : Nat := Config.sliceHash (a / 128) % 32

/-- The memory-side cache slice that owns a line: one of the four of the stack its frame lies in, 16 groups to a stack. -/
def mscSlice (a : Nat) : Nat := channelGroup (a / 65536) / 16 * 4 + Config.sliceHash (a / 128) % 4

/-! ## Package memory (R101-R103) -/

/-- Order of two places in the package coherence order (R103). -/
def Mark.before (x y : Mark) : Bool := decide (x.stamp < y.stamp) || (x.stamp == y.stamp && decide (x.seq < y.seq))

/-- A byte's place in an order that lists places: the value there before any store stands first. -/
def markOf (m : SMap Mark) (a : Nat) : Option Mark := mapGet m a

/-- Whether a place comes after what stands in a view; one that stands there already may be put again, with its number. -/
def newer (m : SMap Mark) (a : Nat) (k : Mark) : Bool :=
  match markOf m a with
  | none => true
  | some x => x.before k || (x.stamp == k.stamp && x.seq == k.seq)

/-- A byte put into a view under its place: a later store stands (R103). -/
def putMarked (view : Memory × SMap Mark) (c : Nat × Byte × Mark) : Memory × SMap Mark :=
  if newer view.2 c.1 c.2.2 then (memSet view.1 c.1 c.2.1, mapSet view.2 c.1 c.2.2) else view

/-- Bytes put into a die's view. -/
def Die.put (d : Die) (cells : List (Nat × Byte × Mark)) : Die :=
  let v := cells.foldl putMarked (d.view, d.marks)
  { d with view := v.1, marks := v.2 }

/-- Change a die. -/
def State.modDie (s : State) (d : Nat) (f : Die → Die) : State :=
  match d with
  | 0 => { s with dies := s.dies.set 0 (f s.dies[0]) }
  | 1 => { s with dies := s.dies.set 1 (f s.dies[1]) }
  | 2 => { s with dies := s.dies.set 2 (f s.dies[2]) }
  | _ => { s with dies := s.dies.set 3 (f s.dies[3]) }

/-- A die by number. -/
def State.die (s : State) (d : Nat) : Die := s.dies.toArray.getD d s.dies[3]

/-- A store with its places is performed in die d: numbered, clocked, in the die's view and on its way to the
other three (R101, R102). -/
def State.performMarked (s : State) (d : Nat) (cells : List (Nat × Byte × Mark)) : State :=
  let num := (s.die d).exported + 1
  let cells := cells.map fun c => (c.1, c.2.1, { c.2.2 with die := d, num := num })
  let clock := (List.range 4).map fun e => if e = d then num else s.countIn d e
  let s1 := s.modDie d fun x => { x.put cells with exported := num }
  let m := cells.foldl putMarked (s1.mem, s1.marks)
  let s2 := (List.range 4).foldl (fun st f =>
    if f = d then st
    else st.modDie f fun x => { x with inbox := x.inbox ++ [⟨d, num, clock, cells, st.now + 1 + Config.untimedDelay (st.fv + f)⟩] }) s1
  { s2 with mem := m.1, marks := m.2, fv := s2.fv + 4 }

/-- The lowest stamp a store performed in die d may take for a byte, then a free distance on (R103). -/
def State.stampFor (s : State) (d a : Nat) : Nat :=
  let seen := match markOf (s.die d).marks a with
    | some k => k.stamp
    | none => 0
  max seen ((mapGet s.floor a).getD 0) + 1 + Config.coherenceSkip s.fv

/-- The key of a node of the counter tree. -/
def nodeKey (x : Nat × Nat) : Nat := x.1 * 2 ^ 48 + x.2

/-- The memory controller of a frame: 16 channel groups to a stack, in order (R33; DESIGN CHOICE, log entry 49). -/
def controllerOf (f : Nat) : Fin 12 := Fin.ofNat 12 (channelGroup f / 16)

/-- The key of a frame in the key store of its controller (R383): the partition's of the mode, a borrower's for what is lent to it
(R387), else the firmware's. -/
def State.frameKey (s : State) (f : Nat) : Nat :=
  let store := s.keyStores[controllerOf f]
  match (s.potOf f).owner with
  | .part n => ((mapGet store.parts n).map fun k => if (s.potOf f).mode = .integrity then k.2 else k.1).getD 0
  | _ => ((s.grants.find? fun g => decide (g.lo ≤ f) && decide (f < g.lo + g.count)).bind Grant.key).getD store.firmware

/-- A line of the integrity mode is written: its write counter rises and it gets a new MAC, and so the nodes of the tree over it up
to the root (R384). The model counts at the write itself, not at a later write-back (DESIGN CHOICE, log entry 51). -/
def State.countLine (s : State) (line : Nat) : State :=
  if s.modeOf (line / 512) ≠ .integrity then s
  else
    let ctr := (mapGet s.writeCtr line).getD 0 + 1
    let tree := (nodesOver line).foldl (fun m x => mapSet m (nodeKey x) ((mapGet m (nodeKey x)).getD 0 + 1)) s.treeCtr
    { s with
      writeCtr := mapSet s.writeCtr line ctr
      lineMac := mapSet s.lineMac line (Config.lineTag (s.frameKey (line / 512)) line ctr.toNat (memReadNat s.mem (line * 128) 128))
      treeCtr := tree
      nodeMac := (nodesOver line).foldl (fun m x => mapSet m (nodeKey x)
        (Config.nodeTag s.keyStores[0].firmware (nodeKey x) ((mapGet tree (nodeKey x)).getD 0).toNat)) s.nodeMac
      treeRoot := s.treeRoot + 1 }

/-- The lines of addresses are written. -/
def State.countLines (s : State) (as : List Nat) : State := ((as.map fun a => a / 128).eraseDups).foldl State.countLine s

/-- A store to main memory performed at its home slice in die d (R101). -/
def State.storeMain (s : State) (d : Nat) (cells : List Host.Cell) : State :=
  let marked := cells.map fun c => (c.1, c.2, (⟨s.stampFor d c.1, s.seq, d, 0⟩ : Mark))
  (State.performMarked { s with fv := s.fv + 1, seq := s.seq + 1 } d marked).countLines (cells.map (·.1))

/-- The number of the store just performed in die d. -/
def State.lastNum (s : State) (d : Nat) : Nat := (s.die d).exported

/-- The place of an atomic at the memory-side cache: after every store so far, and no later store comes before it
(R104, R114). -/
def State.mscCells (s : State) (d : Nat) (cells : List Host.Cell) : List (Nat × Byte × Mark) :=
  cells.map fun c =>
    let top := match markOf s.marks c.1 with
      | some k => k.stamp
      | none => 0
    (c.1, c.2, ⟨max top ((mapGet s.floor c.1).getD 0) + 1, s.seq, d, 0⟩)

/-- An atomic's write at the memory-side cache. -/
def State.mscWrite (s : State) (cells : List (Nat × Byte × Mark)) : State :=
  let m := cells.foldl putMarked (s.mem, s.marks)
  State.countLines { s with
    mem := m.1, marks := m.2, seq := s.seq + 1
    floor := cells.foldl (fun f c => mapSet f c.1 c.2.2.stamp) s.floor } (cells.map (·.1))

/-- The place of a firmware write: after every store so far, so that no export on its way is seen over it. -/
def State.fwCells (s : State) (cells : List Host.Cell) : List (Nat × Byte × Mark) :=
  cells.map fun c =>
    (c.1, c.2, ⟨max ((markOf s.marks c.1).elim 0 Mark.stamp) ((mapGet s.floor c.1).getD 0) + 1, s.seq, 0, 0⟩)

/-- Firmware writes package memory while nothing pins it: every view takes the bytes (R82, R382). -/
def State.fwWrite (s : State) (cells : List Host.Cell) : State :=
  let marked := s.fwCells cells
  let m := marked.foldl putMarked (s.mem, s.marks)
  State.countLines { s with
    mem := m.1, marks := m.2, seq := s.seq + 1
    dies := s.dies.map fun x => x.put marked } (cells.map (·.1))

/-- Applying an exported store in die f (R102, R103). -/
def Die.apply (x : Die) (e : Export) : Die :=
  { x.put e.cells with
    applied := x.applied.set e.src e.num
    inbox := x.inbox.filter fun y => !(y.src == e.src && y.num == e.num) }

/-- The condition of R102 for applying an export in die f, and its cycle has come. -/
def State.canApply (s : State) (f : Nat) (e : Export) : Bool :=
  decide (e.due ≤ s.now) && s.countIn f e.src + 1 == e.num
    && (List.range 4).all fun k => k == e.src || k == f || decide (e.clock.getD k 0 ≤ s.countIn f k)

/-! ## Memory that is not in package main memory -/

/-- Insert an idle core that other cores reach through the CSM window. -/
def State.ensureCore (s : State) (n : Nat) : State :=
  match s.coreAt n with
  | some _ => s
  | none => { s with others := s.others ++ [Core.initial n] }

/-- Write cells of a cluster's CSM at their banks. -/
def State.csmPut (s : State) (cluster : Nat) (cells : List Host.Cell) : State :=
  cells.foldl (fun st c =>
    (st.ensureCore (csmCore cluster c.1)).modAt (csmCore cluster c.1) fun k =>
      (k.scrPut [(csmAddr c.1, c.2)]).takeWrite s.now (csmAddr c.1) 1 false) s

/-- A lender has closed its grant of the frame of an address: 100 ms have passed since it asked for it (R63). -/
def State.lentClosed (s : State) (a : Nat) : Bool :=
  s.borrowed.any fun g => g.pkg == a / 2 ^ 48 && decide (g.lo ≤ a % 2 ^ 48 / 65536) && decide (a % 2 ^ 48 / 65536 < g.lo + g.count)
    && (match g.reclaim with
      | some t => decide (t + Config.reclaimCycles ≤ s.now)
      | none => false)

/-- Rows of the pool are used on a cycle; an atomic holds both ports of its row (R116). -/
def Die.useRows (d : Die) (now : Nat) (rows : List Nat) (atomic : Bool) : Die :=
  { d with rowUse := d.rowUse ++ rows.eraseDups.map fun r => (now, r, atomic) }

/-- The rows of [a, a + n) of a pool are free on this cycle of an atomic, and for an atomic of every other use (R116). -/
def State.poolFree (s : State) (d a n : Nat) (atomic : Bool) : Bool :=
  (s.die d).rowUse.all fun u => !(u.1 == s.now && decide (a / 64 ≤ u.2.1) && decide (u.2.1 * 64 < a + n) && (atomic || u.2.2))

/-- Write cells of a space other than main memory. -/
def State.putSpace (s : State) (sp : Space) (cells : List Host.Cell) : State :=
  match sp with
  | .main => s
  | .lent _ => { s with lentMem := memPut s.lentMem (cells.filter fun c => !s.lentClosed c.1) }
  | .csm k => s.csmPut k cells
  | .pool d => s.modDie d fun x => ({ x with pool := memPut x.pool cells }).useRows s.now (cells.map fun (c : Host.Cell) => c.1 / 64) false
  | .wb => s.mod fun c => { c with wb := memPut c.wb cells }
  | .own => s.mod fun c => c.scrPut cells

/-- A byte of a space as the running core finds it at its home slice, bank, row or lender. -/
def State.spaceByte (s : State) (sp : Space) (a : Nat) : Byte :=
  match sp with
  | .main => memGet (s.die (dieOf s.core.phys)).view a
  | .lent _ => memGet s.lentMem a
  | .csm k => s.csmByte k a
  | .pool d => memGet (s.die d).pool a
  | .wb => memGet s.core.wb a
  | .own => memGet s.core.scr a

/-- n bytes of a space. -/
def State.spaceRead (s : State) (sp : Space) (a : Nat) : Nat → List Byte
  | 0 => []
  | n + 1 => s.spaceByte sp a :: s.spaceRead sp (a + 1) n

/-- What a read of a line of main memory meets (R385). -/
inductive LineState where
  | good | poisoned | badMac
  deriving DecidableEq, Repr

/-- The line's ECC first, then, in the integrity mode, its MAC and the counter tree over it (R384, R385): an uncorrectable node
poisons the lines beneath it, a failed MAC of one fails theirs. -/
def State.lineState (s : State) (line : Nat) : LineState :=
  let guarded := s.modeOf (line / 512) == .integrity
  if s.poisonLines.contains line || (guarded && (nodesOver line).any fun x => s.poisonNodes.contains x) then .poisoned
  else if guarded && (s.macLines.contains line || s.nodeFails line) then .badMac
  else .good

/-- The lines that [a, a + n) touches. -/
def linesOf (a n : Nat) : List Nat := (List.range ((a + n + 127) / 128 - a / 128)).map fun i => a / 128 + i

/-- The first line of [a, a + n) of a space that is in a state. -/
def State.firstLine (s : State) (sp : Space) (a n : Nat) (x : LineState) : Option Nat :=
  match sp with
  | .main => (linesOf a n).find? fun l => s.lineState l == x
  | _ => none

/-- F3 counts the corrected errors of the lines of main memory that a read delivers (R385). -/
def State.countCorrected (s : State) (sp : Space) (a n : Nat) : State :=
  match sp with
  | .main => { s with fw := { s.fw with
      corrected := s.fw.corrected + ((linesOf a n).filter fun l => s.correctedLines.contains l && s.lineState l == .good).length } }
  | _ => s

/-- Whether [a, a + n) of a space touches poison (R80): lines of main memory, rows of a die pool, frames under a grant
that is closed (R368). -/
def State.poisonIn (s : State) (sp : Space) (a n : Nat) : Bool :=
  match sp with
  | .main => (s.firstLine .main a n .poisoned).isSome
  | .pool d => (s.die d).poolPoison.any fun r => decide (r < a + n) && decide (a < r + 64)
  | .lent _ => s.lentClosed a || s.lentClosed (a + n - 1)
  | _ => false

/-- Whether [a, a + n) of main memory touches a line that fails its MAC, or one under a tree node that fails (R385). -/
def State.macBad (s : State) (sp : Space) (a n : Nat) : Bool := (s.firstLine sp a n .badMac).isSome

/-- Whether a write to a row of a cluster's CSM is held at its bank: by a lock (R74) or by a stop (R405). -/
def State.csmLocked (s : State) (cluster a n : Nat) : Bool :=
  match s.coreAt (csmCore cluster a) with
  | some c => c.ctx == .frozen || c.lockedAt (csmAddr a) (csmAddr a + n)
  | none => false

/-- The cores and rows of CSM parts that an access still has to touch; a die's pool stands behind every core. -/
def Access.targets (a : Access) : List (Nat × Nat) :=
  match a.space with
  | .csm k => a.touches.map fun r => (csmCore k r.1, csmAddr r.1 / 64)
  | .pool d => a.touches.map fun r => (256 + d, r.1 / 64)
  | _ => []

/-- An access that arrived at a core's bank before a cycle and has not been served stands before one to a row: it is to the same
row (R74, R115), to the same bank and its row is not locked (R67, R115), or it is a write that came while the core was stopped
(R405). Readers compete with readers and atomics, writers with writers and atomics. -/
def State.heldSince (s : State) (read : Bool) (core row cycle : Nat) : Bool :=
  let stopped := ((s.coreAt core).map Core.frozenAt).getD 0
  let locked (r : Nat) : Bool := (s.coreAt core).any fun c => c.lockedAt (64 * r) (64 * r + 64)
  let before (t : Nat) (rows : List (Nat × Nat)) : Bool :=
    decide (t < cycle) && rows.any fun r => r.1 == core
      && (r.2 == row || (r.2 % 32 == row % 32 && (read || !locked r.2)) || (!read && decide (0 < stopped) && decide (stopped ≤ t)))
  let rival (x : Access) : Bool := x.stage == .waiting && (if read then !x.isStore else !x.isLoad)
  s.cores.any fun c => (c.acc.any fun x => rival x && x.arrived.any fun t => before t x.targets)
    || (!read && c.copy.running.any fun m => m.arrived.any fun x => before x.1 [x.2])

/-- It is an access's turn at the banks and rows it reaches through the CSM window or in the die pool: none that waits there
arrived earlier (R115). -/
def State.bankTurn (s : State) (a : Access) : Bool :=
  a.targets.all fun r => !s.heldSince a.isLoad r.1 r.2 (a.arrived.getD s.now)

/-- The write ports of the banks that bytes of a cluster's CSM lie in are free on this cycle (R67, R116). -/
def State.csmPort (s : State) (cluster a n : Nat) : Bool :=
  ((s.coreAt (csmCore cluster a)).map fun c => !c.writeTaken s.now (csmAddr a) n).getD true

/-- The read port of the bank of bytes of a cluster's CSM is free on this cycle for a reader through the window (R67). -/
def State.csmReadPort (s : State) (cluster a n : Nat) : Bool :=
  ((s.coreAt (csmCore cluster a)).map fun c => !c.matrixReads s.now (csmAddr a) n && !c.bankTaken s.now (csmAddr a) n).getD true

/-- A reader through the window takes the bank's read port (R67), one of the die pool its row. -/
def State.takeCsm (s : State) (sp : Space) (a n : Nat) : State :=
  match sp with
  | .csm k => s.modAt (csmCore k a) fun c => c.takePort s.now (csmAddr a) n
  | .pool d => s.modDie d fun x => x.useRows s.now [a / 64, (a + n - 1) / 64] false
  | _ => s

/-- The lowest address of main memory that does not decode (R32). -/
def undecoded (sp : Space) (xs : List (Nat × Nat)) : Option Nat :=
  match sp with
  | .main => (xs.find? fun r => decide (Config.mainMemoryEnd < r.1 + r.2)).map fun r => max r.1 Config.mainMemoryEnd
  | _ => none

/-! ## Remote requests (R127, R128, R367) -/

/-- The window of a port toward a package has room: fewer than 4,096 requests are unacknowledged (R127). -/
def State.windowOpen (s : State) (p pkg : Nat) : Bool :=
  (s.ports[p]?).any fun x => decide ((mapGet x.nextSeq pkg).getD 0 - (mapGet x.acked pkg).getD 0 < 4096)

/-- Another flit can leave on a port: its retry buffer has room, and no rekey is under way (R369). -/
def State.flitRoom (s : State) (p : Nat) : Bool :=
  (s.ports[p]?).any fun x => x.goes && decide (x.retry.length < 512) && x.tx.rekeySince.isNone

/-- The port on which a request to a lender's line can leave now (R127, R369). -/
def State.wayOut (s : State) (pkg addr : Nat) : Option Nat :=
  (s.portFor pkg addr).filter fun p => s.windowOpen p pkg && s.flitRoom p

/-- Change a port. -/
def State.modPort (s : State) (p : Nat) (f : Port → Port) : State :=
  if h : p < 16 then { s with ports := s.ports.set p (f s.ports[p]) } else s

/-- A flit goes out for the first time: numbered, counted, kept for retry until it is acknowledged (R369). -/
def Port.flit (x : Port) : Port :=
  { x with tx := { x.tx with seq := x.tx.seq + 1, ctr := x.tx.ctr + 1 }, retry := x.retry ++ [(x.tx.seq, x.tx.ctr)] }

/-- A request to a package goes out on the port as a flit, under the next of its numbers (R127). -/
def Port.send (x : Port) (pkg : Nat) : Port :=
  { x with nextSeq := mapSet x.nextSeq pkg ((mapGet x.nextSeq pkg).getD 0 + 1) }.flit

/-- The request for one line of an access takes its number on the port that its issue gave it; one that found none goes by the
first that comes UP (R127, R367). -/
def State.sendLine (s : State) (a : Access) (pkg : Nat) (upper : Bool) : Option State :=
  if (if upper then a.port2 else a.port).isSome ∨ (upper ∧ ¬a.crossing) then none
  else (((if upper then a.way.2 else a.way.1) <|> s.portFor pkg (a.lineAddr upper)).filter fun p =>
      s.windowOpen p pkg && s.flitRoom p).bind fun p => (s.ports[p]?).map fun x =>
    let sent := some (p, (mapGet x.nextSeq pkg).getD 0 % 65536)
    (s.modPort p fun x => x.send pkg).mod fun c => c.setAccess (if upper then { a with port2 := sent } else { a with port := sent })

/-- A request of an access to a lender that has not gone out yet goes out. -/
def State.bind (s : State) (a : Access) : Option State :=
  match a.space with
  | .lent k => s.sendLine a k false <|> s.sendLine a k true
  | _ => none

/-- The ranges an access still has to read, in an order of free choice: the first is read next (R76). -/
def State.nextPiece (s : State) (a : Access) : Nat × Nat := a.unread.getD (Config.pick s.fv % a.unread.length) (0, 0)

/-- Which part of a store is performed next: of free choice (R76). -/
def State.nextPart (s : State) (a : Access) : Nat := Config.pick s.fv % a.parts.length

/-- The place an access names: one aligned word. -/
def Access.place (a : Access) : Nat × Nat := a.reads.headD (0, a.n)

/-- Where the next step of an access is made. -/
def State.stepAt (s : State) (a : Access) : Nat :=
  match a.kind with
  | .store => ((a.parts.getD (s.nextPart a) []).headD (0, 0)).1
  | .load .. | .kload .. | .vload .. => (s.nextPiece a).1
  | .atomic .. | .waita .. => a.place.1

/-- The request that an address of an access goes by. -/
def Access.portAt (a : Access) (x : Nat) : Option (Nat × Nat) := if a.crossing && a.upper x then a.port2 else a.port

/-- Whether an access can travel now: the next step of one to a lender needs the port it went out on UP (R128). -/
def State.canTravel (s : State) (a : Access) : Bool :=
  !a.lent || (a.portAt (s.stepAt a)).any fun q => (s.ports[q.1]?).any fun x => x.goes

/-! ## When an access may be performed (R89-R96) -/

/-- Earlier accesses of the strand that are still outstanding. -/
def Core.before (c : Core) (a : Access) : List Access := c.acc.filter fun x => decide (x.id < a.id)

/-- Every die has reached what the strand has stored and seen (R93). -/
def State.depReached (s : State) : Bool := s.reached s.core.dep && s.core.depMsc.isEmpty

/-- An unexposed write of the strand on bytes that an access through the window reaches (R23, R91). -/
def Core.shadowed (c : Core) (a : Access) : Bool :=
  match a.space with
  | .csm k => a.touches.any fun r => csmCore k r.1 == c.phys && c.timed.any fun w =>
      w.strand && !w.lane && w.cells.any fun x => decide (csmAddr r.1 ≤ x.1) && decide (x.1 < csmAddr r.1 + r.2)
  | _ => false

/-- Nothing earlier of the strand touches a common byte (R91) or is an acquire that still holds it (R92). -/
def Core.inOrder (c : Core) (a : Access) : Bool :=
  (c.before a).all (fun x =>
    !(x.space == a.space && rangesMeet x.touches a.touches) && (x.lent || a.lent || !x.ord.getLsbD 0)) && !c.shadowed a

/-- What a release still waits for (R93). -/
def State.releaseHeld (s : State) (a : Access) : Bool :=
  !a.lent && a.ord.getLsbD 1 &&
    !((s.core.before a).all (fun x => x.lent) && s.core.timed.all (fun w => !w.strand) && s.core.late.isEmpty
      && (if a.scope.toNat < 3 then s.seenHere else s.depReached))

/-- A place in the coherence order of a byte that a die's view has not reached. -/
def State.lags (s : State) (d : Nat) (x : Nat × Nat × Nat) : Bool :=
  match markOf (s.die d).marks x.1 with
  | none => true
  | some k => decide (k.stamp < x.2.1) || (k.stamp == x.2.1 && decide (k.seq < x.2.2))

/-- The strand has read, at the memory-side cache, a store to a byte of the access that its die does not show yet: an access at the
home slice waits for it (R91). -/
def State.behind (s : State) (a : Access) : Bool :=
  a.space == .main && s.core.mscSeen.any fun x => rangesMeet a.touches [(x.1, 1)] && s.lags (dieOf s.core.phys) x

/-- A core that has read n bytes at the memory-side cache keeps the places that its die's view has not reached. -/
def State.readAtMsc (s : State) (a n : Nat) (c : Core) : Core :=
  { c with mscSeen := ((List.range n).foldl (fun m i =>
      match markOf s.marks (a + i) with
      | some k => mapSet m (a + i) (k.stamp, k.seq)
      | none => m) c.mscSeen).filter fun x => s.lags (dieOf c.phys) x }

/-- An access of the running core may be performed now as far as order goes (R91-R93). -/
def State.mayPerform (s : State) (a : Access) : Bool :=
  s.core.inOrder a && !s.releaseHeld a && (!(a.isLoad || a.isStore || decide (a.scope.toNat < 3)) || !s.behind a)

/-- A load through the CSM window has the read port of its next piece's bank, one of the die pool its row, and it is its turn
there (R67, R115, R116). -/
def State.portFree (s : State) (a : Access) : Bool :=
  (match a.space with
    | .csm k => s.csmReadPort k (s.nextPiece a).1 (s.nextPiece a).2
    | .pool d => s.poolFree d (s.nextPiece a).1 (s.nextPiece a).2 false
    | _ => true) && s.bankTurn a

/-- The access is due, is at the head of what orders it, and can travel. -/
def State.ready (s : State) (a : Access) : Bool := decide (a.due ≤ s.now) && s.mayPerform a && s.canTravel a

/-- An access that could not be served where it has come keeps its place there from this cycle on (R115). -/
def State.holdPlace (s : State) (a : Access) : State :=
  if a.arrived.isNone then s.mod fun c => c.setAccess { a with arrived := some s.now } else s

/-- The core remembers the last store of a die that it has made or seen (R93). -/
def Core.depend (c : Core) (d num : Nat) : Core := { c with dep := c.dep.set d (max (c.dep.getD d 0) num) }

/-- What is behind a collective's launch, changed in every word and launch of an engine. -/
def Engine.mapRel (g : Engine) (f : Release → Release) : Engine :=
  let item (i : EItem) : EItem := { i with rel := f i.rel }
  let launch (h : Launch) : Launch := { h with rel := f h.rel }
  { g with
    queue := g.queue.map fun p => { p with items := p.items.map item }
    hand := g.hand.map item
    held := g.held.map launch
    running := g.running.map fun m => { m with launch := launch m.launch } }

/-- An access of the strand has been performed: the launches of collectives that come after it in the strand come after what it has
stored and seen (R93, R107). -/
def Core.precedes (c : Core) (id : Nat) : Core :=
  { c with copy := c.copy.mapRel fun r =>
      if id < r.acc then { r with
        dep := (List.range 4).map fun e => max (r.dep.getD e 0) (c.dep.getD e 0)
        msc := r.msc ++ c.depMsc.filter fun q => !r.msc.contains q }
      else r }

/-- The stores whose bytes are read, remembered (R93). -/
def State.dependOn (s : State) (sp : Space) (a n : Nat) : State :=
  match sp with
  | .main => s.mod fun c => (List.range n).foldl (fun c i =>
      match markOf (s.die (dieOf c.phys)).marks (a + i) with
      | some k => c.depend k.die k.num
      | none => c) c
  | _ => s

end Sys2Proof.Machine
end

