-- ==== Sys2Proof/Machine/MemEvents.lean ====
section
/-! DEFINITION. The events of memory: exposures, stores performed and applied, loads that return, atomics at their
serialisation point, `waita` registration and timeout, cache fills, poison and integrity reports (04 R68, 05 R89-R104,
06 R114-R133, 11 R241-R246, 03 R39). An event whose time has not come leaves the state as it is. -/

namespace Sys2Proof.Machine

/-! ## Exposure (R68) -/

/-- Whether a timed write's exposure cycle has come. -/
def TimedWrite.due (w : TimedWrite) (now : Nat) : Bool := decide (w.expose ≤ now)

/-- The core with every due timed write in its bank or slice, in the order of issue. -/
def Core.expose (c : Core) (now : Nat) : Core :=
  let due := c.timed.filter fun w => w.due now
  { c with
    scr := due.foldl (fun m w => if w.lane then m else memPut m w.cells) c.scr
    lanes := due.foldl (fun m w => if w.lane then memPut m w.cells else m) c.lanes
    bankWrites := c.bankWrites ++ (due.filter fun w => w.strand && !w.lane).flatMap fun w =>
      (w.cells.map fun x => x.1 / 64).eraseDups.map fun r => (now, r, false)
    timed := c.timed.filter fun w => !w.due now }

/-- WRITE_EXPOSURE (R68). -/
def execWriteExposure (s : State) : Out := .next (s.mod fun c => c.expose s.now)

/-! ## Stores (R241, R246) -/

/-- The next due cycle of an access that goes on: a free number of cycles on, this one at the earliest. -/
def State.again (s : State) : Nat := s.now + Config.untimedDelay s.fv

/-- The access without one of its parts; it leaves its queue with the last (R241, R246). -/
def State.partDone (s : State) (a : Access) (i : Nat) : State :=
  let rest := a.parts.eraseIdx i
  { s with
    core := if rest.isEmpty then s.core.dropAccess a.id
      else s.core.setAccess { a with parts := rest, due := s.again, arrived := none }
    fv := s.fv + 1 }

/-- Whether the part may take effect at its bank: a locked row holds it (R74), the write port is free (R67, R116). -/
def State.partFree (s : State) (a : Access) (cells : List Host.Cell) : Bool :=
  match a.space with
  | .csm k => (cells.all fun c => !s.csmLocked k c.1 1 && s.csmPort k c.1 1) && s.bankTurn a
  | .pool d => (cells.all fun c => s.poolFree d c.1 1 false) && s.bankTurn a
  | _ => true

/-- LOCAL_STORE_PERFORMED (R246). -/
def execLocalStorePerformed (id : Nat) (s : State) : Out :=
  match s.core.access? id with
  | none => .next s
  | some a =>
    let i := s.nextPart a
    let cells := a.parts.getD i []
    if ¬(a.isStore ∧ ¬a.isToken ∧ s.ready a) then .next s
    else if s.partFree a cells then .next ((s.putSpace a.space cells).partDone a i)
    else .next (s.holdPlace a)

/-- TOKEN_STORE_PERFORMED (R241): at the home slice of the die, or at the lender's slice. -/
def execTokenStorePerformed (id : Nat) (s : State) : Out :=
  match s.core.access? id with
  | none => .next s
  | some a =>
    let i := s.nextPart a
    let cells := a.parts.getD i []
    let d := dieOf s.core.phys
    if ¬ (a.isStore ∧ a.isToken) then .next s
    else match a.space, s.bind a with
      | _, some t => .next t
      | .lent p, none => if s.ready a then .next ((s.putSpace (.lent p) cells).partDone a i) else .next s
      | _, none =>
        if ¬ s.ready a then .next s
        else match undecoded .main (cells.map fun c => (c.1, 1)) with
          | some x => .fault (.notDecoded x)
          | none =>
            let s1 := s.storeMain d cells
            .next ((s1.mod fun c => (c.depend d (s1.lastNum d)).precedes a.id).partDone a i)

/-- EXPORTED_STORE_APPLY (R102). -/
def execExportedStoreApply (src dst : Nat) (s : State) : Out :=
  match (s.die dst).inbox.find? fun e => e.src == src && s.canApply dst e with
  | some e => .next (s.modDie dst fun x => x.apply e)
  | none => .next s

/-! ## Loads (R90, R240, R243, R245, R248) -/

/-- The bytes of an access in order, from what it has got. -/
def Access.bytes (a : Access) : List Byte :=
  a.reads.flatMap fun r => (List.range r.2).map fun i => memGet a.got (r.1 + i)

/-- The source of a POISON report of an access (R360). -/
def Access.src (a : Access) : BitVec 3 :=
  match a.kind with
  | .atomic _ 0 _ _ => 2
  | .atomic .. => 1
  | .waita .. => 1
  | _ => if a.isToken then 0 else 3

/-- The destination register of an access and its number. -/
def Access.dst (a : Access) : Option (Reg × Nat) :=
  match a.kind with
  | .load (.s n) _ => some (.s n, n)
  | .load r _ => some (r, 0)
  | .kload n => some (.k n, n)
  | .vload n _ => some (.v n, n)
  | .atomic _ n _ _ => some (.s n, n)
  | .waita n _ => some (.s n, n)
  | .store => none

/-- The report of poisoned data, or of a failed MAC, for an access (R243, R360). -/
def Access.report (a : Access) (now : Nat) : PoisonReport :=
  ⟨now, a.badMac, a.src, BitVec.ofNat 5 ((a.dst.map (·.2)).getD 0), BitVec.ofNat 56 a.va, a.line⟩

/-- Poisoned data return: the register keeps its value and is marked; with no register, or `s0`, the report is owed;
a reduction's is taken at the next issue (R243). -/
def Core.poisonReturn (c : Core) (a : Access) (r : PoisonReport) : Core :=
  match a.kind with
  | .atomic _ 0 _ _ => { c with redOwed := c.redOwed ++ [r] }
  | _ =>
    match a.dst with
    | some (.s 0, _) => { c with owed := c.owed ++ [r] }
    | some (g, _) => { (c.unmark g) with marks := (c.unmark g).marks ++ [(g, r)] }
    | none => { c with owed := c.owed ++ [r] }

/-- Data return to a destination (R240, R245, R248, R49); a token takes 6 cycles more to unseal (R251). -/
def State.deliver (s : State) (a : Access) : State :=
  s.mod fun c =>
    if a.poisoned ∨ a.badMac then c.poisonReturn a (a.report s.now)
    else match a.kind with
      | .load (.s n) sext => c.put (BitVec.ofNat 5 n) (loadValue a.bytes sext) s.now 0
      | .kload n => c.putK (BitVec.ofNat 4 n) (unsealToken s.sealKey c.partId a.bytes) s.now 6
      | .vload n g => c.putV (BitVec.ofNat 4 n) (guarded g (c.rv (BitVec.ofNat 4 n)) (elemAt a.bytes)) (s.now - 3) 0
      | .atomic _ n _ _ =>
        match a.stage with
        | .applied old _ => c.put (BitVec.ofNat 5 n) (BitVec.ofNat 64 old) s.now 0
        | _ => c
      | _ => c

/-- A load reads one piece; which one is of free choice (R76). -/
def State.readPiece (s : State) (a : Access) : Access × State :=
  let r := s.nextPiece a
  ({ a with
      got := a.got ++ cellsAt r.1 (s.spaceRead a.space r.1 r.2)
      poisoned := a.poisoned || s.poisonIn a.space r.1 r.2
      badMac := a.badMac || (s.macBad a.space r.1 r.2 && !s.poisonIn a.space r.1 r.2)
      line := a.line <|> s.firstLine a.space r.1 r.2 .badMac
      due := s.again
      arrived := none },
    (((s.takeCsm a.space r.1 r.2).dependOn a.space r.1 r.2).mod fun c => c.precedes a.id).countCorrected a.space r.1 r.2)

/-- LOAD_DATA_RETURN (R90, R243): the last piece completes the load. -/
def execLoadDataReturn (id : Nat) (s : State) : Out :=
  match s.core.access? id with
  | none => .next s
  | some a =>
    if ¬ a.isLoad then .next s
    else match s.bind a with
      | some t => .next t
      | none =>
        if ¬ s.ready a then .next s
        else if ¬ s.portFree a then .next (s.holdPlace a)
        else match undecoded a.space a.unread with
          | some x => .fault (.notDecoded x)
          | none =>
            let (a', s1) := s.readPiece a
            if a'.unread.isEmpty then .next ((s1.mod fun c => c.dropAccess id).deliver a')
            else .next { s1 with core := s1.core.setAccess a', fv := s1.fv + 1 }

/-! ## Watchpoints on atomics (R409-R412) -/

/-- Reports of an atomic's write to every core that watches it; each travels an untimed while. -/
def State.strikeAtomic (s : State) (isLocal : Bool) (who : Core → Bool) (va n : Nat) : State :=
  let src := BitVec.ofNat 17 (Config.packageNumber * 2 ^ 8 + s.core.vcore)
  let due := s.dueCycle
  { s.modAll (fun c =>
      if c.ctx ≠ .idle ∧ c.ctx ≠ .ended ∧ who c then
        match c.strike 20 isLocal (span va n) with
        | some (wp, hit) => c.sendWatch ⟨2, wp, due, src, hit⟩
        | none => c
      else c) with fv := s.fv + 1 }

/-- Reports of a token atomic: every core of its partition that watches the virtual address. -/
def State.strikeToken (s : State) (a : Access) : State :=
  let p := s.core.partId
  s.strikeAtomic false (fun c => c.partId == p) a.va a.n

/-! ## Waking (R129, R130, R132) -/

/-- End a registered wait: its core's access leaves, and its `waita` has a result. -/
def State.endWait (s : State) (w : Waiter) (r : WaitEnd) (mark : Core → Core) : State :=
  s.modAt w.core fun c =>
    match c.waiting with
    | .waita id none => if id = w.acc then mark { (c.dropAccess id) with waiting := .waita id (some r) } else c
    | _ => c

/-- A registered wait ends at its point; the answer from a lender comes while the port of the request is UP (R128). -/
def State.answerWait (s : State) (w : Waiter) (r : WaitEnd) (mark : Core → Core) : State :=
  if (s.coreAt w.core).any fun c => (c.access? w.acc).any fun a => !s.canTravel a then
    s.modAt w.core fun c => { c with acc := c.acc.map fun a => if a.id = w.acc then { a with stage := .answered r } else a }
  else s.endWait w r mark

/-- The waiters of a word: those of its address and size. A registration of a size on part of the word of another is not on the same
word (DESIGN CHOICE, log entry 65). -/
def wordWaiters (ws : List Waiter) (a n : Nat) : List Waiter := ws.filter fun w => w.addr == a && w.n == n

/-- The serialisation point of a token access (R114): its home slice in a die, the memory-side cache, the lender. -/
inductive Point where
  | slice (die : Nat) | msc | lender
  deriving DecidableEq, Repr

def Access.point (a : Access) (phys : Nat) : Point :=
  if a.lent then .lender else if 3 ≤ a.scope.toNat then .msc else .slice (dieOf phys)

/-- The waiters at a point. -/
def State.waitersAt (s : State) : Point → List Waiter
  | .slice d => (s.die d).waiters
  | .msc => s.pkgWaiters
  | .lender => s.lentWaiters

def State.setWaiters (s : State) (p : Point) (ws : List Waiter) : State :=
  match p with
  | .slice d => s.modDie d fun x => { x with waiters := ws }
  | .msc => { s with pkgWaiters := ws }
  | .lender => { s with lentWaiters := ws }

/-- The point a remote request goes to. -/
def remotePoint (r : RemoteRequest) : Point := r.die.elim .msc .slice

/-- Registrations of other packages on a word are answered (R127, R129). -/
def State.wakeRemote (s : State) (p : Point) (a n new : Nat) : State :=
  let hit (r : RemoteRequest) : Bool := r.addr == a && r.size == n && remotePoint r == p
  { s with outbox := s.outbox ++ (s.remoteWaits.filter hit).map fun r => (r.addr, .waited r.pkg r.port r.seq new true)
           remoteWaits := s.remoteWaits.filter fun r => !hit r }

/-- The strand has seen a write of the memory-side cache that has no number yet (R93, R104). -/
def Core.seeMsc (c : Core) (seq : Nat) : Core := { c with depMsc := c.depMsc ++ [seq] }

/-- An `amo.addt` that crosses wakes every waiter of its word at its point (R129); `who` made it (R399), and the waiters have
seen its write. -/
def State.wake (s : State) (p : Point) (a n new : Nat) (who : BitVec 32) (seen : Core → Core) : State :=
  let hit := wordWaiters (s.waitersAt p) a n
  let s1 := (s.wakeRemote p a n new).setWaiters p ((s.waitersAt p).filter fun w => !(w.addr == a && w.n == n))
  hit.foldl (fun st w => st.answerWait w ⟨BitVec.ofNat 64 new, true, 0, who⟩ seen) s1

/-- The running core as SETTER of a wait. -/
def State.setter (s : State) : BitVec 32 := setterCore Config.packageNumber s.core.vcore

/-- What a waiter that the running core wakes has seen: the write just made at the point, which has its number in a die, or
its place in the order at the memory-side cache. -/
def State.seenAt (s : State) (p : Point) (a n seq : Nat) (c : Core) : Core :=
  match p with
  | .slice d => c.depend d (s.lastNum d)
  | .msc => s.readAtMsc a n (c.seeMsc seq)
  | .lender => c

/-! ## Token atomics (R114, R119-R121, R125) -/

/-- An atomic of the memory-side cache whose write is not yet performed in its die covers these bytes (R104). -/
def State.mscBusy (s : State) (a n : Nat) : Bool :=
  s.cores.any fun c => c.acc.any fun x =>
    match x.stage with
    | .applied _ (some _) => rangesMeet (x.parts.flatMap fun p => p.map fun k => (k.1, 1)) [(a, n)]
    | _ => false

/-- An atomic or registration that has come to the memory-side cache may be applied there: no write that still has its die to reach
covers its word (R104), and none that waits at its slice arrived earlier (R115). -/
def State.mscTurn (s : State) (a : Access) : Bool :=
  !s.mscBusy a.place.1 a.place.2 && !(s.cores.any fun c => c.acc.any fun x =>
    x.space == .main && x.stage == .waiting && mscSlice x.place.1 == mscSlice a.place.1
      && x.arrived.any fun t => decide (t < a.arrived.getD s.now))

/-- The value of a word at its serialisation point. -/
def State.wordAt (s : State) (p : Point) (a n : Nat) : Nat :=
  match p with
  | .slice d => memReadNat (s.die d).view a n
  | .msc => memReadNat s.mem a n
  | .lender => memReadNat s.lentMem a n

/-- A write of the memory-side cache that is still to be performed in its die (R104). -/
def State.unnumbered (s : State) (seq : Nat) : Bool :=
  s.cores.any fun c => c.acc.any fun x =>
    match x.stage with
    | .applied _ (some (_, q)) => q == seq && !x.parts.isEmpty
    | _ => false

/-- The stores whose bytes an access at the memory-side cache reads, remembered: an atomic's write by its place until it has
its number (R93). -/
def State.dependMsc (s : State) (a n : Nat) : State :=
  s.mod fun c => s.readAtMsc a n ((List.range n).foldl (fun c i =>
    match markOf s.marks (a + i) with
    | some k => if s.unnumbered k.seq then c.seeMsc k.seq else if k.num = 0 then c else c.depend k.die k.num
    | none => c) c)

/-- The running core remembers the stores a word's value came from. -/
def State.dependAt (s : State) (p : Point) (a n : Nat) : State :=
  match p with
  | .slice _ => s.dependOn .main a n
  | .msc => s.dependMsc a n
  | .lender => s

/-- The write of an atomic at its point; at the memory-side cache it is still to be performed in the die. -/
def State.atomicWrite (s : State) (acc : Access) (p : Point) (cells : List Host.Cell) : State :=
  let back (st : State) (stage : AccStage) (parts : List (List Host.Cell)) : State :=
    { st with core := st.core.setAccess { acc with stage := stage, parts := parts, due := st.dueCycle }, fv := st.fv + 1 }
  let old := match acc.stage with
    | .applied x _ => x
    | _ => 0
  match p with
  | .slice d =>
    let s1 := s.storeMain d cells
    back (s1.mod fun c => c.depend d (s1.lastNum d)) (.applied old none) []
  | .lender => back (s.putSpace (.lent 0) cells) (.applied old none) []
  | .msc =>
    let top := cells.foldl (fun m c => max m (max ((markOf s.marks c.1).elim 0 Mark.stamp) ((mapGet s.floor c.1).getD 0))) 0
    let d := dieOf s.core.phys
    let marked := cells.map fun c => (c.1, c.2, (⟨top + 1, s.seq, d, 0⟩ : Mark))
    back (s.mscWrite marked) (.applied old (some (top + 1, s.seq))) [cells]

/-- An atomic at its serialisation point (R114, R119, R129). -/
def State.applyAtomic (s : State) (a : Access) (op : BitVec 4) (t x : Nat) (p : Point) : State :=
  let at' := a.place
  let old := s.wordAt p at'.1 at'.2
  let new := amoNew op a.n old t x
  let s1 := (s.dependAt p at'.1 at'.2).countCorrected a.space at'.1 at'.2
  let cells := cellsAt at'.1 (natToBytes a.n new)
  let a1 := { a with stage := AccStage.applied old none }
  let s2 :=
    if amoWrites op old t then (s1.strikeToken a).atomicWrite a1 p cells
    else { s1 with core := s1.core.setAccess { a1 with due := s1.dueCycle }, fv := s1.fv + 1 }
  let s2 := s2.mod fun c => c.precedes a.id
  if op = 11 ∧ amoCrosses a.n old new t then s2.wake p at'.1 at'.2 new s.setter (s2.seenAt p at'.1 at'.2 s1.seq) else s2

/-- An access whose word is poisoned or fails its MAC has no effect and returns so (R80, R385). -/
def State.spoil (s : State) (a : Access) : Option State :=
  let at' := a.place
  let bad := s.poisonIn a.space at'.1 at'.2
  let mac := s.macBad a.space at'.1 at'.2
  if bad ∨ mac then
    some { s with core := s.core.setAccess { a with
                    stage := .applied 0 none, poisoned := bad, badMac := mac && !bad
                    line := s.firstLine a.space at'.1 at'.2 .badMac, due := s.dueCycle }
                  fv := s.fv + 1 }
  else none

/-- What a collective's launch comes after, with a write known by its number. -/
def Release.number (r : Release) (seq d num : Nat) : Release :=
  if r.msc.contains seq then { r with dep := r.dep.set d (max (r.dep.getD d 0) num), msc := r.msc.filter fun x => x ≠ seq } else r

/-- The copy engine's words and launches, with a write known by its number. -/
def Engine.number (g : Engine) (seq d num : Nat) : Engine := g.mapRel fun r => r.number seq d num

/-- A write of the memory-side cache has got its number in a die: those who have seen it know it by that (R93, R104). -/
def State.numberMsc (s : State) (seq d num : Nat) : State :=
  let f (c : Core) : Core :=
    let c := { c with copy := c.copy.number seq d num }
    if c.depMsc.contains seq then { c.depend d num with depMsc := c.depMsc.filter fun x => x ≠ seq } else c
  { s.modAll f with saved := s.saved.map fun x => { x with core := f x.core } }

/-- The write of an atomic of the memory-side cache is performed in the issuing die (R104). -/
def State.atomicHome (s : State) (a : Access) (stamp seq : Nat) : State :=
  let d := dieOf s.core.phys
  let cells := a.parts.flatten.map fun c => (c.1, c.2, (⟨stamp, seq, d, 0⟩ : Mark))
  let s0 := s.performMarked d cells
  let s1 := s0.numberMsc seq d (s0.lastNum d)
  { s1 with
    core := ((s1.core.setAccess { a with parts := [], due := s1.dueCycle }).depend d (s1.lastNum d)).precedes a.id
    fv := s1.fv + 1 }

/-- ATOMIC_APPLY (R114): at the serialisation point; for the memory-side cache, then in the issuing die (R104). -/
def execAtomicApply (id : Nat) (s : State) : Out :=
  match s.core.access? id with
  | none => .next s
  | some a =>
    match a.kind, a.space, a.stage, s.bind a with
    | .atomic .., _, .waiting, some u => .next u
    | .atomic .., .main, .applied _ (some (stamp, seq)), _ =>
      if a.due ≤ s.now ∧ ¬a.parts.isEmpty then .next (s.atomicHome a stamp seq) else .next s
    | .atomic op _ t x, _, .waiting, _ =>
      let p := a.point s.core.phys
      if ¬a.isToken ∨ ¬s.ready a then .next s
      else if p = .msc ∧ ¬s.mscTurn a then .next (s.holdPlace a)
      else match undecoded a.space a.reads with
        | some k => .fault (.notDecoded k)
        | none => .next ((s.spoil a).getD (s.applyAtomic a op t x p))
    | _, _, _, _ => .next s

/-- ATOMIC_RESULT_RETURN (R125): the old value or the acknowledgement; from a lender it comes while the request's port is UP
(R128). -/
def execAtomicResultReturn (id : Nat) (s : State) : Out :=
  match s.core.access? id with
  | none => .next s
  | some a =>
    match a.kind, a.stage with
    | .atomic .., .applied .. =>
      if a.due ≤ s.now ∧ a.parts.isEmpty ∧ s.canTravel a then .next ((s.mod fun c => c.dropAccess id).deliver a) else .next s
    | _, _ => .next s

/-! ## Local atomics (R116) -/

/-- Both ports of the row of bytes of the own scratchpad are free on a cycle (R67, R116). -/
def Core.rowPorts (c : Core) (now a n : Nat) : Bool := !c.matrixReads now a n && !c.bankTaken now a n && !c.writeTaken now a n

/-- Whether the row of a local atomic is free of locks and unexposed writes of the core, and its ports are free on this cycle
(R74, R116). -/
def State.rowFree (s : State) (a : Access) : Bool :=
  let at' := a.place
  match a.space with
  | .own => !s.core.unexposed at'.1 at'.2 && !s.core.lockedAt at'.1 (at'.1 + at'.2) && s.core.rowPorts s.now at'.1 at'.2
  | .pool d => s.poolFree d at'.1 at'.2 true && s.bankTurn a
  | .csm k => !s.csmLocked k at'.1 at'.2 && s.bankTurn a
      && (s.coreAt (csmCore k at'.1)).all fun c => c.rowPorts s.now (csmAddr at'.1) at'.2
  | _ => true

/-- The atomic takes the row's read and write ports for its bank cycle (R116). -/
def State.takeRow (s : State) (a : Access) : State :=
  let at' := a.place
  match a.space with
  | .own => s.mod fun c => (c.takePort s.now at'.1 at'.2).takeWrite s.now at'.1 at'.2 true
  | .csm k => s.modAt (csmCore k at'.1) fun c =>
      (c.takePort s.now (csmAddr at'.1) at'.2).takeWrite s.now (csmAddr at'.1) at'.2 true
  | .pool d => s.modDie d fun x => x.useRows s.now [at'.1 / 64] true
  | _ => s

/-- LOCAL_ATOMIC_APPLY (R116): the result is back two cycles on at the earliest. -/
def execLocalAtomicApply (id : Nat) (s : State) : Out :=
  match s.core.access? id with
  | none => .next s
  | some a =>
    match a.kind, a.stage with
    | .atomic op _ t x, .waiting =>
      if a.isToken ∨ ¬s.ready a then .next s
      else if ¬s.rowFree a then .next (s.holdPlace a)
      else match s.spoil a with
        | some s1 => .next s1
        | none =>
          let at' := a.place
          let old := bytesToNat (s.spaceRead a.space at'.1 at'.2)
          let cells := cellsAt at'.1 (natToBytes a.n (amoNew op a.n old t x))
          let s := s.takeRow a
          let s1 :=
            if amoWrites op old t then
              let s2 := s.putSpace a.space cells
              match a.space with
              | .own => s2.strikeAtomic true (fun c => c.phys == s.core.phys) at'.1 a.n
              | .csm k => s2.strikeAtomic true (fun c => c.phys == csmCore k at'.1) (csmAddr at'.1) a.n
              | _ => s2
            else s
          .next { s1 with
            core := s1.core.setAccess { a with stage := .applied old none, due := s1.dueCycle + 1 }
            fv := s1.fv + 1 }
    | _, _ => .next s

/-! ## waita (R130-R133) -/

/-- Largest number of waiters of a point: per home slice, per memory-side cache slice (R132). The lender's slice counts
as a home slice. -/
def Point.room : Point → Nat
  | .msc => 256
  | _ => 64

/-- Two words of a point meet at one slice: of one line, or of lines that the hash sends to it; at a lender, of one package
(R78, R79). -/
def Point.sameSlice (p : Point) (a b : Nat) : Bool :=
  a / 128 == b / 128 || (match p with
    | .msc => mscSlice a == mscSlice b
    | .slice _ => homeSlice a == homeSlice b
    | .lender => a / 2 ^ 48 == b / 2 ^ 48 && homeSlice (a % 2 ^ 48) == homeSlice (b % 2 ^ 48))

/-- The table of the slice that a word belongs to is full (R132). -/
def State.tableFull (s : State) (p : Point) (a : Nat) : Bool :=
  decide (p.room ≤ ((s.waitersAt p).filter fun w => p.sameSlice w.addr a).length
    + (s.remoteWaits.filter fun r => remotePoint r = p && p.sameSlice r.addr a).length)

/-- A `waita` that ends at its registration. -/
def State.waitNow (s : State) (a : Access) (r : WaitEnd) : State :=
  s.endWait ⟨s.core.phys, a.id, a.place.1, a.n⟩ r fun c => c

/-- 2^TOEXP with the limits of R131. -/
def Core.waitLimit (c : Core) : Nat :=
  let e := (c.waitcfg.extractLsb' 0 5).toNat
  2 ^ (if e < 10 then 10 else if 24 < e then 24 else e)

/-- When the withdrawal of a registration made now would be applied at its point: a free while after the timeout,
which R130 leaves untimed (DESIGN CHOICE, log entry 64). -/
def State.withdrawalDue (s : State) (a : Access) : Nat :=
  max (a.issued + s.core.waitLimit) s.now + Config.untimedDelay s.fv

/-- WAITA_REGISTER (R130, R132): the registration is sent, applied at its point, or its answer comes from the lender. -/
def execWaitaRegister (id : Nat) (s : State) : Out :=
  match s.core.access? id with
  | none => .next s
  | some a =>
    match a.kind, a.stage, s.bind a with
    | .waita .., .waiting, some u => .next u
    | .waita .., .answered r, _ => if s.canTravel a then .next (s.waitNow a r) else .next s
    | .waita d x, .waiting, none =>
      let p := a.point s.core.phys
      let at' := a.place
      if ¬s.ready a then .next s
      else if p = .msc ∧ ¬s.mscTurn a then .next (s.holdPlace a)
      else match undecoded a.space a.reads with
        | some k => .fault (.notDecoded k)
        | none =>
          let bad := s.poisonIn a.space at'.1 at'.2
          if bad ∨ s.macBad a.space at'.1 at'.2 then
            .next { (s.mod fun c => c.poisonReturn a { a.report s.now with integrity := !bad, line := s.firstLine a.space at'.1 at'.2 .badMac }).waitNow a
              ⟨s.core.rs (BitVec.ofNat 5 d), Config.choice s.fv, 0, setterNone⟩ with fv := s.fv + 1 }
          else
            let w := s.wordAt p at'.1 at'.2
            let s1 := ((s.dependAt p at'.1 at'.2).mod fun c => c.precedes a.id).countCorrected a.space at'.1 at'.2
            if signed (8 * a.n) x ≤ signed (8 * a.n) w then .next (s1.waitNow a ⟨BitVec.ofNat 64 w, true, 0, setterNone⟩)
            else if s.tableFull p at'.1 then .next (s1.waitNow a ⟨BitVec.ofNat 64 w, false, 0, setterNone⟩)
            else .next { (s.setWaiters p (s.waitersAt p ++ [⟨s.core.phys, id, at'.1, a.n⟩])).mod fun c =>
              c.setAccess { a with stage := .registered, due := s.withdrawalDue a } with fv := s.fv + 1 }
    | _, _, _ => .next s

/-- The running core's `waita` has timed out and its withdrawal has come to the point. A registration still on its way is
withdrawn once it has come there: a port that is not UP, an earlier acquire or an earlier store to the word hold both (R91,
R92, R128). -/
def State.waitExpired (s : State) : Option Access :=
  match s.core.waiting with
  | .waita id none => (s.core.access? id).bind fun a =>
      if a.stage = .registered ∧ a.issued + s.core.waitLimit ≤ s.now ∧ a.due ≤ s.now ∧ s.canTravel a then some a else none
  | _ => none

/-- Take a registration out of its point's table. -/
def State.withdraw (s : State) (p : Point) (core acc : Nat) : State :=
  s.setWaiters p ((s.waitersAt p).filter fun w => !(w.core == core && w.acc == acc))

/-- WAITA_TIMEOUT (R130): the registration is withdrawn and the value is the word's. -/
def execWaitaTimeout (s : State) : Out :=
  match s.waitExpired with
  | none => .next s
  | some a =>
    let p := a.point s.core.phys
    let at' := a.place
    .next (((s.withdraw p s.core.phys a.id).dependAt p at'.1 at'.2).waitNow a
      ⟨BitVec.ofNat 64 (s.wordAt p at'.1 at'.2), false, 1, setterNone⟩)

/-! ## Reads that a strand waits for (R67, R70, R153, R288) -/

/-- Address ranges of n bytes from a, cut where bank rows end; from a on there are at most as many rows as `fuel`. -/
def rowRanges : Nat → Nat → Nat → List (Nat × Nat)
  | 0, _, _ => []
  | fuel + 1, a, n =>
    let m := min n (64 - a % 64)
    if n = 0 then [] else (a, m) :: rowRanges fuel (a + m) (n - m)

/-- The read ports of every bank row of a range are free on this cycle, through the CSM window or in the die pool. -/
def State.rangeFree (s : State) (sp : Space) (rows : List (Nat × Nat)) : Bool :=
  match sp with
  | .csm k => rows.all fun r => s.csmReadPort k r.1 r.2
  | .pool d => rows.all fun r => s.poolFree d r.1 r.2 false
  | _ => true

/-- A stack instruction or a `cmpt` that waits for a read outside the own scratchpad makes it, on the first cycle from its due one on
that has every port free (R67): all its bytes on one cycle (DESIGN CHOICE, log entry 70). -/
def State.windowRead (s : State) : Out :=
  match s.core.cur, s.core.waiting with
  | some i, .until due =>
    match (if waitsHere i then s.core.localAccess i else none) with
    | some x =>
      match regionOf s.core.poolMb x.addr.toNat with
      | some r =>
        let at' := s.core.spaceOf r x.addr.toNat
        let rows := rowRanges 4 at'.2 x.n
        if due ≤ s.now ∧ s.rangeFree at'.1 rows then
          .next (State.mod (rows.foldl (fun st y => st.takeCsm at'.1 y.1 y.2) s) fun c =>
            { c with waiting := .got (s.localNow r x.addr.toNat x.n) (s.poolPoisoned r x.addr.toNat x.n) })
        else .next s
      | none => .next s
    | none => .next s
  | _, _ => .next s

/-! ## Token frame cache (R39) -/

/-- TFC_MISS_FILL (R39). -/
def execTfcMissFill (s : State) : Out :=
  match s.core.tfcReq with
  | none => .next s
  | some (i, frame, due) =>
    if s.now < due then .next s
    else
      let e := s.entry i
      .next { s with
        core := { s.core with tfcReq := none
                              tfc := tfcFill s.core.tfc ⟨i, frame, e.gen, e.state == .active, e.rights, e.mode⟩
                                (Config.tfcVictim s.fv) }
        fv := s.fv + 1 }

/-! ## Poison and INTEGRITY (R243, R359) -/

/-- The report the instruction at issue meets: a reduction's first, else that of a register it reads or an ordering
point's (R243). -/
def Core.poisonAt (c : Core) (now : Nat) : Option PoisonReport :=
  match c.redOwed.find? fun r => decide (r.cycle < now) with
  | some r => some r
  | none => c.cur.bind fun i => c.duePoison i

/-- The report is no longer owed. -/
def Core.takeReport (c : Core) (r : PoisonReport) : Core :=
  if c.redOwed.contains r then { c with redOwed := c.redOwed.erase r } else c.settle r

/-- Deliver the report at issue if it is of the kind named. -/
def State.reportAt (s : State) (integrity : Bool) : State :=
  match s.core.poisonAt s.now with
  | some r => if r.integrity = integrity then State.takePoison (s.mod fun c => c.takeReport r) r else s
  | none => s

/-- POISON (R243). -/
def execPoison (s : State) : Out := .next (s.reportAt false)

/-- INTEGRITY (R359). -/
def execIntegrity (s : State) : Out := .next (s.reportAt true)

end Sys2Proof.Machine
end

