-- ==== Sys2Proof/Machine/Matrix.lean ====
section
/-! DEFINITION. The matrix engine at work: chunks, tiles, write-back (13 R303-R311, 08 R176-R181). Also what every
engine's started commands share: their record, locks, tag, pending operands and watchpoint reports. -/

namespace Sys2Proof.Machine

/-! ## Started commands -/

def Core.cmd? (c : Core) (e : EngineId) (id : Nat) : Option Cmd := (c.eng e).running.find? fun m => m.id = id

def Core.setCmd (c : Core) (e : EngineId) (m : Cmd) : Core :=
  c.modEng e fun g => { g with running := g.running.map fun x => if x.id = m.id then m else x }

/-- A command ends: its locks are released and its tag is set (R74, R255). -/
def Core.endCmd (c : Core) (e : EngineId) (m : Cmd) (rev : Bool) : Core :=
  let c1 := c.modEng e fun g => { g with running := g.running.filter fun x => x.id ≠ m.id }
  ({ c1 with locks := c1.locks.filter fun l => !(l.eng == e && l.cmd == m.id) }).setTag e m.launch.tag rev

/-- A command locks the rows or lines of byte ranges (R74, R311). -/
def Core.addLock (c : Core) (e : EngineId) (id : Nat) (rs : List (Nat × Nat)) : Core :=
  { c with locks := c.locks ++ [⟨e, id, (rs.filter fun r => r.2 ≠ 0).map fun r => (r.1, r.1 + r.2)⟩] }

/-- A command stops on a fault found while it runs: subcode LINE or PENDING (R298, R299). -/
def Core.stopCmd (c : Core) (e : EngineId) (m : Cmd) (sub now : Nat) : Core :=
  (c.endCmd e m true).engFault e false sub m.launch.widx (stampOf m.launch.cond) now

/-- A write of an own engine to local or virtual bytes is issued: a report if it strikes (R409, R412). -/
def Core.strikeEngine (c : Core) (e : EngineId) (tag : Nat) (isLocal : Bool) (w : Nat → Bool) (now : Nat) : Core :=
  match c.strike 19 isLocal w with
  | some (wp, hit) => c.postWatch ⟨1, wp, now, BitVec.ofNat 17 (tag * 4 + engNum e), hit⟩
  | none => c

/-! ## Operand values (R305, R308, R309) -/

/-- Element k of packed codes from a base (R163). -/
def codeAt (rd : Nat → Byte) (base f k : Nat) : Nat :=
  match fmtWidth f with
  | 4 => (rd (base + k / 2)).toNat / 16 ^ (k % 2) % 16
  | 8 => (rd (base + k)).toNat
  | _ => (rd (base + 2 * k)).toNat + 256 * (rd (base + 2 * k + 1)).toNat

/-- The value of a code, under its block's scale if it has one (R160-R162, R169, R171). -/
def operandVal (cv : Curve) (f : Nat) (scaled : Bool) (code e : Nat) : Val :=
  if scaled then scaledVal cv f code e else elemVal f code

/-- Element k of a row or column in the own scratchpad (R305). -/
def rowVal (rd : Nat → Byte) (cv : Curve) (f : Nat) (scaled : Bool) (base sof k : Nat) : Val :=
  operandVal cv f scaled (codeAt rd base f k) (rd (base + sof + k / 32)).toNat

/-- The header of a weight-buffer line (R308). -/
def lineHeader (rd : Nat → Byte) (a : Nat) : Nat := bytesToNat ((List.range 8).map fun i => rd (a + i))

/-- KIND of a header. -/
def lineKind (h : Nat) : Nat := h / 16 % 4

/-- Elements of a line of a kind (R308). -/
def lineLen (kind f : Nat) : Nat := if kind = 1 then 1024 / fmtWidth f else 512 / fmtWidth f

/-- Mask of group g of a sparse line. -/
def lineMask (rd : Nat → Byte) (a g : Nat) : Nat := (rd (a + 16 + g / 2)).toNat / 16 ^ (g % 2) % 16

/-- Whether a mask keeps position p. -/
def maskBit (m p : Nat) : Bool := m / 2 ^ p % 2 == 1

/-- How many positions below p a mask keeps. -/
def maskBelow (m p : Nat) : Nat := ((List.range p).filter fun i => maskBit m i).length

/-- Element e of a line of a kind; none where it is pruned (R309). -/
def lineVal (rd : Nat → Byte) (cv : Curve) (f : Nat) (scaled : Bool) (kind a e : Nat) : Option Val :=
  let scale := (rd (a + 8 + e / 32)).toNat
  if kind = 1 then
    let g := e / 4
    let m := lineMask rd a g
    if maskBit m (e % 4) then some (operandVal cv f scaled (codeAt rd (a + 48) f (2 * g + maskBelow m (e % 4))) scale)
    else none
  else some (operandVal cv f scaled (codeAt rd (a + 16) f e) scale)

/-- A line fails the checks of R310: `first` is the KIND of the column's line 0, `below` how many of its elements lie
below K. -/
def lineBad (rd : Nat → Byte) (f first a below : Nat) : Bool :=
  let h := lineHeader rd a
  h % 16 != f || decide (2 ≤ lineKind h) || lineKind h != first || h / 64 != 0
    || (lineKind h == 1 && (List.range ((min below (lineLen 1 f) + 3) / 4)).any fun g => maskBelow (lineMask rd a g) 4 != 2)

/-! ## Accumulation (R176-R179) -/

/-- Whether the accumulator is INT32 (R176). -/
def accInt (w : BitVec 64) : Bool :=
  (fwFA w == 6 || fwFA w == 7) && (fwFB w == 6 || fwFB w == 7) && !fwSCA w && !fwSCB w

/-- One chunk into an FP32 accumulator (R178). -/
def accFp (acc : BitVec 32) (ps : List (Val × Val)) : BitVec 32 × BitVec 5 :=
  let sum := toF32 .rne (ps.foldl (fun v p => v.add (p.1.mul p.2)) (.zero false))
  let r := fadd .rne acc sum
  if f32 r = .nan then (nan32, fmtMnan) else (r, 0)

/-- One chunk into an INT32 accumulator (R179). -/
def accI32 (acc : BitVec 32) (ps : List (Int × Int)) : BitVec 32 × BitVec 5 :=
  let t := acc.toInt + ps.foldl (fun x p => x + p.1 * p.2) 0
  (BitVec.ofInt 32 t, if t < -2147483648 ∨ 2147483647 < t then fmtMiovf else 0)

/-- An integer operand value. -/
def Val.int (v : Val) : Int := v.rat.floor

/-- The positions of chunk q below K. -/
def chunkSpan (w : BitVec 64) (k q : Nat) : List Nat :=
  let lo := q * chunkLen w
  (List.range (min (chunkLen w) (k - lo))).map fun i => lo + i

/-- The chunks of a launch (R306). -/
def chunkCount (w : BitVec 64) (k : Nat) : Nat := (k + chunkLen w - 1) / chunkLen w

/-- The tile after a chunk, and the flags set: A and B give operand values, none where pruned. -/
def chunkTile (w : BitVec 64) (ks : List Nat) (va : Nat → Nat → Val) (vb : Nat → Nat → Option Val) (t : Tile) :
    Tile × BitVec 5 :=
  let one (n : Nat) : BitVec 32 × BitVec 5 :=
    let ps := ks.filterMap fun k => (vb (n % 16) k).map fun y => (va (n / 16) k, y)
    let acc := t.toArray.getD n 0
    if accInt w then accI32 acc (ps.map fun p => (p.1.int, p.2.int)) else accFp acc ps
  let all := (List.range 128).map one
  (⟨(all.map (·.1)).toArray.take 128 ++ (Array.replicate (128 - min 128 all.length) 0), by simp [all]⟩,
    all.foldl (fun m x => m ||| x.2) 0)

/-! ## Running a launch -/

/-- A tile by number. -/
def Core.tile (c : Core) (t : Nat) : Tile := c.tiles.toArray.getD t (Vector.replicate 128 0)

def Core.setTile (c : Core) (t : Nat) (x : Tile) : Core :=
  if h : t < 8 then { c with tiles := c.tiles.set t x } else c

def Core.setFinal (c : Core) (t n : Nat) : Core :=
  if h : t < 8 then { c with tileFinal := c.tileFinal.set t n } else c

/-- The cycle on which a tile is final (R306). -/
def Core.finalAt (c : Core) (t : Nat) : Nat := c.tileFinal.toArray.getD t 0

/-- Start of `mma` or `mma.sp` on this cycle (R306): the tile is zeroed under Z and kept for a launch that stops. -/
def Core.startMma (c : Core) (m : Cmd) (zero : Bool) (tile k : Nat) (w : BitVec 64) (now : Nat) : Core :=
  let n := chunkCount w k
  let old := (c.tile tile).toArray.toList
  let c1 := if zero then c.setTile tile (Vector.replicate 128 0) else c
  (c1.setFinal tile (now + n + 3)).modEng .matrix fun g =>
    { g with freeAt := now + n, running := g.running ++ [{ m with saved := old, doneAt := some (now + n + 3) }] }

/-- KIND of line 0 of the 16 columns, as read with chunk 0 (R310). -/
def Core.columnKinds (c : Core) (b ld : Nat) : List Nat :=
  (List.range 16).map fun j => lineKind (lineHeader (memGet c.wb) (b - 0x30000000 + 16 * ld * j))

/-- Some line that chunk positions [lo, hi) of a column need is bad (R310). -/
def Core.columnBad (c : Core) (f kind base k lo hi : Nat) : Bool :=
  let len := lineLen kind f
  (List.range (hi / len - lo / len + 1)).any fun i =>
    let l := lo / len + i
    decide (l * len < hi) && lineBad (memGet c.wb) f kind (base + 128 * l) (k - l * len)

/-- Chunk q of a launch on this cycle (R306), or its stop on LINE or PENDING. -/
def Core.chunk (c : Core) (m : Cmd) (now : Nat) : Core :=
  match m.launch.kind with
  | .mma _ sparse tile k a b w slot =>
    let ks := chunkSpan w k m.pos
    let lo := m.pos * chunkLen w
    let hi := lo + ks.length
    let kinds := if m.pos = 0 ∧ sparse then c.columnKinds b (fwLDB w) else m.idx
    let base (j : Nat) : Nat := b - 0x30000000 + 16 * fwLDB w * j
    let stop (sub : Nat) : Core :=
      let c1 := (c.setTile tile ⟨(m.saved.take 128 ++ List.replicate (128 - (m.saved.take 128).length) 0).toArray, by simp⟩)
      ((c1.setFinal tile now).modEng .matrix fun g => { g with freeAt := now + 1 }).stopCmd .matrix m sub now
    if sparse ∧ ((List.range 16).any fun j => decide (2 ≤ kinds.getD j 2) || c.columnBad (fwFB w) (kinds.getD j 2) (base j) k lo hi)
    then stop 11
    else if c.pendEng ∧ (chunkReads m.launch.kind m.pos).any fun r => c.operandPending r.1 r.2 then stop 12
    else
      let rd : Nat → Byte := timedByte c.scr c.timed false now
      let cv := c.curves.toArray.getD slot Curve.identity
      let va (i n : Nat) : Val := rowVal rd cv (fwFA w) (fmtScaled (fwFA w) (fwSCA w)) (a + 16 * fwLDA w * i) (fwSOFA w) n
      let vb (j n : Nat) : Option Val :=
        if sparse then
          let kind := kinds.getD j 0
          let len := lineLen kind (fwFB w)
          lineVal (memGet c.wb) cv (fwFB w) (fmtScaled (fwFB w) (fwSCB w)) kind (base j + 128 * (n / len)) (n % len)
        else some (rowVal rd cv (fwFB w) (fmtScaled (fwFB w) (fwSCB w)) (b + 16 * fwLDB w * j) (fwSOFB w) n)
      let t := chunkTile w ks va vb (c.tile tile)
      ((c.setTile tile t.1).engFmt t.2).setCmd .matrix { m with pos := m.pos + 1, due := now + 1, idx := kinds }
  | _ => c

/-- MATRIX_COMPLETE (R306): the tile is final and the tag is set. -/
def execMatrixComplete (id : Nat) (s : State) : Out :=
  match s.core.cmd? .matrix id with
  | none => .next s
  | some m =>
    match m.launch.kind, m.doneAt with
    | .mma _ _ _ k _ _ w _, some d =>
      if d ≤ s.now ∧ chunkCount w k ≤ m.pos then .next (s.mod fun c => c.endCmd .matrix m false) else .next s
    | _, _ => .next s

/-! ## Write-back (R307) -/

/-- Element of a tile as `mwb` writes it, and whether it was clamped; an exact zero gives +0 (R166; DEDUCED, log entry 59). -/
def mwbElem (fa : Nat) (x : BitVec 32) : List Byte × Bool :=
  if fa = 0 then (natToBytes 4 x.toNat, false)
  else if fa = 1 then (natToBytes 2 (toFmt bf16 .rne false (f32 x)).1, false)
  else
    let y := satInt (-128) 127 x.toInt
    ([BitVec.ofInt 8 y], y ≠ x.toInt)

/-- Output row i of a tile's elements. -/
def mwbRowBytes (fa : Nat) (xs : List (BitVec 32)) (i : Nat) : List Byte :=
  ((xs.drop (16 * i)).take 16).flatMap fun x => (mwbElem fa x).1

/-- The rows an `mwb` writes (R307). -/
def mwbRanges (d : Nat) (w : BitVec 64) : List (Nat × Nat) :=
  (List.range 8).map fun i => (d + 16 * fwLDA w * i, mwbRow w)

/-- Start of `mwb` on this cycle: the tile is read and cleared under CLR, the rows are locked. -/
def Core.startMwb (c : Core) (m : Cmd) (clr : Bool) (tile d : Nat) (w : BitVec 64) (now : Nat) : Core :=
  let xs := (c.tile tile).toArray.toList
  let c1 := if clr then c.setTile tile (Vector.replicate 128 0) else c
  let c2 := if xs.any fun x => (mwbElem (fwFA w) x).2 then c1.engFmt fmtSat else c1
  (c2.addLock .matrix m.id (mwbRanges d w)).modEng .matrix fun g =>
    { g with freeAt := now + 8
             running := g.running ++ [{ m with saved := xs, due := now + 1, doneAt := some (now + 11) }] }

/-- Write output row `pos` on this cycle, or, when the bank's write port is taken, let it and the rest move one cycle on (R67,
R307). -/
def Core.mwbStep (c : Core) (m : Cmd) (now : Nat) : Core :=
  match m.launch.kind with
  | .mwb _ _ d w =>
    let a := d + 16 * fwLDA w * m.pos
    if c.writeTaken now a (mwbRow w) then c.setCmd .matrix { m with due := now + 1, doneAt := m.doneAt.map (· + 1) }
    else ((c.takeWrite now a (mwbRow w) false).setCmd .matrix { m with
        pos := m.pos + 1, due := now + 1, buf := m.buf ++ cellsAt a (mwbRowBytes (fwFA w) m.saved m.pos) }).strikeEngine
      .matrix m.launch.tag true (span a (mwbRow w)) now
  | _ => c

/-- The row writes of `mwb` of this cycle are still to be made. -/
def mwbDue (m : Cmd) (now : Nat) : Bool :=
  match m.launch.kind with
  | .mwb .. => decide (m.due ≤ now) && decide (m.pos < 8)
  | _ => false

/-- MWB_COMPLETE (R307): rows exposed, lock released, tag set. -/
def execMwbComplete (id : Nat) (s : State) : Out :=
  match s.core.cmd? .matrix id with
  | none => .next s
  | some m =>
    match m.launch.kind, m.doneAt with
    | .mwb .., some d =>
      if d ≤ s.now ∧ 8 ≤ m.pos then .next (s.mod fun c => (c.scrPut m.buf).endCmd .matrix m false) else .next s
    | _, _ => .next s

end Sys2Proof.Machine
end

