-- ==== Sys2Proof/Machine/Copy.lean ====
section
/-! DEFINITION. The copy engine at work: addresses in iteration order, index rows, timed and untimed reads, writes,
poison, completion (13 R312-R317, 04 R74, R75, R80, 16 R361). -/

namespace Sys2Proof.Machine

/-! ## Geometry (R313, R315, R316) -/

/-- The address a place's offsets start from, and whether it is local. -/
def Place.base : Place → Nat
  | .loc a => a
  | .tok t off => t.vbase.toNat + off

def Place.isLocal : Place → Bool
  | .loc _ => true
  | .tok .. => false

/-- The token of a place. -/
def Place.token? : Place → Option Token
  | .loc _ => none
  | .tok t _ => some t

/-- Source and destination of a launch of the copy engine; the destination of `wbfill` is a local address. -/
def LaunchKind.places : LaunchKind → Place × Place
  | .copy _ _ s d | .gather _ _ _ s d | .scatter _ _ _ s d | .coll _ _ _ _ _ s d => (s, d)
  | .wbfill _ s d => (s, .loc d)
  | _ => (.loc 0, .loc 0)

/-- The offset of element e: dimension 0 varies fastest (R313). -/
def dimOffset (stride : Dim → Int) : List Dim → Nat → Int
  | [], _ => 0
  | d :: ds, e => ((e % d.count : Nat) : Int) * stride d + dimOffset stride ds (e / d.count)

/-- Elements of a copy. -/
def dimCount (ds : List Dim) : Nat := ds.foldl (fun n d => n * d.count) 1

/-- Element size and count of a launch; `members` gives the size of a collective's group. -/
def LaunchKind.shape (k : LaunchKind) (members : Nat) : Nat × Nat :=
  match k with
  | .copy size ds _ _ => (size, dimCount ds)
  | .gather e _ n _ _ | .scatter e _ n _ _ => (2 ^ e, n)
  | .wbfill n _ _ => (128, n)
  | .coll kind _ dt _ n _ _ => (1, (collBytes kind dt n members).1)
  | _ => (1, 0)

/-- Bytes a launch moves. -/
def LaunchKind.total (k : LaunchKind) (members : Nat) : Nat := (k.shape members).1 * (k.shape members).2

/-- Index e of the index bytes read. -/
def indexOf (bs : List Nat) (e : Nat) : Nat :=
  ((bs.drop (4 * e)).take 4).foldr (fun b n => b + 256 * n) 0

/-- Whether an indexed element leaves its extent or region (R58, R315). -/
def Core.elemNull (c : Core) (p : Place) (off n : Nat) : Bool :=
  match p with
  | .tok t o => decide (t.len < o + off + n)
  | .loc a => localCheck c.poolMb (a + off) n true != regionOf c.poolMb a

/-- The address byte i of the iteration is read from; none in a null element. -/
def Core.srcAt (c : Core) (m : Cmd) (members i : Nat) : Option Nat :=
  let k := m.launch.kind
  let size := (k.shape members).1
  let e := i / size
  let base := k.places.1.base
  match k with
  | .copy _ ds _ _ => some ((base : Int) + dimOffset Dim.sstride ds e + (i % size : Nat)).toNat
  | .gather _ _ _ s _ =>
    let off := indexOf m.idx e * size
    if c.elemNull s off size then none else some (base + off + i % size)
  | _ => some (base + i)

/-- The address byte i is written to; none in a null element. A collective's bytes are kept by number. -/
def Core.dstAt (c : Core) (m : Cmd) (members i : Nat) : Option Nat :=
  let k := m.launch.kind
  let size := (k.shape members).1
  let e := i / size
  let base := k.places.2.base
  match k with
  | .copy _ ds _ _ => some ((base : Int) + dimOffset Dim.dstride ds e + (i % size : Nat)).toNat
  | .scatter _ _ _ _ d =>
    let off := indexOf m.idx e * size
    if c.elemNull d off size then none else some (base + off + i % size)
  | .coll .. => some i
  | _ => some (base + i)

/-- The number of members of a command's group. -/
def State.membersOf (s : State) (k : LaunchKind) : Nat :=
  match k with
  | .coll _ _ _ g _ _ _ => ((s.groupOf g).map List.length).getD 0
  | _ => 0

/-! ## Rows of the own scratchpad and lines of the weight buffer (R74, R297, R311) -/

/-- The rows of the own scratchpad, by its own alias, and the weight-buffer lines among local bytes [a, a + n). -/
def Core.ownRanges (c : Core) (a n : Nat) : List (Nat × Nat) :=
  if n = 0 then []
  else match regionOf c.poolMb a with
    | some .scratch => [(a, n)]
    | some .weight => [(a, n)]
    | some .csm =>
      let lo := max a (0x10000000 + posOf c.phys * 0x100000)
      let hi := min (a + n) (0x10000000 + posOf c.phys * 0x100000 + 0x100000)
      if lo < hi then [(csmAddr (lo - 0x10000000), hi - lo)] else []
    | _ => []

/-- The rows a place touches over offsets [lo, hi). -/
def Core.placeRows (c : Core) (p : Place) (lo hi : Int) : List (Nat × Nat) :=
  match p with
  | .loc a => c.ownRanges ((a : Int) + lo).toNat (hi - lo).toNat
  | .tok .. => []

/-- Rows and lines a launch locks from its start (R74, R311). -/
def Core.lockRows (c : Core) (k : LaunchKind) (members : Nat) : List (Nat × Nat) :=
  match k with
  | .copy size ds _ d => if k.total members = 0 then [] else c.placeRows d (dstBounds size ds).1 (dstBounds size ds).2
  | .gather e _ n _ d => c.placeRows d 0 ((n * 2 ^ e : Nat) : Int)
  | .scatter .. => []
  | .wbfill n _ d => c.placeRows (.loc d) 0 ((n * 128 : Nat) : Int)
  | .coll kind _ dt _ n _ d => c.placeRows d 0 (((collBytes kind dt n members).2 : Nat) : Int)
  | .mwb _ _ d w => mwbRanges d w
  | .lcapV d => [(d, 256)]
  | .lcapO k d => [(d, 2 * k)]
  | _ => []

/-- The lines of the 16 columns of a sparse-capable B, by the KIND of each column's line 0 as it stands (R304, R308); a column
with a bad line 0 is read no further (R310). -/
def Core.columnLines (c : Core) (b ld f k : Nat) : List (Nat × Nat) :=
  (c.columnKinds b ld).zipIdx.map fun x =>
    (b + 16 * ld * x.2, if 2 ≤ x.1 then 128 else (k + lineLen x.1 f - 1) / lineLen x.1 f * 128)

/-- Rows and lines a launch reads that the lock test of its start sees; a gather's indexed rows are not known then
(R297). -/
def Core.readRows (c : Core) (k : LaunchKind) (members : Nat) : List (Nat × Nat) :=
  match k with
  | .mma _ sparse _ kk a b w _ =>
    (mmaReads sparse kk a b w).1 ++ if sparse then c.columnLines b (fwLDB w) (fwFB w) kk else (mmaReads sparse kk a b w).2
  | .copy size ds s _ => if k.total members = 0 then [] else c.placeRows s (srcBounds size ds).1 (srcBounds size ds).2
  | .gather _ i n _ _ => [(i, 4 * n)]
  | .scatter e i n s _ => (i, 4 * n) :: c.placeRows s 0 ((n * 2 ^ e : Nat) : Int)
  | .wbfill n s _ => c.placeRows s 0 ((n * 128 : Nat) : Int)
  | .coll kind _ dt _ n s _ => c.placeRows s 0 (((collBytes kind dt n members).1 : Nat) : Int)
  | .ldly n _ src => [(src, 128 * n)]
  | .llaunch _ row => [(row, 256)]
  | _ => []

/-- A lock of a started command covers a row or line the launch touches (R74, R297). -/
def Core.launchLocked (c : Core) (k : LaunchKind) (members : Nat) : Bool :=
  (c.lockRows k members ++ c.readRows k members).any fun r => decide (r.2 ≠ 0) && c.lockedAt r.1 (r.1 + r.2)

/-- A lock that another command took before the one given took its own covers a byte of the own scratchpad (R74). -/
def Core.lockedBefore (c : Core) (id a n : Nat) : Bool :=
  (c.locks.takeWhile fun l => !(l.eng == .copy && l.cmd == id)).any fun l => l.ranges.any fun r =>
    decide (r.1 / 64 * 64 < a + n) && decide (a < (r.2 + 63) / 64 * 64)

/-! ## Reading -/

/-- Whether a command's source is read as timed rows of the own scratchpad (R317). -/
def Core.timedSource (c : Core) (k : LaunchKind) : Bool :=
  match k.places.1 with
  | .loc a => regionOf c.poolMb a == some .scratch
  | .tok .. => false

/-- Whether a command's destination is written with its tag: own scratchpad by the own alias, or weight buffer (R68). -/
def Core.heldDest (c : Core) (k : LaunchKind) : Bool :=
  match k.places.2 with
  | .loc a => regionOf c.poolMb a == some .scratch || regionOf c.poolMb a == some .weight
  | .tok .. => false

/-- The space and address of an address of a place. -/
def State.placeAddr (s : State) (p : Place) (a : Nat) : Space × Nat :=
  match p with
  | .loc _ => match regionOf s.core.poolMb a with
    | some r => s.core.spaceOf r a
    | none => (.own, a)
  | .tok t _ =>
    let e := s.entry t.index.toNat
    (e.space, e.offset + e.phys a)

/-- How many bytes from i on lie in the bank row of the first, in iteration order; null bytes need no row (R317). -/
def rowRun (src : Nat → Option Nat) (row : Option Nat) (i : Nat) : Nat → Nat
  | 0 => 0
  | fuel + 1 =>
    match src i, row with
    | none, _ => 1 + rowRun src row (i + 1) fuel
    | some a, none => 1 + rowRun src (some (a / 64)) (i + 1) fuel
    | some a, some r => if a / 64 = r then 1 + rowRun src row (i + 1) fuel else 0

/-- How many bytes from i on an untimed read takes at once: one aligned piece of at most 8 bytes of one element, or the
rest of a null element (R77). -/
def pieceRun (src : Nat → Option Nat) (size i : Nat) : Nat :=
  let left := size - i % size
  match src i with
  | none => left
  | some a => min left (8 - a % 8)

/-- The line of a destination address, as one write of the engine covers it (R80). -/
def destLine (p : Place) (a : Nat) : Nat := if p.isLocal then a / 64 else a / 128

/-- The destination bytes of the write that ends with byte i: those of its line, back along the iteration. -/
def runBack (p : Place) (dst : Nat → Option Nat) (line : Nat) : Nat → Nat → List Nat
  | 0, _ => []
  | fuel + 1, i =>
    match dst i with
    | none => []
    | some a => if destLine p a = line then a :: (if i = 0 then [] else runBack p dst line fuel (i - 1)) else []

/-- The writes that end within bytes [i, i + n) of the iteration (R409). -/
def runsEnded (p : Place) (dst : Nat → Option Nat) (total i n : Nat) : List (List Nat) :=
  (List.range n).filterMap fun j =>
    match dst (i + j) with
    | none => none
    | some a =>
      let last := i + j + 1 = total ∨ (dst (i + j + 1)).map (destLine p) ≠ some (destLine p a)
      if last then some (runBack p dst (destLine p a) 128 (i + j)) else none

/-- Null elements that begin within bytes [i, i + n). -/
def nullStarts (at' : Nat → Option Nat) (size i n : Nat) : Nat :=
  ((List.range n).filter fun j => (i + j) % size = 0 && (at' (i + j)).isNone).length

/-- Count null elements (R58, R315). -/
def Core.countNulls (c : Core) (n : Nat) : Core := (List.range n).foldl (fun c _ => c.engNull .oob) c

/-- The first byte of the line or row of a place that an address lies in (R360). -/
def lineStart (p : Place) (a : Nat) : Nat := if p.isLocal then a / 64 * 64 else a / 128 * 128

/-- The SRC 5 report of a poisoned or failing line (R360, R361). -/
def engReport (now : Nat) (bad : Option Nat) (p : Place) (a : Nat) : PoisonReport :=
  ⟨now, bad.isSome, 5, 1, BitVec.ofNat 56 (lineStart p a), bad⟩

/-- What a command reads of byte i: its source's byte, or a byte it has itself written there earlier, of free choice
(R314); 0 in a null element. -/
def State.copyByte (s : State) (m : Cmd) (members i : Nat) : Byte :=
  match s.core.srcAt m members i with
  | none => 0
  | some a =>
    let p := m.launch.kind.places.1
    let own := s.core.timedSource m.launch.kind
    let x := s.placeAddr p a
    let plain := if own then timedByte s.core.scr s.core.timed false s.now a else s.spaceByte x.1 x.2
    if own ∧ s.core.heldDest m.launch.kind ∧ Config.choice (s.fv + i) then
      match m.buf.reverse.find? fun w => w.1 = a with
      | some w => w.2
      | none => plain
    else plain

/-- The command after reading n bytes from its position: their writes are issued and struck (R409). -/
def State.copyTake (s : State) (m : Cmd) (members n next : Nat) : State :=
  let k := m.launch.kind
  let total := k.total members
  let src := s.core.srcAt m members
  let dst := s.core.dstAt m members
  let cells := (List.range n).filterMap fun j => (dst (m.pos + j)).map fun a => (a, s.copyByte m members (m.pos + j))
  let nulls := nullStarts src (k.shape members).1 m.pos n + nullStarts dst (k.shape members).1 m.pos n
  let p := k.places.2
  let runs := match k with
    | .coll .. => []
    | _ => runsEnded p dst total m.pos n
  let m' := { m with
    pos := m.pos + n, due := next, buf := m.buf ++ cells, null := m.null || decide (nulls ≠ 0)
    doneAt := if m.pos + n = total then some (s.now + 1 + Config.untimedDelay s.fv) else none }
  { s with
    core := runs.foldl (fun c r => c.strikeEngine .copy m.launch.tag p.isLocal (fun b => r.contains b) s.now)
      ((s.core.setCmd .copy m').countNulls nulls)
    fv := s.fv + 1 }

/-- The command stops at a poisoned line: what it has read stays written, its tag follows (R361). -/
def State.copyPoison (s : State) (m : Cmd) (members : Nat) (r : PoisonReport) : State :=
  s.mod fun c => c.setCmd .copy { m with pos := m.launch.kind.total members, null := true, poison := some r, doneAt := some (s.now + 1) }

/-- The index rows still to be read of a gather or scatter: address and number of the next bytes (R315). -/
def indexRow (m : Cmd) : Option (Nat × Nat) :=
  match m.launch.kind with
  | .gather _ i n _ _ | .scatter _ i n _ _ =>
    if m.idx.length < 4 * n then
      let a := i + m.idx.length
      some (a, min ((a / 64 + 1) * 64) (i + 4 * n) - a)
    else none
  | _ => none

/-- A bank the copy engine needs is taken on this cycle (R67). -/
def Core.copyPortLost (c : Core) (now a n : Nat) : Bool := c.matrixReads now a n || c.bankTaken now a n

/-- A command of the copy engine stops on PENDING: the engine halts, and a collective held at its head has not started (R301,
R320). -/
def State.copyStop (s : State) (m : Cmd) : State :=
  let s1 := match s.core.copy.held with
    | some h => State.mod (s.noteColl h.kind false 0) fun c => match h.kind with
      | .coll .. => c.setTag .copy h.tag true
      | _ => c
    | none => s
  s1.mod fun c => c.stopCmd .copy m 12 s.now

/-- Read a row of indices (R315). -/
def State.readIndex (s : State) (m : Cmd) (a n : Nat) : State :=
  if s.core.copyPortLost s.now a n then s.mod fun c => c.setCmd .copy { m with due := s.now + 1 }
  else if s.core.pendEng ∧ s.core.operandPending a n then s.copyStop m
  else s.mod fun c => (c.takePort s.now a n).setCmd .copy
    { m with idx := m.idx ++ (c.scrRead s.now a n).map BitVec.toNat, due := s.now + 1 }

/-- A request of the copy engine to a lender goes out on its port (R127). -/
def State.sendPiece (s : State) (sp : Space) (a : Nat) : State :=
  match sp with
  | .lent pkg =>
    match s.wayOut pkg a with
    | some q => s.modPort q fun x => x.send pkg
    | none => s
  | _ => s

/-- The rows of the own scratchpad a scatter writes, element by element (R74). -/
def Core.scatterRows (c : Core) (m : Cmd) : List (Nat × Nat) :=
  match m.launch.kind with
  | .scatter e _ n _ _ => (List.range n).flatMap fun j =>
      match c.dstAt m 0 (j * 2 ^ e) with
      | some a => if m.launch.kind.places.2.isLocal then c.ownRanges a (2 ^ e) else []
      | none => []
  | _ => []

/-- A scatter that has read its last index row takes its lock on the next cycle (R74, R315). -/
def scatterLocks (m : Cmd) (now : Nat) : Bool :=
  (match m.launch.kind with
    | .scatter .. => m.shift == 0
    | _ => false) && (indexRow m).isNone && decide (m.due ≤ now)

def Core.scatterLock (c : Core) (m : Cmd) : Core :=
  (c.addLock .copy m.id (c.scatterRows m)).setCmd .copy { m with shift := 1 }

/-- A read step of a command of the copy engine that is due: an index row, a row of the own scratchpad, or a piece of
another source. -/
def State.copyRead (s : State) (m : Cmd) : Out :=
  let k := m.launch.kind
  let members := s.membersOf k
  match indexRow m with
  | some (a, n) => .next (s.readIndex m a n)
  | none =>
    if scatterLocks m s.now then .next (s.mod fun c => c.scatterLock m)
    else
      let src := s.core.srcAt m members
      let left := k.total members - m.pos
      if s.core.timedSource k then
        let n := rowRun src none m.pos left
        let addrs := (List.range n).filterMap fun j => src (m.pos + j)
        match addrs with
          | [] => .next (s.copyTake m members n (s.now + 1))
          | a :: _ =>
            if s.core.copyPortLost s.now a 1 then .next (s.mod fun c => c.setCmd .copy { m with due := s.now + 1 })
            else if s.core.pendEng ∧ addrs.any fun a => s.core.operandPending a 1 then .next (s.copyStop m)
            else .next (State.mod (s.copyTake m members n (s.now + 1)) fun c => c.takePort s.now a 1)
      else
        let n := min left (pieceRun src (k.shape members).1 m.pos)
        match src m.pos with
        | none => .next (s.copyTake m members n s.again)
        | some a =>
          let x := s.placeAddr k.places.1 a
          if s.poisonIn x.1 x.2 n then .next (s.copyPoison m members (engReport s.now none k.places.1 a))
          else if s.macBad x.1 x.2 n then
            .next (s.copyPoison m members (engReport s.now (s.firstLine x.1 x.2 n .badMac) k.places.1 a))
          else match undecoded x.1 [(x.2, n)] with
            | some y => .fault (.notDecoded y)
            | none => .next (State.copyTake (((s.takeCsm x.1 x.2 n).countCorrected x.1 x.2 n).sendPiece x.1 x.2) m members n s.again)

/-- A local address as the own alias names it, where it does. -/
def Core.ownName (c : Core) (a : Nat) : Nat :=
  if regionOf c.poolMb a = some .csm ∧ csmCore (clusterOf c.phys) (a - 0x10000000) = c.phys then csmAddr (a - 0x10000000) else a

/-- An access of the strand reaches n bytes of a place. -/
def Core.reaches (c : Core) (a : Access) (p : Place) (n : Nat) : Bool :=
  match p with
  | .loc b => !a.isToken && decide (c.ownName a.va < c.ownName b + n) && decide (c.ownName b < c.ownName a.va + a.n)
  | .tok t o => a.isToken && decide (a.va < t.vbase.toNat + o + n) && decide (t.vbase.toNat + o < a.va + a.n)

/-- What a collective's launch is a release of has been performed: the strand's earlier accesses to the two buffers it names, and
the stores they came after, in every die, as for a release of scope DM (R93, R97, R107). -/
def State.collReleased (s : State) (m : Cmd) : Bool :=
  match m.launch.kind with
  | .coll kind _ dt _ count src dst =>
    let n := collBytes kind dt count (s.membersOf m.launch.kind)
    let r := m.launch.rel
    decide (r.clear ≤ s.now) && r.msc.isEmpty
      && s.core.acc.all (fun a => decide (r.acc ≤ a.id) || !(s.core.reaches a src n.1 || s.core.reaches a dst n.2))
      && s.reached r.dep
  | _ => true

/-- The next piece of a source that is not the own scratchpad can be read on this cycle: the read port of its bank is free
(R67), a request to a lender can leave (R127, R128). -/
def State.sourceOpen (s : State) (m : Cmd) : Bool :=
  let k := m.launch.kind
  if s.core.timedSource k ∨ (indexRow m).isSome then true
  else match s.core.srcAt m (s.membersOf k) m.pos with
    | none => true
    | some a =>
      let x := s.placeAddr k.places.1 a
      match x.1 with
      | .csm q => s.csmReadPort q x.2 1
      | .pool d => s.poolFree d x.2 1 false
      | .lent p => (s.wayOut p x.2).isSome
      | _ => true

/-- A read step is due: the command has bytes to read, its cycle has come, and what it comes after is done. -/
def State.copyReadDue (s : State) (m : Cmd) : Bool :=
  decide (m.due ≤ s.now) && decide (m.pos < m.launch.kind.total (s.membersOf m.launch.kind)) && s.sourceOpen m && s.collReleased m

/-! ## Writing -/

/-- The leading cells of a list that make one aligned piece of at most 8 bytes. -/
def headPiece : List Host.Cell → List Host.Cell
  | [] => []
  | c :: cs => c :: ((cs.zipIdx.takeWhile fun x => x.1.1 = c.1 + x.2 + 1 && x.1.1 / 8 = c.1 / 8).map (·.1))

/-- The first 128 cells are one whole line, in order. -/
def wholeLine (cs : List Host.Cell) : Bool :=
  match cs.head? with
  | none => false
  | some c => c.1 % 128 == 0 && (cs.take 128).map (·.1) == (List.range 128).map fun i => c.1 + i

/-- The line of the first cell has been read to its end: a later line follows, or nothing is left to read. -/
def headComplete (m : Cmd) : Bool :=
  let p := m.launch.kind.places.2
  match m.buf with
  | [] => false
  | c :: cs => m.doneAt.isSome || cs.any fun x => destLine p x.1 != destLine p c.1

/-- What is performed next of a command's issued writes: a whole line that clears a poisoned one, or a piece (R80). -/
def State.nextWrite (s : State) (m : Cmd) : List Host.Cell :=
  match m.launch.kind.places.2, m.buf with
  | .tok t _, c :: _ =>
    let e := s.entry t.index.toNat
    if e.home = none ∧ wholeLine m.buf ∧ s.poisonLines.contains (e.phys c.1 / 128) then m.buf.take 128 else headPiece m.buf
  | _, b => headPiece b

/-- A command's next write to a byte of a cluster's CSM is held at its bank: the core is stopped (R405), or a row is locked,
one of the own core by an earlier command (R74). -/
def State.flushHeld (s : State) (m : Cmd) (q a : Nat) : Bool :=
  match s.coreAt (csmCore q a) with
  | some x => x.ctx == .frozen
      || (if x.phys = s.core.phys then x.lockedBefore m.id (csmAddr a) 1 else x.lockedAt (csmAddr a) (csmAddr a + 1))
  | none => false

/-- A command has writes to anything but a held destination to perform. -/
def State.flushing (s : State) (m : Cmd) : Bool :=
  let k := m.launch.kind
  !s.core.heldDest k
    && (match k with
        | .coll .. => m.shift == 1
        | _ => headComplete m && !(s.core.pendEng && s.core.timedSource k && m.doneAt.isNone))

/-- A write that finds its bank held or taken keeps its place there (R74, R115). -/
def State.copyHold (s : State) (m : Cmd) : State :=
  match m.buf with
  | [] => s
  | c :: _ =>
    match s.placeAddr m.launch.kind.places.2 c.1 with
    | (.csm q, a) =>
      if s.flushing m ∧ m.arrived.isNone ∧ (s.flushHeld m q a ∨ ¬s.csmPort q a 1) then
        s.mod fun k => k.setCmd .copy { m with arrived := some (s.now, csmCore q a, csmAddr a / 64) }
      else s
    | (.pool d, a) =>
      if s.flushing m ∧ m.arrived.isNone ∧ ¬s.poolFree d a 1 false then
        s.mod fun k => k.setCmd .copy { m with arrived := some (s.now, 256 + d, a / 64) }
      else s
    | _ => s

/-- Writes of a command to anything but a held destination may be performed now (R74, R75). -/
def State.copyFlushDue (s : State) (m : Cmd) : Bool :=
  let k := m.launch.kind
  s.flushing m
    && (match m.buf with
        | [] => false
        | c :: _ =>
          match s.placeAddr k.places.2 c.1 with
          | (.csm q, a) => !s.flushHeld m q a && s.csmPort q a 1
            && !s.heldSince false (csmCore q a) (csmAddr a / 64) ((m.arrived.map (·.1)).getD s.now)
          | (.pool d, a) => s.poolFree d a 1 false && !s.heldSince false (256 + d) (a / 64) ((m.arrived.map (·.1)).getD s.now)
          | (.lent pkg, a) => (s.wayOut pkg a).isSome
          | _ => true)

/-- Perform the next write of a command (R75, R101). -/
def State.copyFlush (s : State) (m : Cmd) : Out :=
  let p := m.launch.kind.places.2
  let w := s.nextWrite m
  let cells := w.map fun c => ((s.placeAddr p c.1).2, c.2)
  let rest := m.buf.drop w.length
  match (s.placeAddr p (w.headD (0, 0)).1).1 with
  | .main =>
    match undecoded .main (cells.map fun c => (c.1, 1)) with
    | some y => .fault (.notDecoded y)
    | none =>
      let d := dieOf s.core.phys
      let s1 := s.storeMain d cells
      .next { s1 with
        core := s1.core.setCmd .copy { m with buf := rest, exports := s1.lastNum d, arrived := none }
        poisonLines := if w.length = 128 then s1.poisonLines.filter fun l => l ≠ (cells.headD (0, 0)).1 / 128 else s1.poisonLines }
  | sp =>
    .next (State.mod ((s.sendPiece sp (cells.headD (0, 0)).1).putSpace sp cells) fun c =>
      c.setCmd .copy { m with buf := rest, arrived := none })

/-! ## Start and completion -/

/-- Start of a command of the copy engine on this cycle (R297, R317). -/
def State.startCopy (s : State) (m : Cmd) : State :=
  let k := m.launch.kind
  let members := s.membersOf k
  let timed := s.core.timedSource k || (match k with
    | .gather .. | .scatter .. => true
    | _ => false)
  let m' := { m with due := if timed then s.now else s.dueCycle }
  if k.total members = 0 then s.mod fun c => (c.setTag .copy m.launch.tag false)
  else
    { s with
      core := (s.core.addLock .copy m.id (s.core.lockRows k members)).modEng .copy fun g => { g with running := g.running ++ [m'] }
      fv := s.fv + 1 }

/-- Every store of a command has been applied in all dies (R98). -/
def State.exportsDone (s : State) (m : Cmd) : Bool :=
  (List.range 4).all fun f => decide (m.exports ≤ s.countIn f (dieOf s.core.phys))

/-- The bytes a held destination takes with the tag (R68). -/
def Core.exposeHeld (c : Core) (m : Cmd) : Core :=
  match m.launch.kind.places.2 with
  | .loc a =>
    if regionOf c.poolMb a = some .weight then { c with wb := memPut c.wb (m.buf.map fun x => (x.1 - 0x30000000, x.2)) }
    else c.scrPut m.buf
  | .tok .. => c

/-- The end of a command: held writes exposed, locks released, tag set, poison posted (R68, R317, R361). -/
def Core.finishCopy (c : Core) (m : Cmd) (now : Nat) : Core :=
  let c1 := (if c.heldDest m.launch.kind then c.exposeHeld m else c).endCmd .copy m m.null
  match m.poison with
  | some r => { c1 with engPoison := c1.engPoison ++ [{ r with cycle := now }] }
  | none => c1

/-- A command that is not a collective can complete: read, written and applied everywhere, its rows free of others'
locks (R74, R98). -/
def State.copyReady (s : State) (m : Cmd) : Bool :=
  (match m.launch.kind with
    | .coll .. => false
    | _ => true)
  && (match m.doneAt with
    | some d => decide (d ≤ s.now)
    | none => false)
  && (if s.core.heldDest m.launch.kind then
        (match m.launch.kind with
          | .scatter .. => m.buf.all fun x => !s.core.lockedBefore m.id x.1 1
          | _ => true)
      else m.buf.isEmpty && s.exportsDone m)

/-- COPY_COMPLETE (R317). -/
def execCopyComplete (id : Nat) (s : State) : Out :=
  match s.core.cmd? .copy id with
  | none => .next s
  | some m => if s.copyReady m then .next (s.mod fun c => c.finishCopy m s.now) else .next s

end Sys2Proof.Machine
end

