-- ==== Sys2Proof/Machine/Collective.lean ====
section
/-! DEFINITION. Collectives: the tree of a reduction, the members' commands, completion and failure
(13 R318-R320, 17 R376, R377). -/

namespace Sys2Proof.Machine

/-! ## Values (R319, R377) -/

/-- The node operation on FP32, BF16 (widened) and INT32 values (R319). -/
def combine (op dt : Nat) (a b : BitVec 32) : BitVec 32 :=
  if dt = 2 then
    (if op = 0 then a + b else if op = 1 then (if a.slt b then b else a) else if b.slt a then b else a)
  else (if op = 0 then fadd .rne a b else if op = 1 then fmax a b else fmin a b)

/-- T(lo, hi) over leaf values (R377). -/
def treeGo (f : Nat → BitVec 32) (g : BitVec 32 → BitVec 32 → BitVec 32) : Nat → Nat → Nat → BitVec 32
  | 0, lo, _ => f lo
  | fuel + 1, lo, hi =>
    if hi ≤ lo + 1 then f lo
    else
      let mid := lo + 2 ^ Nat.log2 (hi - lo - 1)
      g (treeGo f g fuel lo mid) (treeGo f g fuel mid hi)

/-- The fixed value T(0, G) of a reduction (R377). -/
def treeValue (members : Nat) (g : BitVec 32 → BitVec 32 → BitVec 32) (f : Nat → BitVec 32) : BitVec 32 :=
  treeGo f g members 0 members

/-- A leaf from its bytes: BF16 is widened (R319). -/
def leafOf (dt : Nat) (bs : List Byte) : BitVec 32 :=
  if dt = 1 then BitVec.ofNat 32 (bytesToNat bs * 65536) else BitVec.ofNat 32 (bytesToNat bs)

/-- The bytes of a root value: BF16 is rounded once (R319). -/
def rootBytes (dt : Nat) (x : BitVec 32) : List Byte :=
  if dt = 1 then natToBytes 2 (bf16.round .rne (f32 x)) else natToBytes 4 x.toNat

/-- Every one of a list, if none is missing. -/
def allOf {α : Type} : List (Option α) → Option (List α)
  | [] => some []
  | none :: _ => none
  | some x :: xs => (allOf xs).map fun ys => x :: ys

/-- The bytes member r receives (R318): `src m i` is byte i of member m's source, if it has been read; a byte of the result that
some member's byte is missing for has no value. -/
def collResult (kind : CollKind) (op dt count members r : Nat) (src : Nat → Nat → Option Byte) : List (Option Byte) :=
  let size := collSize dt
  let elem (e : Nat) : List (Option Byte) :=
    match allOf ((List.range members).map fun m => allOf ((List.range size).map fun i => src m (e * size + i))) with
    | some xs => (rootBytes dt (treeValue members (combine op dt) fun m => leafOf dt (xs.getD m []))).map some
    | none => List.replicate size none
  match kind with
  | .ar => (List.range count).flatMap elem
  | .rs => (List.range count).flatMap fun j => elem (r * count + j)
  | .ag => (List.range members).flatMap fun m => (List.range (count * size)).map fun i => src m i

/-! ## The members' commands (R320) -/

/-- The physical core of a virtual core of a partition (R26). -/
def State.physCore (s : State) (part v : Nat) : Option Nat :=
  (mapGet s.parts part).bind fun p => (p.req.clusters[v / 8]?).map fun k => 8 * k + v % 8

/-- The physical core of a member of this package. -/
def State.memberCore (s : State) (part : Nat) (m : Nat × Nat) : Option Nat :=
  if m.1 = Config.packageNumber then s.physCore part m.2 else none

/-- The started command of a member's launch, on its core, while it runs. -/
def State.collCmd (s : State) (r : CollRec) : Option (Core × Cmd) :=
  if r.started then (s.coreAt r.core).bind fun c => (c.cmd? .copy r.cmd).map fun m => (c, m) else none

/-- A member's source has been read. -/
def Cmd.sourceRead (m : Cmd) (now : Nat) : Bool :=
  match m.doneAt with
  | some d => decide (d ≤ now)
  | none => false

/-- The command with its result issued, or when the collective fails with some of the bytes of it that have a value: the others keep
theirs (R320, R361). -/
def Core.collIssue (c : Core) (m : Cmd) (bs : List (Option Byte)) (failed : Bool) (fv now : Nat) : Core :=
  let p := m.launch.kind.places.2
  let dst : Nat → Option Nat := fun i => some (p.base + i)
  let cells := bs.zipIdx.filterMap fun x => if failed && Config.choice (fv + x.2) then none else x.1.map fun b => (p.base + x.2, b)
  let m' := { m with buf := cells, null := m.null || failed, shift := 1, doneAt := some now, arrived := none }
  (runsEnded p dst bs.length 0 bs.length).foldl
    (fun c r => c.strikeEngine .copy m.launch.tag p.isLocal (fun b => r.contains b && cells.any fun x => x.1 = b) now)
    (c.setCmd .copy m')

/-- The byte a member gives: one that its command has read, before its result was issued or since; free where the member is not in
this package. -/
def State.memberByte (s : State) (t : Task) (group seq : Nat) (ms : List (Nat × Nat)) (r i : Nat) : Option Byte :=
  match (ms[r]?).bind fun m => s.memberCore t.part m with
  | none => some (Config.freeByte (s.fv + r * 2 ^ 34 + i))
  | some core =>
    (t.colls.find? fun k => k.group = group && k.seq = seq && k.core = core).bind fun k =>
      let read := match s.collCmd k with
        | some x => if x.2.shift = 0 then x.2.buf else k.src
        | none => k.src
      (read.find? fun b => b.1 = i).map (·.2)

/-- Every member of this package has launched this instance and read its source. -/
def State.collReady (s : State) (t : Task) (group seq : Nat) (ms : List (Nat × Nat)) : Bool :=
  ms.all fun m =>
    match s.memberCore t.part m with
    | none => true
    | some core =>
      match (t.colls.find? fun k => k.group = group && k.seq = seq && k.core = core).bind fun k => s.collCmd k with
      | some x => x.2.sourceRead s.now
      | none => false

/-- Some member's launch has not started or its command met poison (R320, R361), or a member elsewhere failed. -/
def State.collFailed (s : State) (t : Task) (group seq : Nat) (ms : List (Nat × Nat)) : Bool :=
  (t.colls.any fun k => k.group = group && k.seq = seq && (!k.started || (s.collCmd k).any fun x => x.2.null))
    || ((ms.any fun m => (s.memberCore t.part m).isNone) && Config.choice s.fv)

/-- The rank of a core in a group. -/
def State.memberRank (s : State) (t : Task) (ms : List (Nat × Nat)) (core : Nat) : Nat :=
  (ms.findIdx? fun m => s.memberCore t.part m == some core).getD 0

/-- An instance that has failed is noted under a number that is no core's, for the members still to launch it (R320). -/
def State.noteFailed (s : State) (t : Task) (group seq : Nat) : State :=
  s.modTask t.id fun x => { x with colls := x.colls ++ [⟨group, seq, 256, false, 0, []⟩] }

/-- What the commands given have read stays with their launches, for members that launch later (R320). -/
def Task.keepRead (t : Task) (group seq : Nat) (cmds : List (Core × Cmd)) : Task :=
  { t with colls := t.colls.map fun k =>
      match cmds.find? fun x => k.group = group && k.seq = seq && k.core = x.1.phys with
      | some x => { k with src := x.2.buf }
      | none => k }

/-- Issue the results of an instance to the commands given. -/
def State.collIssue (s : State) (t : Task) (group seq : Nat) (ms : List (Nat × Nat)) (cmds : List (Core × Cmd))
    (failed : Bool) : State :=
  let src := s.memberByte t group seq ms
  let s1 := cmds.foldl (fun st x =>
    match x.2.launch.kind with
    | .coll kind op dt _ count _ _ =>
      let bs := collResult kind op dt count ms.length (s.memberRank t ms x.1.phys) src
      st.modAt x.1.phys fun c => c.collIssue x.2 bs failed st.fv st.now
    | _ => st) s
  { s1.modTask t.id (fun x => x.keepRead group seq cmds) with fv := s1.fv + 1 }

/-- A member's command with its result issued has written it everywhere (R98, R107). -/
def State.collWritten (s : State) (c : Core) (m : Cmd) : Bool :=
  m.shift == 1 && (c.heldDest m.launch.kind
    || (m.buf.isEmpty && (List.range 4).all fun f => decide (m.exports ≤ s.countIn f (dieOf c.phys))))

/-- The commands of a collective group whose task is gone: they end as failed, their destinations untouched. -/
def Core.dropColl (c : Core) (group : Nat) : Core :=
  (c.copy.running.filter fun m => match m.launch.kind with
    | .coll _ _ _ g _ _ _ => g == group
    | _ => false).foldl (fun c m => c.endCmd .copy m true) c

/-- COLLECTIVE_COMPLETE (R320): the oldest instance of a group with a command running goes on. A failed one is issued
to the members that have started, once they have read their sources; a whole one to all; and members whose result is written
get their tags. -/
def execCollectiveComplete (task group : Nat) (s : State) : Out :=
  match s.task? task with
  | none => .next (s.modAll fun c => if c.task = task then c.dropColl group else c)
  | some t =>
    let ms := ((t.groups.find? fun x => x.num = group).map Group.members).getD []
    let live := t.colls.filter fun k => k.group = group && (s.collCmd k).isSome
    match live.map (·.seq) |>.min? with
    | none => .next s
    | some seq =>
      let cmds := (live.filter fun k => k.seq = seq).filterMap fun k => s.collCmd k
      let fresh := cmds.filter fun x => x.2.shift = 0
      if ¬fresh.isEmpty ∧ s.collFailed t group seq ms ∧ fresh.all fun x => x.2.sourceRead s.now then
        .next ((s.collIssue t group seq ms fresh true).noteFailed t group seq)
      else if ¬fresh.isEmpty ∧ s.collReady t group seq ms then .next (s.collIssue t group seq ms fresh false)
      else .next (cmds.foldl (fun st x =>
        if s.collWritten x.1 x.2 then st.modAt x.1.phys fun c => c.finishCopy x.2 s.now else st) s)

end Sys2Proof.Machine
end

