-- ==== Sys2Proof/Machine/Lantern.lean ====
section
/-! DEFINITION. The Lantern engine at work: delays, window, launches, captures (14 R322-R334). -/

namespace Sys2Proof.Machine

/-! ## Evaluation (R324-R326) -/

/-- A cell of the delay matrix: 255 is open (R322). -/
def Lantern.cell (l : Lantern) (i j : Nat) : Nat := ((mapGet l.delay (128 * i + j)).getD 255).toNat

/-- A result tick; 0xFFFF is NEVER (R322). -/
def Lantern.out (l : Lantern) (j : Nat) : Nat := ((mapGet l.result j).getD 0xFFFF).toNat

/-- The value of input i in a row image (R324). -/
def rowInput (row : List Nat) (i : Nat) : Nat := row.getD (2 * i) 0 + 256 * row.getD (2 * i + 1) 0

/-- The rise tick of output j, none for NEVER (R326). -/
def riseTick (mx : Bool) (tw : Nat) (cell : Nat → Nat → Nat) (inp : Nat → Nat) (j : Nat) : Option Nat :=
  let ins := (List.range 128).filter fun i => cell i j ≠ 255
  if mx then
    if ins.isEmpty ∨ ins.any fun i => decide (tw ≤ inp i) then none
    else
      let m := ins.foldl (fun m i => max m (inp i + cell i j)) 0
      if m < tw then some m else none
  else
    match ((ins.filter fun i => decide (inp i < tw)).map fun i => inp i + cell i j).min? with
    | some m => if m < tw then some m else none
    | none => none

/-- The order of arrival: by tick, then by index (R326). -/
def arrivalOrder (tw : Nat) (tick : Nat → Option Nat) : List Nat :=
  (List.range tw).flatMap fun t => (List.range 128).filter fun j => tick j == some t

/-- The Lantern state with the result of a launch (R326). -/
def Lantern.evaluate (l : Lantern) (mx : Bool) (row : List Nat) : Lantern :=
  let tick := riseTick mx l.tw.toNat l.cell (rowInput row)
  { l with
    result := (List.range 128).filterMap fun j => (tick j).map fun t => (j, BitVec.ofNat 16 t)
    order := arrivalOrder l.tw.toNat tick }

/-- Matrix rows i0 on take row images of 128 bytes (R325). -/
def Lantern.load (l : Lantern) (i0 : Nat) (bytes : List Nat) : Lantern :=
  { l with
    delay := bytes.zipIdx.foldl (fun m x =>
      if x.1 % 256 = 255 then mapErase m (128 * i0 + x.2) else mapSet m (128 * i0 + x.2) (BitVec.ofNat 8 x.1)) l.delay }

/-- `lrst` (R328). -/
def Lantern.clear (l : Lantern) : Lantern := { l with result := [], order := [] }

/-- `lwin` on a cycle (R328). -/
def Lantern.window (l : Lantern) (w now : Nat) : Lantern :=
  { l with tw := BitVec.ofNat 11 w, twOld := l.tw, twSince := now }

/-- The bytes a capture writes (R331). -/
def Lantern.image (l : Lantern) (k : LaunchKind) : List Byte :=
  match k with
  | .lcapV _ => (List.range 128).flatMap fun j => natToBytes 2 (l.out j)
  | .lcapO k _ => (List.range k).flatMap fun p => natToBytes 2 (l.order.getD p 0xFFFF)
  | _ => []

/-! ## Commands (R327-R331) -/

/-- Bank rows that n bytes from an address touch. -/
def rowsTouched (a n : Nat) : Nat := if n = 0 then 0 else (a + n - 1) / 64 - a / 64 + 1

/-- The occupancy of a command (R327). -/
def lanternOcc (k : LaunchKind) (tw : Nat) : Nat :=
  match k with
  | .lrst => 2
  | .ldly n _ _ => 2 * n + 2
  | .lwin _ => 1
  | .llaunch .. => tw + 12
  | .lcapV _ => 6
  | .lcapO k d => rowsTouched d (2 * k) + 2
  | _ => 0

/-- The rows a command still works on, cycle by cycle: address and bytes of the next one; none when it has no more. -/
def lanternRow (m : Cmd) : Option (Nat × Nat) :=
  match m.launch.kind with
  | .ldly n _ src => if m.pos < 2 * n then some (src + 64 * m.pos, 64) else none
  | .llaunch _ row => if m.pos < 4 then some (row + 64 * m.pos, 64) else none
  | .lcapV d => if m.pos < 4 then some (d + 64 * m.pos, 64) else none
  | .lcapO k d =>
    let first := (d / 64 + m.pos) * 64
    let lo := max d first
    let hi := min (d + 2 * k) (first + 64)
    if lo < hi then some (lo, hi - lo) else none
  | _ => none

/-- Whether a command reads its rows. -/
def lanternReads (k : LaunchKind) : Bool :=
  match k with
  | .ldly .. | .llaunch .. => true
  | _ => false

/-- Start of a Lantern command on this cycle (R327, R328). -/
def Core.startLantern (c : Core) (m : Cmd) (now : Nat) : Core :=
  let k := m.launch.kind
  let occ := lanternOcc k c.lan.tw.toNat
  let lan := match k with
    | .lrst => c.lan.clear
    | .lwin w => c.lan.window w now
    | _ => c.lan
  (({ c with lan := lan }).addLock .lantern m.id (c.lockRows k 0)).modEng .lantern fun g =>
    { g with freeAt := now + occ, running := g.running ++ [{ m with due := now, doneAt := some (now + occ) }] }

/-- Every later cycle of a command moves one on (R333). -/
def Core.lanternLate (c : Core) (m : Cmd) (now : Nat) : Core :=
  (c.setCmd .lantern { m with due := now + 1, doneAt := m.doneAt.map (· + 1) }).modEng .lantern fun g =>
    { g with freeAt := g.freeAt + 1 }

/-- A row of a command on its cycle: a timed read, or a capture's write issued; one that loses its port comes a cycle later
(R67, R329-R331, R333). -/
def Core.lanternStep (c : Core) (m : Cmd) (now : Nat) : Core :=
  match lanternRow m with
  | none =>
    match m.launch.kind with
    | .ldly n i0 _ =>
      if m.pos = 2 * n then ({ c with lan := c.lan.load i0 m.idx }).setCmd .lantern { m with pos := m.pos + 1 } else c
    | _ => c
  | some (a, n) =>
    if lanternReads m.launch.kind then
      if c.copyPortLost now a n then c.lanternLate m now
      else if c.pendEng ∧ c.operandPending a n then
        (c.modEng .lantern fun g => { g with freeAt := now + 1 }).stopCmd .lantern m 12 now
      else (c.takePort now a n).setCmd .lantern
        { m with pos := m.pos + 1, due := now + 1, idx := m.idx ++ (c.scrRead now a n).map BitVec.toNat }
    else if c.writeTaken now a n then c.lanternLate m now
    else
      let base := match m.launch.kind with
        | .lcapV d | .lcapO _ d => d
        | _ => a
      let bs := ((c.lan.image m.launch.kind).drop (a - base)).take n
      ((c.takeWrite now a n false).setCmd .lantern { m with pos := m.pos + 1, due := now + 1, buf := m.buf ++ cellsAt a bs }).strikeEngine
        .lantern m.launch.tag true (span a n) now

/-- A command's row or load is due on this cycle. -/
def lanternDue (m : Cmd) (now : Nat) : Bool :=
  decide (m.due ≤ now) && ((lanternRow m).isSome || (match m.launch.kind with
    | .ldly n _ _ => m.pos == 2 * n
    | _ => false))

/-- The end of a command: a launch's result, a capture's rows exposed, the lock released, the tag set (R330, R333). -/
def Core.endLantern (c : Core) (m : Cmd) : Core :=
  let c1 := match m.launch.kind with
    | .llaunch mx _ => { c with lan := c.lan.evaluate mx m.idx }
    | .lcapV _ | .lcapO .. => c.scrPut m.buf
    | _ => c
  c1.endCmd .lantern m false

/-- LANTERN_COMPLETE (R330). -/
def execLanternComplete (id : Nat) (s : State) : Out :=
  match s.core.cmd? .lantern id with
  | none => .next s
  | some m =>
    match m.doneAt with
    | some d => if d ≤ s.now ∧ ¬lanternDue m s.now then .next (s.mod fun c => c.endLantern m) else .next s
    | none => .next s

end Sys2Proof.Machine
end

