-- ==== Sys2Proof/Machine/Launch.lean ====
section
/-! DEFINITION. The start of held launches (13 R296-R299, 09 R206). -/

namespace Sys2Proof.Machine

/-- The engine can accept a command (R297, R317, R332). -/
def Core.engFree (c : Core) (e : EngineId) (now : Nat) : Bool :=
  match e with
  | .copy => decide (c.copy.running.length < 8)
  | .matrix => decide (c.matrix.freeAt ≤ now)
  | .lantern => decide (c.lantern.freeAt ≤ now)

/-- The accumulator tile of an `mwb` is final (R297, R305). -/
def Core.tileReady (c : Core) (k : LaunchKind) (now : Nat) : Bool :=
  match k with
  | .mwb _ t _ _ => decide (c.finalAt t ≤ now)
  | _ => true

/-- WANT and RTAG of a stamp hold (R296). -/
def Core.wantOk (c : Core) (x : BitVec 64) : Bool :=
  !x.getLsbD 63 || c.tags.getLsbD (x.extractLsb' 56 6).toNat

/-- What a held launch meets on this cycle: nothing yet, its start, or a SCHEDMISS by subcode (R297). -/
inductive StartTest where
  | wait | start | miss (sub : Nat)
  deriving DecidableEq, Repr

/-- The tests of R297 in their order; `members` is the size of a collective's group. -/
def Core.startTest (c : Core) (e : EngineId) (h : Launch) (members now : Nat) : StartTest :=
  let locked := c.launchLocked h.kind members
  match h.cond with
  | some (.stamp x) =>
    let cyc := (x.setWidth 56).toNat
    let cal := (c.calendar.setWidth 56).toNat
    if cal < cyc then .wait
    else if cyc < cal then .miss 1
    else if ¬c.engFree e now then .miss 2
    else if locked then .miss 3
    else if ¬c.wantOk x then .miss 4
    else if ¬c.tileReady h.kind now then .miss 5
    else .start
  | some (.gate m) =>
    if c.engFree e now ∧ ¬locked ∧ c.tileReady h.kind now ∧ c.tags &&& m = m then .start else .wait
  | none => if c.engFree e now ∧ ¬locked ∧ c.tileReady h.kind now then .start else .wait

/-- The counter event of a start (R402). -/
def startEvent (e : EngineId) : BitVec 8 :=
  match e with
  | .matrix => 4
  | .copy => 6
  | .lantern => 7

/-- The held launch as a command that starts now. -/
def Core.newCmd (c : Core) (h : Launch) (now : Nat) : Cmd :=
  ⟨c.cmdNext, h, now, 0, now, none, [], [], [], false, 0, 0, none, none⟩

/-- The command starts (R297): its engine begins the work of its kind. -/
def State.startLaunch (s : State) (e : EngineId) (h : Launch) : State :=
  let m := { s.core.newCmd h s.now with null := h.network && !s.inNetwork h.kind }
  let s1 := State.mod (s.noteColl h.kind true m.id) fun c =>
    ({ c with cmdNext := c.cmdNext + 1 }.modEng e fun g => { g with held := none }).note (startEvent e)
  match h.kind with
  | .mma z _ t k _ _ w _ => s1.mod fun c => (c.startMma m z t k w s.now).note 5
  | .mwb clr t d w => s1.mod fun c => (c.startMwb m clr t d w s.now).note 5
  | .copy .. | .gather .. | .scatter .. | .wbfill .. | .coll .. => s1.startCopy m
  | .lrst | .ldly .. | .lwin _ | .llaunch .. | .lcapV _ | .lcapO .. => s1.mod fun c => c.startLantern m s.now

/-- ENGINE_LAUNCH_START (R297): a held launch starts, misses, or waits. -/
def execEngineLaunchStart (e : EngineId) (s : State) : Out :=
  match (s.core.eng e).held with
  | none => .next s
  | some h =>
    match s.core.startTest e h (s.membersOf h.kind) s.now with
    | .wait => .next s
    | .start => .next (s.startLaunch e h)
    | .miss sub => .next (State.mod (s.noteColl h.kind false 0) fun c =>
        (c.engFault e true sub h.widx (stampOf h.cond) s.now).setTag e h.tag true)

end Sys2Proof.Machine
end

