-- ==== Sys2Proof/Machine/Frames.lean ====
section
/-! DEFINITION. F2's work on pages, frames and Almanac entries: moving pages between tiers, making room, the start of a
Jubilee sweep (03 R42, R59, R60, 04 R81-R85, 18 R382, R387). -/

namespace Sys2Proof.Machine

/-! ## Pages and frames (R31, R33) -/

/-- An entry that is not FREE pins the page, or an armed entry's buffer lies in it (R82, R344). -/
def State.pinned (s : State) (part : Nat) (g : PageMap) : Bool :=
  let lo := pageAddr g
  let hi := lo + pageBytes g
  s.almanac.any (fun e => e.2.state != .free && e.2.owner == part && decide (e.2.pinBase < hi)
      && decide (lo < e.2.pinBase + e.2.length))
    || s.arms.any fun a => a.part == part && decide (a.bufVa < hi) && decide (lo < a.bufVa + a.bufLen)

/-- Frames of this package that a partition's pages occupy. -/
def Partition.usedFrames (p : Partition) : List Nat :=
  p.pages.flatMap fun g => match g.place with
    | .main f => pageFrames p.req.groups g f
    | _ => []

/-- Frames of lenders that its pages occupy, by lender. -/
def Partition.lentFrames (p : Partition) : List (Nat × Nat) :=
  p.pages.flatMap fun g => match g.place with
    | .lent k f => (List.range (pageUnits g)).map fun i => (k, f + i)
    | _ => []

/-- Flash blocks that its pages occupy: one a page. -/
def Partition.usedBlocks (p : Partition) : List Nat :=
  p.pages.filterMap fun g => match g.place with
    | .flash b => some b
    | _ => none

/-- A frame of the partition that no page occupies and F2 may use. -/
def State.frameFree (s : State) (part : Nat) (p : Partition) (f : Nat) : Bool :=
  let e := s.potOf f
  p.frames.contains f && !p.usedFrames.contains f && e.owner == .part part && e.world == p.req.world && !e.transition

/-- The frames from which on a page of n units fits, its frames round-robin over the partition's groups (R33). -/
def State.freeRuns (s : State) (part : Nat) (p : Partition) (n : Nat) : List Nat :=
  p.frames.filter fun f => (List.range n).all fun i => s.frameFree part p (nthFrame p.req.groups f i)

/-- A port toward a package has an SPDM session, in which F4 can hand it a key (R371, R387). -/
def State.sessionWith (s : State) (pkg : Nat) : Bool :=
  (List.range 16).any fun n => Config.portReaches n pkg && (s.ports[n]?).any fun x => decide (x.session ≠ 0)

/-- A place a page may go to (R1, R81, R82, R387): a lender is a package of the domain, and for a page that is encrypted there F4
hands over the key. -/
def State.placeOk (s : State) (part : Nat) (p : Partition) (g : PageMap) (dest : PagePlace) : Bool :=
  match dest with
  | .main f => (pageFrames p.req.groups g f).all fun x => s.frameFree part p x
  | .flash b => decide (b < p.req.flashBlocks) && !p.usedBlocks.contains b
  | .lent k f =>
    pkgOk k && g.mode != .integrity && (g.mode == .clear || s.sessionWith k) && decide (p.lentFrames.length + pageUnits g ≤ p.req.lentFrames)
      && (List.range (pageUnits g)).all fun i =>
        s.parts.all (fun q => !q.2.lentFrames.contains (k, f + i))
          && s.borrowed.all fun b => !(b.pkg == k && decide (b.lo ≤ f + i) && decide (f + i < b.lo + b.count))

/-! ## The bytes of a page (R83) -/

/-- The listed bytes of [a, a + n), by offset. -/
def memSlice (m : Memory) (a n : Nat) : List Host.Cell :=
  (m.filter fun c => decide (a ≤ c.1) && decide (c.1 < a + n)).map fun c => (c.1 - a, c.2)

/-- A memory without the bytes of [a, a + n). -/
def memClear (m : Memory) (a n : Nat) : Memory := m.filter fun c => !(decide (a ≤ c.1) && decide (c.1 < a + n))

/-- Where byte `o` of a page lies that has a place: in a frame, a flash block or a lender's frame (R33). -/
def pageByteAddr (groups : List Nat) (d : PagePlace) (o : Nat) : Nat :=
  match d with
  | .main f => nthFrame groups f (o / 65536) * 65536 + o % 65536
  | .flash b => b * 0x200000 + o
  | .lent k f => k * 2 ^ 48 + f * 65536 + o

/-- The listed bytes of a page by offset, from a memory, unit by unit. -/
def unitBytes (m : Memory) (groups : List Nat) (d : PagePlace) (units : Nat) : List Host.Cell :=
  (List.range units).flatMap fun i =>
    (memSlice m (pageByteAddr groups d (i * 65536)) 65536).map fun c => (i * 65536 + c.1, c.2)

/-- The listed bytes of a page of n units at a place. -/
def State.placeBytes (s : State) (p : Partition) (d : PagePlace) (n : Nat) : List Host.Cell :=
  match d with
  | .main _ => unitBytes s.mem p.req.groups d n
  | .flash _ => unitBytes p.flash p.req.groups d n
  | .lent _ _ => unitBytes s.lentMem p.req.groups d n

/-- Frames of main memory hold the cells, and 0 else. -/
def State.fillFrames (s : State) (fs : List Nat) (cells : List Host.Cell) : State :=
  s.fwWrite (((s.marks.filter fun c => fs.contains (c.1 / 65536)).map fun c => (c.1, (0 : Byte))) ++ cells)

/-- The bytes of a page of n units become those listed at a place; the frames it takes in main memory have its mode before they are
written (R34, R83, R384). -/
def State.fillPlace (s : State) (part : Nat) (p : Partition) (d : PagePlace) (n : Nat) (mode : ProtMode) (bytes : List Host.Cell) : State :=
  let cells := bytes.map fun c => (pageByteAddr p.req.groups d c.1, c.2)
  match d with
  | .main f =>
    let fs := (List.range n).map (nthFrame p.req.groups f)
    State.fillFrames { s with pot := fs.foldl (fun m x => mapSet m x { s.potOf x with mode := mode }) s.pot } fs cells
  | .flash b => s.modPart part fun p =>
    { p with flash := memPut (memClear p.flash (pageByteAddr [] d 0) (n * 65536)) cells, badBlocks := p.badBlocks.filter fun x => x ≠ b }
  | .lent _ _ => { s with lentMem := memPut (memClear s.lentMem (pageByteAddr [] d 0) (n * 65536)) cells }

/-- A page of the integrity mode whose flash block fails its MAC (R387). -/
def pageBad (p : Partition) (g : PageMap) : Bool :=
  match g.place with
  | .flash b => g.mode == .integrity && p.badBlocks.contains b
  | _ => false

/-- A page is mapped no more. -/
def State.unmapPage (s : State) (part : Nat) (g : PageMap) : State :=
  s.modPart part fun p => { p with pages := p.pages.filter fun x => !(x.page == g.page && x.gran == g.gran) }

/-- A page that fails its MAC as it is paged in is never mapped, and F4 logs an INTEGRITY entry with no rank (R387). -/
def State.dropPage (s : State) (part : Nat) (g : PageMap) : State :=
  { s.unmapPage part g with
    trust := { s.trust with secLog := s.trust.secLog ++ [⟨part, none, 0, false, s.time, none, 0⟩] } }

/-- The frames of main memory that a page stands on. -/
def mainFrames (groups : List Nat) (g : PageMap) : List Nat :=
  match g.place with
  | .main f => pageFrames groups g f
  | _ => []

/-- The first line in a state that F2 meets as it reads a page that stands in main memory (R385). -/
def State.pageLine (s : State) (groups : List Nat) (g : PageMap) (x : LineState) : Option Nat :=
  (mainFrames groups g).findSome? fun f => s.firstLine .main (f * 65536) 65536 x

/-- F3 counts the corrected errors of the lines that F2 reads of a page (R385). -/
def State.readPage (s : State) (groups : List Nat) (g : PageMap) : State :=
  (mainFrames groups g).foldl (fun st f => st.countCorrected .main (f * 65536) 65536) s

/-- A page in main memory whose frames the partition owns, none of them in TRANSITION (R34, R382). -/
def State.pageOwned (s : State) (part : Nat) (groups : List Nat) (g : PageMap) : Bool :=
  (mainFrames groups g).all fun f => (s.potOf f).owner == .part part && !(s.potOf f).transition

/-- A page of the integrity mode that goes to flash gets the next version count (R387). -/
def Partition.version (p : Partition) (g : PageMap) (dest : PagePlace) : Partition :=
  match dest with
  | .flash _ =>
    if g.mode = .integrity then { p with versions := mapSet p.versions (pageAddr g) ((mapGet p.versions (pageAddr g)).getD 0 + 1) }
    else p
  | _ => p

/-- Move the page that holds an address, if nothing pins it, no change of its frames is under way and the place is open to it (R82,
R83, R382). The spec does not say what
F2 does with a page in main memory that it cannot read whole: here one with a poisoned line stays where it is, and one with a
line that fails its MAC is mapped no more and logged (DESIGN CHOICE, log entry 52). -/
def State.movePage (s : State) (part va : Nat) (dest : PagePlace) : Option State :=
  (mapGet s.parts part).bind fun p =>
    (pageAt p.pages va).bind fun g =>
      if s.pinned part g ∨ ¬s.pageOwned part p.req.groups g ∨ ¬s.placeOk part p g dest then none
      else if pageBad p g then some (s.dropPage part g)
      else if (s.pageLine p.req.groups g .poisoned).isSome then none
      else match s.pageLine p.req.groups g .badMac with
      | some l => some ((s.unmapPage part g).logIntegrity part l none 0)
      | none =>
        let s1 := (s.readPage p.req.groups g).fillPlace part p dest (pageUnits g) g.mode (s.placeBytes p g.place (pageUnits g))
        some (s1.modPart part fun p =>
          { p.version g dest with
            pages := p.pages.map fun x => if x.page = g.page ∧ x.gran = g.gran then { x with place := dest } else x })

/-! ## Jubilee sweeps (R59, R60) -/

/-- Step 1 and 2 of a sweep of an ACTIVE entry: REVOKING, its generation raised, the invalidate on its way to every
core; an entry at generation 0xFFF is quarantined. -/
def State.startSweep (s : State) (i : Nat) : State :=
  let e := s.entry i
  if e.state ≠ .active then s
  else
    let last := e.gen = 0xFFF
    let s1 := s.modAll fun c => { c with sweeps := c.sweeps ++ [(i, s.now + 1 + Config.untimedDelay (s.fv + c.phys), s.now)] }
    { s1 with
      almanac := mapSet s1.almanac i { e with
        state := .revoking, gen := if last then 1 else e.gen + 1, acks := [], quarantined := e.quarantined || last
        made := if last then s.taskNext else e.made }
      releases := s1.releases.filter fun r => r.1 ≠ i
      fv := s1.fv + 256 }

/-! ## Resolving faults (R42, R84) -/

/-- What F2 finds to do: a step of its work, nothing until something else has happened, or nothing at all. -/
inductive F2Act where
  | act (s : State) | wait | deliver
  deriving DecidableEq, Repr

/-- The lowest by a measure. -/
def leastBy {α : Type} (f : α → Nat) (xs : List α) : Option α :=
  xs.foldl (fun m x => match m with
    | none => some x
    | some y => if f x < f y then some x else some y) none

/-- A place outside main memory for a page: a free flash block, else frames of a lender under the partition's quota. -/
def State.outPlace (s : State) (part : Nat) (p : Partition) (g : PageMap) : Option PagePlace :=
  let blocks := (List.range p.req.flashBlocks).filter fun b => !p.usedBlocks.contains b
  let top := s.parts.foldl (fun m q => q.2.lentFrames.foldl (fun m x => max m (x.2 + 1)) m) 0
  let lent := PagePlace.lent (Config.pick s.fv % 512) (top + Config.pick (s.fv + 1) % 2 ^ 16)
  match blocks[Config.pick s.fv % blocks.length]? with
  | some b => some (.flash b)
  | none => if s.placeOk part p g lent then some lent else none

/-- Make room in main memory (R84): the page least recently pinned moves out; when all are pinned, the entry least
recently made is revoked. -/
def State.makeRoom (s : State) (part : Nat) (p : Partition) (keep : List Nat) : F2Act :=
  let open' := p.pages.filter fun g => (match g.place with | .main _ => true | _ => false)
    && !s.pinned part g && !keep.contains (pageAddr g) && (s.pageLine p.req.groups g .poisoned).isNone
      && s.pageOwned part p.req.groups g
  match leastBy (fun g => (mapGet p.lastPin (pageAddr g)).getD 0) open' with
  | some g =>
    match (s.outPlace part p g).bind fun d => s.movePage part (pageAddr g) d with
    | some s1 => .act { s1 with fv := s1.fv + 2 }
    | none => .wait
  | none =>
    let own := s.almanac.filter fun e => decide (e.2.owner = part)
    if own.any fun e => decide (e.2.state = .revoking) then .wait
    else match leastBy (fun e => e.2.made) (own.filter fun e => decide (e.2.state = .active)) with
      | some e => .act (s.startSweep e.1)
      | none => .wait

/-- The ACTIVE entries that pin a page. -/
def State.pinsPage (s : State) (part : Nat) (g : PageMap) : List (Nat × AlmanacEntry) :=
  s.almanac.filter fun e => e.2.state == .active && e.2.owner == part && decide (e.2.pinBase < pageAddr g + pageBytes g)
    && decide (pageAddr g < e.2.pinBase + e.2.length)

/-- F2 revokes what pins a page that it must move, the entry least recently made first (R82). -/
def State.sweepPins (s : State) (part : Nat) (g : PageMap) : F2Act :=
  match leastBy (fun e => e.2.made) (s.pinsPage part g) with
  | some e => .act (s.startSweep e.1)
  | none => .wait

/-- Bring the pages of an extent into main memory, one at a time (R42, R84). -/
def State.pageIn (s : State) (part va len : Nat) : F2Act :=
  match mapGet s.parts part with
  | none => .wait
  | some p =>
    let pages := (unitsOf va len).filterMap fun u => pageAt p.pages u
    match pages.find? fun g => match g.place with | .main _ => false | _ => true with
    | none => .wait
    | some g =>
      let runs := s.freeRuns part p (pageUnits g)
      match runs[Config.pick s.fv % runs.length]? with
      | none => s.makeRoom part p (pages.map pageAddr)
      | some f =>
        match s.movePage part (pageAddr g) (.main f) with
        | some s1 => .act { s1 with fv := s1.fv + 1 }
        | none => s.sweepPins part g

/-- A page may move so as F2 resolves a fault on an extent: into main memory if the extent needs it, else out of it if it is the
page least recently pinned of those that nothing pins (R84). -/
def State.mayMove (s : State) (part va len : Nat) (page : Nat) (dest : PagePlace) : Bool :=
  (mapGet s.parts part).any fun p => (pageAt p.pages page).any fun g =>
    let needed := (unitsOf va len).any fun u => pageAt p.pages u == some g
    match g.place, dest with
    | .main _, .main _ => false
    | .main _, _ =>
      !needed && leastBy (fun g => (mapGet p.lastPin (pageAddr g)).getD 0) (p.pages.filter fun g =>
        (match g.place with | .main _ => true | _ => false) && !s.pinned part g
          && !((unitsOf va len).any fun u => pageAt p.pages u == some g)) == some g
    | _, .main _ => needed
    | _, _ => false

/-- A task that is still alive. -/
def State.taskLive (s : State) (id : Nat) : Bool := s.tasks.any fun t => t.id == id && t.ending.isNone

/-- Entries of a partition that no live task holds any more. -/
def State.strayEntries (s : State) (part : Nat) : List Nat :=
  (s.almanac.filter fun e => decide (e.2.owner = part) && decide (e.2.state = .active) && !s.taskLive e.2.task).map (·.1)

/-- Release entries that no live task holds, or wait for those already on their way (R42, R431). -/
def State.freeShare (s : State) (part : Nat) : F2Act :=
  match (s.strayEntries part).filter fun i => !s.released i with
  | i :: is => .act (s.askSweeps (i :: is))
  | [] =>
    if s.almanac.any fun e => decide (e.2.owner = part) && (decide (e.2.state = .revoking) || s.released e.1) then .wait
    else .deliver

/-- A sweep of an entry of the partition is under way. -/
def State.sweeping (s : State) (part : Nat) : Bool := s.almanac.any fun e => e.2.owner == part && e.2.state == .revoking

/-- F2's answer to a translation: none when it succeeds as it stands and every sweep made for it is over (R84). -/
def State.resolve (s : State) (part va len : Nat) (rights : BitVec 2) : Option F2Act :=
  match s.xlatPlan part (BitVec.ofNat 64 va) (BitVec.ofNat 64 len) rights with
  | .ok .. => if s.sweeping part then some .wait else none
  | .paging => some (s.pageIn part va len)
  | .fault 6 _ => some (s.freeShare part)
  | .fault _ _ => some .deliver

end Sys2Proof.Machine
end

