-- ==== Sys2Proof/Machine/Firmware.lean ====
section
/-! DEFINITION. F1's work: checks of descriptors and packets, what a queue can dispatch, placement, handing clusters over,
the start of a task and the effect of each journal record (15 R335-R350, 02 R26-R30, 07 R136, R143, 18 R381). -/

namespace Sys2Proof.Machine

/-! ## Descriptors and packets (R335, R339) -/

/-- n bytes of a message from byte o on as a number. -/
def field (bs : List Byte) (o n : Nat) : Nat := bytesToNat ((bs.drop o).take n)

/-- A launch descriptor from its 64 bytes (R335). -/
def Descriptor.ofBytes (bs : List Byte) : Descriptor where
  imgVa := field bs 0 8
  imgLen := field bs 8 4
  load := field bs 12 4
  entry := field bs 16 4
  tvec := field bs 20 4
  sbase := field bs 24 4
  slimit := field bs 28 4
  size := field bs 32 2
  place := field bs 34 1
  z35 := field bs 35 1
  tlimit := field bs 36 4
  z40 := field bs 40 24

/-- A packet from its bytes: a header of 16, then descriptors of 64 (R339); `extra` is not 0 where they are not whole. -/
def Packet.read (bs : List Byte) : Packet where
  kind := field bs 0 1
  nparts := field bs 1 1
  serial := field bs 2 1
  b3 := field bs 3 1
  cookie := field bs 4 4
  b8 := field bs 8 8
  parts := (List.range ((bs.length - 16) / 64)).map fun i => Descriptor.ofBytes (bs.drop (16 + 64 * i))
  extra := (bs.length - 16) % 64 + (16 - bs.length)

/-- A graph node from its message: its descriptor is 64 bytes (R346). -/
def NodeMessage.node (m : NodeMessage) : Option GraphNode :=
  if m.desc.length = 64 then some ⟨Descriptor.ofBytes m.desc, m.preds⟩ else none

/-- The limits of a launch descriptor, for a partition of so many cores; DIE takes at most 64 cores (R338). -/
def descOk (ncores : Nat) (d : Descriptor) : Bool :=
  decide (d.imgVa < 2 ^ 56) && decide (1 ≤ d.imgLen) && decide (d.imgLen ≤ 0x300000)
    && decide (d.load % 64 = 0) && decide (d.load + d.imgLen ≤ 0x300000)
    && decide (d.entry % 4 = 0) && decide (d.load ≤ d.entry) && decide (d.entry < d.load + d.imgLen)
    && decide (d.tvec % 4 = 0) && decide (d.tvec < 0x300000)
    && decide (d.sbase % 8 = 0) && decide (d.sbase ≤ 0x300000) && decide (d.slimit % 8 = 0) && decide (d.slimit < d.sbase)
    && decide (1 ≤ d.size) && decide (d.size ≤ ncores) && decide (d.place ≤ 1) && decide (d.z35 = 0) && decide (d.z40 = 0)
    && !(decide (d.place = 1) && decide (64 < d.size))

/-- The header of a TASKS packet. -/
def tasksHeader (k : Packet) : Bool :=
  decide (k.kind = 0) && decide (1 ≤ k.nparts) && decide (k.nparts ≤ 16) && decide (k.parts.length = k.nparts)
    && decide (k.serial ≤ 1) && decide (k.b3 = 0) && decide (k.b8 = 0) && decide (k.extra = 0)

/-- The header of a REPLAY packet. -/
def replayHeader (k : Packet) : Bool :=
  decide (k.kind = 1) && decide (k.nparts = 0) && decide (k.parts.length = 0) && decide (k.serial ≤ 1) && decide (k.b3 = 0)
    && decide (k.b8 = 0) && decide (k.extra = 0)

/-- A node of a graph: its descriptor, at most 8 predecessors of lower number (R346). -/
def nodeOk (ncores i : Nat) (n : GraphNode) : Bool :=
  descOk ncores n.desc && decide (n.preds.length ≤ 8) && n.preds.all fun p => decide (p < i)

/-- Cores of a partition (R26). -/
def Partition.ncores (p : Partition) : Nat := 8 * p.req.clusters.length

/-! ## Queues (R340) -/

def State.queue? (s : State) (part num : Nat) : Option Queue := s.queues.find? fun q => q.part = part && q.num = num

/-- A queue that takes packets. -/
def State.openQueue (s : State) (part num : Nat) : Option Queue := (s.queue? part num).filter fun q => !q.destroyed

/-- Append a packet and set the queue's kick bit (R349). -/
def State.append (s : State) (part num : Nat) (k : Packet) (armed : Option Fired) : State :=
  { s.modQueue part num (fun q =>
      { q with packets := q.packets ++ [⟨s.packetNext, k, none, [], [], false, armed⟩], kicked := true }) with
    packetNext := s.packetNext + 1 }

/-- The part or node a queue may dispatch now under SERIAL or its graph (R339, R341, R346). -/
def Queue.next (q : Queue) : Option (QPacket × Nat) :=
  q.head.bind fun k =>
    let i := match k.nodes with
      | some ns => k.openIdx.find? fun i => nodeReady k (((ns[i]?).map GraphNode.preds).getD [])
      | none =>
        k.openIdx.head?.filter fun i => !(k.pk.serial = 1 && i ≠ 0) || k.ended.any fun e => e.idx = i - 1 && e.status = EndStatus.ok
    i.map fun i => (k, i)

/-- The descriptor of a part or node. -/
def QPacket.desc (k : QPacket) (i : Nat) : Option Descriptor :=
  match k.nodes with
  | some ns => (ns[i]?).map GraphNode.desc
  | none => k.pk.parts[i]?

/-! ## Placement (R26, R134, R338) -/

/-- Something of a context or of a command under way is still on the core. -/
def Core.busy (c : Core) : Bool :=
  c.ctx == .starting || c.ctx == .running || c.ctx == .frozen || !(c.matrix.idle && c.copy.idle && c.lantern.idle)
    || !c.acc.isEmpty || !c.timed.isEmpty

/-- The core of a task that has neither retired `end` nor been saved. -/
def State.holdsCore (s : State) (t : Task) (n : Nat) : Bool :=
  !(s.saved.any fun x => x.core.phys == n && x.core.task == t.id)
    && (t.cores.zipIdx.any fun x => x.1 == n && !t.ended.contains x.2)

/-- No other task has the physical cluster: none of its cores is busy, no live task of the partition covers it, and every
core of another partition's task there has been saved (R27, R134). -/
def State.clusterFree (s : State) (part k : Nat) : Bool :=
  s.cores.all (fun c => clusterOf c.phys != k || !c.busy)
    && s.tasks.all fun t => t.ending.isSome || t.cores.all fun n =>
      clusterOf n != k || (t.part != part && !s.holdsCore t n)

/-- The virtual clusters a crew takes (R338): the free ones of lowest number, or, on one virtual die, those of free
choice. -/
def State.placement (s : State) (part : Nat) (p : Partition) (d : Descriptor) : Option (List Nat) :=
  let need := (d.size + 7) / 8
  let free := (List.range p.req.clusters.length).filter fun v => s.clusterFree part (p.req.clusters.getD v 0)
  if d.place = 0 then if need ≤ free.length then some (free.take need) else none
  else
    let dies := (List.range 4).filter fun k => decide (need ≤ (free.filter fun v => v / 8 = k).length)
    (dies[Config.pick s.fv % dies.length]?).map fun k =>
      let here := (free.filter fun v => v / 8 = k).mergeSort fun a b =>
        decide (Config.pick (s.fv + 1 + a) ≤ Config.pick (s.fv + 1 + b))
      (here.take need).mergeSort fun a b => decide (a ≤ b)

/-- The virtual cores of a crew by rank. -/
def crewOf (vs : List Nat) (size : Nat) : List Nat := (List.range size).map fun r => vs.getD (r / 8) 0 * 8 + r % 8

/-- The physical core of a virtual one. -/
def Partition.phys (p : Partition) (v : Nat) : Nat := p.req.clusters.getD (v / 8) 0 * 8 + v % 8

/-- The virtual core of a physical one. -/
def Partition.virt (p : Partition) (n : Nat) : Nat := (p.req.clusters.idxOf (clusterOf n)) * 8 + posOf n

/-- No two of a list are equal. -/
def distinct (xs : List Nat) : Bool := decide xs.Nodup

/-- The virtual dies of a partition: its clusters in groups of eight, each group on one physical die, different groups on
different ones (R26). -/
def diesOk (cs : List Nat) : Bool :=
  decide (1 ≤ cs.length) && decide (cs.length ≤ 32) && distinct cs && cs.all (fun c => decide (c < 32))
    && (List.range cs.length).all fun i => (List.range cs.length).all fun j =>
      decide ((cs.getD i 0 / 8 = cs.getD j 0 / 8) ↔ (i / 8 = j / 8))

/-- The requests whose resources of step 3 of a teardown are not free: of the partitions that exist, and of those whose
teardown failed at it (R390). -/
def State.claims (s : State) : List PartitionRequest :=
  (s.parts.map fun x => x.2.req) ++ (s.held.filter fun x => x.1 = 3).map (·.2)

/-- Where a range of so many MiB fits in a die's pool beside the allotments there are. R29 leaves the place to F2: the lowest
(DESIGN CHOICE, log entry 74). -/
def poolGap (rs : List PoolRange) (die mb : Nat) : Option Nat :=
  (List.range 65).find? fun b => decide (b + mb ≤ 64)
    && rs.all fun r => r.die != die || decide (b + mb ≤ r.base) || decide (r.base + r.mb ≤ b)

/-- The allotments with those of the virtual dies of a partition: one more of each size, on the die of its clusters (R26, R29). -/
def addPools (num : Nat) (clusters : List Nat) : List (Nat × Nat) → List PoolRange → Option (List PoolRange)
  | [], rs => some rs
  | (mb, v) :: rest, rs =>
    let die := clusters.getD (8 * v) 0 / 8
    (poolGap rs die mb).bind fun b => addPools num clusters rest (rs ++ [⟨num, v, die, b, mb⟩])

/-- The allotment of a virtual die. -/
def State.poolOf? (s : State) (part vdie : Nat) : Option PoolRange := s.pools.find? fun r => r.part == part && r.vdie == vdie

/-- The first byte of the allotment of a virtual die in its die's pool. -/
def State.poolBase (s : State) (part vdie : Nat) : Nat := ((s.poolOf? part vdie).map fun r => r.base * 0x100000).getD 0

/-- The bytes and rows of an allotment in the pool. -/
def PoolRange.has (r : PoolRange) (a : Nat) : Bool := decide (r.base * 0x100000 ≤ a) && decide (a < (r.base + r.mb) * 0x100000)

/-! ## Dispatch rounds (R341) -/

def emptyLevel : Level := ⟨0, none, 0⟩

def Partition.level (p : Partition) (b : Nat) : Level := p.levels.getD b emptyLevel

/-- The queues of a partition and level that are waiting. -/
def State.waitingAt (s : State) (part b : Nat) : List Queue :=
  s.queues.filter fun q => q.part = part && q.level = b && q.next.isSome

/-- The effective level (R341 step 1, 4). -/
def effLevel (b passed : Nat) : Nat := min 8 (b + passed / 64)

/-- The level that wins the round: the highest effective level, then the highest base (R341 step 1). -/
def State.winner (s : State) (part : Nat) (p : Partition) : Option Nat :=
  ((List.range 8).filter fun b => !(s.waitingAt part b).isEmpty).foldl (fun m b => match m with
    | none => some b
    | some a => if effLevel a (p.level a).passed ≤ effLevel b (p.level b).passed then some b else some a) none

/-- A waiting queue is ready when its crew can be placed now. -/
def State.queueReady (s : State) (part : Nat) (p : Partition) (q : Queue) : Bool :=
  (q.next.bind fun x => x.1.desc x.2).any fun d => (s.placement part p d).isSome

/-- The queue that takes the round (R341 step 2): the one with the turn while its weight lasts, else the next in
increasing number. -/
def turnOf (l : Level) (ready : List Queue) : Option Queue :=
  match ready.find? fun q => some q.num = l.last && decide (l.taken < q.weight) with
  | some q => some q
  | none =>
    match leastBy Queue.num (ready.filter fun q => (l.last.map fun n => decide (n < q.num)).getD true) with
    | some q => some q
    | none => leastBy Queue.num ready

/-- Dispatch is not held: a scheduler runs, every record is acknowledged, no stop is in force (R350, R426). -/
def State.dispatching (s : State) : Bool :=
  s.scheduling && s.unacked.isEmpty && !s.fw.stopped && !s.fw.thermalStop && s.boot == .running

/-- The decision of a round for a partition, if there is one to make. -/
def State.round (s : State) (part : Nat) : Option JournalEvent :=
  if ¬s.dispatching then none
  else (mapGet s.parts part).bind fun p =>
    (s.winner part p).bind fun b =>
      (turnOf (p.level b) ((s.waitingAt part b).filter fun q => s.queueReady part p q)).bind fun q =>
        q.next.map fun x => .dispatch part q.num x.1.id x.2

/-- The bookkeeping of a round won by a queue (R341 steps 2 and 4). -/
def State.roundWon (s : State) (part : Nat) (q : Queue) : State :=
  s.modPart part fun p =>
    { p with levels := (List.range 8).map fun b =>
        let l := p.level b
        if b = q.level then ⟨0, some q.num, if l.last = some q.num ∧ l.taken < q.weight then l.taken + 1 else 1⟩
        else if (s.waitingAt part b).isEmpty then { l with passed := 0 }
        else { l with passed := l.passed + 1 } }

/-- Levels without a waiting queue count from 0 again (R341 step 4). -/
def State.restLevels (s : State) : State :=
  { s with parts := s.parts.map fun x =>
      (x.1, { x.2 with levels := (List.range 8).map fun b =>
        let l := x.2.level b
        if (s.waitingAt x.1 b).isEmpty then { l with passed := 0 } else l }) }

/-- F1 looks again: levels at rest, decisions it owes entered in the journal. -/
def State.settleQueues (s : State) : State := s.restLevels.scan

/-! ## Handing a cluster over (R27, R28, R381) -/

/-- The local memories of a core, taken from another. -/
def Core.withMemories (c from' : Core) : Core := { c with scr := from'.scr, lanes := from'.lanes, wb := from'.wb }

/-- What is kept of a cluster as it stands: its barrier objects and the local memories of its eight cores. -/
def State.keep (s : State) (k : Nat) : Kept :=
  ⟨(s.cluster k).bars, (List.range 8).map fun j =>
    match s.coreAt (8 * k + j) with
    | some c => (c.scr, c.lanes, c.wb)
    | none => ([], [], [])⟩

/-- A cluster with which nothing has been done: zeros. -/
def Kept.zero : Kept := ⟨Vector.replicate 32 (Barrier.initial 0), []⟩

/-- A core of a cluster with the memories kept for it, else zeros. -/
def Core.takeKept (c : Core) (x : Kept) : Core :=
  let m := x.mems.getD (posOf c.phys) ([], [], [])
  { c with scr := m.1, lanes := m.2.1, wb := m.2.2 }

/-- What a cluster keeps for the partitions it has served, with the one it serves. -/
def State.keptAll (s : State) (k : Nat) : SMap Kept :=
  match (s.cluster k).owner with
  | some o => mapSet (s.cluster k).kept o (s.keep k)
  | none => (s.cluster k).kept

/-- The cluster passes to a partition: its contents are those that partition left there, all of them, or all zero. -/
def State.handover (s : State) (k part : Nat) : State :=
  if (s.cluster k).owner = some part then s
  else
    let kept := s.keptAll k
    let mine := (mapGet kept part).getD Kept.zero
    let s2 := (List.range 8).foldl (fun st j => st.ensureCore (8 * k + j)) s
    let s3 := s2.modAll fun c => if clusterOf c.phys = k then c.takeKept mine else c
    { s3 with clusters := mapSet s3.clusters k ⟨mine.bars, some part, none, mapErase kept part⟩ }

/-- An allotment goes to another die's pool with its contents (R29, R364). -/
def State.movePool (s : State) (r : PoolRange) (die : Nat) : Option State :=
  (poolGap (s.pools.erase r) die r.mb).map fun b =>
    let at' (a : Nat) : Nat := a - r.base * 0x100000 + b * 0x100000
    let moved := ((s.die r.die).pool.filter fun c => r.has c.1).map fun c => (at' c.1, c.2)
    let bad := ((s.die r.die).poolPoison.filter r.has).map at'
    (State.modDie { s with pools := s.pools.erase r ++ [{ r with die := die, base := b }] } r.die fun x =>
      { x with pool := x.pool.filter fun c => !r.has c.1, poolPoison := x.poolPoison.filter fun y => !r.has y }).modDie die fun x =>
        { x with pool := memPut x.pool moved, poolPoison := x.poolPoison ++ bad }

/-- A virtual cluster of a partition takes another physical cluster (R26, R364): what the old one keeps for the partition, its
saved contexts and its tasks' cores go with it, and the die-pool allotment where the virtual die changes its die. -/
def State.moveCluster (s : State) (part k k' : Nat) : State :=
  let mine := (mapGet (s.keptAll k) part).getD Kept.zero
  let move (n : Nat) : Nat := if clusterOf n = k then 8 * k' + posOf n else n
  let gone (x : Cluster) : Cluster :=
    { x with owner := if x.owner = some part then none else x.owner, kept := mapErase x.kept part }
  let c' := s.cluster k'
  let s1 : State := { s with
    clusters := mapSet (mapSet s.clusters k (gone (s.cluster k))) k' { c' with kept := mapSet c'.kept part mine }
    saved := s.saved.map fun x =>
      if x.core.partId = part then { x with core := { x.core with phys := move x.core.phys } } else x
    tasks := s.tasks.map fun t => if t.part = part then
      { t with cores := t.cores.map move, colls := t.colls.map fun r => { r with core := move r.core } } else t }
  let s2 := s1.modPart part fun p => { p with req := { p.req with clusters := p.req.clusters.map fun x => if x = k then k' else x } }
  if k / 8 = k' / 8 then s2
  else match ((mapGet s.parts part).map fun p => p.req.clusters.idxOf k / 8).bind fun v => s.poolOf? part v with
    | some r => (s2.movePool r (k' / 8)).getD s2
    | none => s2

/-! ## The effect of a dispatch record (R134, R143, R338) -/

/-- Barrier objects at task start: the crew's cores in the cluster are the members (R143). -/
def State.startBarriers (s : State) (k : Nat) (crew : List Nat) : State :=
  let members := (crew.filter fun n => clusterOf n = k).foldl (fun m n => m ||| posBit (posOf n)) 0
  let c' : Cluster := ⟨Vector.replicate 32 (Barrier.initial members), (s.cluster k).owner, none, (s.cluster k).kept⟩
  { s with clusters := mapSet s.clusters k c' }

/-- A part or node is dispatched: its crew is placed, its task exists. -/
def State.dispatchNow (s : State) (part num packet idx : Nat) : State :=
  match mapGet s.parts part, s.queue? part num with
  | some p, some q =>
    match (q.packets.find? fun k => k.id = packet).bind fun k => (k.desc idx).map fun d => (k, d) with
    | none => s
    | some (k, d) =>
      match s.placement part p d with
      | none => s
      | some vs =>
        let crew := (crewOf vs d.size).map p.phys
        let used := vs.map fun v => p.req.clusters.getD v 0
        let s1 := (s.roundWon part q).modQueue part num fun q =>
          { q with kicked := false, packets := q.packets.map fun x =>
              if x.id = packet then { x with dispatched := x.dispatched ++ [idx] } else x }
        let s2 := used.foldl (fun st c => (st.handover c part).startBarriers c crew) s1
        { s2 with
          tasks := s2.tasks ++ [⟨s2.taskNext, part, num, packet, idx, d, crew, false, [], [], 0, 0, 0, none, none,
            k.armed.map fun f => (f.va, f.len), [], []⟩]
          taskNext := s2.taskNext + 1
          fv := s2.fv + 300 }
  | _, _ => s

/-! ## The other journal records (R342-R349) -/

/-- A release record: the completion record is written and the packet leaves its queue (R342); a destroyed queue goes
with its last packet (R343). -/
def State.releaseNow (s : State) (part num packet : Nat) : State :=
  match s.queue? part num with
  | none => s
  | some q =>
    match q.packets.find? fun k => k.id = packet && k.over with
    | none => s
    | some k =>
      let s1 := (s.record part q.ring (k.record num s.time (q.destroyed && k.dropped))).modQueue part num fun q =>
        { q with packets := q.packets.filter fun x => x.id ≠ packet }
      { s1 with queues := s1.queues.filter fun x => !(x.part == part && x.num == num && x.destroyed && x.packets.isEmpty) }

/-- A destroy record (R343): the head's remaining parts are dropped, the records of packets behind it are released at once, each as
the journal has its release (R349), after that of a head of which nothing runs (R342), armed entries that name the queue become FREE. -/
def State.destroyNow (s : State) (part num : Nat) : State :=
  match s.openQueue part num with
  | none => s
  | some q =>
    let hd := q.head.map QPacket.id
    let behind := q.packets.filter fun k => (k.unstarted || !k.openIdx.isEmpty) && some k.id != hd
    let s1 := s.modQueue part num fun q =>
      { q with destroyed := true, packets := (q.packets.filter fun k => !(behind.any fun b => b.id = k.id)).map fun k =>
          if some k.id = hd then { k with dropped := true } else k }
    let done := (s1.queue? part num).map fun q => q.packets.filter fun k => some k.id = hd && k.over
    let s2 := ((done.getD []).map fun k => JournalEvent.release part num k.id).foldl State.journal s1
    let s3 := behind.foldl (fun st k => st.journal (.whole part q.ring k.pk.cookie num 0xFFFFFFFF .destroyed)) s2
    { s3 with
      arms := s3.arms.filter fun a => !(a.part == part && a.queue == num)
      queues := s3.queues.filter fun x => !(x.part == part && x.num == num && x.destroyed && x.packets.isEmpty) }

/-- The pages of a landing buffer are mapped for reading and writing and stand in main memory (R344). -/
def State.bufferOk (s : State) (part va n : Nat) : Bool :=
  decide (va + n ≤ 2 ^ 56) && (mapGet s.parts part).any fun p =>
    !s.inTransition p (unitsOf va n) && (s.extentFault part p 3 va n).isNone
      && (unitsOf va n).all fun u => (pageAt p.pages u).any fun g => match g.place with
        | .main _ => true
        | _ => false

/-- The bytes of a landing buffer are reserved for another entry that is not FREE (R344, R345). -/
def State.bufferTaken (s : State) (e : ArmEntry) : Bool :=
  s.arms.any fun a => a.part == e.part && decide (a.bufVa < e.bufVa + e.bufLen) && decide (e.bufVa < a.bufVa + a.bufLen)

/-- An arm record (R344): refused when the tag's entry is not FREE, the table is full, or the queue is gone. -/
def State.armNow (s : State) (e : ArmEntry) : State :=
  if (s.arms.any fun a => a.part = e.part && a.tag = e.tag) ∨ 4096 ≤ s.arms.length ∨ (s.openQueue e.part e.queue).isNone
    ∨ ¬s.bufferOk e.part e.bufVa e.bufLen ∨ s.bufferTaken e then s
  else { s with arms := s.arms ++ [{ e with id := s.packetNext }], packetNext := s.packetNext + 1 }

/-- A fire record (R345): the packet is appended to its queue; a full queue gives a BUSY record and returns the entry (R342),
one that has been destroyed since, with the entry, a DESTROYED record. -/
def State.fireNow (s : State) (part num ring : Nat) (k : Packet) (f : Fired) : State :=
  let whole (st : EndStatus) : State := s.journal (.whole part ring k.cookie num 0xFFFFFFFF st)
  match s.openQueue part num with
  | none => whole .destroyed
  | some q =>
    if ¬s.arms.any fun a => a.part == part && a.id == f.id then whole .destroyed
    else if 1024 ≤ q.packets.length then (whole .busy).rearm part f.id
    else s.append part num k (some f)

/-- A graph record (R346). -/
def State.defineNow (s : State) (part graph : Nat) (nodes : List GraphNode) : State :=
  s.modPart part fun p => { p with graphs := mapSet p.graphs graph nodes }

/-- A disarm record: at once, or when the task of a FIRED entry ends (R344). -/
def State.disarmNow (s : State) (part tag : Nat) : State :=
  { s with arms := (s.arms.filter fun a => !(a.part == part && a.tag == tag && a.state == .armed)).map fun a =>
      if a.part = part ∧ a.tag = tag then { a with disarm := true } else a }

/-- A patch record (R347): refused where it would make the node invalid. -/
def State.patchNow (s : State) (part graph i : Nat) (new : GraphNode) : State :=
  s.modPart part fun p =>
    match mapGet p.graphs graph with
    | some ns =>
      if i < ns.length ∧ nodeOk p.ncores i new then { p with graphs := mapSet p.graphs graph (ns.set i new) } else p
    | none => p

/-- A replay-start record (R339, R346): the graph is taken as it stands, or the packet is rejected. -/
def State.replayNow (s : State) (part num packet : Nat) : State :=
  match mapGet s.parts part, s.queue? part num with
  | some p, some q =>
    match q.packets.find? fun k => k.id = packet && k.unstarted with
    | none => s
    | some k =>
      match mapGet p.graphs (k.pk.cookie % 65536) with
      | some ns => s.modQueue part num fun q =>
          { q with packets := q.packets.map fun x => if x.id = packet then { x with nodes := some ns } else x }
      | none =>
        (s.journal (.whole part q.ring k.pk.cookie num 0xFFFFFFFF .rejected)).modQueue part num fun q =>
          { q with packets := q.packets.filter fun x => x.id ≠ packet }
  | _, _ => s

/-- The settings of a queue are in range (R340). -/
def queueOk (num level weight : Nat) : Bool :=
  decide (num < 64) && decide (level < 8) && decide (1 ≤ weight) && decide (weight ≤ 16)

/-- A queue-create record (R340). -/
def State.createNow (s : State) (part num level weight ring : Nat) : State :=
  if (mapGet s.parts part).isNone ∨ (s.queue? part num).isSome ∨ ¬queueOk num level weight then s
  else { s with queues := s.queues ++ [⟨part, num, level, weight, ring, [], false, false⟩] }

/-- What a core keeps of its debug settings after its task has ended: nothing (R392). -/
def State.clearDebug (s : State) (id : Nat) : State :=
  s.modAll fun c => if c.task = id then { c with samplecfg := 0, dbgcfg := 0 } else c

/-- The partition that a record gives something new to. -/
def JournalEvent.adds : JournalEvent → Option Nat
  | .dispatch part .. | .queueCreate part .. | .define part .. | .patch part .. | .replayStart part .. => some part
  | .arm e => some e.part
  | _ => none

/-- A partition's teardown has begun (R390). -/
def State.goes (s : State) (part : Nat) : Bool := (mapGet s.parts part).any fun p => p.teardown.isSome

/-- A record that starts a part. -/
def JournalEvent.starts : JournalEvent → Bool
  | .dispatch .. => true
  | _ => false

/-- The effect of a journal record (R349). A record that would add to a partition whose teardown has begun meanwhile has none
(R390), nor has one that starts a part while dispatch is stopped (R350, R426): F1 decides anew. -/
def State.effect (s : State) (e : JournalEvent) : State :=
  if e.adds.any s.goes ∨ (e.starts ∧ (s.fw.thermalStop ∨ s.fw.stopped)) then s
  else match e with
  | .dispatch part queue packet idx => s.dispatchNow part queue packet idx
  | .taskEnd id =>
    match s.task? id with
    | some t =>
      match t.ending with
      | some e => (s.closeTask t e).clearDebug id
      | none => s
    | none => s
  | .release part queue packet => s.releaseNow part queue packet
  | .queueCreate part num level weight ring => s.createNow part num level weight ring
  | .queueDestroy part num => s.destroyNow part num
  | .arm e => s.armNow e
  | .disarm part tag => s.disarmNow part tag
  | .fire part queue ring pk f => s.fireNow part queue ring pk f
  | .define part graph nodes => s.defineNow part graph nodes
  | .whole part ring cookie queue first st => s.record part ring (wholeRecord cookie queue first s.time st)
  | .patch part graph i new => s.patchNow part graph i new
  | .replayStart part queue packet => s.replayNow part queue packet

/-! ## The start of a task (R136, R336, R345) -/

/-- Address ranges of n bytes from a virtual address under an entry, frame by frame. -/
def AlmanacEntry.allRanges (e : AlmanacEntry) (va n : Nat) : List (Nat × Nat) :=
  (unitsOf va n).map fun u => (e.phys (max va u), min (va + n) (u + 65536) - max va u)

/-- n bytes of package memory or of a lender's under an entry's frames, as F2 reads them. -/
def State.imageBytes (s : State) (e : AlmanacEntry) (va n : Nat) : List Byte :=
  (List.range n).map fun i =>
    match e.home with
    | none => memGet s.mem (e.phys (va + i))
    | some _ => memGet s.lentMem (e.offset + e.phys (va + i))

/-- VTOPO of a virtual core (R30). -/
def Partition.vtopo (p : Partition) (num v : Nat) : BitVec 64 :=
  BitVec.ofNat 64 (num * 2 ^ 56 + p.req.poolMb.getD (v / 64) 0 * 2 ^ 48 + p.ncores * 2 ^ 32 + v / 64 * 2 ^ 16 + v / 8 * 2 ^ 11
    + v % 8 * 2 ^ 8 + v)

/-- A crew core ready for its first instruction (R136, R336). CREW holds SIZE in bits [24:16] and the rank below them, as R135
gives it; the pool slots that the example of R19 shows would have SIZE 0 (log entry 54). -/
def Core.load (c : Core) (t : Task) (rank : Nat) (topo cfg : BitVec 64) (pool : Nat) (image : List Byte) (tok : Token) (first : Nat) : Core :=
  let i := Core.initial c.phys
  { i with
    ctx := .starting
    task := t.id
    s := i.s.set 31 (BitVec.ofNat 64 t.desc.sbase)
    k := i.k.set 15 tok
    pc := BitVec.ofNat 32 t.desc.entry
    tvec := BitVec.ofNat 32 t.desc.tvec
    sbase := BitVec.ofNat 32 t.desc.sbase
    slimit := BitVec.ofNat 32 t.desc.slimit
    crew := BitVec.ofNat 64 (t.cores.length * 2 ^ 16 + rank)
    vtopo := topo
    poolAt := pool
    samplecfg := cfg
    dbgcfg := c.dbgcfg
    scr := memWrite c.scr t.desc.load image
    lanes := c.lanes
    wb := c.wb
    sweeps := c.sweeps
    accNext := c.accNext
    cmdNext := c.cmdNext
    events := c.events
    nextIssue := first }

/-- The translation of a task's image or payload is made: its entry, and the state after it. -/
def State.fillFor (s : State) (t : Task) (va len : Nat) (rights : BitVec 2) : Option (Token × State) :=
  match s.xlatPlan t.part (BitVec.ofNat 64 va) (BitVec.ofNat 64 len) rights with
  | .ok home gran mode frames => some (s.fillEntry t.part t.id va len rights home gran mode frames)
  | _ => none

/-- Where the payload of an armed task landed; one of no bytes is not translated (R345). -/
def Task.landed (t : Task) : Option (Nat × Nat) := t.payload.filter fun b => b.2 ≠ 0

/-- The first line in a state that F2 meets as it reads an image under an entry (R385). -/
def State.imageLine (s : State) (e : AlmanacEntry) (va n : Nat) (x : LineState) : Option Nat :=
  match e.home with
  | some _ => none
  | none => (e.allRanges va n).findSome? fun r => s.firstLine .main r.1 r.2 x

/-- F3 counts the corrected errors of the lines that F2 reads of an image (R385). -/
def State.readImage (s : State) (e : AlmanacEntry) (va n : Nat) : State :=
  match e.home with
  | some _ => s
  | none => (e.allRanges va n).foldl (fun st r => st.countCorrected .main r.1 r.2) s

/-- The crew is loaded and starts, each core on a cycle of its own (R136). -/
def State.startCrew (s : State) (t : Task) (p : Partition) (image : List Byte) (tok : Token) : State :=
  let s1 := t.cores.zipIdx.foldl (fun st x =>
    (st.ensureCore x.1).modAt x.1 fun c =>
      c.load t x.2 (p.vtopo t.part (p.virt x.1)) ((mapGet p.sampling (p.virt x.1)).getD 0)
        (st.poolBase t.part (p.virt x.1 / 64)) image tok
        (st.now + 1 + Config.untimedDelay (st.fv + x.2))) s
  let s2 := s1.modPart t.part fun q => { q with sampling := t.cores.foldl (fun m n => mapErase m (p.virt n)) q.sampling }
  { s2.modTask t.id (fun x => { x with loaded := true }) with fv := s2.fv + 256 }

/-- F2's next step toward the start of a dispatched task: payload and image translated, faults resolved or the part ended
with IMAGE, then the crew loaded. The payload's translation needs a share entry of its own (R345). An image with a poisoned line
ends the part with IMAGE, and one with a line that fails its MAC does so and is logged (R385; DESIGN CHOICE, log entry 52). -/
def State.loadStep (s : State) (t : Task) : Option State :=
  let fail := some (s.endTask t.id .image 0 0 0)
  let go (r : Option F2Act) (k : Option State) : Option State := match r with
    | none => k
    | some (.act s1) => some s1
    | some .wait => none
    | some .deliver => fail
  let buf := t.landed
  go (buf.bind fun b => s.resolve t.part b.1 b.2 3) <|
    go (s.resolve t.part t.desc.imgVa t.desc.imgLen 1) <|
      (mapGet s.parts t.part).bind fun p =>
        (s.fillFor t t.desc.imgVa t.desc.imgLen 1).bind fun x =>
          let e := x.2.entry x.1.index.toNat
          let image := s.imageBytes e t.desc.imgVa t.desc.imgLen
          let s1 := { x.2.readImage e t.desc.imgVa t.desc.imgLen with releases := x.2.releases ++ [(x.1.index.toNat, x.1.gen.toNat)] }
          if (s.imageLine e t.desc.imgVa t.desc.imgLen .poisoned).isSome then fail
          else match s.imageLine e t.desc.imgVa t.desc.imgLen .badMac with
          | some l => some ((s.logIntegrity t.part l none 0).endTask t.id .image 0 0 0)
          | none =>
            match buf with
            | none => some (s1.startCrew t p image Token.zero)
            | some b =>
              match s1.fillFor t b.1 b.2 3 with
              | some y => some (y.2.startCrew t p image y.1)
              | none => go (some (s.freeShare t.part)) none

end Sys2Proof.Machine
end

