-- ==== Sys2Proof/Machine/Scheduling.lean ====
section
/-! DEFINITION. The events of launching: packets, queues, armed launches, graphs, the journal, dispatch, the start and end
of tasks, pre-emption and contexts, takeover (15 R335-R350, 07 R149, R150, 16 R363-R365). An event whose condition does
not hold leaves the state as it is. -/

namespace Sys2Proof.Machine

/-! ## Messages of a job (R372) -/

/-- A message of a partition's job is admitted: the service is up and the partition exists. -/
def State.admits (s : State) (part : Nat) : Option Partition :=
  if s.boot = .running ∧ s.bootStep = 7 then (mapGet s.parts part).filter fun p => p.teardown.isNone else none

/-- A packet arrives at a queue: rejected, busy, or appended (R335, R339, R342). The record of one that is not appended is
released as F1's journal has it (R349). -/
def State.submit (s : State) (part num : Nat) (k : Packet) (bad : Partition → Option Nat) : State :=
  match s.admits part, s.openQueue part num with
  | some p, some q =>
    match bad p with
    | some first => s.post (.whole part q.ring k.cookie num first .rejected)
    | none =>
      if 1024 ≤ q.packets.length then s.post (.whole part q.ring k.cookie num 0xFFFFFFFF .busy)
      else (s.append part num k none).settleQueues
  | _, _ => s

/-- What is wrong with a TASKS packet: FIRST of its REJECTED record (R335, R339). -/
def tasksBad (k : Packet) (p : Partition) : Option Nat :=
  if ¬tasksHeader k then some 0xFFFFFFFF else k.parts.findIdx? fun d => !descOk p.ncores d

/-- TASKS (R339). -/
def execTasks (part queue : Nat) (msg : List (BitVec 8)) (s : State) : Out :=
  .next (s.submit part queue (Packet.read msg) (tasksBad (Packet.read msg)))

/-- REPLAY (R339): its graph is looked up when it reaches the head. -/
def execReplay (part queue : Nat) (msg : List (BitVec 8)) (s : State) : Out :=
  .next (s.submit part queue (Packet.read msg) fun _ => if replayHeader (Packet.read msg) then none else some 0xFFFFFFFF)

/-! ## Control requests (R340, R343, R344, R346, R347) -/

/-- A request of a partition's job reaches F1's mailbox (R348, R372). -/
def State.request (s : State) (part : Nat) (e : Request) : State :=
  match s.admits part with
  | some _ => s.post e
  | none => s

/-- QUEUE_CREATE (R340). -/
def execQueueCreate (part queue level weight ring : Nat) (s : State) : Out :=
  .next (s.request part (.queueCreate part queue level weight ring))

/-- QUEUE_DESTROY (R343). -/
def execQueueDestroy (part queue : Nat) (s : State) : Out := .next (s.request part (.queueDestroy part queue))

/-- ARM (R344). -/
def execArm (part tag queue : Nat) (msg : List (BitVec 8)) (bufLen bufVa : Nat) (rearm : Bool) (s : State) : Out :=
  .next (s.request part (.arm ⟨0, part, tag, queue, Packet.read msg, bufLen, bufVa, rearm, .armed, false⟩))

/-- DISARM (R344). -/
def execDisarm (part tag : Nat) (s : State) : Out := .next (s.request part (.disarm part tag))

/-- The payload lands in the buffer at its pages' frames (R345). -/
def State.land (s : State) (p : Partition) (va : Nat) (bytes : List Byte) : State :=
  s.fwWrite (bytes.zipIdx.filterMap fun x =>
    let a := va + x.2
    ((pageAt p.pages a).bind fun g => pageFrame p.req.groups g (a / 65536 * 65536)).map fun f => (f * 65536 + a % 65536, x.1))

/-- The launch tag in the first 16 bytes of a FIRE message (R345). -/
def fireTag (head : List (BitVec 8)) : Nat := field head 4 4

/-- FIRE (R345), a message of 16 bytes and a payload: F0 lands the payload, marks the entry FIRED, sets the queue's kick bit, and its packet is appended as F1's
journal has it (R349). A message that does not fire changes nothing. -/
def execFire (part : Nat) (head payload : List (BitVec 8)) (s : State) : Out :=
  match s.admits part, s.arms.find? fun a => a.part == part && a.tag == fireTag head && a.state == .armed with
  | some p, some a =>
    if head.length ≠ 16 ∨ a.bufLen < payload.length then .next s
    else
      let s1 := (s.land p a.bufVa payload).modQueue part a.queue fun q => { q with kicked := true }
      .next (State.post { s1 with arms := s1.arms.map fun (x : ArmEntry) => if x.part = part ∧ x.id = a.id then { x with state := .fired } else x }
        (.fire part a.queue (((s.queue? part a.queue).map Queue.ring).getD 0) a.pk ⟨a.tag, a.id, a.bufVa, payload.length⟩))
  | _, _ => .next s

/-- The nodes of a graph from their messages. -/
def nodesOf (ms : List NodeMessage) : Option (List GraphNode) :=
  match ms with
  | [] => some []
  | m :: rest => (NodeMessage.node m).bind fun n => (nodesOf rest).map fun ns => n :: ns

/-- GRAPH_DEFINE (R346). -/
def execGraphDefine (part graph : Nat) (nodes : List NodeMessage) (s : State) : Out :=
  match nodesOf nodes with
  | some ns => .next (s.request part (.define part graph ns))
  | none => .next s

/-- PATCH (R347). -/
def execPatch (part graph node : Nat) (new : NodeMessage) (s : State) : Out :=
  match NodeMessage.node new with
  | some n => .next (s.request part (.patch part graph node n))
  | none => .next s

/-- The nodes a graph is defined with are valid (R346). -/
def graphOk (ncores graph : Nat) (nodes : List GraphNode) : Bool :=
  decide (graph < 256) && decide (nodes.length ≤ 512) && nodes.zipIdx.all fun x => nodeOk ncores x.2 x.1

/-- F1 accepts a request that waits in its mailbox; another is refused and changes nothing (R340, R343, R344, R346, R347). -/
def State.accepts (s : State) (e : Request) : Bool :=
  let live (part : Nat) (ok : Partition → Bool) : Bool := (mapGet s.parts part).any fun p => p.teardown.isNone && ok p
  match e with
  | .queueCreate part queue level weight _ => live part fun _ => (s.queue? part queue).isNone && queueOk queue level weight
  | .queueDestroy part queue => (s.openQueue part queue).isSome
  | .arm a => live a.part fun p =>
      tasksHeader a.pk && decide (a.pk.nparts = 1) && (tasksBad a.pk p).isNone && decide (64 ≤ a.bufLen)
        && decide (a.bufLen ≤ 2 ^ 24) && decide (a.tag < 2 ^ 32) && !s.arms.any fun x => x.part == a.part && x.tag == a.tag
  | .disarm part tag => s.arms.any fun a => a.part == part && a.tag == tag
  | .define part graph nodes => live part fun p => graphOk p.ncores graph nodes
  | .patch part graph node new => live part fun p => match mapGet p.graphs graph with
    | some ns => decide (node < ns.length) && nodeOk p.ncores node new
    | none => false
  | .fire .. | .whole .. => true
  | .dispatch .. | .taskEnd _ | .release .. | .replayStart .. => false

/-- F1 takes the oldest message of its mailbox and enters what it accepts in its journal (R348, R349). -/
def State.acceptStep (s : State) : Option State :=
  match s.fw.requests with
  | [] => none
  | e :: rest =>
    if ¬s.scheduling ∨ ¬s.journalOpen then none
    else
      let s1 : State := { s with fw := { s.fw with requests := rest } }
      some (if s.accepts e then s1.journal e else s1)

/-- A request finds F1's mailbox full and waits (R348). -/
def State.mailboxFull (s : State) : Bool := decide (mailboxSlots ≤ s.fw.requests.length)

/-! ## The journal and dispatch (R341, R349) -/

/-- JOURNAL_ACK (R349): the oldest record without an acknowledgement takes effect. -/
def execJournalAck (s : State) : Out :=
  match s.unacked with
  | [] => .next s
  | e :: _ =>
    if s.scheduling then
      .next (State.settleQueues (State.effect { s with fw := { s.fw with acked := s.fw.acked + 1 } }.enterOwed e))
    else .next s

/-- DISPATCH_ROUND (R341): F1 enters its decision in the journal. -/
def execDispatchRound (part : Nat) (s : State) : Out :=
  match s.round part with
  | some e => .next (s.journal e)
  | none => .next s

/-- IMAGE_LOAD (R336). -/
def execImageLoad (task : Nat) (s : State) : Out :=
  match s.task? task with
  | none => .next s
  | some t => if t.loaded ∨ t.ending.isSome then .next s else .next ((s.loadStep t).getD s)

/-! ## The time limit (R337) -/

/-- The time in ns a task may still run, by the package's clock: none without a limit (R337, R379). -/
def State.limitLeft (s : State) (t : Task) : Option Nat :=
  if t.desc.tlimit = 0 then none
  else some (t.desc.tlimit * 1000 - (s.time - t.startedAt.getD s.time))

/-- The program counter of a task's core, running or saved. -/
def State.pcOf (s : State) (t : Task) (n : Nat) : BitVec 32 :=
  match s.saved.find? fun x => x.core.phys == n && x.core.task == t.id with
  | some x => x.core.pc
  | none => ((s.coreAt n).map Core.pc).getD 0

/-- TLIMIT_EXPIRY (R337): the lowest rank that has not retired `end`, at the instruction it would next have issued. -/
def execTlimitExpiry (task : Nat) (s : State) : Out :=
  match s.task? task with
  | none => .next s
  | some t =>
    if t.ending.isNone ∧ t.startedAt.isSome ∧ s.limitLeft t = some 0 ∧ s.scheduling then
      let rank := ((List.range t.cores.length).find? fun r => !t.ended.contains r).getD 0
      .next (s.endTask task .limit 0 rank (s.pcOf t (t.cores.getD rank 0)))
    else .next s

/-! ## Pre-emption and contexts (R27, R148-R150, R363-R365) -/

/-- A core of the cluster that has not stopped for its gang. -/
def Core.inGang (c : Core) (k : Nat) : Bool := clusterOf c.phys == k && (c.ctx == .starting || c.ctx == .running || c.ctx == .frozen)

/-- Change the record of a cluster. -/
def State.modCluster (s : State) (k : Nat) (f : Cluster → Cluster) : State :=
  { s with clusters := mapSet s.clusters k (f (s.cluster k)) }

/-- PREEMPTION_REQUEST (R150): posted to the cores of the cluster as a gang. -/
def execPreemptionRequest (cluster : Nat) (s : State) : Out :=
  if s.cores.any fun c => c.inGang cluster then
    .next ((s.modAll fun c => if c.inGang cluster then { c with preempt := true } else c).modCluster cluster fun k =>
      { k with gangSince := some (k.gangSince.getD s.now) })
  else .next s

/-- The registers a context saves (R149, R173, R400): those of the core after its `yield`, vectors outside the mask zero, the
accumulator tiles and the Lantern state at their initial values, VIGIL as the `yield` sets it (R148), FMTSTAT with the bits that
are still to be set (R181, R182). Only the reply of a held arrival is still to come (R144). -/
def Core.savedImage (c : Core) (cnt : BitVec 12) (mask : BitVec 16) : Core :=
  let d := (c.advance).finish false 0
  { d with
    vigil := cnt.setWidth 16 <<< 4
    fmtstat := d.fmtLate.foldl (fun m x => m ||| x.2) d.fmtstat
    fmtLate := []
    v := ⟨(List.range 16).map (fun i => if mask.getLsbD i then d.v.toArray.getD i (Vector.replicate 1024 0) else Vector.replicate 1024 0)
      |>.toArray, by simp⟩
    tiles := Vector.replicate 8 (Vector.replicate 128 0)
    tileFinal := Vector.replicate 8 0
    lan := Lantern.initial
    tfc := []
    tfcReq := none
    ready := d.ready.filter fun x => decide (2 ^ 62 ≤ x.2)
    preempt := false
    dump := false
    stopAt := none
    events := [] }

/-- The core after its context has gone: its local memories stay until the cluster passes on (R27). -/
def Core.vacant (c : Core) : Core :=
  { (Core.initial c.phys).withMemories c with
    accNext := c.accNext, cmdNext := c.cmdNext, sweeps := c.sweeps, acted := true, events := c.events }

/-- The pre-empting `yield` has drained and can be saved. -/
def Core.saveMask (c : Core) (now : Nat) : Option (BitVec 12 × BitVec 16) :=
  match c.cur, c.waiting with
  | some (.yield cnt mask), .drain =>
    if c.ctx == .running && c.preempt && !c.dump && c.drained && c.late.isEmpty && !c.reporting now then some (cnt, mask) else none
  | _, _ => none

/-- The gang request of a cluster ends when no core of it still runs (R150). -/
def State.gangDone (s : State) (k : Nat) : State :=
  if s.cores.any fun c => c.inGang k && c.preempt then s else s.modCluster k fun x => { x with gangSince := none }

/-- F6 reports a stop armed for the core that the save cancels (R405). -/
def State.stopCancelled (s : State) : State :=
  if s.core.stopAt.isSome then
    { s with fw := { s.fw with telemetryFlags := s.fw.telemetryFlags ++ [.stopCancelled s.core.phys] } }
  else s

/-- CONTEXT_SAVE (R363): whether the image is damaged while it is kept is free (R365). -/
def execContextSave (s : State) : Out :=
  match s.core.saveMask s.now with
  | none => .next s
  | some (cnt, mask) =>
    let s1 : State := { s.stopCancelled with
      saved := s.saved ++ [⟨s.seq, s.core.savedImage cnt mask, Config.choice s.fv⟩]
      core := s.core.vacant
      seq := s.seq + 1
      fv := s.fv + 1 }
    .next (s1.gangDone (clusterOf s.core.phys))

/-- Run a change on the core of a physical number as the running one. -/
def State.onCore (s : State) (n : Nat) (f : State → State) : State :=
  match s.coreAt n with
  | none => s
  | some c =>
    let s1 := f { s with core := c, others := s.cores.filter fun x => x.phys ≠ n }
    let order := s.cores.map Core.phys
    { s1 with
      core := (s1.coreAt s.core.phys).getD s1.core
      others := (s.others.filterMap fun x => s1.coreAt x.phys) ++ s1.cores.filter fun x => !order.contains x.phys }

/-- The frames of an entry pass the POT: its partition owns them, in its world and the entry's mode (R34). -/
def State.framesPass (s : State) (e : AlmanacEntry) : Bool :=
  e.home.isSome || (mapGet s.parts e.owner).any fun p => e.frames.all fun f =>
    (s.potOf f).world == p.req.world && (s.potOf f).owner == .part e.owner && (s.potOf f).mode == e.mode

/-- The entries that a core's valid token registers stand for as they were made. -/
def State.heldEntry (s : State) (c : Core) (i : Nat) : Option AlmanacEntry :=
  let t := c.rk (BitVec.ofNat 4 i)
  let e := s.entry t.index.toNat
  if t.gen ≠ 0 ∧ t.part.toNat = c.partId ∧ e.owner = t.part.toNat ∧ e.state = .active ∧ e.gen = t.gen then some e else none

/-- The token registers that are stale after a restore: by their entries, or because their frames no longer pass the POT
(R61). -/
def State.restoreMask (s : State) : Word :=
  s.staleMask ||| BitVec.ofNat 64 ((List.range 16).foldr (fun i acc =>
    2 * acc + ((s.heldEntry s.core i).any fun e => !s.framesPass e).toNat) 0)

/-- The revalidation of a context waits for a frame in TRANSITION (R382). -/
def State.restoreWaits (s : State) (c : Core) : Bool :=
  (List.range 16).any fun i => (s.heldEntry c i).any fun e => e.home.isNone && e.frames.any fun f => (s.potOf f).transition

/-- Put a saved context back on its core: registers as saved, memories in place, then the revalidation of R61. -/
def State.restoreNow (s : State) (x : Saved) : State :=
  let n := x.core.phys
  let topo := ((mapGet s.parts x.core.partId).map fun p => p.vtopo x.core.partId (p.virt n)).getD x.core.vtopo
  let s1 := (s.ensureCore n).modAt n fun c =>
    { x.core.withMemories c with
      vtopo := topo
      poolAt := s.poolBase x.core.partId x.core.vdie
      rows := [], rowReads := [], lastRow := none, jumped := false
      ctx := .starting, accNext := c.accNext, cmdNext := c.cmdNext, sweeps := c.sweeps, events := c.events
      nextIssue := s.now + 1 + Config.untimedDelay s.fv }
  State.onCore { s1 with saved := s1.saved.filter fun y => y.id ≠ x.id, fv := s1.fv + 1 } n fun st =>
    let mask := st.restoreMask
    if mask ≠ 0 ∨ st.core.revpend then State.takeTrap (st.mod fun c => { c with revpend := false }) 7 mask st.core.pc
    else st

/-- A restore: one of a damaged image fails, ends the task, and F3 logs it (R365). -/
def State.restore (s : State) (x : Saved) : State :=
  if x.damaged then
    { s with fw := { s.fw with errors := s.fw.errors ++ [F3Entry.restore x.core.task] } }.endTask x.core.task .fault 0 x.core.rank
      x.core.pc
  else s.restoreNow x

/-- No other context stands on the cluster's cores but those of the partition's own gang, and no dispatched task of another
partition holds one (R27). -/
def State.clusterOpen (s : State) (part k n : Nat) : Bool :=
  s.cores.all (fun c => clusterOf c.phys != k || (c.phys == n && !c.busy) || (c.phys != n && (!c.busy || c.partId == part)))
    && s.tasks.all fun t => t.ending.isSome || t.part == part || t.cores.all fun m => clusterOf m != k || !s.holdsCore t m

/-- A virtual cluster of a partition can go from one physical cluster to another: all its contexts are saved, and the dies stay
as R26 wants them, with room for the allotment (R29). -/
def State.moveOk (s : State) (part k k' : Nat) : Bool :=
  (mapGet s.parts part).any fun p =>
    let new := p.req.clusters.map fun x => if x = k then k' else x
    p.req.clusters.contains k && !p.req.clusters.contains k' && diesOk new
      && s.cores.all (fun c => clusterOf c.phys != k || c.partId != part || !c.busy)
      && (k / 8 == k' / 8 || (s.poolOf? part (p.req.clusters.idxOf k / 8)).all fun r =>
        (poolGap (s.pools.erase r) (k' / 8) r.mb).isSome)

/-- What stands against restoring a context to a core now. -/
def State.restoreHeld (s : State) (core : Nat) (x : Saved) : Bool :=
  let part := x.core.partId
  let k := clusterOf x.core.phys
  !s.taskLive x.core.task || !s.clusterOpen part (clusterOf core) core
    || (k != clusterOf core && !s.moveOk part k (clusterOf core))
    || s.unacked.any (fun e => match e with | .dispatch .. => true | _ => false)
    || s.tasks.any fun t => t.ending.isNone && t.id != x.core.task && t.cores.any fun n => n == core && s.holdsCore t n

/-- The context as it stands once its virtual cluster is on a physical one and that serves its partition (R364). -/
def State.bring (s : State) (x : Saved) (k : Nat) : State :=
  let s1 := if clusterOf x.core.phys = k then s else s.moveCluster x.core.partId (clusterOf x.core.phys) k
  s1.handover k x.core.partId

/-- A saved context by its number, for the position of a core. -/
def State.savedFor (s : State) (core ctx : Nat) : Option Saved :=
  s.saved.find? fun x => x.id = ctx && posOf x.core.phys = posOf core

/-- CONTEXT_RESTORE (R364, R365): on the core it was saved from, or, with its whole virtual cluster, on another. -/
def execContextRestore (core ctx : Nat) (s : State) : Out :=
  match s.savedFor core ctx with
  | none => .next s
  | some x =>
    if s.restoreHeld core x then .next s
    else
      let s1 := s.bring x (clusterOf core)
      .next (s1.restore ((s1.savedFor core ctx).getD x))

/-- The saved contexts of a cluster's gang. -/
def State.stoppedGang (s : State) (k : Nat) : List Saved :=
  s.saved.filter fun x => clusterOf x.core.phys = k && some x.core.partId = (s.cluster k).owner && s.taskLive x.core.task

/-- The request of a cluster's gang is withdrawn: cores that have stopped are restored (R150), until a damaged image ends their
task (R365). -/
def State.withdrawGang (s : State) (k : Nat) : State :=
  let stopped := s.stoppedGang k
  let s1 := (s.modAll fun c => if clusterOf c.phys = k then { c with preempt := false } else c).modCluster k fun x =>
    { x with gangSince := none }
  stopped.foldl (fun st x => if st.taskLive x.core.task then st.restore x else st) s1

/-- Some context of the gang cannot be revalidated yet (R382). -/
def State.gangWaits (s : State) (k : Nat) : Bool := (s.stoppedGang k).any fun x => s.restoreWaits x.core

/-- GANG_WITHDRAW (R150): 2 ms after the request, while some core has not stopped; a request that every core has satisfied is
over. -/
def execGangWithdraw (cluster : Nat) (s : State) : Out :=
  match (s.cluster cluster).gangSince with
  | none => .next s
  | some t =>
    if ¬s.cores.any fun c => c.inGang cluster && c.preempt then .next (s.gangDone cluster)
    else if t + Config.gangWithdrawCycles ≤ s.now ∧ s.scheduling ∧ ¬s.gangWaits cluster then .next (s.withdrawGang cluster)
    else .next s

/-! ## Firmware failures (R348, R350) -/

/-- UNCORRECTABLE_ERROR_REPORT (R348, R350): F3 notes it; one in F1's instruction memory halts F1; a later one in F7 stops
dispatch, be the takeover over or not; one in F4's instruction memory keeps F4 from responding, and F3 raises the module reset
(R428; DESIGN CHOICE, log entry 67). -/
def execUncorrectableErrorReport (fcore : Nat) (imem : Bool) (s : State) : Out :=
  let fw := { s.fw with errors := s.fw.errors ++ [.firmware fcore imem] }
  if fcore = 1 ∧ imem ∧ ¬fw.schedulerF7 then .next { s with fw := { fw with f1Halted := true } }
  else if fcore = 4 ∧ imem then .next { s with fw := { fw with f4Halted := true } }
  else if fcore = 7 ∧ fw.f1Halted then .next { s with fw := { fw with stopped := true, telemetryFlags := fw.telemetryFlags ++ [.failed] } }
  else .next { s with fw := fw }

/-- A journal record that a takeover keeps: what F0 has reported, the end of a task and a fire, and the releases of records, in
their order (R345, R350; log entry 24). -/
def isReported (e : JournalEvent) : Bool :=
  match e with
  | .taskEnd _ | .fire .. | .whole .. | .release .. => true
  | _ => false

/-- Clusters with a gang request under way. -/
def State.gangs (s : State) : List Nat := (s.clusters.filter fun x => x.2.gangSince.isSome).map (·.1)

/-- TAKEOVER (R350): F7 goes on from the acknowledged records and what F0 has reported since; gang requests are withdrawn;
every kicked queue is looked at again. -/
def execTakeover (s : State) : Out :=
  if s.fw.f1Halted ∧ ¬s.fw.schedulerF7 ∧ ¬s.gangs.any s.gangWaits then
    let s1 := State.enterOwed { s with fw := { s.fw with
      journal := s.fw.journal.take s.fw.acked, owed := (s.unacked ++ s.fw.owed).filter isReported, schedulerF7 := true } }
    .next (s1.gangs.foldl (fun st k => st.withdrawGang k) s1).settleQueues
  else .next s

end Sys2Proof.Machine
end

