-- ==== Sys2Proof/Machine/Services.lean ====
section
/-! DEFINITION. Events that meet a strand: replies of the resident service, watches installed, Vigil, reserved words, the
release of the Equinox, held arrivals, deferred reports, the answer to an `xlat` fault (10 R230, 19 R408, 07 R140-R147,
16 R351-R361, 03 R42). -/

namespace Sys2Proof.Machine

/-! ## The resident service (R230) -/

/-- A core's `svc` of a number awaits its reply and firmware has come to it. -/
def Core.serviceDue (c : Core) (n : BitVec 5 → Bool) (now : Nat) : Bool :=
  match c.cur, c.waiting with
  | some (.svc k), .svc due none => n k && decide (due ≤ now) && c.ctx == .running
  | _, _ => false

/-- The reply: `s1` (none: unchanged) and `s2`. -/
def Core.reply (c : Core) (r1 : Option Word) (r2 : Word) : Core :=
  match c.waiting with
  | .svc due none => { c with waiting := .svc due (some (r1, r2)) }
  | _ => c

/-- Reply to the core if it awaits this service. -/
def State.serve (s : State) (core : Nat) (n : BitVec 5 → Bool) (f : Core → State → State) : State :=
  match s.coreAt core with
  | some c => if c.serviceDue n s.now then f c s else s
  | none => s

/-- SVC_TIME (R230). -/
def execSvcTime (core : Nat) (s : State) : Out :=
  .next (s.serve core (fun n => n == 0) fun _ st => st.modAt core fun c => c.reply (some (BitVec.ofNat 64 st.time)) 0)

/-- Places of a partition's telemetry log (R230). -/
def logPlaces : Nat := 65536

/-- SVC_LOG (R230). -/
def execSvcLog (core : Nat) (s : State) : Out :=
  .next (s.serve core (fun n => n == 1) fun c st =>
    let full : Bool := (mapGet st.parts c.partId).all fun p => decide (logPlaces ≤ p.log.length)
    let rec' := [c.rs 1, c.rs 2, c.rs 3, c.rs 4].map BitVec.toNat ++ [c.rank]
    (st.modPart c.partId fun p =>
      if full then { p with logDropped := p.logDropped + 1 } else { p with log := p.log ++ [rec'] }).modAt core fun k =>
        k.reply none (boolWord full))

/-- Whole microseconds that hold a time in ns. -/
def microsUp (ns : Nat) : Nat := (ns + 999) / 1000

/-- SVC_LIMIT (R230). -/
def execSvcLimit (core : Nat) (s : State) : Out :=
  .next (s.serve core (fun n => n == 2) fun c st =>
    let left := ((st.task? c.task).bind fun t => st.limitLeft t).getD 0
    st.modAt core fun k => k.reply (some (BitVec.ofNat 64 (microsUp left))) 0)

/-- SVC_UNASSIGNED (R230). -/
def execSvcUnassigned (core : Nat) (s : State) : Out :=
  .next (s.serve core (fun n => decide (3 ≤ n.toNat)) fun _ st => st.modAt core fun c => c.reply none (BitVec.allOnes 64))

/-- TELEMETRY_LOG_DRAIN (R230). -/
def execTelemetryLogDrain (part count : Nat) (s : State) : Out :=
  .next (s.modPart part fun p => { p with log := p.log.drop count })

/-- WATCH_INSTALLED (R408). -/
def execWatchInstalled (s : State) : Out :=
  match s.core.waiting with
  | .install due false => if due ≤ s.now then .next (s.mod fun c => { c with waiting := .install due true }) else .next s
  | _ => .next s

/-! ## Faults at issue (R147, R200) -/

/-- VIGIL (R147): an instruction other than `yield` and `end` is at issue with COUNT = 0. -/
def execVigil (s : State) : Out :=
  match s.core.cur with
  | some i => if s.core.vigil = 0 ∧ ¬vigilExempt i ∧ ¬s.core.waiting.committed then .next s.vigilFault else .next s
  | none => .next s

/-- RESERVED_ENCODING (R200). -/
def execReservedEncoding (word : BitVec 32) (s : State) : Out :=
  .next (s.takeTrap 1 (word.setWidth 64) s.core.pc)

/-! ## The Equinox (R140) -/

/-- Every crew core has arrived at the next instance; cores that have retired `end` count as arrived. -/
def Task.allArrived (t : Task) : Bool :=
  !t.arrivals.isEmpty && (List.range t.cores.length).all fun r => t.ended.contains r || t.arrivals.any fun a => a.1 = r

/-- CALENDAR a core would show on this cycle if it were not stopped. -/
def Core.calendarNow (c : Core) : Nat := c.calendar.toNat + (if c.ctx = .running then 0 else 1)

/-- The crew cores that have not retired `end`. -/
def Task.liveCores (t : Task) : List Nat := (t.cores.zipIdx.filter fun x => !t.ended.contains x.2).map (·.1)

/-- A core that waits at the instance that is released hears of its last arriver (R141, R399). -/
def Core.hear (c : Core) (last : Nat) : Core :=
  match c.waiting with
  | .equinox n none => { c with waiting := .equinox n (some last) }
  | _ => c

/-- The release: Calendars of an all-`align` instance become M + 1 (R140). -/
def State.releaseEquinox (s : State) (t : Task) : State :=
  let live := t.liveCores
  let top := (s.cores.filter fun c => live.contains c.phys).foldl (fun m c => max m c.calendarNow) 0
  let s1 := (s.modTask t.id fun x => { x with released := x.released + 1, arrivals := [], releaseDue := 0 }).modAll fun c =>
    if live.contains c.phys then c.hear t.lastArriver else c
  if t.arrivals.all fun a => a.2 then
    s1.modAll fun c => if live.contains c.phys then { c with calendar := BitVec.ofNat 64 top } else c
  else s1

/-- EQUINOX_RELEASE (R140): untimed after the last arrival. A crew of one is released in the first part of the cycle after its
arrival; R140 says as soon as it arrives and names no cycle (DESIGN CHOICE, log entry 66). -/
def execEquinoxRelease (task : Nat) (s : State) : Out :=
  match s.task? task with
  | none => .next s
  | some t =>
    if ¬t.allArrived ∨ t.ending.isSome then .next s
    else if t.cores.length = 1 then .next (s.releaseEquinox t)
    else if t.releaseDue = 0 then
      .next { s.modTask task (fun x => { x with releaseDue := s.dueCycle }) with fv := s.fv + 1 }
    else if t.releaseDue ≤ s.now then .next (s.releaseEquinox t)
    else .next s

/-! ## Held arrivals (R144, R145) -/

/-- A held reply comes at a cycle. -/
def Core.answerHeld (c : Core) (mark cycle : Nat) : Core :=
  { c with ready := c.ready.map fun x => if x.2 = mark then (x.1, cycle) else x }

/-- A held arrival can be applied: the phase it belongs to has begun. -/
def Barrier.canApply (b : Barrier) (q : Nat) : Bool := b.held.contains (q, b.phase)

/-- BAR_HELD_ARRIVAL (R144): the core, or its saved context, gets its reply untimed. -/
def execBarHeldArrival (cluster : Nat) (id : BitVec 5) (pos : BitVec 3) (s : State) : Out :=
  let b := (s.cluster cluster).bars[id.toNat]
  if b.canApply pos.toNat then
    let mark := heldReply id b.phase
    let n := 8 * cluster + pos.toNat
    let s1 := s.modBar cluster id fun b => { b with held := b.held.erase (pos.toNat, b.phase) }.arrive pos.toNat
    let s2 := s1.modAt n fun c => c.answerHeld mark s.dueCycle
    .next { s2 with
      saved := s2.saved.map fun x => if x.core.phys = n then { x with core := x.core.answerHeld mark s.dueCycle } else x
      fv := s2.fv + 1 }
  else .next s

/-! ## Deferred reports (R260, R300, R301, R354-R361, R412) -/

/-- An engine at its trap's entry is emptied, the matrix engine with FQ (R300). -/
def Core.emptyEngine (c : Core) (e : EngineId) : Core :=
  let c1 := c.modEng e fun g => { g with queue := [], hand := [], stack := [], cond := none, report := none }
  if e = .matrix then { c1 with fq := [] } else c1

/-- TRAPVAL of ENGINE and SCHEDMISS (R299). -/
def EngineReport.val (r : EngineReport) : Word := BitVec.ofNat 2 (engNum r.eng) ++ r.sub ++ r.widx ++ r.stamp

/-- TRAPVAL of WATCH (R410): SKID of an engine write counts to this cycle. -/
def WatchReport.val (r : WatchReport) (lost : Bool) (now : Nat) : Word :=
  let skid : BitVec 7 := if r.kind = 1 then BitVec.ofNat 7 (min (now - r.cycle) 127) else 0
  r.kind ++ r.wp ++ skid ++ r.src ++ BitVec.ofBool lost ++ (0 : BitVec 20) ++ r.hit

/-- A report whose delivery enters the handler: outside a handler, with one set, and no INTEGRITY (R356-R359). -/
def Core.enters (c : Core) (r : Report) : Bool :=
  !c.inh && c.tvec != 0 && (match r with
    | .read x | .reduction x => !x.integrity
    | _ => true)

/-- A wait that a trap interrupts leaves its record, END 3; one whose task the report ends leaves the one of that end (R398). -/
def State.logInterrupted (s : State) (r : Report) : State :=
  match s.core.cur with
  | some i => if s.core.enters r then s.logWait s.core i 3 setterNone else s
  | none => s

/-- Deliver a report at the instruction at issue. -/
def State.deliverReport (s : State) (r : Report) : State :=
  let s := s.logInterrupted r
  match r with
  | .precise w => State.takeTrap (s.mod fun c => { c with watchNow := none }) 14 (w.val false s.now) s.core.pc
  | .engine e x => State.takeTrap (s.mod fun c => c.emptyEngine e) (if x.schedmiss then 11 else 10) x.val s.core.pc
  | .read x => State.takePoison (s.mod fun c => { c with engPoison := c.engPoison.erase x }) x
  | .reduction x => State.takePoison (s.mod fun c => { c with redOwed := c.redOwed.erase x }) x
  | .imprecise w =>
    State.takeTrap (s.mod fun c => { c with watchQ := c.watchQ.erase w, watchLost := false }) 14 (w.val s.core.watchLost s.now)
      s.core.pc

/-- DEFERRED_REPORT_DELIVERY (R354, R355). -/
def execDeferredReportDelivery (s : State) : Out :=
  match s.core.nextReport s.now with
  | some r => .next (s.deliverReport r)
  | none => .next s

/-! ## `xlat` faults (R42) -/

/-- The fault an `xlat` of a core has given to F2 and not yet got back: extent, rights, code. -/
def Core.xlatFault (c : Core) : Option (Nat × Nat × BitVec 2 × Nat) :=
  match c.cur, c.waiting with
  | some (.xlat _ a b r), .xlat code _ false => some ((c.rs a).toNat, (c.rs b).toNat, r, code)
  | _, _ => none

/-- F2 restarts a core's `xlat`. -/
def State.restartXlat (s : State) (core : Nat) : State :=
  { s.modAt core (fun c => { c with waiting := .until s.dueCycle }) with fv := s.fv + 1 }

/-- F2 delivers a core's fault: the code and address as they stand when it decides. -/
def State.deliverXlat (s : State) (core part va len : Nat) (rights : BitVec 2) : State :=
  match s.xlatPlan part (BitVec.ofNat 64 va) (BitVec.ofNat 64 len) rights with
  | .fault code at' => s.modAt core fun c => { c with waiting := .xlat code at' true }
  | _ => s.restartXlat core

/-- F2's next step for a core's `xlat` fault, of its own accord. -/
def State.xlatStep (s : State) (core : Nat) : Option State :=
  (s.coreAt core).bind fun c => c.xlatFault.bind fun (va, len, rights, _) =>
    match s.resolve c.partId va len rights with
    | none => some (s.restartXlat core)
    | some (.act s1) => some s1
    | some .wait => none
    | some .deliver => some (s.deliverXlat core c.partId va len rights)

/-- XLAT_FAULT_RESOLUTION (R42, R84): pages brought to places and stray entries released, then a restart once the extent
fits and every sweep is over; or delivery, which a page that is mapped and not resident never meets. -/
def execXlatFaultResolution (core : Nat) (act : XlatAction) (s : State) : Out :=
  match (s.coreAt core).bind fun c => c.xlatFault.map fun x => (c, x) with
  | none => .next s
  | some (c, va, len, rights, _) =>
    match act with
    | .resolve pages released =>
      let s1 := pages.foldl (fun st x =>
        if st.mayMove c.partId va len x.1 x.2 then (st.movePage c.partId x.1 x.2).getD st else st) s
      let s2 := s1.askSweeps ((s1.strayEntries c.partId).filter fun i => released.contains i)
      .next (if (s2.resolve c.partId va len rights).isNone then s2.restartXlat core else s2)
    | .deliver =>
      match s.xlatPlan c.partId (BitVec.ofNat 64 va) (BitVec.ofNat 64 len) rights with
      | .fault _ _ => .next (s.deliverXlat core c.partId va len rights)
      | _ => .next s

end Sys2Proof.Machine
end

