-- ==== Sys2Proof/Machine/Sweeps.lean ====
section
/-! DEFINITION. Revocation and the tiers: the steps of the Jubilee sweep, key rotation, page moves, grants and reclaims,
changes of page ownership (03 R59-R63, 04 R82-R85, 06 R132, 17 R368, 18 R382). -/

namespace Sys2Proof.Machine

/-! ## The Jubilee sweep (R59, R60) -/

/-- JUBILEE_SWEEP (R59 steps 1 and 2). -/
def execJubileeSweep (index : Nat) (s : State) : Out := .next (s.startSweep index)

/-- The wait of a `waita` through a token of the index ends as revoked (R132). -/
def State.revokeWait (s : State) (core index : Nat) : State :=
  match (s.coreAt core).bind fun c => match c.waiting with
      | .waita id none => (c.access? id).map fun a => (c, a)
      | _ => none with
  | some (c, a) =>
    if a.index = some index then
      let p := a.point c.phys
      (s.withdraw p core a.id).endWait ⟨core, a.id, a.place.1, a.n⟩ ⟨0, true, 2, setterFirmware⟩ fun c => { c with revpend := true }
    else s
  | none => s

/-- A sweep's invalidate is on its way to the core. -/
def Core.sweepOf (c : Core) (index : Nat) : Option (Nat × Nat × Nat) := c.sweeps.find? fun x => x.1 = index

/-- TOKEN_INVALIDATE (R59 step 3): the core drops its cache lines of the index; its `waita` on it ends. -/
def execTokenInvalidate (core index : Nat) (s : State) : Out :=
  match (s.coreAt core).bind fun c => c.sweepOf index with
  | none => .next s
  | some x =>
    if x.2.1 = 0 ∨ s.now < x.2.1 then .next s
    else .next ((s.modAt core fun c =>
      { c with tfc := c.tfc.filter fun e => e.index ≠ index
               sweeps := c.sweeps.map fun y => if y.1 = index then (index, 0, y.2.2) else y }).revokeWait core index)

/-- The tokens of a place. -/
def placeIndex (p : Place) : List Nat :=
  match p with
  | .tok t _ => [t.index.toNat]
  | .loc _ => []

/-- The Almanac entries whose pins a launch holds from its dequeue on. -/
def launchPins (k : LaunchKind) : List Nat := placeIndex k.places.1 ++ placeIndex k.places.2

/-- Accesses and commands under an index that have not completed (R60). -/
def Core.usesIndex (c : Core) (index : Nat) : Bool :=
  c.acc.any (fun a => a.index == some index)
    || c.copy.running.any (fun m => (launchPins m.launch.kind).contains index)
    || c.copy.held.any fun h => (launchPins h.kind).contains index

/-- SWEEP_ACK (R59 step 3). -/
def execSweepAck (core index : Nat) (s : State) : Out :=
  match s.coreAt core with
  | none => .next s
  | some c =>
    match c.sweepOf index with
    | some (_, 0, _) =>
      if c.usesIndex index then .next s
      else .next ((s.modAt core fun c => { c with sweeps := c.sweeps.filter fun y => y.1 ≠ index }) |> fun st =>
        { st with almanac := mapSet st.almanac index { st.entry index with acks := (st.entry index).acks ++ [core] } })
    | _ => .next s

/-- What an aborted command still writes: the lines it has read whole, or the line it is writing (R60). -/
def Core.abortCells (c : Core) (m : Cmd) : List Host.Cell :=
  let p := m.launch.kind.places.2
  match m.buf with
  | [] => []
  | x :: _ =>
    if c.heldDest m.launch.kind then
      let last := (m.buf.getLast?.map fun y => destLine p y.1).getD 0
      if m.doneAt.isSome then m.buf else (m.buf.reverse.dropWhile fun y => destLine p y.1 = last).reverse
    else if headComplete m then m.buf.takeWhile fun y => destLine p y.1 = destLine p x.1
    else []

/-- A running command that holds the pin stops at a line boundary; its tag will be set in TAGS and TAGREV (R60). -/
def Core.abortCmd (c : Core) (m : Cmd) (members now : Nat) : Core :=
  match m.launch.kind with
  | .coll .. =>
    if m.shift = 0 then c.setCmd .copy { m with null := true, pos := m.launch.kind.total members, doneAt := some now }
    else c.setCmd .copy { m with null := true, buf := c.abortCells m }
  | _ => c.setCmd .copy { m with null := true, buf := c.abortCells m, pos := m.launch.kind.total members, doneAt := some now }

/-- A held launch that holds the pin is discarded. -/
def Core.abortHeld (c : Core) (index : Nat) : Core :=
  match c.copy.held with
  | some h =>
    if (launchPins h.kind).contains index then (c.modEng .copy fun g => { g with held := none }).setTag .copy h.tag true else c
  | none => c

/-- A command that is already ending with its tag in TAGREV. -/
def Cmd.ending (m : Cmd) : Bool :=
  match m.launch.kind with
  | .coll .. => m.null
  | _ => m.null && m.doneAt.isSome

/-- The commands of a core that hold the pin and have not been aborted. -/
def Core.pinHolders (c : Core) (index : Nat) : List Cmd :=
  c.copy.running.filter fun m => (launchPins m.launch.kind).contains index && !m.ending

/-- 10 ms have passed since the broadcast without the core's acknowledgement. -/
def Core.sweepLate (c : Core) (index now : Nat) : Bool :=
  match c.sweepOf index with
  | some (_, 0, t) => decide (t + Config.sweepAbortCycles ≤ now)
  | _ => false

/-- A held collective that an abort discards has not started (R320). -/
def State.noteAborted (s : State) (c : Core) (index : Nat) : State :=
  match c.copy.held with
  | some h => if (launchPins h.kind).contains index then s.noteCollOf c h.kind false 0 else s
  | none => s

/-- SWEEP_ABORT (R60): the acknowledgement follows once the aborted commands have their tags. -/
def execSweepAbort (core index : Nat) (s : State) : Out :=
  match s.coreAt core with
  | none => .next s
  | some c =>
    if c.sweepLate index s.now then
      let c1 := (c.pinHolders index).foldl (fun k m => k.abortCmd m (s.membersOf m.launch.kind) s.now) c
      .next ((s.noteAborted c index).modAt core fun _ => c1.abortHeld index)
    else .next s

/-- Every core has acknowledged (R59 step 4). -/
def State.sweepDone (s : State) (index : Nat) : Bool :=
  (s.entry index).state == .revoking && s.cores.all fun c => (c.sweepOf index).isNone

/-- SWEEP_FREE (R59 step 4): the frames are unpinned and the entry is FREE. -/
def execSweepFree (index : Nat) (s : State) : Out :=
  if s.sweepDone index then
    .next { s with almanac := mapSet s.almanac index { s.entry index with state := .free, frames := [], acks := [] } }
  else .next s

/-- The tasks that existed when a quarantine began have all ended (R60); `made` is the number of the next task then. -/
def State.quarantineOver (s : State) (index : Nat) : Bool :=
  let e := s.entry index
  e.quarantined && e.state == .free && s.tasks.all fun t => decide (e.made ≤ t.id)

/-- SEAL_KEY_ROTATION (R60): every partition that has owned the entry gets a new seal key; the entry returns at
generation 1 and keeps the names of those partitions. -/
def execSealKeyRotation (index : Nat) (s : State) : Out :=
  if s.quarantineOver index then
    let s1 := (s.entry index).owners.foldl (fun st p =>
      { st.modPart p (fun x => { x with sealKey := st.keyNext }) with keyNext := st.keyNext + 1 }) s
    .next { s1 with almanac := mapSet s1.almanac index { freshEntry with gen := 1, owners := (s.entry index).owners } }
  else .next s

/-! ## Tiers and grants (R63, R82, R368) -/

/-- F2 revokes what pins a page that it is to move (R59, R82). -/
def State.revokePins (s : State) (part : Nat) (g : PageMap) : State := s.askSweeps ((s.pinsPage part g).map (·.1))

/-- F2 is to move a page that something pins: it revokes the entries first (R59, R82). -/
def State.queueMove (s : State) (part page : Nat) (dest : PagePlace) : State :=
  match (mapGet s.parts part).bind fun p => (pageAt p.pages page).map fun g => (p, g) with
  | some (p, g) =>
    if s.pinned part g ∧ s.placeOk part p g dest ∧ ¬s.moves.contains (part, page, dest) then
      State.revokePins { s with moves := s.moves ++ [(part, page, dest)] } part g
    else s
  | none => s

/-- PAGE_MOVE (R82): at once while nothing pins the page, else once the sweeps of what pins it are over. -/
def execPageMove (part page : Nat) (dest : PagePlace) (s : State) : Out :=
  .next ((s.movePage part page dest).getD (s.queueMove part page dest))

/-- The page of a move. -/
def State.movePageOf (s : State) (m : Nat × Nat × PagePlace) : Option PageMap :=
  (mapGet s.parts m.1).bind fun p => pageAt p.pages m.2.1

/-- A page that F2 is to move and that nothing pins any more goes; one that cannot go to its place any more stays. Entries made on a
page meanwhile are revoked as well (R82). -/
def State.moveStep (s : State) : Option State :=
  match s.moves.find? fun m => (s.movePageOf m).all fun g => !s.pinned m.1 g with
  | some m => some { ((s.movePage m.1 m.2.1 m.2.2).getD s) with moves := s.moves.erase m }
  | none =>
    (s.moves.findSome? fun m => (s.movePageOf m).filter (fun g => (s.pinsPage m.1 g).any fun e => !s.released e.1) |>.map fun g => (m.1, g)).map
      fun x => s.revokePins x.1 x.2

/-- Frames of main memory taken from or given back to the free ones, zeroed when they come back (R382). -/
def State.setFrames (s : State) (lo count : Nat) (e : PotEntry) : State :=
  { s with pot := (List.range count).foldl (fun m i => mapSet m (lo + i) e) s.pot }

/-- Scrub frames and free them. -/
def State.freeFrames (s : State) (lo count : Nat) : State :=
  (s.fillFrames ((List.range count).map (lo + ·)) []).setFrames lo count freshPot

/-- Job 0 is served: bring-up is over and the module is not in recovery (R429, R430). -/
def State.serves (s : State) : Bool := s.boot == .running && s.bootStep == 7

/-- GRANT_OPEN (R368): free frames of this package, none of the firmware's groups (R33), are lent. In an SPDM session the borrower's F4
hands over its XTS key and the frames are encrypted under it; without one they are clear (R371, R387). R368 does not say who owns
lent frames: they are the firmware's (DESIGN CHOICE, log entry 26). -/
def execGrantOpen (pkg lo count : Nat) (s : State) : Out :=
  if s.serves ∧ 0 < count ∧ 2 ≤ channelGroup lo ∧ (lo + count) * 65536 ≤ Config.mainMemoryEnd
      ∧ (List.range count).all fun i => (s.potOf (lo + i)).owner == .free && !(s.potOf (lo + i)).transition then
    if s.sessionWith pkg then
      .next { s.setFrames lo count ⟨.secure, .firmware, .encrypted, false⟩ with
        grants := s.grants ++ [⟨pkg, lo, count, none, some s.keyNext⟩], keyNext := s.keyNext + 1 }
    else
      .next { s.setFrames lo count ⟨.secure, .firmware, .clear, false⟩ with grants := s.grants ++ [⟨pkg, lo, count, none, none⟩] }
  else .next s

/-- Entries of this package whose frames a lender lends in [lo, lo + count). -/
def State.borrowedEntries (s : State) (pkg lo count : Nat) : List Nat :=
  (s.almanac.filter fun e => e.2.home == some pkg && e.2.state != .free
    && e.2.frames.any fun f => decide (lo ≤ f) && decide (f < lo + count)).map (·.1)

/-- Pages of a partition that stand on those frames. -/
def pagesLent (p : Partition) (pkg lo count : Nat) : List PageMap :=
  p.pages.filter fun g => match g.place with
    | .lent k f => k == pkg && decide (f < lo + count) && decide (lo < f + pageUnits g)
    | _ => false

/-- LENDER_RECLAIM (R63): as lender, the clock of its grant starts; as borrower, every entry that names the frames is to be
revoked. -/
def execLenderReclaim (pkg lo count : Nat) (s : State) : Out :=
  let mine (g : Grant) : Bool := g.pkg == pkg && g.lo == lo && g.count == count && g.reclaim.isNone
  if s.grants.any mine then
    .next { s with grants := s.grants.map fun g => if mine g then { g with reclaim := some s.now } else g }
  else if s.parts.any fun x => !(pagesLent x.2 pkg lo count).isEmpty then
    .next (State.askSweeps { s with borrowed := s.borrowed ++ [⟨pkg, lo, count, some s.now, none⟩] } (s.borrowedEntries pkg lo count))
  else .next s

/-- F2 as borrower: pages leave the frames; with none left and no entry, completion is reported (R63 step 2). -/
def State.returnStep (s : State) (g : Grant) : Option State :=
  match s.parts.find? fun x => !(pagesLent x.2 g.pkg g.lo g.count).isEmpty with
  | none =>
    if (s.borrowedEntries g.pkg g.lo g.count).isEmpty then some { s with borrowed := s.borrowed.erase g } else none
  | some x =>
    match (pagesLent x.2 g.pkg g.lo g.count).find? fun q => !s.pinned x.1 q with
    | none => none
    | some q =>
      let runs := s.freeRuns x.1 x.2 (pageUnits q)
      match runs[Config.pick s.fv % runs.length]? with
      | some f => (s.movePage x.1 (pageAddr q) (.main f)).map fun st => { st with fv := st.fv + 1 }
      | none =>
        match s.makeRoom x.1 x.2 [] with
        | .act s1 => some s1
        | _ => none

/-- The end of a grant: the frames are freed, and the borrower's key goes with it (R387). -/
def State.endGrant (s : State) (g : Grant) : State := { s.freeFrames g.lo g.count with grants := s.grants.erase g }

/-- GRANT_CLOSE (R63): 100 ms after the request, without a report. -/
def execGrantClose (pkg lo count : Nat) (s : State) : Out :=
  match s.grants.find? fun g => g.pkg == pkg && g.lo == lo && g.count == count
      && (g.reclaim.map fun t => decide (t + Config.reclaimCycles ≤ s.now)).getD false with
  | some g => .next (s.endGrant g)
  | none => .next s

/-- RECLAIM_COMPLETION (R63): the report reaches this package as lender. -/
def execReclaimCompletion (pkg lo count : Nat) (s : State) : Out :=
  match s.grants.find? fun g => g.pkg == pkg && g.lo == lo && g.count == count && g.reclaim.isSome with
  | some g => .next (s.endGrant g)
  | none => .next s

/-! ## Page ownership (R382) -/

/-- Frames that a partition will have once the changes under way are made. -/
def State.framesLeft (s : State) (part : Nat) : Nat :=
  ((mapGet s.parts part).map fun p => (p.frames.filter fun f =>
    s.potWork.all fun w => w.1 != f || w.2.owner == .part part).length).getD 0

/-- The channel group of the next frame that F2 gives a partition: they go round its groups (R33). -/
def State.nextGroup (s : State) (part : Nat) (p : Partition) : Nat :=
  let all := p.frames ++ (s.potWork.filter fun w => w.2.owner == .part part && !p.frames.contains w.1).map (·.1)
  channelGroup ((all.getLast?.map fun f => nthFrame p.req.groups f 1).getD 0)

/-- F2 and F4 may make a change of frames: none of the firmware's groups or of the firmware owner is given out (R33, R386), a partition
keeps its minimum (R81), and gets frames of its own channel groups only, the next group in turn (R33), and none once its teardown has
begun (R390). -/
def State.potOk (s : State) (fs : List Nat) (owner : FrameOwner) : Bool :=
  fs.all fun f =>
    let e := s.potOf f
    !e.transition && e.owner != .firmware && decide (2 ≤ channelGroup f)
      && (match e.owner with
        | .part p => owner == .part p || decide (65600 + fs.length ≤ s.framesLeft p)
        | _ => true)
      && (match owner with
        | .part p => (mapGet s.parts p).any fun x => x.teardown.isNone && (e.owner == .part p || channelGroup f == s.nextGroup p x)
        | _ => true)

/-- POT_CHANGE (R382 steps 1 and 2), of a frame, or of all frames of a mapped 2 MiB page (R34). -/
def execPotChange (frame : Nat) (world : World) (owner : FrameOwner) (mode : ProtMode) (s : State) : Out :=
  let fs := s.potFrames frame
  if ¬s.potOk fs owner then .next s
  else .next (State.askSweeps { fs.foldl State.inChange s with
    potWork := s.potWork ++ fs.map fun f => (f, ⟨world, owner, mode, false⟩) } (s.pinsFrames fs))

/-- Steps 3 and 4 for one frame: zeros when the owner changes, then the new fields; a partition's list of frames follows the
owner. -/
def State.potOne (s : State) (w : Nat × PotEntry) : State :=
  let old := s.potOf w.1
  let other (l : Nat) : Bool := l / 512 != w.1
  let s1 : State := if old.owner = w.2.owner then s
    else { s.fillFrames [w.1] [] with
      poisonLines := s.poisonLines.filter other, macLines := s.macLines.filter other, correctedLines := s.correctedLines.filter other }
  let s2 := { s1 with pot := mapSet s1.pot w.1 w.2, potWork := s1.potWork.erase w }
  if old.owner = w.2.owner then s2
  else { s2 with parts := s2.parts.map fun x =>
    (x.1, { x.2 with frames :=
      let rest := x.2.frames.filter fun f => f ≠ w.1
      if w.2.owner = .part x.1 then rest ++ [w.1] else rest }) }

/-- Steps 3 and 4, once nothing pins a frame or those that must agree with it (R34, R382). -/
def State.potStep (s : State) (w : Nat × PotEntry) : Option State :=
  let fs := s.potFrames w.1
  if ¬(s.pinsFrames fs).isEmpty then none
  else some ((s.potWork.filter fun x => x == w || fs.contains x.1).foldl State.potOne s)

end Sys2Proof.Machine
end

