-- ==== Sys2Proof/Machine/Fabric.lean ====
section
/-! DEFINITION. The Axtos ports, remote requests, Ultra Ethernet, attested switches, collective groups and package time
(17 R366-R379, 06 R127, R128). -/

namespace Sys2Proof.Machine

/-! ## Port states (R366, R371) -/

/-- A direction of a port. -/
def Port.link (p : Port) : LinkDir → Link
  | .tx => p.tx
  | .rx => p.rx

def Port.setLink (p : Port) (d : LinkDir) (x : Link) : Port :=
  match d with
  | .tx => { p with tx := x }
  | .rx => { p with rx := x }

/-- The port goes DOWN, both ways; a new SPDM session is needed before it returns (R369). -/
def Port.drop (p : Port) (now : Nat) : Port :=
  { p with
    tx := { p.tx with state := .down, rekeySince := none }
    rx := { p.rx with state := .down, rekeySince := none }
    downSince := if p.goes then now else p.downSince
    session := 0, failures := 0, retryFrom := none }

/-- AXTOS_TRAINING_START (R366): no port is trained before step 5 of bring-up, nor in recovery (R429, R430). -/
def execAxtosTrainingStart (link : LinkEnd) (s : State) : Out :=
  .next (s.modPort link.port fun p =>
    if s.boot = .running ∧ (p.link link.dir).state = .down then p.setLink link.dir { p.link link.dir with state := .training } else p)

/-- AXTOS_TRAINING_DONE (R366). -/
def execAxtosTrainingDone (link : LinkEnd) (ok : Bool) (s : State) : Out :=
  .next (s.modPort link.port fun p =>
    if (p.link link.dir).state = .training then p.setLink link.dir { p.link link.dir with state := if ok then .keying else .down }
    else p)

/-- The unacknowledged flits encrypted afresh: their counters run from 0, their sequence numbers stay (R369). -/
def Port.renumber (p : Port) : Port :=
  { p with tx := { p.tx with ctr := p.retry.length }, retry := p.retry.zipIdx.map fun x => (x.1.1, x.2) }

/-- A direction under a new key: the counter runs from 0. -/
def Port.newKey (p : Port) (dir : LinkDir) (rekey : Nat) : Port :=
  let p1 := p.setLink dir { p.link dir with state := .up, rekey := rekey, ctr := 0, rekeySince := none }
  match dir with
  | .tx => p1.renumber
  | .rx => { p1 with failures := p.failures, retryFrom := none }

/-- AXTOS_KEYS_INSTALLED (R366, R369): counters start at 0 under the session's keys; the sequence numbers count on. -/
def execAxtosKeysInstalled (link : LinkEnd) (s : State) : Out :=
  .next (s.modPort link.port fun p =>
    if (p.link link.dir).state = .keying ∧ p.session ≠ 0 then { p.newKey link.dir 0 with failures := 0 } else p)

/-! ## Link encryption (R369) -/

/-- What an accepted flit says of the other direction: flits up to a number are acknowledged and leave the retry buffer; or its
receiver asks for a rekey. -/
def Port.heed (p : Port) (note : Option LinkNote) (now : Nat) : Port :=
  match note with
  | some (.ack q) => { p with retry := p.retry.filter fun x => !decide ((q - x.1).toNat < 32768) }
  | some .rekey => { p with tx := { p.tx with rekeySince := some (p.tx.rekeySince.getD now) } }
  | none => p

/-- A flit that stands where the receiver expects it: accepted under the expected counter, or a tag failure, the third of
which in a row takes the port DOWN. -/
def Port.take (p : Port) (sealed : FlitSeal) (now : Nat) (note : Option LinkNote) : Port :=
  if sealed.key = p.rx.rekey ∧ sealed.ctr = p.rx.ctr then
    Port.heed { p with
      rx := { p.rx with ctr := p.rx.ctr + 1, seq := p.rx.seq + 1 }
      delivered := p.delivered ++ [p.rx.seq], failures := 0, retryFrom := none } note now
  else if p.failures + 1 = 3 then p.drop now
  else { p with failures := p.failures + 1, rx := { p.rx with rekeySince := some now } }

/-- What a receiver does with a flit (R369): `intact` says that its CRC holds. -/
def Port.receive (p : Port) (seq : BitVec 16) (sealed : FlitSeal) (intact : Bool) (note : Option LinkNote) (now : Nat) : Port :=
  let back := (p.rx.seq - seq).toNat
  if p.rx.state ≠ .up ∨ p.rx.rekeySince.isSome then p
  else if ¬intact then { p with retryFrom := some p.rx.seq }
  else if back = 0 then p.take sealed now note
  else if back ≤ 512 then p
  else { p with retryFrom := some p.rx.seq }

/-- FLIT_RECEIVE (R369). -/
def execFlitReceive (port : Nat) (seq : BitVec 16) (sealed : FlitSeal) (intact : Bool) (note : Option LinkNote) (s : State) : Out :=
  .next (s.modPort port fun p => p.receive seq sealed intact note s.now)

/-- LINK_RETRY (R369): the stored flits from the number asked for go out again as they are, under their counters; those
before it are acknowledged and leave the buffer. -/
def execLinkRetry (port : Nat) (seq : BitVec 16) (s : State) : Out :=
  .next (s.modPort port fun p => { p with retry := p.retry.dropWhile fun x => x.1 ≠ seq })

/-- REKEY_TIMEOUT (R369): 1 ms without completion. -/
def execRekeyTimeout (link : LinkEnd) (s : State) : Out :=
  .next (s.modPort link.port fun p => match (p.link link.dir).rekeySince with
    | some t => if t + Config.rekeyCycles ≤ s.now then p.drop s.now else p
    | none => p)

/-- REKEY_COMPLETE (R369): unacknowledged flits go out again under new counters from 0. -/
def execRekeyComplete (link : LinkEnd) (s : State) : Out :=
  .next (s.modPort link.port fun p =>
    let l := p.link link.dir
    if l.state = .up ∧ l.rekeySince.isSome then p.newKey link.dir (l.rekey + 1) else p)

/-! ## Requests that other packages send (R127, R368) -/

/-- A request lies within an open grant to its sender. -/
def State.granted (s : State) (r : RemoteRequest) : Bool :=
  decide (0 < r.size) && s.grants.any fun g => g.pkg == r.pkg && decide (g.lo * 65536 ≤ r.addr)
    && decide (r.addr + r.size ≤ (g.lo + g.count) * 65536)

/-- The slice a request is for: of a die's L2, or of the memory-side cache (R78, R79). -/
def sliceOf (r : RemoteRequest) : Nat :=
  match r.die with
  | some d => d % 4 * 32 + homeSlice r.addr
  | none => 128 + mscSlice r.addr

/-- The reply kept for a request. -/
def State.cached (s : State) (r : RemoteRequest) : Option FilterEntry :=
  s.filter.find? fun e => e.slice == sliceOf r && e.pkg == r.pkg && e.port == r.port && e.seq == r.seq

/-- The filter of a slice is full. -/
def State.filterFull (s : State) (r : RemoteRequest) : Bool :=
  decide (4096 ≤ (s.filter.filter fun e => e.slice == sliceOf r).length)

/-- Whether a request reads. -/
def RemoteOp.reads : RemoteOp → Bool
  | .store _ | .withdraw _ => false
  | _ => true

/-- A port of this package carries what a package sends (R366). -/
def State.carries (s : State) (pkg : Nat) : Bool :=
  (List.range 16).any fun p => Config.portReaches p pkg && (s.ports[p]?).any fun x => x.goes

/-- A reply is to leave. -/
def State.reply (s : State) (r : RemoteRequest) (x : Reply) : State := { s with outbox := s.outbox ++ [(r.addr, x)] }

/-- A reply is to leave and is kept (R127). -/
def State.answer (s : State) (r : RemoteRequest) (x : Reply) : State :=
  { s.reply r x with filter := s.filter ++ [⟨sliceOf r, r.pkg, r.port, r.seq, x⟩] }

/-- The die a remote write is performed in: its own, or, from the memory-side cache, one of free choice. -/
def State.remoteDie (s : State) (r : RemoteRequest) : Nat := r.die.elim (Config.pick s.fv % 4) fun d => d % 4

/-- A remote write at its slice. At the memory-side cache it is performed in a die as well. -/
def State.remoteWrite (s : State) (r : RemoteRequest) (x : Nat) : State :=
  let cells := cellsAt r.addr (natToBytes r.size x)
  match r.die with
  | some d => s.storeMain (d % 4) cells
  | none =>
    let marked := s.mscCells (s.remoteDie r) cells
    State.performMarked { s.mscWrite marked with fv := s.fv + 1 } (s.remoteDie r) marked

/-- A request is applied (R127). A reduction is acknowledged (R124), a registration acknowledged or answered with the end of its wait;
one that is withdrawn ends with the word's value at that time (R130). -/
def State.applyRemote (s : State) (r : RemoteRequest) : State :=
  let p := remotePoint r
  let old := s.wordAt p r.addr r.size
  let d := s.remoteDie r
  let s := s.countCorrected .main r.addr r.size
  match r.op with
  | .load => s.answer r (.data r.pkg r.port r.seq old)
  | .store x => (s.remoteWrite r x).answer r (.ack r.pkg r.port r.seq)
  | .atomic op t x reduction =>
    let new := amoNew op r.size old t x
    let s1 := if amoWrites op old t then s.remoteWrite r new else s
    let s2 := if op = 11 ∧ amoCrosses r.size old new t then
        s1.wake p r.addr r.size new (setterCore r.pkg r.core) fun c => match r.die with
          | some _ => c.depend d (s1.lastNum d)
          | none => s1.readAtMsc r.addr r.size (c.depend d (s1.lastNum d))
      else s1
    s2.answer r (if reduction then .ack r.pkg r.port r.seq else .data r.pkg r.port r.seq old)
  | .withdraw q =>
    let hit (y : RemoteRequest) : Bool := y.pkg == r.pkg && y.port == r.port && y.seq == q && remotePoint y == p
    let s1 := { s with remoteWaits := s.remoteWaits.filter fun y => !hit y }
    if s.remoteWaits.any hit then State.answer (s1.reply r (.waited r.pkg r.port q old false)) r (.ack r.pkg r.port r.seq)
    else s1.answer r (.ack r.pkg r.port r.seq)
  | .register x =>
    if signed (8 * r.size) x ≤ signed (8 * r.size) old then s.answer r (.waited r.pkg r.port r.seq old true)
    else if s.tableFull p r.addr then s.answer r (.waited r.pkg r.port r.seq old false)
    else State.answer { s with remoteWaits := s.remoteWaits ++ [r] } r (.ack r.pkg r.port r.seq)

/-- REMOTE_REQUEST_ARRIVAL (R127, R366, R368): none comes without an UP port; outside every grant it is discarded, and a load or atomic answered with poison; a
known one gets its kept reply; a full filter refuses it. R127 does not say whether a reply with poisoned data is kept: it is
not, and a replay is evaluated afresh (DESIGN CHOICE, log entry 55). -/
def execRemoteRequestArrival (r : RemoteRequest) (s : State) : Out :=
  if ¬s.carries r.pkg then .next s
  else if ¬s.granted r then
    if Sys2Proof.Machine.RemoteOp.reads r.op then .next (s.reply r (.poison r.pkg r.port r.seq)) else .next s
  else match s.cached r with
    | some e => .next (s.reply r e.reply)
    | none =>
      if s.filterFull r then .next (s.reply r (.busy r.pkg r.port r.seq))
      else if s.poisonIn .main r.addr r.size ∧ Sys2Proof.Machine.RemoteOp.reads r.op then
        .next (s.reply r (.poison r.pkg r.port r.seq))
      else .next (s.applyRemote r)

/-- The package a reply goes to. -/
def Reply.pkg : Reply → Nat
  | .data p _ _ _ | .ack p _ _ | .busy p _ _ | .poison p _ _ | .waited p _ _ _ _ => p

/-- The first reply whose port has room leaves as a flit (R367, R369). -/
def State.replyStep (s : State) : Option State :=
  s.outbox.findSome? fun x =>
    ((s.portFor (Reply.pkg x.2) x.1).filter s.flitRoom).map fun p =>
      { s.modPort p Port.flit with outbox := s.outbox.erase x, replies := s.replies ++ [x.2] }

/-- A 16-bit sequence number covers another. -/
def seqCovers (top seq : Nat) : Bool := decide ((top % 65536 + 65536 - seq % 65536) % 65536 < 32768)

/-- The first request not acknowledged after an acknowledgement of a 16-bit number, which covers requests sent only. -/
def Port.covered (p : Port) (dest seq : Nat) : Nat :=
  let a := (mapGet p.acked dest).getD 0
  let b := a + (seq + 1 + 65536 - a % 65536) % 65536
  if b ≤ (mapGet p.nextSeq dest).getD 0 then b else a

/-- CUMULATIVE_ACKNOWLEDGEMENT (R127): of a source port of another package, at the slices here; or of a port of this package
toward a destination, whose window moves. -/
def execCumulativeAcknowledgement (pkg port dest seq : Nat) (s : State) : Out :=
  if pkg = Config.packageNumber then
    .next (s.modPort port fun p => { p with acked := mapSet p.acked dest (p.covered dest seq) })
  else .next { s with filter := s.filter.filter fun e => !(e.pkg == pkg && e.port == port && seqCovers seq e.seq) }

/-! ## Requests of this package (R127, R128) -/

/-- Outstanding remote accesses of a core. -/
def Core.remote (c : Core) (f : Access → Bool) : Bool := c.acc.any fun a => a.lent && f a

/-- REMOTE_RETRANSMIT (R127): an unanswered request travels again, in a flit of its own, under its number. -/
def execRemoteRetransmit (port dest seq : Nat) (s : State) : Out :=
  let mine (a : Access) : Bool := a.space == .lent dest && (a.port == some (port, seq) || a.port2 == some (port, seq))
  if s.flitRoom port ∧ s.cores.any (fun c => c.acc.any mine) then
    .next { (s.modPort port Port.flit).modAll (fun c =>
        { c with acc := c.acc.map fun a => if mine a then { a with due := max a.due s.dueCycle } else a }) with
      fv := s.fv + 1 }
  else .next s

/-- A port has been out of UP for 50 ms (R128). -/
def State.portLost (s : State) (p : Nat) : Bool :=
  (s.ports[p]?).any fun x => !x.goes && decide (x.downSince + Config.portLostCycles ≤ s.now)

/-- The request of an access for one of its lines has been without an UP port for 50 ms (R128, R367). -/
def State.lineLost (s : State) (a : Access) (upper : Bool) : Bool :=
  match a.space, (if upper then a.port2 else a.port).map (·.1) <|> (if upper then a.way.2 else a.way.1) with
  | .lent _, some p => s.portLost p
  | .lent k, none => decide (a.issued + Config.portLostCycles ≤ s.now)
      && (List.range 16).all fun p => !Config.portReaches p k || s.portLost p
  | _, _ => false

/-- A line that an access still has to touch, or that its answer comes from. -/
def Access.owes (a : Access) (upper : Bool) : Bool :=
  if a.touches.isEmpty then !upper else a.touches.any fun r => (a.crossing && a.upper r.1) == upper

/-- A request of an access is lost with its port. -/
def State.requestLost (s : State) (a : Access) : Bool :=
  [false, true].any fun h => a.owes h && s.lineLost a h

/-- The bytes of an access in one of its lines. -/
def Access.lineBytes (a : Access) (upper : Bool) : Nat :=
  if ¬a.crossing then (if upper then 0 else a.n) else if upper then a.va % 128 + a.n - 128 else 128 - a.va % 128

/-- The memory effect of a lost request is there in full or not at all (R128): one begun is finished, else of free choice; a store's
other request, whose port is there, is performed. An `amo.addt` of core `c` that crosses wakes its waiters (R129). -/
def State.lostEffect (s : State) (c : Core) (a : Access) : State :=
  let s1 := { s with fv := s.fv + 1 }
  match a.kind, a.stage with
  | .store, _ =>
    [false, true].foldl (fun st h =>
      let parts := a.parts.filter fun p => (a.crossing && a.upper (p.headD (0, 0)).1) == h
      let begun := decide ((parts.map List.length).sum < a.lineBytes h)
      if !s.lineLost a h || begun || Config.choice (s.fv + h.toNat) then st.putSpace a.space parts.flatten else st) s1
  | .atomic op _ t x, .waiting =>
    let old := memReadNat s.lentMem a.place.1 a.n
    let new := amoNew op a.n old t x
    if amoWrites op old t ∧ Config.choice s.fv then
      let s2 := s1.putSpace a.space (cellsAt a.place.1 (natToBytes a.n new))
      if op = 11 ∧ amoCrosses a.n old new t then
        s2.wake .lender a.place.1 a.n new (setterCore Config.packageNumber c.vcore) fun c => c
      else s2
    else s1
  | _, _ => s1

/-- The completion of a lost request at its core (R128, R360). -/
def Core.lose (c : Core) (a : Access) (now : Nat) : Core :=
  let c1 := c.dropAccess a.id
  match a.kind with
  | .store =>
    if c1.owed.any fun r => r.src = 6 then c1 else { c1 with owed := c1.owed ++ [⟨now, false, 6, 0, BitVec.ofNat 56 a.va, none⟩] }
  | .waita .. =>
    match c.waiting with
    | .waita id none => if id = a.id then { c1 with waiting := .waita id (some ⟨0, false, 0, setterNone⟩) } else c1
    | _ => c1
  | _ => c1.poisonReturn a { a.report now with integrity := false, src := 4 }

/-- REMOTE_REQUEST_LOST (R128): F5 logs the sequence. -/
def execRemoteRequestLost (core id : Nat) (s : State) : Out :=
  match (s.coreAt core).bind fun c => (c.access? id).map fun a => (c, a) with
  | none => .next s
  | some (c, a) =>
    if s.requestLost a then
      let s0 : State := { s with lentWaiters := s.lentWaiters.filter fun w => !(w.core == core && w.acc == id) }
      let s1 := s0.lostEffect c a
      .next { s1.modAt core (fun c => c.lose a s.now) with
        fw := { s1.fw with failures := s1.fw.failures ++ (if a.owes false && s.lineLost a false then (a.port.map (·.2)).toList else [])
          ++ (if a.owes true && s.lineLost a true then (a.port2.map (·.2)).toList else []) } }
    else .next s

/-! ## Attestation and the job key (R371, R374, R375) -/

def State.switch? (s : State) (n : Nat) : Option Switch := s.switches.find? fun x => x.num = n

def State.setSwitch (s : State) (x : Switch) : State :=
  { s with switches := (s.switches.filter fun y => y.num ≠ x.num) ++ [x] }

/-- A command of a core runs in the network over a switch (R375). -/
def State.runsOver (s : State) (c : Core) (m : Cmd) (switch : Nat) : Bool :=
  match m.launch.kind with
  | .coll _ _ _ g _ _ _ => m.launch.network && (s.task? c.task).any fun t =>
      t.groups.any fun x => x.num == g && x.hosts.any fun h => h.2 == switch
  | _ => false

/-- A switch loses the key of a job: the collectives that run over it in the network fail (R375). -/
def State.failCollectives (s : State) (part switch : Nat) : State :=
  s.modAll fun c =>
    if c.partId = part then
      { c with copy := { c.copy with running := c.copy.running.map fun m =>
          if m.shift = 0 ∧ s.runsOver c m switch then { m with null := true } else m } }
    else c

/-- A switch keeps the keys of the jobs given, and loses the others (R374). -/
def State.keepKeys (s : State) (x : Switch) (ok : Nat → Bool) : State :=
  ((x.keys.filter fun p => !ok p).foldl (fun st p => st.failCollectives p x.num) s).setSwitch { x with keys := x.keys.filter ok }

/-- The policy of a partition accepts a switch as it was last measured (R374). -/
def State.acceptsSwitch (s : State) (x : Switch) (part : Nat) : Bool :=
  (mapGet s.parts part).any fun p => p.req.policy.contains (x.model, x.measurement)

/-- SPDM_SESSION (R371): a peer that cannot negotiate the four algorithms is not keyed; a switch that fails its attestation, or
is measured outside a job's policy, loses keys (R374). -/
def execSpdmSession (peer : SpdmPeer) (algsOk : Bool) (measurement : Nat) (s : State) : Out :=
  match peer with
  | .port n => .next (s.modPort n fun p =>
      if p.tx.state = .keying ∨ p.rx.state = .keying then (if algsOk then { p with session := 1 } else p.drop s.now) else p)
  | .switch n model =>
    let old := (s.switch? n).getD ⟨n, model, 0, none, []⟩
    if algsOk then
      let x := { old with model := model, measurement := measurement, attestedAt := some s.now }
      .next (s.keepKeys x (s.acceptsSwitch x))
    else .next (s.keepKeys { old with attestedAt := none } fun _ => false)

/-- Cycles of 24 hours. -/
def dayCycles : Nat := 24 * 3600 * 4000000000

/-- JOB_KEY_GRANT (R374). -/
def execJobKeyGrant (part switch : Nat) (s : State) : Out :=
  match mapGet s.parts part, s.switch? switch with
  | some p, some x =>
    if p.jobKey.isSome ∧ p.req.policy.contains (x.model, x.measurement) ∧ ¬x.keys.contains part
        ∧ (x.attestedAt.map fun t => decide (s.now ≤ t + dayCycles)).getD false then
      .next (s.setSwitch { x with keys := x.keys ++ [part] })
    else .next s
  | _, _ => .next s

/-- JOB_KEY_WITHDRAW (R374, R375): a switch that resets is attested no more and holds no key. -/
def execJobKeyWithdraw (part : Nat) (loss : KeyLoss) (s : State) : Out :=
  match s.switch? loss.switch with
  | some x =>
    if loss.reset then .next (s.keepKeys { x with attestedAt := none } fun _ => false)
    else .next (s.keepKeys x fun p => p ≠ part)
  | none => .next s

/-! ## Ultra Ethernet, groups, time (R370, R376, R379) -/

/-- The options this device supports (R370). -/
def uetSupported (o : UetOptions) : Bool :=
  (o.unordered || o.ordered) && !o.idempotent && !o.other && !o.unreliable && !o.remoteAccess && o.encrypted && !o.receiverCredit && decide (o.mtu ≤ 4096)
    && decide (o.messageBytes ≤ 2 ^ 24) && decide (o.inFlight ≤ 4096)

/-- UET_CONNECTION_SETUP (R370, R429). -/
def execUetConnectionSetup (peer : Nat) (opts : UetOptions) (s : State) : Out :=
  if uetSupported opts ∧ s.boot = .running ∧ s.bootStep = 7 ∧ ¬s.uet.contains peer then .next { s with uet := s.uet ++ [peer] }
  else .next s

/-- COLLECTIVE_GROUP_CREATE (R376, R377): F5 maps the tree's nodes to switches as the group is created. -/
def execCollectiveGroupCreate (task group : Nat) (setup : GroupSetup) (s : State) : Out :=
  match s.task? task with
  | none => .next s
  | some t =>
    let fits (m : Nat × Nat) : Bool := m.1 != Config.packageNumber
      || (mapGet s.parts t.part).any fun p => decide (m.2 < p.ncores)
    if group < 256 ∧ 2 ≤ setup.members.length ∧ setup.members.length ≤ 4096 ∧ setup.members.all fits
        ∧ ¬(t.groups.any fun g => g.num = group) ∧ t.ending.isNone then
      .next (s.modTask task fun t => { t with groups := t.groups ++ [⟨group, setup.members, setup.hosts⟩] })
    else .next s

/-- PTP_LOCK (R379, R429 step 6): package time is stepped at the first lock to a source of the operator's domain, and bring-up
goes on. -/
def execPtpLock (source : PtpSource) (s : State) : Out :=
  if s.ptp.locked ∨ s.boot ≠ .running ∨ source.domain ≠ s.ptp.domain then .next s
  else .next { s with
    ptp := ⟨source.domain, true, false, (source.time : Int) - (s.now / 4 : Nat)⟩
    bootStep := if s.bootStep = 6 then 7 else s.bootStep }

/-- Package time is slewed toward its source: by at most 1 ns every 10 microseconds, which is 100 ppm; how much is free (R379). -/
def State.slew (s : State) : State :=
  if s.ptp.locked ∧ ¬s.ptp.holdover ∧ s.now % (10 * Config.cyclesPerMicro) = 0 then
    { s with ptp := { s.ptp with base := s.ptp.base + ((Config.pick s.fv % 3 : Nat) : Int) - 1 }, fv := s.fv + 1 }
  else s

/-- PTP_SOURCE_LOSS (R379). -/
def execPtpSourceLoss (s : State) : Out :=
  .next { s with ptp := { s.ptp with holdover := true }, fw := { s.fw with telemetryFlags := s.fw.telemetryFlags ++ [.holdover] } }

/-- PTP_SOURCE_REGAINED (R379). -/
def execPtpSourceRegained (s : State) : Out := .next { s with ptp := { s.ptp with holdover := false } }

end Sys2Proof.Machine
end

