-- ==== Sys2Proof/Machine/Trust.lean ====
section
/-! DEFINITION. Partitions from creation to teardown, firmware images and ownership (03 R431, 02 R26-R35, 04 R81,
18 R388-R391). -/

namespace Sys2Proof.Machine

/-! ## Creating a partition (R26, R29, R33, R35, R81, R372, R373, R383, R431) -/

/-- A page of the page tables (R31): its granule, its place in the partition's own frames or blocks. -/
def pageOk (r : PartitionRequest) (g : PageMap) : Bool :=
  (g.gran == 16 || g.gran == 21) && decide (g.page * 2 ^ g.gran < 2 ^ 56) &&
    match g.place with
    | .main f => (pageFrames r.groups g f).all fun x => r.frames.contains x
    | .flash b => decide (b < r.flashBlocks)
    | .lent _ _ => g.mode != .integrity

/-- Two pages share no address and no frame or block of this package. -/
def pagesClear (groups : List Nat) (a b : PageMap) : Bool :=
  (decide (pageAddr a + pageBytes a ≤ pageAddr b) || decide (pageAddr b + pageBytes b ≤ pageAddr a)) &&
    match a.place, b.place with
    | .main f, .main g => (pageFrames groups a f).all fun x => !(pageFrames groups b g).contains x
    | .flash f, .flash g => f != g
    | _, _ => true

/-- No two pages overlap. -/
def pagesApart (groups : List Nat) : List PageMap → Bool
  | [] => true
  | g :: gs => gs.all (pagesClear groups g) && pagesApart groups gs

/-- 2 MiB blocks of the flash tier of 16 TB (R2). -/
def flashTier : Nat := 16000000000000 / 0x200000

/-- Room for a request beside the partitions there are and what failed teardowns left with firmware: cache ways (R79), die pools
(R29), the flash tier (R2), clusters and channel groups of failed ones (R390). -/
def State.roomFor (s : State) (r : PartitionRequest) : Bool :=
  let gone := (s.held.filter fun x => x.1 = 3).map (·.2)
  decide (s.claims.foldl (fun n x => n + x.ways) r.ways ≤ 64)
    && (addPools r.num r.clusters r.poolMb.zipIdx s.pools).isSome
    && decide ((s.parts.map fun x => x.2.req).foldl (fun n x => n + x.flashBlocks) (s.held.foldl (fun n x => n + x.2.flashBlocks) r.flashBlocks)
        ≤ flashTier)
    && gone.all (fun x => r.clusters.all (fun c => !x.clusters.contains c) && r.groups.all fun g => !x.groups.contains g)
    && s.held.all fun x => x.2.num != r.num

/-- The request keeps the limits of the rules, and takes nothing that another partition has. The spec gives no number of
Almanac entries that F2 keeps for firmware: here none, so the shares may sum to the whole table (R431; DESIGN CHOICE, log
entry 56). -/
def State.createOk (s : State) (r : PartitionRequest) : Bool :=
  s.serves && s.trust.ownership == .owned
    && decide (r.num < 64) && (mapGet s.parts r.num).isNone && decide (r.job ≠ 0) && s.parts.all (fun x => x.2.req.job != r.job)
    && diesOk r.clusters && decide (r.poolMb.length = (r.clusters.length + 7) / 8) && r.poolMb.all (fun m => decide (m ≤ 64))
    && decide (4096 ≤ r.share) && decide (s.parts.foldl (fun n x => n + x.2.req.share) r.share ≤ Config.almanacSize)
    && decide (1 ≤ r.ways) && decide (2 ≤ r.groups.length) && distinct r.groups
    && r.groups.all (fun g => decide (2 ≤ g) && decide (g ≤ 191) && s.parts.all fun x => !x.2.req.groups.contains g)
    && s.roomFor r
    && decide (65600 ≤ r.frames.length) && distinct r.frames
    && r.frames.all (fun f => decide (f < Config.mainMemoryEnd / 65536) && r.groups.contains (channelGroup f)
        && (s.potOf f).owner == .free && !(s.potOf f).transition)
    && r.frames == (List.range r.frames.length).map (nthFrame r.groups (r.frames.headD 0))
    && r.pages.all (pageOk r) && pagesApart r.groups r.pages
    && decide ((r.pages.filter fun g => match g.place with | .lent .. => true | _ => false).foldl (fun n g => n + pageUnits g) 0
        ≤ r.lentFrames)

/-- The POT entries of the partition's frames: its world and owner, the mode of the page that lies there. -/
def State.claimFrames (s : State) (r : PartitionRequest) : State :=
  let owned := r.frames.foldl (fun m f => mapSet m f ⟨r.world, .part r.num, .clear, false⟩) s.pot
  let moded := r.pages.foldl (fun m g => match g.place with
    | .main f => (pageFrames r.groups g f).foldl (fun m x => mapSet m x ⟨r.world, .part r.num, g.mode, false⟩) m
    | _ => m) owned
  { s with pot := moded }

/-- A partition as it is created: its keys are those of the numbers from `key` on (R383, R387, R373). -/
def Partition.fresh (req : PartitionRequest) (key : Nat) : Partition where
  req := req
  pages := req.pages
  frames := req.frames
  sealKey := key
  dataKey := key + 1
  macKey := key + 2
  flashKey := key + 3
  jobKey := some (key + 4)
  versions := []
  sampling := []
  log := []
  logDropped := 0
  ringSeq := []
  ringRead := []
  ringLost := 0
  levels := List.replicate 8 emptyLevel
  graphs := []
  flash := []
  badBlocks := []
  lastPin := []
  records := []
  teardown := none

/-- Change the key stores of all twelve memory controllers. -/
def State.modStores (s : State) (f : KeyStore → KeyStore) : State := { s with keyStores := s.keyStores.map f }

/-- F4 loads a partition's XTS and GCM keys into every key store (R383). -/
def State.loadKeys (s : State) (part xts gcm : Nat) : State :=
  s.modStores fun k => { k with parts := mapSet k.parts part (xts, gcm) }

/-- PARTITION_CREATE (R431): quotas, Almanac share, allotments, keys. Its frames follow one another round-robin over its groups
(R33). -/
def execPartitionCreate (req : PartitionRequest) (s : State) : Out :=
  if s.createOk req then
    .next { (s.claimFrames req).loadKeys req.num (s.keyNext + 1) (s.keyNext + 2) with
      parts := mapSet s.parts req.num (Partition.fresh req s.keyNext)
      pools := (addPools req.num req.clusters req.poolMb.zipIdx s.pools).getD s.pools
      keyNext := s.keyNext + 5 }
  else .next s

/-! ## Teardown (R390, R391) -/

/-- A partition's ACTIVE entries with their generations. -/
def State.ownEntries (s : State) (part : Nat) : List (Nat × Nat) :=
  (s.almanac.filter fun e => decide (e.2.owner = part) && decide (e.2.state = .active)).map fun e => (e.1, e.2.gen.toNat)

/-- Step 1: every task ends, the destruction of its queues is entered in the journal (R343, R349), armed entries are FREE; saved
contexts go with their tasks. -/
def State.endPartition (s : State) (part : Nat) (nonce : BitVec 64) : State :=
  let s1 := (s.tasks.filter fun t => t.part = part && t.ending.isNone).foldl (fun st t => st.endTask t.id .destroyed 0 0 0) s
  let s2 := (s1.queues.filter fun q => q.part = part && !q.destroyed).foldl (fun st q => st.journal (.queueDestroy part q.num)) s1
  State.modPart { s2 with
    arms := s2.arms.filter fun a => a.part ≠ part
    saved := s2.saved.filter fun x => x.core.partId ≠ part } part fun p => { p with teardown := some ⟨nonce, 1⟩ }

/-- PARTITION_TEARDOWN (R390): step 1 begins. -/
def execPartitionTeardown (part : Nat) (nonce : BitVec 64) (s : State) : Out :=
  match mapGet s.parts part with
  | some p => if p.teardown.isNone then .next (s.endPartition part nonce) else .next s
  | none => .next s

/-- A core without anything of a partition (R381): zeros, nothing outstanding. -/
def Core.erase (c : Core) : Core := { (Core.initial c.phys).vacant with accNext := c.accNext, cmdNext := c.cmdNext, sweeps := c.sweeps }

/-- Step 1 is complete: no task and no queue is left. -/
def State.ended (s : State) (part : Nat) : Bool := s.tasks.all (fun t => t.part != part) && s.queues.all fun q => q.part != part

/-- Step 2 is complete: every entry is FREE. -/
def State.unpinned (s : State) (part : Nat) : Bool := s.almanac.all fun e => e.2.owner != part || e.2.state == .free

/-- Nothing of the partition still runs on a core. -/
def State.quiet (s : State) (part : Nat) : Bool := s.cores.all fun c => c.partId != part || !c.busy

/-- A change of ownership of a frame of the partition, or of one that it is to get, is under way (R382). -/
def State.framesMoving (s : State) (part : Nat) (p : Partition) : Bool :=
  s.potWork.any fun w => p.frames.contains w.1 || w.2.owner == .part part

/-- The frames of a partition scrubbed and freed (step 3). -/
def State.scrub (s : State) (frames : List Nat) : State :=
  let own (a : Nat) : Bool := frames.contains (a / 65536)
  let s1 := s.fillFrames frames []
  { s1 with
    pot := frames.foldl (fun m f => mapSet m f freshPot) s1.pot
    poisonLines := s1.poisonLines.filter fun l => !own (l * 128)
    macLines := s1.macLines.filter fun l => !own (l * 128)
    correctedLines := s1.correctedLines.filter fun l => !own (l * 128) }

/-- A byte or row of a die's pool lies in an allotment of a partition. -/
def State.poolOwn (s : State) (part die a : Nat) : Bool := s.pools.any fun r => r.part == part && r.die == die && r.has a

/-- Clusters and die-pool allotments zeroed, the allotments free (step 3, R381). -/
def State.zeroLocal (s : State) (part : Nat) : State :=
  let s1 := s.modAll fun c => if (s.cluster (clusterOf c.phys)).owner = some part then c.erase else c
  { s1 with
    clusters := s1.clusters.map fun x =>
      (x.1, { x.2 with owner := if x.2.owner = some part then none else x.2.owner, kept := mapErase x.2.kept part })
    dies := s1.dies.mapFinIdx fun i d _ =>
      { d with pool := d.pool.filter fun c => !s.poolOwn part i c.1
               poolPoison := d.poolPoison.filter fun r => !s.poolOwn part i r }
    pools := s1.pools.filter fun r => r.part ≠ part }

/-- The lenders' grants to the partition are closed (step 2): its pages on their frames are gone, and the frames zeroed (R63). -/
def State.closeGrants (s : State) (part : Nat) (p : Partition) : State :=
  State.modPart { s with lentMem := p.lentFrames.foldl (fun m x => memClear m (x.1 * 2 ^ 48 + x.2 * 65536) 65536) s.lentMem } part fun q =>
    { q with pages := q.pages.filter fun g => match g.place with
      | .lent .. => false
      | _ => true }

/-- The receipt of a teardown (R391). -/
def State.receipt (s : State) (part : Nat) (p : Partition) (nonce : BitVec 64) : Receipt :=
  ⟨s.trust.receiptSerial, part, p.req.job, nonce, p.frames.length, p.req.ways, if p.req.flashBlocks = 0 then 0 else 1, s.time⟩

/-- The 96 signed bytes of a receipt as a number (R391). -/
def receiptImage (r : Receipt) : Nat :=
  bytesToNat (natToBytes 4 r.serial ++ [BitVec.ofNat 8 r.part, 0, 0, 0] ++ natToBytes 16 r.job
    ++ natToBytes 8 r.nonce.toNat ++ natToBytes 4 r.frames ++ natToBytes 2 r.ways ++ natToBytes 2 r.namespaces
    ++ natToBytes 8 r.time ++ natToBytes 32 Config.identityHash.toNat ++ natToBytes 16 0)

/-- The 160 bytes of a receipt: the signature of its first 96 follows them (R391). -/
def receiptBytes (r : Receipt) : List Byte :=
  natToBytes 96 (receiptImage r) ++ natToBytes 64 (Config.receiptSignature (receiptImage r)).toNat

/-- The teardown goes on with a step. -/
def State.toStep (s : State) (part n : Nat) : State :=
  s.modPart part fun p => { p with teardown := p.teardown.map fun t => { t with step := n } }

/-- A step fails: no receipt is signed, what it and the later steps were to free stays with firmware, and F4 reports it. -/
def State.failStep (s : State) (part : Nat) (p : Partition) (n : Nat) : State :=
  { s with
    pot := if n = 3 then p.frames.foldl (fun m f => mapSet m f { s.potOf f with owner := .firmware }) s.pot else s.pot
    clusters := s.clusters.map fun x => (x.1, { x.2 with owner := if x.2.owner = some part then none else x.2.owner })
    parts := mapErase s.parts part
    held := s.held ++ [(n, p.req)]
    fw := { s.fw with telemetryFlags := s.fw.telemetryFlags ++ [.teardown part] } }

/-- Step 4: keys are erased, and the job key is withdrawn from every switch (R373, R374). -/
def State.eraseKeys (s : State) (part : Nat) : State :=
  State.modPart { s.modStores (fun k => { k with parts := mapErase k.parts part }) with switches := s.switches.map fun x => { x with keys := x.keys.filter fun k => k ≠ part } } part fun p =>
    { p with sealKey := 0, dataKey := 0, macKey := 0, jobKey := none }

/-- Steps 5 and 6: the flash namespace goes with its key, and the receipt is signed. -/
def State.finishTeardown (s : State) (part : Nat) (p : Partition) (nonce : BitVec 64) : State :=
  { s with
    parts := mapErase s.parts part
    trust := { s.trust with
      receiptSerial := s.trust.receiptSerial + 1, receipts := s.trust.receipts ++ [s.receipt part p nonce] } }

/-- The next step of a teardown, once the one in hand is complete (R390). Whether step 3, 4 or 5 fails is free. -/
def State.teardownStep (s : State) (part : Nat) (p : Partition) (t : Teardown) : Option State :=
  let s0 := { s with fv := s.fv + 1 }
  let fails := Config.choice s.fv
  match t.step with
  | 1 =>
    if s.ended part then some (State.toStep { s with releases := s.releases ++ s.ownEntries part } part 2) else none
  | 2 => if s.unpinned part then some ((s.closeGrants part p).toStep part 3) else none
  | 3 =>
    if ¬s.quiet part ∨ s.framesMoving part p then none
    else some (if fails then s0.failStep part p 3 else ((s0.scrub p.frames).zeroLocal part).toStep part 4)
  | 4 => some (if fails then s0.failStep part p 4 else (s0.eraseKeys part).toStep part 5)
  | _ => some (if fails then s0.failStep part p 5 else s0.finishTeardown part p t.nonce)

/-! ## Images and ownership (R388, R389) -/

/-- An image passes its checks (R388). -/
def Trust.passes (t : Trust) (i : FirmwareImage) : Bool :=
  i.makerOk && i.ownerKey.isSome && i.ownerKey == t.ownerKey && decide (t.minVersion ≤ i.version)

/-- FIRMWARE_IMAGE (R388, R389). -/
def execFirmwareImage (img : FirmwareImage) (s : State) : Out :=
  if s.serves ∧ s.trust.ownership = .owned ∧ s.trust.passes img then
    .next { s with trust := { s.trust with staged := some img } }
  else .next s

/-- TRANSFER (R389): every partition is torn down. -/
def execTransfer (req : OwnerRequest) (s : State) : Out :=
  if s.serves ∧ s.trust.ownership = .owned ∧ req.signedBy.isSome ∧ req.signedBy = s.trust.ownerKey
      ∧ ¬s.trust.nonces.contains req.nonce then
    let s1 := { s with trust := { s.trust with
      ownership := .transferring, nextOwner := BitVec.ofNat 256 req.key, nonces := s.trust.nonces ++ [req.nonce] } }
    .next ((s1.parts.filter fun x => x.2.teardown.isNone).foldl (fun st x => st.endPartition x.1 (BitVec.ofNat 64 req.nonce)) s1)
  else .next s

/-- The owner keys are cleared once every partition has been torn down (R389). -/
def State.transferStep (s : State) : Option State :=
  if s.trust.ownership = .transferring ∧ s.parts.isEmpty ∧ s.held.isEmpty then
    some { s with trust := { s.trust with ownership := .unowned, ownerKey := none } }
  else none

/-- ENROL (R389). -/
def execEnrol (req : OwnerRequest) (s : State) : Out :=
  if s.serves ∧ s.trust.ownership = .unowned ∧ req.signedBy = some req.key ∧ ¬s.trust.nonces.contains req.nonce
      ∧ Config.sha256 req.key = s.trust.nextOwner then
    .next { s with trust := { s.trust with
      ownership := .owned, ownerKey := some req.key, nonces := s.trust.nonces ++ [req.nonce] } }
  else .next s

end Sys2Proof.Machine
end

