-- ==== Sys2Proof/Machine/Observe.lean ====
section
/-! DEFINITION. Sampling, counters that wrap, debug settings, schedule-cycle stop, live dump (19 R392-R407, 04 R71). -/

namespace Sys2Proof.Machine

/-! ## Sampling (R392-R397) -/

/-- The 32 bytes of a sample (R395). -/
def Core.sampleBytes (c : Core) (time : Nat) (holdover : Bool) (seq : Nat) : List Byte :=
  natToBytes 8 time ++ natToBytes 8 c.calendar.toNat ++ natToBytes 4 c.headPc.toNat
    ++ [c.stall, BitVec.ofNat 8 (c.headInh.toNat + 2 * c.headSlot.toNat + 4 * holdover.toNat)] ++ natToBytes 2 c.rank
    ++ natToBytes 4 seq ++ [BitVec.ofNat 8 c.vcore, 0, 0, 0]

/-- The sample of a core goes to its ring. -/
def State.sample (s : State) (c : Core) : State :=
  if c.samples then s.ringWrite c false (c.sampleBytes s.time s.ptp.holdover) else s

/-- PC_SAMPLE (R393). -/
def execPcSample (s : State) : Out := .next (s.sample s.core)

/-- RING_DRAIN (R396): F6 has read both rings of a virtual die. -/
def execRingDrain (part die : Nat) (s : State) : Out :=
  .next (s.modPart part fun p => { p with ringRead := mapSet p.ringRead die ((mapGet p.ringSeq die).getD (0, 0)) })

/-- The fields of a SAMPLECFG value lie in their ranges (R392). -/
def sampleFieldsOk (x : BitVec 64) : Bool :=
  let e := (x.extractLsb' 8 5).toNat
  let r := (x.extractLsb' 16 5).toNat
  decide (10 ≤ e) && decide (e ≤ 24) && decide (8 ≤ r) && decide (r ≤ 18)

/-- The pool allotment of the virtual die of a virtual core. -/
def State.poolOf (s : State) (part v : Nat) : Option Nat :=
  (mapGet s.parts part).bind fun x => if v < x.ncores then some (x.req.poolMb.getD (v / 64) 0) else none

/-- A virtual core of a partition has a context on a core. -/
def Core.stands (c : Core) (part v : Nat) : Bool := c.partId == part && c.vcore == v && c.ctx != .idle && c.ctx != .ended

/-- A saved context is that of a virtual core of a partition. -/
def Saved.isOf (x : Saved) (part v : Nat) : Bool := x.core.partId == part && x.core.vcore == v

/-- SAMPLECFG_WRITE (R392, R395): for the next context of a virtual core, before its dispatch or restore; a value out of range,
or whose rings do not fit, is refused. -/
def execSamplecfgWrite (vcore : VirtualCore) (value : BitVec 64) (s : State) : Out :=
  let fits (mb : Nat) : Bool := decide (64 * 2 ^ (value.extractLsb' 16 5).toNat ≤ mb * 0x100000)
  if sampleFieldsOk value ∧ (s.poolOf vcore.part vcore.core).any fits ∧ ¬s.cores.any fun c => c.stands vcore.part vcore.core then
    let v : BitVec 64 := value &&& 0x3FF1F01
    let isOf (x : Saved) : Bool := x.isOf vcore.part vcore.core
    if s.saved.any isOf then
      .next { s with saved := s.saved.map fun x => if isOf x then { x with core := { x.core with samplecfg := v } } else x }
    else .next (s.modPart vcore.part fun p => { p with sampling := mapSet p.sampling vcore.core v })
  else .next s

/-! ## Counters (R401) -/

/-- COUNTER_WRAP (R401): the counter stands at 2^48 − 1 and its event occurs. -/
def execCounterWrap (n : BitVec 4) (s : State) : Out :=
  let i := n.toFin
  if s.core.ctrval[i].extractLsb' 0 48 = BitVec.allOnes 48 ∧ s.core.countsNow i then
    .next (s.mod fun c => { c with ctrval := c.ctrval.set i (ctrStep c.ctrval[i]) })
  else .next s

/-- All counters with this cycle's events; the register that an `mfc` of this cycle reads one into gets the value with them
(R403, R404). -/
def Core.countCycle (c : Core) : Core :=
  let c1 := match c.ctrRead with
    | some (d, n) => c.ws d (c.ctrNow n.toFin)
    | none => c
  { c1 with ctrRead := none, ctrval := if c.ctx = .running then Vector.ofFn fun i => c.ctrNow i else c.ctrval }

/-! ## Debug (R71, R405-R407) -/

/-- DEBUG_REQUEST (R71), once requests are accepted (R429, R430). R71 has the value hold for the whole context and gives the write no
time: one that finds a context running changes it at once (DESIGN CHOICE, log entry 68). -/
def execDebugRequest (core : Nat) (value : BitVec 2) (s : State) : Out :=
  if s.serves then .next ((s.ensureCore core).modAt core fun c => { c with dbgcfg := value }) else .next s

/-- F6 refuses a stop that is not 65,536 cycles ahead (R405). -/
def Core.armStop (c : Core) (cycle : Nat) : Core :=
  if c.ctx = .running ∧ c.calendar.toNat + 65536 ≤ cycle then { c with stopAt := some (BitVec.ofNat 56 cycle) } else c

/-- SCHEDULE_STOP_ARM (R405). -/
def execScheduleStopArm (cores : List Nat) (cycle : Nat) (s : State) : Out :=
  .next (s.modAll fun c => if cores.contains c.phys then c.armStop cycle else c)

/-- The stop of a core takes effect on this cycle. -/
def Core.stopsNow (c : Core) : Bool := c.ctx == .running && c.stopAt == some (c.calendar.setWidth 56)

/-- The core frozen on the edge before this cycle. -/
def Core.freeze (c : Core) (now : Nat) : Core := { c with ctx := .frozen, stopAt := none, headRun := false, frozenAt := now }

/-- Cells at addresses in a row as one run each: its first address and its bytes. -/
def cellRuns : List Host.Cell → List (Nat × List Byte)
  | [] => []
  | (a, b) :: rest =>
    match cellRuns rest with
    | (a', bs) :: rs => if a' = a + 1 then (a, b :: bs) :: rs else (a, [b]) :: (a', bs) :: rs
    | [] => [(a, [b])]

/-- The bytes of a dump entry (R406): KIND, UNIT, REMAIN, ADDR and VALUE, padded to 8 bytes. -/
def dumpEntry (kind unit' remain addr : Nat) (value : List Byte) : List Byte :=
  [BitVec.ofNat 8 kind, BitVec.ofNat 8 unit'] ++ natToBytes 2 remain ++ natToBytes 4 addr ++ natToBytes 4 value.length
    ++ natToBytes 4 0 ++ value ++ List.replicate ((8 - value.length % 8) % 8) 0

/-- A timed write whose cycle has not come: an entry for each run of bytes. -/
def TimedWrite.entries (w : TimedWrite) (now : Nat) : List (List Byte) :=
  (cellRuns w.cells).map fun x => dumpEntry (if w.lane then 2 else 1) 0 (w.expose - now) x.1 x.2

/-- The bytes of row group g of a vector register. -/
def groupBytes (v : VReg) (g : Nat) : List Byte := ((v.toList.drop (256 * g)).take 256).flatMap fun x => natToBytes 4 x.toNat

/-- A register result that is not ready: UNIT names scalar, vector row group, predicate, BC and token registers, no other. -/
def Core.resultEntries (c : Core) (now : Nat) (x : Reg × Nat) : List (List Byte) :=
  let one (unit' n : Nat) (value : List Byte) := if now < x.2 then [dumpEntry 3 unit' (x.2 - now) n value] else []
  match x.1 with
  | .s n => one 0 n (natToBytes 8 (c.rs (BitVec.ofNat 5 n)).toNat)
  | .v n => ((List.range 4).filter fun g => decide (now < x.2 + g)).map fun g =>
      dumpEntry 3 1 (x.2 + g - now) n (groupBytes (c.rv (BitVec.ofNat 4 n)) g)
  | .p n => one 2 n (natToBytes 128 (c.rp (BitVec.ofNat 3 n)).toNat)
  | .bc => one 3 0 [BitVec.ofNat 8 c.bc.toNat]
  | .k n => one 4 n (natToBytes 16 (c.rk (BitVec.ofNat 4 n)).toNat)
  | .b _ | .loopRegs => []

/-- The started commands of an engine; the spec gives the bytes of a command's state no layout (free value, log entry 1). -/
def Core.commandEntries (c : Core) (now : Nat) (e : EngineId) : List (List Byte) :=
  (c.eng e).running.map fun m =>
    dumpEntry 4 (engNum e) (m.doneAt.getD m.due - now) m.launch.tag (Config.commandImage (c.phys * 2 ^ 32 + m.id) now)

/-- The dump entries of a core's pending results at a cycle, a vector register by row groups, group g ready g cycles after the
first (R406). -/
def Core.pendingEntries (c : Core) (now : Nat) : List (List Byte) :=
  (c.timed.filter fun w => decide (now ≤ w.expose)).flatMap (fun w => w.entries now)
    ++ (c.ready.filter fun x => decide (x.2 < 2 ^ 62)).flatMap (fun x => c.resultEntries now x)
    ++ [EngineId.matrix, .copy, .lantern].flatMap fun e => c.commandEntries now e

/-- The dump of a core that stops on this cycle (R406). -/
def Core.stopDump (c : Core) (now : Nat) : Dump := ⟨c.phys, false, c, [], c.pendingEntries now⟩

/-- Every stop of this cycle; F6 dumps what it finds (R406). -/
def State.stopCores (s : State) : State :=
  { s.modAll (fun c => if c.stopsNow then c.freeze s.now else c) with
    dumps := s.dumps ++ (s.cores.filter Core.stopsNow).map fun c => c.stopDump s.now }

/-- SCHEDULE_CYCLE_STOP (R405): the running core freezes. -/
def execScheduleCycleStop (s : State) : Out :=
  if s.core.stopsNow then
    .next { s.mod (fun c => c.freeze s.now) with dumps := s.dumps ++ [s.core.stopDump s.now] }
  else .next s

/-- A cycle still to come moves on with the core's clock; the mark of a held reply is none. -/
def later (from' d t : Nat) : Nat := if from' ≤ t ∧ t < 2 ^ 62 then t + d else t

/-- A started command whose cycles move on. -/
def Cmd.move (m : Cmd) (d : Nat) : Cmd :=
  { m with start := m.start + d, due := m.due + d, doneAt := m.doneAt.map fun t => t + d }

def Engine.move (e : Engine) (from' d : Nat) : Engine :=
  { e with
    queue := e.queue.map fun p => { p with ready := later from' d p.ready }
    held := e.held.map fun h => { h with deq := h.deq + d }
    running := e.running.map fun m => m.move d
    freeAt := later from' d e.freeAt
    dequeued := later from' d e.dequeued }

/-- A wait until a cycle of the core's own clock. -/
def Waiting.move (w : Waiting) (from' d : Nat) : Waiting :=
  match w with
  | .cmpt rows next at' => .cmpt rows next (later from' d at')
  | .until t => .until (later from' d t)
  | .told t setter => .told (later from' d t) setter
  | .install t done => .install (later from' d t) done
  | w => w

/-- Every pending result of a stopped core reinjected at C + REMAIN (R406); the cycle on which it resumes is C, on which it samples
and counts as on any other (R393, R402). -/
def Core.resume (c : Core) (now : Nat) : Core :=
  let from' := c.frozenAt
  let d := now - from'
  { c with
    ctx := .running
    headRun := true
    events := if now < later from' d c.matrix.freeAt then 5 :: c.events.erase 5 else c.events
    timed := c.timed.map fun w => { w with expose := later from' d w.expose }
    ready := c.ready.map fun x => (x.1, if from' ≤ x.2 + x.1.span ∧ x.2 < 2 ^ 62 then x.2 + d else x.2)
    bankReads := c.bankReads.map fun x => (later from' d x.1, x.2)
    bankWrites := c.bankWrites.map fun x => (later from' d x.1, x.2)
    late := c.late.map fun x => { x with cycle := later from' d x.cycle }
    fmtLate := c.fmtLate.map fun x => (later from' d x.1, x.2)
    btime := c.btime.map fun t => t + d
    slots := c.slots.map fun x => { x with earliest := later from' d x.earliest }
    nextIssue := later from' d c.nextIssue
    vecFree := later from' d c.vecFree
    divFree := later from' d c.divFree
    quantDone := later from' d c.quantDone
    waiting := c.waiting.move from' d
    waitStart := c.waitStart + d
    watchQ := c.watchQ.map fun w => if w.kind = 1 then { w with cycle := w.cycle + d } else w
    matrix := c.matrix.move from' d
    copy := c.copy.move from' d
    lantern := c.lantern.move from' d
    tileFinal := c.tileFinal.map fun t => later from' d t
    lan := { c.lan with twSince := c.lan.twSince + d } }

/-- STOP_RESUME (R406). -/
def execStopResume (core : Nat) (s : State) : Out :=
  .next (s.modAt core fun c => if c.ctx = .frozen then c.resume s.now else c)

/-- LIVE_DUMP (R407): posted; the next `yield` takes it. -/
def execLiveDump (core : Nat) (s : State) : Out :=
  .next (s.modAt core fun c => if c.ctx = .running then { c with dump := true } else c)

end Sys2Proof.Machine
end

