-- ==== Sys2Proof/Machine/Device.lean ====
section
/-! DEFINITION. Temperature, resets and bring-up (21 R426-R430). -/

namespace Sys2Proof.Machine

/-! ## Temperature (R426) -/

/-- A die's reading. -/
def State.reading (s : State) (die celsius : Nat) : State := s.modDie die fun d => { d with celsius := celsius }

/-- Some die reads a temperature or more. -/
def State.hot (s : State) (celsius : Nat) : Bool := s.dies.any fun d => decide (celsius ≤ d.celsius)

/-! ## Resets (R428, R429) -/

/-- What survives a reset (R428): keys, minimum version, ownership, receipt serial, images, security log. The ports are DOWN until
step 5 of bring-up (R429). A die keeps its temperature, and F6 its stop of dispatch while one is hot (R426). The operator's domain,
the cycle count, the counters of free values and what the outside still sends are the model's own. -/
def State.blank (s : State) (boot : Boot) (step : Nat) : State :=
  { State.reset with
    trust := { s.trust with nonces := [], receipts := [] }
    boot := boot, bootStep := step, ptp := ⟨s.ptp.domain, false, false, 0⟩
    dies := s.dies.map fun d => { Die.initial with celsius := d.celsius }
    fw := { State.reset.fw with thermalStop := s.hot 100 }
    ports := Vector.replicate 16 (Port.initial.drop s.now)
    keyStores := Vector.replicate 12 ⟨0, []⟩
    now := s.now, fv := s.fv, seq := s.seq, keyNext := s.keyNext, taskNext := s.taskNext, packetNext := s.packetNext
    inputs := s.inputs }

/-- What readings bring about (R426): at 110 °C on a die power goes, and every partition is lost; at 100 °C on one dispatch stops;
with every die at 95 °C or less it goes on. Without power they only change. -/
def State.thermal (s : State) : State :=
  if s.boot = .off then s
  else if s.hot 110 then s.blank .off 0
  else if s.hot 100 then { s with fw := { s.fw with thermalStop := true } }
  else if s.hot 96 then s
  else { s with fw := { s.fw with thermalStop := false } }

/-- THERMAL_STOP (R426): a reading of a die. -/
def execThermalStop (die celsius : Nat) (s : State) : Out := .next (s.reading die celsius).thermal

/-- THERMAL_RESUME (R426): readings of all dies. -/
def execThermalResume (celsius : List Nat) (s : State) : Out :=
  .next ((List.range 4).foldl (fun st d => st.reading d (celsius.getD d (s.die d).celsius)) s).thermal

/-- THERMAL_TRIP (R426): a reading of a die. -/
def execThermalTrip (die celsius : Nat) (s : State) : Out := .next (s.reading die celsius).thermal

/-- Step 1: the staged image if it passes, else the running one, else none (R429). -/
def Trust.chosen (t : Trust) : Option FirmwareImage :=
  match t.staged.filter fun i => t.passes i with
  | some i => some i
  | none => t.running.filter fun i => t.passes i

/-- Steps 2 to 5 under an image: memory is written under a new firmware key; a port that fails stays DOWN; then bring-up waits for
the 1588 lock of step 6. -/
def State.start (s : State) (img : FirmwareImage) (env : BootEnv) : State :=
  let s1 := s.blank .running 6
  { s1 with
    ptp := { s1.ptp with domain := env.domain }
    keyStores := Vector.replicate 12 ⟨s1.keyNext, []⟩
    keyNext := s1.keyNext + 1
    trust := { s1.trust with minVersion := max s1.trust.minVersion img.version, running := some img }
    ports := Vector.ofFn fun (i : Fin 16) =>
      if env.badPorts.contains i.val then s1.ports[i] else Port.initial }

/-- The sequence of R429 up to the wait of step 6, or recovery (R430). The staged image runs, or fails and is discarded (R388). -/
def State.bringUp (s : State) (env : BootEnv) : State :=
  let s1 := { s with trust := { s.trust with staged := none } }
  match s.trust.chosen with
  | some img => s1.start img env
  | none => s1.blank .recovery 1

/-- A bring-up that no message asks for: which ports fail is free. -/
def State.bringUpFree (s : State) (cause : ResetCause) : State :=
  State.bringUp { s with fv := s.fv + 16 }
    ⟨(List.range 16).filter fun i => Config.choice (s.fv + i), s.ptp.domain, cause⟩

/-- POWER_ON (R428): the trip holds power off while a die reads 110 °C (R426). -/
def execPowerOn (env : BootEnv) (s : State) : Out := .next (if s.hot 110 then s.blank .off 0 else s.bringUp env)

/-- The module heeds what asks for a reset: a signed request, but in recovery, where only images are accepted (R428, R430), or F3 once
F4 does not respond. -/
def State.heeds (s : State) (cause : ResetCause) : Bool :=
  match cause with
  | .power => s.boot != .off
  | .request signed => s.boot == .running && signed
  | .watchdog => s.boot == .running && s.fw.f4Halted

/-- MODULE_RESET (R428): a module without power does not see it. -/
def execModuleReset (env : BootEnv) (s : State) : Out := if s.heeds env.cause then .next (s.bringUp env) else .next s

/-- F3 raises the module reset when F4 does not respond (R428). -/
def State.watchdogStep (s : State) : Option State := if s.fw.f4Halted then some (s.bringUpFree .watchdog) else none

/-- RECOVERY (R430): an image that passes step 1 is staged and the module resets. -/
def execRecovery (img : FirmwareImage) (s : State) : Out :=
  if s.boot = .recovery ∧ s.trust.ownership = .owned ∧ s.trust.passes img then
    .next (State.bringUpFree { s with trust := { s.trust with staged := some img } } (.request true))
  else .next s

end Sys2Proof.Machine
end

