-- ==== Sys2Proof/Machine/VectorAxis.lean ====
section
/-! DEFINITION. Axis operations, element moves, predicates and votes (12 R276-R281). -/

namespace Sys2Proof.Machine

/-- The elements of a row, and of a column. -/
def rowOf (x : VReg) (r : Nat) : List (BitVec 32) := (List.range 64).map fun c => x.get r c
def colOf (x : VReg) (c : Nat) : List (BitVec 32) := (List.range 16).map fun r => x.get r c

/-- Reductions of R277. -/
inductive Red where
  | sum | max | min
  deriving DecidableEq, Repr

/-- One of two elements by order. -/
def pick (less : BitVec 32 → BitVec 32 → Bool) (wantMax : Bool) (a b : BitVec 32) : BitVec 32 :=
  if wantMax then (if less a b then b else a) else (if less b a then b else a)

/-- A reduction of a list of elements by type: 0 `i32`, 1 `u32`, 2 `f32` (R198, R277). -/
def reduce (k : Red) (t : BitVec 2) (xs : List (BitVec 32)) : BitVec 32 :=
  match k with
  | .sum => if t = 2 then fsum xs else xs.foldl (· + ·) 0
  | .max | .min =>
    let w := k == .max
    match xs with
    | [] => 0
    | y :: ys =>
      if t = 2 then ys.foldl (fun m x => if w then fmax m x else fmin m x) (canon y)
      else if t = 1 then ys.foldl (pick (fun a b => decide (a.toNat < b.toNat)) w) y
      else ys.foldl (pick (fun a b => decide (a.toInt < b.toInt)) w) y

/-- Latency of a reduction (R266). -/
def redLat (row : Bool) (t : BitVec 2) : Nat := if row then (if t = 2 then 11 else 9) else (if t = 2 then 14 else 12)

/-- A row-axis or column-axis reduction: the result in every element of the row or column (R277). -/
def vecRed (i : Instr) (k : Red) (row : Bool) (d a : BitVec 4) (t : BitVec 2) (s : State) : Out :=
  vecOp i d 0 (redLat row t) (fun c r j => reduce k t (if row then rowOf (c.rv a) r else colOf (c.rv a) j)) s

/-- vsumRa (R277). -/
def execVsumRa (d a : BitVec 4) (t : BitVec 2) (s : State) : Out := vecRed (.vsumRa d a t) .sum true d a t s

/-- vsumCa (R277). -/
def execVsumCa (d a : BitVec 4) (t : BitVec 2) (s : State) : Out := vecRed (.vsumCa d a t) .sum false d a t s

/-- vmaxRa (R277). -/
def execVmaxRa (d a : BitVec 4) (t : BitVec 2) (s : State) : Out := vecRed (.vmaxRa d a t) .max true d a t s

/-- vmaxCa (R277). -/
def execVmaxCa (d a : BitVec 4) (t : BitVec 2) (s : State) : Out := vecRed (.vmaxCa d a t) .max false d a t s

/-- vminRa (R277). -/
def execVminRa (d a : BitVec 4) (t : BitVec 2) (s : State) : Out := vecRed (.vminRa d a t) .min true d a t s

/-- vminCa (R277). -/
def execVminCa (d a : BitVec 4) (t : BitVec 2) (s : State) : Out := vecRed (.vminCa d a t) .min false d a t s

/-- vrotRa (R278). -/
def execVrotRa (d a : BitVec 4) (n : BitVec 6) (s : State) : Out :=
  vecOp (.vrotRa d a n) d 0 5 (fun k r c => (k.rv a).get r ((c + n.toNat) % 64)) s

/-- vrotCa (R278). -/
def execVrotCa (d a n : BitVec 4) (s : State) : Out :=
  vecOp (.vrotCa d a n) d 0 8 (fun k r c => (k.rv a).get ((r + n.toNat) % 16) c) s

/-- vbrow (R278). -/
def execVbrow (d a r : BitVec 4) (s : State) : Out :=
  vecOp (.vbrow d a r) d 0 8 (fun k _ c => (k.rv a).get r.toNat c) s

/-- vbcol (R278). -/
def execVbcol (d a : BitVec 4) (c : BitVec 6) (s : State) : Out :=
  vecOp (.vbcol d a c) d 0 5 (fun k r _ => (k.rv a).get r c.toNat) s

/-- vidxR (R278). -/
def execVidxR (d : BitVec 4) (s : State) : Out := vecOp (.vidxR d) d 0 4 (fun _ r _ => BitVec.ofNat 32 r) s

/-- vidxC (R278). -/
def execVidxC (d : BitVec 4) (s : State) : Out := vecOp (.vidxC d) d 0 4 (fun _ _ c => BitVec.ofNat 32 c) s

/-- vext (R279). -/
def execVext (d a r : BitVec 4) (c : BitVec 6) (s : State) : Out :=
  withGate (.vext d a r c) s fun s => retireWith s fun k =>
    (k.useVec s.now 1).put (d.setWidth 5) (((k.rv a).get r.toNat c.toNat).setWidth 64) s.now 6

/-- vins (R279): the other elements are unchanged. -/
def execVins (d a r : BitVec 4) (c : BitVec 6) (s : State) : Out :=
  vecOp (.vins d a r c) d 0 4
    (fun k i j => if i = r.toNat ∧ j = c.toNat then (k.rn a).setWidth 32 else (k.rv d).get i j) s

/-- vbcast (R279). -/
def execVbcast (d a : BitVec 4) (s : State) : Out :=
  vecOp (.vbcast d a) d 0 4 (fun k _ _ => (k.rn a).setWidth 32) s

/-- Conditions of R280: 0 eq, 1 ne, 2 lt, 3 le, 4 gt, 5 ge, over an equality and an order. -/
def cond6 (c : BitVec 3) (eq lt gt : Bool) : Bool :=
  if c = 0 then eq else if c = 1 then !eq else if c = 2 then lt else if c = 3 then lt || eq
  else if c = 4 then gt else gt || eq

/-- A compare of two elements by type (R280). -/
def cmpElem (c t : BitVec 3) (x y : BitVec 32) : Bool :=
  if t = 0 then cond6 c (x == y) (decide (x.toInt < y.toInt)) (decide (y.toInt < x.toInt))
  else if t = 1 then cond6 c (x == y) (decide (x.toNat < y.toNat)) (decide (y.toNat < x.toNat))
  else cond6 c ((f32 x).same (f32 y)) ((f32 x).less (f32 y)) ((f32 y).less (f32 x))

/-- vcmp (R280). -/
def execVcmp (d : BitVec 3) (a b : BitVec 4) (p c t : BitVec 3) (s : State) : Out :=
  withGate (.vcmp d a b p c t) s fun s => retireWith s fun k =>
    (k.useVec s.now 4).putP d
      (PReg.of fun r j => if (k.rp p).bit r j then cmpElem c t ((k.rv a).get r j) ((k.rv b).get r j)
        else (k.rp d).bit r j) s.now 5

/-- A predicate result (R281). -/
def predOp (i : Instr) (d : BitVec 3) (f : Core → PReg) (s : State) : Out :=
  withGate i s fun s => retireWith s fun c => (c.useVec s.now 0).putP d (f c) s.now 1

/-- pand (R281). -/
def execPand (d a b : BitVec 3) (s : State) : Out := predOp (.pand d a b) d (fun c => c.rp a &&& c.rp b) s

/-- por (R281). -/
def execPor (d a b : BitVec 3) (s : State) : Out := predOp (.por d a b) d (fun c => c.rp a ||| c.rp b) s

/-- pxor (R281). -/
def execPxor (d a b : BitVec 3) (s : State) : Out := predOp (.pxor d a b) d (fun c => c.rp a ^^^ c.rp b) s

/-- pandn (R281). -/
def execPandn (d a b : BitVec 3) (s : State) : Out := predOp (.pandn d a b) d (fun c => c.rp a &&& ~~~(c.rp b)) s

/-- pnot (R281). -/
def execPnot (d a : BitVec 3) (s : State) : Out := predOp (.pnot d a) d (fun c => ~~~(c.rp a)) s

/-- pmov (R281). -/
def execPmov (d a : BitVec 3) (s : State) : Out := predOp (.pmov d a) d (fun c => c.rp a) s

/-- vany (R281). -/
def execVany (a : BitVec 3) (s : State) : Out :=
  withGate (.vany a) s fun s => retireWith s fun c => (c.useVec s.now 0).putBc (c.rp a != 0) s.now

/-- vall (R281). -/
def execVall (a : BitVec 3) (s : State) : Out :=
  withGate (.vall a) s fun s => retireWith s fun c => (c.useVec s.now 0).putBc (c.rp a == BitVec.allOnes 1024) s.now

/-- pcnt (R281). -/
def execPcnt (d : BitVec 4) (a : BitVec 3) (s : State) : Out :=
  withGate (.pcnt d a) s fun s => retireWith s fun c =>
    (c.useVec s.now 0).put (d.setWidth 5) (BitVec.ofNat 64 (popCount (c.rp a))) s.now 3

end Sys2Proof.Machine
end

