-- ==== Sys2Proof/Machine/VectorFp.lean ====
section
/-! DEFINITION. Vector floating point, conversions, special functions and quantisation
(12 R270-R275, R282-R286, R289, R290). -/

namespace Sys2Proof.Machine

/-- vaddF32 (R271): Round(a + b, FP32, m). -/
def execVaddF32 (d a b : BitVec 4) (p m : BitVec 3) (s : State) : Out :=
  vec2 (.vaddF32 d a b p m) d a b p 6 (fadd (rmOf m)) s

/-- vsubF32 (R271): Round(a - b, FP32, m). -/
def execVsubF32 (d a b : BitVec 4) (p m : BitVec 3) (s : State) : Out :=
  vec2 (.vsubF32 d a b p m) d a b p 6 (fsub (rmOf m)) s

/-- vmulF32 (R271): Round(a·b, FP32, m). -/
def execVmulF32 (d a b : BitVec 4) (p m : BitVec 3) (s : State) : Out :=
  vec2 (.vmulF32 d a b p m) d a b p 6 (fmul (rmOf m)) s

/-- vfmaF32 (R271): one rounding. -/
def execVfmaF32 (d a b c : BitVec 4) (p m : BitVec 3) (s : State) : Out :=
  vecOp (.vfmaF32 d a b c p m) d p 6
    (fun k r j => ffma (rmOf m) ((k.rv a).get r j) ((k.rv b).get r j) ((k.rv c).get r j)) s

/-- vminF32 (R271). -/
def execVminF32 (d a b : BitVec 4) (p : BitVec 3) (s : State) : Out := vec2 (.vminF32 d a b p) d a b p 6 fmin s

/-- vmaxF32 (R271). -/
def execVmaxF32 (d a b : BitVec 4) (p : BitVec 3) (s : State) : Out := vec2 (.vmaxF32 d a b p) d a b p 6 fmax s

/-- vabsF32 (R271): the sign cleared; a NaN is made canonical. -/
def execVabsF32 (d a : BitVec 4) (p : BitVec 3) (s : State) : Out :=
  vec1 (.vabsF32 d a p) d a p 6 (fun x => canon (x &&& 0x7FFFFFFF)) s

/-- vnegF32 (R271): the sign flipped; a NaN is made canonical. -/
def execVnegF32 (d a : BitVec 4) (p : BitVec 3) (s : State) : Out :=
  vec1 (.vnegF32 d a p) d a p 6 (fun x => canon (x ^^^ 0x80000000)) s

/-- The FMTSTAT bits of the guarded elements of a conversion (R264, R181). -/
def flagsOf (g : PReg) (f : Nat → Nat → BitVec 5) : BitVec 5 :=
  (List.range 1024).foldl (fun acc i => if g.bit (i / 64) (i % 64) then acc ||| f (i / 64) (i % 64) else acc) 0

/-- A conversion that sets flags as it retires (R181). -/
def vecFlag (i : Instr) (d a : BitVec 4) (p : BitVec 3) (f : BitVec 32 → BitVec 32 × BitVec 5) (s : State) : Out :=
  withGate i s fun s => retireWith s fun c =>
    ((c.useVec s.now (vecOcc i)).putV d
      (guarded (c.rp p) (c.rv d) fun r k => (f ((c.rv a).get r k)).1) s.now 6).fmtLater (s.now + 6)
        (flagsOf (c.rp p) fun r k => (f ((c.rv a).get r k)).2)

/-- vcvt narrowing (R273, op 0). -/
def execVcvtNarrow (d a f : BitVec 4) (p m : BitVec 3) (s : State) : Out :=
  vecFlag (.vcvtNarrow d a f p m) d a p (narrow f.toNat (rmOf m) false) s

/-- vcvts narrowing with saturating overflow (R273, op 4). -/
def execVcvtsNarrow (d a f : BitVec 4) (p m : BitVec 3) (s : State) : Out :=
  vecFlag (.vcvtsNarrow d a f p m) d a p (narrow f.toNat (rmOf m) true) s

/-- vcvt widening (R274). -/
def execVcvtWiden (d a f : BitVec 4) (p : BitVec 3) (s : State) : Out :=
  vec1 (.vcvtWiden d a f p) d a p 6 (widen f.toNat) s

/-- vcvt.i32.f32 (R275). -/
def execVcvtI32F32 (d a : BitVec 4) (p m : BitVec 3) (s : State) : Out :=
  vecFlag (.vcvtI32F32 d a p m) d a p
    (fun x => let r := toInt (rmOf m) (-2147483648) 2147483647 (f32 x); (BitVec.ofInt 32 r.1, r.2)) s

/-- vcvt.f32.i32 (R275). -/
def execVcvtF32I32 (d a : BitVec 4) (p m : BitVec 3) (s : State) : Out :=
  vec1 (.vcvtF32I32 d a p m) d a p 6 (fun x => toF32 (rmOf m) (Val.ofRat (x.toInt : Rat) false)) s

/-- Latency of a special function (R266, R285). -/
def sfnLat (f : Sfn) (g : BitVec 1) : Nat :=
  if g = 0 then 8 else match f with
    | .rcp | .rsqrt | .sqrt => 16
    | _ => 24

/-- A special function of either grade (R282-R285). -/
def vecSfn (i : Instr) (f : Sfn) (d a : BitVec 4) (p : BitVec 3) (g : BitVec 1) (s : State) : Out :=
  vec1 i d a p (sfnLat f g) (f.apply (g == 0)) s

/-- vrcp (R282-R286). -/
def execVrcp (d a : BitVec 4) (p : BitVec 3) (g : BitVec 1) (s : State) : Out :=
  vecSfn (.vrcp d a p g) .rcp d a p g s

/-- vrsqrt (R282-R286). -/
def execVrsqrt (d a : BitVec 4) (p : BitVec 3) (g : BitVec 1) (s : State) : Out :=
  vecSfn (.vrsqrt d a p g) .rsqrt d a p g s

/-- vsqrt (R282-R286). -/
def execVsqrt (d a : BitVec 4) (p : BitVec 3) (g : BitVec 1) (s : State) : Out :=
  vecSfn (.vsqrt d a p g) .sqrt d a p g s

/-- vexp2 (R282-R286). -/
def execVexp2 (d a : BitVec 4) (p : BitVec 3) (g : BitVec 1) (s : State) : Out :=
  vecSfn (.vexp2 d a p g) .exp2 d a p g s

/-- vlog2 (R282-R286). -/
def execVlog2 (d a : BitVec 4) (p : BitVec 3) (g : BitVec 1) (s : State) : Out :=
  vecSfn (.vlog2 d a p g) .log2 d a p g s

/-- vexp (R282-R286). -/
def execVexp (d a : BitVec 4) (p : BitVec 3) (g : BitVec 1) (s : State) : Out :=
  vecSfn (.vexp d a p g) .exp d a p g s

/-- vtanh (R282-R286). -/
def execVtanh (d a : BitVec 4) (p : BitVec 3) (g : BitVec 1) (s : State) : Out :=
  vecSfn (.vtanh d a p g) .tanh d a p g s

/-- vsigm (R282-R286). -/
def execVsigm (d a : BitVec 4) (p : BitVec 3) (g : BitVec 1) (s : State) : Out :=
  vecSfn (.vsigm d a p g) .sigm d a p g s

/-- vsin (R282-R286). -/
def execVsin (d a : BitVec 4) (p : BitVec 3) (g : BitVec 1) (s : State) : Out :=
  vecSfn (.vsin d a p g) .sin d a p g s

/-- vcos (R282-R286). -/
def execVcos (d a : BitVec 4) (p : BitVec 3) (g : BitVec 1) (s : State) : Out :=
  vecSfn (.vcos d a p g) .cos d a p g s

/-- verf (R282-R286). -/
def execVerf (d a : BitVec 4) (p : BitVec 3) (g : BitVec 1) (s : State) : Out :=
  vecSfn (.verf d a p g) .erf d a p g s

/-- The 32 source values of block b of row r (R289). -/
def blockVals (x : VReg) (r b : Nat) : List Val := (List.range 32).map fun j => f32 (x.get r (32 * b + j))

/-- Quantised rows: per row the two scales, the 64 codes and the flags (R289). -/
def quantRow (c : Curve) (fmt : Nat) (x : VReg) (r : Nat) : Nat × Nat × List Nat × BitVec 5 :=
  let b0 := quantBlock c fmt (blockVals x r 0)
  let b1 := quantBlock c fmt (blockVals x r 1)
  (b0.1, b1.1, b0.2.1 ++ b1.2.1, b0.2.2 ||| b1.2.2)

/-- Codes packed into 32-bit elements, lowest first (R163, R289). -/
def packCodes (w : Nat) (codes : List Nat) : BitVec 32 :=
  BitVec.ofNat 32 (codes.foldr (fun x acc => acc * 2 ^ w + x) 0)

/-- The packed row of R289: element c. -/
def packedElem (w e0 e1 : Nat) (codes : List Nat) (c : Nat) : BitVec 32 :=
  let per := 32 / w
  let cols := 64 / per
  if c < cols then packCodes w ((codes.drop (per * c)).take per)
  else if c = cols then BitVec.ofNat 32 (e0 + 256 * e1)
  else 0

/-- vqnt (R289): its FMTSTAT bits are set as it retires (R181, R291). -/
def execVqnt (d a : BitVec 4) (t : BitVec 2) (f : BitVec 4) (s : State) : Out :=
  withGate (.vqnt d a t f) s fun s => retireWith s fun c =>
    let rows := (List.range 16).map (quantRow c.curves[t.toNat] f.toNat (c.rv a))
    let x := VReg.of fun r k => match rows[r]? with
      | some y => packedElem (fmtWidth f.toNat) y.1 y.2.1 y.2.2.1 k
      | none => 0
    let bits : BitVec 5 := rows.foldl (fun acc y => acc ||| y.2.2.2) 0
    (({ c with quantDone := max c.quantDone (s.now + 14) }.useVec s.now 8).putV d x s.now 14).fmtLater (s.now + 14) bits

/-- The code of element c of a row in the layout of R289, and the scale of its block. -/
def packedCode (x : VReg) (fmt r c : Nat) : Nat × Nat :=
  let w := fmtWidth fmt
  let per := 32 / w
  let word := (x.get r (c / per)).toNat
  let scales := (x.get r (64 / per)).toNat
  (word / 2 ^ (w * (c % per)) % 2 ^ w, if c < 32 then scales % 256 else scales / 256 % 256)

/-- vdqnt (R290). -/
def execVdqnt (d a : BitVec 4) (t : BitVec 2) (f : BitVec 4) (s : State) : Out :=
  withGate (.vdqnt d a t f) s fun s => retireWith s fun c =>
    ({ c with quantDone := max c.quantDone (s.now + 8) }.useVec s.now 4).putV d (VReg.of fun r k =>
      let y := packedCode (c.rv a) f.toNat r k
      toF32 .rne (scaledVal c.curves[t.toNat] f.toNat y.1 y.2)) s.now 8

end Sys2Proof.Machine
end

