-- ==== Sys2Proof/Machine/Dispatch.lean ====
section
/-! DEFINITION. One arm per instruction, engine word and event of spec/opcode_table.json, each a call of its meaning. -/

namespace Sys2Proof.Machine

def exec (i : Instr) (s : State) : Host.Outcome State Fault Refusal :=
  match i with
  | .add d a b => Sys2Proof.Machine.execAdd d a b s
  | .sub d a b => Sys2Proof.Machine.execSub d a b s
  | .and d a b => Sys2Proof.Machine.execAnd d a b s
  | .or d a b => Sys2Proof.Machine.execOr d a b s
  | .xor d a b => Sys2Proof.Machine.execXor d a b s
  | .andn d a b => Sys2Proof.Machine.execAndn d a b s
  | .orn d a b => Sys2Proof.Machine.execOrn d a b s
  | .xnor d a b => Sys2Proof.Machine.execXnor d a b s
  | .sll d a b => Sys2Proof.Machine.execSll d a b s
  | .srl d a b => Sys2Proof.Machine.execSrl d a b s
  | .sra d a b => Sys2Proof.Machine.execSra d a b s
  | .rol d a b => Sys2Proof.Machine.execRol d a b s
  | .ror d a b => Sys2Proof.Machine.execRor d a b s
  | .mul d a b => Sys2Proof.Machine.execMul d a b s
  | .mulh d a b => Sys2Proof.Machine.execMulh d a b s
  | .mulhu d a b => Sys2Proof.Machine.execMulhu d a b s
  | .div d a b => Sys2Proof.Machine.execDiv d a b s
  | .divu d a b => Sys2Proof.Machine.execDivu d a b s
  | .rem d a b => Sys2Proof.Machine.execRem d a b s
  | .remu d a b => Sys2Proof.Machine.execRemu d a b s
  | .min d a b => Sys2Proof.Machine.execMin d a b s
  | .max d a b => Sys2Proof.Machine.execMax d a b s
  | .minu d a b => Sys2Proof.Machine.execMinu d a b s
  | .maxu d a b => Sys2Proof.Machine.execMaxu d a b s
  | .clz d a => Sys2Proof.Machine.execClz d a s
  | .ctz d a => Sys2Proof.Machine.execCtz d a s
  | .popc d a => Sys2Proof.Machine.execPopc d a s
  | .bswap d a => Sys2Proof.Machine.execBswap d a s
  | .brev d a => Sys2Proof.Machine.execBrev d a s
  | .sel d a b => Sys2Proof.Machine.execSel d a b s
  | .addi d a imm => Sys2Proof.Machine.execAddi d a imm s
  | .andi d a imm => Sys2Proof.Machine.execAndi d a imm s
  | .ori d a imm => Sys2Proof.Machine.execOri d a imm s
  | .xori d a imm => Sys2Proof.Machine.execXori d a imm s
  | .slli d a n => Sys2Proof.Machine.execSlli d a n s
  | .srli d a n => Sys2Proof.Machine.execSrli d a n s
  | .srai d a n => Sys2Proof.Machine.execSrai d a n s
  | .rori d a n => Sys2Proof.Machine.execRori d a n s
  | .movi d v sh => Sys2Proof.Machine.execMovi d v sh s
  | .lut3 d a b c tbl => Sys2Proof.Machine.execLut3 d a b c tbl s
  | .fsl d a b n => Sys2Proof.Machine.execFsl d a b n s
  | .fsr d a b n => Sys2Proof.Machine.execFsr d a b n s
  | .cmpEq a b => Sys2Proof.Machine.execCmpEq a b s
  | .cmpNe a b => Sys2Proof.Machine.execCmpNe a b s
  | .cmpLt a b => Sys2Proof.Machine.execCmpLt a b s
  | .cmpGe a b => Sys2Proof.Machine.execCmpGe a b s
  | .cmpLtu a b => Sys2Proof.Machine.execCmpLtu a b s
  | .cmpGeu a b => Sys2Proof.Machine.execCmpGeu a b s
  | .tst a b => Sys2Proof.Machine.execTst a b s
  | .cmpiEq a imm => Sys2Proof.Machine.execCmpiEq a imm s
  | .cmpiNe a imm => Sys2Proof.Machine.execCmpiNe a imm s
  | .cmpiLt a imm => Sys2Proof.Machine.execCmpiLt a imm s
  | .cmpiGe a imm => Sys2Proof.Machine.execCmpiGe a imm s
  | .cmpiLtu a imm => Sys2Proof.Machine.execCmpiLtu a imm s
  | .cmpiGeu a imm => Sys2Proof.Machine.execCmpiGeu a imm s
  | .tsti a imm => Sys2Proof.Machine.execTsti a imm s
  | .ptg t imm => Sys2Proof.Machine.execPtg t imm s
  | .br t => Sys2Proof.Machine.execBr t s
  | .bz t => Sys2Proof.Machine.execBz t s
  | .call t => Sys2Proof.Machine.execCall t s
  | .ret n => Sys2Proof.Machine.execRet n s
  | .ptr t a => Sys2Proof.Machine.execPtr t a s
  | .mfb d t => Sys2Proof.Machine.execMfb d t s
  | .mtl a x => Sys2Proof.Machine.execMtl a x s
  | .mfl d x => Sys2Proof.Machine.execMfl d x s
  | .loopPush => Sys2Proof.Machine.execLoopPush s
  | .loopPop => Sys2Proof.Machine.execLoopPop s
  | .mfbc d => Sys2Proof.Machine.execMfbc d s
  | .mtbc a => Sys2Proof.Machine.execMtbc a s
  | .loop a imm => Sys2Proof.Machine.execLoop a imm s
  | .endOp => Sys2Proof.Machine.execEndOp s
  | .eret => Sys2Proof.Machine.execEret s
  | .trap n => Sys2Proof.Machine.execTrap n s
  | .svc n => Sys2Proof.Machine.execSvc n s
  | .mfc d y x => Sys2Proof.Machine.execMfc d y x s
  | .mtc a y x => Sys2Proof.Machine.execMtc a y x s
  | .ctrSel a n => Sys2Proof.Machine.execCtrSel a n s
  | .yield cnt mask => Sys2Proof.Machine.execYield cnt mask s
  | .sync => Sys2Proof.Machine.execSync s
  | .alignEquinox => Sys2Proof.Machine.execAlignEquinox s
  | .fenceCo => Sys2Proof.Machine.execFenceCo s
  | .fenceCl => Sys2Proof.Machine.execFenceCl s
  | .fenceDi => Sys2Proof.Machine.execFenceDi s
  | .fencePk => Sys2Proof.Machine.execFencePk s
  | .fenceDm => Sys2Proof.Machine.execFenceDm s
  | .tagWany a => Sys2Proof.Machine.execTagWany a s
  | .tagWall a => Sys2Proof.Machine.execTagWall a s
  | .tagFfr d a => Sys2Proof.Machine.execTagFfr d a s
  | .tagClr a => Sys2Proof.Machine.execTagClr a s
  | .barArrive d imm => Sys2Proof.Machine.execBarArrive d imm s
  | .barDrop d imm => Sys2Proof.Machine.execBarDrop d imm s
  | .barWait a imm => Sys2Proof.Machine.execBarWait a imm s
  | .enqM a => Sys2Proof.Machine.execEnqM a s
  | .enqC a => Sys2Proof.Machine.execEnqC a s
  | .enqL a => Sys2Proof.Machine.execEnqL a s
  | .fmtq a => Sys2Proof.Machine.execFmtq a s
  | .xlat k a b r => Sys2Proof.Machine.execXlat k a b r s
  | .kinfo d k f => Sys2Proof.Machine.execKinfo d k f s
  | .kmov j k => Sys2Proof.Machine.execKmov j k s
  | .ksub j k o l => Sys2Proof.Machine.execKsub j k o l s
  | .kst k j o => Sys2Proof.Machine.execKst k j o s
  | .kstL k b imm => Sys2Proof.Machine.execKstL k b imm s
  | .kld k j o => Sys2Proof.Machine.execKld k j o s
  | .kldL k b imm => Sys2Proof.Machine.execKldL k b imm s
  | .kclr k => Sys2Proof.Machine.execKclr k s
  | .krel k => Sys2Proof.Machine.execKrel k s
  | .ld d k b p o g z => Sys2Proof.Machine.execLd d k b p o g z s
  | .st d k b p o z => Sys2Proof.Machine.execSt d k b p o z s
  | .lds z d a g o imm => Sys2Proof.Machine.execLds z d a g o imm s
  | .sts z d a o imm => Sys2Proof.Machine.execSts z d a o imm s
  | .amoAdd z d k b c p o => Sys2Proof.Machine.execAmoAdd z d k b c p o s
  | .amoAnd z d k b c p o => Sys2Proof.Machine.execAmoAnd z d k b c p o s
  | .amoOr z d k b c p o => Sys2Proof.Machine.execAmoOr z d k b c p o s
  | .amoXor z d k b c p o => Sys2Proof.Machine.execAmoXor z d k b c p o s
  | .amoMin z d k b c p o => Sys2Proof.Machine.execAmoMin z d k b c p o s
  | .amoMax z d k b c p o => Sys2Proof.Machine.execAmoMax z d k b c p o s
  | .amoMinu z d k b c p o => Sys2Proof.Machine.execAmoMinu z d k b c p o s
  | .amoMaxu z d k b c p o => Sys2Proof.Machine.execAmoMaxu z d k b c p o s
  | .amoSwap z d k b c p o => Sys2Proof.Machine.execAmoSwap z d k b c p o s
  | .amoCas z d k b c p o => Sys2Proof.Machine.execAmoCas z d k b c p o s
  | .amoFadd d k b c p o => Sys2Proof.Machine.execAmoFadd d k b c p o s
  | .amoAddt z d k b c p o => Sys2Proof.Machine.execAmoAddt z d k b c p o s
  | .waita z d k b c p => Sys2Proof.Machine.execWaita z d k b c p s
  | .lamoAdd z d a imm c o => Sys2Proof.Machine.execLamoAdd z d a imm c o s
  | .lamoAnd z d a imm c o => Sys2Proof.Machine.execLamoAnd z d a imm c o s
  | .lamoOr z d a imm c o => Sys2Proof.Machine.execLamoOr z d a imm c o s
  | .lamoXor z d a imm c o => Sys2Proof.Machine.execLamoXor z d a imm c o s
  | .lamoMin z d a imm c o => Sys2Proof.Machine.execLamoMin z d a imm c o s
  | .lamoMax z d a imm c o => Sys2Proof.Machine.execLamoMax z d a imm c o s
  | .lamoMinu z d a imm c o => Sys2Proof.Machine.execLamoMinu z d a imm c o s
  | .lamoMaxu z d a imm c o => Sys2Proof.Machine.execLamoMaxu z d a imm c o s
  | .lamoSwap z d a imm c o => Sys2Proof.Machine.execLamoSwap z d a imm c o s
  | .lamoCas z d a imm c o => Sys2Proof.Machine.execLamoCas z d a imm c o s
  | .lamoFadd d a imm c o => Sys2Proof.Machine.execLamoFadd d a imm c o s
  | .vaddI32 d a b p => Sys2Proof.Machine.execVaddI32 d a b p s
  | .vsubI32 d a b p => Sys2Proof.Machine.execVsubI32 d a b p s
  | .vmulI32 d a b p => Sys2Proof.Machine.execVmulI32 d a b p s
  | .vmulhI32 d a b p => Sys2Proof.Machine.execVmulhI32 d a b p s
  | .vmulhU32 d a b p => Sys2Proof.Machine.execVmulhU32 d a b p s
  | .vminI32 d a b p => Sys2Proof.Machine.execVminI32 d a b p s
  | .vmaxI32 d a b p => Sys2Proof.Machine.execVmaxI32 d a b p s
  | .vminU32 d a b p => Sys2Proof.Machine.execVminU32 d a b p s
  | .vmaxU32 d a b p => Sys2Proof.Machine.execVmaxU32 d a b p s
  | .vaddsI32 d a b p => Sys2Proof.Machine.execVaddsI32 d a b p s
  | .vsubsI32 d a b p => Sys2Proof.Machine.execVsubsI32 d a b p s
  | .vabsI32 d a p => Sys2Proof.Machine.execVabsI32 d a p s
  | .vnegI32 d a p => Sys2Proof.Machine.execVnegI32 d a p s
  | .vand d a b p => Sys2Proof.Machine.execVand d a b p s
  | .vor d a b p => Sys2Proof.Machine.execVor d a b p s
  | .vxor d a b p => Sys2Proof.Machine.execVxor d a b p s
  | .vandn d a b p => Sys2Proof.Machine.execVandn d a b p s
  | .vsll d a b p => Sys2Proof.Machine.execVsll d a b p s
  | .vsrl d a b p => Sys2Proof.Machine.execVsrl d a b p s
  | .vsra d a b p => Sys2Proof.Machine.execVsra d a b p s
  | .vmov d a p => Sys2Proof.Machine.execVmov d a p s
  | .vsel d a b p => Sys2Proof.Machine.execVsel d a b p s
  | .vclz d a p => Sys2Proof.Machine.execVclz d a p s
  | .vpopc d a p => Sys2Proof.Machine.execVpopc d a p s
  | .vaddF32 d a b p m => Sys2Proof.Machine.execVaddF32 d a b p m s
  | .vsubF32 d a b p m => Sys2Proof.Machine.execVsubF32 d a b p m s
  | .vmulF32 d a b p m => Sys2Proof.Machine.execVmulF32 d a b p m s
  | .vfmaF32 d a b c p m => Sys2Proof.Machine.execVfmaF32 d a b c p m s
  | .vminF32 d a b p => Sys2Proof.Machine.execVminF32 d a b p s
  | .vmaxF32 d a b p => Sys2Proof.Machine.execVmaxF32 d a b p s
  | .vabsF32 d a p => Sys2Proof.Machine.execVabsF32 d a p s
  | .vnegF32 d a p => Sys2Proof.Machine.execVnegF32 d a p s
  | .vcvtNarrow d a f p m => Sys2Proof.Machine.execVcvtNarrow d a f p m s
  | .vcvtWiden d a f p => Sys2Proof.Machine.execVcvtWiden d a f p s
  | .vcvtI32F32 d a p m => Sys2Proof.Machine.execVcvtI32F32 d a p m s
  | .vcvtF32I32 d a p m => Sys2Proof.Machine.execVcvtF32I32 d a p m s
  | .vcvtsNarrow d a f p m => Sys2Proof.Machine.execVcvtsNarrow d a f p m s
  | .vsumRa d a t => Sys2Proof.Machine.execVsumRa d a t s
  | .vsumCa d a t => Sys2Proof.Machine.execVsumCa d a t s
  | .vmaxRa d a t => Sys2Proof.Machine.execVmaxRa d a t s
  | .vmaxCa d a t => Sys2Proof.Machine.execVmaxCa d a t s
  | .vminRa d a t => Sys2Proof.Machine.execVminRa d a t s
  | .vminCa d a t => Sys2Proof.Machine.execVminCa d a t s
  | .vrotRa d a n => Sys2Proof.Machine.execVrotRa d a n s
  | .vrotCa d a n => Sys2Proof.Machine.execVrotCa d a n s
  | .vbrow d a r => Sys2Proof.Machine.execVbrow d a r s
  | .vbcol d a c => Sys2Proof.Machine.execVbcol d a c s
  | .vidxR d => Sys2Proof.Machine.execVidxR d s
  | .vidxC d => Sys2Proof.Machine.execVidxC d s
  | .vext d a r c => Sys2Proof.Machine.execVext d a r c s
  | .vins d a r c => Sys2Proof.Machine.execVins d a r c s
  | .vbcast d a => Sys2Proof.Machine.execVbcast d a s
  | .vcmp d a b p c t => Sys2Proof.Machine.execVcmp d a b p c t s
  | .pand d a b => Sys2Proof.Machine.execPand d a b s
  | .por d a b => Sys2Proof.Machine.execPor d a b s
  | .pxor d a b => Sys2Proof.Machine.execPxor d a b s
  | .pandn d a b => Sys2Proof.Machine.execPandn d a b s
  | .pnot d a => Sys2Proof.Machine.execPnot d a s
  | .vany a => Sys2Proof.Machine.execVany a s
  | .vall a => Sys2Proof.Machine.execVall a s
  | .pcnt d a => Sys2Proof.Machine.execPcnt d a s
  | .pmov d a => Sys2Proof.Machine.execPmov d a s
  | .vrcp d a p g => Sys2Proof.Machine.execVrcp d a p g s
  | .vrsqrt d a p g => Sys2Proof.Machine.execVrsqrt d a p g s
  | .vsqrt d a p g => Sys2Proof.Machine.execVsqrt d a p g s
  | .vexp2 d a p g => Sys2Proof.Machine.execVexp2 d a p g s
  | .vlog2 d a p g => Sys2Proof.Machine.execVlog2 d a p g s
  | .vexp d a p g => Sys2Proof.Machine.execVexp d a p g s
  | .vtanh d a p g => Sys2Proof.Machine.execVtanh d a p g s
  | .vsigm d a p g => Sys2Proof.Machine.execVsigm d a p g s
  | .vsin d a p g => Sys2Proof.Machine.execVsin d a p g s
  | .vcos d a p g => Sys2Proof.Machine.execVcos d a p g s
  | .verf d a p g => Sys2Proof.Machine.execVerf d a p g s
  | .cmpt a b t => Sys2Proof.Machine.execCmpt a b t s
  | .vqnt d a t f => Sys2Proof.Machine.execVqnt d a t f s
  | .vdqnt d a t f => Sys2Proof.Machine.execVdqnt d a t f s
  | .vld d a b p => Sys2Proof.Machine.execVld d a b p s
  | .vst d a b p => Sys2Proof.Machine.execVst d a b p s
  | .vldL d a p => Sys2Proof.Machine.execVldL d a p s
  | .vstL d a p => Sys2Proof.Machine.execVstL d a p s
  | .nop => Sys2Proof.Machine.execNop s
  | .sval n => Sys2Proof.Machine.execSval n s
  | .ktok n => Sys2Proof.Machine.execKtok n s
  | .atStamp => Sys2Proof.Machine.execAtStamp s
  | .gate => Sys2Proof.Machine.execGate s
  | .dup => Sys2Proof.Machine.execDup s
  | .drop => Sys2Proof.Machine.execDrop s
  | .swap => Sys2Proof.Machine.execSwap s
  | .lit n => Sys2Proof.Machine.execLit n s
  | .litx n => Sys2Proof.Machine.execLitx n s
  | .mma z => Sys2Proof.Machine.execMma z s
  | .mmaSp z => Sys2Proof.Machine.execMmaSp z s
  | .mwb c => Sys2Proof.Machine.execMwb c s
  | .copy1d => Sys2Proof.Machine.execCopy1d s
  | .copyNd n => Sys2Proof.Machine.execCopyNd n s
  | .gather e => Sys2Proof.Machine.execGather e s
  | .scatter e => Sys2Proof.Machine.execScatter e s
  | .wbfill => Sys2Proof.Machine.execWbfill s
  | .collAr t o => Sys2Proof.Machine.execCollAr t o s
  | .collRs t o => Sys2Proof.Machine.execCollRs t o s
  | .collAg t => Sys2Proof.Machine.execCollAg t s
  | .lrst => Sys2Proof.Machine.execLrst s
  | .ldly => Sys2Proof.Machine.execLdly s
  | .lwin => Sys2Proof.Machine.execLwin s
  | .llaunchMin => Sys2Proof.Machine.execLlaunchMin s
  | .llaunchMax => Sys2Proof.Machine.execLlaunchMax s
  | .lcapV => Sys2Proof.Machine.execLcapV s
  | .lcapO k => Sys2Proof.Machine.execLcapO k s
  | .svcTime core => Sys2Proof.Machine.execSvcTime core s
  | .svcLog core => Sys2Proof.Machine.execSvcLog core s
  | .svcLimit core => Sys2Proof.Machine.execSvcLimit core s
  | .svcUnassigned core => Sys2Proof.Machine.execSvcUnassigned core s
  | .telemetryLogDrain part count => Sys2Proof.Machine.execTelemetryLogDrain part count s
  | .counterWrap n => Sys2Proof.Machine.execCounterWrap n s
  | .watchInstalled => Sys2Proof.Machine.execWatchInstalled s
  | .vigil => Sys2Proof.Machine.execVigil s
  | .equinoxRelease task => Sys2Proof.Machine.execEquinoxRelease task s
  | .barHeldArrival cluster id pos => Sys2Proof.Machine.execBarHeldArrival cluster id pos s
  | .xlatFaultResolution core act => Sys2Proof.Machine.execXlatFaultResolution core act s
  | .writeExposure => Sys2Proof.Machine.execWriteExposure s
  | .localStorePerformed id => Sys2Proof.Machine.execLocalStorePerformed id s
  | .tokenStorePerformed id => Sys2Proof.Machine.execTokenStorePerformed id s
  | .exportedStoreApply src dst => Sys2Proof.Machine.execExportedStoreApply src dst s
  | .loadDataReturn id => Sys2Proof.Machine.execLoadDataReturn id s
  | .poison => Sys2Proof.Machine.execPoison s
  | .integrity => Sys2Proof.Machine.execIntegrity s
  | .tfcMissFill => Sys2Proof.Machine.execTfcMissFill s
  | .atomicApply id => Sys2Proof.Machine.execAtomicApply id s
  | .atomicResultReturn id => Sys2Proof.Machine.execAtomicResultReturn id s
  | .waitaRegister id => Sys2Proof.Machine.execWaitaRegister id s
  | .waitaTimeout => Sys2Proof.Machine.execWaitaTimeout s
  | .localAtomicApply id => Sys2Proof.Machine.execLocalAtomicApply id s
  | .engineLaunchStart e => Sys2Proof.Machine.execEngineLaunchStart e s
  | .matrixComplete id => Sys2Proof.Machine.execMatrixComplete id s
  | .mwbComplete id => Sys2Proof.Machine.execMwbComplete id s
  | .copyComplete id => Sys2Proof.Machine.execCopyComplete id s
  | .collectiveComplete task group => Sys2Proof.Machine.execCollectiveComplete task group s
  | .lanternComplete id => Sys2Proof.Machine.execLanternComplete id s
  | .deferredReportDelivery => Sys2Proof.Machine.execDeferredReportDelivery s
  | .pcSample => Sys2Proof.Machine.execPcSample s
  | .ringDrain part die => Sys2Proof.Machine.execRingDrain part die s
  | .dispatchRound part => Sys2Proof.Machine.execDispatchRound part s
  | .imageLoad task => Sys2Proof.Machine.execImageLoad task s
  | .tlimitExpiry task => Sys2Proof.Machine.execTlimitExpiry task s
  | .preemptionRequest cluster => Sys2Proof.Machine.execPreemptionRequest cluster s
  | .gangWithdraw cluster => Sys2Proof.Machine.execGangWithdraw cluster s
  | .contextSave => Sys2Proof.Machine.execContextSave s
  | .contextRestore core ctx => Sys2Proof.Machine.execContextRestore core ctx s
  | .tasks part queue msg => Sys2Proof.Machine.execTasks part queue msg s
  | .replay part queue msg => Sys2Proof.Machine.execReplay part queue msg s
  | .queueCreate part queue level weight ring => Sys2Proof.Machine.execQueueCreate part queue level weight ring s
  | .queueDestroy part queue => Sys2Proof.Machine.execQueueDestroy part queue s
  | .arm part tag queue msg bufLen bufVa rearm => Sys2Proof.Machine.execArm part tag queue msg bufLen bufVa rearm s
  | .disarm part tag => Sys2Proof.Machine.execDisarm part tag s
  | .fire part head payload => Sys2Proof.Machine.execFire part head payload s
  | .graphDefine part graph nodes => Sys2Proof.Machine.execGraphDefine part graph nodes s
  | .patch part graph node new => Sys2Proof.Machine.execPatch part graph node new s
  | .collectiveGroupCreate task group setup => Sys2Proof.Machine.execCollectiveGroupCreate task group setup s
  | .partitionCreate req => Sys2Proof.Machine.execPartitionCreate req s
  | .partitionTeardown part nonce => Sys2Proof.Machine.execPartitionTeardown part nonce s
  | .journalAck => Sys2Proof.Machine.execJournalAck s
  | .uncorrectableErrorReport fcore imem => Sys2Proof.Machine.execUncorrectableErrorReport fcore imem s
  | .takeover => Sys2Proof.Machine.execTakeover s
  | .jubileeSweep index => Sys2Proof.Machine.execJubileeSweep index s
  | .tokenInvalidate core index => Sys2Proof.Machine.execTokenInvalidate core index s
  | .sweepAck core index => Sys2Proof.Machine.execSweepAck core index s
  | .sweepAbort core index => Sys2Proof.Machine.execSweepAbort core index s
  | .sweepFree index => Sys2Proof.Machine.execSweepFree index s
  | .sealKeyRotation index => Sys2Proof.Machine.execSealKeyRotation index s
  | .pageMove part page dest => Sys2Proof.Machine.execPageMove part page dest s
  | .lenderReclaim pkg lo count => Sys2Proof.Machine.execLenderReclaim pkg lo count s
  | .grantClose pkg lo count => Sys2Proof.Machine.execGrantClose pkg lo count s
  | .grantOpen pkg lo count => Sys2Proof.Machine.execGrantOpen pkg lo count s
  | .potChange frame world owner mode => Sys2Proof.Machine.execPotChange frame world owner mode s
  | .remoteRequestArrival req => Sys2Proof.Machine.execRemoteRequestArrival req s
  | .remoteRetransmit port dest seq => Sys2Proof.Machine.execRemoteRetransmit port dest seq s
  | .remoteRequestLost core id => Sys2Proof.Machine.execRemoteRequestLost core id s
  | .axtosTrainingStart link => Sys2Proof.Machine.execAxtosTrainingStart link s
  | .axtosTrainingDone link ok => Sys2Proof.Machine.execAxtosTrainingDone link ok s
  | .axtosKeysInstalled link => Sys2Proof.Machine.execAxtosKeysInstalled link s
  | .flitReceive port seq sealed intact note => Sys2Proof.Machine.execFlitReceive port seq sealed intact note s
  | .linkRetry port seq => Sys2Proof.Machine.execLinkRetry port seq s
  | .rekeyTimeout link => Sys2Proof.Machine.execRekeyTimeout link s
  | .spdmSession peer algsOk measurement => Sys2Proof.Machine.execSpdmSession peer algsOk measurement s
  | .jobKeyGrant part switch => Sys2Proof.Machine.execJobKeyGrant part switch s
  | .jobKeyWithdraw part loss => Sys2Proof.Machine.execJobKeyWithdraw part loss s
  | .uetConnectionSetup peer opts => Sys2Proof.Machine.execUetConnectionSetup peer opts s
  | .ptpLock source => Sys2Proof.Machine.execPtpLock source s
  | .ptpSourceLoss => Sys2Proof.Machine.execPtpSourceLoss s
  | .samplecfgWrite vcore value => Sys2Proof.Machine.execSamplecfgWrite vcore value s
  | .debugRequest core value => Sys2Proof.Machine.execDebugRequest core value s
  | .scheduleStopArm cores cycle => Sys2Proof.Machine.execScheduleStopArm cores cycle s
  | .scheduleCycleStop => Sys2Proof.Machine.execScheduleCycleStop s
  | .stopResume core => Sys2Proof.Machine.execStopResume core s
  | .liveDump core => Sys2Proof.Machine.execLiveDump core s
  | .firmwareImage img => Sys2Proof.Machine.execFirmwareImage img s
  | .transfer req => Sys2Proof.Machine.execTransfer req s
  | .enrol req => Sys2Proof.Machine.execEnrol req s
  | .thermalStop die celsius => Sys2Proof.Machine.execThermalStop die celsius s
  | .thermalResume celsius => Sys2Proof.Machine.execThermalResume celsius s
  | .thermalTrip die celsius => Sys2Proof.Machine.execThermalTrip die celsius s
  | .powerOn env => Sys2Proof.Machine.execPowerOn env s
  | .moduleReset env => Sys2Proof.Machine.execModuleReset env s
  | .recovery img => Sys2Proof.Machine.execRecovery img s
  | .ptpSourceRegained => Sys2Proof.Machine.execPtpSourceRegained s
  | .rekeyComplete link => Sys2Proof.Machine.execRekeyComplete link s
  | .reclaimCompletion pkg lo count => Sys2Proof.Machine.execReclaimCompletion pkg lo count s
  | .cumulativeAcknowledgement pkg port dest seq => Sys2Proof.Machine.execCumulativeAcknowledgement pkg port dest seq s
  | .reservedEncoding word => Sys2Proof.Machine.execReservedEncoding word s
  | .reservedEngineWord word => Sys2Proof.Machine.execReservedEngineWord word s

end Sys2Proof.Machine
end

