-- ==== Sys2Proof/Machine/Cycle.lean ====
section
/-! DEFINITION. One cycle of the package as a run of events (04 R64-R69, 06 R115, 09 R209, R212, 10 R211, 13 R294, R297).
Phase 0 is what comes from outside and from firmware; 1 what each core's own writes, then its engines, bring to an end; 2 and 3,
home slice by home slice, the accesses of all cores, then stores applied from other dies and requests from other packages; 4 the
engine words taken; 5 the launches started; 6 the strand's instruction; 7 the engines' reads; 8 readers through the CSM window; 9 what
F4 hears of switches; then the next cycle. -/

namespace Sys2Proof.Machine

/-! ## Choosing the next event -/

/-- Two states are equal; one object is equal to itself without a look at its fields. -/
def State.same (t s : State) : Bool := @decide (t = s) (withPtrEqDecEq t s fun _ => inferInstance)

/-- The first event that changes something, or stops. -/
def State.firstEvent (s : State) : List (State → Out) → Option Out
  | [] => none
  | f :: fs =>
    match f s with
    | .next t => if t.same s then s.firstEvent fs else some (.next t)
    | o => some o

/-- The last home slice of a die. -/
def lastSlice : Nat := 31

/-- The phase and slice that follow once every core has had its turn: phase 1 has two passes, phases 2 and 3 alternate, home slice
by home slice. -/
def afterPhase (phase slice : Nat) : Nat × Nat :=
  if phase = 1 ∧ slice = 0 then (1, 1)
  else if phase = 2 then (3, slice)
  else if phase = 3 ∧ slice < lastSlice then (2, slice + 1)
  else (phase + 1, 0)

/-- The turn passes to the next phase of all cores. -/
def State.nextPhase (s : State) : State :=
  let x := afterPhase s.phase s.slice
  { s with phase := x.1, slice := x.2, left := s.others.length + 1, turnEng := .matrix }

/-- The turn passes to the next core, and after the last one to the next phase. -/
def State.turnOver (s : State) : State :=
  let t := match s.others with
    | [] => s
    | c :: cs => { s with core := c, others := cs ++ [s.core] }
  if 1 < s.left then { t with left := s.left - 1, turnEng := .matrix } else t.nextPhase

/-- The first event that is due for the running core, or the turn of the next one. -/
def State.eventOr (s : State) (fs : List (State → Out)) : Out := (s.firstEvent fs).getD (.next s.turnOver)

/-- A core whose timed parts run: its context is not stopped and has begun. -/
def Core.clocked (c : Core) : Bool := c.ctx != .frozen && c.ctx != .starting

/-- A state as an outcome. -/
def State.goesOn (s : State) : Out := .next s

/-! ## From outside (R348-R350, R366-R379, R405, R426-R430) -/

/-- Steps of the table whose cause lies outside the package, or in a decision of firmware that the spec leaves free. -/
def isInput : Instr → Bool
  | .tasks .. | .replay .. | .queueCreate .. | .queueDestroy .. | .arm .. | .disarm .. | .fire .. | .graphDefine .. | .patch ..
  | .collectiveGroupCreate .. | .partitionCreate .. | .partitionTeardown .. | .preemptionRequest .. | .contextRestore ..
  | .uncorrectableErrorReport .. | .pageMove .. | .lenderReclaim .. | .grantOpen .. | .grantClose .. | .reclaimCompletion ..
  | .jubileeSweep .. | .potChange .. | .remoteRequestArrival .. | .remoteRetransmit .. | .cumulativeAcknowledgement .. | .axtosTrainingStart ..
  | .axtosTrainingDone .. | .axtosKeysInstalled .. | .flitReceive .. | .linkRetry .. | .rekeyTimeout .. | .rekeyComplete ..
  | .spdmSession .. | .jobKeyGrant .. | .jobKeyWithdraw .. | .uetConnectionSetup .. | .ptpLock .. | .ptpSourceLoss
  | .ptpSourceRegained | .samplecfgWrite .. | .debugRequest .. | .scheduleStopArm .. | .stopResume .. | .liveDump ..
  | .firmwareImage .. | .transfer .. | .enrol .. | .thermalStop .. | .thermalResume .. | .thermalTrip .. | .powerOn ..
  | .moduleReset .. | .recovery .. | .telemetryLogDrain .. | .ringDrain .. | .xlatFaultResolution .. => true
  | _ => false

/-- A request of another package. -/
def isArrival : Instr → Bool
  | .remoteRequestArrival _ => true
  | _ => false

/-- What F4 hears of a switch and does to its keys: it counts from after the dequeue of its cycle (R375). -/
def ofSwitch : Instr → Bool
  | .spdmSession (.switch ..) _ _ | .jobKeyGrant .. | .jobKeyWithdraw .. => true
  | _ => false

/-- A message that takes a slot of F1's mailbox (R348). -/
def toScheduler : Instr → Bool
  | .tasks .. | .replay .. | .queueCreate .. | .queueDestroy .. | .arm .. | .disarm .. | .fire .. | .graphDefine .. | .patch .. =>
    true
  | _ => false

/-- An input waits: its mailbox is full (R348), or the context it restores has a frame in TRANSITION (R382). -/
def State.inputWaits (s : State) (i : Instr) : Bool :=
  match i with
  | .contextRestore core ctx => (s.savedFor core ctx).any fun x => s.restoreWaits x.core
  | i => toScheduler i && s.mailboxFull

/-- An input of the kind given is taken; one that is no input, or is not well-formed, changes nothing. -/
def State.takeFirst (s : State) (x : Option (Nat × Instr)) : Out :=
  match x with
  | none => .next s
  | some x =>
    let s1 := { s with inputs := s.inputs.erase x }
    if isInput x.2 ∧ Instr.wf x.2 then exec x.2 s1 else .next s1

/-- The inputs whose cycle has come, oldest first. -/
def State.dueInputs (s : State) (ok : Instr → Bool) : List (Nat × Instr) := s.inputs.filter fun x => decide (x.1 ≤ s.now) && ok x.2

/-- The oldest input that is no request of another package and nothing of a switch. -/
def State.takeInput (s : State) : Out :=
  s.takeFirst (s.dueInputs fun i => !isArrival i && !ofSwitch i && !s.inputWaits i).head?

/-- What F4 hears of a switch. -/
def State.takeSwitch (s : State) : Out := s.takeFirst (s.dueInputs ofSwitch).head?

/-- The port of an arrival. -/
def arrivalPort : Instr → Nat
  | .remoteRequestArrival r => r.port
  | _ => 0

/-- A request of another package whose bytes are at a home slice and that a port of this package carries (R366). -/
def State.arrivesAt (s : State) (slice : Nat) : Instr → Bool
  | .remoteRequestArrival r => homeSlice r.addr == slice && s.carries r.pkg
  | _ => false

/-- The oldest request of another package at the lowest port, of those at the home slice in hand (R115). -/
def State.takeArrival (s : State) : Out :=
  s.takeFirst (leastBy (fun x => arrivalPort x.2) (s.dueInputs (s.arrivesAt s.slice)))

/-! ## Firmware of itself (R59, R337, R341, R349, R382, R390) -/

/-- The state an event leads to; none of those listed below stops. -/
def State.after (s : State) (f : State → Out) : State :=
  match f s with
  | .next t => t
  | _ => s

/-- F2 begins the release asked for first, if its entry still stands as it was (R59). -/
def State.releaseStep (s : State) : State :=
  match s.releases with
  | [] => s
  | (i, g) :: rest =>
    if (s.entry i).state = .active ∧ (s.entry i).gen.toNat = g then s.after (execJubileeSweep i) else { s with releases := rest }

/-- What firmware can do now. -/
def State.firmwareSteps (s : State) : List State :=
  let parts := s.parts.map (·.1)
  let cores := (s.cores.filter fun c => match c.waiting with
    | .svc _ none | .xlat _ _ false => true
    | _ => false).map Core.phys
  [s.watchdogStep.getD s, s.after execJournalAck, s.after execTakeover, s.acceptStep.getD s, s.releaseStep, s.moveStep.getD s, s.transferStep.getD s]
    ++ parts.map (fun p => s.after (execDispatchRound p))
    ++ (s.tasks.filter fun t => t.ending.isNone).flatMap (fun t => [s.after (execImageLoad t.id), s.after (execTlimitExpiry t.id)])
    ++ s.gangs.map (fun k => s.after (execGangWithdraw k))
    ++ cores.flatMap (fun n => [s.after (execSvcTime n), s.after (execSvcLog n), s.after (execSvcLimit n),
        s.after (execSvcUnassigned n), (s.xlatStep n).getD s])
    ++ s.almanac.flatMap (fun e => [s.after (execSweepFree e.1), s.after (execSealKeyRotation e.1)])
    ++ s.borrowed.map (fun g => (s.returnStep g).getD s)
    ++ s.potWork.map (fun w => (s.potStep w).getD s)
    ++ s.parts.map (fun x => match x.2.teardown with
        | some t => (s.teardownStep x.1 x.2 t).getD s
        | none => s)

/-- One thing of those firmware can do, of free choice, at a cycle of its own. -/
def State.firmwareStep (s : State) : Out :=
  if s.now < s.fwDue ∨ s.boot ≠ .running then .next s
  else
    let todo := s.firmwareSteps.filter fun t => !t.same s
    match todo[Config.pick s.fv % todo.length]? with
    | some t => .next { t with fwDue := t.now + 1 + Config.untimedDelay t.fv, fv := t.fv + 1 }
    | none => .next { s with fwDue := s.now + 1 }

/-- A rekey handshake that has not completed in time (R369). -/
def State.rekeyEvents (s : State) : List (State → Out) :=
  (List.range 16).flatMap fun p => ([LinkDir.tx, LinkDir.rx].filter fun d =>
    (s.ports[p]?).any fun x => (x.link d).rekeySince.isSome).map fun d => execRekeyTimeout ⟨p, d⟩

/-- The part of the cycle before the cores: gang requests that every core has satisfied, inputs, releases of the Equinox,
rekeys that time out, replies that leave, firmware. -/
def State.packagePart (s : State) : Out :=
  let gangs : List (State → Out) := s.gangs.map fun k s => .next (s.gangDone k)
  let equinox : List (State → Out) := (s.tasks.filter fun t => t.allArrived).map fun t => execEquinoxRelease t.id
  let replies : State → Out := fun s => .next (s.replyStep.getD s)
  (s.firstEvent (gangs ++ [State.takeInput] ++ equinox ++ s.rekeyEvents ++ [replies, State.firmwareStep])).getD (.next s.nextPhase)

/-! ## What memory and engines bring to an end (R68, R74, R89-R93, R114-R116, R128, R255, R306, R317, R330) -/

/-- The next event of an outstanding access. -/
def accessEvents (n : Nat) (a : Access) : List (State → Out) :=
  let lost : List (State → Out) := if a.lent then [execRemoteRequestLost n a.id] else []
  (match a.kind with
    | .load .. | .kload .. | .vload .. => [execLoadDataReturn a.id]
    | .store => if a.isToken then [execTokenStorePerformed a.id] else [execLocalStorePerformed a.id]
    | .atomic .. =>
      if a.isToken then [execAtomicApply a.id, execAtomicResultReturn a.id]
      else [execLocalAtomicApply a.id, execAtomicResultReturn a.id]
    | .waita .. => [execWaitaRegister a.id]) ++ lost

/-- The next event of a sweep's invalidate at a core (R59, R60). -/
def sweepEvents (n : Nat) (x : Nat × Nat × Nat) : List (State → Out) :=
  [execTokenInvalidate n x.1, execSweepAck n x.1, execSweepAbort n x.1]

/-- The end of a started command of an engine. -/
def commandEnds (task : Nat) (m : Cmd) : List (State → Out) :=
  match m.launch.kind with
  | .mma .. => [execMatrixComplete m.id]
  | .mwb .. => [fun s => .next (if mwbDue m s.now then s.mod fun c => c.mwbStep m s.now else s), execMwbComplete m.id]
  | .coll _ _ _ g _ _ _ => [execCollectiveComplete task g]
  | .copy .. | .gather .. | .scatter .. | .wbfill .. => [execCopyComplete m.id]
  | .lrst | .ldly .. | .lwin _ | .llaunch .. | .lcapV _ | .lcapO .. => [execLanternComplete m.id]

/-- The next step of an access at its bank: the running core's own, by either alias (R23). -/
def Core.ownStep (c : Core) (next : Nat) : Space → Bool
  | .own => true
  | .csm k => csmCore k next == c.phys
  | _ => false

/-- A reader through the CSM window. -/
def Access.readsCsm (a : Access) : Bool :=
  a.isLoad && (match a.space with
    | .csm _ => true
    | _ => false)

/-- A write or an atomic to the core's own banks. -/
def State.writesOwn (s : State) (a : Access) : Bool := !a.isLoad && a.stage == .waiting && s.core.ownStep (s.stepAt a) a.space

/-- The home slice of the next step of an access in a die; what has none goes with the first. -/
def State.sliceAt (s : State) (a : Access) : Nat :=
  match a.space, a.stage with
  | .main, .applied .. => homeSlice a.place.1
  | .main, _ => if a.isLoad ∨ a.isStore ∨ a.point s.core.phys ≠ .msc then homeSlice (s.stepAt a) else 0
  | _, _ => 0

/-- Whether a ready write of a copy command is performed now: of free choice, cycle by cycle. -/
def Core.writesNow (c : Core) (m : Cmd) (now : Nat) : Bool :=
  Config.writeNow now (c.phys * 2 ^ 32 + m.id) m.buf.length

/-- Where the next write of a copy command goes. -/
def State.flushAt (s : State) (m : Cmd) : Space × Nat :=
  s.placeAddr m.launch.kind.places.2 ((s.nextWrite m).headD (0, 0)).1

/-- Writes of the copy engine to the core's own banks, by the CSM window, or to others. -/
def State.flushesOwn (s : State) (m : Cmd) : Bool := s.core.ownStep (s.flushAt m).2 (s.flushAt m).1

/-- The home slice of the next write of a copy command. -/
def State.flushSlice (s : State) (m : Cmd) : Nat :=
  match s.flushAt m with
  | (.main, a) => homeSlice a
  | _ => 0

/-- The next write of a copy command: held at its bank, or performed. -/
def State.flushEvents (s : State) (m : Cmd) : List (State → Out) :=
  [fun s => .next (s.copyHold m)] ++ (if s.copyFlushDue m && s.core.writesNow m s.now then [fun s => s.copyFlush m] else [])

/-- The rows a Lantern capture writes and the loading of the delay matrix on this cycle. -/
def Core.lanternWrites (c : Core) (now : Nat) : List (State → Out) :=
  (c.lantern.running.filter fun m => lanternDue m now && !(lanternReads m.launch.kind && (lanternRow m).isSome)).map fun m s =>
    .next (s.mod fun c => c.lanternStep m s.now)

/-- What the running core's strand brings to an end at its own banks on this cycle: exposures, which a stopped core makes none of,
and writes that were issued, which complete (R23, R405). -/
def State.strandWrites (s : State) : List (State → Out) :=
  let c := s.core
  (if c.clocked && (c.timed.any fun w => w.due s.now) then [execWriteExposure] else [])
    ++ (c.acc.filter fun a => decide (a.due ≤ s.now) && s.writesOwn a).flatMap (accessEvents c.phys)

/-- What the running core's engines bring to an end on this cycle. -/
def State.engineEnds (s : State) : List (State → Out) :=
  let c := s.core
  let scatters : List (State → Out) := (c.copy.running.filter fun m => scatterLocks m s.now).map fun m s =>
    .next (s.mod fun c => c.scatterLock m)
  if c.clocked then
    c.matrix.running.flatMap (commandEnds c.task) ++ scatters ++ c.copy.running.flatMap (commandEnds c.task)
      ++ (c.copy.running.filter fun m => s.flushesOwn m).flatMap s.flushEvents
      ++ c.lanternWrites s.now ++ c.lantern.running.flatMap (commandEnds c.task) ++ [execWatchInstalled, execContextSave]
  else []

/-- What the running core's own writes and engines bring to an end on this cycle: the strands of all cores first, since a
collective that ends writes at the banks of every member (R23). -/
def State.ownPart (s : State) : Out := s.eventOr (if s.slice = 0 then s.strandWrites else s.engineEnds)

/-- Where the next byte of a copy command's source is read, if it is not read by the core's own map or as an index. -/
def State.nextSource (s : State) (m : Cmd) : Option (Space × Nat) :=
  if s.core.timedSource m.launch.kind || (indexRow m).isSome then none
  else (s.core.srcAt m (s.membersOf m.launch.kind) m.pos).map (s.placeAddr m.launch.kind.places.1)

/-- The reads of the copy engine that are due, of those whose next source is as asked for. -/
def State.copyReads (s : State) (at' : Option (Space × Nat) → Bool) : List (State → Out) :=
  (s.core.copy.running.filter fun m => s.copyReadDue m && at' (s.nextSource m)).map fun m s => s.copyRead m

/-- A source byte of this package's main memory is read at its home slice. -/
def ofSlice (slice : Nat) : Option (Space × Nat) → Bool
  | some (.main, a) => homeSlice a == slice
  | _ => false

/-- A source byte is read through the CSM window. -/
def ofWindow : Option (Space × Nat) → Bool
  | some (.csm _, _) => true
  | _ => false

/-- A source byte is read neither at a home slice nor through the CSM window. -/
def ofNeither : Option (Space × Nat) → Bool
  | some (.main, _) | some (.csm _, _) => false
  | _ => true

/-- The accesses of the running core whose next step is at the home slice in hand, and its engines' reads and writes there
(R115); with the first slice what has none. -/
def State.accessPart (s : State) : Out :=
  let c := s.core
  let accesses := (c.acc.filter fun a => (decide (a.due ≤ s.now) || a.lent) && !a.readsCsm && !s.writesOwn a && s.sliceAt a == s.slice).flatMap
    (accessEvents c.phys)
  let writes : List (State → Out) :=
    if c.clocked then
      s.copyReads (ofSlice s.slice) ++ (c.copy.running.filter fun m => !s.flushesOwn m && s.flushSlice m == s.slice).flatMap s.flushEvents
    else []
  let rest : List (State → Out) := if s.slice = 0 then execTfcMissFill :: c.sweeps.flatMap (sweepEvents c.phys) else []
  s.eventOr (accesses ++ writes ++ rest)

/-- The home slice of an exported store. -/
def Export.slice (e : Export) : Nat := (e.cells.head?.map fun x => homeSlice x.1).getD 0

/-- Stores of other dies, then requests of other packages, at the home slice in hand (R101, R115). -/
def State.inboundPart (s : State) : Out :=
  let applies : List (State → Out) := (List.range 4).flatMap fun d =>
    ((s.die d).inbox.filter fun e => s.canApply d e && e.slice == s.slice).map fun e => execExportedStoreApply e.src d
  (s.firstEvent (applies ++ [State.takeArrival])).getD (.next s.nextPhase)

/-! ## Engine words and launches (R204, R294, R297, R306) -/

/-- The engine has a word it can take on this cycle: it is not halted, no launch is held at its head. -/
def Engine.canTake (g : Engine) (now : Nat) : Bool :=
  g.report.isNone && g.held.isNone && decide (g.dequeued ≤ now)
    && (!g.hand.isEmpty || (match g.queue with
      | p :: _ => decide (p.ready ≤ now) && !p.items.isEmpty
      | [] => false))

/-- The engine with the words of its next packet in hand. -/
def Engine.openPacket (g : Engine) : Engine :=
  match g.hand, g.queue with
  | [], p :: ps => { g with hand := p.items, queue := ps }
  | _, _ => g

/-- The word at the head of an engine's hand. -/
def Engine.word (g : Engine) : BitVec 16 := (g.hand.head?.map EItem.word).getD 0

/-- The engine whose turn it is, with its packet opened. -/
def State.withPacket (s : State) : State := s.mod fun c => c.modEng s.turnEng Engine.openPacket

/-- The engine whose turn it is takes its next word. -/
def State.takeWord (s : State) : Out :=
  let w := (s.withPacket.core.eng s.turnEng).word
  match decodeEngineWord w with
  | .ok i => exec i s.withPacket
  | .error _ => execReservedEngineWord w s.withPacket

/-- The engines of the running core take their words, one each. -/
def State.dequeuePart (s : State) : Out :=
  if s.core.clocked ∧ (s.core.eng s.turnEng).canTake s.now then s.takeWord
  else match s.turnEng with
    | .matrix => .next { s with turnEng := .copy }
    | .copy => .next { s with turnEng := .lantern }
    | .lantern => .next s.turnOver

/-- The chunk of a matrix launch that is read on this cycle. -/
def chunkDue (m : Cmd) (now : Nat) : Bool :=
  match m.launch.kind with
  | .mma _ _ _ k _ _ w _ => decide (m.due ≤ now) && decide (m.pos < chunkCount w k)
  | _ => false

/-- The chunks that are read on this cycle. -/
def State.chunkReads (s : State) : List (State → Out) :=
  (s.core.matrix.running.filter fun m => chunkDue m s.now).map fun m s => .next (s.mod fun c => c.chunk m s.now)

/-- The engines in the order in which their starts are tested. -/
def startOrder : List EngineId := [.copy, .matrix, .lantern]

/-- A stamped launch that is held would miss by its TAG test now. -/
def State.tagMissed (s : State) (e : EngineId) : Bool :=
  (s.core.eng e).held.any fun h => s.core.startTest e h (s.membersOf h.kind) s.now == .miss 4

/-- Held launches start or miss, a TAG miss apart: a tag may still be set on this cycle (R297). -/
def startEvents : List (State → Out) :=
  startOrder.map fun e s => if s.tagMissed e then .next s else execEngineLaunchStart e s

/-- TAG misses, once every tag of this cycle is set. -/
def missEvents : List (State → Out) := startOrder.map execEngineLaunchStart

/-- The matrix engine reads its chunks, held launches start or miss. Under PENDENG a read of this cycle may still set a tag,
and a TAG miss waits for the reads. -/
def State.startPart (s : State) : Out :=
  if ¬s.core.clocked then .next s.turnOver
  else s.eventOr (s.chunkReads ++ startEvents ++ s.core.lanternWrites s.now ++ (if s.core.pendEng then [] else missEvents))

/-! ## The strand (R139, R209, R211, R354) -/

/-- The instruction word at pc, as a timed read of this cycle. -/
def Core.fetchWord (c : Core) (now : Nat) : BitVec 32 := BitVec.ofNat 32 (bytesToNat (c.scrRead now c.pc.toNat 4))

/-- The instruction word at pc in a row that was read for the fetch (R212). -/
def Core.rowWord (c : Core) (x : FetchRow) : BitVec 32 :=
  BitVec.ofNat 32 (bytesToNat ((x.bytes.drop (c.pc.toNat - x.addr)).take 4))

/-- A read port that [a, a + n) of the own scratchpad needs is taken on this cycle (R67). -/
def Core.portLost (c : Core) (now a n : Nat) : Bool := c.matrixReads now a n || c.bankTaken now a n

/-- A row asked for is read on this cycle, or loses its slot and is asked for again (R67, R212). The row serves the fetch until
it is read again: R212 does not say for how long (DESIGN CHOICE, log entry 58). A lock holds the strand's own reads and no others
(R74): R212 does not say whether a row read of the fetch is one, and the model lets it read a locked row (DESIGN CHOICE, log entry
75). -/
def Core.makeRowRead (c : Core) (now : Nat) (x : RowRead) : Core :=
  if now < x.next then { c with rowReads := c.rowReads ++ [x] }
  else if c.portLost now x.addr 64 then { c with rowReads := c.rowReads ++ [RowRead.mk x.addr (now + 1) (x.lost + 1)] }
  else
    let c1 := { c with rows := c.rows.filter (fun (y : FetchRow) => y.addr ≠ x.addr) ++ [FetchRow.mk x.addr (c.scrRead now x.addr 64) now x.lost] }
    c1.takePort now x.addr 64

/-- The row reads that are asked for. -/
def Core.makeRowReads (c : Core) (now : Nat) : Core :=
  c.rowReads.foldl (fun c x => c.makeRowRead now x) { c with rowReads := [] }

/-- After a taken transfer that a `fence.co` precedes, the row at pc is not one read before the fence (R212). -/
def Core.afterJump (c : Core) : Core :=
  if c.jumped then
    { c with jumped := false, rows := c.rows.filter fun x => !(x.addr == lineOf c.pc.toNat && decide (x.at' < c.coFence)) }
  else c

/-- The instruction at pc is fetched; from the middle of a row on the next one is asked for, 8 cycles ahead (R212). -/
def Core.fetched (c : Core) (now : Nat) : Core :=
  let r := lineOf c.pc.toNat
  let c1 := { c with lastRow := some r }
  if c.pc.toNat % 64 = 32 ∨ 32 < c.pc.toNat % 64 ∧ c.lastRow ≠ some r then c1.askRow (r + 64) now else c1

/-- Decode a fetched word and issue the instruction, or take ILLEGAL (R200, R211). -/
def State.issue (s : State) (w : BitVec 32) : Out :=
  match decodeWord w with
  | .ok i => exec i (s.mod fun c => { c.fetched s.now with cur := some i })
  | .error _ => execReservedEncoding w s

/-- The strand waits for a row that is asked for: a cycle it stalls is one of those that lost slots delay (R212). -/
def Core.awaitRow (c : Core) (r : Nat) : Core :=
  { c with rowReads := c.rowReads.map fun x => if x.addr = r then { x with lost := x.lost - 1 } else x }

/-- A row that is there lost slots: its first instruction is delayed by as many cycles (R212). -/
def Core.payRow (c : Core) (x : FetchRow) (now : Nat) : Core :=
  { c with
    rows := c.rows.map fun y => if y.addr = x.addr then { y with lost := 0 } else y
    nextIssue := now + x.lost }

/-- Fetch, decode and issue the instruction at pc (R211): from its row where that was read, which fixes the bytes, else by a row
read of this cycle. -/
def State.fetch (s : State) : Out :=
  if 0x300000 ≤ s.core.pc.toNat then .next (s.takeTrap 2 (s.core.pc.setWidth 64) s.core.pc)
  else
    let s1 := s.mod Core.afterJump
    let r := lineOf s.core.pc.toNat
    if s1.core.rowReads.any fun x => x.addr == r then .next (State.stallFor (s1.mod fun c => c.awaitRow r) 5)
    else match s1.core.rows.find? fun x => x.addr == r with
      | some x => if x.lost = 0 then s1.issue (s1.core.rowWord x) else .next (State.stallFor (s1.mod fun c => c.payRow x s.now) 5)
      | none =>
        if s1.core.portLost s.now r 64 then .next (s1.stallFor 5)
        else State.issue (s1.mod fun c => c.makeRowRead s.now ⟨r, s.now, 0⟩) (s.core.fetchWord s.now)

/-- The strand's instruction on this cycle: a deferred report is delivered, or the instruction at issue goes on, or the next one
is fetched; before its earliest issue cycle it waits. -/
def State.issuePart (s : State) : Out :=
  let c := s.core
  if c.acted then .next s.turnOver
  else if s.now < c.nextIssue then
    .next (s.mod fun c => { c with acted := true, stall := if c.stall = 0 then 5 else c.stall })
  else if (c.nextReport s.now).isSome then execDeferredReportDelivery s
  else match c.cur with
    | some i => exec i s
    | none => s.fetch

/-- The strand on this cycle: reads that its loads still have to make, row reads of its fetch, then its instruction. -/
def State.strandPart (s : State) : Out :=
  let c := s.core
  if c.ctx ≠ .running then .next s.turnOver
  else if c.lateLost s.now then .next (s.mod fun c => c.lateWait s.now)
  else match c.late.find? fun x => x.due s.now with
    | some x => .next (s.makeLate x)
    | none =>
      if c.rowReads.any (fun x => decide (x.next ≤ s.now)) then .next (s.mod fun c => c.makeRowReads s.now)
      else s.issuePart

/-! ## The engines' reads, and readers through the CSM window (R67, R144, R317, R329) -/

/-- Held arrivals of the core at objects whose phase has completed (R144). -/
def State.heldArrivals (s : State) : List (State → Out) :=
  let k := clusterOf s.core.phys
  let q := posOf s.core.phys
  ((List.range 32).filter fun i => (s.cluster k).bars.toArray.getD i (Barrier.initial 0) |>.canApply q).map fun i =>
    execBarHeldArrival k (BitVec.ofNat 5 i) (BitVec.ofNat 3 q)

/-- What the engines read after the strand, what they start on tags set meanwhile with the rows a capture then writes, held
arrivals, and waits that time out. -/
def State.enginePart (s : State) : Out :=
  let c := s.core
  let engines : List (State → Out) :=
    if c.clocked then
      s.copyReads ofNeither ++ ((c.lantern.running.filter fun m => lanternDue m s.now && lanternReads m.launch.kind).map fun m s =>
        .next (s.mod fun c => c.lanternStep m s.now)) ++ s.chunkReads ++ startEvents ++ missEvents ++ c.lanternWrites s.now
        ++ [execWaitaTimeout]
    else []
  s.eventOr (engines ++ s.heldArrivals)

/-- Readers through the CSM window, and strands that wait for a read outside their own scratchpad, in the order of their cores
(R67). -/
def State.windowPart (s : State) : Out :=
  let loads := (s.core.acc.filter fun a => decide (a.due ≤ s.now) && a.readsCsm).flatMap (accessEvents s.core.phys)
  s.eventOr (loads ++ State.windowRead :: if s.core.clocked then s.copyReads ofWindow else [])

/-! ## The next cycle (R139, R144, R393, R401, R405) -/

/-- What a core's context is on the cycle that begins: its first instruction can issue from its cycle on. -/
def Core.begins (c : Core) (now : Nat) : Bool := c.ctx == .starting && decide (c.nextIssue ≤ now)

/-- The FMTSTAT bits that vector instructions set on a cycle (R181). -/
def Core.fmtDue (c : Core) (now : Nat) : BitVec 5 :=
  if c.ctx = .frozen then 0 else (c.fmtLate.filter fun x => decide (x.1 ≤ now)).foldl (fun m x => m ||| x.2) 0

/-- What is kept by cycle loses its past; a stopped core's stands (R406). -/
def Core.keep {α : Type} (c : Core) (xs : List α) (old : α → Bool) : List α := if c.ctx = .frozen then xs else xs.filter fun x => !old x

/-- A core at the start of a cycle: CALENDAR counts, bits that come due are set, what belonged to the last cycle is
forgotten. -/
def Core.newCycle (c : Core) (now : Nat) : Core :=
  let ctx := if c.begins now then Ctx.running else c.ctx
  Core.watchesCome (now := now) { c with
    ctx := ctx
    calendar := if c.ctx = .running then c.calendar + 1 else c.calendar
    acted := false
    doneNow := []
    fmtstat := c.fmtstat ||| c.fmtDue now
    fmtNow := c.fmtDue now
    fmtLate := c.keep c.fmtLate fun x => decide (x.1 ≤ now)
    statusNow := 0
    headPc := c.pc
    headSlot := c.slots.isSome
    headRun := ctx == .running
    headInh := c.inh
    events := (if now < c.matrix.freeAt then [5] else []) ++ (if c.inh then [0xF0] else [])
    bankReads := c.keep c.bankReads fun x => decide (x.1 < now)
    bankWrites := c.keep c.bankWrites fun x => decide (x.1 < now)
    ready := c.keep c.ready fun x => decide (x.2 + x.1.span ≤ now) }

/-- The cluster's barrier objects at the end of a cycle (R144). -/
def Cluster.complete (k : Cluster) : Cluster := { k with bars := k.bars.map Barrier.complete }

/-- The tasks of a state, those whose first instruction can issue from a cycle on with their time running since then (R337). -/
def State.startClocks (s : State) (now time : Nat) : List Task :=
  s.tasks.map fun t =>
    if t.startedAt.isNone && s.cores.any (fun c => c.task == t.id && c.begins now) then { t with startedAt := some time } else t

/-- Cores in increasing number. -/
def State.inOrder (s : State) : State :=
  match s.sorted with
  | c :: cs => { s with core := c, others := cs }
  | [] => s

/-- Samples are taken, counters count, barriers are tested and their waiters told, and the next cycle begins. -/
def State.tick (s : State) : State :=
  let s1 := s.inOrder
  let s2 := (s1.cores.foldl (fun st c => st.sample c) s1).modAll Core.countCycle
  let s3 := { s2 with clusters := s2.clusters.map fun (k : Nat × Cluster) => (k.1, k.2.complete) }
  let s4 := s3.cores.foldl (fun st c => st.tellWait c) s3
  let s5 := State.slew { s4.modAll (fun c => c.newCycle (s.now + 1)) with
    now := s.now + 1, slice := 0, phase := 0, left := 0, turnEng := .matrix
    dies := s4.dies.map fun d => { d with rowUse := [] } }
  State.stopCores { s5 with tasks := s4.startClocks (s.now + 1) s5.time }

/-! ## A step -/

/-- The next event of the cycle in hand. -/
def State.cycle (s : State) : Out :=
  match s.phase with
  | 0 => s.packagePart
  | 1 => s.ownPart
  | 2 => s.accessPart
  | 3 => s.inboundPart
  | 4 => s.dequeuePart
  | 5 => s.startPart
  | 6 => s.strandPart
  | 7 => s.enginePart
  | 8 => s.windowPart
  | _ => (s.firstEvent [State.takeSwitch]).getD (.next s.tick)

/-! ## An instruction placed where the next step fetches -/

/-- The engine that a word is for; a word that only handles parameters is given to the matrix engine. -/
def ownerOf (i : Instr) : EngineId :=
  match i with
  | .copy1d | .copyNd _ | .gather _ | .scatter _ | .wbfill | .collAr .. | .collRs .. | .collAg _ => .copy
  | .lrst | .ldly | .lwin | .llaunchMin | .llaunchMax | .lcapV | .lcapO _ => .lantern
  | _ => .matrix

/-- The engine a 16-bit word is placed at. -/
def wordEngine (w : BitVec 16) : EngineId :=
  match decodeEngineWord w with
  | .ok i => ownerOf i
  | .error _ => .matrix

/-- The core's context runs and nothing stands before its next instruction: no report, no wait, no instruction at issue. -/
def Core.clearIssue (c : Core) (now : Nat) : Core :=
  let quiet (g : Engine) : Engine := { g with report := none }
  { c with
    ctx := .running, rows := [], rowReads := [], late := [], bankReads := [], bankWrites := [], acted := false, cur := none
    waiting := .none, nextIssue := min c.nextIssue now, watchNow := none, watchQ := [], watchFly := [], engPoison := [], redOwed := [], redHeld := []
    matrix := quiet c.matrix, copy := quiet c.copy, lantern := quiet c.lantern }

/-- The instruction word stands at pc, which lies in the scratchpad, and no write on its way covers it. -/
def Core.placeWord (c : Core) (w : BitVec 32) : Core :=
  let pc : BitVec 32 := if c.pc.toNat < 0x300000 then c.pc &&& ~~~3 else 0
  { c with
    pc := pc
    scr := memWrite c.scr pc.toNat (natToBytes 4 w.toNat)
    timed := c.timed.filter fun x => !(!x.lane && x.cells.any fun y => decide (pc.toNat ≤ y.1) && decide (y.1 < pc.toNat + 4)) }

/-- The word is the next one that the engine takes. -/
def Core.placeEngineWord (c : Core) (w : BitVec 16) (now : Nat) : Core :=
  c.modEng (wordEngine w) fun g =>
    { g with hand := [c.item w], held := none, report := none, dequeued := min g.dequeued now }

/-- An instruction of 16 bits stands at its engine, one of 32 bits at pc, and it is the turn of its part of the cycle. -/
def State.place (s : State) (nbits w : Nat) : State :=
  if nbits ≤ 16 then
    { s with core := { s.core with ctx := .running }.placeEngineWord (BitVec.ofNat 16 w) s.now
             phase := 4, left := 1, turnEng := wordEngine (BitVec.ofNat 16 w) }
  else { s with core := (s.core.clearIssue s.now).placeWord (BitVec.ofNat 32 w), phase := 6, left := 1 }

end Sys2Proof.Machine
end

