-- ==== Sys2Proof/Machine/Step.lean ====
section
/-! DEFINITION. One step of the machine. -/

namespace Sys2Proof.Machine

/-- One event of the cycle in hand. -/
def step (s : State) : Host.Outcome State Fault Refusal := s.cycle

/-- The instruction whose bits are w stands where the next step takes it: a strand word of 32 bits at pc, an engine word
of 16 bits at the head of its engine. -/
def State.withFetchWord (s : State) (nbits w : Nat) : State := s.place nbits w

end Sys2Proof.Machine
end

