-- ==== Sys2Proof/Laws/Encoding.lean ====
section
/-! SUPPORT. Fields of the encodings: each field of a format is read back from a word of that format (09 R186, R187,
R202), for the round trips. -/

namespace Sys2Proof

theorem slice_low {n k : Nat} (x : BitVec n) (y : BitVec k) : (x ++ y).extractLsb' 0 k = y := by
  apply BitVec.eq_of_getLsbD_eq; intro i hi
  simp [BitVec.getLsbD_append, hi]

theorem slice_peel {n k l t : Nat} (x : BitVec n) (y : BitVec k) (s : Nat) (h : t = k + s) :
    (x ++ y).extractLsb' t l = x.extractLsb' s l := by
  subst h
  apply BitVec.eq_of_getLsbD_eq; intro i hi
  simp [BitVec.getLsbD_append, hi, show ¬ (k + s + i < k) by omega, show k + s + i - k = s + i by omega]

theorem slice_within {n k : Nat} (x : BitVec n) (y : BitVec k) (s l : Nat) (h : s + l ≤ k) :
    (x ++ y).extractLsb' s l = y.extractLsb' s l := by
  apply BitVec.eq_of_getLsbD_eq; intro i hi
  simp [BitVec.getLsbD_append, show s + i < k by omega]

theorem slice_low2 {n k m : Nat} (x : BitVec n) (y : BitVec k) (z : BitVec m) :
    (x ++ y ++ z).extractLsb' 0 (k + m) = y ++ z := by
  apply BitVec.eq_of_getLsbD_eq; intro i hi
  rw [BitVec.getLsbD_extractLsb']
  simp only [BitVec.getLsbD_append, hi, decide_true, Bool.true_and, Nat.zero_add]
  split
  · rfl
  · simp only [show i - m < k by omega, if_true]

theorem slice_low3 {n k m p : Nat} (x : BitVec n) (y : BitVec k) (z : BitVec m) (u : BitVec p) :
    (x ++ y ++ z ++ u).extractLsb' 0 (k + (m + p)) = y ++ (z ++ u) := by
  apply BitVec.eq_of_getLsbD_eq; intro i hi
  rw [BitVec.getLsbD_extractLsb']
  simp only [BitVec.getLsbD_append, hi, decide_true, Bool.true_and, Nat.zero_add]
  by_cases h : i < p
  · simp [h, show i < m + p by omega]
  · by_cases h2 : i - p < m
    · simp [h, h2, show i < m + p by omega]
    · simp [h, h2, show ¬ i < m + p by omega, show i - p - m = i - (m + p) by omega]
      intro; omega

@[simp] theorem encR_major (minor : BitVec 5) (x : BitVec 5) (b : BitVec 5) (a : BitVec 5) (d : BitVec 5) (major : BitVec 7) :
    (encR minor x b a d major).extractLsb' 0 7 = major := (slice_low (minor ++ x ++ b ++ a ++ d) major)
@[simp] theorem encR_d (minor : BitVec 5) (x : BitVec 5) (b : BitVec 5) (a : BitVec 5) (d : BitVec 5) (major : BitVec 7) :
    (encR minor x b a d major).extractLsb' 7 5 = d := ((slice_peel (l := 5) (t := 7) (minor ++ x ++ b ++ a ++ d) major 0 rfl).trans (slice_low (minor ++ x ++ b ++ a) d))
@[simp] theorem encR_a (minor : BitVec 5) (x : BitVec 5) (b : BitVec 5) (a : BitVec 5) (d : BitVec 5) (major : BitVec 7) :
    (encR minor x b a d major).extractLsb' 12 5 = a := ((slice_peel (l := 5) (t := 12) (minor ++ x ++ b ++ a ++ d) major 5 rfl).trans ((slice_peel (l := 5) (t := 5) (minor ++ x ++ b ++ a) d 0 rfl).trans (slice_low (minor ++ x ++ b) a)))
@[simp] theorem encR_b (minor : BitVec 5) (x : BitVec 5) (b : BitVec 5) (a : BitVec 5) (d : BitVec 5) (major : BitVec 7) :
    (encR minor x b a d major).extractLsb' 17 5 = b := ((slice_peel (l := 5) (t := 17) (minor ++ x ++ b ++ a ++ d) major 10 rfl).trans ((slice_peel (l := 5) (t := 10) (minor ++ x ++ b ++ a) d 5 rfl).trans ((slice_peel (l := 5) (t := 5) (minor ++ x ++ b) a 0 rfl).trans (slice_low (minor ++ x) b))))
@[simp] theorem encR_x (minor : BitVec 5) (x : BitVec 5) (b : BitVec 5) (a : BitVec 5) (d : BitVec 5) (major : BitVec 7) :
    (encR minor x b a d major).extractLsb' 22 5 = x := ((slice_peel (l := 5) (t := 22) (minor ++ x ++ b ++ a ++ d) major 15 rfl).trans ((slice_peel (l := 5) (t := 15) (minor ++ x ++ b ++ a) d 10 rfl).trans ((slice_peel (l := 5) (t := 10) (minor ++ x ++ b) a 5 rfl).trans ((slice_peel (l := 5) (t := 5) (minor ++ x) b 0 rfl).trans (slice_low (minor) x)))))
@[simp] theorem encR_minor (minor : BitVec 5) (x : BitVec 5) (b : BitVec 5) (a : BitVec 5) (d : BitVec 5) (major : BitVec 7) :
    (encR minor x b a d major).extractLsb' 27 5 = minor := ((slice_peel (l := 5) (t := 27) (minor ++ x ++ b ++ a ++ d) major 20 rfl).trans ((slice_peel (l := 5) (t := 20) (minor ++ x ++ b ++ a) d 15 rfl).trans ((slice_peel (l := 5) (t := 15) (minor ++ x ++ b) a 10 rfl).trans ((slice_peel (l := 5) (t := 10) (minor ++ x) b 5 rfl).trans ((slice_peel (l := 5) (t := 5) (minor) x 0 rfl).trans (BitVec.extractLsb'_eq_self))))))
@[simp] theorem encI_major (imm : BitVec 12) (f3 : BitVec 3) (a : BitVec 5) (d : BitVec 5) (major : BitVec 7) :
    (encI imm f3 a d major).extractLsb' 0 7 = major := (slice_low (imm ++ f3 ++ a ++ d) major)
@[simp] theorem encI_d (imm : BitVec 12) (f3 : BitVec 3) (a : BitVec 5) (d : BitVec 5) (major : BitVec 7) :
    (encI imm f3 a d major).extractLsb' 7 5 = d := ((slice_peel (l := 5) (t := 7) (imm ++ f3 ++ a ++ d) major 0 rfl).trans (slice_low (imm ++ f3 ++ a) d))
@[simp] theorem encI_a (imm : BitVec 12) (f3 : BitVec 3) (a : BitVec 5) (d : BitVec 5) (major : BitVec 7) :
    (encI imm f3 a d major).extractLsb' 12 5 = a := ((slice_peel (l := 5) (t := 12) (imm ++ f3 ++ a ++ d) major 5 rfl).trans ((slice_peel (l := 5) (t := 5) (imm ++ f3 ++ a) d 0 rfl).trans (slice_low (imm ++ f3) a)))
@[simp] theorem encI_f3 (imm : BitVec 12) (f3 : BitVec 3) (a : BitVec 5) (d : BitVec 5) (major : BitVec 7) :
    (encI imm f3 a d major).extractLsb' 17 3 = f3 := ((slice_peel (l := 3) (t := 17) (imm ++ f3 ++ a ++ d) major 10 rfl).trans ((slice_peel (l := 3) (t := 10) (imm ++ f3 ++ a) d 5 rfl).trans ((slice_peel (l := 3) (t := 5) (imm ++ f3) a 0 rfl).trans (slice_low (imm) f3))))
@[simp] theorem encI_imm (imm : BitVec 12) (f3 : BitVec 3) (a : BitVec 5) (d : BitVec 5) (major : BitVec 7) :
    (encI imm f3 a d major).extractLsb' 20 12 = imm := ((slice_peel (l := 12) (t := 20) (imm ++ f3 ++ a ++ d) major 13 rfl).trans ((slice_peel (l := 12) (t := 13) (imm ++ f3 ++ a) d 8 rfl).trans ((slice_peel (l := 12) (t := 8) (imm ++ f3) a 3 rfl).trans ((slice_peel (l := 12) (t := 3) (imm) f3 0 rfl).trans (BitVec.extractLsb'_eq_self)))))
@[simp] theorem encF_major (f4 : BitVec 4) (sh : BitVec 6) (b : BitVec 5) (a : BitVec 5) (d : BitVec 5) (major : BitVec 7) :
    (encF f4 sh b a d major).extractLsb' 0 7 = major := (slice_low (f4 ++ sh ++ b ++ a ++ d) major)
@[simp] theorem encF_d (f4 : BitVec 4) (sh : BitVec 6) (b : BitVec 5) (a : BitVec 5) (d : BitVec 5) (major : BitVec 7) :
    (encF f4 sh b a d major).extractLsb' 7 5 = d := ((slice_peel (l := 5) (t := 7) (f4 ++ sh ++ b ++ a ++ d) major 0 rfl).trans (slice_low (f4 ++ sh ++ b ++ a) d))
@[simp] theorem encF_a (f4 : BitVec 4) (sh : BitVec 6) (b : BitVec 5) (a : BitVec 5) (d : BitVec 5) (major : BitVec 7) :
    (encF f4 sh b a d major).extractLsb' 12 5 = a := ((slice_peel (l := 5) (t := 12) (f4 ++ sh ++ b ++ a ++ d) major 5 rfl).trans ((slice_peel (l := 5) (t := 5) (f4 ++ sh ++ b ++ a) d 0 rfl).trans (slice_low (f4 ++ sh ++ b) a)))
@[simp] theorem encF_b (f4 : BitVec 4) (sh : BitVec 6) (b : BitVec 5) (a : BitVec 5) (d : BitVec 5) (major : BitVec 7) :
    (encF f4 sh b a d major).extractLsb' 17 5 = b := ((slice_peel (l := 5) (t := 17) (f4 ++ sh ++ b ++ a ++ d) major 10 rfl).trans ((slice_peel (l := 5) (t := 10) (f4 ++ sh ++ b ++ a) d 5 rfl).trans ((slice_peel (l := 5) (t := 5) (f4 ++ sh ++ b) a 0 rfl).trans (slice_low (f4 ++ sh) b))))
@[simp] theorem encF_sh (f4 : BitVec 4) (sh : BitVec 6) (b : BitVec 5) (a : BitVec 5) (d : BitVec 5) (major : BitVec 7) :
    (encF f4 sh b a d major).extractLsb' 22 6 = sh := ((slice_peel (l := 6) (t := 22) (f4 ++ sh ++ b ++ a ++ d) major 15 rfl).trans ((slice_peel (l := 6) (t := 15) (f4 ++ sh ++ b ++ a) d 10 rfl).trans ((slice_peel (l := 6) (t := 10) (f4 ++ sh ++ b) a 5 rfl).trans ((slice_peel (l := 6) (t := 5) (f4 ++ sh) b 0 rfl).trans (slice_low (f4) sh)))))
@[simp] theorem encF_f4 (f4 : BitVec 4) (sh : BitVec 6) (b : BitVec 5) (a : BitVec 5) (d : BitVec 5) (major : BitVec 7) :
    (encF f4 sh b a d major).extractLsb' 28 4 = f4 := ((slice_peel (l := 4) (t := 28) (f4 ++ sh ++ b ++ a ++ d) major 21 rfl).trans ((slice_peel (l := 4) (t := 21) (f4 ++ sh ++ b ++ a) d 16 rfl).trans ((slice_peel (l := 4) (t := 16) (f4 ++ sh ++ b) a 11 rfl).trans ((slice_peel (l := 4) (t := 11) (f4 ++ sh) b 6 rfl).trans ((slice_peel (l := 4) (t := 6) (f4) sh 0 rfl).trans (BitVec.extractLsb'_eq_self))))))
@[simp] theorem encM_major (sz : BitVec 2) (sg : BitVec 1) (ord : BitVec 2) (scope : BitVec 3) (z : BitVec 2) (b : BitVec 5) (a : BitVec 5) (d : BitVec 5) (major : BitVec 7) :
    (encM sz sg ord scope z b a d major).extractLsb' 0 7 = major := (slice_low (sz ++ sg ++ ord ++ scope ++ z ++ b ++ a ++ d) major)
@[simp] theorem encM_d (sz : BitVec 2) (sg : BitVec 1) (ord : BitVec 2) (scope : BitVec 3) (z : BitVec 2) (b : BitVec 5) (a : BitVec 5) (d : BitVec 5) (major : BitVec 7) :
    (encM sz sg ord scope z b a d major).extractLsb' 7 5 = d := ((slice_peel (l := 5) (t := 7) (sz ++ sg ++ ord ++ scope ++ z ++ b ++ a ++ d) major 0 rfl).trans (slice_low (sz ++ sg ++ ord ++ scope ++ z ++ b ++ a) d))
@[simp] theorem encM_a (sz : BitVec 2) (sg : BitVec 1) (ord : BitVec 2) (scope : BitVec 3) (z : BitVec 2) (b : BitVec 5) (a : BitVec 5) (d : BitVec 5) (major : BitVec 7) :
    (encM sz sg ord scope z b a d major).extractLsb' 12 5 = a := ((slice_peel (l := 5) (t := 12) (sz ++ sg ++ ord ++ scope ++ z ++ b ++ a ++ d) major 5 rfl).trans ((slice_peel (l := 5) (t := 5) (sz ++ sg ++ ord ++ scope ++ z ++ b ++ a) d 0 rfl).trans (slice_low (sz ++ sg ++ ord ++ scope ++ z ++ b) a)))
@[simp] theorem encM_b (sz : BitVec 2) (sg : BitVec 1) (ord : BitVec 2) (scope : BitVec 3) (z : BitVec 2) (b : BitVec 5) (a : BitVec 5) (d : BitVec 5) (major : BitVec 7) :
    (encM sz sg ord scope z b a d major).extractLsb' 17 5 = b := ((slice_peel (l := 5) (t := 17) (sz ++ sg ++ ord ++ scope ++ z ++ b ++ a ++ d) major 10 rfl).trans ((slice_peel (l := 5) (t := 10) (sz ++ sg ++ ord ++ scope ++ z ++ b ++ a) d 5 rfl).trans ((slice_peel (l := 5) (t := 5) (sz ++ sg ++ ord ++ scope ++ z ++ b) a 0 rfl).trans (slice_low (sz ++ sg ++ ord ++ scope ++ z) b))))
@[simp] theorem encM_z (sz : BitVec 2) (sg : BitVec 1) (ord : BitVec 2) (scope : BitVec 3) (z : BitVec 2) (b : BitVec 5) (a : BitVec 5) (d : BitVec 5) (major : BitVec 7) :
    (encM sz sg ord scope z b a d major).extractLsb' 22 2 = z := ((slice_peel (l := 2) (t := 22) (sz ++ sg ++ ord ++ scope ++ z ++ b ++ a ++ d) major 15 rfl).trans ((slice_peel (l := 2) (t := 15) (sz ++ sg ++ ord ++ scope ++ z ++ b ++ a) d 10 rfl).trans ((slice_peel (l := 2) (t := 10) (sz ++ sg ++ ord ++ scope ++ z ++ b) a 5 rfl).trans ((slice_peel (l := 2) (t := 5) (sz ++ sg ++ ord ++ scope ++ z) b 0 rfl).trans (slice_low (sz ++ sg ++ ord ++ scope) z)))))
@[simp] theorem encM_scope (sz : BitVec 2) (sg : BitVec 1) (ord : BitVec 2) (scope : BitVec 3) (z : BitVec 2) (b : BitVec 5) (a : BitVec 5) (d : BitVec 5) (major : BitVec 7) :
    (encM sz sg ord scope z b a d major).extractLsb' 24 3 = scope := ((slice_peel (l := 3) (t := 24) (sz ++ sg ++ ord ++ scope ++ z ++ b ++ a ++ d) major 17 rfl).trans ((slice_peel (l := 3) (t := 17) (sz ++ sg ++ ord ++ scope ++ z ++ b ++ a) d 12 rfl).trans ((slice_peel (l := 3) (t := 12) (sz ++ sg ++ ord ++ scope ++ z ++ b) a 7 rfl).trans ((slice_peel (l := 3) (t := 7) (sz ++ sg ++ ord ++ scope ++ z) b 2 rfl).trans ((slice_peel (l := 3) (t := 2) (sz ++ sg ++ ord ++ scope) z 0 rfl).trans (slice_low (sz ++ sg ++ ord) scope))))))
@[simp] theorem encM_ord (sz : BitVec 2) (sg : BitVec 1) (ord : BitVec 2) (scope : BitVec 3) (z : BitVec 2) (b : BitVec 5) (a : BitVec 5) (d : BitVec 5) (major : BitVec 7) :
    (encM sz sg ord scope z b a d major).extractLsb' 27 2 = ord := ((slice_peel (l := 2) (t := 27) (sz ++ sg ++ ord ++ scope ++ z ++ b ++ a ++ d) major 20 rfl).trans ((slice_peel (l := 2) (t := 20) (sz ++ sg ++ ord ++ scope ++ z ++ b ++ a) d 15 rfl).trans ((slice_peel (l := 2) (t := 15) (sz ++ sg ++ ord ++ scope ++ z ++ b) a 10 rfl).trans ((slice_peel (l := 2) (t := 10) (sz ++ sg ++ ord ++ scope ++ z) b 5 rfl).trans ((slice_peel (l := 2) (t := 5) (sz ++ sg ++ ord ++ scope) z 3 rfl).trans ((slice_peel (l := 2) (t := 3) (sz ++ sg ++ ord) scope 0 rfl).trans (slice_low (sz ++ sg) ord)))))))
@[simp] theorem encM_sg (sz : BitVec 2) (sg : BitVec 1) (ord : BitVec 2) (scope : BitVec 3) (z : BitVec 2) (b : BitVec 5) (a : BitVec 5) (d : BitVec 5) (major : BitVec 7) :
    (encM sz sg ord scope z b a d major).extractLsb' 29 1 = sg := ((slice_peel (l := 1) (t := 29) (sz ++ sg ++ ord ++ scope ++ z ++ b ++ a ++ d) major 22 rfl).trans ((slice_peel (l := 1) (t := 22) (sz ++ sg ++ ord ++ scope ++ z ++ b ++ a) d 17 rfl).trans ((slice_peel (l := 1) (t := 17) (sz ++ sg ++ ord ++ scope ++ z ++ b) a 12 rfl).trans ((slice_peel (l := 1) (t := 12) (sz ++ sg ++ ord ++ scope ++ z) b 7 rfl).trans ((slice_peel (l := 1) (t := 7) (sz ++ sg ++ ord ++ scope) z 5 rfl).trans ((slice_peel (l := 1) (t := 5) (sz ++ sg ++ ord) scope 2 rfl).trans ((slice_peel (l := 1) (t := 2) (sz ++ sg) ord 0 rfl).trans (slice_low (sz) sg))))))))
@[simp] theorem encM_sz (sz : BitVec 2) (sg : BitVec 1) (ord : BitVec 2) (scope : BitVec 3) (z : BitVec 2) (b : BitVec 5) (a : BitVec 5) (d : BitVec 5) (major : BitVec 7) :
    (encM sz sg ord scope z b a d major).extractLsb' 30 2 = sz := ((slice_peel (l := 2) (t := 30) (sz ++ sg ++ ord ++ scope ++ z ++ b ++ a ++ d) major 23 rfl).trans ((slice_peel (l := 2) (t := 23) (sz ++ sg ++ ord ++ scope ++ z ++ b ++ a) d 18 rfl).trans ((slice_peel (l := 2) (t := 18) (sz ++ sg ++ ord ++ scope ++ z ++ b) a 13 rfl).trans ((slice_peel (l := 2) (t := 13) (sz ++ sg ++ ord ++ scope ++ z) b 8 rfl).trans ((slice_peel (l := 2) (t := 8) (sz ++ sg ++ ord ++ scope) z 6 rfl).trans ((slice_peel (l := 2) (t := 6) (sz ++ sg ++ ord) scope 3 rfl).trans ((slice_peel (l := 2) (t := 3) (sz ++ sg) ord 1 rfl).trans ((slice_peel (l := 2) (t := 1) (sz) sg 0 rfl).trans (BitVec.extractLsb'_eq_self)))))))))
@[simp] theorem encN_major (f6 : BitVec 6) (pg : BitVec 3) (c : BitVec 4) (b : BitVec 4) (a : BitVec 4) (d : BitVec 4) (major : BitVec 7) :
    (encN f6 pg c b a d major).extractLsb' 0 7 = major := (slice_low (f6 ++ pg ++ c ++ b ++ a ++ d) major)
@[simp] theorem encN_d (f6 : BitVec 6) (pg : BitVec 3) (c : BitVec 4) (b : BitVec 4) (a : BitVec 4) (d : BitVec 4) (major : BitVec 7) :
    (encN f6 pg c b a d major).extractLsb' 7 4 = d := ((slice_peel (l := 4) (t := 7) (f6 ++ pg ++ c ++ b ++ a ++ d) major 0 rfl).trans (slice_low (f6 ++ pg ++ c ++ b ++ a) d))
@[simp] theorem encN_a (f6 : BitVec 6) (pg : BitVec 3) (c : BitVec 4) (b : BitVec 4) (a : BitVec 4) (d : BitVec 4) (major : BitVec 7) :
    (encN f6 pg c b a d major).extractLsb' 11 4 = a := ((slice_peel (l := 4) (t := 11) (f6 ++ pg ++ c ++ b ++ a ++ d) major 4 rfl).trans ((slice_peel (l := 4) (t := 4) (f6 ++ pg ++ c ++ b ++ a) d 0 rfl).trans (slice_low (f6 ++ pg ++ c ++ b) a)))
@[simp] theorem encN_b (f6 : BitVec 6) (pg : BitVec 3) (c : BitVec 4) (b : BitVec 4) (a : BitVec 4) (d : BitVec 4) (major : BitVec 7) :
    (encN f6 pg c b a d major).extractLsb' 15 4 = b := ((slice_peel (l := 4) (t := 15) (f6 ++ pg ++ c ++ b ++ a ++ d) major 8 rfl).trans ((slice_peel (l := 4) (t := 8) (f6 ++ pg ++ c ++ b ++ a) d 4 rfl).trans ((slice_peel (l := 4) (t := 4) (f6 ++ pg ++ c ++ b) a 0 rfl).trans (slice_low (f6 ++ pg ++ c) b))))
@[simp] theorem encN_c (f6 : BitVec 6) (pg : BitVec 3) (c : BitVec 4) (b : BitVec 4) (a : BitVec 4) (d : BitVec 4) (major : BitVec 7) :
    (encN f6 pg c b a d major).extractLsb' 19 4 = c := ((slice_peel (l := 4) (t := 19) (f6 ++ pg ++ c ++ b ++ a ++ d) major 12 rfl).trans ((slice_peel (l := 4) (t := 12) (f6 ++ pg ++ c ++ b ++ a) d 8 rfl).trans ((slice_peel (l := 4) (t := 8) (f6 ++ pg ++ c ++ b) a 4 rfl).trans ((slice_peel (l := 4) (t := 4) (f6 ++ pg ++ c) b 0 rfl).trans (slice_low (f6 ++ pg) c)))))
@[simp] theorem encN_pg (f6 : BitVec 6) (pg : BitVec 3) (c : BitVec 4) (b : BitVec 4) (a : BitVec 4) (d : BitVec 4) (major : BitVec 7) :
    (encN f6 pg c b a d major).extractLsb' 23 3 = pg := ((slice_peel (l := 3) (t := 23) (f6 ++ pg ++ c ++ b ++ a ++ d) major 16 rfl).trans ((slice_peel (l := 3) (t := 16) (f6 ++ pg ++ c ++ b ++ a) d 12 rfl).trans ((slice_peel (l := 3) (t := 12) (f6 ++ pg ++ c ++ b) a 8 rfl).trans ((slice_peel (l := 3) (t := 8) (f6 ++ pg ++ c) b 4 rfl).trans ((slice_peel (l := 3) (t := 4) (f6 ++ pg) c 0 rfl).trans (slice_low (f6) pg))))))
@[simp] theorem encN_f6 (f6 : BitVec 6) (pg : BitVec 3) (c : BitVec 4) (b : BitVec 4) (a : BitVec 4) (d : BitVec 4) (major : BitVec 7) :
    (encN f6 pg c b a d major).extractLsb' 26 6 = f6 := ((slice_peel (l := 6) (t := 26) (f6 ++ pg ++ c ++ b ++ a ++ d) major 19 rfl).trans ((slice_peel (l := 6) (t := 19) (f6 ++ pg ++ c ++ b ++ a) d 15 rfl).trans ((slice_peel (l := 6) (t := 15) (f6 ++ pg ++ c ++ b) a 11 rfl).trans ((slice_peel (l := 6) (t := 11) (f6 ++ pg ++ c) b 7 rfl).trans ((slice_peel (l := 6) (t := 7) (f6 ++ pg) c 3 rfl).trans ((slice_peel (l := 6) (t := 3) (f6) pg 0 rfl).trans (BitVec.extractLsb'_eq_self)))))))
@[simp] theorem encA_major (op : BitVec 4) (ord : BitVec 2) (scope : BitVec 3) (c : BitVec 4) (b : BitVec 4) (a : BitVec 4) (d : BitVec 4) (major : BitVec 7) :
    (encA op ord scope c b a d major).extractLsb' 0 7 = major := (slice_low (op ++ ord ++ scope ++ c ++ b ++ a ++ d) major)
@[simp] theorem encA_d (op : BitVec 4) (ord : BitVec 2) (scope : BitVec 3) (c : BitVec 4) (b : BitVec 4) (a : BitVec 4) (d : BitVec 4) (major : BitVec 7) :
    (encA op ord scope c b a d major).extractLsb' 7 4 = d := ((slice_peel (l := 4) (t := 7) (op ++ ord ++ scope ++ c ++ b ++ a ++ d) major 0 rfl).trans (slice_low (op ++ ord ++ scope ++ c ++ b ++ a) d))
@[simp] theorem encA_a (op : BitVec 4) (ord : BitVec 2) (scope : BitVec 3) (c : BitVec 4) (b : BitVec 4) (a : BitVec 4) (d : BitVec 4) (major : BitVec 7) :
    (encA op ord scope c b a d major).extractLsb' 11 4 = a := ((slice_peel (l := 4) (t := 11) (op ++ ord ++ scope ++ c ++ b ++ a ++ d) major 4 rfl).trans ((slice_peel (l := 4) (t := 4) (op ++ ord ++ scope ++ c ++ b ++ a) d 0 rfl).trans (slice_low (op ++ ord ++ scope ++ c ++ b) a)))
@[simp] theorem encA_b (op : BitVec 4) (ord : BitVec 2) (scope : BitVec 3) (c : BitVec 4) (b : BitVec 4) (a : BitVec 4) (d : BitVec 4) (major : BitVec 7) :
    (encA op ord scope c b a d major).extractLsb' 15 4 = b := ((slice_peel (l := 4) (t := 15) (op ++ ord ++ scope ++ c ++ b ++ a ++ d) major 8 rfl).trans ((slice_peel (l := 4) (t := 8) (op ++ ord ++ scope ++ c ++ b ++ a) d 4 rfl).trans ((slice_peel (l := 4) (t := 4) (op ++ ord ++ scope ++ c ++ b) a 0 rfl).trans (slice_low (op ++ ord ++ scope ++ c) b))))
@[simp] theorem encA_c (op : BitVec 4) (ord : BitVec 2) (scope : BitVec 3) (c : BitVec 4) (b : BitVec 4) (a : BitVec 4) (d : BitVec 4) (major : BitVec 7) :
    (encA op ord scope c b a d major).extractLsb' 19 4 = c := ((slice_peel (l := 4) (t := 19) (op ++ ord ++ scope ++ c ++ b ++ a ++ d) major 12 rfl).trans ((slice_peel (l := 4) (t := 12) (op ++ ord ++ scope ++ c ++ b ++ a) d 8 rfl).trans ((slice_peel (l := 4) (t := 8) (op ++ ord ++ scope ++ c ++ b) a 4 rfl).trans ((slice_peel (l := 4) (t := 4) (op ++ ord ++ scope ++ c) b 0 rfl).trans (slice_low (op ++ ord ++ scope) c)))))
@[simp] theorem encA_scope (op : BitVec 4) (ord : BitVec 2) (scope : BitVec 3) (c : BitVec 4) (b : BitVec 4) (a : BitVec 4) (d : BitVec 4) (major : BitVec 7) :
    (encA op ord scope c b a d major).extractLsb' 23 3 = scope := ((slice_peel (l := 3) (t := 23) (op ++ ord ++ scope ++ c ++ b ++ a ++ d) major 16 rfl).trans ((slice_peel (l := 3) (t := 16) (op ++ ord ++ scope ++ c ++ b ++ a) d 12 rfl).trans ((slice_peel (l := 3) (t := 12) (op ++ ord ++ scope ++ c ++ b) a 8 rfl).trans ((slice_peel (l := 3) (t := 8) (op ++ ord ++ scope ++ c) b 4 rfl).trans ((slice_peel (l := 3) (t := 4) (op ++ ord ++ scope) c 0 rfl).trans (slice_low (op ++ ord) scope))))))
@[simp] theorem encA_ord (op : BitVec 4) (ord : BitVec 2) (scope : BitVec 3) (c : BitVec 4) (b : BitVec 4) (a : BitVec 4) (d : BitVec 4) (major : BitVec 7) :
    (encA op ord scope c b a d major).extractLsb' 26 2 = ord := ((slice_peel (l := 2) (t := 26) (op ++ ord ++ scope ++ c ++ b ++ a ++ d) major 19 rfl).trans ((slice_peel (l := 2) (t := 19) (op ++ ord ++ scope ++ c ++ b ++ a) d 15 rfl).trans ((slice_peel (l := 2) (t := 15) (op ++ ord ++ scope ++ c ++ b) a 11 rfl).trans ((slice_peel (l := 2) (t := 11) (op ++ ord ++ scope ++ c) b 7 rfl).trans ((slice_peel (l := 2) (t := 7) (op ++ ord ++ scope) c 3 rfl).trans ((slice_peel (l := 2) (t := 3) (op ++ ord) scope 0 rfl).trans (slice_low (op) ord)))))))
@[simp] theorem encA_op (op : BitVec 4) (ord : BitVec 2) (scope : BitVec 3) (c : BitVec 4) (b : BitVec 4) (a : BitVec 4) (d : BitVec 4) (major : BitVec 7) :
    (encA op ord scope c b a d major).extractLsb' 28 4 = op := ((slice_peel (l := 4) (t := 28) (op ++ ord ++ scope ++ c ++ b ++ a ++ d) major 21 rfl).trans ((slice_peel (l := 4) (t := 21) (op ++ ord ++ scope ++ c ++ b ++ a) d 17 rfl).trans ((slice_peel (l := 4) (t := 17) (op ++ ord ++ scope ++ c ++ b) a 13 rfl).trans ((slice_peel (l := 4) (t := 13) (op ++ ord ++ scope ++ c) b 9 rfl).trans ((slice_peel (l := 4) (t := 9) (op ++ ord ++ scope) c 5 rfl).trans ((slice_peel (l := 4) (t := 5) (op ++ ord) scope 2 rfl).trans ((slice_peel (l := 4) (t := 2) (op) ord 0 rfl).trans (BitVec.extractLsb'_eq_self))))))))
@[simp] theorem encX_major (f6 : BitVec 6) (imm : BitVec 7) (b : BitVec 4) (a : BitVec 4) (d : BitVec 4) (major : BitVec 7) :
    (encX f6 imm b a d major).extractLsb' 0 7 = major := (slice_low (f6 ++ imm ++ b ++ a ++ d) major)
@[simp] theorem encX_d (f6 : BitVec 6) (imm : BitVec 7) (b : BitVec 4) (a : BitVec 4) (d : BitVec 4) (major : BitVec 7) :
    (encX f6 imm b a d major).extractLsb' 7 4 = d := ((slice_peel (l := 4) (t := 7) (f6 ++ imm ++ b ++ a ++ d) major 0 rfl).trans (slice_low (f6 ++ imm ++ b ++ a) d))
@[simp] theorem encX_a (f6 : BitVec 6) (imm : BitVec 7) (b : BitVec 4) (a : BitVec 4) (d : BitVec 4) (major : BitVec 7) :
    (encX f6 imm b a d major).extractLsb' 11 4 = a := ((slice_peel (l := 4) (t := 11) (f6 ++ imm ++ b ++ a ++ d) major 4 rfl).trans ((slice_peel (l := 4) (t := 4) (f6 ++ imm ++ b ++ a) d 0 rfl).trans (slice_low (f6 ++ imm ++ b) a)))
@[simp] theorem encX_b (f6 : BitVec 6) (imm : BitVec 7) (b : BitVec 4) (a : BitVec 4) (d : BitVec 4) (major : BitVec 7) :
    (encX f6 imm b a d major).extractLsb' 15 4 = b := ((slice_peel (l := 4) (t := 15) (f6 ++ imm ++ b ++ a ++ d) major 8 rfl).trans ((slice_peel (l := 4) (t := 8) (f6 ++ imm ++ b ++ a) d 4 rfl).trans ((slice_peel (l := 4) (t := 4) (f6 ++ imm ++ b) a 0 rfl).trans (slice_low (f6 ++ imm) b))))
@[simp] theorem encX_imm (f6 : BitVec 6) (imm : BitVec 7) (b : BitVec 4) (a : BitVec 4) (d : BitVec 4) (major : BitVec 7) :
    (encX f6 imm b a d major).extractLsb' 19 7 = imm := ((slice_peel (l := 7) (t := 19) (f6 ++ imm ++ b ++ a ++ d) major 12 rfl).trans ((slice_peel (l := 7) (t := 12) (f6 ++ imm ++ b ++ a) d 8 rfl).trans ((slice_peel (l := 7) (t := 8) (f6 ++ imm ++ b) a 4 rfl).trans ((slice_peel (l := 7) (t := 4) (f6 ++ imm) b 0 rfl).trans (slice_low (f6) imm)))))
@[simp] theorem encX_f6 (f6 : BitVec 6) (imm : BitVec 7) (b : BitVec 4) (a : BitVec 4) (d : BitVec 4) (major : BitVec 7) :
    (encX f6 imm b a d major).extractLsb' 26 6 = f6 := ((slice_peel (l := 6) (t := 26) (f6 ++ imm ++ b ++ a ++ d) major 19 rfl).trans ((slice_peel (l := 6) (t := 19) (f6 ++ imm ++ b ++ a) d 15 rfl).trans ((slice_peel (l := 6) (t := 15) (f6 ++ imm ++ b) a 11 rfl).trans ((slice_peel (l := 6) (t := 11) (f6 ++ imm) b 7 rfl).trans ((slice_peel (l := 6) (t := 7) (f6) imm 0 rfl).trans (BitVec.extractLsb'_eq_self))))))
@[simp] theorem encJ_major (imm : BitVec 23) (bt : BitVec 2) (major : BitVec 7) :
    (encJ imm bt major).extractLsb' 0 7 = major := (slice_low (imm ++ bt) major)
@[simp] theorem encJ_bt (imm : BitVec 23) (bt : BitVec 2) (major : BitVec 7) :
    (encJ imm bt major).extractLsb' 7 2 = bt := ((slice_peel (l := 2) (t := 7) (imm ++ bt) major 0 rfl).trans (slice_low (imm) bt))
@[simp] theorem encJ_imm (imm : BitVec 23) (bt : BitVec 2) (major : BitVec 7) :
    (encJ imm bt major).extractLsb' 9 23 = imm := ((slice_peel (l := 23) (t := 9) (imm ++ bt) major 2 rfl).trans ((slice_peel (l := 23) (t := 2) (imm) bt 0 rfl).trans (BitVec.extractLsb'_eq_self)))
@[simp] theorem encT_row (tlo : BitVec 5) (c : BitVec 5) (b : BitVec 5) (a : BitVec 5) (d : BitVec 5) (thi : BitVec 3) (row : BitVec 4) :
    (encT tlo c b a d thi row).extractLsb' 0 4 = row := (slice_low (tlo ++ c ++ b ++ a ++ d ++ thi) row)
@[simp] theorem encT_thi (tlo : BitVec 5) (c : BitVec 5) (b : BitVec 5) (a : BitVec 5) (d : BitVec 5) (thi : BitVec 3) (row : BitVec 4) :
    (encT tlo c b a d thi row).extractLsb' 4 3 = thi := ((slice_peel (l := 3) (t := 4) (tlo ++ c ++ b ++ a ++ d ++ thi) row 0 rfl).trans (slice_low (tlo ++ c ++ b ++ a ++ d) thi))
@[simp] theorem encT_d (tlo : BitVec 5) (c : BitVec 5) (b : BitVec 5) (a : BitVec 5) (d : BitVec 5) (thi : BitVec 3) (row : BitVec 4) :
    (encT tlo c b a d thi row).extractLsb' 7 5 = d := ((slice_peel (l := 5) (t := 7) (tlo ++ c ++ b ++ a ++ d ++ thi) row 3 rfl).trans ((slice_peel (l := 5) (t := 3) (tlo ++ c ++ b ++ a ++ d) thi 0 rfl).trans (slice_low (tlo ++ c ++ b ++ a) d)))
@[simp] theorem encT_a (tlo : BitVec 5) (c : BitVec 5) (b : BitVec 5) (a : BitVec 5) (d : BitVec 5) (thi : BitVec 3) (row : BitVec 4) :
    (encT tlo c b a d thi row).extractLsb' 12 5 = a := ((slice_peel (l := 5) (t := 12) (tlo ++ c ++ b ++ a ++ d ++ thi) row 8 rfl).trans ((slice_peel (l := 5) (t := 8) (tlo ++ c ++ b ++ a ++ d) thi 5 rfl).trans ((slice_peel (l := 5) (t := 5) (tlo ++ c ++ b ++ a) d 0 rfl).trans (slice_low (tlo ++ c ++ b) a))))
@[simp] theorem encT_b (tlo : BitVec 5) (c : BitVec 5) (b : BitVec 5) (a : BitVec 5) (d : BitVec 5) (thi : BitVec 3) (row : BitVec 4) :
    (encT tlo c b a d thi row).extractLsb' 17 5 = b := ((slice_peel (l := 5) (t := 17) (tlo ++ c ++ b ++ a ++ d ++ thi) row 13 rfl).trans ((slice_peel (l := 5) (t := 13) (tlo ++ c ++ b ++ a ++ d) thi 10 rfl).trans ((slice_peel (l := 5) (t := 10) (tlo ++ c ++ b ++ a) d 5 rfl).trans ((slice_peel (l := 5) (t := 5) (tlo ++ c ++ b) a 0 rfl).trans (slice_low (tlo ++ c) b)))))
@[simp] theorem encT_c (tlo : BitVec 5) (c : BitVec 5) (b : BitVec 5) (a : BitVec 5) (d : BitVec 5) (thi : BitVec 3) (row : BitVec 4) :
    (encT tlo c b a d thi row).extractLsb' 22 5 = c := ((slice_peel (l := 5) (t := 22) (tlo ++ c ++ b ++ a ++ d ++ thi) row 18 rfl).trans ((slice_peel (l := 5) (t := 18) (tlo ++ c ++ b ++ a ++ d) thi 15 rfl).trans ((slice_peel (l := 5) (t := 15) (tlo ++ c ++ b ++ a) d 10 rfl).trans ((slice_peel (l := 5) (t := 10) (tlo ++ c ++ b) a 5 rfl).trans ((slice_peel (l := 5) (t := 5) (tlo ++ c) b 0 rfl).trans (slice_low (tlo) c))))))
@[simp] theorem encT_tlo (tlo : BitVec 5) (c : BitVec 5) (b : BitVec 5) (a : BitVec 5) (d : BitVec 5) (thi : BitVec 3) (row : BitVec 4) :
    (encT tlo c b a d thi row).extractLsb' 27 5 = tlo := ((slice_peel (l := 5) (t := 27) (tlo ++ c ++ b ++ a ++ d ++ thi) row 23 rfl).trans ((slice_peel (l := 5) (t := 23) (tlo ++ c ++ b ++ a ++ d) thi 20 rfl).trans ((slice_peel (l := 5) (t := 20) (tlo ++ c ++ b ++ a) d 15 rfl).trans ((slice_peel (l := 5) (t := 15) (tlo ++ c ++ b) a 10 rfl).trans ((slice_peel (l := 5) (t := 10) (tlo ++ c) b 5 rfl).trans ((slice_peel (l := 5) (t := 5) (tlo) c 0 rfl).trans (BitVec.extractLsb'_eq_self)))))))
@[simp] theorem encS_row (imm : BitVec 11) (ord : BitVec 2) (sc : BitVec 1) (sg : BitVec 1) (a : BitVec 5) (d : BitVec 5) (ls : BitVec 1) (sz : BitVec 2) (row : BitVec 4) :
    (encS imm ord sc sg a d ls sz row).extractLsb' 0 4 = row := (slice_low (imm ++ ord ++ sc ++ sg ++ a ++ d ++ ls ++ sz) row)
@[simp] theorem encS_sz (imm : BitVec 11) (ord : BitVec 2) (sc : BitVec 1) (sg : BitVec 1) (a : BitVec 5) (d : BitVec 5) (ls : BitVec 1) (sz : BitVec 2) (row : BitVec 4) :
    (encS imm ord sc sg a d ls sz row).extractLsb' 4 2 = sz := ((slice_peel (l := 2) (t := 4) (imm ++ ord ++ sc ++ sg ++ a ++ d ++ ls ++ sz) row 0 rfl).trans (slice_low (imm ++ ord ++ sc ++ sg ++ a ++ d ++ ls) sz))
@[simp] theorem encS_ls (imm : BitVec 11) (ord : BitVec 2) (sc : BitVec 1) (sg : BitVec 1) (a : BitVec 5) (d : BitVec 5) (ls : BitVec 1) (sz : BitVec 2) (row : BitVec 4) :
    (encS imm ord sc sg a d ls sz row).extractLsb' 6 1 = ls := ((slice_peel (l := 1) (t := 6) (imm ++ ord ++ sc ++ sg ++ a ++ d ++ ls ++ sz) row 2 rfl).trans ((slice_peel (l := 1) (t := 2) (imm ++ ord ++ sc ++ sg ++ a ++ d ++ ls) sz 0 rfl).trans (slice_low (imm ++ ord ++ sc ++ sg ++ a ++ d) ls)))
@[simp] theorem encS_d (imm : BitVec 11) (ord : BitVec 2) (sc : BitVec 1) (sg : BitVec 1) (a : BitVec 5) (d : BitVec 5) (ls : BitVec 1) (sz : BitVec 2) (row : BitVec 4) :
    (encS imm ord sc sg a d ls sz row).extractLsb' 7 5 = d := ((slice_peel (l := 5) (t := 7) (imm ++ ord ++ sc ++ sg ++ a ++ d ++ ls ++ sz) row 3 rfl).trans ((slice_peel (l := 5) (t := 3) (imm ++ ord ++ sc ++ sg ++ a ++ d ++ ls) sz 1 rfl).trans ((slice_peel (l := 5) (t := 1) (imm ++ ord ++ sc ++ sg ++ a ++ d) ls 0 rfl).trans (slice_low (imm ++ ord ++ sc ++ sg ++ a) d))))
@[simp] theorem encS_a (imm : BitVec 11) (ord : BitVec 2) (sc : BitVec 1) (sg : BitVec 1) (a : BitVec 5) (d : BitVec 5) (ls : BitVec 1) (sz : BitVec 2) (row : BitVec 4) :
    (encS imm ord sc sg a d ls sz row).extractLsb' 12 5 = a := ((slice_peel (l := 5) (t := 12) (imm ++ ord ++ sc ++ sg ++ a ++ d ++ ls ++ sz) row 8 rfl).trans ((slice_peel (l := 5) (t := 8) (imm ++ ord ++ sc ++ sg ++ a ++ d ++ ls) sz 6 rfl).trans ((slice_peel (l := 5) (t := 6) (imm ++ ord ++ sc ++ sg ++ a ++ d) ls 5 rfl).trans ((slice_peel (l := 5) (t := 5) (imm ++ ord ++ sc ++ sg ++ a) d 0 rfl).trans (slice_low (imm ++ ord ++ sc ++ sg) a)))))
@[simp] theorem encS_sg (imm : BitVec 11) (ord : BitVec 2) (sc : BitVec 1) (sg : BitVec 1) (a : BitVec 5) (d : BitVec 5) (ls : BitVec 1) (sz : BitVec 2) (row : BitVec 4) :
    (encS imm ord sc sg a d ls sz row).extractLsb' 17 1 = sg := ((slice_peel (l := 1) (t := 17) (imm ++ ord ++ sc ++ sg ++ a ++ d ++ ls ++ sz) row 13 rfl).trans ((slice_peel (l := 1) (t := 13) (imm ++ ord ++ sc ++ sg ++ a ++ d ++ ls) sz 11 rfl).trans ((slice_peel (l := 1) (t := 11) (imm ++ ord ++ sc ++ sg ++ a ++ d) ls 10 rfl).trans ((slice_peel (l := 1) (t := 10) (imm ++ ord ++ sc ++ sg ++ a) d 5 rfl).trans ((slice_peel (l := 1) (t := 5) (imm ++ ord ++ sc ++ sg) a 0 rfl).trans (slice_low (imm ++ ord ++ sc) sg))))))
@[simp] theorem encS_sc (imm : BitVec 11) (ord : BitVec 2) (sc : BitVec 1) (sg : BitVec 1) (a : BitVec 5) (d : BitVec 5) (ls : BitVec 1) (sz : BitVec 2) (row : BitVec 4) :
    (encS imm ord sc sg a d ls sz row).extractLsb' 18 1 = sc := ((slice_peel (l := 1) (t := 18) (imm ++ ord ++ sc ++ sg ++ a ++ d ++ ls ++ sz) row 14 rfl).trans ((slice_peel (l := 1) (t := 14) (imm ++ ord ++ sc ++ sg ++ a ++ d ++ ls) sz 12 rfl).trans ((slice_peel (l := 1) (t := 12) (imm ++ ord ++ sc ++ sg ++ a ++ d) ls 11 rfl).trans ((slice_peel (l := 1) (t := 11) (imm ++ ord ++ sc ++ sg ++ a) d 6 rfl).trans ((slice_peel (l := 1) (t := 6) (imm ++ ord ++ sc ++ sg) a 1 rfl).trans ((slice_peel (l := 1) (t := 1) (imm ++ ord ++ sc) sg 0 rfl).trans (slice_low (imm ++ ord) sc)))))))
@[simp] theorem encS_ord (imm : BitVec 11) (ord : BitVec 2) (sc : BitVec 1) (sg : BitVec 1) (a : BitVec 5) (d : BitVec 5) (ls : BitVec 1) (sz : BitVec 2) (row : BitVec 4) :
    (encS imm ord sc sg a d ls sz row).extractLsb' 19 2 = ord := ((slice_peel (l := 2) (t := 19) (imm ++ ord ++ sc ++ sg ++ a ++ d ++ ls ++ sz) row 15 rfl).trans ((slice_peel (l := 2) (t := 15) (imm ++ ord ++ sc ++ sg ++ a ++ d ++ ls) sz 13 rfl).trans ((slice_peel (l := 2) (t := 13) (imm ++ ord ++ sc ++ sg ++ a ++ d) ls 12 rfl).trans ((slice_peel (l := 2) (t := 12) (imm ++ ord ++ sc ++ sg ++ a) d 7 rfl).trans ((slice_peel (l := 2) (t := 7) (imm ++ ord ++ sc ++ sg) a 2 rfl).trans ((slice_peel (l := 2) (t := 2) (imm ++ ord ++ sc) sg 1 rfl).trans ((slice_peel (l := 2) (t := 1) (imm ++ ord) sc 0 rfl).trans (slice_low (imm) ord))))))))
@[simp] theorem encS_imm (imm : BitVec 11) (ord : BitVec 2) (sc : BitVec 1) (sg : BitVec 1) (a : BitVec 5) (d : BitVec 5) (ls : BitVec 1) (sz : BitVec 2) (row : BitVec 4) :
    (encS imm ord sc sg a d ls sz row).extractLsb' 21 11 = imm := ((slice_peel (l := 11) (t := 21) (imm ++ ord ++ sc ++ sg ++ a ++ d ++ ls ++ sz) row 17 rfl).trans ((slice_peel (l := 11) (t := 17) (imm ++ ord ++ sc ++ sg ++ a ++ d ++ ls) sz 15 rfl).trans ((slice_peel (l := 11) (t := 15) (imm ++ ord ++ sc ++ sg ++ a ++ d) ls 14 rfl).trans ((slice_peel (l := 11) (t := 14) (imm ++ ord ++ sc ++ sg ++ a) d 9 rfl).trans ((slice_peel (l := 11) (t := 9) (imm ++ ord ++ sc ++ sg) a 4 rfl).trans ((slice_peel (l := 11) (t := 4) (imm ++ ord ++ sc) sg 3 rfl).trans ((slice_peel (l := 11) (t := 3) (imm ++ ord) sc 2 rfl).trans ((slice_peel (l := 11) (t := 2) (imm) ord 0 rfl).trans (BitVec.extractLsb'_eq_self)))))))))
@[simp] theorem encY_row (mask : BitVec 16) (dhi : BitVec 9) (dlo : BitVec 3) (row : BitVec 4) :
    (encY mask dhi dlo row).extractLsb' 0 4 = row := (slice_low (mask ++ dhi ++ dlo) row)
@[simp] theorem encY_dlo (mask : BitVec 16) (dhi : BitVec 9) (dlo : BitVec 3) (row : BitVec 4) :
    (encY mask dhi dlo row).extractLsb' 4 3 = dlo := ((slice_peel (l := 3) (t := 4) (mask ++ dhi ++ dlo) row 0 rfl).trans (slice_low (mask ++ dhi) dlo))
@[simp] theorem encY_dhi (mask : BitVec 16) (dhi : BitVec 9) (dlo : BitVec 3) (row : BitVec 4) :
    (encY mask dhi dlo row).extractLsb' 7 9 = dhi := ((slice_peel (l := 9) (t := 7) (mask ++ dhi ++ dlo) row 3 rfl).trans ((slice_peel (l := 9) (t := 3) (mask ++ dhi) dlo 0 rfl).trans (slice_low (mask) dhi)))
@[simp] theorem encY_mask (mask : BitVec 16) (dhi : BitVec 9) (dlo : BitVec 3) (row : BitVec 4) :
    (encY mask dhi dlo row).extractLsb' 16 16 = mask := ((slice_peel (l := 16) (t := 16) (mask ++ dhi ++ dlo) row 12 rfl).trans ((slice_peel (l := 16) (t := 12) (mask ++ dhi) dlo 9 rfl).trans ((slice_peel (l := 16) (t := 9) (mask) dhi 0 rfl).trans (BitVec.extractLsb'_eq_self))))
@[simp] theorem encU_row (slo : BitVec 3) (v : BitVec 17) (d : BitVec 5) (shi : BitVec 3) (row : BitVec 4) :
    (encU slo v d shi row).extractLsb' 0 4 = row := (slice_low (slo ++ v ++ d ++ shi) row)
@[simp] theorem encU_shi (slo : BitVec 3) (v : BitVec 17) (d : BitVec 5) (shi : BitVec 3) (row : BitVec 4) :
    (encU slo v d shi row).extractLsb' 4 3 = shi := ((slice_peel (l := 3) (t := 4) (slo ++ v ++ d ++ shi) row 0 rfl).trans (slice_low (slo ++ v ++ d) shi))
@[simp] theorem encU_d (slo : BitVec 3) (v : BitVec 17) (d : BitVec 5) (shi : BitVec 3) (row : BitVec 4) :
    (encU slo v d shi row).extractLsb' 7 5 = d := ((slice_peel (l := 5) (t := 7) (slo ++ v ++ d ++ shi) row 3 rfl).trans ((slice_peel (l := 5) (t := 3) (slo ++ v ++ d) shi 0 rfl).trans (slice_low (slo ++ v) d)))
@[simp] theorem encU_v (slo : BitVec 3) (v : BitVec 17) (d : BitVec 5) (shi : BitVec 3) (row : BitVec 4) :
    (encU slo v d shi row).extractLsb' 12 17 = v := ((slice_peel (l := 17) (t := 12) (slo ++ v ++ d ++ shi) row 8 rfl).trans ((slice_peel (l := 17) (t := 8) (slo ++ v ++ d) shi 5 rfl).trans ((slice_peel (l := 17) (t := 5) (slo ++ v) d 0 rfl).trans (slice_low (slo) v))))
@[simp] theorem encU_slo (slo : BitVec 3) (v : BitVec 17) (d : BitVec 5) (shi : BitVec 3) (row : BitVec 4) :
    (encU slo v d shi row).extractLsb' 29 3 = slo := ((slice_peel (l := 3) (t := 29) (slo ++ v ++ d ++ shi) row 25 rfl).trans ((slice_peel (l := 3) (t := 25) (slo ++ v ++ d) shi 22 rfl).trans ((slice_peel (l := 3) (t := 22) (slo ++ v) d 17 rfl).trans ((slice_peel (l := 3) (t := 17) (slo) v 0 rfl).trans (BitVec.extractLsb'_eq_self)))))

@[simp] theorem encR_7_2 (minor : BitVec 5) (x : BitVec 5) (b : BitVec 5) (a : BitVec 5) (d : BitVec 5) (major : BitVec 7) :
    (encR minor x b a d major).extractLsb' 7 2 = d.extractLsb' 0 2 := ((slice_peel (l := 2) (t := 7) (minor ++ x ++ b ++ a ++ d) major 0 rfl).trans (slice_within (minor ++ x ++ b ++ a) d 0 2 (by decide)))
@[simp] theorem encR_7_4 (minor : BitVec 5) (x : BitVec 5) (b : BitVec 5) (a : BitVec 5) (d : BitVec 5) (major : BitVec 7) :
    (encR minor x b a d major).extractLsb' 7 4 = d.extractLsb' 0 4 := ((slice_peel (l := 4) (t := 7) (minor ++ x ++ b ++ a ++ d) major 0 rfl).trans (slice_within (minor ++ x ++ b ++ a) d 0 4 (by decide)))
@[simp] theorem encR_12_2 (minor : BitVec 5) (x : BitVec 5) (b : BitVec 5) (a : BitVec 5) (d : BitVec 5) (major : BitVec 7) :
    (encR minor x b a d major).extractLsb' 12 2 = a.extractLsb' 0 2 := ((slice_peel (l := 2) (t := 12) (minor ++ x ++ b ++ a ++ d) major 5 rfl).trans ((slice_peel (l := 2) (t := 5) (minor ++ x ++ b ++ a) d 0 rfl).trans (slice_within (minor ++ x ++ b) a 0 2 (by decide))))
@[simp] theorem encR_12_4 (minor : BitVec 5) (x : BitVec 5) (b : BitVec 5) (a : BitVec 5) (d : BitVec 5) (major : BitVec 7) :
    (encR minor x b a d major).extractLsb' 12 4 = a.extractLsb' 0 4 := ((slice_peel (l := 4) (t := 12) (minor ++ x ++ b ++ a ++ d) major 5 rfl).trans ((slice_peel (l := 4) (t := 5) (minor ++ x ++ b ++ a) d 0 rfl).trans (slice_within (minor ++ x ++ b) a 0 4 (by decide))))
@[simp] theorem encR_17_4 (minor : BitVec 5) (x : BitVec 5) (b : BitVec 5) (a : BitVec 5) (d : BitVec 5) (major : BitVec 7) :
    (encR minor x b a d major).extractLsb' 17 4 = b.extractLsb' 0 4 := ((slice_peel (l := 4) (t := 17) (minor ++ x ++ b ++ a ++ d) major 10 rfl).trans ((slice_peel (l := 4) (t := 10) (minor ++ x ++ b ++ a) d 5 rfl).trans ((slice_peel (l := 4) (t := 5) (minor ++ x ++ b) a 0 rfl).trans (slice_within (minor ++ x) b 0 4 (by decide)))))
@[simp] theorem encR_21_1 (minor : BitVec 5) (x : BitVec 5) (b : BitVec 5) (a : BitVec 5) (d : BitVec 5) (major : BitVec 7) :
    (encR minor x b a d major).extractLsb' 21 1 = b.extractLsb' 4 1 := ((slice_peel (l := 1) (t := 21) (minor ++ x ++ b ++ a ++ d) major 14 rfl).trans ((slice_peel (l := 1) (t := 14) (minor ++ x ++ b ++ a) d 9 rfl).trans ((slice_peel (l := 1) (t := 9) (minor ++ x ++ b) a 4 rfl).trans (slice_within (minor ++ x) b 4 1 (by decide)))))
@[simp] theorem encR_22_2 (minor : BitVec 5) (x : BitVec 5) (b : BitVec 5) (a : BitVec 5) (d : BitVec 5) (major : BitVec 7) :
    (encR minor x b a d major).extractLsb' 22 2 = x.extractLsb' 0 2 := ((slice_peel (l := 2) (t := 22) (minor ++ x ++ b ++ a ++ d) major 15 rfl).trans ((slice_peel (l := 2) (t := 15) (minor ++ x ++ b ++ a) d 10 rfl).trans ((slice_peel (l := 2) (t := 10) (minor ++ x ++ b) a 5 rfl).trans ((slice_peel (l := 2) (t := 5) (minor ++ x) b 0 rfl).trans (slice_within (minor) x 0 2 (by decide))))))
@[simp] theorem encI_20_6 (imm : BitVec 12) (f3 : BitVec 3) (a : BitVec 5) (d : BitVec 5) (major : BitVec 7) :
    (encI imm f3 a d major).extractLsb' 20 6 = imm.extractLsb' 0 6 := ((slice_peel (l := 6) (t := 20) (imm ++ f3 ++ a ++ d) major 13 rfl).trans ((slice_peel (l := 6) (t := 13) (imm ++ f3 ++ a) d 8 rfl).trans ((slice_peel (l := 6) (t := 8) (imm ++ f3) a 3 rfl).trans ((slice_peel (l := 6) (t := 3) (imm) f3 0 rfl).trans rfl))))
@[simp] theorem encA_6_1 (op : BitVec 4) (ord : BitVec 2) (scope : BitVec 3) (c : BitVec 4) (b : BitVec 4) (a : BitVec 4) (d : BitVec 4) (major : BitVec 7) :
    (encA op ord scope c b a d major).extractLsb' 6 1 = major.extractLsb' 6 1 := (slice_within (op ++ ord ++ scope ++ c ++ b ++ a ++ d) major 6 1 (by decide))
@[simp] theorem encN_7_3 (f6 : BitVec 6) (pg : BitVec 3) (c : BitVec 4) (b : BitVec 4) (a : BitVec 4) (d : BitVec 4) (major : BitVec 7) :
    (encN f6 pg c b a d major).extractLsb' 7 3 = d.extractLsb' 0 3 := ((slice_peel (l := 3) (t := 7) (f6 ++ pg ++ c ++ b ++ a ++ d) major 0 rfl).trans (slice_within (f6 ++ pg ++ c ++ b ++ a) d 0 3 (by decide)))
@[simp] theorem encN_11_3 (f6 : BitVec 6) (pg : BitVec 3) (c : BitVec 4) (b : BitVec 4) (a : BitVec 4) (d : BitVec 4) (major : BitVec 7) :
    (encN f6 pg c b a d major).extractLsb' 11 3 = a.extractLsb' 0 3 := ((slice_peel (l := 3) (t := 11) (f6 ++ pg ++ c ++ b ++ a ++ d) major 4 rfl).trans ((slice_peel (l := 3) (t := 4) (f6 ++ pg ++ c ++ b ++ a) d 0 rfl).trans (slice_within (f6 ++ pg ++ c ++ b) a 0 3 (by decide))))
@[simp] theorem encN_15_2 (f6 : BitVec 6) (pg : BitVec 3) (c : BitVec 4) (b : BitVec 4) (a : BitVec 4) (d : BitVec 4) (major : BitVec 7) :
    (encN f6 pg c b a d major).extractLsb' 15 2 = b.extractLsb' 0 2 := ((slice_peel (l := 2) (t := 15) (f6 ++ pg ++ c ++ b ++ a ++ d) major 8 rfl).trans ((slice_peel (l := 2) (t := 8) (f6 ++ pg ++ c ++ b ++ a) d 4 rfl).trans ((slice_peel (l := 2) (t := 4) (f6 ++ pg ++ c ++ b) a 0 rfl).trans (slice_within (f6 ++ pg ++ c) b 0 2 (by decide)))))
@[simp] theorem encN_15_3 (f6 : BitVec 6) (pg : BitVec 3) (c : BitVec 4) (b : BitVec 4) (a : BitVec 4) (d : BitVec 4) (major : BitVec 7) :
    (encN f6 pg c b a d major).extractLsb' 15 3 = b.extractLsb' 0 3 := ((slice_peel (l := 3) (t := 15) (f6 ++ pg ++ c ++ b ++ a ++ d) major 8 rfl).trans ((slice_peel (l := 3) (t := 8) (f6 ++ pg ++ c ++ b ++ a) d 4 rfl).trans ((slice_peel (l := 3) (t := 4) (f6 ++ pg ++ c ++ b) a 0 rfl).trans (slice_within (f6 ++ pg ++ c) b 0 3 (by decide)))))
@[simp] theorem encN_19_2 (f6 : BitVec 6) (pg : BitVec 3) (c : BitVec 4) (b : BitVec 4) (a : BitVec 4) (d : BitVec 4) (major : BitVec 7) :
    (encN f6 pg c b a d major).extractLsb' 19 2 = c.extractLsb' 0 2 := ((slice_peel (l := 2) (t := 19) (f6 ++ pg ++ c ++ b ++ a ++ d) major 12 rfl).trans ((slice_peel (l := 2) (t := 12) (f6 ++ pg ++ c ++ b ++ a) d 8 rfl).trans ((slice_peel (l := 2) (t := 8) (f6 ++ pg ++ c ++ b) a 4 rfl).trans ((slice_peel (l := 2) (t := 4) (f6 ++ pg ++ c) b 0 rfl).trans (slice_within (f6 ++ pg) c 0 2 (by decide))))))
theorem encN_26_1 (f6 : BitVec 6) (pg : BitVec 3) (c : BitVec 4) (b : BitVec 4) (a : BitVec 4) (d : BitVec 4) (major : BitVec 7) :
    (encN f6 pg c b a d major).extractLsb' 26 1 = f6.extractLsb' 0 1 := ((slice_peel (l := 1) (t := 26) (f6 ++ pg ++ c ++ b ++ a ++ d) major 19 rfl).trans ((slice_peel (l := 1) (t := 19) (f6 ++ pg ++ c ++ b ++ a) d 15 rfl).trans ((slice_peel (l := 1) (t := 15) (f6 ++ pg ++ c ++ b) a 11 rfl).trans ((slice_peel (l := 1) (t := 11) (f6 ++ pg ++ c) b 7 rfl).trans ((slice_peel (l := 1) (t := 7) (f6 ++ pg) c 3 rfl).trans ((slice_peel (l := 1) (t := 3) (f6) pg 0 rfl).trans rfl))))))
theorem encN_26_3 (f6 : BitVec 6) (pg : BitVec 3) (c : BitVec 4) (b : BitVec 4) (a : BitVec 4) (d : BitVec 4) (major : BitVec 7) :
    (encN f6 pg c b a d major).extractLsb' 26 3 = f6.extractLsb' 0 3 := ((slice_peel (l := 3) (t := 26) (f6 ++ pg ++ c ++ b ++ a ++ d) major 19 rfl).trans ((slice_peel (l := 3) (t := 19) (f6 ++ pg ++ c ++ b ++ a) d 15 rfl).trans ((slice_peel (l := 3) (t := 15) (f6 ++ pg ++ c ++ b) a 11 rfl).trans ((slice_peel (l := 3) (t := 11) (f6 ++ pg ++ c) b 7 rfl).trans ((slice_peel (l := 3) (t := 7) (f6 ++ pg) c 3 rfl).trans ((slice_peel (l := 3) (t := 3) (f6) pg 0 rfl).trans rfl))))))
theorem encN_27_5 (f6 : BitVec 6) (pg : BitVec 3) (c : BitVec 4) (b : BitVec 4) (a : BitVec 4) (d : BitVec 4) (major : BitVec 7) :
    (encN f6 pg c b a d major).extractLsb' 27 5 = f6.extractLsb' 1 5 := ((slice_peel (l := 5) (t := 27) (f6 ++ pg ++ c ++ b ++ a ++ d) major 20 rfl).trans ((slice_peel (l := 5) (t := 20) (f6 ++ pg ++ c ++ b ++ a) d 16 rfl).trans ((slice_peel (l := 5) (t := 16) (f6 ++ pg ++ c ++ b) a 12 rfl).trans ((slice_peel (l := 5) (t := 12) (f6 ++ pg ++ c) b 8 rfl).trans ((slice_peel (l := 5) (t := 8) (f6 ++ pg) c 4 rfl).trans ((slice_peel (l := 5) (t := 4) (f6) pg 1 rfl).trans rfl))))))
@[simp] theorem encN_29_3 (f6 : BitVec 6) (pg : BitVec 3) (c : BitVec 4) (b : BitVec 4) (a : BitVec 4) (d : BitVec 4) (major : BitVec 7) :
    (encN f6 pg c b a d major).extractLsb' 29 3 = f6.extractLsb' 3 3 := ((slice_peel (l := 3) (t := 29) (f6 ++ pg ++ c ++ b ++ a ++ d) major 22 rfl).trans ((slice_peel (l := 3) (t := 22) (f6 ++ pg ++ c ++ b ++ a) d 18 rfl).trans ((slice_peel (l := 3) (t := 18) (f6 ++ pg ++ c ++ b) a 14 rfl).trans ((slice_peel (l := 3) (t := 14) (f6 ++ pg ++ c) b 10 rfl).trans ((slice_peel (l := 3) (t := 10) (f6 ++ pg) c 6 rfl).trans ((slice_peel (l := 3) (t := 6) (f6) pg 3 rfl).trans rfl))))))
@[simp] theorem encX_19_2 (f6 : BitVec 6) (imm : BitVec 7) (b : BitVec 4) (a : BitVec 4) (d : BitVec 4) (major : BitVec 7) :
    (encX f6 imm b a d major).extractLsb' 19 2 = imm.extractLsb' 0 2 := ((slice_peel (l := 2) (t := 19) (f6 ++ imm ++ b ++ a ++ d) major 12 rfl).trans ((slice_peel (l := 2) (t := 12) (f6 ++ imm ++ b ++ a) d 8 rfl).trans ((slice_peel (l := 2) (t := 8) (f6 ++ imm ++ b) a 4 rfl).trans ((slice_peel (l := 2) (t := 4) (f6 ++ imm) b 0 rfl).trans (slice_within (f6) imm 0 2 (by decide))))))
@[simp] theorem encX_19_4 (f6 : BitVec 6) (imm : BitVec 7) (b : BitVec 4) (a : BitVec 4) (d : BitVec 4) (major : BitVec 7) :
    (encX f6 imm b a d major).extractLsb' 19 4 = imm.extractLsb' 0 4 := ((slice_peel (l := 4) (t := 19) (f6 ++ imm ++ b ++ a ++ d) major 12 rfl).trans ((slice_peel (l := 4) (t := 12) (f6 ++ imm ++ b ++ a) d 8 rfl).trans ((slice_peel (l := 4) (t := 8) (f6 ++ imm ++ b) a 4 rfl).trans ((slice_peel (l := 4) (t := 4) (f6 ++ imm) b 0 rfl).trans (slice_within (f6) imm 0 4 (by decide))))))
@[simp] theorem encX_19_6 (f6 : BitVec 6) (imm : BitVec 7) (b : BitVec 4) (a : BitVec 4) (d : BitVec 4) (major : BitVec 7) :
    (encX f6 imm b a d major).extractLsb' 19 6 = imm.extractLsb' 0 6 := ((slice_peel (l := 6) (t := 19) (f6 ++ imm ++ b ++ a ++ d) major 12 rfl).trans ((slice_peel (l := 6) (t := 12) (f6 ++ imm ++ b ++ a) d 8 rfl).trans ((slice_peel (l := 6) (t := 8) (f6 ++ imm ++ b) a 4 rfl).trans ((slice_peel (l := 6) (t := 4) (f6 ++ imm) b 0 rfl).trans (slice_within (f6) imm 0 6 (by decide))))))
@[simp] theorem encM_12_4 (sz : BitVec 2) (sg : BitVec 1) (ord : BitVec 2) (scope : BitVec 3) (z : BitVec 2) (b : BitVec 5) (a : BitVec 5) (d : BitVec 5) (major : BitVec 7) :
    (encM sz sg ord scope z b a d major).extractLsb' 12 4 = a.extractLsb' 0 4 := ((slice_peel (l := 4) (t := 12) (sz ++ sg ++ ord ++ scope ++ z ++ b ++ a ++ d) major 5 rfl).trans ((slice_peel (l := 4) (t := 5) (sz ++ sg ++ ord ++ scope ++ z ++ b ++ a) d 0 rfl).trans (slice_within (sz ++ sg ++ ord ++ scope ++ z ++ b) a 0 4 (by decide))))

theorem encT_0_7 (tlo c b a d : BitVec 5) (thi : BitVec 3) (row : BitVec 4) :
    (encT tlo c b a d thi row).extractLsb' 0 7 = thi ++ row := slice_low2 (tlo ++ c ++ b ++ a ++ d) thi row
theorem encS_0_7 (imm : BitVec 11) (ord : BitVec 2) (sc sg : BitVec 1) (a d : BitVec 5) (ls : BitVec 1) (sz : BitVec 2)
    (row : BitVec 4) : (encS imm ord sc sg a d ls sz row).extractLsb' 0 7 = ls ++ (sz ++ row) :=
  slice_low3 (imm ++ ord ++ sc ++ sg ++ a ++ d) ls sz row
theorem encY_0_7 (mask : BitVec 16) (dhi : BitVec 9) (dlo : BitVec 3) (row : BitVec 4) :
    (encY mask dhi dlo row).extractLsb' 0 7 = dlo ++ row := slice_low2 (mask ++ dhi) dlo row
theorem encU_0_7 (slo : BitVec 3) (v : BitVec 17) (d : BitVec 5) (shi : BitVec 3) (row : BitVec 4) :
    (encU slo v d shi row).extractLsb' 0 7 = shi ++ row := slice_low2 (slo ++ v ++ d) shi row
theorem bv3 (x : BitVec 3) : x = 0#3 ∨ x = 1#3 ∨ x = 2#3 ∨ x = 3#3 ∨ x = 4#3 ∨ x = 5#3 ∨ x = 6#3 ∨ x = 7#3 := by
  revert x; decide
theorem bv2 (x : BitVec 2) : x = 0#2 ∨ x = 1#2 ∨ x = 2#2 ∨ x = 3#2 := by revert x; decide
theorem split8 (x : BitVec 8) : x.extractLsb' 5 3 ++ x.extractLsb' 0 5 = x := by revert x; decide
theorem split6 (x : BitVec 6) : x.extractLsb' 3 3 ++ x.extractLsb' 0 3 = x := by revert x; decide
theorem split12 (x : BitVec 12) : x.extractLsb' 3 9 ++ x.extractLsb' 0 3 = x := by
  apply BitVec.eq_of_getLsbD_eq; intro i hi
  simp only [BitVec.getLsbD_append, BitVec.getLsbD_extractLsb', Nat.zero_add]
  by_cases h : i < 3
  · simp [h]
  · simp [h, show i - 3 < 9 by omega, show 3 + (i - 3) = i by omega]
theorem cand_lut3 (d a b c : BitVec 5) (t : BitVec 8) :
    candidate (encT (t.extractLsb' 0 5) c b a d (t.extractLsb' 5 3) 3#4) = some (.lut3 d a b c t) := by
  unfold candidate
  rw [encT_0_7]
  rcases bv3 (t.extractLsb' 5 3) with h | h | h | h | h | h | h | h <;> rw [h] <;> simp <;>
    conv_rhs => rw [← split8 t, h]
theorem cand_movi (d : BitVec 5) (v : BitVec 17) (sh : BitVec 6) :
    candidate (encU (sh.extractLsb' 0 3) v d (sh.extractLsb' 3 3) 15#4) = some (.movi d v sh) := by
  unfold candidate
  rw [encU_0_7]
  rcases bv3 (sh.extractLsb' 3 3) with h | h | h | h | h | h | h | h <;> rw [h] <;> simp <;>
    conv_rhs => rw [← split6 sh, h]
theorem cand_yield (n : BitVec 12) (mask : BitVec 16) :
    candidate (encY mask (n.extractLsb' 3 9) (n.extractLsb' 0 3) 14#4) = some (.yield n mask) := by
  unfold candidate
  rw [encY_0_7]
  rcases bv3 (n.extractLsb' 0 3) with h | h | h | h | h | h | h | h <;> rw [h] <;> simp <;>
    conv_rhs => rw [← split12 n, h]
theorem cand_lds (z : BitVec 2) (d a : BitVec 5) (g : BitVec 1) (o : BitVec 2) (i : BitVec 11) :
    candidate (encS i o 0#1 g a d 0#1 z 13#4) = some (.lds z d a g o i) := by
  unfold candidate
  rw [encS_0_7]
  rcases bv2 z with h | h | h | h <;> rw [h] <;> simp
theorem cand_sts (z : BitVec 2) (d a : BitVec 5) (o : BitVec 2) (i : BitVec 11) :
    candidate (encS i o 0#1 0#1 a d 1#1 z 13#4) = some (.sts z d a o i) := by
  unfold candidate
  rw [encS_0_7]
  rcases bv2 z with h | h | h | h <;> rw [h] <;> simp
theorem bv1 (x : BitVec 1) : x = 0#1 ∨ x = 1#1 := by revert x; decide
theorem major_VInt (w : BitVec 32) (h : w.extractLsb' 0 7 = 5#7) : candidate w = candVInt w := by
  unfold candidate; rw [h]; rfl
theorem major_Alu (w : BitVec 32) (h : w.extractLsb' 0 7 = 16#7) : candidate w = candAlu w := by
  unfold candidate; rw [h]; rfl
theorem major_Ctl (w : BitVec 32) (h : w.extractLsb' 0 7 = 17#7) : candidate w = candCtl w := by
  unfold candidate; rw [h]; rfl
theorem major_VFp (w : BitVec 32) (h : w.extractLsb' 0 7 = 21#7) : candidate w = candVFp w := by
  unfold candidate; rw [h]; rfl
theorem major_AluI (w : BitVec 32) (h : w.extractLsb' 0 7 = 32#7) : candidate w = candAluI w := by
  unfold candidate; rw [h]; rfl
theorem major_Loop (w : BitVec 32) (h : w.extractLsb' 0 7 = 33#7) : candidate w = candLoop w := by
  unfold candidate; rw [h]; rfl
theorem major_VCvt (w : BitVec 32) (h : w.extractLsb' 0 7 = 37#7) : candidate w = candVCvt w := by
  unfold candidate; rw [h]; rfl
theorem major_Tok (w : BitVec 32) (h : w.extractLsb' 0 7 = 43#7) : candidate w = candTok w := by
  unfold candidate; rw [h]; rfl
theorem major_Fun (w : BitVec 32) (h : w.extractLsb' 0 7 = 48#7) : candidate w = candFun w := by
  unfold candidate; rw [h]; rfl
theorem major_Sys (w : BitVec 32) (h : w.extractLsb' 0 7 = 49#7) : candidate w = candSys w := by
  unfold candidate; rw [h]; rfl
theorem major_VAx (w : BitVec 32) (h : w.extractLsb' 0 7 = 53#7) : candidate w = candVAx w := by
  unfold candidate; rw [h]; rfl
theorem major_Cmp (w : BitVec 32) (h : w.extractLsb' 0 7 = 64#7) : candidate w = candCmp w := by
  unfold candidate; rw [h]; rfl
theorem major_Sync (w : BitVec 32) (h : w.extractLsb' 0 7 = 65#7) : candidate w = candSync w := by
  unfold candidate; rw [h]; rfl
theorem major_VPred (w : BitVec 32) (h : w.extractLsb' 0 7 = 69#7) : candidate w = candVPred w := by
  unfold candidate; rw [h]; rfl
theorem major_CmpI (w : BitVec 32) (h : w.extractLsb' 0 7 = 80#7) : candidate w = candCmpI w := by
  unfold candidate; rw [h]; rfl
theorem major_Enq (w : BitVec 32) (h : w.extractLsb' 0 7 = 81#7) : candidate w = candEnq w := by
  unfold candidate; rw [h]; rfl
theorem major_VSf (w : BitVec 32) (h : w.extractLsb' 0 7 = 85#7) : candidate w = candVSf w := by
  unfold candidate; rw [h]; rfl
theorem major_VQ (w : BitVec 32) (h : w.extractLsb' 0 7 = 101#7) : candidate w = candVQ w := by
  unfold candidate; rw [h]; rfl
theorem major_VMem (w : BitVec 32) (h : w.extractLsb' 0 7 = 117#7) : candidate w = candVMem w := by
  unfold candidate; rw [h]; rfl
theorem major_Amo (w : BitVec 32) (z : BitVec 1) (h : w.extractLsb' 0 7 = z ++ 59#6) : candidate w = candAmo w := by
  unfold candidate; rw [h]
  rcases bv1 z with rfl | rfl <;> rfl
theorem major_Lamo (w : BitVec 32) (z : BitVec 1) (h : w.extractLsb' 0 7 = z ++ 55#6) : candidate w = candLamo w := by
  unfold candidate; rw [h]
  rcases bv1 z with rfl | rfl <;> rfl
@[simp] theorem low_6_6 (x : BitVec 6) (y : BitVec 6) : BitVec.extractLsb' 0 6 (y ++ x : BitVec 12) = x := slice_low y x
@[simp] theorem low_3_2 (x : BitVec 2) (y : BitVec 3) : BitVec.extractLsb' 0 2 (y ++ x : BitVec 5) = x := slice_low y x
@[simp] theorem low_1_4 (x : BitVec 4) (y : BitVec 1) : BitVec.extractLsb' 0 4 (y ++ x : BitVec 5) = x := slice_low y x
@[simp] theorem low_5_5 (x : BitVec 5) (y : BitVec 5) : BitVec.extractLsb' 0 5 (y ++ x : BitVec 10) = x := slice_low y x
@[simp] theorem low_2_3 (x : BitVec 3) (y : BitVec 2) : BitVec.extractLsb' 0 3 (y ++ x : BitVec 5) = x := slice_low y x
@[simp] theorem low_5_3 (x : BitVec 3) (y : BitVec 5) : BitVec.extractLsb' 0 3 (y ++ x : BitVec 8) = x := slice_low y x
@[simp] theorem low_5_2 (x : BitVec 2) (y : BitVec 5) : BitVec.extractLsb' 0 2 (y ++ x : BitVec 7) = x := slice_low y x
@[simp] theorem low_1_6 (x : BitVec 6) (y : BitVec 1) : BitVec.extractLsb' 0 6 (y ++ x : BitVec 7) = x := slice_low y x
@[simp] theorem low_3_4 (x : BitVec 4) (y : BitVec 3) : BitVec.extractLsb' 0 4 (y ++ x : BitVec 7) = x := slice_low y x
@[simp] theorem low_1_3 (x : BitVec 3) (y : BitVec 1) : BitVec.extractLsb' 0 3 (y ++ x : BitVec 4) = x := slice_low y x
@[simp] theorem low_1_5 (x : BitVec 5) (y : BitVec 1) : BitVec.extractLsb' 0 5 (y ++ x : BitVec 6) = x := slice_low y x
@[simp] theorem low_2_2 (x : BitVec 2) (y : BitVec 2) : BitVec.extractLsb' 0 2 (y ++ x : BitVec 4) = x := slice_low y x
@[simp] theorem high_1_6 (x : BitVec 6) (y : BitVec 1) : BitVec.extractLsb' 6 1 (y ++ x : BitVec 7) = y :=
  (slice_peel (t := 6) y x 0 rfl).trans BitVec.extractLsb'_eq_self
@[simp] theorem high_3_3 (x : BitVec 3) (y : BitVec 3) : BitVec.extractLsb' 3 3 (y ++ x : BitVec 6) = y :=
  (slice_peel (t := 3) y x 0 rfl).trans BitVec.extractLsb'_eq_self
@[simp] theorem high_5_3 (x : BitVec 3) (y : BitVec 5) : BitVec.extractLsb' 3 5 (y ++ x : BitVec 8) = y :=
  (slice_peel (t := 3) y x 0 rfl).trans BitVec.extractLsb'_eq_self
@[simp] theorem high_1_4 (x : BitVec 4) (y : BitVec 1) : BitVec.extractLsb' 4 1 (y ++ x : BitVec 5) = y :=
  (slice_peel (t := 4) y x 0 rfl).trans BitVec.extractLsb'_eq_self
@[simp] theorem encN_26_3' (m k : BitVec 3) (pg : BitVec 3) (c b a d : BitVec 4) (major : BitVec 7) :
    (encN (m ++ k) pg c b a d major).extractLsb' 26 3 = k := (encN_26_3 ..).trans (slice_low m k)

@[simp] theorem encN_27_5' (k : BitVec 5) (g : BitVec 1) (pg : BitVec 3) (c b a d : BitVec 4) (major : BitVec 7) :
    (encN (k ++ g) pg c b a d major).extractLsb' 27 5 = k :=
  (encN_27_5 ..).trans ((slice_peel (t := 1) k g 0 rfl).trans BitVec.extractLsb'_eq_self)
@[simp] theorem encN_26_1' (k : BitVec 5) (g : BitVec 1) (pg : BitVec 3) (c b a d : BitVec 4) (major : BitVec 7) :
    (encN (k ++ g) pg c b a d major).extractLsb' 26 1 = g := (encN_26_1 ..).trans (slice_low k g)

theorem cand_vcmp (d : BitVec 3) (a b : BitVec 4) (p c t : BitVec 3) (h : (Instr.vcmp d a b p c t).wf = true) :
    candidate (encN (t ++ c) p 0#4 b a (0#1 ++ d) 69#7) = some (.vcmp d a b p c t) := by
  have hn : ∀ t c : BitVec 3, c.toNat ≤ 5 → t.toNat ≤ 2 → (t ++ c).toNat < 24 := by decide
  have hl : (t ++ c).toNat < 24 := by
    simp only [Instr.wf, Bool.and_eq_true, decide_eq_true_eq] at h
    exact hn t c h.1 h.2
  rw [major_VPred _ (encN_major ..)]
  simp only [candVPred, encN_f6]
  split <;> first | omega | simp [hl]

theorem cand_mtc (a y x : BitVec 5) (h : (Instr.mtc a y x).wf = true) :
    candidate (encR 5#5 x y a 0#5 49#7) = some (.mtc a y x) := by
  rw [major_Sys _ (encR_major ..)]
  have hy : ¬(x = 1#5 ∧ y.extractLsb' 4 1 = 0#1) := by
    rintro ⟨rfl, e⟩
    have hb : ∀ z : BitVec 5, z.extractLsb' 4 1 = 0#1 → z.toNat < 16 := by decide
    have := hb y e
    simp [Instr.wf] at h
    omega
  simp [candSys]
  intro hx h4
  exact absurd ⟨hx, h4⟩ hy

theorem cand_lit (n : BitVec 14) : engineCandidate (1#2 ++ n) = some (.lit n) := by
  unfold engineCandidate
  rw [show (1#2 ++ n : BitVec 16).extractLsb' 14 2 = 1#2 from slice_peel (t := 14) (1#2) n 0 rfl,
    show (1#2 ++ n : BitVec 16).extractLsb' 0 14 = n from slice_low _ n]
  rfl
theorem cand_litx (n : BitVec 14) : engineCandidate (2#2 ++ n) = some (.litx n) := by
  unfold engineCandidate
  rw [show (2#2 ++ n : BitVec 16).extractLsb' 14 2 = 2#2 from slice_peel (t := 14) (2#2) n 0 rfl,
    show (2#2 ++ n : BitVec 16).extractLsb' 0 14 = n from slice_low _ n]
  rfl

/-- A word whose candidate is well formed and encodes to it decodes to that. -/
theorem roundTrip_of {i : Instr} {w : BitVec 32} (hc : candidate w = some i) (he : encodeWord i = some w)
    (h : i.wf = true) : decodeWord w = .ok i := by simp [decodeWord, hc, he, h]
theorem engine_roundTrip_of {i : Instr} {w : BitVec 16} (hc : engineCandidate w = some i)
    (he : encodeEngineWord i = some w) (h : i.wf = true) : decodeEngineWord w = .ok i := by
  simp [decodeEngineWord, hc, he, h]

end Sys2Proof
end

