-- ==== Sys2Proof/Laws/PerInstr.lean ====
section
/-! SUPPORT. The family RoundTrip: for every instruction and engine word, the decoder gives it back from its own
encoding (09 R186-R204). One lemma per constructor; an event has no word. -/

namespace Sys2Proof.Laws.RoundTrip

/-- A well-formed instruction is what the decoders read in the word that encodes it. -/
def Statement (i : Instr) : Prop :=
  i.wf = true → (∀ w, encodeWord i = some w → decodeWord w = .ok i)
    ∧ (∀ w, encodeEngineWord i = some w → decodeEngineWord w = .ok i)

theorem roundTrip_alu0 :
    (∀ (d : BitVec 5) (a : BitVec 5) (b : BitVec 5), Statement (.add d a b)) ∧
    (∀ (d : BitVec 5) (a : BitVec 5) (b : BitVec 5), Statement (.sub d a b)) ∧
    (∀ (d : BitVec 5) (a : BitVec 5) (b : BitVec 5), Statement (.and d a b)) ∧
    (∀ (d : BitVec 5) (a : BitVec 5) (b : BitVec 5), Statement (.or d a b)) ∧
    (∀ (d : BitVec 5) (a : BitVec 5) (b : BitVec 5), Statement (.xor d a b)) ∧
    (∀ (d : BitVec 5) (a : BitVec 5) (b : BitVec 5), Statement (.andn d a b)) ∧
    (∀ (d : BitVec 5) (a : BitVec 5) (b : BitVec 5), Statement (.orn d a b)) ∧
    (∀ (d : BitVec 5) (a : BitVec 5) (b : BitVec 5), Statement (.xnor d a b)) ∧
    (∀ (d : BitVec 5) (a : BitVec 5) (b : BitVec 5), Statement (.sll d a b)) ∧
    (∀ (d : BitVec 5) (a : BitVec 5) (b : BitVec 5), Statement (.srl d a b)) ∧
    (∀ (d : BitVec 5) (a : BitVec 5) (b : BitVec 5), Statement (.sra d a b)) ∧
    (∀ (d : BitVec 5) (a : BitVec 5) (b : BitVec 5), Statement (.rol d a b)) :=
  ⟨by intro d a b; exact fun h => ⟨by rintro w ⟨⟩; exact roundTrip_of ((major_Alu _ (by simp)).trans (by simp [candAlu])) rfl h, by rintro w ⟨⟩⟩,
    by intro d a b; exact fun h => ⟨by rintro w ⟨⟩; exact roundTrip_of ((major_Alu _ (by simp)).trans (by simp [candAlu])) rfl h, by rintro w ⟨⟩⟩,
    by intro d a b; exact fun h => ⟨by rintro w ⟨⟩; exact roundTrip_of ((major_Alu _ (by simp)).trans (by simp [candAlu])) rfl h, by rintro w ⟨⟩⟩,
    by intro d a b; exact fun h => ⟨by rintro w ⟨⟩; exact roundTrip_of ((major_Alu _ (by simp)).trans (by simp [candAlu])) rfl h, by rintro w ⟨⟩⟩,
    by intro d a b; exact fun h => ⟨by rintro w ⟨⟩; exact roundTrip_of ((major_Alu _ (by simp)).trans (by simp [candAlu])) rfl h, by rintro w ⟨⟩⟩,
    by intro d a b; exact fun h => ⟨by rintro w ⟨⟩; exact roundTrip_of ((major_Alu _ (by simp)).trans (by simp [candAlu])) rfl h, by rintro w ⟨⟩⟩,
    by intro d a b; exact fun h => ⟨by rintro w ⟨⟩; exact roundTrip_of ((major_Alu _ (by simp)).trans (by simp [candAlu])) rfl h, by rintro w ⟨⟩⟩,
    by intro d a b; exact fun h => ⟨by rintro w ⟨⟩; exact roundTrip_of ((major_Alu _ (by simp)).trans (by simp [candAlu])) rfl h, by rintro w ⟨⟩⟩,
    by intro d a b; exact fun h => ⟨by rintro w ⟨⟩; exact roundTrip_of ((major_Alu _ (by simp)).trans (by simp [candAlu])) rfl h, by rintro w ⟨⟩⟩,
    by intro d a b; exact fun h => ⟨by rintro w ⟨⟩; exact roundTrip_of ((major_Alu _ (by simp)).trans (by simp [candAlu])) rfl h, by rintro w ⟨⟩⟩,
    by intro d a b; exact fun h => ⟨by rintro w ⟨⟩; exact roundTrip_of ((major_Alu _ (by simp)).trans (by simp [candAlu])) rfl h, by rintro w ⟨⟩⟩,
    by intro d a b; exact fun h => ⟨by rintro w ⟨⟩; exact roundTrip_of ((major_Alu _ (by simp)).trans (by simp [candAlu])) rfl h, by rintro w ⟨⟩⟩⟩

theorem roundTrip_alu1 :
    (∀ (d : BitVec 5) (a : BitVec 5) (b : BitVec 5), Statement (.ror d a b)) ∧
    (∀ (d : BitVec 5) (a : BitVec 5) (b : BitVec 5), Statement (.mul d a b)) ∧
    (∀ (d : BitVec 5) (a : BitVec 5) (b : BitVec 5), Statement (.mulh d a b)) ∧
    (∀ (d : BitVec 5) (a : BitVec 5) (b : BitVec 5), Statement (.mulhu d a b)) ∧
    (∀ (d : BitVec 5) (a : BitVec 5) (b : BitVec 5), Statement (.div d a b)) ∧
    (∀ (d : BitVec 5) (a : BitVec 5) (b : BitVec 5), Statement (.divu d a b)) ∧
    (∀ (d : BitVec 5) (a : BitVec 5) (b : BitVec 5), Statement (.rem d a b)) ∧
    (∀ (d : BitVec 5) (a : BitVec 5) (b : BitVec 5), Statement (.remu d a b)) ∧
    (∀ (d : BitVec 5) (a : BitVec 5) (b : BitVec 5), Statement (.min d a b)) ∧
    (∀ (d : BitVec 5) (a : BitVec 5) (b : BitVec 5), Statement (.max d a b)) ∧
    (∀ (d : BitVec 5) (a : BitVec 5) (b : BitVec 5), Statement (.minu d a b)) ∧
    (∀ (d : BitVec 5) (a : BitVec 5) (b : BitVec 5), Statement (.maxu d a b)) :=
  ⟨by intro d a b; exact fun h => ⟨by rintro w ⟨⟩; exact roundTrip_of ((major_Alu _ (by simp)).trans (by simp [candAlu])) rfl h, by rintro w ⟨⟩⟩,
    by intro d a b; exact fun h => ⟨by rintro w ⟨⟩; exact roundTrip_of ((major_Alu _ (by simp)).trans (by simp [candAlu])) rfl h, by rintro w ⟨⟩⟩,
    by intro d a b; exact fun h => ⟨by rintro w ⟨⟩; exact roundTrip_of ((major_Alu _ (by simp)).trans (by simp [candAlu])) rfl h, by rintro w ⟨⟩⟩,
    by intro d a b; exact fun h => ⟨by rintro w ⟨⟩; exact roundTrip_of ((major_Alu _ (by simp)).trans (by simp [candAlu])) rfl h, by rintro w ⟨⟩⟩,
    by intro d a b; exact fun h => ⟨by rintro w ⟨⟩; exact roundTrip_of ((major_Alu _ (by simp)).trans (by simp [candAlu])) rfl h, by rintro w ⟨⟩⟩,
    by intro d a b; exact fun h => ⟨by rintro w ⟨⟩; exact roundTrip_of ((major_Alu _ (by simp)).trans (by simp [candAlu])) rfl h, by rintro w ⟨⟩⟩,
    by intro d a b; exact fun h => ⟨by rintro w ⟨⟩; exact roundTrip_of ((major_Alu _ (by simp)).trans (by simp [candAlu])) rfl h, by rintro w ⟨⟩⟩,
    by intro d a b; exact fun h => ⟨by rintro w ⟨⟩; exact roundTrip_of ((major_Alu _ (by simp)).trans (by simp [candAlu])) rfl h, by rintro w ⟨⟩⟩,
    by intro d a b; exact fun h => ⟨by rintro w ⟨⟩; exact roundTrip_of ((major_Alu _ (by simp)).trans (by simp [candAlu])) rfl h, by rintro w ⟨⟩⟩,
    by intro d a b; exact fun h => ⟨by rintro w ⟨⟩; exact roundTrip_of ((major_Alu _ (by simp)).trans (by simp [candAlu])) rfl h, by rintro w ⟨⟩⟩,
    by intro d a b; exact fun h => ⟨by rintro w ⟨⟩; exact roundTrip_of ((major_Alu _ (by simp)).trans (by simp [candAlu])) rfl h, by rintro w ⟨⟩⟩,
    by intro d a b; exact fun h => ⟨by rintro w ⟨⟩; exact roundTrip_of ((major_Alu _ (by simp)).trans (by simp [candAlu])) rfl h, by rintro w ⟨⟩⟩⟩

theorem roundTrip_alu2 :
    (∀ (d : BitVec 5) (a : BitVec 5), Statement (.clz d a)) ∧
    (∀ (d : BitVec 5) (a : BitVec 5), Statement (.ctz d a)) ∧
    (∀ (d : BitVec 5) (a : BitVec 5), Statement (.popc d a)) ∧
    (∀ (d : BitVec 5) (a : BitVec 5), Statement (.bswap d a)) ∧
    (∀ (d : BitVec 5) (a : BitVec 5), Statement (.brev d a)) ∧
    (∀ (d : BitVec 5) (a : BitVec 5) (b : BitVec 5), Statement (.sel d a b)) :=
  ⟨by intro d a; exact fun h => ⟨by rintro w ⟨⟩; exact roundTrip_of ((major_Alu _ (by simp)).trans (by simp [candAlu])) rfl h, by rintro w ⟨⟩⟩,
    by intro d a; exact fun h => ⟨by rintro w ⟨⟩; exact roundTrip_of ((major_Alu _ (by simp)).trans (by simp [candAlu])) rfl h, by rintro w ⟨⟩⟩,
    by intro d a; exact fun h => ⟨by rintro w ⟨⟩; exact roundTrip_of ((major_Alu _ (by simp)).trans (by simp [candAlu])) rfl h, by rintro w ⟨⟩⟩,
    by intro d a; exact fun h => ⟨by rintro w ⟨⟩; exact roundTrip_of ((major_Alu _ (by simp)).trans (by simp [candAlu])) rfl h, by rintro w ⟨⟩⟩,
    by intro d a; exact fun h => ⟨by rintro w ⟨⟩; exact roundTrip_of ((major_Alu _ (by simp)).trans (by simp [candAlu])) rfl h, by rintro w ⟨⟩⟩,
    by intro d a b; exact fun h => ⟨by rintro w ⟨⟩; exact roundTrip_of ((major_Alu _ (by simp)).trans (by simp [candAlu])) rfl h, by rintro w ⟨⟩⟩⟩

theorem roundTrip_aluI0 :
    (∀ (d : BitVec 5) (a : BitVec 5) (i : BitVec 12), Statement (.addi d a i)) ∧
    (∀ (d : BitVec 5) (a : BitVec 5) (i : BitVec 12), Statement (.andi d a i)) ∧
    (∀ (d : BitVec 5) (a : BitVec 5) (i : BitVec 12), Statement (.ori d a i)) ∧
    (∀ (d : BitVec 5) (a : BitVec 5) (i : BitVec 12), Statement (.xori d a i)) ∧
    (∀ (d : BitVec 5) (a : BitVec 5) (n : BitVec 6), Statement (.slli d a n)) ∧
    (∀ (d : BitVec 5) (a : BitVec 5) (n : BitVec 6), Statement (.srli d a n)) ∧
    (∀ (d : BitVec 5) (a : BitVec 5) (n : BitVec 6), Statement (.srai d a n)) ∧
    (∀ (d : BitVec 5) (a : BitVec 5) (n : BitVec 6), Statement (.rori d a n)) :=
  ⟨by intro d a i; exact fun h => ⟨by rintro w ⟨⟩; exact roundTrip_of ((major_AluI _ (by simp)).trans (by simp [candAluI])) rfl h, by rintro w ⟨⟩⟩,
    by intro d a i; exact fun h => ⟨by rintro w ⟨⟩; exact roundTrip_of ((major_AluI _ (by simp)).trans (by simp [candAluI])) rfl h, by rintro w ⟨⟩⟩,
    by intro d a i; exact fun h => ⟨by rintro w ⟨⟩; exact roundTrip_of ((major_AluI _ (by simp)).trans (by simp [candAluI])) rfl h, by rintro w ⟨⟩⟩,
    by intro d a i; exact fun h => ⟨by rintro w ⟨⟩; exact roundTrip_of ((major_AluI _ (by simp)).trans (by simp [candAluI])) rfl h, by rintro w ⟨⟩⟩,
    by intro d a n; exact fun h => ⟨by rintro w ⟨⟩; exact roundTrip_of ((major_AluI _ (by simp)).trans (by simp [candAluI])) rfl h, by rintro w ⟨⟩⟩,
    by intro d a n; exact fun h => ⟨by rintro w ⟨⟩; exact roundTrip_of ((major_AluI _ (by simp)).trans (by simp [candAluI])) rfl h, by rintro w ⟨⟩⟩,
    by intro d a n; exact fun h => ⟨by rintro w ⟨⟩; exact roundTrip_of ((major_AluI _ (by simp)).trans (by simp [candAluI])) rfl h, by rintro w ⟨⟩⟩,
    by intro d a n; exact fun h => ⟨by rintro w ⟨⟩; exact roundTrip_of ((major_AluI _ (by simp)).trans (by simp [candAluI])) rfl h, by rintro w ⟨⟩⟩⟩

theorem roundTrip_wide0 :
    (∀ (d : BitVec 5) (v : BitVec 17) (sh : BitVec 6), Statement (.movi d v sh)) ∧
    (∀ (d : BitVec 5) (a : BitVec 5) (b : BitVec 5) (c : BitVec 5) (tbl : BitVec 8), Statement (.lut3 d a b c tbl)) ∧
    (∀ (t : BitVec 2) (i : BitVec 23), Statement (.ptg t i)) ∧
    (∀ (cnt : BitVec 12) (mask : BitVec 16), Statement (.yield cnt mask)) ∧
    Statement .fenceCo ∧
    Statement .fenceCl ∧
    Statement .fenceDi ∧
    Statement .fencePk ∧
    Statement .fenceDm ∧
    (∀ (d : BitVec 5) (k : BitVec 4) (b : BitVec 5) (p : BitVec 3) (o : BitVec 2) (g : BitVec 1) (z : BitVec 2), Statement (.ld d k b p o g z)) ∧
    (∀ (d : BitVec 5) (k : BitVec 4) (b : BitVec 5) (p : BitVec 3) (o : BitVec 2) (z : BitVec 2), Statement (.st d k b p o z)) ∧
    (∀ (z : BitVec 2) (d : BitVec 5) (a : BitVec 5) (g : BitVec 1) (o : BitVec 2) (i : BitVec 11), Statement (.lds z d a g o i)) :=
  ⟨by intro d v sh; exact fun h => ⟨by rintro w ⟨⟩; exact roundTrip_of (cand_movi _ _ _) rfl h, by rintro w ⟨⟩⟩,
    by intro d a b c tbl; exact fun h => ⟨by rintro w ⟨⟩; exact roundTrip_of (cand_lut3 _ _ _ _ _) rfl h, by rintro w ⟨⟩⟩,
    by intro t i; exact fun h => ⟨by rintro w ⟨⟩; exact roundTrip_of (by simp [candidate]) rfl h, by rintro w ⟨⟩⟩,
    by intro cnt mask; exact fun h => ⟨by rintro w ⟨⟩; exact roundTrip_of (cand_yield _ _) rfl h, by rintro w ⟨⟩⟩,
    by exact fun h => ⟨by rintro w ⟨⟩; exact roundTrip_of rfl rfl h, by rintro w ⟨⟩⟩,
    by exact fun h => ⟨by rintro w ⟨⟩; exact roundTrip_of rfl rfl h, by rintro w ⟨⟩⟩,
    by exact fun h => ⟨by rintro w ⟨⟩; exact roundTrip_of rfl rfl h, by rintro w ⟨⟩⟩,
    by exact fun h => ⟨by rintro w ⟨⟩; exact roundTrip_of rfl rfl h, by rintro w ⟨⟩⟩,
    by exact fun h => ⟨by rintro w ⟨⟩; exact roundTrip_of rfl rfl h, by rintro w ⟨⟩⟩,
    by intro d k b p o g z; exact fun h => ⟨by rintro w ⟨⟩; exact roundTrip_of (by simp [candidate]) rfl h, by rintro w ⟨⟩⟩,
    by intro d k b p o z; exact fun h => ⟨by rintro w ⟨⟩; exact roundTrip_of (by simp [candidate]) rfl h, by rintro w ⟨⟩⟩,
    by intro z d a g o i; exact fun h => ⟨by rintro w ⟨⟩; exact roundTrip_of (cand_lds _ _ _ _ _ _) rfl h, by rintro w ⟨⟩⟩⟩

theorem roundTrip_wide1 : (∀ (z : BitVec 2) (d : BitVec 5) (a : BitVec 5) (o : BitVec 2) (i : BitVec 11), Statement (.sts z d a o i)) := by intro z d a o i; exact fun h => ⟨by rintro w ⟨⟩; exact roundTrip_of (cand_sts _ _ _ _ _) rfl h, by rintro w ⟨⟩⟩

theorem roundTrip_fun0 :
    (∀ (d : BitVec 5) (a : BitVec 5) (b : BitVec 5) (n : BitVec 6), Statement (.fsl d a b n)) ∧
    (∀ (d : BitVec 5) (a : BitVec 5) (b : BitVec 5) (n : BitVec 6), Statement (.fsr d a b n)) :=
  ⟨by intro d a b n; exact fun h => ⟨by rintro w ⟨⟩; exact roundTrip_of ((major_Fun _ (by simp)).trans (by simp [candFun])) rfl h, by rintro w ⟨⟩⟩,
    by intro d a b n; exact fun h => ⟨by rintro w ⟨⟩; exact roundTrip_of ((major_Fun _ (by simp)).trans (by simp [candFun])) rfl h, by rintro w ⟨⟩⟩⟩

theorem roundTrip_cmp0 :
    (∀ (a : BitVec 5) (b : BitVec 5), Statement (.cmpEq a b)) ∧
    (∀ (a : BitVec 5) (b : BitVec 5), Statement (.cmpNe a b)) ∧
    (∀ (a : BitVec 5) (b : BitVec 5), Statement (.cmpLt a b)) ∧
    (∀ (a : BitVec 5) (b : BitVec 5), Statement (.cmpGe a b)) ∧
    (∀ (a : BitVec 5) (b : BitVec 5), Statement (.cmpLtu a b)) ∧
    (∀ (a : BitVec 5) (b : BitVec 5), Statement (.cmpGeu a b)) ∧
    (∀ (a : BitVec 5) (b : BitVec 5), Statement (.tst a b)) :=
  ⟨by intro a b; exact fun h => ⟨by rintro w ⟨⟩; exact roundTrip_of ((major_Cmp _ (by simp)).trans (by simp [candCmp])) rfl h, by rintro w ⟨⟩⟩,
    by intro a b; exact fun h => ⟨by rintro w ⟨⟩; exact roundTrip_of ((major_Cmp _ (by simp)).trans (by simp [candCmp])) rfl h, by rintro w ⟨⟩⟩,
    by intro a b; exact fun h => ⟨by rintro w ⟨⟩; exact roundTrip_of ((major_Cmp _ (by simp)).trans (by simp [candCmp])) rfl h, by rintro w ⟨⟩⟩,
    by intro a b; exact fun h => ⟨by rintro w ⟨⟩; exact roundTrip_of ((major_Cmp _ (by simp)).trans (by simp [candCmp])) rfl h, by rintro w ⟨⟩⟩,
    by intro a b; exact fun h => ⟨by rintro w ⟨⟩; exact roundTrip_of ((major_Cmp _ (by simp)).trans (by simp [candCmp])) rfl h, by rintro w ⟨⟩⟩,
    by intro a b; exact fun h => ⟨by rintro w ⟨⟩; exact roundTrip_of ((major_Cmp _ (by simp)).trans (by simp [candCmp])) rfl h, by rintro w ⟨⟩⟩,
    by intro a b; exact fun h => ⟨by rintro w ⟨⟩; exact roundTrip_of ((major_Cmp _ (by simp)).trans (by simp [candCmp])) rfl h, by rintro w ⟨⟩⟩⟩

theorem roundTrip_cmpI0 :
    (∀ (a : BitVec 5) (i : BitVec 12), Statement (.cmpiEq a i)) ∧
    (∀ (a : BitVec 5) (i : BitVec 12), Statement (.cmpiNe a i)) ∧
    (∀ (a : BitVec 5) (i : BitVec 12), Statement (.cmpiLt a i)) ∧
    (∀ (a : BitVec 5) (i : BitVec 12), Statement (.cmpiGe a i)) ∧
    (∀ (a : BitVec 5) (i : BitVec 12), Statement (.cmpiLtu a i)) ∧
    (∀ (a : BitVec 5) (i : BitVec 12), Statement (.cmpiGeu a i)) ∧
    (∀ (a : BitVec 5) (i : BitVec 12), Statement (.tsti a i)) :=
  ⟨by intro a i; exact fun h => ⟨by rintro w ⟨⟩; exact roundTrip_of ((major_CmpI _ (by simp)).trans (by simp [candCmpI])) rfl h, by rintro w ⟨⟩⟩,
    by intro a i; exact fun h => ⟨by rintro w ⟨⟩; exact roundTrip_of ((major_CmpI _ (by simp)).trans (by simp [candCmpI])) rfl h, by rintro w ⟨⟩⟩,
    by intro a i; exact fun h => ⟨by rintro w ⟨⟩; exact roundTrip_of ((major_CmpI _ (by simp)).trans (by simp [candCmpI])) rfl h, by rintro w ⟨⟩⟩,
    by intro a i; exact fun h => ⟨by rintro w ⟨⟩; exact roundTrip_of ((major_CmpI _ (by simp)).trans (by simp [candCmpI])) rfl h, by rintro w ⟨⟩⟩,
    by intro a i; exact fun h => ⟨by rintro w ⟨⟩; exact roundTrip_of ((major_CmpI _ (by simp)).trans (by simp [candCmpI])) rfl h, by rintro w ⟨⟩⟩,
    by intro a i; exact fun h => ⟨by rintro w ⟨⟩; exact roundTrip_of ((major_CmpI _ (by simp)).trans (by simp [candCmpI])) rfl h, by rintro w ⟨⟩⟩,
    by intro a i; exact fun h => ⟨by rintro w ⟨⟩; exact roundTrip_of ((major_CmpI _ (by simp)).trans (by simp [candCmpI])) rfl h, by rintro w ⟨⟩⟩⟩

theorem roundTrip_ctl0 :
    (∀ (t : BitVec 2), Statement (.br t)) ∧
    (∀ (t : BitVec 2), Statement (.bz t)) ∧
    (∀ (t : BitVec 2), Statement (.call t)) ∧
    (∀ (n : BitVec 2), Statement (.ret n)) ∧
    (∀ (t : BitVec 2) (a : BitVec 5), Statement (.ptr t a)) ∧
    (∀ (d : BitVec 5) (t : BitVec 2), Statement (.mfb d t)) ∧
    (∀ (a : BitVec 5) (x : BitVec 2), Statement (.mtl a x)) ∧
    (∀ (d : BitVec 5) (x : BitVec 2), Statement (.mfl d x)) ∧
    Statement .loopPush ∧
    Statement .loopPop ∧
    (∀ (d : BitVec 5), Statement (.mfbc d)) ∧
    (∀ (a : BitVec 5), Statement (.mtbc a)) :=
  ⟨by intro t; exact fun h => ⟨by rintro w ⟨⟩; exact roundTrip_of ((major_Ctl _ (by simp)).trans (by simp [candCtl])) rfl h, by rintro w ⟨⟩⟩,
    by intro t; exact fun h => ⟨by rintro w ⟨⟩; exact roundTrip_of ((major_Ctl _ (by simp)).trans (by simp [candCtl])) rfl h, by rintro w ⟨⟩⟩,
    by intro t; exact fun h => ⟨by rintro w ⟨⟩; exact roundTrip_of ((major_Ctl _ (by simp)).trans (by simp [candCtl])) rfl h, by rintro w ⟨⟩⟩,
    by intro n; exact fun h => ⟨by rintro w ⟨⟩; exact roundTrip_of ((major_Ctl _ (by simp)).trans (by simp [candCtl])) rfl h, by rintro w ⟨⟩⟩,
    by intro t a; exact fun h => ⟨by rintro w ⟨⟩; exact roundTrip_of ((major_Ctl _ (by simp)).trans (by simp [candCtl])) rfl h, by rintro w ⟨⟩⟩,
    by intro d t; exact fun h => ⟨by rintro w ⟨⟩; exact roundTrip_of ((major_Ctl _ (by simp)).trans (by simp [candCtl])) rfl h, by rintro w ⟨⟩⟩,
    by intro a x; exact fun h => ⟨by rintro w ⟨⟩; exact roundTrip_of ((major_Ctl _ (by simp)).trans (by simp [candCtl])) rfl h, by rintro w ⟨⟩⟩,
    by intro d x; exact fun h => ⟨by rintro w ⟨⟩; exact roundTrip_of ((major_Ctl _ (by simp)).trans (by simp [candCtl])) rfl h, by rintro w ⟨⟩⟩,
    by exact fun h => ⟨by rintro w ⟨⟩; exact roundTrip_of rfl rfl h, by rintro w ⟨⟩⟩,
    by exact fun h => ⟨by rintro w ⟨⟩; exact roundTrip_of rfl rfl h, by rintro w ⟨⟩⟩,
    by intro d; exact fun h => ⟨by rintro w ⟨⟩; exact roundTrip_of ((major_Ctl _ (by simp)).trans (by simp [candCtl])) rfl h, by rintro w ⟨⟩⟩,
    by intro a; exact fun h => ⟨by rintro w ⟨⟩; exact roundTrip_of ((major_Ctl _ (by simp)).trans (by simp [candCtl])) rfl h, by rintro w ⟨⟩⟩⟩

theorem roundTrip_loop0 : (∀ (a : BitVec 5) (i : BitVec 12), Statement (.loop a i)) := by intro a i; exact fun h => ⟨by rintro w ⟨⟩; exact roundTrip_of ((major_Loop _ (by simp)).trans (by simp [candLoop])) rfl h, by rintro w ⟨⟩⟩

theorem roundTrip_sys0 :
    Statement .endOp ∧
    Statement .eret ∧
    (∀ (n : BitVec 5), Statement (.trap n)) ∧
    (∀ (n : BitVec 5), Statement (.svc n)) ∧
    (∀ (d : BitVec 5) (y : BitVec 5) (x : BitVec 5), Statement (.mfc d y x)) ∧
    (∀ (a : BitVec 5) (y : BitVec 5) (x : BitVec 5), Statement (.mtc a y x)) ∧
    (∀ (a : BitVec 5) (n : BitVec 4), Statement (.ctrSel a n)) :=
  ⟨by exact fun h => ⟨by rintro w ⟨⟩; exact roundTrip_of rfl rfl h, by rintro w ⟨⟩⟩,
    by exact fun h => ⟨by rintro w ⟨⟩; exact roundTrip_of rfl rfl h, by rintro w ⟨⟩⟩,
    by intro n; exact fun h => ⟨by rintro w ⟨⟩; exact roundTrip_of ((major_Sys _ (by simp)).trans (by simp [candSys])) rfl h, by rintro w ⟨⟩⟩,
    by intro n; exact fun h => ⟨by rintro w ⟨⟩; exact roundTrip_of ((major_Sys _ (by simp)).trans (by simp [candSys])) rfl h, by rintro w ⟨⟩⟩,
    by intro d y x; exact fun h => ⟨by rintro w ⟨⟩; exact roundTrip_of ((major_Sys _ (by simp)).trans (by simp [candSys])) rfl h, by rintro w ⟨⟩⟩,
    by intro a y x; exact fun h => ⟨by rintro w ⟨⟩; exact roundTrip_of (cand_mtc a y x h) rfl h, by rintro w ⟨⟩⟩,
    by intro a n; exact fun h => ⟨by rintro w ⟨⟩; exact roundTrip_of ((major_Sys _ (by simp)).trans (by simp [candSys])) rfl h, by rintro w ⟨⟩⟩⟩

theorem roundTrip_sync0 :
    Statement .sync ∧
    Statement .alignEquinox ∧
    (∀ (a : BitVec 5), Statement (.tagWany a)) ∧
    (∀ (a : BitVec 5), Statement (.tagWall a)) ∧
    (∀ (d : BitVec 5) (a : BitVec 5), Statement (.tagFfr d a)) ∧
    (∀ (a : BitVec 5), Statement (.tagClr a)) ∧
    (∀ (d : BitVec 5) (i : BitVec 5), Statement (.barArrive d i)) ∧
    (∀ (d : BitVec 5) (i : BitVec 5), Statement (.barDrop d i)) ∧
    (∀ (a : BitVec 5) (i : BitVec 5), Statement (.barWait a i)) :=
  ⟨by exact fun h => ⟨by rintro w ⟨⟩; exact roundTrip_of rfl rfl h, by rintro w ⟨⟩⟩,
    by exact fun h => ⟨by rintro w ⟨⟩; exact roundTrip_of rfl rfl h, by rintro w ⟨⟩⟩,
    by intro a; exact fun h => ⟨by rintro w ⟨⟩; exact roundTrip_of ((major_Sync _ (by simp)).trans (by simp [candSync])) rfl h, by rintro w ⟨⟩⟩,
    by intro a; exact fun h => ⟨by rintro w ⟨⟩; exact roundTrip_of ((major_Sync _ (by simp)).trans (by simp [candSync])) rfl h, by rintro w ⟨⟩⟩,
    by intro d a; exact fun h => ⟨by rintro w ⟨⟩; exact roundTrip_of ((major_Sync _ (by simp)).trans (by simp [candSync])) rfl h, by rintro w ⟨⟩⟩,
    by intro a; exact fun h => ⟨by rintro w ⟨⟩; exact roundTrip_of ((major_Sync _ (by simp)).trans (by simp [candSync])) rfl h, by rintro w ⟨⟩⟩,
    by intro d i; exact fun h => ⟨by rintro w ⟨⟩; exact roundTrip_of ((major_Sync _ (by simp)).trans (by simp [candSync])) rfl h, by rintro w ⟨⟩⟩,
    by intro d i; exact fun h => ⟨by rintro w ⟨⟩; exact roundTrip_of ((major_Sync _ (by simp)).trans (by simp [candSync])) rfl h, by rintro w ⟨⟩⟩,
    by intro a i; exact fun h => ⟨by rintro w ⟨⟩; exact roundTrip_of ((major_Sync _ (by simp)).trans (by simp [candSync])) rfl h, by rintro w ⟨⟩⟩⟩

theorem roundTrip_enq0 :
    (∀ (a : BitVec 5), Statement (.enqM a)) ∧
    (∀ (a : BitVec 5), Statement (.enqC a)) ∧
    (∀ (a : BitVec 5), Statement (.enqL a)) ∧
    (∀ (a : BitVec 5), Statement (.fmtq a)) :=
  ⟨by intro a; exact fun h => ⟨by rintro w ⟨⟩; exact roundTrip_of ((major_Enq _ (by simp)).trans (by simp [candEnq])) rfl h, by rintro w ⟨⟩⟩,
    by intro a; exact fun h => ⟨by rintro w ⟨⟩; exact roundTrip_of ((major_Enq _ (by simp)).trans (by simp [candEnq])) rfl h, by rintro w ⟨⟩⟩,
    by intro a; exact fun h => ⟨by rintro w ⟨⟩; exact roundTrip_of ((major_Enq _ (by simp)).trans (by simp [candEnq])) rfl h, by rintro w ⟨⟩⟩,
    by intro a; exact fun h => ⟨by rintro w ⟨⟩; exact roundTrip_of ((major_Enq _ (by simp)).trans (by simp [candEnq])) rfl h, by rintro w ⟨⟩⟩⟩

theorem roundTrip_tok0 :
    (∀ (k : BitVec 4) (a : BitVec 5) (b : BitVec 5) (r : BitVec 2), Statement (.xlat k a b r)) ∧
    (∀ (d : BitVec 5) (k : BitVec 4) (f : BitVec 5), Statement (.kinfo d k f)) ∧
    (∀ (j : BitVec 4) (k : BitVec 4), Statement (.kmov j k)) ∧
    (∀ (j : BitVec 4) (k : BitVec 4) (o : BitVec 5) (l : BitVec 5), Statement (.ksub j k o l)) ∧
    (∀ (k : BitVec 4) (j : BitVec 4) (o : BitVec 5), Statement (.kst k j o)) ∧
    (∀ (k : BitVec 4) (b : BitVec 5) (i : BitVec 5), Statement (.kstL k b i)) ∧
    (∀ (k : BitVec 4) (j : BitVec 4) (o : BitVec 5), Statement (.kld k j o)) ∧
    (∀ (k : BitVec 4) (b : BitVec 5) (i : BitVec 5), Statement (.kldL k b i)) ∧
    (∀ (k : BitVec 4), Statement (.kclr k)) ∧
    (∀ (k : BitVec 4), Statement (.krel k)) :=
  ⟨by intro k a b r; exact fun h => ⟨by rintro w ⟨⟩; exact roundTrip_of ((major_Tok _ (by simp)).trans (by simp [candTok])) rfl h, by rintro w ⟨⟩⟩,
    by intro d k f; exact fun h => ⟨by rintro w ⟨⟩; exact roundTrip_of ((major_Tok _ (by simp)).trans (by simp [candTok])) rfl h, by rintro w ⟨⟩⟩,
    by intro j k; exact fun h => ⟨by rintro w ⟨⟩; exact roundTrip_of ((major_Tok _ (by simp)).trans (by simp [candTok])) rfl h, by rintro w ⟨⟩⟩,
    by intro j k o l; exact fun h => ⟨by rintro w ⟨⟩; exact roundTrip_of ((major_Tok _ (by simp)).trans (by simp [candTok])) rfl h, by rintro w ⟨⟩⟩,
    by intro k j o; exact fun h => ⟨by rintro w ⟨⟩; exact roundTrip_of ((major_Tok _ (by simp)).trans (by simp [candTok])) rfl h, by rintro w ⟨⟩⟩,
    by intro k b i; exact fun h => ⟨by rintro w ⟨⟩; exact roundTrip_of ((major_Tok _ (by simp)).trans (by simp [candTok])) rfl h, by rintro w ⟨⟩⟩,
    by intro k j o; exact fun h => ⟨by rintro w ⟨⟩; exact roundTrip_of ((major_Tok _ (by simp)).trans (by simp [candTok])) rfl h, by rintro w ⟨⟩⟩,
    by intro k b i; exact fun h => ⟨by rintro w ⟨⟩; exact roundTrip_of ((major_Tok _ (by simp)).trans (by simp [candTok])) rfl h, by rintro w ⟨⟩⟩,
    by intro k; exact fun h => ⟨by rintro w ⟨⟩; exact roundTrip_of ((major_Tok _ (by simp)).trans (by simp [candTok])) rfl h, by rintro w ⟨⟩⟩,
    by intro k; exact fun h => ⟨by rintro w ⟨⟩; exact roundTrip_of ((major_Tok _ (by simp)).trans (by simp [candTok])) rfl h, by rintro w ⟨⟩⟩⟩

theorem roundTrip_amo0 :
    (∀ (z : BitVec 1) (d : BitVec 4) (k : BitVec 4) (b : BitVec 4) (c : BitVec 4) (p : BitVec 3) (o : BitVec 2), Statement (.amoAdd z d k b c p o)) ∧
    (∀ (z : BitVec 1) (d : BitVec 4) (k : BitVec 4) (b : BitVec 4) (c : BitVec 4) (p : BitVec 3) (o : BitVec 2), Statement (.amoAnd z d k b c p o)) ∧
    (∀ (z : BitVec 1) (d : BitVec 4) (k : BitVec 4) (b : BitVec 4) (c : BitVec 4) (p : BitVec 3) (o : BitVec 2), Statement (.amoOr z d k b c p o)) ∧
    (∀ (z : BitVec 1) (d : BitVec 4) (k : BitVec 4) (b : BitVec 4) (c : BitVec 4) (p : BitVec 3) (o : BitVec 2), Statement (.amoXor z d k b c p o)) ∧
    (∀ (z : BitVec 1) (d : BitVec 4) (k : BitVec 4) (b : BitVec 4) (c : BitVec 4) (p : BitVec 3) (o : BitVec 2), Statement (.amoMin z d k b c p o)) ∧
    (∀ (z : BitVec 1) (d : BitVec 4) (k : BitVec 4) (b : BitVec 4) (c : BitVec 4) (p : BitVec 3) (o : BitVec 2), Statement (.amoMax z d k b c p o)) ∧
    (∀ (z : BitVec 1) (d : BitVec 4) (k : BitVec 4) (b : BitVec 4) (c : BitVec 4) (p : BitVec 3) (o : BitVec 2), Statement (.amoMinu z d k b c p o)) ∧
    (∀ (z : BitVec 1) (d : BitVec 4) (k : BitVec 4) (b : BitVec 4) (c : BitVec 4) (p : BitVec 3) (o : BitVec 2), Statement (.amoMaxu z d k b c p o)) ∧
    (∀ (z : BitVec 1) (d : BitVec 4) (k : BitVec 4) (b : BitVec 4) (c : BitVec 4) (p : BitVec 3) (o : BitVec 2), Statement (.amoSwap z d k b c p o)) ∧
    (∀ (z : BitVec 1) (d : BitVec 4) (k : BitVec 4) (b : BitVec 4) (c : BitVec 4) (p : BitVec 3) (o : BitVec 2), Statement (.amoCas z d k b c p o)) ∧
    (∀ (d : BitVec 4) (k : BitVec 4) (b : BitVec 4) (c : BitVec 4) (p : BitVec 3) (o : BitVec 2), Statement (.amoFadd d k b c p o)) ∧
    (∀ (z : BitVec 1) (d : BitVec 4) (k : BitVec 4) (b : BitVec 4) (c : BitVec 4) (p : BitVec 3) (o : BitVec 2), Statement (.amoAddt z d k b c p o)) :=
  ⟨by intro z d k b c p o; exact fun h => ⟨by rintro w ⟨⟩; exact roundTrip_of ((major_Amo _ z (encA_major ..)).trans (by simp [candAmo])) rfl h, by rintro w ⟨⟩⟩,
    by intro z d k b c p o; exact fun h => ⟨by rintro w ⟨⟩; exact roundTrip_of ((major_Amo _ z (encA_major ..)).trans (by simp [candAmo])) rfl h, by rintro w ⟨⟩⟩,
    by intro z d k b c p o; exact fun h => ⟨by rintro w ⟨⟩; exact roundTrip_of ((major_Amo _ z (encA_major ..)).trans (by simp [candAmo])) rfl h, by rintro w ⟨⟩⟩,
    by intro z d k b c p o; exact fun h => ⟨by rintro w ⟨⟩; exact roundTrip_of ((major_Amo _ z (encA_major ..)).trans (by simp [candAmo])) rfl h, by rintro w ⟨⟩⟩,
    by intro z d k b c p o; exact fun h => ⟨by rintro w ⟨⟩; exact roundTrip_of ((major_Amo _ z (encA_major ..)).trans (by simp [candAmo])) rfl h, by rintro w ⟨⟩⟩,
    by intro z d k b c p o; exact fun h => ⟨by rintro w ⟨⟩; exact roundTrip_of ((major_Amo _ z (encA_major ..)).trans (by simp [candAmo])) rfl h, by rintro w ⟨⟩⟩,
    by intro z d k b c p o; exact fun h => ⟨by rintro w ⟨⟩; exact roundTrip_of ((major_Amo _ z (encA_major ..)).trans (by simp [candAmo])) rfl h, by rintro w ⟨⟩⟩,
    by intro z d k b c p o; exact fun h => ⟨by rintro w ⟨⟩; exact roundTrip_of ((major_Amo _ z (encA_major ..)).trans (by simp [candAmo])) rfl h, by rintro w ⟨⟩⟩,
    by intro z d k b c p o; exact fun h => ⟨by rintro w ⟨⟩; exact roundTrip_of ((major_Amo _ z (encA_major ..)).trans (by simp [candAmo])) rfl h, by rintro w ⟨⟩⟩,
    by intro z d k b c p o; exact fun h => ⟨by rintro w ⟨⟩; exact roundTrip_of ((major_Amo _ z (encA_major ..)).trans (by simp [candAmo])) rfl h, by rintro w ⟨⟩⟩,
    by intro d k b c p o; exact fun h => ⟨by rintro w ⟨⟩; exact roundTrip_of ((major_Amo _ 0#1 (encA_major ..)).trans (by simp [candAmo])) rfl h, by rintro w ⟨⟩⟩,
    by intro z d k b c p o; exact fun h => ⟨by rintro w ⟨⟩; exact roundTrip_of ((major_Amo _ z (encA_major ..)).trans (by simp [candAmo])) rfl h, by rintro w ⟨⟩⟩⟩

theorem roundTrip_amo1 : (∀ (z : BitVec 1) (d : BitVec 4) (k : BitVec 4) (b : BitVec 4) (c : BitVec 4) (p : BitVec 3), Statement (.waita z d k b c p)) := by intro z d k b c p; exact fun h => ⟨by rintro w ⟨⟩; exact roundTrip_of ((major_Amo _ z (encA_major ..)).trans (by simp [candAmo])) rfl h, by rintro w ⟨⟩⟩

theorem roundTrip_lamo0 :
    (∀ (z : BitVec 1) (d : BitVec 4) (a : BitVec 4) (i : BitVec 4) (c : BitVec 4) (o : BitVec 2), Statement (.lamoAdd z d a i c o)) ∧
    (∀ (z : BitVec 1) (d : BitVec 4) (a : BitVec 4) (i : BitVec 4) (c : BitVec 4) (o : BitVec 2), Statement (.lamoAnd z d a i c o)) ∧
    (∀ (z : BitVec 1) (d : BitVec 4) (a : BitVec 4) (i : BitVec 4) (c : BitVec 4) (o : BitVec 2), Statement (.lamoOr z d a i c o)) ∧
    (∀ (z : BitVec 1) (d : BitVec 4) (a : BitVec 4) (i : BitVec 4) (c : BitVec 4) (o : BitVec 2), Statement (.lamoXor z d a i c o)) ∧
    (∀ (z : BitVec 1) (d : BitVec 4) (a : BitVec 4) (i : BitVec 4) (c : BitVec 4) (o : BitVec 2), Statement (.lamoMin z d a i c o)) ∧
    (∀ (z : BitVec 1) (d : BitVec 4) (a : BitVec 4) (i : BitVec 4) (c : BitVec 4) (o : BitVec 2), Statement (.lamoMax z d a i c o)) ∧
    (∀ (z : BitVec 1) (d : BitVec 4) (a : BitVec 4) (i : BitVec 4) (c : BitVec 4) (o : BitVec 2), Statement (.lamoMinu z d a i c o)) ∧
    (∀ (z : BitVec 1) (d : BitVec 4) (a : BitVec 4) (i : BitVec 4) (c : BitVec 4) (o : BitVec 2), Statement (.lamoMaxu z d a i c o)) ∧
    (∀ (z : BitVec 1) (d : BitVec 4) (a : BitVec 4) (i : BitVec 4) (c : BitVec 4) (o : BitVec 2), Statement (.lamoSwap z d a i c o)) ∧
    (∀ (z : BitVec 1) (d : BitVec 4) (a : BitVec 4) (i : BitVec 4) (c : BitVec 4) (o : BitVec 2), Statement (.lamoCas z d a i c o)) ∧
    (∀ (d : BitVec 4) (a : BitVec 4) (i : BitVec 4) (c : BitVec 4) (o : BitVec 2), Statement (.lamoFadd d a i c o)) :=
  ⟨by intro z d a i c o; exact fun h => ⟨by rintro w ⟨⟩; exact roundTrip_of ((major_Lamo _ z (encA_major ..)).trans (by simp [candLamo])) rfl h, by rintro w ⟨⟩⟩,
    by intro z d a i c o; exact fun h => ⟨by rintro w ⟨⟩; exact roundTrip_of ((major_Lamo _ z (encA_major ..)).trans (by simp [candLamo])) rfl h, by rintro w ⟨⟩⟩,
    by intro z d a i c o; exact fun h => ⟨by rintro w ⟨⟩; exact roundTrip_of ((major_Lamo _ z (encA_major ..)).trans (by simp [candLamo])) rfl h, by rintro w ⟨⟩⟩,
    by intro z d a i c o; exact fun h => ⟨by rintro w ⟨⟩; exact roundTrip_of ((major_Lamo _ z (encA_major ..)).trans (by simp [candLamo])) rfl h, by rintro w ⟨⟩⟩,
    by intro z d a i c o; exact fun h => ⟨by rintro w ⟨⟩; exact roundTrip_of ((major_Lamo _ z (encA_major ..)).trans (by simp [candLamo])) rfl h, by rintro w ⟨⟩⟩,
    by intro z d a i c o; exact fun h => ⟨by rintro w ⟨⟩; exact roundTrip_of ((major_Lamo _ z (encA_major ..)).trans (by simp [candLamo])) rfl h, by rintro w ⟨⟩⟩,
    by intro z d a i c o; exact fun h => ⟨by rintro w ⟨⟩; exact roundTrip_of ((major_Lamo _ z (encA_major ..)).trans (by simp [candLamo])) rfl h, by rintro w ⟨⟩⟩,
    by intro z d a i c o; exact fun h => ⟨by rintro w ⟨⟩; exact roundTrip_of ((major_Lamo _ z (encA_major ..)).trans (by simp [candLamo])) rfl h, by rintro w ⟨⟩⟩,
    by intro z d a i c o; exact fun h => ⟨by rintro w ⟨⟩; exact roundTrip_of ((major_Lamo _ z (encA_major ..)).trans (by simp [candLamo])) rfl h, by rintro w ⟨⟩⟩,
    by intro z d a i c o; exact fun h => ⟨by rintro w ⟨⟩; exact roundTrip_of ((major_Lamo _ z (encA_major ..)).trans (by simp [candLamo])) rfl h, by rintro w ⟨⟩⟩,
    by intro d a i c o; exact fun h => ⟨by rintro w ⟨⟩; exact roundTrip_of ((major_Lamo _ 0#1 (encA_major ..)).trans (by simp [candLamo])) rfl h, by rintro w ⟨⟩⟩⟩

theorem roundTrip_vInt0 :
    (∀ (d : BitVec 4) (a : BitVec 4) (b : BitVec 4) (p : BitVec 3), Statement (.vaddI32 d a b p)) ∧
    (∀ (d : BitVec 4) (a : BitVec 4) (b : BitVec 4) (p : BitVec 3), Statement (.vsubI32 d a b p)) ∧
    (∀ (d : BitVec 4) (a : BitVec 4) (b : BitVec 4) (p : BitVec 3), Statement (.vmulI32 d a b p)) ∧
    (∀ (d : BitVec 4) (a : BitVec 4) (b : BitVec 4) (p : BitVec 3), Statement (.vmulhI32 d a b p)) ∧
    (∀ (d : BitVec 4) (a : BitVec 4) (b : BitVec 4) (p : BitVec 3), Statement (.vmulhU32 d a b p)) ∧
    (∀ (d : BitVec 4) (a : BitVec 4) (b : BitVec 4) (p : BitVec 3), Statement (.vminI32 d a b p)) ∧
    (∀ (d : BitVec 4) (a : BitVec 4) (b : BitVec 4) (p : BitVec 3), Statement (.vmaxI32 d a b p)) ∧
    (∀ (d : BitVec 4) (a : BitVec 4) (b : BitVec 4) (p : BitVec 3), Statement (.vminU32 d a b p)) ∧
    (∀ (d : BitVec 4) (a : BitVec 4) (b : BitVec 4) (p : BitVec 3), Statement (.vmaxU32 d a b p)) ∧
    (∀ (d : BitVec 4) (a : BitVec 4) (b : BitVec 4) (p : BitVec 3), Statement (.vaddsI32 d a b p)) ∧
    (∀ (d : BitVec 4) (a : BitVec 4) (b : BitVec 4) (p : BitVec 3), Statement (.vsubsI32 d a b p)) ∧
    (∀ (d : BitVec 4) (a : BitVec 4) (p : BitVec 3), Statement (.vabsI32 d a p)) :=
  ⟨by intro d a b p; exact fun h => ⟨by rintro w ⟨⟩; exact roundTrip_of ((major_VInt _ (by simp)).trans (by simp [candVInt])) rfl h, by rintro w ⟨⟩⟩,
    by intro d a b p; exact fun h => ⟨by rintro w ⟨⟩; exact roundTrip_of ((major_VInt _ (by simp)).trans (by simp [candVInt])) rfl h, by rintro w ⟨⟩⟩,
    by intro d a b p; exact fun h => ⟨by rintro w ⟨⟩; exact roundTrip_of ((major_VInt _ (by simp)).trans (by simp [candVInt])) rfl h, by rintro w ⟨⟩⟩,
    by intro d a b p; exact fun h => ⟨by rintro w ⟨⟩; exact roundTrip_of ((major_VInt _ (by simp)).trans (by simp [candVInt])) rfl h, by rintro w ⟨⟩⟩,
    by intro d a b p; exact fun h => ⟨by rintro w ⟨⟩; exact roundTrip_of ((major_VInt _ (by simp)).trans (by simp [candVInt])) rfl h, by rintro w ⟨⟩⟩,
    by intro d a b p; exact fun h => ⟨by rintro w ⟨⟩; exact roundTrip_of ((major_VInt _ (by simp)).trans (by simp [candVInt])) rfl h, by rintro w ⟨⟩⟩,
    by intro d a b p; exact fun h => ⟨by rintro w ⟨⟩; exact roundTrip_of ((major_VInt _ (by simp)).trans (by simp [candVInt])) rfl h, by rintro w ⟨⟩⟩,
    by intro d a b p; exact fun h => ⟨by rintro w ⟨⟩; exact roundTrip_of ((major_VInt _ (by simp)).trans (by simp [candVInt])) rfl h, by rintro w ⟨⟩⟩,
    by intro d a b p; exact fun h => ⟨by rintro w ⟨⟩; exact roundTrip_of ((major_VInt _ (by simp)).trans (by simp [candVInt])) rfl h, by rintro w ⟨⟩⟩,
    by intro d a b p; exact fun h => ⟨by rintro w ⟨⟩; exact roundTrip_of ((major_VInt _ (by simp)).trans (by simp [candVInt])) rfl h, by rintro w ⟨⟩⟩,
    by intro d a b p; exact fun h => ⟨by rintro w ⟨⟩; exact roundTrip_of ((major_VInt _ (by simp)).trans (by simp [candVInt])) rfl h, by rintro w ⟨⟩⟩,
    by intro d a p; exact fun h => ⟨by rintro w ⟨⟩; exact roundTrip_of ((major_VInt _ (by simp)).trans (by simp [candVInt])) rfl h, by rintro w ⟨⟩⟩⟩

theorem roundTrip_vInt1 :
    (∀ (d : BitVec 4) (a : BitVec 4) (p : BitVec 3), Statement (.vnegI32 d a p)) ∧
    (∀ (d : BitVec 4) (a : BitVec 4) (b : BitVec 4) (p : BitVec 3), Statement (.vand d a b p)) ∧
    (∀ (d : BitVec 4) (a : BitVec 4) (b : BitVec 4) (p : BitVec 3), Statement (.vor d a b p)) ∧
    (∀ (d : BitVec 4) (a : BitVec 4) (b : BitVec 4) (p : BitVec 3), Statement (.vxor d a b p)) ∧
    (∀ (d : BitVec 4) (a : BitVec 4) (b : BitVec 4) (p : BitVec 3), Statement (.vandn d a b p)) ∧
    (∀ (d : BitVec 4) (a : BitVec 4) (b : BitVec 4) (p : BitVec 3), Statement (.vsll d a b p)) ∧
    (∀ (d : BitVec 4) (a : BitVec 4) (b : BitVec 4) (p : BitVec 3), Statement (.vsrl d a b p)) ∧
    (∀ (d : BitVec 4) (a : BitVec 4) (b : BitVec 4) (p : BitVec 3), Statement (.vsra d a b p)) ∧
    (∀ (d : BitVec 4) (a : BitVec 4) (p : BitVec 3), Statement (.vmov d a p)) ∧
    (∀ (d : BitVec 4) (a : BitVec 4) (b : BitVec 4) (p : BitVec 3), Statement (.vsel d a b p)) ∧
    (∀ (d : BitVec 4) (a : BitVec 4) (p : BitVec 3), Statement (.vclz d a p)) ∧
    (∀ (d : BitVec 4) (a : BitVec 4) (p : BitVec 3), Statement (.vpopc d a p)) :=
  ⟨by intro d a p; exact fun h => ⟨by rintro w ⟨⟩; exact roundTrip_of ((major_VInt _ (by simp)).trans (by simp [candVInt])) rfl h, by rintro w ⟨⟩⟩,
    by intro d a b p; exact fun h => ⟨by rintro w ⟨⟩; exact roundTrip_of ((major_VInt _ (by simp)).trans (by simp [candVInt])) rfl h, by rintro w ⟨⟩⟩,
    by intro d a b p; exact fun h => ⟨by rintro w ⟨⟩; exact roundTrip_of ((major_VInt _ (by simp)).trans (by simp [candVInt])) rfl h, by rintro w ⟨⟩⟩,
    by intro d a b p; exact fun h => ⟨by rintro w ⟨⟩; exact roundTrip_of ((major_VInt _ (by simp)).trans (by simp [candVInt])) rfl h, by rintro w ⟨⟩⟩,
    by intro d a b p; exact fun h => ⟨by rintro w ⟨⟩; exact roundTrip_of ((major_VInt _ (by simp)).trans (by simp [candVInt])) rfl h, by rintro w ⟨⟩⟩,
    by intro d a b p; exact fun h => ⟨by rintro w ⟨⟩; exact roundTrip_of ((major_VInt _ (by simp)).trans (by simp [candVInt])) rfl h, by rintro w ⟨⟩⟩,
    by intro d a b p; exact fun h => ⟨by rintro w ⟨⟩; exact roundTrip_of ((major_VInt _ (by simp)).trans (by simp [candVInt])) rfl h, by rintro w ⟨⟩⟩,
    by intro d a b p; exact fun h => ⟨by rintro w ⟨⟩; exact roundTrip_of ((major_VInt _ (by simp)).trans (by simp [candVInt])) rfl h, by rintro w ⟨⟩⟩,
    by intro d a p; exact fun h => ⟨by rintro w ⟨⟩; exact roundTrip_of ((major_VInt _ (by simp)).trans (by simp [candVInt])) rfl h, by rintro w ⟨⟩⟩,
    by intro d a b p; exact fun h => ⟨by rintro w ⟨⟩; exact roundTrip_of ((major_VInt _ (by simp)).trans (by simp [candVInt])) rfl h, by rintro w ⟨⟩⟩,
    by intro d a p; exact fun h => ⟨by rintro w ⟨⟩; exact roundTrip_of ((major_VInt _ (by simp)).trans (by simp [candVInt])) rfl h, by rintro w ⟨⟩⟩,
    by intro d a p; exact fun h => ⟨by rintro w ⟨⟩; exact roundTrip_of ((major_VInt _ (by simp)).trans (by simp [candVInt])) rfl h, by rintro w ⟨⟩⟩⟩

theorem roundTrip_vFp0 :
    (∀ (d : BitVec 4) (a : BitVec 4) (b : BitVec 4) (p : BitVec 3) (m : BitVec 3), Statement (.vaddF32 d a b p m)) ∧
    (∀ (d : BitVec 4) (a : BitVec 4) (b : BitVec 4) (p : BitVec 3) (m : BitVec 3), Statement (.vsubF32 d a b p m)) ∧
    (∀ (d : BitVec 4) (a : BitVec 4) (b : BitVec 4) (p : BitVec 3) (m : BitVec 3), Statement (.vmulF32 d a b p m)) ∧
    (∀ (d : BitVec 4) (a : BitVec 4) (b : BitVec 4) (c : BitVec 4) (p : BitVec 3) (m : BitVec 3), Statement (.vfmaF32 d a b c p m)) ∧
    (∀ (d : BitVec 4) (a : BitVec 4) (b : BitVec 4) (p : BitVec 3), Statement (.vminF32 d a b p)) ∧
    (∀ (d : BitVec 4) (a : BitVec 4) (b : BitVec 4) (p : BitVec 3), Statement (.vmaxF32 d a b p)) ∧
    (∀ (d : BitVec 4) (a : BitVec 4) (p : BitVec 3), Statement (.vabsF32 d a p)) ∧
    (∀ (d : BitVec 4) (a : BitVec 4) (p : BitVec 3), Statement (.vnegF32 d a p)) :=
  ⟨by intro d a b p m; exact fun h => ⟨by rintro w ⟨⟩; exact roundTrip_of ((major_VFp _ (by simp)).trans (by simp [candVFp])) rfl h, by rintro w ⟨⟩⟩,
    by intro d a b p m; exact fun h => ⟨by rintro w ⟨⟩; exact roundTrip_of ((major_VFp _ (by simp)).trans (by simp [candVFp])) rfl h, by rintro w ⟨⟩⟩,
    by intro d a b p m; exact fun h => ⟨by rintro w ⟨⟩; exact roundTrip_of ((major_VFp _ (by simp)).trans (by simp [candVFp])) rfl h, by rintro w ⟨⟩⟩,
    by intro d a b c p m; exact fun h => ⟨by rintro w ⟨⟩; exact roundTrip_of ((major_VFp _ (by simp)).trans (by simp [candVFp])) rfl h, by rintro w ⟨⟩⟩,
    by intro d a b p; exact fun h => ⟨by rintro w ⟨⟩; exact roundTrip_of ((major_VFp _ (by simp)).trans (by simp [candVFp, encN_26_3])) rfl h, by rintro w ⟨⟩⟩,
    by intro d a b p; exact fun h => ⟨by rintro w ⟨⟩; exact roundTrip_of ((major_VFp _ (by simp)).trans (by simp [candVFp, encN_26_3])) rfl h, by rintro w ⟨⟩⟩,
    by intro d a p; exact fun h => ⟨by rintro w ⟨⟩; exact roundTrip_of ((major_VFp _ (by simp)).trans (by simp [candVFp, encN_26_3])) rfl h, by rintro w ⟨⟩⟩,
    by intro d a p; exact fun h => ⟨by rintro w ⟨⟩; exact roundTrip_of ((major_VFp _ (by simp)).trans (by simp [candVFp, encN_26_3])) rfl h, by rintro w ⟨⟩⟩⟩

theorem roundTrip_vCvt0 :
    (∀ (d : BitVec 4) (a : BitVec 4) (f : BitVec 4) (p : BitVec 3) (m : BitVec 3), Statement (.vcvtNarrow d a f p m)) ∧
    (∀ (d : BitVec 4) (a : BitVec 4) (f : BitVec 4) (p : BitVec 3), Statement (.vcvtWiden d a f p)) ∧
    (∀ (d : BitVec 4) (a : BitVec 4) (p : BitVec 3) (m : BitVec 3), Statement (.vcvtI32F32 d a p m)) ∧
    (∀ (d : BitVec 4) (a : BitVec 4) (p : BitVec 3) (m : BitVec 3), Statement (.vcvtF32I32 d a p m)) ∧
    (∀ (d : BitVec 4) (a : BitVec 4) (f : BitVec 4) (p : BitVec 3) (m : BitVec 3), Statement (.vcvtsNarrow d a f p m)) :=
  ⟨by intro d a f p m; exact fun h => ⟨by rintro w ⟨⟩; exact roundTrip_of ((major_VCvt _ (by simp)).trans (by simp [candVCvt])) rfl h, by rintro w ⟨⟩⟩,
    by intro d a f p; exact fun h => ⟨by rintro w ⟨⟩; exact roundTrip_of ((major_VCvt _ (by simp)).trans (by simp [candVCvt, encN_26_3])) rfl h, by rintro w ⟨⟩⟩,
    by intro d a p m; exact fun h => ⟨by rintro w ⟨⟩; exact roundTrip_of ((major_VCvt _ (by simp)).trans (by simp [candVCvt])) rfl h, by rintro w ⟨⟩⟩,
    by intro d a p m; exact fun h => ⟨by rintro w ⟨⟩; exact roundTrip_of ((major_VCvt _ (by simp)).trans (by simp [candVCvt])) rfl h, by rintro w ⟨⟩⟩,
    by intro d a f p m; exact fun h => ⟨by rintro w ⟨⟩; exact roundTrip_of ((major_VCvt _ (by simp)).trans (by simp [candVCvt])) rfl h, by rintro w ⟨⟩⟩⟩

theorem roundTrip_vAx0 :
    (∀ (d : BitVec 4) (a : BitVec 4) (t : BitVec 2), Statement (.vsumRa d a t)) ∧
    (∀ (d : BitVec 4) (a : BitVec 4) (t : BitVec 2), Statement (.vsumCa d a t)) ∧
    (∀ (d : BitVec 4) (a : BitVec 4) (t : BitVec 2), Statement (.vmaxRa d a t)) ∧
    (∀ (d : BitVec 4) (a : BitVec 4) (t : BitVec 2), Statement (.vmaxCa d a t)) ∧
    (∀ (d : BitVec 4) (a : BitVec 4) (t : BitVec 2), Statement (.vminRa d a t)) ∧
    (∀ (d : BitVec 4) (a : BitVec 4) (t : BitVec 2), Statement (.vminCa d a t)) ∧
    (∀ (d : BitVec 4) (a : BitVec 4) (n : BitVec 6), Statement (.vrotRa d a n)) ∧
    (∀ (d : BitVec 4) (a : BitVec 4) (n : BitVec 4), Statement (.vrotCa d a n)) ∧
    (∀ (d : BitVec 4) (a : BitVec 4) (r : BitVec 4), Statement (.vbrow d a r)) ∧
    (∀ (d : BitVec 4) (a : BitVec 4) (c : BitVec 6), Statement (.vbcol d a c)) ∧
    (∀ (d : BitVec 4), Statement (.vidxR d)) ∧
    (∀ (d : BitVec 4), Statement (.vidxC d)) :=
  ⟨by intro d a t; exact fun h => ⟨by rintro w ⟨⟩; exact roundTrip_of ((major_VAx _ (by simp)).trans (by simp [candVAx])) rfl h, by rintro w ⟨⟩⟩,
    by intro d a t; exact fun h => ⟨by rintro w ⟨⟩; exact roundTrip_of ((major_VAx _ (by simp)).trans (by simp [candVAx])) rfl h, by rintro w ⟨⟩⟩,
    by intro d a t; exact fun h => ⟨by rintro w ⟨⟩; exact roundTrip_of ((major_VAx _ (by simp)).trans (by simp [candVAx])) rfl h, by rintro w ⟨⟩⟩,
    by intro d a t; exact fun h => ⟨by rintro w ⟨⟩; exact roundTrip_of ((major_VAx _ (by simp)).trans (by simp [candVAx])) rfl h, by rintro w ⟨⟩⟩,
    by intro d a t; exact fun h => ⟨by rintro w ⟨⟩; exact roundTrip_of ((major_VAx _ (by simp)).trans (by simp [candVAx])) rfl h, by rintro w ⟨⟩⟩,
    by intro d a t; exact fun h => ⟨by rintro w ⟨⟩; exact roundTrip_of ((major_VAx _ (by simp)).trans (by simp [candVAx])) rfl h, by rintro w ⟨⟩⟩,
    by intro d a n; exact fun h => ⟨by rintro w ⟨⟩; exact roundTrip_of ((major_VAx _ (by simp)).trans (by simp [candVAx])) rfl h, by rintro w ⟨⟩⟩,
    by intro d a n; exact fun h => ⟨by rintro w ⟨⟩; exact roundTrip_of ((major_VAx _ (by simp)).trans (by simp [candVAx])) rfl h, by rintro w ⟨⟩⟩,
    by intro d a r; exact fun h => ⟨by rintro w ⟨⟩; exact roundTrip_of ((major_VAx _ (by simp)).trans (by simp [candVAx])) rfl h, by rintro w ⟨⟩⟩,
    by intro d a c; exact fun h => ⟨by rintro w ⟨⟩; exact roundTrip_of ((major_VAx _ (by simp)).trans (by simp [candVAx])) rfl h, by rintro w ⟨⟩⟩,
    by intro d; exact fun h => ⟨by rintro w ⟨⟩; exact roundTrip_of ((major_VAx _ (by simp)).trans (by simp [candVAx])) rfl h, by rintro w ⟨⟩⟩,
    by intro d; exact fun h => ⟨by rintro w ⟨⟩; exact roundTrip_of ((major_VAx _ (by simp)).trans (by simp [candVAx])) rfl h, by rintro w ⟨⟩⟩⟩

theorem roundTrip_vAx1 :
    (∀ (d : BitVec 4) (a : BitVec 4) (r : BitVec 4) (c : BitVec 6), Statement (.vext d a r c)) ∧
    (∀ (d : BitVec 4) (a : BitVec 4) (r : BitVec 4) (c : BitVec 6), Statement (.vins d a r c)) ∧
    (∀ (d : BitVec 4) (a : BitVec 4), Statement (.vbcast d a)) :=
  ⟨by intro d a r c; exact fun h => ⟨by rintro w ⟨⟩; exact roundTrip_of ((major_VAx _ (by simp)).trans (by simp [candVAx])) rfl h, by rintro w ⟨⟩⟩,
    by intro d a r c; exact fun h => ⟨by rintro w ⟨⟩; exact roundTrip_of ((major_VAx _ (by simp)).trans (by simp [candVAx])) rfl h, by rintro w ⟨⟩⟩,
    by intro d a; exact fun h => ⟨by rintro w ⟨⟩; exact roundTrip_of ((major_VAx _ (by simp)).trans (by simp [candVAx])) rfl h, by rintro w ⟨⟩⟩⟩

theorem roundTrip_vPred0 :
    (∀ (d : BitVec 3) (a : BitVec 4) (b : BitVec 4) (p : BitVec 3) (c : BitVec 3) (t : BitVec 3), Statement (.vcmp d a b p c t)) ∧
    (∀ (d : BitVec 3) (a : BitVec 3) (b : BitVec 3), Statement (.pand d a b)) ∧
    (∀ (d : BitVec 3) (a : BitVec 3) (b : BitVec 3), Statement (.por d a b)) ∧
    (∀ (d : BitVec 3) (a : BitVec 3) (b : BitVec 3), Statement (.pxor d a b)) ∧
    (∀ (d : BitVec 3) (a : BitVec 3) (b : BitVec 3), Statement (.pandn d a b)) ∧
    (∀ (d : BitVec 3) (a : BitVec 3), Statement (.pnot d a)) ∧
    (∀ (a : BitVec 3), Statement (.vany a)) ∧
    (∀ (a : BitVec 3), Statement (.vall a)) ∧
    (∀ (d : BitVec 4) (a : BitVec 3), Statement (.pcnt d a)) ∧
    (∀ (d : BitVec 3) (a : BitVec 3), Statement (.pmov d a)) :=
  ⟨by intro d a b p c t; exact fun h => ⟨by rintro w ⟨⟩; exact roundTrip_of (cand_vcmp d a b p c t h) rfl h, by rintro w ⟨⟩⟩,
    by intro d a b; exact fun h => ⟨by rintro w ⟨⟩; exact roundTrip_of ((major_VPred _ (by simp)).trans (by simp [candVPred])) rfl h, by rintro w ⟨⟩⟩,
    by intro d a b; exact fun h => ⟨by rintro w ⟨⟩; exact roundTrip_of ((major_VPred _ (by simp)).trans (by simp [candVPred])) rfl h, by rintro w ⟨⟩⟩,
    by intro d a b; exact fun h => ⟨by rintro w ⟨⟩; exact roundTrip_of ((major_VPred _ (by simp)).trans (by simp [candVPred])) rfl h, by rintro w ⟨⟩⟩,
    by intro d a b; exact fun h => ⟨by rintro w ⟨⟩; exact roundTrip_of ((major_VPred _ (by simp)).trans (by simp [candVPred])) rfl h, by rintro w ⟨⟩⟩,
    by intro d a; exact fun h => ⟨by rintro w ⟨⟩; exact roundTrip_of ((major_VPred _ (by simp)).trans (by simp [candVPred])) rfl h, by rintro w ⟨⟩⟩,
    by intro a; exact fun h => ⟨by rintro w ⟨⟩; exact roundTrip_of ((major_VPred _ (by simp)).trans (by simp [candVPred])) rfl h, by rintro w ⟨⟩⟩,
    by intro a; exact fun h => ⟨by rintro w ⟨⟩; exact roundTrip_of ((major_VPred _ (by simp)).trans (by simp [candVPred])) rfl h, by rintro w ⟨⟩⟩,
    by intro d a; exact fun h => ⟨by rintro w ⟨⟩; exact roundTrip_of ((major_VPred _ (by simp)).trans (by simp [candVPred])) rfl h, by rintro w ⟨⟩⟩,
    by intro d a; exact fun h => ⟨by rintro w ⟨⟩; exact roundTrip_of ((major_VPred _ (by simp)).trans (by simp [candVPred])) rfl h, by rintro w ⟨⟩⟩⟩

theorem roundTrip_vSf0 :
    (∀ (d : BitVec 4) (a : BitVec 4) (p : BitVec 3) (g : BitVec 1), Statement (.vrcp d a p g)) ∧
    (∀ (d : BitVec 4) (a : BitVec 4) (p : BitVec 3) (g : BitVec 1), Statement (.vrsqrt d a p g)) ∧
    (∀ (d : BitVec 4) (a : BitVec 4) (p : BitVec 3) (g : BitVec 1), Statement (.vsqrt d a p g)) ∧
    (∀ (d : BitVec 4) (a : BitVec 4) (p : BitVec 3) (g : BitVec 1), Statement (.vexp2 d a p g)) ∧
    (∀ (d : BitVec 4) (a : BitVec 4) (p : BitVec 3) (g : BitVec 1), Statement (.vlog2 d a p g)) ∧
    (∀ (d : BitVec 4) (a : BitVec 4) (p : BitVec 3) (g : BitVec 1), Statement (.vexp d a p g)) ∧
    (∀ (d : BitVec 4) (a : BitVec 4) (p : BitVec 3) (g : BitVec 1), Statement (.vtanh d a p g)) ∧
    (∀ (d : BitVec 4) (a : BitVec 4) (p : BitVec 3) (g : BitVec 1), Statement (.vsigm d a p g)) ∧
    (∀ (d : BitVec 4) (a : BitVec 4) (p : BitVec 3) (g : BitVec 1), Statement (.vsin d a p g)) ∧
    (∀ (d : BitVec 4) (a : BitVec 4) (p : BitVec 3) (g : BitVec 1), Statement (.vcos d a p g)) ∧
    (∀ (d : BitVec 4) (a : BitVec 4) (p : BitVec 3) (g : BitVec 1), Statement (.verf d a p g)) :=
  ⟨by intro d a p g; exact fun h => ⟨by rintro w ⟨⟩; exact roundTrip_of ((major_VSf _ (by simp)).trans (by simp [candVSf])) rfl h, by rintro w ⟨⟩⟩,
    by intro d a p g; exact fun h => ⟨by rintro w ⟨⟩; exact roundTrip_of ((major_VSf _ (by simp)).trans (by simp [candVSf])) rfl h, by rintro w ⟨⟩⟩,
    by intro d a p g; exact fun h => ⟨by rintro w ⟨⟩; exact roundTrip_of ((major_VSf _ (by simp)).trans (by simp [candVSf])) rfl h, by rintro w ⟨⟩⟩,
    by intro d a p g; exact fun h => ⟨by rintro w ⟨⟩; exact roundTrip_of ((major_VSf _ (by simp)).trans (by simp [candVSf])) rfl h, by rintro w ⟨⟩⟩,
    by intro d a p g; exact fun h => ⟨by rintro w ⟨⟩; exact roundTrip_of ((major_VSf _ (by simp)).trans (by simp [candVSf])) rfl h, by rintro w ⟨⟩⟩,
    by intro d a p g; exact fun h => ⟨by rintro w ⟨⟩; exact roundTrip_of ((major_VSf _ (by simp)).trans (by simp [candVSf])) rfl h, by rintro w ⟨⟩⟩,
    by intro d a p g; exact fun h => ⟨by rintro w ⟨⟩; exact roundTrip_of ((major_VSf _ (by simp)).trans (by simp [candVSf])) rfl h, by rintro w ⟨⟩⟩,
    by intro d a p g; exact fun h => ⟨by rintro w ⟨⟩; exact roundTrip_of ((major_VSf _ (by simp)).trans (by simp [candVSf])) rfl h, by rintro w ⟨⟩⟩,
    by intro d a p g; exact fun h => ⟨by rintro w ⟨⟩; exact roundTrip_of ((major_VSf _ (by simp)).trans (by simp [candVSf])) rfl h, by rintro w ⟨⟩⟩,
    by intro d a p g; exact fun h => ⟨by rintro w ⟨⟩; exact roundTrip_of ((major_VSf _ (by simp)).trans (by simp [candVSf])) rfl h, by rintro w ⟨⟩⟩,
    by intro d a p g; exact fun h => ⟨by rintro w ⟨⟩; exact roundTrip_of ((major_VSf _ (by simp)).trans (by simp [candVSf])) rfl h, by rintro w ⟨⟩⟩⟩

theorem roundTrip_vQ0 :
    (∀ (a : BitVec 4) (b : BitVec 4) (t : BitVec 2), Statement (.cmpt a b t)) ∧
    (∀ (d : BitVec 4) (a : BitVec 4) (t : BitVec 2) (f : BitVec 4), Statement (.vqnt d a t f)) ∧
    (∀ (d : BitVec 4) (a : BitVec 4) (t : BitVec 2) (f : BitVec 4), Statement (.vdqnt d a t f)) :=
  ⟨by intro a b t; exact fun h => ⟨by rintro w ⟨⟩; exact roundTrip_of ((major_VQ _ (by simp)).trans (by simp [candVQ])) rfl h, by rintro w ⟨⟩⟩,
    by intro d a t f; exact fun h => ⟨by rintro w ⟨⟩; exact roundTrip_of ((major_VQ _ (by simp)).trans (by simp [candVQ])) rfl h, by rintro w ⟨⟩⟩,
    by intro d a t f; exact fun h => ⟨by rintro w ⟨⟩; exact roundTrip_of ((major_VQ _ (by simp)).trans (by simp [candVQ])) rfl h, by rintro w ⟨⟩⟩⟩

theorem roundTrip_vMem0 :
    (∀ (d : BitVec 4) (a : BitVec 4) (b : BitVec 4) (p : BitVec 3), Statement (.vld d a b p)) ∧
    (∀ (d : BitVec 4) (a : BitVec 4) (b : BitVec 4) (p : BitVec 3), Statement (.vst d a b p)) ∧
    (∀ (d : BitVec 4) (a : BitVec 4) (p : BitVec 3), Statement (.vldL d a p)) ∧
    (∀ (d : BitVec 4) (a : BitVec 4) (p : BitVec 3), Statement (.vstL d a p)) :=
  ⟨by intro d a b p; exact fun h => ⟨by rintro w ⟨⟩; exact roundTrip_of ((major_VMem _ (by simp)).trans (by simp [candVMem])) rfl h, by rintro w ⟨⟩⟩,
    by intro d a b p; exact fun h => ⟨by rintro w ⟨⟩; exact roundTrip_of ((major_VMem _ (by simp)).trans (by simp [candVMem])) rfl h, by rintro w ⟨⟩⟩,
    by intro d a p; exact fun h => ⟨by rintro w ⟨⟩; exact roundTrip_of ((major_VMem _ (by simp)).trans (by simp [candVMem])) rfl h, by rintro w ⟨⟩⟩,
    by intro d a p; exact fun h => ⟨by rintro w ⟨⟩; exact roundTrip_of ((major_VMem _ (by simp)).trans (by simp [candVMem])) rfl h, by rintro w ⟨⟩⟩⟩

theorem roundTrip_engine0 :
    Statement .nop ∧
    (∀ (n : BitVec 5), Statement (.sval n)) ∧
    (∀ (n : BitVec 4), Statement (.ktok n)) ∧
    Statement .atStamp ∧
    Statement .gate ∧
    Statement .dup ∧
    Statement .drop ∧
    Statement .swap ∧
    (∀ (n : BitVec 14), Statement (.lit n)) ∧
    (∀ (n : BitVec 14), Statement (.litx n)) ∧
    (∀ (z : BitVec 1), Statement (.mma z)) ∧
    (∀ (z : BitVec 1), Statement (.mmaSp z)) :=
  ⟨by exact fun h => ⟨by rintro w ⟨⟩, by rintro w ⟨⟩; decide⟩,
    by intro n; exact fun h => ⟨by rintro w ⟨⟩, by rintro w ⟨⟩; revert h; decide +revert⟩,
    by intro n; exact fun h => ⟨by rintro w ⟨⟩, by rintro w ⟨⟩; revert h; decide +revert⟩,
    by exact fun h => ⟨by rintro w ⟨⟩, by rintro w ⟨⟩; decide⟩,
    by exact fun h => ⟨by rintro w ⟨⟩, by rintro w ⟨⟩; decide⟩,
    by exact fun h => ⟨by rintro w ⟨⟩, by rintro w ⟨⟩; decide⟩,
    by exact fun h => ⟨by rintro w ⟨⟩, by rintro w ⟨⟩; decide⟩,
    by exact fun h => ⟨by rintro w ⟨⟩, by rintro w ⟨⟩; decide⟩,
    by intro n; exact fun h => ⟨by rintro w ⟨⟩, by rintro w ⟨⟩; exact engine_roundTrip_of (cand_lit _) rfl h⟩,
    by intro n; exact fun h => ⟨by rintro w ⟨⟩, by rintro w ⟨⟩; exact engine_roundTrip_of (cand_litx _) rfl h⟩,
    by intro z; exact fun h => ⟨by rintro w ⟨⟩, by rintro w ⟨⟩; revert h; decide +revert⟩,
    by intro z; exact fun h => ⟨by rintro w ⟨⟩, by rintro w ⟨⟩; revert h; decide +revert⟩⟩

theorem roundTrip_engine1 :
    (∀ (c : BitVec 1), Statement (.mwb c)) ∧
    Statement .copy1d ∧
    (∀ (n : BitVec 3), Statement (.copyNd n)) ∧
    (∀ (e : BitVec 3), Statement (.gather e)) ∧
    (∀ (e : BitVec 3), Statement (.scatter e)) ∧
    Statement .wbfill ∧
    (∀ (t : BitVec 2) (o : BitVec 2), Statement (.collAr t o)) ∧
    (∀ (t : BitVec 2) (o : BitVec 2), Statement (.collRs t o)) ∧
    (∀ (t : BitVec 2), Statement (.collAg t)) ∧
    Statement .lrst ∧
    Statement .ldly ∧
    Statement .lwin :=
  ⟨by intro c; exact fun h => ⟨by rintro w ⟨⟩, by rintro w ⟨⟩; revert h; decide +revert⟩,
    by exact fun h => ⟨by rintro w ⟨⟩, by rintro w ⟨⟩; decide⟩,
    by intro n; exact fun h => ⟨by rintro w ⟨⟩, by rintro w ⟨⟩; revert h; decide +revert⟩,
    by intro e; exact fun h => ⟨by rintro w ⟨⟩, by rintro w ⟨⟩; revert h; decide +revert⟩,
    by intro e; exact fun h => ⟨by rintro w ⟨⟩, by rintro w ⟨⟩; revert h; decide +revert⟩,
    by exact fun h => ⟨by rintro w ⟨⟩, by rintro w ⟨⟩; decide⟩,
    by intro t o; exact fun h => ⟨by rintro w ⟨⟩, by rintro w ⟨⟩; revert h; decide +revert⟩,
    by intro t o; exact fun h => ⟨by rintro w ⟨⟩, by rintro w ⟨⟩; revert h; decide +revert⟩,
    by intro t; exact fun h => ⟨by rintro w ⟨⟩, by rintro w ⟨⟩; revert h; decide +revert⟩,
    by exact fun h => ⟨by rintro w ⟨⟩, by rintro w ⟨⟩; decide⟩,
    by exact fun h => ⟨by rintro w ⟨⟩, by rintro w ⟨⟩; decide⟩,
    by exact fun h => ⟨by rintro w ⟨⟩, by rintro w ⟨⟩; decide⟩⟩

theorem roundTrip_engine2 :
    Statement .llaunchMin ∧
    Statement .llaunchMax ∧
    Statement .lcapV ∧
    (∀ (k : BitVec 7), Statement (.lcapO k)) :=
  ⟨by exact fun h => ⟨by rintro w ⟨⟩, by rintro w ⟨⟩; decide⟩,
    by exact fun h => ⟨by rintro w ⟨⟩, by rintro w ⟨⟩; decide⟩,
    by exact fun h => ⟨by rintro w ⟨⟩, by rintro w ⟨⟩; decide⟩,
    by intro k; exact fun h => ⟨by rintro w ⟨⟩, by rintro w ⟨⟩; revert h; decide +revert⟩⟩

theorem roundTrip_event0 :
    (∀ (core : Nat), Statement (.svcTime core)) ∧
    (∀ (core : Nat), Statement (.svcLog core)) ∧
    (∀ (core : Nat), Statement (.svcLimit core)) ∧
    (∀ (core : Nat), Statement (.svcUnassigned core)) ∧
    (∀ (part : Nat) (count : Nat), Statement (.telemetryLogDrain part count)) ∧
    (∀ (n : BitVec 4), Statement (.counterWrap n)) ∧
    Statement .watchInstalled ∧
    Statement .vigil ∧
    (∀ (task : Nat), Statement (.equinoxRelease task)) ∧
    (∀ (cluster : Nat) (id : BitVec 5) (pos : BitVec 3), Statement (.barHeldArrival cluster id pos)) ∧
    (∀ (core : Nat) (act : XlatAction), Statement (.xlatFaultResolution core act)) ∧
    Statement .writeExposure :=
  ⟨by intro core; exact fun h => ⟨by rintro w ⟨⟩, by rintro w ⟨⟩⟩,
    by intro core; exact fun h => ⟨by rintro w ⟨⟩, by rintro w ⟨⟩⟩,
    by intro core; exact fun h => ⟨by rintro w ⟨⟩, by rintro w ⟨⟩⟩,
    by intro core; exact fun h => ⟨by rintro w ⟨⟩, by rintro w ⟨⟩⟩,
    by intro part count; exact fun h => ⟨by rintro w ⟨⟩, by rintro w ⟨⟩⟩,
    by intro n; exact fun h => ⟨by rintro w ⟨⟩, by rintro w ⟨⟩⟩,
    by exact fun h => ⟨by rintro w ⟨⟩, by rintro w ⟨⟩⟩,
    by exact fun h => ⟨by rintro w ⟨⟩, by rintro w ⟨⟩⟩,
    by intro task; exact fun h => ⟨by rintro w ⟨⟩, by rintro w ⟨⟩⟩,
    by intro cluster id pos; exact fun h => ⟨by rintro w ⟨⟩, by rintro w ⟨⟩⟩,
    by intro core act; exact fun h => ⟨by rintro w ⟨⟩, by rintro w ⟨⟩⟩,
    by exact fun h => ⟨by rintro w ⟨⟩, by rintro w ⟨⟩⟩⟩

theorem roundTrip_event1 :
    (∀ (id : Nat), Statement (.localStorePerformed id)) ∧
    (∀ (id : Nat), Statement (.tokenStorePerformed id)) ∧
    (∀ (src : Nat) (dst : Nat), Statement (.exportedStoreApply src dst)) ∧
    (∀ (id : Nat), Statement (.loadDataReturn id)) ∧
    Statement .poison ∧
    Statement .integrity ∧
    Statement .tfcMissFill ∧
    (∀ (id : Nat), Statement (.atomicApply id)) ∧
    (∀ (id : Nat), Statement (.atomicResultReturn id)) ∧
    (∀ (id : Nat), Statement (.waitaRegister id)) ∧
    Statement .waitaTimeout ∧
    (∀ (id : Nat), Statement (.localAtomicApply id)) :=
  ⟨by intro id; exact fun h => ⟨by rintro w ⟨⟩, by rintro w ⟨⟩⟩,
    by intro id; exact fun h => ⟨by rintro w ⟨⟩, by rintro w ⟨⟩⟩,
    by intro src dst; exact fun h => ⟨by rintro w ⟨⟩, by rintro w ⟨⟩⟩,
    by intro id; exact fun h => ⟨by rintro w ⟨⟩, by rintro w ⟨⟩⟩,
    by exact fun h => ⟨by rintro w ⟨⟩, by rintro w ⟨⟩⟩,
    by exact fun h => ⟨by rintro w ⟨⟩, by rintro w ⟨⟩⟩,
    by exact fun h => ⟨by rintro w ⟨⟩, by rintro w ⟨⟩⟩,
    by intro id; exact fun h => ⟨by rintro w ⟨⟩, by rintro w ⟨⟩⟩,
    by intro id; exact fun h => ⟨by rintro w ⟨⟩, by rintro w ⟨⟩⟩,
    by intro id; exact fun h => ⟨by rintro w ⟨⟩, by rintro w ⟨⟩⟩,
    by exact fun h => ⟨by rintro w ⟨⟩, by rintro w ⟨⟩⟩,
    by intro id; exact fun h => ⟨by rintro w ⟨⟩, by rintro w ⟨⟩⟩⟩

theorem roundTrip_event2 :
    (∀ (e : EngineId), Statement (.engineLaunchStart e)) ∧
    (∀ (id : Nat), Statement (.matrixComplete id)) ∧
    (∀ (id : Nat), Statement (.mwbComplete id)) ∧
    (∀ (id : Nat), Statement (.copyComplete id)) ∧
    (∀ (task : Nat) (group : Nat), Statement (.collectiveComplete task group)) ∧
    (∀ (id : Nat), Statement (.lanternComplete id)) ∧
    Statement .deferredReportDelivery ∧
    Statement .pcSample ∧
    (∀ (part : Nat) (die : Nat), Statement (.ringDrain part die)) ∧
    (∀ (part : Nat), Statement (.dispatchRound part)) ∧
    (∀ (task : Nat), Statement (.imageLoad task)) ∧
    (∀ (task : Nat), Statement (.tlimitExpiry task)) :=
  ⟨by intro e; exact fun h => ⟨by rintro w ⟨⟩, by rintro w ⟨⟩⟩,
    by intro id; exact fun h => ⟨by rintro w ⟨⟩, by rintro w ⟨⟩⟩,
    by intro id; exact fun h => ⟨by rintro w ⟨⟩, by rintro w ⟨⟩⟩,
    by intro id; exact fun h => ⟨by rintro w ⟨⟩, by rintro w ⟨⟩⟩,
    by intro task group; exact fun h => ⟨by rintro w ⟨⟩, by rintro w ⟨⟩⟩,
    by intro id; exact fun h => ⟨by rintro w ⟨⟩, by rintro w ⟨⟩⟩,
    by exact fun h => ⟨by rintro w ⟨⟩, by rintro w ⟨⟩⟩,
    by exact fun h => ⟨by rintro w ⟨⟩, by rintro w ⟨⟩⟩,
    by intro part die; exact fun h => ⟨by rintro w ⟨⟩, by rintro w ⟨⟩⟩,
    by intro part; exact fun h => ⟨by rintro w ⟨⟩, by rintro w ⟨⟩⟩,
    by intro task; exact fun h => ⟨by rintro w ⟨⟩, by rintro w ⟨⟩⟩,
    by intro task; exact fun h => ⟨by rintro w ⟨⟩, by rintro w ⟨⟩⟩⟩

theorem roundTrip_event3 :
    (∀ (cluster : Nat), Statement (.preemptionRequest cluster)) ∧
    (∀ (cluster : Nat), Statement (.gangWithdraw cluster)) ∧
    Statement .contextSave ∧
    (∀ (core : Nat) (ctx : Nat), Statement (.contextRestore core ctx)) ∧
    (∀ (part : Nat) (queue : Nat) (msg : List (BitVec 8)), Statement (.tasks part queue msg)) ∧
    (∀ (part : Nat) (queue : Nat) (msg : List (BitVec 8)), Statement (.replay part queue msg)) ∧
    (∀ (part : Nat) (queue : Nat) (level : Nat) (weight : Nat) (ring : Nat), Statement (.queueCreate part queue level weight ring)) ∧
    (∀ (part : Nat) (queue : Nat), Statement (.queueDestroy part queue)) ∧
    (∀ (part : Nat) (tag : Nat) (queue : Nat) (msg : List (BitVec 8)) (bufLen : Nat) (bufVa : Nat) (rearm : Bool), Statement (.arm part tag queue msg bufLen bufVa rearm)) ∧
    (∀ (part : Nat) (tag : Nat), Statement (.disarm part tag)) ∧
    (∀ (part : Nat) (head payload : List (BitVec 8)), Statement (.fire part head payload)) ∧
    (∀ (part : Nat) (graph : Nat) (nodes : List NodeMessage), Statement (.graphDefine part graph nodes)) :=
  ⟨by intro cluster; exact fun h => ⟨by rintro w ⟨⟩, by rintro w ⟨⟩⟩,
    by intro cluster; exact fun h => ⟨by rintro w ⟨⟩, by rintro w ⟨⟩⟩,
    by exact fun h => ⟨by rintro w ⟨⟩, by rintro w ⟨⟩⟩,
    by intro core ctx; exact fun h => ⟨by rintro w ⟨⟩, by rintro w ⟨⟩⟩,
    by intro part queue msg; exact fun h => ⟨by rintro w ⟨⟩, by rintro w ⟨⟩⟩,
    by intro part queue msg; exact fun h => ⟨by rintro w ⟨⟩, by rintro w ⟨⟩⟩,
    by intro part queue level weight ring; exact fun h => ⟨by rintro w ⟨⟩, by rintro w ⟨⟩⟩,
    by intro part queue; exact fun h => ⟨by rintro w ⟨⟩, by rintro w ⟨⟩⟩,
    by intro part tag queue msg bufLen bufVa rearm; exact fun h => ⟨by rintro w ⟨⟩, by rintro w ⟨⟩⟩,
    by intro part tag; exact fun h => ⟨by rintro w ⟨⟩, by rintro w ⟨⟩⟩,
    by intro part head payload; exact fun h => ⟨by rintro w ⟨⟩, by rintro w ⟨⟩⟩,
    by intro part graph nodes; exact fun h => ⟨by rintro w ⟨⟩, by rintro w ⟨⟩⟩⟩

theorem roundTrip_event4 :
    (∀ (part : Nat) (graph : Nat) (node : Nat) (new : NodeMessage), Statement (.patch part graph node new)) ∧
    (∀ (task group : Nat) (setup : GroupSetup), Statement (.collectiveGroupCreate task group setup)) ∧
    (∀ (req : PartitionRequest), Statement (.partitionCreate req)) ∧
    (∀ (part : Nat) (nonce : BitVec 64), Statement (.partitionTeardown part nonce)) ∧
    Statement .journalAck ∧
    (∀ (fcore : Nat) (imem : Bool), Statement (.uncorrectableErrorReport fcore imem)) ∧
    Statement .takeover ∧
    (∀ (index : Nat), Statement (.jubileeSweep index)) ∧
    (∀ (core : Nat) (index : Nat), Statement (.tokenInvalidate core index)) ∧
    (∀ (core : Nat) (index : Nat), Statement (.sweepAck core index)) ∧
    (∀ (core : Nat) (index : Nat), Statement (.sweepAbort core index)) ∧
    (∀ (index : Nat), Statement (.sweepFree index)) :=
  ⟨by intro part graph node new; exact fun h => ⟨by rintro w ⟨⟩, by rintro w ⟨⟩⟩,
    by intro task group setup; exact fun h => ⟨by rintro w ⟨⟩, by rintro w ⟨⟩⟩,
    by intro req; exact fun h => ⟨by rintro w ⟨⟩, by rintro w ⟨⟩⟩,
    by intro part nonce; exact fun h => ⟨by rintro w ⟨⟩, by rintro w ⟨⟩⟩,
    by exact fun h => ⟨by rintro w ⟨⟩, by rintro w ⟨⟩⟩,
    by intro fcore imem; exact fun h => ⟨by rintro w ⟨⟩, by rintro w ⟨⟩⟩,
    by exact fun h => ⟨by rintro w ⟨⟩, by rintro w ⟨⟩⟩,
    by intro index; exact fun h => ⟨by rintro w ⟨⟩, by rintro w ⟨⟩⟩,
    by intro core index; exact fun h => ⟨by rintro w ⟨⟩, by rintro w ⟨⟩⟩,
    by intro core index; exact fun h => ⟨by rintro w ⟨⟩, by rintro w ⟨⟩⟩,
    by intro core index; exact fun h => ⟨by rintro w ⟨⟩, by rintro w ⟨⟩⟩,
    by intro index; exact fun h => ⟨by rintro w ⟨⟩, by rintro w ⟨⟩⟩⟩

theorem roundTrip_event5 :
    (∀ (index : Nat), Statement (.sealKeyRotation index)) ∧
    (∀ (part : Nat) (page : Nat) (dest : PagePlace), Statement (.pageMove part page dest)) ∧
    (∀ (pkg : Nat) (lo : Nat) (count : Nat), Statement (.lenderReclaim pkg lo count)) ∧
    (∀ (pkg : Nat) (lo : Nat) (count : Nat), Statement (.grantClose pkg lo count)) ∧
    (∀ (pkg : Nat) (lo : Nat) (count : Nat), Statement (.grantOpen pkg lo count)) ∧
    (∀ (frame : Nat) (world : World) (owner : FrameOwner) (mode : ProtMode), Statement (.potChange frame world owner mode)) ∧
    (∀ (req : RemoteRequest), Statement (.remoteRequestArrival req)) ∧
    (∀ (port : Nat) (dest : Nat) (seq : Nat), Statement (.remoteRetransmit port dest seq)) ∧
    (∀ (core : Nat) (id : Nat), Statement (.remoteRequestLost core id)) ∧
    (∀ (link : LinkEnd), Statement (.axtosTrainingStart link)) ∧
    (∀ (link : LinkEnd) (ok : Bool), Statement (.axtosTrainingDone link ok)) ∧
    (∀ (link : LinkEnd), Statement (.axtosKeysInstalled link)) :=
  ⟨by intro index; exact fun h => ⟨by rintro w ⟨⟩, by rintro w ⟨⟩⟩,
    by intro part page dest; exact fun h => ⟨by rintro w ⟨⟩, by rintro w ⟨⟩⟩,
    by intro pkg lo count; exact fun h => ⟨by rintro w ⟨⟩, by rintro w ⟨⟩⟩,
    by intro pkg lo count; exact fun h => ⟨by rintro w ⟨⟩, by rintro w ⟨⟩⟩,
    by intro pkg lo count; exact fun h => ⟨by rintro w ⟨⟩, by rintro w ⟨⟩⟩,
    by intro frame world owner mode; exact fun h => ⟨by rintro w ⟨⟩, by rintro w ⟨⟩⟩,
    by intro req; exact fun h => ⟨by rintro w ⟨⟩, by rintro w ⟨⟩⟩,
    by intro port dest seq; exact fun h => ⟨by rintro w ⟨⟩, by rintro w ⟨⟩⟩,
    by intro core id; exact fun h => ⟨by rintro w ⟨⟩, by rintro w ⟨⟩⟩,
    by intro link; exact fun h => ⟨by rintro w ⟨⟩, by rintro w ⟨⟩⟩,
    by intro link ok; exact fun h => ⟨by rintro w ⟨⟩, by rintro w ⟨⟩⟩,
    by intro link; exact fun h => ⟨by rintro w ⟨⟩, by rintro w ⟨⟩⟩⟩

theorem roundTrip_event6 :
    (∀ (port : Nat) (seq : BitVec 16) (sealed : FlitSeal) (intact : Bool) (note : Option LinkNote), Statement (.flitReceive port seq sealed intact note)) ∧
    (∀ (port : Nat) (seq : BitVec 16), Statement (.linkRetry port seq)) ∧
    (∀ (link : LinkEnd), Statement (.rekeyTimeout link)) ∧
    (∀ (peer : SpdmPeer) (algsOk : Bool) (measurement : Nat), Statement (.spdmSession peer algsOk measurement)) ∧
    (∀ (part : Nat) (switch : Nat), Statement (.jobKeyGrant part switch)) ∧
    (∀ (part : Nat) (loss : KeyLoss), Statement (.jobKeyWithdraw part loss)) ∧
    (∀ (peer : Nat) (opts : UetOptions), Statement (.uetConnectionSetup peer opts)) ∧
    (∀ (source : PtpSource), Statement (.ptpLock source)) ∧
    Statement .ptpSourceLoss ∧
    (∀ (vcore : VirtualCore) (value : BitVec 64), Statement (.samplecfgWrite vcore value)) ∧
    (∀ (core : Nat) (value : BitVec 2), Statement (.debugRequest core value)) ∧
    (∀ (cores : List Nat) (cycle : Nat), Statement (.scheduleStopArm cores cycle)) :=
  ⟨by intro port seq sealed intact note; exact fun h => ⟨by rintro w ⟨⟩, by rintro w ⟨⟩⟩,
    by intro port seq; exact fun h => ⟨by rintro w ⟨⟩, by rintro w ⟨⟩⟩,
    by intro link; exact fun h => ⟨by rintro w ⟨⟩, by rintro w ⟨⟩⟩,
    by intro peer algsOk measurement; exact fun h => ⟨by rintro w ⟨⟩, by rintro w ⟨⟩⟩,
    by intro part switch; exact fun h => ⟨by rintro w ⟨⟩, by rintro w ⟨⟩⟩,
    by intro part loss; exact fun h => ⟨by rintro w ⟨⟩, by rintro w ⟨⟩⟩,
    by intro peer opts; exact fun h => ⟨by rintro w ⟨⟩, by rintro w ⟨⟩⟩,
    by intro source; exact fun h => ⟨by rintro w ⟨⟩, by rintro w ⟨⟩⟩,
    by exact fun h => ⟨by rintro w ⟨⟩, by rintro w ⟨⟩⟩,
    by intro vcore value; exact fun h => ⟨by rintro w ⟨⟩, by rintro w ⟨⟩⟩,
    by intro core value; exact fun h => ⟨by rintro w ⟨⟩, by rintro w ⟨⟩⟩,
    by intro cores cycle; exact fun h => ⟨by rintro w ⟨⟩, by rintro w ⟨⟩⟩⟩

theorem roundTrip_event7 :
    Statement .scheduleCycleStop ∧
    (∀ (core : Nat), Statement (.stopResume core)) ∧
    (∀ (core : Nat), Statement (.liveDump core)) ∧
    (∀ (img : FirmwareImage), Statement (.firmwareImage img)) ∧
    (∀ (req : OwnerRequest), Statement (.transfer req)) ∧
    (∀ (req : OwnerRequest), Statement (.enrol req)) ∧
    (∀ (die : Nat) (celsius : Nat), Statement (.thermalStop die celsius)) ∧
    (∀ (celsius : List Nat), Statement (.thermalResume celsius)) ∧
    (∀ (die : Nat) (celsius : Nat), Statement (.thermalTrip die celsius)) ∧
    (∀ (env : BootEnv), Statement (.powerOn env)) ∧
    (∀ (env : BootEnv), Statement (.moduleReset env)) ∧
    (∀ (img : FirmwareImage), Statement (.recovery img)) :=
  ⟨by exact fun h => ⟨by rintro w ⟨⟩, by rintro w ⟨⟩⟩,
    by intro core; exact fun h => ⟨by rintro w ⟨⟩, by rintro w ⟨⟩⟩,
    by intro core; exact fun h => ⟨by rintro w ⟨⟩, by rintro w ⟨⟩⟩,
    by intro img; exact fun h => ⟨by rintro w ⟨⟩, by rintro w ⟨⟩⟩,
    by intro req; exact fun h => ⟨by rintro w ⟨⟩, by rintro w ⟨⟩⟩,
    by intro req; exact fun h => ⟨by rintro w ⟨⟩, by rintro w ⟨⟩⟩,
    by intro die celsius; exact fun h => ⟨by rintro w ⟨⟩, by rintro w ⟨⟩⟩,
    by intro celsius; exact fun h => ⟨by rintro w ⟨⟩, by rintro w ⟨⟩⟩,
    by intro die celsius; exact fun h => ⟨by rintro w ⟨⟩, by rintro w ⟨⟩⟩,
    by intro env; exact fun h => ⟨by rintro w ⟨⟩, by rintro w ⟨⟩⟩,
    by intro env; exact fun h => ⟨by rintro w ⟨⟩, by rintro w ⟨⟩⟩,
    by intro img; exact fun h => ⟨by rintro w ⟨⟩, by rintro w ⟨⟩⟩⟩

theorem roundTrip_event8 :
    Statement .ptpSourceRegained ∧
    (∀ (link : LinkEnd), Statement (.rekeyComplete link)) ∧
    (∀ (pkg : Nat) (lo : Nat) (count : Nat), Statement (.reclaimCompletion pkg lo count)) ∧
    (∀ (pkg : Nat) (port : Nat) (dest : Nat) (seq : Nat), Statement (.cumulativeAcknowledgement pkg port dest seq)) ∧
    (∀ (word : BitVec 32), Statement (.reservedEncoding word)) ∧
    (∀ (word : BitVec 16), Statement (.reservedEngineWord word)) :=
  ⟨by exact fun h => ⟨by rintro w ⟨⟩, by rintro w ⟨⟩⟩,
    by intro link; exact fun h => ⟨by rintro w ⟨⟩, by rintro w ⟨⟩⟩,
    by intro pkg lo count; exact fun h => ⟨by rintro w ⟨⟩, by rintro w ⟨⟩⟩,
    by intro pkg port dest seq; exact fun h => ⟨by rintro w ⟨⟩, by rintro w ⟨⟩⟩,
    by intro word; exact fun h => ⟨by rintro w ⟨⟩, by rintro w ⟨⟩⟩,
    by intro word; exact fun h => ⟨by rintro w ⟨⟩, by rintro w ⟨⟩⟩⟩

theorem add (d : BitVec 5) (a : BitVec 5) (b : BitVec 5) : Statement (.add d a b) := roundTrip_alu0.1 d a b

theorem sub (d : BitVec 5) (a : BitVec 5) (b : BitVec 5) : Statement (.sub d a b) := roundTrip_alu0.2.1 d a b

theorem and (d : BitVec 5) (a : BitVec 5) (b : BitVec 5) : Statement (.and d a b) := roundTrip_alu0.2.2.1 d a b

theorem or (d : BitVec 5) (a : BitVec 5) (b : BitVec 5) : Statement (.or d a b) := roundTrip_alu0.2.2.2.1 d a b

theorem xor (d : BitVec 5) (a : BitVec 5) (b : BitVec 5) : Statement (.xor d a b) := roundTrip_alu0.2.2.2.2.1 d a b

theorem andn (d : BitVec 5) (a : BitVec 5) (b : BitVec 5) : Statement (.andn d a b) := roundTrip_alu0.2.2.2.2.2.1 d a b

theorem orn (d : BitVec 5) (a : BitVec 5) (b : BitVec 5) : Statement (.orn d a b) := roundTrip_alu0.2.2.2.2.2.2.1 d a b

theorem xnor (d : BitVec 5) (a : BitVec 5) (b : BitVec 5) : Statement (.xnor d a b) := roundTrip_alu0.2.2.2.2.2.2.2.1 d a b

theorem sll (d : BitVec 5) (a : BitVec 5) (b : BitVec 5) : Statement (.sll d a b) := roundTrip_alu0.2.2.2.2.2.2.2.2.1 d a b

theorem srl (d : BitVec 5) (a : BitVec 5) (b : BitVec 5) : Statement (.srl d a b) := roundTrip_alu0.2.2.2.2.2.2.2.2.2.1 d a b

theorem sra (d : BitVec 5) (a : BitVec 5) (b : BitVec 5) : Statement (.sra d a b) := roundTrip_alu0.2.2.2.2.2.2.2.2.2.2.1 d a b

theorem rol (d : BitVec 5) (a : BitVec 5) (b : BitVec 5) : Statement (.rol d a b) := roundTrip_alu0.2.2.2.2.2.2.2.2.2.2.2 d a b

theorem ror (d : BitVec 5) (a : BitVec 5) (b : BitVec 5) : Statement (.ror d a b) := roundTrip_alu1.1 d a b

theorem mul (d : BitVec 5) (a : BitVec 5) (b : BitVec 5) : Statement (.mul d a b) := roundTrip_alu1.2.1 d a b

theorem mulh (d : BitVec 5) (a : BitVec 5) (b : BitVec 5) : Statement (.mulh d a b) := roundTrip_alu1.2.2.1 d a b

theorem mulhu (d : BitVec 5) (a : BitVec 5) (b : BitVec 5) : Statement (.mulhu d a b) := roundTrip_alu1.2.2.2.1 d a b

theorem div (d : BitVec 5) (a : BitVec 5) (b : BitVec 5) : Statement (.div d a b) := roundTrip_alu1.2.2.2.2.1 d a b

theorem divu (d : BitVec 5) (a : BitVec 5) (b : BitVec 5) : Statement (.divu d a b) := roundTrip_alu1.2.2.2.2.2.1 d a b

theorem rem (d : BitVec 5) (a : BitVec 5) (b : BitVec 5) : Statement (.rem d a b) := roundTrip_alu1.2.2.2.2.2.2.1 d a b

theorem remu (d : BitVec 5) (a : BitVec 5) (b : BitVec 5) : Statement (.remu d a b) := roundTrip_alu1.2.2.2.2.2.2.2.1 d a b

theorem min (d : BitVec 5) (a : BitVec 5) (b : BitVec 5) : Statement (.min d a b) := roundTrip_alu1.2.2.2.2.2.2.2.2.1 d a b

theorem max (d : BitVec 5) (a : BitVec 5) (b : BitVec 5) : Statement (.max d a b) := roundTrip_alu1.2.2.2.2.2.2.2.2.2.1 d a b

theorem minu (d : BitVec 5) (a : BitVec 5) (b : BitVec 5) : Statement (.minu d a b) := roundTrip_alu1.2.2.2.2.2.2.2.2.2.2.1 d a b

theorem maxu (d : BitVec 5) (a : BitVec 5) (b : BitVec 5) : Statement (.maxu d a b) := roundTrip_alu1.2.2.2.2.2.2.2.2.2.2.2 d a b

theorem clz (d : BitVec 5) (a : BitVec 5) : Statement (.clz d a) := roundTrip_alu2.1 d a

theorem ctz (d : BitVec 5) (a : BitVec 5) : Statement (.ctz d a) := roundTrip_alu2.2.1 d a

theorem popc (d : BitVec 5) (a : BitVec 5) : Statement (.popc d a) := roundTrip_alu2.2.2.1 d a

theorem bswap (d : BitVec 5) (a : BitVec 5) : Statement (.bswap d a) := roundTrip_alu2.2.2.2.1 d a

theorem brev (d : BitVec 5) (a : BitVec 5) : Statement (.brev d a) := roundTrip_alu2.2.2.2.2.1 d a

theorem sel (d : BitVec 5) (a : BitVec 5) (b : BitVec 5) : Statement (.sel d a b) := roundTrip_alu2.2.2.2.2.2 d a b

theorem addi (d : BitVec 5) (a : BitVec 5) (i : BitVec 12) : Statement (.addi d a i) := roundTrip_aluI0.1 d a i

theorem andi (d : BitVec 5) (a : BitVec 5) (i : BitVec 12) : Statement (.andi d a i) := roundTrip_aluI0.2.1 d a i

theorem ori (d : BitVec 5) (a : BitVec 5) (i : BitVec 12) : Statement (.ori d a i) := roundTrip_aluI0.2.2.1 d a i

theorem xori (d : BitVec 5) (a : BitVec 5) (i : BitVec 12) : Statement (.xori d a i) := roundTrip_aluI0.2.2.2.1 d a i

theorem slli (d : BitVec 5) (a : BitVec 5) (n : BitVec 6) : Statement (.slli d a n) := roundTrip_aluI0.2.2.2.2.1 d a n

theorem srli (d : BitVec 5) (a : BitVec 5) (n : BitVec 6) : Statement (.srli d a n) := roundTrip_aluI0.2.2.2.2.2.1 d a n

theorem srai (d : BitVec 5) (a : BitVec 5) (n : BitVec 6) : Statement (.srai d a n) := roundTrip_aluI0.2.2.2.2.2.2.1 d a n

theorem rori (d : BitVec 5) (a : BitVec 5) (n : BitVec 6) : Statement (.rori d a n) := roundTrip_aluI0.2.2.2.2.2.2.2 d a n

theorem movi (d : BitVec 5) (v : BitVec 17) (sh : BitVec 6) : Statement (.movi d v sh) := roundTrip_wide0.1 d v sh

theorem lut3 (d : BitVec 5) (a : BitVec 5) (b : BitVec 5) (c : BitVec 5) (tbl : BitVec 8) : Statement (.lut3 d a b c tbl) := roundTrip_wide0.2.1 d a b c tbl

theorem fsl (d : BitVec 5) (a : BitVec 5) (b : BitVec 5) (n : BitVec 6) : Statement (.fsl d a b n) := roundTrip_fun0.1 d a b n

theorem fsr (d : BitVec 5) (a : BitVec 5) (b : BitVec 5) (n : BitVec 6) : Statement (.fsr d a b n) := roundTrip_fun0.2 d a b n

theorem cmpEq (a : BitVec 5) (b : BitVec 5) : Statement (.cmpEq a b) := roundTrip_cmp0.1 a b

theorem cmpNe (a : BitVec 5) (b : BitVec 5) : Statement (.cmpNe a b) := roundTrip_cmp0.2.1 a b

theorem cmpLt (a : BitVec 5) (b : BitVec 5) : Statement (.cmpLt a b) := roundTrip_cmp0.2.2.1 a b

theorem cmpGe (a : BitVec 5) (b : BitVec 5) : Statement (.cmpGe a b) := roundTrip_cmp0.2.2.2.1 a b

theorem cmpLtu (a : BitVec 5) (b : BitVec 5) : Statement (.cmpLtu a b) := roundTrip_cmp0.2.2.2.2.1 a b

theorem cmpGeu (a : BitVec 5) (b : BitVec 5) : Statement (.cmpGeu a b) := roundTrip_cmp0.2.2.2.2.2.1 a b

theorem tst (a : BitVec 5) (b : BitVec 5) : Statement (.tst a b) := roundTrip_cmp0.2.2.2.2.2.2 a b

theorem cmpiEq (a : BitVec 5) (i : BitVec 12) : Statement (.cmpiEq a i) := roundTrip_cmpI0.1 a i

theorem cmpiNe (a : BitVec 5) (i : BitVec 12) : Statement (.cmpiNe a i) := roundTrip_cmpI0.2.1 a i

theorem cmpiLt (a : BitVec 5) (i : BitVec 12) : Statement (.cmpiLt a i) := roundTrip_cmpI0.2.2.1 a i

theorem cmpiGe (a : BitVec 5) (i : BitVec 12) : Statement (.cmpiGe a i) := roundTrip_cmpI0.2.2.2.1 a i

theorem cmpiLtu (a : BitVec 5) (i : BitVec 12) : Statement (.cmpiLtu a i) := roundTrip_cmpI0.2.2.2.2.1 a i

theorem cmpiGeu (a : BitVec 5) (i : BitVec 12) : Statement (.cmpiGeu a i) := roundTrip_cmpI0.2.2.2.2.2.1 a i

theorem tsti (a : BitVec 5) (i : BitVec 12) : Statement (.tsti a i) := roundTrip_cmpI0.2.2.2.2.2.2 a i

theorem ptg (t : BitVec 2) (i : BitVec 23) : Statement (.ptg t i) := roundTrip_wide0.2.2.1 t i

theorem br (t : BitVec 2) : Statement (.br t) := roundTrip_ctl0.1 t

theorem bz (t : BitVec 2) : Statement (.bz t) := roundTrip_ctl0.2.1 t

theorem call (t : BitVec 2) : Statement (.call t) := roundTrip_ctl0.2.2.1 t

theorem ret (n : BitVec 2) : Statement (.ret n) := roundTrip_ctl0.2.2.2.1 n

theorem ptr (t : BitVec 2) (a : BitVec 5) : Statement (.ptr t a) := roundTrip_ctl0.2.2.2.2.1 t a

theorem mfb (d : BitVec 5) (t : BitVec 2) : Statement (.mfb d t) := roundTrip_ctl0.2.2.2.2.2.1 d t

theorem mtl (a : BitVec 5) (x : BitVec 2) : Statement (.mtl a x) := roundTrip_ctl0.2.2.2.2.2.2.1 a x

theorem mfl (d : BitVec 5) (x : BitVec 2) : Statement (.mfl d x) := roundTrip_ctl0.2.2.2.2.2.2.2.1 d x

theorem loopPush : Statement .loopPush := roundTrip_ctl0.2.2.2.2.2.2.2.2.1

theorem loopPop : Statement .loopPop := roundTrip_ctl0.2.2.2.2.2.2.2.2.2.1

theorem mfbc (d : BitVec 5) : Statement (.mfbc d) := roundTrip_ctl0.2.2.2.2.2.2.2.2.2.2.1 d

theorem mtbc (a : BitVec 5) : Statement (.mtbc a) := roundTrip_ctl0.2.2.2.2.2.2.2.2.2.2.2 a

theorem loop (a : BitVec 5) (i : BitVec 12) : Statement (.loop a i) := roundTrip_loop0 a i

theorem endOp : Statement .endOp := roundTrip_sys0.1

theorem eret : Statement .eret := roundTrip_sys0.2.1

theorem trap (n : BitVec 5) : Statement (.trap n) := roundTrip_sys0.2.2.1 n

theorem svc (n : BitVec 5) : Statement (.svc n) := roundTrip_sys0.2.2.2.1 n

theorem mfc (d : BitVec 5) (y : BitVec 5) (x : BitVec 5) : Statement (.mfc d y x) := roundTrip_sys0.2.2.2.2.1 d y x

theorem mtc (a : BitVec 5) (y : BitVec 5) (x : BitVec 5) : Statement (.mtc a y x) := roundTrip_sys0.2.2.2.2.2.1 a y x

theorem ctrSel (a : BitVec 5) (n : BitVec 4) : Statement (.ctrSel a n) := roundTrip_sys0.2.2.2.2.2.2 a n

theorem yield (cnt : BitVec 12) (mask : BitVec 16) : Statement (.yield cnt mask) := roundTrip_wide0.2.2.2.1 cnt mask

theorem sync : Statement .sync := roundTrip_sync0.1

theorem alignEquinox : Statement .alignEquinox := roundTrip_sync0.2.1

theorem fenceCo : Statement .fenceCo := roundTrip_wide0.2.2.2.2.1

theorem fenceCl : Statement .fenceCl := roundTrip_wide0.2.2.2.2.2.1

theorem fenceDi : Statement .fenceDi := roundTrip_wide0.2.2.2.2.2.2.1

theorem fencePk : Statement .fencePk := roundTrip_wide0.2.2.2.2.2.2.2.1

theorem fenceDm : Statement .fenceDm := roundTrip_wide0.2.2.2.2.2.2.2.2.1

theorem tagWany (a : BitVec 5) : Statement (.tagWany a) := roundTrip_sync0.2.2.1 a

theorem tagWall (a : BitVec 5) : Statement (.tagWall a) := roundTrip_sync0.2.2.2.1 a

theorem tagFfr (d : BitVec 5) (a : BitVec 5) : Statement (.tagFfr d a) := roundTrip_sync0.2.2.2.2.1 d a

theorem tagClr (a : BitVec 5) : Statement (.tagClr a) := roundTrip_sync0.2.2.2.2.2.1 a

theorem barArrive (d : BitVec 5) (i : BitVec 5) : Statement (.barArrive d i) := roundTrip_sync0.2.2.2.2.2.2.1 d i

theorem barDrop (d : BitVec 5) (i : BitVec 5) : Statement (.barDrop d i) := roundTrip_sync0.2.2.2.2.2.2.2.1 d i

theorem barWait (a : BitVec 5) (i : BitVec 5) : Statement (.barWait a i) := roundTrip_sync0.2.2.2.2.2.2.2.2 a i

theorem enqM (a : BitVec 5) : Statement (.enqM a) := roundTrip_enq0.1 a

theorem enqC (a : BitVec 5) : Statement (.enqC a) := roundTrip_enq0.2.1 a

theorem enqL (a : BitVec 5) : Statement (.enqL a) := roundTrip_enq0.2.2.1 a

theorem fmtq (a : BitVec 5) : Statement (.fmtq a) := roundTrip_enq0.2.2.2 a

theorem xlat (k : BitVec 4) (a : BitVec 5) (b : BitVec 5) (r : BitVec 2) : Statement (.xlat k a b r) := roundTrip_tok0.1 k a b r

theorem kinfo (d : BitVec 5) (k : BitVec 4) (f : BitVec 5) : Statement (.kinfo d k f) := roundTrip_tok0.2.1 d k f

theorem kmov (j : BitVec 4) (k : BitVec 4) : Statement (.kmov j k) := roundTrip_tok0.2.2.1 j k

theorem ksub (j : BitVec 4) (k : BitVec 4) (o : BitVec 5) (l : BitVec 5) : Statement (.ksub j k o l) := roundTrip_tok0.2.2.2.1 j k o l

theorem kst (k : BitVec 4) (j : BitVec 4) (o : BitVec 5) : Statement (.kst k j o) := roundTrip_tok0.2.2.2.2.1 k j o

theorem kstL (k : BitVec 4) (b : BitVec 5) (i : BitVec 5) : Statement (.kstL k b i) := roundTrip_tok0.2.2.2.2.2.1 k b i

theorem kld (k : BitVec 4) (j : BitVec 4) (o : BitVec 5) : Statement (.kld k j o) := roundTrip_tok0.2.2.2.2.2.2.1 k j o

theorem kldL (k : BitVec 4) (b : BitVec 5) (i : BitVec 5) : Statement (.kldL k b i) := roundTrip_tok0.2.2.2.2.2.2.2.1 k b i

theorem kclr (k : BitVec 4) : Statement (.kclr k) := roundTrip_tok0.2.2.2.2.2.2.2.2.1 k

theorem krel (k : BitVec 4) : Statement (.krel k) := roundTrip_tok0.2.2.2.2.2.2.2.2.2 k

theorem ld (d : BitVec 5) (k : BitVec 4) (b : BitVec 5) (p : BitVec 3) (o : BitVec 2) (g : BitVec 1) (z : BitVec 2) : Statement (.ld d k b p o g z) := roundTrip_wide0.2.2.2.2.2.2.2.2.2.1 d k b p o g z

theorem st (d : BitVec 5) (k : BitVec 4) (b : BitVec 5) (p : BitVec 3) (o : BitVec 2) (z : BitVec 2) : Statement (.st d k b p o z) := roundTrip_wide0.2.2.2.2.2.2.2.2.2.2.1 d k b p o z

theorem lds (z : BitVec 2) (d : BitVec 5) (a : BitVec 5) (g : BitVec 1) (o : BitVec 2) (i : BitVec 11) : Statement (.lds z d a g o i) := roundTrip_wide0.2.2.2.2.2.2.2.2.2.2.2 z d a g o i

theorem sts (z : BitVec 2) (d : BitVec 5) (a : BitVec 5) (o : BitVec 2) (i : BitVec 11) : Statement (.sts z d a o i) := roundTrip_wide1 z d a o i

theorem amoAdd (z : BitVec 1) (d : BitVec 4) (k : BitVec 4) (b : BitVec 4) (c : BitVec 4) (p : BitVec 3) (o : BitVec 2) : Statement (.amoAdd z d k b c p o) := roundTrip_amo0.1 z d k b c p o

theorem amoAnd (z : BitVec 1) (d : BitVec 4) (k : BitVec 4) (b : BitVec 4) (c : BitVec 4) (p : BitVec 3) (o : BitVec 2) : Statement (.amoAnd z d k b c p o) := roundTrip_amo0.2.1 z d k b c p o

theorem amoOr (z : BitVec 1) (d : BitVec 4) (k : BitVec 4) (b : BitVec 4) (c : BitVec 4) (p : BitVec 3) (o : BitVec 2) : Statement (.amoOr z d k b c p o) := roundTrip_amo0.2.2.1 z d k b c p o

theorem amoXor (z : BitVec 1) (d : BitVec 4) (k : BitVec 4) (b : BitVec 4) (c : BitVec 4) (p : BitVec 3) (o : BitVec 2) : Statement (.amoXor z d k b c p o) := roundTrip_amo0.2.2.2.1 z d k b c p o

theorem amoMin (z : BitVec 1) (d : BitVec 4) (k : BitVec 4) (b : BitVec 4) (c : BitVec 4) (p : BitVec 3) (o : BitVec 2) : Statement (.amoMin z d k b c p o) := roundTrip_amo0.2.2.2.2.1 z d k b c p o

theorem amoMax (z : BitVec 1) (d : BitVec 4) (k : BitVec 4) (b : BitVec 4) (c : BitVec 4) (p : BitVec 3) (o : BitVec 2) : Statement (.amoMax z d k b c p o) := roundTrip_amo0.2.2.2.2.2.1 z d k b c p o

theorem amoMinu (z : BitVec 1) (d : BitVec 4) (k : BitVec 4) (b : BitVec 4) (c : BitVec 4) (p : BitVec 3) (o : BitVec 2) : Statement (.amoMinu z d k b c p o) := roundTrip_amo0.2.2.2.2.2.2.1 z d k b c p o

theorem amoMaxu (z : BitVec 1) (d : BitVec 4) (k : BitVec 4) (b : BitVec 4) (c : BitVec 4) (p : BitVec 3) (o : BitVec 2) : Statement (.amoMaxu z d k b c p o) := roundTrip_amo0.2.2.2.2.2.2.2.1 z d k b c p o

theorem amoSwap (z : BitVec 1) (d : BitVec 4) (k : BitVec 4) (b : BitVec 4) (c : BitVec 4) (p : BitVec 3) (o : BitVec 2) : Statement (.amoSwap z d k b c p o) := roundTrip_amo0.2.2.2.2.2.2.2.2.1 z d k b c p o

theorem amoCas (z : BitVec 1) (d : BitVec 4) (k : BitVec 4) (b : BitVec 4) (c : BitVec 4) (p : BitVec 3) (o : BitVec 2) : Statement (.amoCas z d k b c p o) := roundTrip_amo0.2.2.2.2.2.2.2.2.2.1 z d k b c p o

theorem amoFadd (d : BitVec 4) (k : BitVec 4) (b : BitVec 4) (c : BitVec 4) (p : BitVec 3) (o : BitVec 2) : Statement (.amoFadd d k b c p o) := roundTrip_amo0.2.2.2.2.2.2.2.2.2.2.1 d k b c p o

theorem amoAddt (z : BitVec 1) (d : BitVec 4) (k : BitVec 4) (b : BitVec 4) (c : BitVec 4) (p : BitVec 3) (o : BitVec 2) : Statement (.amoAddt z d k b c p o) := roundTrip_amo0.2.2.2.2.2.2.2.2.2.2.2 z d k b c p o

theorem waita (z : BitVec 1) (d : BitVec 4) (k : BitVec 4) (b : BitVec 4) (c : BitVec 4) (p : BitVec 3) : Statement (.waita z d k b c p) := roundTrip_amo1 z d k b c p

theorem lamoAdd (z : BitVec 1) (d : BitVec 4) (a : BitVec 4) (i : BitVec 4) (c : BitVec 4) (o : BitVec 2) : Statement (.lamoAdd z d a i c o) := roundTrip_lamo0.1 z d a i c o

theorem lamoAnd (z : BitVec 1) (d : BitVec 4) (a : BitVec 4) (i : BitVec 4) (c : BitVec 4) (o : BitVec 2) : Statement (.lamoAnd z d a i c o) := roundTrip_lamo0.2.1 z d a i c o

theorem lamoOr (z : BitVec 1) (d : BitVec 4) (a : BitVec 4) (i : BitVec 4) (c : BitVec 4) (o : BitVec 2) : Statement (.lamoOr z d a i c o) := roundTrip_lamo0.2.2.1 z d a i c o

theorem lamoXor (z : BitVec 1) (d : BitVec 4) (a : BitVec 4) (i : BitVec 4) (c : BitVec 4) (o : BitVec 2) : Statement (.lamoXor z d a i c o) := roundTrip_lamo0.2.2.2.1 z d a i c o

theorem lamoMin (z : BitVec 1) (d : BitVec 4) (a : BitVec 4) (i : BitVec 4) (c : BitVec 4) (o : BitVec 2) : Statement (.lamoMin z d a i c o) := roundTrip_lamo0.2.2.2.2.1 z d a i c o

theorem lamoMax (z : BitVec 1) (d : BitVec 4) (a : BitVec 4) (i : BitVec 4) (c : BitVec 4) (o : BitVec 2) : Statement (.lamoMax z d a i c o) := roundTrip_lamo0.2.2.2.2.2.1 z d a i c o

theorem lamoMinu (z : BitVec 1) (d : BitVec 4) (a : BitVec 4) (i : BitVec 4) (c : BitVec 4) (o : BitVec 2) : Statement (.lamoMinu z d a i c o) := roundTrip_lamo0.2.2.2.2.2.2.1 z d a i c o

theorem lamoMaxu (z : BitVec 1) (d : BitVec 4) (a : BitVec 4) (i : BitVec 4) (c : BitVec 4) (o : BitVec 2) : Statement (.lamoMaxu z d a i c o) := roundTrip_lamo0.2.2.2.2.2.2.2.1 z d a i c o

theorem lamoSwap (z : BitVec 1) (d : BitVec 4) (a : BitVec 4) (i : BitVec 4) (c : BitVec 4) (o : BitVec 2) : Statement (.lamoSwap z d a i c o) := roundTrip_lamo0.2.2.2.2.2.2.2.2.1 z d a i c o

theorem lamoCas (z : BitVec 1) (d : BitVec 4) (a : BitVec 4) (i : BitVec 4) (c : BitVec 4) (o : BitVec 2) : Statement (.lamoCas z d a i c o) := roundTrip_lamo0.2.2.2.2.2.2.2.2.2.1 z d a i c o

theorem lamoFadd (d : BitVec 4) (a : BitVec 4) (i : BitVec 4) (c : BitVec 4) (o : BitVec 2) : Statement (.lamoFadd d a i c o) := roundTrip_lamo0.2.2.2.2.2.2.2.2.2.2 d a i c o

theorem vaddI32 (d : BitVec 4) (a : BitVec 4) (b : BitVec 4) (p : BitVec 3) : Statement (.vaddI32 d a b p) := roundTrip_vInt0.1 d a b p

theorem vsubI32 (d : BitVec 4) (a : BitVec 4) (b : BitVec 4) (p : BitVec 3) : Statement (.vsubI32 d a b p) := roundTrip_vInt0.2.1 d a b p

theorem vmulI32 (d : BitVec 4) (a : BitVec 4) (b : BitVec 4) (p : BitVec 3) : Statement (.vmulI32 d a b p) := roundTrip_vInt0.2.2.1 d a b p

theorem vmulhI32 (d : BitVec 4) (a : BitVec 4) (b : BitVec 4) (p : BitVec 3) : Statement (.vmulhI32 d a b p) := roundTrip_vInt0.2.2.2.1 d a b p

theorem vmulhU32 (d : BitVec 4) (a : BitVec 4) (b : BitVec 4) (p : BitVec 3) : Statement (.vmulhU32 d a b p) := roundTrip_vInt0.2.2.2.2.1 d a b p

theorem vminI32 (d : BitVec 4) (a : BitVec 4) (b : BitVec 4) (p : BitVec 3) : Statement (.vminI32 d a b p) := roundTrip_vInt0.2.2.2.2.2.1 d a b p

theorem vmaxI32 (d : BitVec 4) (a : BitVec 4) (b : BitVec 4) (p : BitVec 3) : Statement (.vmaxI32 d a b p) := roundTrip_vInt0.2.2.2.2.2.2.1 d a b p

theorem vminU32 (d : BitVec 4) (a : BitVec 4) (b : BitVec 4) (p : BitVec 3) : Statement (.vminU32 d a b p) := roundTrip_vInt0.2.2.2.2.2.2.2.1 d a b p

theorem vmaxU32 (d : BitVec 4) (a : BitVec 4) (b : BitVec 4) (p : BitVec 3) : Statement (.vmaxU32 d a b p) := roundTrip_vInt0.2.2.2.2.2.2.2.2.1 d a b p

theorem vaddsI32 (d : BitVec 4) (a : BitVec 4) (b : BitVec 4) (p : BitVec 3) : Statement (.vaddsI32 d a b p) := roundTrip_vInt0.2.2.2.2.2.2.2.2.2.1 d a b p

theorem vsubsI32 (d : BitVec 4) (a : BitVec 4) (b : BitVec 4) (p : BitVec 3) : Statement (.vsubsI32 d a b p) := roundTrip_vInt0.2.2.2.2.2.2.2.2.2.2.1 d a b p

theorem vabsI32 (d : BitVec 4) (a : BitVec 4) (p : BitVec 3) : Statement (.vabsI32 d a p) := roundTrip_vInt0.2.2.2.2.2.2.2.2.2.2.2 d a p

theorem vnegI32 (d : BitVec 4) (a : BitVec 4) (p : BitVec 3) : Statement (.vnegI32 d a p) := roundTrip_vInt1.1 d a p

theorem vand (d : BitVec 4) (a : BitVec 4) (b : BitVec 4) (p : BitVec 3) : Statement (.vand d a b p) := roundTrip_vInt1.2.1 d a b p

theorem vor (d : BitVec 4) (a : BitVec 4) (b : BitVec 4) (p : BitVec 3) : Statement (.vor d a b p) := roundTrip_vInt1.2.2.1 d a b p

theorem vxor (d : BitVec 4) (a : BitVec 4) (b : BitVec 4) (p : BitVec 3) : Statement (.vxor d a b p) := roundTrip_vInt1.2.2.2.1 d a b p

theorem vandn (d : BitVec 4) (a : BitVec 4) (b : BitVec 4) (p : BitVec 3) : Statement (.vandn d a b p) := roundTrip_vInt1.2.2.2.2.1 d a b p

theorem vsll (d : BitVec 4) (a : BitVec 4) (b : BitVec 4) (p : BitVec 3) : Statement (.vsll d a b p) := roundTrip_vInt1.2.2.2.2.2.1 d a b p

theorem vsrl (d : BitVec 4) (a : BitVec 4) (b : BitVec 4) (p : BitVec 3) : Statement (.vsrl d a b p) := roundTrip_vInt1.2.2.2.2.2.2.1 d a b p

theorem vsra (d : BitVec 4) (a : BitVec 4) (b : BitVec 4) (p : BitVec 3) : Statement (.vsra d a b p) := roundTrip_vInt1.2.2.2.2.2.2.2.1 d a b p

theorem vmov (d : BitVec 4) (a : BitVec 4) (p : BitVec 3) : Statement (.vmov d a p) := roundTrip_vInt1.2.2.2.2.2.2.2.2.1 d a p

theorem vsel (d : BitVec 4) (a : BitVec 4) (b : BitVec 4) (p : BitVec 3) : Statement (.vsel d a b p) := roundTrip_vInt1.2.2.2.2.2.2.2.2.2.1 d a b p

theorem vclz (d : BitVec 4) (a : BitVec 4) (p : BitVec 3) : Statement (.vclz d a p) := roundTrip_vInt1.2.2.2.2.2.2.2.2.2.2.1 d a p

theorem vpopc (d : BitVec 4) (a : BitVec 4) (p : BitVec 3) : Statement (.vpopc d a p) := roundTrip_vInt1.2.2.2.2.2.2.2.2.2.2.2 d a p

theorem vaddF32 (d : BitVec 4) (a : BitVec 4) (b : BitVec 4) (p : BitVec 3) (m : BitVec 3) : Statement (.vaddF32 d a b p m) := roundTrip_vFp0.1 d a b p m

theorem vsubF32 (d : BitVec 4) (a : BitVec 4) (b : BitVec 4) (p : BitVec 3) (m : BitVec 3) : Statement (.vsubF32 d a b p m) := roundTrip_vFp0.2.1 d a b p m

theorem vmulF32 (d : BitVec 4) (a : BitVec 4) (b : BitVec 4) (p : BitVec 3) (m : BitVec 3) : Statement (.vmulF32 d a b p m) := roundTrip_vFp0.2.2.1 d a b p m

theorem vfmaF32 (d : BitVec 4) (a : BitVec 4) (b : BitVec 4) (c : BitVec 4) (p : BitVec 3) (m : BitVec 3) : Statement (.vfmaF32 d a b c p m) := roundTrip_vFp0.2.2.2.1 d a b c p m

theorem vminF32 (d : BitVec 4) (a : BitVec 4) (b : BitVec 4) (p : BitVec 3) : Statement (.vminF32 d a b p) := roundTrip_vFp0.2.2.2.2.1 d a b p

theorem vmaxF32 (d : BitVec 4) (a : BitVec 4) (b : BitVec 4) (p : BitVec 3) : Statement (.vmaxF32 d a b p) := roundTrip_vFp0.2.2.2.2.2.1 d a b p

theorem vabsF32 (d : BitVec 4) (a : BitVec 4) (p : BitVec 3) : Statement (.vabsF32 d a p) := roundTrip_vFp0.2.2.2.2.2.2.1 d a p

theorem vnegF32 (d : BitVec 4) (a : BitVec 4) (p : BitVec 3) : Statement (.vnegF32 d a p) := roundTrip_vFp0.2.2.2.2.2.2.2 d a p

theorem vcvtNarrow (d : BitVec 4) (a : BitVec 4) (f : BitVec 4) (p : BitVec 3) (m : BitVec 3) : Statement (.vcvtNarrow d a f p m) := roundTrip_vCvt0.1 d a f p m

theorem vcvtWiden (d : BitVec 4) (a : BitVec 4) (f : BitVec 4) (p : BitVec 3) : Statement (.vcvtWiden d a f p) := roundTrip_vCvt0.2.1 d a f p

theorem vcvtI32F32 (d : BitVec 4) (a : BitVec 4) (p : BitVec 3) (m : BitVec 3) : Statement (.vcvtI32F32 d a p m) := roundTrip_vCvt0.2.2.1 d a p m

theorem vcvtF32I32 (d : BitVec 4) (a : BitVec 4) (p : BitVec 3) (m : BitVec 3) : Statement (.vcvtF32I32 d a p m) := roundTrip_vCvt0.2.2.2.1 d a p m

theorem vcvtsNarrow (d : BitVec 4) (a : BitVec 4) (f : BitVec 4) (p : BitVec 3) (m : BitVec 3) : Statement (.vcvtsNarrow d a f p m) := roundTrip_vCvt0.2.2.2.2 d a f p m

theorem vsumRa (d : BitVec 4) (a : BitVec 4) (t : BitVec 2) : Statement (.vsumRa d a t) := roundTrip_vAx0.1 d a t

theorem vsumCa (d : BitVec 4) (a : BitVec 4) (t : BitVec 2) : Statement (.vsumCa d a t) := roundTrip_vAx0.2.1 d a t

theorem vmaxRa (d : BitVec 4) (a : BitVec 4) (t : BitVec 2) : Statement (.vmaxRa d a t) := roundTrip_vAx0.2.2.1 d a t

theorem vmaxCa (d : BitVec 4) (a : BitVec 4) (t : BitVec 2) : Statement (.vmaxCa d a t) := roundTrip_vAx0.2.2.2.1 d a t

theorem vminRa (d : BitVec 4) (a : BitVec 4) (t : BitVec 2) : Statement (.vminRa d a t) := roundTrip_vAx0.2.2.2.2.1 d a t

theorem vminCa (d : BitVec 4) (a : BitVec 4) (t : BitVec 2) : Statement (.vminCa d a t) := roundTrip_vAx0.2.2.2.2.2.1 d a t

theorem vrotRa (d : BitVec 4) (a : BitVec 4) (n : BitVec 6) : Statement (.vrotRa d a n) := roundTrip_vAx0.2.2.2.2.2.2.1 d a n

theorem vrotCa (d : BitVec 4) (a : BitVec 4) (n : BitVec 4) : Statement (.vrotCa d a n) := roundTrip_vAx0.2.2.2.2.2.2.2.1 d a n

theorem vbrow (d : BitVec 4) (a : BitVec 4) (r : BitVec 4) : Statement (.vbrow d a r) := roundTrip_vAx0.2.2.2.2.2.2.2.2.1 d a r

theorem vbcol (d : BitVec 4) (a : BitVec 4) (c : BitVec 6) : Statement (.vbcol d a c) := roundTrip_vAx0.2.2.2.2.2.2.2.2.2.1 d a c

theorem vidxR (d : BitVec 4) : Statement (.vidxR d) := roundTrip_vAx0.2.2.2.2.2.2.2.2.2.2.1 d

theorem vidxC (d : BitVec 4) : Statement (.vidxC d) := roundTrip_vAx0.2.2.2.2.2.2.2.2.2.2.2 d

theorem vext (d : BitVec 4) (a : BitVec 4) (r : BitVec 4) (c : BitVec 6) : Statement (.vext d a r c) := roundTrip_vAx1.1 d a r c

theorem vins (d : BitVec 4) (a : BitVec 4) (r : BitVec 4) (c : BitVec 6) : Statement (.vins d a r c) := roundTrip_vAx1.2.1 d a r c

theorem vbcast (d : BitVec 4) (a : BitVec 4) : Statement (.vbcast d a) := roundTrip_vAx1.2.2 d a

theorem vcmp (d : BitVec 3) (a : BitVec 4) (b : BitVec 4) (p : BitVec 3) (c : BitVec 3) (t : BitVec 3) : Statement (.vcmp d a b p c t) := roundTrip_vPred0.1 d a b p c t

theorem pand (d : BitVec 3) (a : BitVec 3) (b : BitVec 3) : Statement (.pand d a b) := roundTrip_vPred0.2.1 d a b

theorem por (d : BitVec 3) (a : BitVec 3) (b : BitVec 3) : Statement (.por d a b) := roundTrip_vPred0.2.2.1 d a b

theorem pxor (d : BitVec 3) (a : BitVec 3) (b : BitVec 3) : Statement (.pxor d a b) := roundTrip_vPred0.2.2.2.1 d a b

theorem pandn (d : BitVec 3) (a : BitVec 3) (b : BitVec 3) : Statement (.pandn d a b) := roundTrip_vPred0.2.2.2.2.1 d a b

theorem pnot (d : BitVec 3) (a : BitVec 3) : Statement (.pnot d a) := roundTrip_vPred0.2.2.2.2.2.1 d a

theorem vany (a : BitVec 3) : Statement (.vany a) := roundTrip_vPred0.2.2.2.2.2.2.1 a

theorem vall (a : BitVec 3) : Statement (.vall a) := roundTrip_vPred0.2.2.2.2.2.2.2.1 a

theorem pcnt (d : BitVec 4) (a : BitVec 3) : Statement (.pcnt d a) := roundTrip_vPred0.2.2.2.2.2.2.2.2.1 d a

theorem pmov (d : BitVec 3) (a : BitVec 3) : Statement (.pmov d a) := roundTrip_vPred0.2.2.2.2.2.2.2.2.2 d a

theorem vrcp (d : BitVec 4) (a : BitVec 4) (p : BitVec 3) (g : BitVec 1) : Statement (.vrcp d a p g) := roundTrip_vSf0.1 d a p g

theorem vrsqrt (d : BitVec 4) (a : BitVec 4) (p : BitVec 3) (g : BitVec 1) : Statement (.vrsqrt d a p g) := roundTrip_vSf0.2.1 d a p g

theorem vsqrt (d : BitVec 4) (a : BitVec 4) (p : BitVec 3) (g : BitVec 1) : Statement (.vsqrt d a p g) := roundTrip_vSf0.2.2.1 d a p g

theorem vexp2 (d : BitVec 4) (a : BitVec 4) (p : BitVec 3) (g : BitVec 1) : Statement (.vexp2 d a p g) := roundTrip_vSf0.2.2.2.1 d a p g

theorem vlog2 (d : BitVec 4) (a : BitVec 4) (p : BitVec 3) (g : BitVec 1) : Statement (.vlog2 d a p g) := roundTrip_vSf0.2.2.2.2.1 d a p g

theorem vexp (d : BitVec 4) (a : BitVec 4) (p : BitVec 3) (g : BitVec 1) : Statement (.vexp d a p g) := roundTrip_vSf0.2.2.2.2.2.1 d a p g

theorem vtanh (d : BitVec 4) (a : BitVec 4) (p : BitVec 3) (g : BitVec 1) : Statement (.vtanh d a p g) := roundTrip_vSf0.2.2.2.2.2.2.1 d a p g

theorem vsigm (d : BitVec 4) (a : BitVec 4) (p : BitVec 3) (g : BitVec 1) : Statement (.vsigm d a p g) := roundTrip_vSf0.2.2.2.2.2.2.2.1 d a p g

theorem vsin (d : BitVec 4) (a : BitVec 4) (p : BitVec 3) (g : BitVec 1) : Statement (.vsin d a p g) := roundTrip_vSf0.2.2.2.2.2.2.2.2.1 d a p g

theorem vcos (d : BitVec 4) (a : BitVec 4) (p : BitVec 3) (g : BitVec 1) : Statement (.vcos d a p g) := roundTrip_vSf0.2.2.2.2.2.2.2.2.2.1 d a p g

theorem verf (d : BitVec 4) (a : BitVec 4) (p : BitVec 3) (g : BitVec 1) : Statement (.verf d a p g) := roundTrip_vSf0.2.2.2.2.2.2.2.2.2.2 d a p g

theorem cmpt (a : BitVec 4) (b : BitVec 4) (t : BitVec 2) : Statement (.cmpt a b t) := roundTrip_vQ0.1 a b t

theorem vqnt (d : BitVec 4) (a : BitVec 4) (t : BitVec 2) (f : BitVec 4) : Statement (.vqnt d a t f) := roundTrip_vQ0.2.1 d a t f

theorem vdqnt (d : BitVec 4) (a : BitVec 4) (t : BitVec 2) (f : BitVec 4) : Statement (.vdqnt d a t f) := roundTrip_vQ0.2.2 d a t f

theorem vld (d : BitVec 4) (a : BitVec 4) (b : BitVec 4) (p : BitVec 3) : Statement (.vld d a b p) := roundTrip_vMem0.1 d a b p

theorem vst (d : BitVec 4) (a : BitVec 4) (b : BitVec 4) (p : BitVec 3) : Statement (.vst d a b p) := roundTrip_vMem0.2.1 d a b p

theorem vldL (d : BitVec 4) (a : BitVec 4) (p : BitVec 3) : Statement (.vldL d a p) := roundTrip_vMem0.2.2.1 d a p

theorem vstL (d : BitVec 4) (a : BitVec 4) (p : BitVec 3) : Statement (.vstL d a p) := roundTrip_vMem0.2.2.2 d a p

theorem nop : Statement .nop := roundTrip_engine0.1

theorem sval (n : BitVec 5) : Statement (.sval n) := roundTrip_engine0.2.1 n

theorem ktok (n : BitVec 4) : Statement (.ktok n) := roundTrip_engine0.2.2.1 n

theorem atStamp : Statement .atStamp := roundTrip_engine0.2.2.2.1

theorem gate : Statement .gate := roundTrip_engine0.2.2.2.2.1

theorem dup : Statement .dup := roundTrip_engine0.2.2.2.2.2.1

theorem drop : Statement .drop := roundTrip_engine0.2.2.2.2.2.2.1

theorem swap : Statement .swap := roundTrip_engine0.2.2.2.2.2.2.2.1

theorem lit (n : BitVec 14) : Statement (.lit n) := roundTrip_engine0.2.2.2.2.2.2.2.2.1 n

theorem litx (n : BitVec 14) : Statement (.litx n) := roundTrip_engine0.2.2.2.2.2.2.2.2.2.1 n

theorem mma (z : BitVec 1) : Statement (.mma z) := roundTrip_engine0.2.2.2.2.2.2.2.2.2.2.1 z

theorem mmaSp (z : BitVec 1) : Statement (.mmaSp z) := roundTrip_engine0.2.2.2.2.2.2.2.2.2.2.2 z

theorem mwb (c : BitVec 1) : Statement (.mwb c) := roundTrip_engine1.1 c

theorem copy1d : Statement .copy1d := roundTrip_engine1.2.1

theorem copyNd (n : BitVec 3) : Statement (.copyNd n) := roundTrip_engine1.2.2.1 n

theorem gather (e : BitVec 3) : Statement (.gather e) := roundTrip_engine1.2.2.2.1 e

theorem scatter (e : BitVec 3) : Statement (.scatter e) := roundTrip_engine1.2.2.2.2.1 e

theorem wbfill : Statement .wbfill := roundTrip_engine1.2.2.2.2.2.1

theorem collAr (t : BitVec 2) (o : BitVec 2) : Statement (.collAr t o) := roundTrip_engine1.2.2.2.2.2.2.1 t o

theorem collRs (t : BitVec 2) (o : BitVec 2) : Statement (.collRs t o) := roundTrip_engine1.2.2.2.2.2.2.2.1 t o

theorem collAg (t : BitVec 2) : Statement (.collAg t) := roundTrip_engine1.2.2.2.2.2.2.2.2.1 t

theorem lrst : Statement .lrst := roundTrip_engine1.2.2.2.2.2.2.2.2.2.1

theorem ldly : Statement .ldly := roundTrip_engine1.2.2.2.2.2.2.2.2.2.2.1

theorem lwin : Statement .lwin := roundTrip_engine1.2.2.2.2.2.2.2.2.2.2.2

theorem llaunchMin : Statement .llaunchMin := roundTrip_engine2.1

theorem llaunchMax : Statement .llaunchMax := roundTrip_engine2.2.1

theorem lcapV : Statement .lcapV := roundTrip_engine2.2.2.1

theorem lcapO (k : BitVec 7) : Statement (.lcapO k) := roundTrip_engine2.2.2.2 k

theorem svcTime (core : Nat) : Statement (.svcTime core) := roundTrip_event0.1 core

theorem svcLog (core : Nat) : Statement (.svcLog core) := roundTrip_event0.2.1 core

theorem svcLimit (core : Nat) : Statement (.svcLimit core) := roundTrip_event0.2.2.1 core

theorem svcUnassigned (core : Nat) : Statement (.svcUnassigned core) := roundTrip_event0.2.2.2.1 core

theorem telemetryLogDrain (part : Nat) (count : Nat) : Statement (.telemetryLogDrain part count) := roundTrip_event0.2.2.2.2.1 part count

theorem counterWrap (n : BitVec 4) : Statement (.counterWrap n) := roundTrip_event0.2.2.2.2.2.1 n

theorem watchInstalled : Statement .watchInstalled := roundTrip_event0.2.2.2.2.2.2.1

theorem vigil : Statement .vigil := roundTrip_event0.2.2.2.2.2.2.2.1

theorem equinoxRelease (task : Nat) : Statement (.equinoxRelease task) := roundTrip_event0.2.2.2.2.2.2.2.2.1 task

theorem barHeldArrival (cluster : Nat) (id : BitVec 5) (pos : BitVec 3) : Statement (.barHeldArrival cluster id pos) := roundTrip_event0.2.2.2.2.2.2.2.2.2.1 cluster id pos

theorem xlatFaultResolution (core : Nat) (act : XlatAction) : Statement (.xlatFaultResolution core act) := roundTrip_event0.2.2.2.2.2.2.2.2.2.2.1 core act

theorem writeExposure : Statement .writeExposure := roundTrip_event0.2.2.2.2.2.2.2.2.2.2.2

theorem localStorePerformed (id : Nat) : Statement (.localStorePerformed id) := roundTrip_event1.1 id

theorem tokenStorePerformed (id : Nat) : Statement (.tokenStorePerformed id) := roundTrip_event1.2.1 id

theorem exportedStoreApply (src : Nat) (dst : Nat) : Statement (.exportedStoreApply src dst) := roundTrip_event1.2.2.1 src dst

theorem loadDataReturn (id : Nat) : Statement (.loadDataReturn id) := roundTrip_event1.2.2.2.1 id

theorem poison : Statement .poison := roundTrip_event1.2.2.2.2.1

theorem integrity : Statement .integrity := roundTrip_event1.2.2.2.2.2.1

theorem tfcMissFill : Statement .tfcMissFill := roundTrip_event1.2.2.2.2.2.2.1

theorem atomicApply (id : Nat) : Statement (.atomicApply id) := roundTrip_event1.2.2.2.2.2.2.2.1 id

theorem atomicResultReturn (id : Nat) : Statement (.atomicResultReturn id) := roundTrip_event1.2.2.2.2.2.2.2.2.1 id

theorem waitaRegister (id : Nat) : Statement (.waitaRegister id) := roundTrip_event1.2.2.2.2.2.2.2.2.2.1 id

theorem waitaTimeout : Statement .waitaTimeout := roundTrip_event1.2.2.2.2.2.2.2.2.2.2.1

theorem localAtomicApply (id : Nat) : Statement (.localAtomicApply id) := roundTrip_event1.2.2.2.2.2.2.2.2.2.2.2 id

theorem engineLaunchStart (e : EngineId) : Statement (.engineLaunchStart e) := roundTrip_event2.1 e

theorem matrixComplete (id : Nat) : Statement (.matrixComplete id) := roundTrip_event2.2.1 id

theorem mwbComplete (id : Nat) : Statement (.mwbComplete id) := roundTrip_event2.2.2.1 id

theorem copyComplete (id : Nat) : Statement (.copyComplete id) := roundTrip_event2.2.2.2.1 id

theorem collectiveComplete (task : Nat) (group : Nat) : Statement (.collectiveComplete task group) := roundTrip_event2.2.2.2.2.1 task group

theorem lanternComplete (id : Nat) : Statement (.lanternComplete id) := roundTrip_event2.2.2.2.2.2.1 id

theorem deferredReportDelivery : Statement .deferredReportDelivery := roundTrip_event2.2.2.2.2.2.2.1

theorem pcSample : Statement .pcSample := roundTrip_event2.2.2.2.2.2.2.2.1

theorem ringDrain (part : Nat) (die : Nat) : Statement (.ringDrain part die) := roundTrip_event2.2.2.2.2.2.2.2.2.1 part die

theorem dispatchRound (part : Nat) : Statement (.dispatchRound part) := roundTrip_event2.2.2.2.2.2.2.2.2.2.1 part

theorem imageLoad (task : Nat) : Statement (.imageLoad task) := roundTrip_event2.2.2.2.2.2.2.2.2.2.2.1 task

theorem tlimitExpiry (task : Nat) : Statement (.tlimitExpiry task) := roundTrip_event2.2.2.2.2.2.2.2.2.2.2.2 task

theorem preemptionRequest (cluster : Nat) : Statement (.preemptionRequest cluster) := roundTrip_event3.1 cluster

theorem gangWithdraw (cluster : Nat) : Statement (.gangWithdraw cluster) := roundTrip_event3.2.1 cluster

theorem contextSave : Statement .contextSave := roundTrip_event3.2.2.1

theorem contextRestore (core : Nat) (ctx : Nat) : Statement (.contextRestore core ctx) := roundTrip_event3.2.2.2.1 core ctx

theorem tasks (part : Nat) (queue : Nat) (msg : List (BitVec 8)) : Statement (.tasks part queue msg) := roundTrip_event3.2.2.2.2.1 part queue msg

theorem replay (part : Nat) (queue : Nat) (msg : List (BitVec 8)) : Statement (.replay part queue msg) := roundTrip_event3.2.2.2.2.2.1 part queue msg

theorem queueCreate (part : Nat) (queue : Nat) (level : Nat) (weight : Nat) (ring : Nat) : Statement (.queueCreate part queue level weight ring) := roundTrip_event3.2.2.2.2.2.2.1 part queue level weight ring

theorem queueDestroy (part : Nat) (queue : Nat) : Statement (.queueDestroy part queue) := roundTrip_event3.2.2.2.2.2.2.2.1 part queue

theorem arm (part : Nat) (tag : Nat) (queue : Nat) (msg : List (BitVec 8)) (bufLen : Nat) (bufVa : Nat) (rearm : Bool) : Statement (.arm part tag queue msg bufLen bufVa rearm) := roundTrip_event3.2.2.2.2.2.2.2.2.1 part tag queue msg bufLen bufVa rearm

theorem disarm (part : Nat) (tag : Nat) : Statement (.disarm part tag) := roundTrip_event3.2.2.2.2.2.2.2.2.2.1 part tag

theorem fire (part : Nat) (head payload : List (BitVec 8)) : Statement (.fire part head payload) := roundTrip_event3.2.2.2.2.2.2.2.2.2.2.1 part head payload

theorem graphDefine (part : Nat) (graph : Nat) (nodes : List NodeMessage) : Statement (.graphDefine part graph nodes) := roundTrip_event3.2.2.2.2.2.2.2.2.2.2.2 part graph nodes

theorem patch (part : Nat) (graph : Nat) (node : Nat) (new : NodeMessage) : Statement (.patch part graph node new) := roundTrip_event4.1 part graph node new

theorem collectiveGroupCreate (task group : Nat) (setup : GroupSetup) : Statement (.collectiveGroupCreate task group setup) := roundTrip_event4.2.1 task group setup

theorem partitionCreate (req : PartitionRequest) : Statement (.partitionCreate req) := roundTrip_event4.2.2.1 req

theorem partitionTeardown (part : Nat) (nonce : BitVec 64) : Statement (.partitionTeardown part nonce) := roundTrip_event4.2.2.2.1 part nonce

theorem journalAck : Statement .journalAck := roundTrip_event4.2.2.2.2.1

theorem uncorrectableErrorReport (fcore : Nat) (imem : Bool) : Statement (.uncorrectableErrorReport fcore imem) := roundTrip_event4.2.2.2.2.2.1 fcore imem

theorem takeover : Statement .takeover := roundTrip_event4.2.2.2.2.2.2.1

theorem jubileeSweep (index : Nat) : Statement (.jubileeSweep index) := roundTrip_event4.2.2.2.2.2.2.2.1 index

theorem tokenInvalidate (core : Nat) (index : Nat) : Statement (.tokenInvalidate core index) := roundTrip_event4.2.2.2.2.2.2.2.2.1 core index

theorem sweepAck (core : Nat) (index : Nat) : Statement (.sweepAck core index) := roundTrip_event4.2.2.2.2.2.2.2.2.2.1 core index

theorem sweepAbort (core : Nat) (index : Nat) : Statement (.sweepAbort core index) := roundTrip_event4.2.2.2.2.2.2.2.2.2.2.1 core index

theorem sweepFree (index : Nat) : Statement (.sweepFree index) := roundTrip_event4.2.2.2.2.2.2.2.2.2.2.2 index

theorem sealKeyRotation (index : Nat) : Statement (.sealKeyRotation index) := roundTrip_event5.1 index

theorem pageMove (part : Nat) (page : Nat) (dest : PagePlace) : Statement (.pageMove part page dest) := roundTrip_event5.2.1 part page dest

theorem lenderReclaim (pkg : Nat) (lo : Nat) (count : Nat) : Statement (.lenderReclaim pkg lo count) := roundTrip_event5.2.2.1 pkg lo count

theorem grantClose (pkg : Nat) (lo : Nat) (count : Nat) : Statement (.grantClose pkg lo count) := roundTrip_event5.2.2.2.1 pkg lo count

theorem grantOpen (pkg : Nat) (lo : Nat) (count : Nat) : Statement (.grantOpen pkg lo count) := roundTrip_event5.2.2.2.2.1 pkg lo count

theorem potChange (frame : Nat) (world : World) (owner : FrameOwner) (mode : ProtMode) : Statement (.potChange frame world owner mode) := roundTrip_event5.2.2.2.2.2.1 frame world owner mode

theorem remoteRequestArrival (req : RemoteRequest) : Statement (.remoteRequestArrival req) := roundTrip_event5.2.2.2.2.2.2.1 req

theorem remoteRetransmit (port : Nat) (dest : Nat) (seq : Nat) : Statement (.remoteRetransmit port dest seq) := roundTrip_event5.2.2.2.2.2.2.2.1 port dest seq

theorem remoteRequestLost (core : Nat) (id : Nat) : Statement (.remoteRequestLost core id) := roundTrip_event5.2.2.2.2.2.2.2.2.1 core id

theorem axtosTrainingStart (link : LinkEnd) : Statement (.axtosTrainingStart link) := roundTrip_event5.2.2.2.2.2.2.2.2.2.1 link

theorem axtosTrainingDone (link : LinkEnd) (ok : Bool) : Statement (.axtosTrainingDone link ok) := roundTrip_event5.2.2.2.2.2.2.2.2.2.2.1 link ok

theorem axtosKeysInstalled (link : LinkEnd) : Statement (.axtosKeysInstalled link) := roundTrip_event5.2.2.2.2.2.2.2.2.2.2.2 link

theorem flitReceive (port : Nat) (seq : BitVec 16) (sealed : FlitSeal) (intact : Bool) (note : Option LinkNote) : Statement (.flitReceive port seq sealed intact note) := roundTrip_event6.1 port seq sealed intact note

theorem linkRetry (port : Nat) (seq : BitVec 16) : Statement (.linkRetry port seq) := roundTrip_event6.2.1 port seq

theorem rekeyTimeout (link : LinkEnd) : Statement (.rekeyTimeout link) := roundTrip_event6.2.2.1 link

theorem spdmSession (peer : SpdmPeer) (algsOk : Bool) (measurement : Nat) : Statement (.spdmSession peer algsOk measurement) := roundTrip_event6.2.2.2.1 peer algsOk measurement

theorem jobKeyGrant (part : Nat) (switch : Nat) : Statement (.jobKeyGrant part switch) := roundTrip_event6.2.2.2.2.1 part switch

theorem jobKeyWithdraw (part : Nat) (loss : KeyLoss) : Statement (.jobKeyWithdraw part loss) := roundTrip_event6.2.2.2.2.2.1 part loss

theorem uetConnectionSetup (peer : Nat) (opts : UetOptions) : Statement (.uetConnectionSetup peer opts) := roundTrip_event6.2.2.2.2.2.2.1 peer opts

theorem ptpLock (source : PtpSource) : Statement (.ptpLock source) := roundTrip_event6.2.2.2.2.2.2.2.1 source

theorem ptpSourceLoss : Statement .ptpSourceLoss := roundTrip_event6.2.2.2.2.2.2.2.2.1

theorem samplecfgWrite (vcore : VirtualCore) (value : BitVec 64) : Statement (.samplecfgWrite vcore value) := roundTrip_event6.2.2.2.2.2.2.2.2.2.1 vcore value

theorem debugRequest (core : Nat) (value : BitVec 2) : Statement (.debugRequest core value) := roundTrip_event6.2.2.2.2.2.2.2.2.2.2.1 core value

theorem scheduleStopArm (cores : List Nat) (cycle : Nat) : Statement (.scheduleStopArm cores cycle) := roundTrip_event6.2.2.2.2.2.2.2.2.2.2.2 cores cycle

theorem scheduleCycleStop : Statement .scheduleCycleStop := roundTrip_event7.1

theorem stopResume (core : Nat) : Statement (.stopResume core) := roundTrip_event7.2.1 core

theorem liveDump (core : Nat) : Statement (.liveDump core) := roundTrip_event7.2.2.1 core

theorem firmwareImage (img : FirmwareImage) : Statement (.firmwareImage img) := roundTrip_event7.2.2.2.1 img

theorem transfer (req : OwnerRequest) : Statement (.transfer req) := roundTrip_event7.2.2.2.2.1 req

theorem enrol (req : OwnerRequest) : Statement (.enrol req) := roundTrip_event7.2.2.2.2.2.1 req

theorem thermalStop (die : Nat) (celsius : Nat) : Statement (.thermalStop die celsius) := roundTrip_event7.2.2.2.2.2.2.1 die celsius

theorem thermalResume (celsius : List Nat) : Statement (.thermalResume celsius) := roundTrip_event7.2.2.2.2.2.2.2.1 celsius

theorem thermalTrip (die : Nat) (celsius : Nat) : Statement (.thermalTrip die celsius) := roundTrip_event7.2.2.2.2.2.2.2.2.1 die celsius

theorem powerOn (env : BootEnv) : Statement (.powerOn env) := roundTrip_event7.2.2.2.2.2.2.2.2.2.1 env

theorem moduleReset (env : BootEnv) : Statement (.moduleReset env) := roundTrip_event7.2.2.2.2.2.2.2.2.2.2.1 env

theorem recovery (img : FirmwareImage) : Statement (.recovery img) := roundTrip_event7.2.2.2.2.2.2.2.2.2.2.2 img

theorem ptpSourceRegained : Statement .ptpSourceRegained := roundTrip_event8.1

theorem rekeyComplete (link : LinkEnd) : Statement (.rekeyComplete link) := roundTrip_event8.2.1 link

theorem reclaimCompletion (pkg : Nat) (lo : Nat) (count : Nat) : Statement (.reclaimCompletion pkg lo count) := roundTrip_event8.2.2.1 pkg lo count

theorem cumulativeAcknowledgement (pkg : Nat) (port : Nat) (dest : Nat) (seq : Nat) : Statement (.cumulativeAcknowledgement pkg port dest seq) := roundTrip_event8.2.2.2.1 pkg port dest seq

theorem reservedEncoding (word : BitVec 32) : Statement (.reservedEncoding word) := roundTrip_event8.2.2.2.2.1 word

theorem reservedEngineWord (word : BitVec 16) : Statement (.reservedEngineWord word) := roundTrip_event8.2.2.2.2.2 word

end Sys2Proof.Laws.RoundTrip
end

