-- ==== Sys2Proof/Safety.lean ====
section
/-! DEFINITION. What claims are stated in: what a step leaves alone, what retiring an instruction moves, and runs that
stay safe. The frames follow 10 R209-R211: an instruction writes its destinations, moves the program counter, counts
against Vigil, and occupies its unit. -/

namespace Sys2Proof.Machine

/-! ## What is left alone -/

/-- The core without what issue and retirement themselves move: the path of control, Vigil, units, ports and
interlocks, the poison marks of destinations, and the events counted this cycle. Every other register stands. -/
def Core.still (c : Core) : Core :=
  { c with
    pc := 0, slots := none, lc := 0, ls := 0, le := 0, heldLs := none, heldLe := none, jumped := false
    vigil := 0, cur := none, waiting := .none, waitStart := 0, waitCal := 0, ctrRead := none, acted := false, stall := 0, nextIssue := 0
    vecFree := 0, divFree := 0, quantDone := 0, bankReads := [], ready := [], marks := [], owed := [], events := [] }

/-- Nothing outside the running core has changed. -/
def Outside (s t : State) : Prop := { t with core := s.core } = s

/-- Nothing outside the running core has changed but the count of free values drawn (log entry 1). -/
def OutsideFree (s t : State) : Prop := { t with core := s.core, fv := s.fv } = s

/-- Every byte of every memory reads as before: main memory in every die and at the memory-side cache, lent memory, the
scratchpads and shared memories, the pools, the weight buffer, the lane slices. -/
def BytesKept (s t : State) : Prop :=
  (∀ sp a, t.spaceByte sp a = s.spaceByte sp a) ∧ (∀ d a, memGet (t.die d).view a = memGet (s.die d).view a)
    ∧ ∀ a, memGet t.mem a = memGet s.mem a ∧ memGet t.core.lanes a = memGet s.core.lanes a

/-- The path of control: program counter, delay slots, loop registers (R156, R222). -/
def Core.path (c : Core) :
    BitVec 32 × Option Slots × BitVec 32 × BitVec 64 × BitVec 64 × Option (BitVec 64) × Option (BitVec 64) :=
  (c.pc, c.slots, c.lc, c.ls, c.le, c.heldLs, c.heldLe)

/-- An instruction that does not transfer has retired: control goes on as R156 and R222 say, it counts against Vigil
(R147), and nothing is at issue. -/
def Retires (s t : State) : Prop :=
  t.core.path = s.core.advance.path ∧ t.core.vigil = s.core.vigil - 1 ∧ t.core.cur = none ∧ t.core.waiting = .none

/-! ## Frames of one destination -/

/-- Only the scalar register d may have changed. -/
def OnlyScalar (d : BitVec 5) (s t : State) : Prop :=
  (∀ r, r ≠ d → t.core.rs r = s.core.rs r) ∧ { t.core.still with s := s.core.s } = s.core.still ∧ Outside s t
    ∧ BytesKept s t ∧ Retires s t

/-- Only BC may have changed. -/
def OnlyBc (s t : State) : Prop :=
  { t.core.still with bc := s.core.bc } = s.core.still ∧ Outside s t ∧ BytesKept s t ∧ Retires s t

/-- Only the scalar register d and BC may have changed. -/
def OnlyScalarBc (d : BitVec 5) (s t : State) : Prop :=
  (∀ r, r ≠ d → t.core.rs r = s.core.rs r) ∧ { t.core.still with s := s.core.s, bc := s.core.bc } = s.core.still
    ∧ Outside s t ∧ BytesKept s t ∧ Retires s t

/-- Only the vector register d may have changed. -/
def OnlyVector (d : BitVec 4) (s t : State) : Prop :=
  (∀ r, r ≠ d → t.core.rv r = s.core.rv r) ∧ { t.core.still with v := s.core.v } = s.core.still ∧ Outside s t
    ∧ BytesKept s t ∧ Retires s t

/-- Only the vector register d may have changed, and FMTSTAT bits are to be set as the result is ready (R181). -/
def OnlyVectorFlags (d : BitVec 4) (s t : State) : Prop :=
  (∀ r, r ≠ d → t.core.rv r = s.core.rv r) ∧ { t.core.still with v := s.core.v, fmtLate := s.core.fmtLate } = s.core.still
    ∧ Outside s t ∧ BytesKept s t ∧ Retires s t

/-- Only the vector register d may have changed, and reads of its later rows are to be made (R69, R250). -/
def OnlyVectorLate (d : BitVec 4) (late : List LateRead) (s t : State) : Prop :=
  (∀ r, r ≠ d → t.core.rv r = s.core.rv r) ∧ t.core.late = s.core.late ++ late
    ∧ { t.core.still with v := s.core.v, late := s.core.late } = s.core.still ∧ Outside s t ∧ BytesKept s t ∧ Retires s t

/-- Only the predicate register d may have changed. -/
def OnlyPred (d : BitVec 3) (s t : State) : Prop :=
  (∀ r, r ≠ d → t.core.rp r = s.core.rp r) ∧ { t.core.still with p := s.core.p } = s.core.still ∧ Outside s t
    ∧ BytesKept s t ∧ Retires s t

/-- Only the token register d may have changed. -/
def OnlyToken (d : BitVec 4) (s t : State) : Prop :=
  (∀ r, r ≠ d → t.core.rk r = s.core.rk r) ∧ { t.core.still with k := s.core.k } = s.core.still ∧ Outside s t
    ∧ BytesKept s t ∧ Retires s t

/-- No register has changed but by retiring. -/
def OnlyRetires (s t : State) : Prop :=
  t.core.still = s.core.still ∧ Outside s t ∧ BytesKept s t ∧ Retires s t

/-- The core's registers become those of f, nothing outside it changes, no byte changes, and the instruction retires. -/
def Does (f : Core → Core) (s t : State) : Prop :=
  t.core.still = (f s.core).still ∧ Outside s t ∧ BytesKept s t ∧ Retires s t

/-- Only the core of a physical number changes, and as f says. -/
def OnlyCore (n : Nat) (f : Core → Core) (s t : State) : Prop :=
  t.coreAt n = (s.coreAt n).map f ∧ (∀ m, m ≠ n → t.coreAt m = s.coreAt m) ∧
    { t with core := s.core, others := s.others } = s

/-! ## An instruction that passes issue completes with a result -/

/-- Once nothing stops the instruction at issue (R355), exec answers a next state of which P holds. -/
def Completes (i : Instr) (s : State) (P : State → Prop) : Prop :=
  gate i s = .go → ∃ t, exec i s = .next t ∧ P t

/-- It writes x to the scalar register d, `s0` discarding it (R185), and nothing else. -/
def Puts (i : Instr) (d : BitVec 5) (s : State) (x : Word) : Prop :=
  Completes i s fun t => t.core.rs d = (if d = 0 then 0 else x) ∧ OnlyScalar d s t

/-- It writes BC and nothing else. -/
def PutsBc (i : Instr) (s : State) (b : Bool) : Prop :=
  Completes i s fun t => t.core.bc = b ∧ OnlyBc s t

/-- It writes the elements f of the vector register d that the guard p governs, the others keeping theirs (R264), and
nothing else. -/
def PutsVector (i : Instr) (d : BitVec 4) (p : BitVec 3) (s : State) (f : Nat → Nat → BitVec 32) : Prop :=
  Completes i s fun t =>
    (∀ r c, r < 16 → c < 64 → (t.core.rv d).get r c = if (s.core.rp p).bit r c then f r c else (s.core.rv d).get r c)
      ∧ OnlyVector d s t

/-- It writes the predicate register d, `p0` discarding it (R185), and nothing else. -/
def PutsPred (i : Instr) (d : BitVec 3) (s : State) (x : PReg) : Prop :=
  Completes i s fun t => t.core.rp d = (if d = 0 then BitVec.allOnes 1024 else x) ∧ OnlyPred d s t

/-- It writes the token register d and nothing else. -/
def PutsToken (i : Instr) (d : BitVec 4) (s : State) (x : Token) : Prop :=
  Completes i s fun t => t.core.rk d = x ∧ OnlyToken d s t

/-- A stack instruction's read of n bytes at sp is made (R153): by a timed read of this cycle of the own scratchpad, or, an
untimed while after its issue, by a read elsewhere in the local space, whose bytes the strand then has (`WindowReads`); `bad` says
that a poisoned row is among them. -/
def PopReads (s : State) (n : Nat) (bs : List Byte) (bad : Bool) : Prop :=
  let a := (s.core.rs 31).toNat
  (regionOf s.core.poolMb a = some .scratch ∧ bs = s.core.scrRead s.now a n ∧ bad = false) ∨
  ∃ r, regionOf s.core.poolMb a = some r ∧ r ≠ .scratch ∧ s.core.waiting = .got bs bad

/-- The read of n bytes at `a` that a strand waits for outside its own scratchpad is made on a cycle from its due one on with every port
free (R67, R70): the strand has the bytes as they stand then, and whether a row of them was poisoned. -/
def WindowReads (s : State) (r : Region) (a n : Nat) : Prop :=
  ∃ t, s.windowRead = .next t ∧ t.core.waiting = .got (s.localNow r a n) (s.poolPoisoned r a n) ∧ t.core.still = s.core.still ∧
    t.core.pc = s.core.pc ∧ BytesKept s t

/-- A stack instruction's read outside the own scratchpad begins: the strand waits an untimed while. -/
def PopWaits (i : Instr) (s : State) : Prop :=
  ∀ r, regionOf s.core.poolMb (s.core.rs 31).toNat = some r → r ≠ .scratch → s.core.waiting = .none →
    Completes i s fun t => t.core.waiting = .until s.dueCycle ∧ t.core.acted = true ∧ t.core.pc = s.core.pc ∧ BytesKept s t ∧
      t.core.s = s.core.s

/-- A record is written into F1's journal (R349), or waits where F7's mailbox has no room for its copy (R348). -/
def Journals (e : JournalEvent) (s u : State) : Prop :=
  if s.journalOpen then u.fw.journal = s.fw.journal ++ [e] ∧ u.fw.owed = s.fw.owed
  else u.fw.journal = s.fw.journal ∧ u.fw.owed = s.fw.owed ++ [e]

/-! ## Instructions of the strand -/

/-- The instruction has a strand word (09 R186). -/
def isStrand (i : Instr) : Bool := (encodeWord i).isSome

/-! ## Invariants and runs -/

/-- The canonical form of the memory that every package-wide access goes to. -/
def MemoryOk (s : State) : Prop := s.mem.wf = true

/-- `k` steps from a state. -/
def runFrom : Nat → State → Out
  | 0, s => .next s
  | n + 1, s =>
    match step s with
    | .next t => runFrom n t
    | o => o

/-- A run that never stops: the one fault is an access that main memory does not decode (02 R32). -/
def SafeRun (s : State) : Prop := ∀ n, ∃ t, runFrom n s = .next t

end Sys2Proof.Machine
end

