-- ==== Sys2Proof/Certificates/Slice0/Obligations.lean ====
section
/-! DEFINITION. The statements for the provers, each from the numbered rules it names. -/

open Sys2Proof Sys2Proof.Machine

/-! ## Encoding (09 R186-R208) -/

/-- R186-R203: every well-formed instruction is read back from its own word, whatever follows it: a strand word of four
bytes, an engine word of two. -/
def Obligations.DecodeOfEncode : Prop :=
  ∀ (i : Instr) (rest : List Byte), i.wf = true →
    (∀ w, encodeWord i = some w → decodeBytes (natToBytes 4 w.toNat ++ rest) = .ok (i, rest)) ∧
    (∀ w, encodeEngineWord i = some w → decodeEngineBytes (natToBytes 2 w.toNat ++ rest) = .ok (i, rest))

/-- R200, R202: a word has one meaning: what the decoder accepts is well-formed and encodes to that very word, so two
instructions never share a word and a reserved field is never ignored. -/
def Obligations.WordHasOneMeaning : Prop :=
  (∀ (w : BitVec 32) (i : Instr), decodeWord w = .ok i → i.wf = true ∧ encodeWord i = some w) ∧
  (∀ (w : BitVec 16) (i : Instr), decodeEngineWord w = .ok i → i.wf = true ∧ encodeEngineWord i = some w)

/-- R189-R203, R208: words written out from the encoding tables decode to what they stand for, and reserved words are
refused. -/
def Obligations.WordsOfTheSpec : Prop :=
  decodeTableWord 32 0x0123408F = some (.movi 1 0x1234 0) ∧ decodeTableWord 32 0x00483220 = some (.slli 4 3 4) ∧
  decodeTableWord 32 0x00004040 = some (.cmpEq 4 0) ∧ decodeTableWord 32 0x08001011 = some (.bz 1) ∧
  decodeTableWord 32 0x0000010E = some (.yield 16 0) ∧ decodeTableWord 32 0x800005AD = some (.lds 2 11 0 0 0 0x400) ∧
  decodeTableWord 32 0x820C2209 = some (.ld 4 2 6 2 0 0 2) ∧ decodeTableWord 32 0xD2002099 = some (.st 1 2 0 2 2 3) ∧
  decodeTableWord 32 0x013B123B = some (.amoAdd 0 4 2 6 7 2 0) ∧ decodeTableWord 32 0x100398C5 = some (.vcmp 1 3 7 0 4 0) ∧
  decodeTableWord 32 0x28445031 = some (.ctrSel 5 2) ∧ decodeTableWord 32 0x00C4112B = some (.xlat 2 1 2 3) ∧
  decodeTableWord 16 0x0202 = some (.ktok 2) ∧ decodeTableWord 16 0x010A = some (.sval 10) ∧
  decodeTableWord 16 0x4005 = some (.lit 5) ∧ decodeTableWord 16 0x0300 = some .atStamp ∧
  decodeTableWord 16 0xD000 = some .copy1d ∧ decodeTableWord 16 0xE500 = some (.lcapO 0) ∧
  decodeTableWord 32 0 = none ∧ decodeTableWord 32 0xE2002099 = none ∧ decodeTableWord 16 0x0800 = none ∧
  decodeTableWord 16 0xD107 = none

/-! ## One step runs the decoded instruction (R211, R204, R294) -/

/-- R211, R212: where the strand's turn has come, its earliest issue cycle has come, and no report, no row read and no later
read of a load is due, one step is exec of the instruction at issue; if none is, of the instruction that the word at pc decodes
to, with the core as the fetch leaves it: in a row that was read for the fetch, which fixes the word and serves until it is read
again (the model's choice, log entry 58), or else, for a row that nobody asked for, by a row read of this cycle (the model's choice,
log entry 14), which needs a read slot of its bank (R67) and which no lock holds (the model's choice, log entry 75). -/
def Obligations.StepRunsStrandWord : Prop :=
  ∀ (s : State) (i : Instr),
    s.phase = 6 → s.core.ctx = .running → s.core.acted = false → s.core.rowReads = [] →
    (∀ x, x ∈ s.core.late → s.now < x.cycle) → s.core.nextIssue ≤ s.now → s.core.nextReport s.now = none →
    (s.core.cur = some i → step s = exec i s) ∧
    (s.core.cur = none → s.core.pc.toNat < 0x300000 →
      (∀ x, (s.core.afterJump.rows.find? fun x => x.addr == lineOf s.core.pc.toNat) = some x → x.lost = 0 →
        decodeWord (s.core.rowWord x) = .ok i →
        step s = exec i (s.mod fun c => { c.afterJump.fetched s.now with cur := some i })) ∧
      ((s.core.afterJump.rows.find? fun x => x.addr == lineOf s.core.pc.toNat) = none →
        s.core.portLost s.now (lineOf s.core.pc.toNat) 64 = false → decodeWord (s.core.fetchWord s.now) = .ok i →
        step s = exec i (s.mod fun c =>
          { (c.afterJump.makeRowRead s.now ⟨lineOf c.pc.toNat, s.now, 0⟩).fetched s.now with cur := some i })))

/-- R204, R294: where an engine's turn has come and it has a word in hand, one step is exec of that word. -/
def Obligations.StepRunsEngineWord : Prop :=
  ∀ (s : State) (i : Instr),
    s.phase = 4 → s.core.clocked = true → (s.core.eng s.turnEng).canTake s.now = true →
    decodeEngineWord (s.withPacket.core.eng s.turnEng).word = .ok i → step s = exec i s.withPacket

/-! ## Scalar arithmetic and logic (10 R213-R220) -/

/-- R213, R217: the results of two scalar registers, modulo 2^64; `n` is sb[5:0]. Nothing but the destination changes. -/
def Obligations.ScalarTwoOperands : Prop :=
  ∀ (d a b : BitVec 5) (n : BitVec 6) (s : State),
    let x := s.core.rs a
    let y := s.core.rs b
    let k := (y.extractLsb' 0 6).toNat
    Puts (.add d a b) d s (x + y) ∧ Puts (.sub d a b) d s (x - y) ∧ Puts (.and d a b) d s (x &&& y) ∧
    Puts (.or d a b) d s (x ||| y) ∧ Puts (.xor d a b) d s (x ^^^ y) ∧ Puts (.andn d a b) d s (x &&& ~~~y) ∧
    Puts (.orn d a b) d s (x ||| ~~~y) ∧ Puts (.xnor d a b) d s (~~~(x ^^^ y)) ∧
    Puts (.sll d a b) d s (x <<< k) ∧ Puts (.srl d a b) d s (x >>> k) ∧ Puts (.sra d a b) d s (x.sshiftRight k) ∧
    Puts (.rol d a b) d s (x <<< k ||| x >>> (64 - k)) ∧ Puts (.ror d a b) d s (x >>> k ||| x <<< (64 - k)) ∧
    Puts (.mul d a b) d s (x * y) ∧
    Puts (.mulh d a b) d s ((x.signExtend 128 * y.signExtend 128).extractLsb' 64 64) ∧
    Puts (.mulhu d a b) d s ((x.setWidth 128 * y.setWidth 128).extractLsb' 64 64) ∧
    Puts (.min d a b) d s (if x.toInt ≤ y.toInt then x else y) ∧ Puts (.max d a b) d s (if y.toInt ≤ x.toInt then x else y) ∧
    Puts (.minu d a b) d s (if x.toNat ≤ y.toNat then x else y) ∧ Puts (.maxu d a b) d s (if y.toNat ≤ x.toNat then x else y) ∧
    Puts (.sel d a b) d s (if s.core.bc then x else y) ∧
    Puts (.fsl d a b n) d s (((x ++ y) <<< n.toNat).extractLsb' 64 64) ∧
    Puts (.fsr d a b n) d s (((x ++ y) >>> n.toNat).extractLsb' 0 64)

/-- R214: the quotient is rounded toward zero and the remainder has the sign of the dividend; division by zero gives all
ones and the dividend, and the least number divided by -1 gives itself and 0, without a trap. -/
def Obligations.Division : Prop :=
  ∀ (d a b : BitVec 5) (s : State),
    let x := s.core.rs a
    let y := s.core.rs b
    ∃ q r qu ru : Word,
      Puts (.div d a b) d s q ∧ Puts (.rem d a b) d s r ∧ Puts (.divu d a b) d s qu ∧ Puts (.remu d a b) d s ru ∧
      (y = 0 → q = BitVec.allOnes 64 ∧ r = x ∧ qu = BitVec.allOnes 64 ∧ ru = x) ∧
      (x = BitVec.intMin 64 → y = BitVec.allOnes 64 → q = x ∧ r = 0) ∧
      (y ≠ 0 → q = BitVec.ofInt 64 (x.toInt.tdiv y.toInt) ∧ r = BitVec.ofInt 64 (x.toInt - y.toInt * x.toInt.tdiv y.toInt) ∧
        x = q * y + r ∧ (r = 0 ∨ (r.toInt < 0 ↔ x.toInt < 0))) ∧
      (y ≠ 0 → qu.toNat = x.toNat / y.toNat ∧ ru.toNat = x.toNat % y.toNat)

/-- R213: counts and reversals, bit by bit. -/
def Obligations.ScalarBits : Prop :=
  ∀ (d a : BitVec 5) (s : State),
    let x := s.core.rs a
    (∃ n : Nat, Puts (.clz d a) d s (BitVec.ofNat 64 n) ∧ n ≤ 64 ∧ (∀ i, 64 - n ≤ i → x.getLsbD i = false) ∧
      (n < 64 → x.getLsbD (63 - n) = true)) ∧
    (∃ n : Nat, Puts (.ctz d a) d s (BitVec.ofNat 64 n) ∧ n ≤ 64 ∧ (∀ i, i < n → x.getLsbD i = false) ∧
      (n < 64 → x.getLsbD n = true)) ∧
    Puts (.popc d a) d s (BitVec.ofNat 64 ((List.range 64).countP fun i => x.getLsbD i)) ∧
    (∃ y : Word, Puts (.bswap d a) d s y ∧ ∀ i, i < 8 → y.extractLsb' (8 * i) 8 = x.extractLsb' (8 * (7 - i)) 8) ∧
    (∃ y : Word, Puts (.brev d a) d s y ∧ ∀ i, i < 64 → y.getLsbD i = x.getLsbD (63 - i))

/-- R215, R216, R218, R220, R221, R46: immediates, `movi`, the truth table of `lut3`, and moves to a scalar register. -/
def Obligations.ScalarImmediates : Prop :=
  ∀ (d a b c : BitVec 5) (i : BitVec 12) (n : BitVec 6) (v : BitVec 17) (tbl : BitVec 8) (t : BitVec 2) (s : State),
    let x := s.core.rs a
    Puts (.addi d a i) d s (x + i.signExtend 64) ∧ Puts (.andi d a i) d s (x &&& i.setWidth 64) ∧
    Puts (.ori d a i) d s (x ||| i.setWidth 64) ∧ Puts (.xori d a i) d s (x ^^^ i.setWidth 64) ∧
    Puts (.slli d a n) d s (x <<< n.toNat) ∧ Puts (.srli d a n) d s (x >>> n.toNat) ∧
    Puts (.srai d a n) d s (x.sshiftRight n.toNat) ∧ Puts (.rori d a n) d s (x >>> n.toNat ||| x <<< (64 - n.toNat)) ∧
    Puts (.movi d v n) d s (BitVec.ofNat 64 (v.toNat * 2 ^ n.toNat)) ∧
    Puts (.mfbc d) d s (if s.core.bc then 1 else 0) ∧ Puts (.mfb d t) d s (s.core.rb t) ∧
    ∃ y : Word, Puts (.lut3 d a b c tbl) d s y ∧ ∀ j, j < 64 → y.getLsbD j =
      tbl.getLsbD (4 * (x.getLsbD j).toNat + 2 * ((s.core.rs b).getLsbD j).toNat + ((s.core.rs c).getLsbD j).toNat)

/-- R219, R220, R281: compares, tests and votes write BC and nothing else. -/
def Obligations.BranchCondition : Prop :=
  ∀ (a b : BitVec 5) (i : BitVec 12) (p : BitVec 3) (s : State),
    let x := s.core.rs a
    let y := s.core.rs b
    let e : Word := i.signExtend 64
    PutsBc (.cmpEq a b) s (decide (x = y)) ∧ PutsBc (.cmpNe a b) s (decide (x ≠ y)) ∧
    PutsBc (.cmpLt a b) s (decide (x.toInt < y.toInt)) ∧ PutsBc (.cmpGe a b) s (decide (x.toInt ≥ y.toInt)) ∧
    PutsBc (.cmpLtu a b) s (decide (x.toNat < y.toNat)) ∧ PutsBc (.cmpGeu a b) s (decide (x.toNat ≥ y.toNat)) ∧
    PutsBc (.tst a b) s (decide (x &&& y ≠ 0)) ∧
    PutsBc (.cmpiEq a i) s (decide (x = e)) ∧ PutsBc (.cmpiNe a i) s (decide (x ≠ e)) ∧
    PutsBc (.cmpiLt a i) s (decide (x.toInt < e.toInt)) ∧ PutsBc (.cmpiGe a i) s (decide (x.toInt ≥ e.toInt)) ∧
    PutsBc (.cmpiLtu a i) s (decide (x.toNat < e.toNat)) ∧ PutsBc (.cmpiGeu a i) s (decide (x.toNat ≥ e.toNat)) ∧
    PutsBc (.tsti a i) s (decide (x &&& i.setWidth 64 ≠ 0)) ∧ PutsBc (.mtbc a) s (x.getLsbD 0) ∧
    (∃ e, PutsBc (.vany p) s e ∧ (e = true ↔ ∃ j, j < 1024 ∧ (s.core.rp p).getLsbD j = true)) ∧
    (∃ e, PutsBc (.vall p) s e ∧ (e = true ↔ ∀ j, j < 1024 → (s.core.rp p).getLsbD j = true))

/-! ## Control flow (07 R152-R158, 10 R221-R227) -/

/-- R156, R157, R222: where control goes after an instruction that does not itself transfer. The loop-end test is made at
le with lc not 0, but for the delay slot of a taken transfer; after the last delay slot of a taken transfer comes its
target; else the next word. Held loop writes are taken up by the test. Of an LS or LE the low 32 bits become the program counter:
the model's choice (log entry 61). -/
def Obligations.PathOfControl : Prop :=
  ∀ c : Core,
    let loopEnd := c.lc ≠ 0 ∧ c.pc.setWidth 64 = c.le ∧ ∀ n t e, c.slots ≠ some ⟨n, some t, e⟩
    (loopEnd → 1 < c.lc.toNat →
      c.advance.lc = c.lc - 1 ∧ c.advance.pc = (c.heldLs.getD c.ls).setWidth 32) ∧
    (loopEnd → c.lc = 1 → c.advance.lc = 0 ∧ c.advance.pc = (c.le + 4).setWidth 32) ∧
    (loopEnd → c.advance.ls = c.heldLs.getD c.ls ∧ c.advance.le = c.heldLe.getD c.le ∧ c.advance.heldLs = none ∧
      c.advance.heldLe = none) ∧
    (¬loopEnd → c.advance.lc = c.lc ∧ c.advance.ls = c.ls ∧ c.advance.le = c.le ∧ c.advance.heldLs = c.heldLs ∧
      c.advance.heldLe = c.heldLe) ∧
    (¬loopEnd → (∀ t e, c.slots ≠ some ⟨1, some t, e⟩) → c.advance.pc = c.pc + 4) ∧
    (∀ t e, c.slots = some ⟨1, some t, e⟩ → c.advance.pc = t ∧ c.advance.slots = none) ∧
    (∀ t e, c.slots = some ⟨2, t, e⟩ → c.advance.slots = some ⟨1, t, e⟩) ∧
    (∀ e, c.slots = some ⟨1, none, e⟩ → c.advance.slots = none)

/-- R222: `br` and `bz` transfer on BC as it stands, to the target as it stands, after two delay slots; the branch itself
only opens them. Of the branch register the low 32 bits become the target: the model's choice (log entry 34). -/
def Obligations.ConditionalBranches : Prop :=
  ∀ (b : BitVec 2) (s : State),
    let opens (taken : Bool) (t : State) : Prop :=
      t.core.pc = s.core.pc + 4 ∧ t.core.vigil = s.core.vigil - 1 ∧ t.core.still = s.core.still ∧
      (t.core.lc, t.core.ls, t.core.le, t.core.heldLs, t.core.heldLe)
        = (s.core.lc, s.core.ls, s.core.le, s.core.heldLs, s.core.heldLe) ∧ Outside s t ∧ BytesKept s t ∧
      (if taken then ∃ e, t.core.slots = some ⟨2, some ((s.core.rb b).setWidth 32), e⟩
        else ∃ e, t.core.slots = some ⟨2, none, e⟩)
    Completes (.br b) s (opens s.core.bc) ∧ Completes (.bz b) s (opens (!s.core.bc))

/-- R221: `ptg` and `ptr` deliver an address with bits [1:0] cleared. Nothing else is written; the rows that the fetch has
asked for may gain one (R212). R153, R154, R226: `call` stores PC + 12, past the delay slots, at the word below sp, wherever
that lies in the local space, and `ret` takes its target from the word at sp (a poisoned row leaves bn as it was: the model's
choice, log entry 47), a read outside the own scratchpad being made on a cycle on which its ports are free (R67); both move sp by 8
and transfer after two delay slots, to the low 32 bits of the register (the model's choice, log entry 34). The store is on its
way (R68, R246): the bytes of every memory read as before. -/
def Obligations.TransferRegisters : Prop :=
  (∀ (b : BitVec 2) (i : BitVec 23) (a : BitVec 5) (s : State),
     let gives (x : Word) (t : State) : Prop :=
       t.core.rb b = x &&& ~~~3 ∧ (∀ r, r ≠ b → t.core.rb r = s.core.rb r) ∧
       { t.core.still with b := s.core.b, btime := s.core.btime, rowReads := s.core.rowReads } = s.core.still ∧
       Outside s t ∧ BytesKept s t ∧ Retires s t
     Completes (.ptg b i) s (gives (s.core.pc.setWidth 64 + 4 * i.signExtend 64)) ∧
     Completes (.ptr b a) s (gives (s.core.rs a))) ∧
  (∀ (b : BitVec 2) (s : State) (bs : List Byte) (bad : Bool),
     let sp := s.core.rs 31
     let rest (t : State) : Prop := (∀ r, r ≠ 31 → t.core.rs r = s.core.rs r) ∧ t.core.pc = s.core.pc + 4 ∧
       t.core.vigil = s.core.vigil - 1 ∧ t.core.lc = s.core.lc ∧ OutsideFree s t ∧ BytesKept s t
     (∀ r, s.core.local? (sp - 8) 8 true = some r → Completes (.call b) s fun t =>
       let st := s.localStore r (sp - 8).toNat (natToBytes 8 (s.core.pc.setWidth 64 + 12 : Word).toNat) 0
       t.core.rs 31 = sp - 8 ∧ t.core.timed = st.core.timed ∧ t.core.acc = st.core.acc ∧
       (∃ e, t.core.slots = some ⟨2, some ((s.core.rb b).setWidth 32), e⟩) ∧ t.core.b = s.core.b ∧ rest t) ∧
     (PopReads s 8 bs bad → Completes (.ret b) s fun t =>
       let x : Word := if bad then s.core.rb b else BitVec.ofNat 64 (bytesToNat bs)
       t.core.rb b = x &&& ~~~3 ∧ (∀ r, r ≠ b → t.core.rb r = s.core.rb r) ∧ t.core.rs 31 = sp + 8 ∧
       t.core.timed = s.core.timed ∧ t.core.acc = s.core.acc ∧ t.core.late = s.core.late ∧
       (∃ e, t.core.slots = some ⟨2, some ((x &&& ~~~3).setWidth 32), e⟩) ∧ rest t) ∧
     PopWaits (.ret b) s ∧
     (∀ due r, s.core.cur = some (.ret b) → s.core.waiting = .until due → due ≤ s.now → regionOf s.core.poolMb sp.toNat = some r →
       r ≠ .scratch → (let x := s.core.spaceOf r sp.toNat; s.rangeFree x.1 (rowRanges 4 x.2 8)) = true →
       WindowReads s r sp.toNat 8))

/-- R155, R157: `loop` opens a loop over the body that follows it, or passes it over when the count is 0; `mtl` writes a
loop register at once, or holds a write to ls or le while a loop is active; `mfl` reads what is held. R158, R153:
`loop.push` stores lc, ls and le, held writes first, in the three words below sp and closes the loop; `loop.pop` reads them
back (a poisoned row leaves them, R243), of a split read the upper part a cycle later (R76). A `loop` or `loop.pop` over held
writes ends with its own values (log entry 48), and of what `loop.pop` reads lc takes the low 32 bits, ls and le clear bits
[1:0] (log entry 69): both the model's choice. -/
def Obligations.Loops : Prop :=
  (∀ (d a : BitVec 5) (i : BitVec 12) (s : State),
     let pc : Word := s.core.pc.setWidth 64
     let last : Word := pc + 4 * (i.setWidth 64 + 1)
     let n : BitVec 32 := (s.core.rs a).setWidth 32
     let x := s.core.rs a &&& ~~~3
     let held (c : Core) : Word × Word := (c.heldLs.getD c.ls, c.heldLe.getD c.le)
     Completes (.loop a i) s (fun t =>
       t.core.lc = n ∧ t.core.ls = pc + 4 ∧ t.core.le = last ∧ t.core.heldLs = none ∧ t.core.heldLe = none ∧
       t.core.pc = (if n = 0 then (last + 4).setWidth 32 else s.core.pc + 4) ∧ t.core.still = s.core.still ∧
       t.core.vigil = s.core.vigil - 1 ∧ Outside s t ∧ BytesKept s t) ∧
     Puts (.mfl d 0) d s (s.core.lc.setWidth 64) ∧ Puts (.mfl d 1) d s (held s.core).1 ∧ Puts (.mfl d 2) d s (held s.core).2 ∧
     (∀ r, Completes (.mtl a r) s fun t => ∃ c : Core, c.still = s.core.still ∧ t.core.path = c.advance.path ∧
       t.core.still = s.core.still ∧ t.core.vigil = s.core.vigil - 1 ∧ Outside s t ∧ BytesKept s t ∧
       c.pc = s.core.pc ∧ c.slots = s.core.slots ∧
       (r = 0 → n ≠ 0 → (c.lc, c.ls, c.le, c.heldLs, c.heldLe) = (n, s.core.ls, s.core.le, s.core.heldLs, s.core.heldLe)) ∧
       (r = 0 → n = 0 → (c.lc, c.ls, c.le, c.heldLs, c.heldLe) = (0, (held s.core).1, (held s.core).2, none, none)) ∧
       (r = 1 → s.core.lc = 0 → c.ls = x ∧ c.le = s.core.le ∧ c.lc = 0) ∧
       (r = 2 → s.core.lc = 0 → c.le = x ∧ c.ls = s.core.ls ∧ c.lc = 0) ∧
       (r = 1 → s.core.lc ≠ 0 → (c.lc, c.ls, c.le, c.heldLs, c.heldLe) = (s.core.lc, s.core.ls, s.core.le, some x, s.core.heldLe)) ∧
       (r = 2 → s.core.lc ≠ 0 → (c.lc, c.ls, c.le, c.heldLs, c.heldLe) = (s.core.lc, s.core.ls, s.core.le, s.core.heldLs, some x)))) ∧
  (∀ (s : State) (bs : List Byte) (bad : Bool),
     let sp := s.core.rs 31
     let word (k : Nat) : Nat := bytesToNat ((bs.drop (8 * k)).take 8)
     let rest (t : State) : Prop := (∀ r, r ≠ 31 → t.core.rs r = s.core.rs r) ∧
       t.core.vigil = s.core.vigil - 1 ∧ OutsideFree s t ∧ BytesKept s t
     (∀ r, s.core.local? (sp - 24) 24 true = some r → Completes .loopPush s fun t =>
       let st := s.localStore r (sp - 24).toNat (natToBytes 8 s.core.lc.toNat
         ++ natToBytes 8 (s.core.heldLs.getD s.core.ls).toNat ++ natToBytes 8 (s.core.heldLe.getD s.core.le).toNat) 0
       t.core.rs 31 = sp - 24 ∧ t.core.lc = 0 ∧ t.core.ls = s.core.heldLs.getD s.core.ls ∧
       t.core.le = s.core.heldLe.getD s.core.le ∧ t.core.heldLs = none ∧ t.core.heldLe = none ∧
       t.core.timed = st.core.timed ∧ t.core.acc = st.core.acc ∧ rest t) ∧
     (PopReads s 24 bs bad → Completes .loopPop s fun t =>
       ∃ c : Core, t.core.path = c.advance.path ∧ c.pc = s.core.pc ∧ c.slots = s.core.slots ∧
         (c.lc, c.ls, c.le, c.heldLs, c.heldLe) =
           (if bad then (s.core.lc, s.core.ls, s.core.le, s.core.heldLs, s.core.heldLe)
           else (BitVec.ofNat 32 (word 0), BitVec.ofNat 64 (word 1) &&& ~~~3, BitVec.ofNat 64 (word 2) &&& ~~~3, none, none)) ∧
         t.core.late = (if bad = false ∧ regionOf s.core.poolMb sp.toNat = some .scratch
           then s.core.readUpper s.now sp.toNat 24 .loop else s.core).late ∧
         t.core.rs 31 = sp + 24 ∧ t.core.timed = s.core.timed ∧ t.core.acc = s.core.acc ∧ rest t) ∧
     PopWaits .loopPop s ∧
     (∀ due r, s.core.cur = some .loopPop → s.core.waiting = .until due → due ≤ s.now → regionOf s.core.poolMb sp.toNat = some r →
       r ≠ .scratch → (let x := s.core.spaceOf r sp.toNat; s.rangeFree x.1 (rowRanges 4 x.2 24)) = true →
       WindowReads s r sp.toNat 24))


/-! ## Issue and traps (09 R209, 10 R223-R238, 16 R351-R358) -/

/-- R209, R355, R147: what an instruction meets at issue. The lowest cause in the order of R355 wins: ILLEGAL by placement,
Vigil, the interlocks (a stall counts under the lowest code of those that hold it, R394), ALIGN or STACK, LADDR, the stalls of memory, a token-frame-cache miss (R39), PENDING, an owed
POISON or INTEGRITY; with none of them the instruction has its effect. An `xlat` raises its own XLAT before a POISON.
The model's choices here: the place of Vigil, interlocks and memory stalls among the causes (log entry 33), the mark made first of
several (log entry 8), and that a guarded instruction waits for its destination (log entry 77). -/
def Obligations.IssueOrder : Prop :=
  ∀ (i : Instr) (s : State), isStrand i = true → s.core.waiting.committed = false →
    let c := s.core
    let traps (code : BitVec 8) (v : Word) : Prop := exec i s = .next (s.takeTrap code v c.pc)
    let vigil := c.vigil = 0 ∧ vigilExempt i = false
    (c.misplaced i = true → traps 1 (BitVec.ofNat 64 (encode i))) ∧
    (c.misplaced i = false → vigil → exec i s = .next s.vigilFault) ∧
    (c.misplaced i = false → ¬vigil →
      (∀ r, c.regStall s.now i = some r → exec i s = .next (s.stallFor
        (if r = 1 then 1 else (s.memStall i).elim r fun q => if q.toNat < r.toNat then q else r))) ∧
      (c.regStall s.now i = none →
        (∀ code v, c.alignTrap i = some (code, v) → traps code v) ∧
        (c.alignTrap i = none →
          (∀ v, c.laddrTrap i = some v → traps 2 v) ∧
          (c.laddrTrap i = none →
            (∀ r, s.memStall i = some r → exec i s = .next (s.stallFor r)) ∧
            (s.memStall i = none →
              (∀ t off, s.tokenMiss i = some (t, off) → exec i s = .next (s.startFill t off)) ∧
              (s.tokenMiss i = none →
                (∀ v, c.pendingTrap s.now i = some v → traps 5 v) ∧
                (c.pendingTrap s.now i = none →
                  (∀ r, c.duePoison i = some r → (∀ k a b t, i ≠ .xlat k a b t) →
                    exec i s = .next (State.takePoison (s.mod fun c => c.settle r) r)) ∧
                  (c.duePoison i = none ∨ (∃ k a b t, i = .xlat k a b t) → gate i s = .go))))))))

/-- R156, R223, R231, R232: an instruction that may not stand where it stands traps ILLEGAL with its word: the kinds that
R223 lists, in a delay slot; a transfer, `loop`, `loop.pop` or `end` at le or le − 4 of an active loop; `eret` outside a
handler and `yield` inside one. -/
def Obligations.MisplacedTraps : Prop :=
  ∀ (b : BitVec 2) (a : BitVec 5) (n : BitVec 12) (m : BitVec 16) (t : BitVec 5) (s : State),
    let c := s.core
    let illegal (i : Instr) : Prop := exec i s = .next (s.takeTrap 1 (BitVec.ofNat 64 (encode i)) c.pc)
    s.core.waiting.committed = false →
    (c.slots ≠ none →
      illegal (.br b) ∧ illegal (.bz b) ∧ illegal (.call b) ∧ illegal (.ret b) ∧ illegal .eret ∧ illegal .endOp ∧
      illegal (.trap t) ∧ illegal (.yield n m) ∧ illegal (.loop a n) ∧ illegal .loopPush ∧ illegal .loopPop ∧
      illegal .sync ∧ illegal .alignEquinox) ∧
    (c.lc ≠ 0 → c.pc.setWidth 64 = c.le ∨ c.pc.setWidth 64 = c.le - 4 →
      illegal (.br b) ∧ illegal (.bz b) ∧ illegal (.call b) ∧ illegal (.ret b) ∧ illegal (.loop a n) ∧ illegal .loopPop ∧
      illegal .endOp) ∧
    (c.inh = false → illegal .eret) ∧ (c.inh = true → illegal (.yield n m))

/-- R22, R123, R153: the address traps. A local load whose range is not inside one region, or whose address has bits above
31, traps LADDR with that address, as does a store into the weight buffer; a stack instruction traps STACK with `sp` when
`sp` is not a multiple of 8 or its bytes leave [SLIMIT, SBASE); an atomic at an address that is not a multiple of its
size traps ALIGN with that address. -/
def Obligations.AddressTraps : Prop :=
  ∀ (z o : BitVec 2) (w : BitVec 1) (d a : BitVec 5) (g : BitVec 1) (i : BitVec 11) (b : BitVec 2) (k x y q : BitVec 4)
    (p : BitVec 3) (s : State),
    let c := s.core
    let sp := (c.rs 31).toNat
    let at' := c.rs a + (i.setWidth 64) <<< z.toNat
    let n := 2 ^ z.toNat
    let m : Nat := if w = 0 then 4 else 8
    let va := (c.rk k).vbase.toNat + (c.rn x).toNat
    let traps (i : Instr) (code : BitVec 8) (v : Word) : Prop := exec i s = .next (s.takeTrap code v c.pc)
    let issues (i : Instr) : Prop := c.waiting.committed = false ∧ c.misplaced i = false ∧ c.vigil ≠ 0 ∧ c.regStall s.now i = none
    (issues (.lds z d a g o i) →
      (2 ^ 32 ≤ at'.toNat ∨ regionOf c.poolMb at'.toNat = none ∨
        regionOf c.poolMb (at'.toNat + n - 1) ≠ regionOf c.poolMb at'.toNat) → traps (.lds z d a g o i) 2 at') ∧
    (issues (.sts z d a o i) →
      (2 ^ 32 ≤ at'.toNat ∨ regionOf c.poolMb at'.toNat = none ∨ regionOf c.poolMb at'.toNat = some .weight ∨
        regionOf c.poolMb (at'.toNat + n - 1) ≠ regionOf c.poolMb at'.toNat) → traps (.sts z d a o i) 2 at') ∧
    (issues (.call b) → sp % 8 ≠ 0 ∨ sp < c.slimit.toNat + 8 ∨ c.sbase.toNat < sp → traps (.call b) 4 (c.rs 31)) ∧
    (issues (.ret b) → sp % 8 ≠ 0 ∨ sp < c.slimit.toNat ∨ c.sbase.toNat < sp + 8 → traps (.ret b) 4 (c.rs 31)) ∧
    (issues .loopPush → sp % 8 ≠ 0 ∨ sp < c.slimit.toNat + 24 ∨ c.sbase.toNat < sp → traps .loopPush 4 (c.rs 31)) ∧
    (issues .loopPop → sp % 8 ≠ 0 ∨ sp < c.slimit.toNat ∨ c.sbase.toNat < sp + 24 → traps .loopPop 4 (c.rs 31)) ∧
    (issues (.amoAdd w q k x y p o) → va % m ≠ 0 → traps (.amoAdd w q k x y p o) 3 (BitVec.ofNat 64 va)) ∧
    (issues (.waita w q k x y p) → va % m ≠ 0 → traps (.waita w q k x y p) 3 (BitVec.ofNat 64 va))

/-- R352, R224: what taking a trap with a handler does, and nothing else: cause, value and resume address; the pending
transfer of a taken branch's delay slot; the handler mode; control at TVEC, six cycles on; reports of reductions that lost to it are kept (R355). Every other register, the loop
registers and VIGIL among them, and everything outside the core stand. R200: a word that decodes to nothing takes ILLEGAL
with the word in TRAPVAL, at its own address. -/
def Obligations.TrapEntry : Prop :=
  (∀ (code : BitVec 8) (v : Word) (pc : BitVec 32) (s : State), s.core.inh = false → s.core.tvec ≠ 0 →
     let c := s.core
     let t := s.takeTrap code v pc
     t.core.trapCause = code ∧ t.core.trapPc = pc &&& ~~~3 ∧ t.core.trapVal = v ∧ t.core.inh = true ∧ t.core.pc = c.tvec ∧
     t.core.slots = none ∧ t.core.nextIssue = s.now + 6 ∧
     (∀ n g e, c.slots = some ⟨n, some g, e⟩ → t.core.dsField = BitVec.ofNat 2 n ∧ t.core.trapTgt = g &&& ~~~3) ∧
     ((∀ n g e, c.slots ≠ some ⟨n, some g, e⟩) → t.core.dsField = 0 ∧ t.core.trapTgt = c.trapTgt) ∧
     { t.core.still with trapCause := c.trapCause, trapPc := c.trapPc, trapVal := c.trapVal, trapTgt := c.trapTgt,
                         dsField := c.dsField, inh := c.inh, headPc := c.headPc, headSlot := c.headSlot, headInh := c.headInh,
                         redOwed := c.redOwed, redHeld := c.redHeld } = c.still ∧
     t.core.redOwed = [] ∧ t.core.redHeld = c.redHeld ++ c.redOwed ∧
     (t.core.lc, t.core.ls, t.core.le, t.core.heldLs, t.core.heldLe) = (c.lc, c.ls, c.le, c.heldLs, c.heldLe) ∧
     t.core.vigil = c.vigil ∧ t.core.marks = c.marks ∧ t.core.owed = c.owed ∧ Outside s t ∧ BytesKept s t) ∧
  (∀ (s : State) (w : BitVec 32), s.core.inh = false → s.core.tvec ≠ 0 →
     ∃ t, exec (.reservedEncoding w) s = .next t ∧ t.core.trapCause = 1 ∧ t.core.trapVal = w.setWidth 64 ∧
       t.core.trapPc = s.core.pc &&& ~~~3 ∧ t.core.pc = s.core.tvec ∧ t.core.inh = true ∧ Outside s t)

/-- R356, R357, R147, R138, R359: with no handler a trap ends the task with FAULT and its code; in a handler it ends it with its
code plus 0x80; Vigil ends it with VIGIL and 9 in or out of one, an INTEGRITY that the instruction at issue meets with FAULT
and 13. The end names the core's rank and the instruction,
the strands of the task stop, and its end is entered in the journal. -/
def Obligations.TaskEndsByTrap : Prop :=
  ∀ (code : BitVec 8) (v : Word) (pc : BitVec 32) (t : Task) (s : State),
    s.task? s.core.task = some t → t.ending = none →
    let c := s.core
    let ends (status : EndStatus) (cause : BitVec 8) (at' : BitVec 32) (u : State) : Prop :=
      (u.task? c.task).bind (·.ending) = some ⟨t.idx, status, cause, c.rank, at'⟩ ∧
      Journals (.taskEnd t.id) s u ∧ u.core.ctx = .ended ∧
      (∀ k, k ∈ u.others → k.task = c.task → k.ctx = .ended ∧ k.cur = none)
    (c.inh = true → ends .fault (code + 0x80) pc (s.takeTrap code v pc)) ∧
    (c.inh = false → c.tvec = 0 → ends .fault code pc (s.takeTrap code v pc)) ∧
    ends .vigil 9 c.pc s.vigilFault ∧
    (∀ i, c.cur = some i → c.vigil = 0 → vigilExempt i = false → c.waiting.committed = false →
      ∃ u, exec .vigil s = .next u ∧ ends .vigil 9 c.pc u) ∧
    (∀ r, c.poisonAt s.now = some r → r.integrity = true → ∃ u, exec .integrity s = .next u ∧ ends .fault 13 c.pc u)

/-- R229, R231, R243, R352, R354: `trap #n` takes the trap of cause 8 with value n, resuming after itself, and counts against Vigil. `eret`
leaves the handler: control at TRAPPC, and STATUS.DS delay slots toward TRAPTGT if a transfer was pending; reports of
reductions that lost to its trap are due again (R355). A POISON that the instruction at issue meets, and a report that is pending
at the boundary, are taken there, before the instruction, at its own address. -/
def Obligations.TrapAndReturn : Prop :=
  ∀ (n : BitVec 5) (s : State),
    let c := s.core
    Completes (.trap n) s (fun t => ∃ u : State, t = u.takeTrap 8 (n.setWidth 64) (c.pc + 4) ∧
      u.core.vigil = c.vigil - 1 ∧ u.core.still = c.still ∧ u.core.path = c.path ∧ Outside s u ∧ BytesKept s u) ∧
    Completes .eret s (fun t =>
      t.core.inh = false ∧ t.core.dsField = 0 ∧ t.core.pc = c.trapPc &&& ~~~3 ∧ t.core.vigil = c.vigil - 1 ∧
      (c.dsField = 0 → t.core.slots = none) ∧
      (c.dsField ≠ 0 → ∃ e, t.core.slots = some ⟨c.dsField.toNat, some (c.trapTgt &&& ~~~3), e⟩) ∧
      t.core.redOwed = c.redHeld ++ c.redOwed ∧ t.core.redHeld = [] ∧
      { t.core.still with inh := c.inh, dsField := c.dsField, redOwed := c.redOwed, redHeld := c.redHeld } = c.still ∧
      (t.core.lc, t.core.ls, t.core.le, t.core.heldLs, t.core.heldLe) = (c.lc, c.ls, c.le, c.heldLs, c.heldLe) ∧
      Outside s t ∧ BytesKept s t) ∧
    (∀ r, c.poisonAt s.now = some r → r.integrity = false → c.inh = false → c.tvec ≠ 0 → ∃ t, exec .poison s = .next t ∧
      t.core.trapCause = 12 ∧ t.core.trapVal = r.src ++ r.reg ++ r.addr ∧ t.core.trapPc = c.pc &&& ~~~3 ∧ t.core.pc = c.tvec ∧
      t.core.inh = true ∧ t.core.vigil = c.vigil ∧ (t.core.s, t.core.v, t.core.p, t.core.k) = (c.s, c.v, c.p, c.k)) ∧
    (∀ r, c.nextReport s.now = some r → (∀ x, r = .read x ∨ r = .reduction x → x.integrity = false) → c.inh = false → c.tvec ≠ 0 →
      ∃ t, exec .deferredReportDelivery s = .next t ∧ t.core.trapPc = c.pc &&& ~~~3 ∧ t.core.pc = c.tvec ∧ t.core.inh = true ∧
        t.core.trapCause = (match r with
          | .precise _ | .imprecise _ => 14
          | .engine _ x => if x.schedmiss then 11 else 10
          | .read _ | .reduction _ => 12) ∧
        t.core.vigil = c.vigil ∧ (t.core.s, t.core.v, t.core.p, t.core.k) = (c.s, c.v, c.p, c.k))

/-! ## Control registers and counters (10 R233-R236, 19 R400-R404) -/

/-- R233-R236, R404: `mfc` reads each control register of R234. A counter is read with the events of this very cycle, on
which the `mfc` counts as an instruction retired; the end of the cycle gives the register what the counter then shows, with
every event of the cycle. -/
def Obligations.ControlRegistersRead : Prop :=
  ∀ (d y x : BitVec 5) (s : State),
    let c := s.core
    let n := ctrlNumber x y
    let reads (v : Word) : Prop := Puts (.mfc d y x) d s v
    (n = 0 → reads ((0 : BitVec 59) ++ c.dsField ++ BitVec.ofBool c.inh ++ BitVec.ofBool c.revpend ++ BitVec.ofBool c.oob)) ∧
    (n = 1 → reads (c.trapCause.setWidth 64)) ∧ (n = 2 → reads (c.trapPc.setWidth 64)) ∧ (n = 3 → reads c.trapVal) ∧
    (n = 4 → reads (c.tvec.setWidth 64)) ∧ (n = 5 → reads (c.trapTgt.setWidth 64)) ∧ (n = 6 → reads (c.sbase.setWidth 64)) ∧
    (n = 7 → reads (c.slimit.setWidth 64)) ∧ (n = 8 → reads c.calendar) ∧ (n = 9 → reads (c.vigil.setWidth 64)) ∧
    (n = 10 → reads c.tags) ∧ (n = 11 → reads c.tagrev) ∧ (n = 12 → reads (c.oobcnt.setWidth 64)) ∧
    (n = 13 → reads (c.fmtstat.setWidth 64)) ∧ (n = 14 → reads (c.waitcfg.setWidth 64)) ∧ (n = 15 → reads c.crew) ∧
    (n = 16 → reads c.vtopo) ∧ (n = 17 → reads (c.dbgcfg.setWidth 64)) ∧
    (n = 18 → reads ((if c.lan.twSince < s.now then c.lan.tw else c.lan.twOld).setWidth 64)) ∧ (n = 19 → reads c.samplecfg) ∧
    (n = 20 → reads c.wpbase[0]) ∧ (n = 21 → reads c.wpmask[0]) ∧ (n = 22 → reads c.wpbase[1]) ∧ (n = 23 → reads c.wpmask[1]) ∧
    (∀ k : Fin 16, (n = 32 + k → reads c.ctrsel[k]) ∧ (n = 48 + k → reads ({ c.note 2 with stall := 0 }.ctrNow k) ∧
      Completes (.mfc d y x) s (fun t => t.core.ctrRead = some (d, BitVec.ofNat 4 k))) ∧
      (c.ctrRead = some (d, BitVec.ofNat 4 k) → c.countCycle.rs d = (if d = 0 then 0 else c.ctrNow k) ∧
        ∀ r, r ≠ d → c.countCycle.rs r = c.rs r))

/-- R233-R236, R408: `mtc` writes each control register field by field: RO fields stay, W1C bits clear where the value has 1
unless hardware sets them on this cycle, DS = 3 and MODE = 3 are stored as 0. A write that sets MODE 2 with ATOM first waits
until the watch is installed; the installation comes when it is due. R401-R404: `ctr.sel`, and `mtc` of CTRSEL, write EVENT, EN and HND; a write with CLR, or one
that changes a field, clears the counter. A counter that stands at 2^48 − 1 wraps with its event: COUNT 0 and OVF 1. -/
def Obligations.ControlRegistersWritten : Prop :=
  (∀ (a y x : BitVec 5) (s : State),
     let c := s.core
     let n := ctrlNumber x y
     let v := c.rs a
     let lo : BitVec 32 := v.setWidth 32
     let mode := v.extractLsb' 16 2
     let waits := (n = 21 ∨ n = 23) ∧ mode = 2 ∧ v.getLsbD 20 = true
     let mask : Word := if mode = 3 then v &&& 0x1CFFFF else v &&& 0x1FFFFF
     let writes (f : Core → Core) : Prop :=
       (c.waiting = .none ∧ ¬waits) ∨ (∃ due, c.waiting = .install due true) → Completes (.mtc a y x) s (Does f s)
     (waits → c.waiting = .none → Completes (.mtc a y x) s fun t =>
       t.core.waiting = .install s.dueCycle false ∧ t.core.pc = c.pc ∧ t.core.vigil = c.vigil ∧ t.core.still = c.still ∧
       OutsideFree s t ∧ BytesKept s t) ∧
     (n = 0 → writes fun c => { c with
       oob := (c.oob && !v.getLsbD 0) || c.statusNow.getLsbD 0, revpend := (c.revpend && !v.getLsbD 1) || c.statusNow.getLsbD 1
       dsField := if v.extractLsb' 3 2 = 3 then 0 else v.extractLsb' 3 2 }) ∧
     (n = 1 → writes fun c => { c with trapCause := v.setWidth 8 }) ∧ (n = 2 → writes fun c => { c with trapPc := lo &&& ~~~3 }) ∧
     (n = 3 → writes fun c => { c with trapVal := v }) ∧ (n = 4 → writes fun c => { c with tvec := lo &&& ~~~3 }) ∧
     (n = 5 → writes fun c => { c with trapTgt := lo &&& ~~~3 }) ∧ (n = 6 → writes fun c => { c with sbase := lo &&& ~~~7 }) ∧
     (n = 7 → writes fun c => { c with slimit := lo &&& ~~~7 }) ∧ (n = 12 → writes fun c => { c with oobcnt := lo }) ∧
     (n = 13 → writes fun c => { c with fmtstat := (c.fmtstat &&& ~~~(v.setWidth 5)) ||| c.fmtNow }) ∧
     (n = 14 → writes fun c => { c with waitcfg := v.setWidth 5 }) ∧
     (n = 20 → writes fun c => { c with wpbase := c.wpbase.set 0 (v &&& 0xFFFFFFFFFFFFF0) }) ∧
     (n = 22 → writes fun c => { c with wpbase := c.wpbase.set 1 (v &&& 0xFFFFFFFFFFFFF0) }) ∧
     (n = 21 → writes fun c => { c with wpmask := c.wpmask.set 0 mask }) ∧
     (n = 23 → writes fun c => { c with wpmask := c.wpmask.set 1 mask }) ∧
     ((8 ≤ n ∧ n ≤ 11) ∨ (15 ≤ n ∧ n ≤ 19) ∨ 48 ≤ n → writes fun c => c)) ∧
  (∀ (a y x : BitVec 5) (k : BitVec 4) (s : State),
     let v := s.core.rs a
     let new : Word := v &&& 0x180FF
     let selects (c t : Core) : Prop :=
       t.ctrsel = c.ctrsel.set k.toNat new ∧
       t.ctrval = (if v.getLsbD 17 = true ∨ new ≠ c.ctrsel[k.toNat] then c.ctrval.set k.toNat 0 else c.ctrval) ∧
       { t.still with ctrsel := c.ctrsel, ctrval := c.ctrval } = c.still
     Completes (.ctrSel a k) s (fun t => selects s.core t.core ∧ Outside s t ∧ BytesKept s t ∧ Retires s t) ∧
     (ctrlNumber x y = 32 + k.toNat → s.core.waiting = .none →
       Completes (.mtc a y x) s fun t => selects s.core t.core ∧ Outside s t ∧ BytesKept s t ∧ Retires s t) ∧
     (s.core.ctrval[k.toNat].extractLsb' 0 48 = BitVec.allOnes 48 → s.core.countsNow k.toFin = true →
       ∃ t, exec (.counterWrap k) s = .next t ∧ t.core.ctrval[k.toNat] = 1#64 <<< 63 ∧
         (∀ j : Fin 16, j ≠ k.toFin → t.core.ctrval[j] = s.core.ctrval[j]) ∧
         { t.core with ctrval := s.core.ctrval } = s.core ∧ Outside s t)) ∧
  (∀ (due : Nat) (s : State), s.core.waiting = .install due false → due ≤ s.now →
     ∃ t, exec .watchInstalled s = .next t ∧ t.core.waiting = .install due true ∧ { t.core with waiting := s.core.waiting } = s.core ∧
       Outside s t)


/-! ## The end of a task, pre-emption, the resident service (07 R137, R148; 03 R54; 10 R230) -/

/-- R148, R54, R407: `yield` sets VIGIL to 16 times its count as it retires. With nothing pending it goes on at once and changes
nothing else; with a pre-emption or a dump pending it waits until the engines, the accesses, the exposures and the reads of its
loads are done and no report is due; a live dump then takes a copy of the core; a pre-empting core stands drained for F1. With
REVPEND set it takes REVOKED instead, clearing REVPEND, its value the token registers that are stale; what it finds stale is
stale on the core from then on (R60). R54: the value of REVOKED has bit i set when token register i names
an entry of its own partition that is no longer ACTIVE at its generation. -/
def Obligations.Yield : Prop :=
  (∀ (n : BitVec 12) (m : BitVec 16) (s : State),
     let c := s.core
     let v : BitVec 16 := n.setWidth 16 <<< 4
     let idle (e : Engine) : Prop := e.queue = [] ∧ e.hand = [] ∧ e.held = none ∧ e.running = []
     let done := idle c.matrix ∧ idle c.copy ∧ idle c.lantern ∧ c.acc = [] ∧ c.timed = [] ∧ c.late = [] ∧
       c.reporting s.now = false
     let waits (t : State) : Prop := t.core.waiting = .drain ∧ t.core.pc = c.pc ∧ t.core.vigil = c.vigil ∧
       t.core.still = c.still ∧ Outside s t ∧ BytesKept s t
     let leaves (t : State) : Prop := t.core.vigil = v ∧ t.core.path = c.advance.path ∧ t.core.cur = none ∧
       t.core.waiting = .none ∧ BytesKept s t
     (c.waiting = .none ∧ c.revpend = false ∨ c.waiting = .drain →
       (c.preempt = false → c.dump = false → Completes (.yield n m) s fun t => leaves t ∧ t.core.still = c.still ∧ Outside s t) ∧
       (c.preempt = true ∨ c.dump = true → ¬done → Completes (.yield n m) s waits) ∧
       (c.preempt = true → c.dump = false → done → Completes (.yield n m) s waits) ∧
       (c.dump = true → done → Completes (.yield n m) s fun t =>
         { t.core.still with dump := true } = c.still ∧ (∃ k : Core, k.still = c.still ∧ k.vigil = v ∧ k.path = c.path ∧
           t.dumps = s.dumps ++ [⟨c.phys, true, k, s.allotment, []⟩]) ∧ { t with core := s.core, dumps := s.dumps } = s ∧
         (c.preempt = false → leaves t) ∧
         (c.preempt = true → t.core.waiting = .drain ∧ t.core.pc = c.pc ∧ t.core.vigil = c.vigil ∧ BytesKept s t))) ∧
     (c.waiting = .none → c.revpend = true → Completes (.yield n m) s fun t =>
       (∃ u, t.core.waiting = .until u ∧ s.now ≤ u ∧ u ≤ s.now + 64) ∧ t.core.pc = c.pc ∧ t.core.still = c.still ∧
         t.core.vigil = c.vigil ∧ OutsideFree s t) ∧
     (∀ u, c.waiting = .until u → u ≤ s.now → Completes (.yield n m) s fun t =>
       ∃ k : State, t = k.takeTrap 7 s.staleMask c.pc ∧ { k.core with revpend := c.revpend, tfc := c.tfc } = c ∧
         k.core.revpend = false ∧ Outside s k ∧ BytesKept s k ∧
         ∀ e, e ∈ k.core.tfc ↔ e ∈ c.tfc ∧ ((∃ i, (c.rk i).index.toNat = e.index) →
           (s.entry e.index).state = .active ∧ (s.entry e.index).gen = e.gen))) ∧
  (∀ (i : BitVec 4) (s : State),
     let t := s.core.rk i
     let e := s.entry t.index.toNat
     s.staleMask.getLsbD i.toNat = true ↔
       t.gen ≠ 0 ∧ t.part.toNat = s.core.partId ∧ (e.state = .free ∨ e.owner = t.part.toNat) ∧
         (e.state ≠ .active ∨ e.gen ≠ t.gen))

/-- R137: `end` waits until its engines, accesses and exposures are done and no report is due (R151); then the core runs no more of its task, FQ and the
parameter stacks are empty, its rank counts as ended, and when every crew core has ended the task ends OK. -/
def Obligations.EndOfTask : Prop :=
  ∀ (t : Task) (s : State),
    let c := s.core
    let idle (e : Engine) : Prop := e.queue = [] ∧ e.hand = [] ∧ e.held = none ∧ e.running = []
    let done := idle c.matrix ∧ idle c.copy ∧ idle c.lantern ∧ c.acc = [] ∧ c.timed = [] ∧ c.reporting s.now = false
    (¬done → Completes .endOp s fun u => u.core.waiting = .drain ∧ u.core.pc = c.pc ∧ u.core.still = c.still ∧
      Outside s u ∧ BytesKept s u) ∧
    (done → s.task? c.task = some t → Completes .endOp s fun u =>
      u.core.ctx = .ended ∧ u.core.fq = [] ∧ u.core.matrix.stack = [] ∧ u.core.copy.stack = [] ∧ u.core.lantern.stack = [] ∧
      u.core.vigil = c.vigil ∧ (u.core.s, u.core.v, u.core.p, u.core.k, u.core.scr) = (c.s, c.v, c.p, c.k, c.scr) ∧
      u.others = s.others ∧ BytesKept s u ∧
      (∃ x, u.task? c.task = some x ∧ x.ended = t.ended ++ [c.rank] ∧ x.ending =
        (if t.ending = none ∧ t.cores.length ≤ t.ended.length + 1 then some ⟨t.idx, .ok, 0, 0, 0⟩ else t.ending)) ∧
      (if t.ending = none ∧ t.cores.length ≤ t.ended.length + 1 then Journals (.taskEnd t.id) s u else u.fw = s.fw))

/-- R230: `svc` acts as a `fence.pk`, then asks firmware and waits; the reply writes `s1`, when it has a value for it, and
`s2`, and the `svc` retires. The four services: the package time; the telemetry log of 65,536 records, a full one
counting the dropped record; the microseconds left, rounded up; the unassigned numbers. -/
def Obligations.Service : Prop :=
  ∀ (k : BitVec 5) (due n : Nat) (r1 : Option Word) (r2 : Word) (c : Core) (p : Partition) (s : State),
    let replies (num : BitVec 5) (i : Instr) (r1 : Option Word) (r2 : Word) (u : State) : Prop :=
      s.coreAt n = some c → c.cur = some (.svc num) → c.waiting = .svc due none → due ≤ s.now → c.ctx = .running →
      ∃ t, exec i s = .next t ∧ OnlyCore n (fun c => { c with waiting := .svc due (some (r1, r2)) }) u t
    (s.core.waiting = .none → s.core.ownDone false = true → s.seenHere = true →
      s.reached (s.dieClock (dieOf s.core.phys)) = true → Completes (.svc k) s fun t => t.core.waiting = .svc s.dueCycle none ∧ t.core.pc = s.core.pc ∧ t.core.still = s.core.still ∧
        t.core.vigil = s.core.vigil ∧ OutsideFree s t ∧ BytesKept s t) ∧
    (s.core.waiting = .svc due (some (r1, r2)) → Completes (.svc k) s fun t =>
      t.core.rs 1 = r1.getD (s.core.rs 1) ∧ t.core.rs 2 = r2 ∧ (∀ r, r ≠ 1 → r ≠ 2 → t.core.rs r = s.core.rs r) ∧
      { t.core.still with s := s.core.s } = s.core.still ∧ Outside s t ∧ BytesKept s t ∧ Retires s t) ∧
    replies 0 (.svcTime n) (some (BitVec.ofNat 64 s.time)) 0 s ∧
    (mapGet s.parts c.partId = some p → p.log.length < 65536 → replies 1 (.svcLog n) none 0
      { s with parts := mapSet s.parts c.partId { p with
        log := p.log ++ [[(c.rs 1).toNat, (c.rs 2).toNat, (c.rs 3).toNat, (c.rs 4).toNat, c.rank]] } }) ∧
    (mapGet s.parts c.partId = some p → 65536 ≤ p.log.length → replies 1 (.svcLog n) none 1
      { s with parts := mapSet s.parts c.partId { p with logDropped := p.logDropped + 1 } }) ∧
    (∀ t left, s.task? c.task = some t → s.limitLeft t = some left →
      replies 2 (.svcLimit n) (some (BitVec.ofNat 64 ((left + 999) / 1000))) 0 s) ∧
    (∀ t, s.task? c.task = some t → s.limitLeft t = none → replies 2 (.svcLimit n) (some 0) 0 s) ∧
    (∀ num : BitVec 5, 3 ≤ num.toNat → replies num (.svcUnassigned n) none (BitVec.allOnes 64) s)

/-! ## Synchronisation (05 R95, R105, R106; 07 R140-R145; 11 R255-R262; 13 R292-R294) -/

/-- R93, R95, R96, R105, R106, R254: a fence retires, changing nothing else, once every earlier access of the strand is performed
(one to remote-home memory counts only at scope DM), the later rows of a vector load read, every store exposed, and every store the strand has seen applied in its own
die, and for PK and DM once every die has every
store that this die had; until then it stalls. `fence.co` also makes taken transfers fetch anew (R212). -/
def Obligations.Fences : Prop :=
  ∀ (s : State),
    let c := s.core
    let seen := c.depMsc = [] ∧ ∀ e, e < 4 → c.dep.getD e 0 ≤ s.countIn (dieOf c.phys) e
    let done (dm : Bool) : Prop :=
      (∀ a, a ∈ c.acc → dm = false ∧ ∃ p, a.space = .lent p) ∧ (∀ w, w ∈ c.timed → w.strand = false) ∧ c.late = [] ∧ seen
    let everywhere (clock : Nat → Nat) : Prop := ∀ d e, d < 4 → e < 4 → clock e ≤ s.countIn d e
    let here (e : Nat) : Nat := s.countIn (dieOf c.phys) e
    let stalls (i : Instr) : Prop := gate i s = .go → exec i s = .next (s.stallFor 13)
    let passes (i : Instr) : Prop := Completes i s (OnlyRetires s)
    (done false → Completes .fenceCo s (Does (fun c => { c with coFence := s.now + 1 }) s) ∧ passes .fenceCl ∧ passes .fenceDi) ∧
    (¬done false → stalls .fenceCo ∧ stalls .fenceCl ∧ stalls .fenceDi) ∧
    (c.waiting = .none →
      (done false → everywhere here → passes .fencePk) ∧ (done true → everywhere here → passes .fenceDm) ∧
      (¬done false → stalls .fencePk) ∧ (¬done true → stalls .fenceDm) ∧
      (∀ dm i, (dm = false ∧ i = .fencePk) ∨ (dm = true ∧ i = .fenceDm) → done dm → ¬everywhere here →
        Completes i s fun t => ∃ clock, t.core.waiting = .fence clock ∧ (∀ e, e < 4 → clock.getD e 0 = here e) ∧
          t.core.pc = c.pc ∧ t.core.vigil = c.vigil ∧ t.core.still = c.still ∧ Outside s t ∧ BytesKept s t)) ∧
    (∀ clock, c.waiting = .fence clock →
      (everywhere (clock.getD · 0) → passes .fencePk ∧ passes .fenceDm) ∧
      (¬everywhere (clock.getD · 0) → stalls .fencePk ∧ stalls .fenceDm))

/-- R140, R141: `sync` and `align` act as a `fence.pk`, arrive at the core's next instance and wait for its release. An
instance at which every crew core has arrived, or has retired `end`, releases: its arrivals are cleared, and when all were
`align` every core that has not ended takes the largest of their CALENDARs, to which this cycle's own count is still to
come; every core that waits there hears which core arrived last, and retires. Others than a crew of one release after an
untimed while; a crew of one does when the release comes to it, in the cycle after (the model's choice, log entry 66). -/
def Obligations.Equinox : Prop :=
  ∀ (t : Task) (n : Nat) (s : State),
    let c := s.core
    let arrives (i : Instr) (al : Bool) : Prop :=
      c.waiting = .none → c.ownDone false = true → s.seenHere = true → s.reached (s.dieClock (dieOf c.phys)) = true →
      s.task? c.task = some t →
      Completes i s fun u =>
        (u.task? c.task = some { t with arrivals := t.arrivals ++ [(c.rank, al)], lastArriver := c.rank }) ∧
        u.core.waiting = .equinox (c.eqx + 1) none ∧ u.core.still = c.still ∧ u.core.pc = c.pc ∧ u.core.vigil = c.vigil ∧
        { u with core := s.core, tasks := s.tasks } = s ∧ BytesKept s u
    let leaves (i : Instr) : Prop :=
      (∀ last, c.waiting = .equinox n (some last) → Completes i s (Does (fun c => { c with eqx := c.eqx + 1 })
        (s.logWait c i 0 (setterCore Config.packageNumber last)))) ∧
      (c.waiting = .equinox n none → exec i s = .next (s.stallFor 10))
    let live := t.liveCores
    let hears (k : Core) : Core :=
      match k.waiting with
      | .equinox m none => { k with waiting := .equinox m (some t.lastArriver) }
      | _ => k
    arrives .sync false ∧ arrives .alignEquinox true ∧ leaves .sync ∧ leaves .alignEquinox ∧
    (s.task? n = some t → t.ending = none → t.arrivals ≠ [] →
      (∀ r, r < t.cores.length → r ∈ t.ended ∨ ∃ a, (r, a) ∈ t.arrivals) →
      (t.cores.length = 1 ∨ (t.releaseDue ≠ 0 ∧ t.releaseDue ≤ s.now) → ∃ u, exec (.equinoxRelease n) s = .next u ∧
        u.task? n = some { t with released := t.released + 1, arrivals := [], releaseDue := 0 } ∧
        ((∃ r, (r, false) ∈ t.arrivals) → u.cores = s.cores.map fun k => if k.phys ∈ live then hears k else k) ∧
        ((∀ a, a ∈ t.arrivals → a.2 = true) → ∃ top : Nat,
          (∀ k, k ∈ s.cores → k.phys ∈ live → k.calendarNow ≤ top) ∧
          ((∃ k, k ∈ s.cores ∧ k.phys ∈ live) → ∃ k, k ∈ s.cores ∧ k.phys ∈ live ∧ k.calendarNow = top) ∧
          u.cores = s.cores.map fun k => if k.phys ∈ live then { hears k with calendar := BitVec.ofNat 64 top } else k) ∧
        { u with core := s.core, others := s.others, tasks := s.tasks } = s) ∧
      (t.cores.length ≠ 1 → t.releaseDue = 0 → ∃ u, exec (.equinoxRelease n) s = .next u ∧
        u.task? n = some { t with releaseDue := s.dueCycle } ∧ s.now < s.dueCycle ∧
        { u with tasks := s.tasks, fv := s.fv } = s))

/-- R257-R259: the tag waits retire when their test holds, and stall until it does; `tag.ffr` gives the lowest tag of the mask
that is set, with its TAGREV bit as bit 8, and BC; `tag.clr` clears the tags of the mask in TAGS and TAGREV but for those an
engine sets on this very cycle. -/
def Obligations.Tags : Prop :=
  ∀ (d a : BitVec 5) (s : State),
    let c := s.core
    let m := c.rs a
    let leaves (i : Instr) : Prop := Completes i s fun t =>
      OnlyRetires (s.logWait c i 0 (c.tagSetter m)) t ∧ (c.wlog = false ∨ c.stall.toNat < 9 → OnlyRetires s t)
    let stays (i : Instr) : Prop := gate i s = .go → exec i s = .next (s.stallFor 9)
    (m = 0 ∨ c.tags &&& m ≠ 0 → leaves (.tagWany a)) ∧ (m ≠ 0 → c.tags &&& m = 0 → stays (.tagWany a)) ∧
    (c.tags &&& m = m → leaves (.tagWall a)) ∧ (c.tags &&& m ≠ m → stays (.tagWall a)) ∧
    (c.tags &&& m = 0 → Completes (.tagFfr d a) s fun t =>
      t.core.rs d = (if d = 0 then 0 else 64) ∧ t.core.bc = false ∧ OnlyScalarBc d s t) ∧
    (∀ i, i < 64 → (c.tags &&& m).getLsbD i = true → (∀ j, j < i → (c.tags &&& m).getLsbD j = false) →
      Completes (.tagFfr d a) s fun t =>
        t.core.rs d = (if d = 0 then 0 else BitVec.ofNat 64 (i + (if c.tagrev.getLsbD i then 256 else 0))) ∧
          t.core.bc = true ∧ OnlyScalarBc d s t) ∧
    Completes (.tagClr a) s fun t =>
      (∀ i, i < 64 → t.core.tags.getLsbD i =
        ((c.tags.getLsbD i && !m.getLsbD i) || c.doneNow.any fun x => x.1 % 64 == i)) ∧
      (∀ i, i < 64 → t.core.tagrev.getLsbD i =
        ((c.tagrev.getLsbD i && !m.getLsbD i) || c.doneNow.any fun x => x.1 % 64 == i && decide (4 ≤ x.2))) ∧
      { t.core.still with tags := c.tags, tagrev := c.tagrev } = c.still ∧ Outside s t ∧ BytesKept s t ∧ Retires s t

/-- R144: `bar.arrive` and `bar.drop` give the phase and change one object of the own cluster: an arrival joins ARRMASK, or
JOIN for a position that is no member; a member that has already arrived is held for the next phase after its last; a drop leaves
MEMBERS and JOIN. Each marks the object for the completion test and keeps which position came last in the order of R145. A held
arrival is applied once the phase it belongs to has begun. `bar.wait` returns at once when the phase is 1 to 2^31 past; else it
stalls until the phase has completed and the message of it, which names the position of the last arrival, has come, an untimed while
later (R262), and retires. The arrivals wait while an earlier access or store is not done, or one the strand has seen is not in
its die (R93). R145: of one cycle's arrivals and drops the object is the same whichever is applied first. R144: the completion
test at a cycle's end in which one was applied: with every member arrived, the phase moves on by one, ARRMASK is cleared and JOIN
becomes members; else the object stands. -/
def Obligations.Barriers : Prop :=
  (∀ (d a id : BitVec 5) (cl : Nat) (pos : BitVec 3) (s : State),
     let c := s.core
     let k := clusterOf c.phys
     let q := posOf c.phys
     let bar (s : State) (k : Nat) (id : BitVec 5) : Barrier := (s.cluster k).bars[id.toNat]
     let b := bar s k id
     let bit : BitVec 8 := 1#8 <<< q
     let member := b.members &&& bit ≠ 0
     let again := member ∧ (b.arr &&& bit ≠ 0 ∨ ∃ x, x ∈ b.held ∧ x.1 = q)
     let next : BitVec 32 := (((b.held.filter fun x => x.1 == q).getLast?).elim b.phase fun x => x.2) + 1
     let at' (k : Nat) (b' : Barrier) (t : State) : Prop :=
       bar t k id = b' ∧
       (∀ j, j ≠ id → bar t k j = bar s k j) ∧ ∀ j, j ≠ k → t.cluster j = s.cluster j
     let gives (phase : BitVec 32) (b' : Barrier) (t : State) : Prop :=
       t.core.rs d = (if d = 0 then 0 else phase.setWidth 64) ∧ (∀ r, r ≠ d → t.core.rs r = c.rs r) ∧
       { t.core.still with s := c.s } = c.still ∧ at' k b' t ∧ { t with core := s.core, clusters := s.clusters, fv := s.fv } = s ∧
       BytesKept s t ∧ Retires s t
     let ago := (b.phase - (c.rs a).setWidth 32).toNat
     let past := 1 ≤ ago ∧ ago ≤ 2 ^ 31
     let arrival : Barrier := { b with touched := true, cand := max b.cand (8 + q) }
     (c.ownDone false = true → s.seenHere = true →
       (¬again → member → Completes (.barArrive d id) s (gives b.phase { arrival with arr := b.arr ||| bit })) ∧
       (¬again → ¬member → Completes (.barArrive d id) s (gives b.phase { arrival with join := b.join ||| bit })) ∧
       (again → Completes (.barArrive d id) s (gives next { b with held := b.held ++ [(q, next)] })) ∧
       Completes (.barDrop d id) s (gives b.phase { b with
         members := b.members &&& ~~~bit, join := b.join &&& ~~~bit, touched := true, cand := max b.cand q })) ∧
     (c.ownDone false = false ∨ s.seenHere = false → ∀ i, i = .barArrive d id ∨ i = .barDrop d id → gate i s = .go →
       exec i s = .next (s.stallFor 8)) ∧
     (c.waiting = .none → c.stall ≠ 11 → past → Completes (.barWait a id) s (OnlyRetires s)) ∧
     (c.waiting = .none → c.stall = 11 ∨ ¬past → gate (.barWait a id) s = .go →
       exec (.barWait a id) s = .next (s.stallFor 11)) ∧
     (c.cur = some (.barWait a id) → c.waiting = .none → c.stall = 11 →
       (past → OnlyCore c.phys (fun x => { x with waiting := .told s.dueCycle (setterCore Config.packageNumber
         (((s.coreAt (k * 8 + b.lastPos)).map Core.vcore).getD 0)) }) { s with fv := s.fv + 1 } (s.tellWait c)) ∧
       (¬past → s.tellWait c = s)) ∧
     (∀ due setter, c.waiting = .told due setter →
       (due ≤ s.now → Completes (.barWait a id) s (OnlyRetires (s.logWait c (.barWait a id) 0 setter))) ∧
       (s.now < due → gate (.barWait a id) s = .go → exec (.barWait a id) s = .next (s.stallFor 11))) ∧
     (let b := bar s cl id
      let bit : BitVec 8 := 1#8 <<< pos.toNat
      (pos.toNat, b.phase) ∈ b.held → ∃ t, exec (.barHeldArrival cl id pos) s = .next t ∧
       at' cl (let x : Barrier := { b with
                  held := b.held.erase (pos.toNat, b.phase), touched := true, cand := max b.cand (8 + pos.toNat) }
               if b.members &&& bit = 0 then { x with join := b.join ||| bit } else { x with arr := b.arr ||| bit }) t)) ∧
  (∀ (b : Barrier) (q r : Nat), q < 8 → r < 8 →
     (b.arrive q).arrive r = (b.arrive r).arrive q ∧ (b.drop q).drop r = (b.drop r).drop q ∧
     (q ≠ r → (b.drop q).arrive r = (b.arrive r).drop q)) ∧
  (let b : Barrier := ⟨7, 0xF, 3, 0, [], false, 0, 0⟩
   let t := ((b.drop 3).arrive 2).complete
   t.phase = 8 ∧ t.members = 7 ∧ t.arr = 0 ∧ t.complete = t) ∧
  (∀ b : Barrier,
     (b.touched = true → b.arr &&& b.members = b.members →
       let t := b.complete
       t.phase = b.phase + 1 ∧ t.arr = 0 ∧ t.members = b.members ||| b.join ∧ t.join = 0 ∧ t.held = b.held ∧
         t.lastPos = b.cand % 8 ∧ t.touched = false ∧ t.cand = 0) ∧
     (b.touched = false ∨ b.arr &&& b.members ≠ b.members →
       let t := b.complete
       t = { b with touched := false, cand := 0 }))

/-- R204, R292-R294: `enq.m`, `enq.c` and `enq.l` append a packet of four words to the queue of their engine, with the values
of the registers that its `sval` and `ktok` words name and with what its collective comes after (R97), to be taken from two
cycles on; `fmtq` appends a format word.
Nothing else changes. -/
def Obligations.EngineQueues : Prop :=
  ∀ (a : BitVec 5) (s : State),
    let c := s.core
    let item (i : Nat) : EItem :=
      let w := (c.rs a).extractLsb' (16 * i) 16
      ⟨w, if 0x100 ≤ w.toNat ∧ w.toNat < 0x120 then some (.int (c.rs (w.setWidth 5)))
          else if 0x200 ≤ w.toNat ∧ w.toNat < 0x210 then some (.tok (c.rk (w.setWidth 4))) else none, c.released⟩
    let pushed (e : Engine) : Engine := { e with queue := e.queue ++ [⟨[item 0, item 1, item 2, item 3], s.now + 2⟩] }
    Completes (.enqM a) s (Does (fun c => { c with matrix := pushed c.matrix }) s) ∧
    Completes (.enqC a) s (Does (fun c => { c with copy := pushed c.copy }) s) ∧
    Completes (.enqL a) s (Does (fun c => { c with lantern := pushed c.lantern }) s) ∧
    Completes (.fmtq a) s (Does (fun c => { c with fq := c.fq ++ [c.rs a] }) s)

/-! ## Tokens (02 R10, 03 R36-R52) -/

/-- R10, R37, R51, R52: the check of an access through a token: invalid for generation 0 or another partition's token or
entry; a miss when no line of the token frame cache holds the frame of its first byte, or of its last when that lies in the next
one (for an offset beyond the extent the frame of VBASE: the model's choice, log entry 76); stale when such a line is not ACTIVE at
its generation; out of extent for bytes beyond the length, or for rights it lacks; else it passes. R51-R53, R120, R240, R49: a
token access that fails its check is null: a load's, an atomic's or a `kld`'s destination becomes 0, a store does nothing, `waita` ends
with 0 and BC 1; a stale one sets REVPEND, another counts in OOBCNT and sets OOB; no memory is touched. -/
def Obligations.TokenChecks : Prop :=
  (∀ (t : Token) (off n : Nat) (need : BitVec 2) (s : State),
     let c := s.core
     let e := s.entry t.index.toNat
     let len := t.lenm1.toNat + 1
     let frame (o : Nat) : Nat := (t.vbase.toNat + (if o < len then o else 0)) / 65536
     let line (o : Nat) : Option TfcEntry := c.tfc.find? fun l => l.index = t.index.toNat && l.frame = frame o
     let looks (o : Nat) : Prop := o = off ∨ (o = off + n - 1 ∧ n ≠ 0 ∧ off + n ≤ len)
     let foreign := t.gen = 0 ∨ t.part.toNat ≠ c.partId ∨ (e.state ≠ .free ∧ e.owner ≠ t.part.toNat)
     (foreign → s.checkRights t off n need = .invalid) ∧
     (¬foreign → (∃ o, looks o ∧ line o = none) → s.checkRights t off n need = .miss) ∧
     (¬foreign → (∀ o, looks o → line o ≠ none) →
       ((∃ o l, looks o ∧ line o = some l ∧ (l.active = false ∨ l.gen ≠ t.gen)) → s.checkRights t off n need = .stale) ∧
       ((∀ o l, looks o → line o = some l → l.active = true ∧ l.gen = t.gen) →
         (len < off + n → s.checkRights t off n need = .oob) ∧
         (off + n ≤ len → s.checkRights t off n need = if t.rights &&& need = need then .ok else .oob)))) ∧
  (∀ (d5 b5 : BitVec 5) (d k b x : BitVec 4) (p : BitVec 3) (o z : BitVec 2) (g w : BitVec 1) (s : State),
     let c := s.core
     let book (chk : Check) (t : State) : Prop :=
       (chk = .stale → t.core.revpend = true ∧ t.core.oob = c.oob ∧ t.core.oobcnt = c.oobcnt) ∧
       (chk = .oob ∨ chk = .invalid → t.core.oob = true ∧ t.core.oobcnt.toNat = min (c.oobcnt.toNat + 1) 0xFFFFFFFF ∧
         t.core.revpend = c.revpend) ∧
       { t.core.still with s := c.s, k := c.k, bc := c.bc, revpend := c.revpend, oob := c.oob, oobcnt := c.oobcnt } = c.still ∧
       Outside s t ∧ BytesKept s t ∧ Retires s t
     let null (i : Instr) (off n : Nat) (need : BitVec 2) (P : State → Prop) : Prop :=
       ∀ chk, s.checkRights (c.rk k) off n need = chk → chk ≠ .ok → chk ≠ .miss →
         Completes i s fun t => P t ∧ book chk t
     let zeroS (r : BitVec 5) (t : State) : Prop :=
       t.core.rs r = 0 ∧ (∀ q, q ≠ r → t.core.rs q = c.rs q) ∧ t.core.k = c.k ∧ t.core.bc = c.bc
     let none' (t : State) : Prop := t.core.s = c.s ∧ t.core.k = c.k ∧ t.core.bc = c.bc
     let m := amoSize w
     null (.ld d5 k b5 p o g z) (c.rs b5).toNat (2 ^ z.toNat) 1 (zeroS d5) ∧
     null (.st d5 k b5 p o z) (c.rs b5).toNat (2 ^ z.toNat) 2 none' ∧
     null (.kst x k b5) (c.rs b5).toNat 32 2 none' ∧
     null (.kld d k b5) (c.rs b5).toNat 32 1 (fun t => t.core.rk d = Token.zero ∧ (∀ q, q ≠ d → t.core.rk q = c.rk q) ∧
       t.core.s = c.s ∧ t.core.bc = c.bc) ∧
     (∀ i ∈ [Instr.amoAdd w d k b x p o, .amoAnd w d k b x p o, .amoOr w d k b x p o, .amoXor w d k b x p o,
         .amoMin w d k b x p o, .amoMax w d k b x p o, .amoMinu w d k b x p o, .amoMaxu w d k b x p o, .amoSwap w d k b x p o,
         .amoCas w d k b x p o, .amoAddt w d k b x p o],
       null i (c.rn b).toNat m 3 (zeroS (d.setWidth 5))) ∧
     null (.amoFadd d k b x p o) (c.rn b).toNat 4 3 (zeroS (d.setWidth 5)) ∧
     (c.waiting = .none → null (.waita w d k b x p) (c.rn b).toNat m 1 (fun t =>
       t.core.rs (d.setWidth 5) = 0 ∧ (∀ q, q ≠ d.setWidth 5 → t.core.rs q = c.rs q) ∧ t.core.k = c.k ∧ t.core.bc = true)))

/-- R45-R47, R50: `kinfo` reads a field of a token, or of its entry when the check does not find it stale; `kmov` copies,
`kclr` clears; `ksub` narrows, or clears its destination and counts when the extent does not fit; `krel` clears its
token and, of one that is live, asks for the release of its entry. -/
def Obligations.TokenRegisters : Prop :=
  ∀ (d o l : BitVec 5) (j k : BitVec 4) (f : BitVec 5) (s : State),
    let c := s.core
    let t := c.rk k
    let e := s.entry t.index.toNat
    let off := (c.rs o).toNat
    let len := (c.rs l).toNat
    let gone := s.check t 0 0 = .stale ∨ s.check t 0 0 = .invalid
    let info (v : Word) : Prop := Puts (.kinfo d k f) d s v
    let held := t.gen ≠ 0 ∧ t.part.toNat = c.partId ∧ e.owner = t.part.toNat ∧ e.state = .active ∧ e.gen = t.gen
    (f = 0 → info (if t.gen = 0 then 0 else 1)) ∧ (f = 1 → info (if t.gen = 0 then 0 else BitVec.ofNat 64 (t.lenm1.toNat + 1))) ∧
    (f = 2 → info (t.vbase.setWidth 64)) ∧ (f = 3 → info (t.gen.setWidth 64)) ∧ (f = 4 → info (t.index.setWidth 64)) ∧
    (f = 5 → info (t.part.setWidth 64)) ∧ (f = 6 → info (t.rights.setWidth 64)) ∧
    (f = 7 → info (if gone then 1 else 0)) ∧
    (f = 8 → info (if gone then BitVec.allOnes 64 else BitVec.ofNat 64 (e.home.getD Config.packageNumber))) ∧
    (f = 9 → info (if gone then BitVec.allOnes 64
      else match e.mode with | .clear => 0 | .encrypted => 1 | .integrity => 2)) ∧
    (f = 10 → info (if gone then BitVec.allOnes 64 else BitVec.ofNat 64 e.gran)) ∧
    PutsToken (.kmov j k) j s t ∧ PutsToken (.kclr j) j s Token.zero ∧
    (t.gen = 0 → PutsToken (.ksub j k o l) j s Token.zero) ∧
    (t.gen ≠ 0 → len ≠ 0 → off + len ≤ t.lenm1.toNat + 1 →
      PutsToken (.ksub j k o l) j s { t with vbase := t.vbase + BitVec.ofNat 56 off, lenm1 := BitVec.ofNat 32 (len - 1) }) ∧
    (t.gen ≠ 0 → len = 0 ∨ t.lenm1.toNat + 1 < off + len → Completes (.ksub j k o l) s fun u =>
      u.core.rk j = Token.zero ∧ (∀ r, r ≠ j → u.core.rk r = c.rk r) ∧ u.core.oob = true ∧
      u.core.oobcnt.toNat = min (c.oobcnt.toNat + 1) 0xFFFFFFFF ∧
      { u.core.still with k := c.k, oob := c.oob, oobcnt := c.oobcnt } = c.still ∧ Outside s u ∧ BytesKept s u ∧ Retires s u) ∧
    Completes (.krel k) s fun u =>
      u.core.rk k = Token.zero ∧ (∀ r, r ≠ k → u.core.rk r = c.rk r) ∧ { u.core.still with k := c.k } = c.still ∧
      (held → u.releases = s.releases ++ [(t.index.toNat, t.gen.toNat)]) ∧ (¬held → u.releases = s.releases) ∧
      { u with core := s.core, releases := s.releases } = s ∧ BytesKept s u ∧ Retires s u

/-- R40-R42: `xlat` waits an untimed while, and then fills an entry and gives its token, or has its fault given to F2 (with the
pages of one that is not resident to be brought in first); F2 restarts it once it fits and no sweep made for it is under way
(R84), or delivers the fault, which traps with reason and address. The extent tests come first.
Which entry is filled when none in service is FREE is
the model's choice (log entry 73). -/
def Obligations.Translation : Prop :=
  ∀ (k : BitVec 4) (a b : BitVec 5) (r : BitVec 2) (due code at' : Nat) (home : Option Nat) (gran : Nat) (mode : ProtMode)
    (frames : List Nat) (s : State),
    let c := s.core
    let i : Instr := .xlat k a b r
    let va := (c.rs a).toNat
    let len := (c.rs b).toNat
    let plan := s.xlatPlan c.partId (c.rs a) (c.rs b) r
    let waits (w : Waiting) : Prop := Completes i s fun t =>
      t.core.waiting = w ∧ t.core.still = c.still ∧ t.core.pc = c.pc ∧ t.core.vigil = c.vigil ∧ OutsideFree s t ∧ BytesKept s t
    (len = 0 ∨ 2 ^ 56 ≤ va → plan = .fault 1 va) ∧
    (len ≠ 0 → va < 2 ^ 56 → 2 ^ 32 < len → plan = .fault 2 va) ∧
    (len ≠ 0 → va < 2 ^ 56 → len ≤ 2 ^ 32 → 2 ^ 56 ≤ va + len - 1 → plan = .fault 1 va) ∧
    (c.waiting = .none → waits (.until s.dueCycle)) ∧
    (c.waiting = .until due → due ≤ s.now →
      (plan = .fault code at' → waits (.xlat code at' false)) ∧ (plan = .paging → waits (.xlat 0 va false)) ∧
      (plan = .ok home gran mode frames → c.duePoison i = none → Completes i s fun t =>
        let n := s.freeIndex
        let e := s.entry n
        t.core.rk k = ⟨BitVec.ofNat 56 va, BitVec.ofNat 32 (len - 1), BitVec.ofNat 20 n, e.gen, BitVec.ofNat 6 c.partId, r⟩ ∧
        (∀ j, j ≠ k → t.core.rk j = c.rk j) ∧ { t.core.still with k := c.k, tfc := c.tfc } = c.still ∧
        (t.entry n).state = .active ∧ (t.entry n).gen = e.gen ∧ (t.entry n).owner = c.partId ∧ (t.entry n).pinBase = va ∧
        (t.entry n).length = len ∧ (t.entry n).rights = r ∧ (t.entry n).gran = gran ∧ (t.entry n).mode = mode ∧
        (t.entry n).home = home ∧ (t.entry n).frames = frames ∧ (t.entry n).task = c.task ∧
        (∀ m, m ≠ n → t.entry m = s.entry m) ∧ BytesKept s t ∧ Retires s t)) ∧
    (c.waiting = .xlat code at' false → exec i s = .next (s.stallFor 14)) ∧
    (c.waiting = .xlat code at' true → exec i s = .next (s.takeTrap 6 (BitVec.ofNat 64 (code * 2 ^ 56 + at' % 2 ^ 56)) c.pc)) ∧
    (∀ n q, s.coreAt n = some q → q.cur = some i → q.waiting = .xlat code at' false →
      let again := s.xlatPlan q.partId (q.rs a) (q.rs b) r
      (again = .ok home gran mode frames → (∀ x e, (x, e) ∈ s.almanac → e.owner = q.partId → e.state ≠ .revoking) →
        ∃ t, exec (.xlatFaultResolution n (.resolve [] [])) s = .next t ∧
          OnlyCore n (fun q => { q with waiting := .until s.dueCycle }) { s with fv := s.fv + 1 } t) ∧
      (∀ code' at2, again = .fault code' at2 →
        ∃ t, exec (.xlatFaultResolution n .deliver) s = .next t ∧
          OnlyCore n (fun q => { q with waiting := .xlat code' at2 true }) s t)) ∧
    (∀ x frame, c.tfcReq = some (x, frame, due) → due ≤ s.now → ∃ t, exec .tfcMissFill s = .next t ∧ t.core.tfcReq = none ∧
      (⟨x, frame, (s.entry x).gen, (s.entry x).state == .active, (s.entry x).rights, (s.entry x).mode⟩ : TfcEntry) ∈ t.core.tfc ∧
      { t.core with tfc := c.tfc, tfcReq := c.tfcReq } = c ∧ OutsideFree s t)

/-! ## Loads, stores and atomics at issue (06 R114-R133, 11 R239-R253) -/

/-- R38, R51, R240, R241, R48, R49: a token access that passes its check is issued: it names the bytes of its extent by the
frames of its entry from VBASE + offset, its order and scope, for remote lines the ports that the hash gives them now (R367), and is performed later; the strand
retires. A store carries
the low bytes of its register, `kst` the sealed image. No byte changes yet and no register but the trace of a watchpoint. -/
def Obligations.TokenAccesses : Prop :=
  ∀ (d b : BitVec 5) (j k : BitVec 4) (p : BitVec 3) (o z : BitVec 2) (g : BitVec 1) (s : State),
    let c := s.core
    let t := c.rk k
    let e := s.entry t.index.toNat
    let off := (c.rs b).toNat
    let va := t.vbase.toNat + off
    let issued (a : Access) (u : State) : Prop :=
      u.core.acc = c.acc ++ [{ a with id := c.accNext, issued := s.now, due := s.dueCycle, way := s.waysFor a }] ∧ s.now < s.dueCycle ∧
      { u.core.still with acc := c.acc, accNext := c.accNext, watchNow := c.watchNow } = c.still ∧
      OutsideFree s u ∧ BytesKept s u ∧ Retires s u
    let loads (i : Instr) (kind : AccKind) (n : Nat) (o : BitVec 2) (p : BitVec 3) : Prop :=
      s.checkRights t off n 1 = .ok → Completes i s fun u => u.core.watchNow = c.watchNow ∧
        issued { Access.make kind e.space n o p va with reads := e.loadRanges va n, index := some t.index.toNat } u
    let stores (i : Instr) (bs : List Byte) (o : BitVec 2) (p : BitVec 3) : Prop :=
      s.checkRights t off bs.length 2 = .ok → Completes i s fun u =>
        issued { Access.make .store e.space bs.length o p va with parts := e.storeParts va bs, index := some t.index.toNat } u ∧
        (c.inh = true ∨ c.strike 18 false (span va bs.length) = none → u.core.watchNow = c.watchNow) ∧
        (∀ wp hit, c.inh = false → c.strike 18 false (span va bs.length) = some (wp, hit) →
          u.core.watchNow = some ⟨0, wp, s.now, 0, hit⟩)
    loads (.ld d k b p o g z) (.load (.s d.toNat) (g == 1)) (2 ^ z.toNat) o p ∧
    loads (.kld j k b) (.kload j.toNat) 32 0 2 ∧
    stores (.st d k b p o z) (natToBytes (2 ^ z.toNat) (c.rs d).toNat) o p ∧
    (c.rk j |> fun x => stores (.kst j k b)
      (natToBytes 16 x.toNat ++ natToBytes 8 (Config.cmac s.sealKey x.toNat Config.packageNumber c.partId).toNat ++ natToBytes 8 0) 0 2)

/-- R21, R68-R70, R245, R246, R48, R49: local accesses whose range lies in a region. A load of the own scratchpad gives the bytes as
a timed read sees them, of a range beyond a 64-byte boundary by a read that is still to be made a cycle later; of another region
it is issued to be performed later. A store to the own scratchpad is on its
way to its exposure four cycles on, five for the part beyond a 64-byte boundary; to another region it is issued. -/
def Obligations.LocalAccesses : Prop :=
  ∀ (z o : BitVec 2) (d a : BitVec 5) (g : BitVec 1) (i : BitVec 11) (x : BitVec 5) (k : BitVec 4) (r : Region) (s : State),
    let c := s.core
    let at' := c.rs a + (i.setWidth 64) <<< z.toNat
    let n := 2 ^ z.toNat
    let at32 := c.rs a + (x.setWidth 64) <<< 5
    let sealedK := natToBytes 16 (c.rk k).toNat
      ++ natToBytes 8 (Config.cmac s.sealKey (c.rk k).toNat Config.packageNumber c.partId).toNat ++ natToBytes 8 0
    let issued (a : Access) (u : State) : Prop :=
      u.core.acc = c.acc ++ [{ a with id := c.accNext, issued := s.now, due := s.dueCycle, way := s.waysFor a }] ∧ s.now < s.dueCycle ∧
      { u.core.still with acc := c.acc, accNext := c.accNext, watchNow := c.watchNow } = c.still ∧
      OutsideFree s u ∧ BytesKept s u ∧ Retires s u
    let fetches (kind : AccKind) (va : Word) (n : Nat) (o : BitVec 2) (u : State) : Prop :=
      let y := c.spaceOf r va.toNat
      issued { Access.make kind y.1 n o 0 va.toNat with reads := pieces y.2 n } u ∧ u.core.watchNow = c.watchNow
    let stores (i : Instr) (va : Word) (bs : List Byte) (o : BitVec 2) : Prop :=
      c.local? va bs.length true = some r → Completes i s fun u =>
        (r = .scratch → u.core.timed = (c.scrStore s.now va.toNat bs).timed ∧
          { u.core.still with timed := c.timed, watchNow := c.watchNow } = c.still ∧ Outside s u ∧ BytesKept s u ∧ Retires s u) ∧
        (r ≠ .scratch → let y := c.spaceOf r va.toNat
          issued { Access.make .store y.1 bs.length o 0 va.toNat with parts := c.storeParts y.1 y.2 bs } u) ∧
        (c.inh = true ∨ c.strike 18 true (span va.toNat bs.length) = none → u.core.watchNow = c.watchNow) ∧
        (∀ wp hit, c.inh = false → c.strike 18 true (span va.toNat bs.length) = some (wp, hit) →
          u.core.watchNow = some ⟨0, wp, s.now, 0, hit⟩)
    let reads (i : Instr) (va : Word) (n : Nat) (dest : LateDest) (P : State → Prop) : Prop := Completes i s fun u =>
      P u ∧ u.core.late = (c.readUpper s.now va.toNat n dest).late ∧
      { u.core.still with s := c.s, k := c.k, late := c.late } = c.still ∧ Outside s u ∧ BytesKept s u ∧ Retires s u
    (c.local? at' n false = some r →
      (r = .scratch → reads (.lds z d a g o i) at' n (.s d.toNat (g == 1)) fun u =>
        u.core.rs d = (if d = 0 then 0 else loadValue (c.scrReadSplit s.now at'.toNat n) (g == 1)) ∧
          (∀ q, q ≠ d → u.core.rs q = c.rs q) ∧ u.core.k = c.k) ∧
      (r ≠ .scratch → Completes (.lds z d a g o i) s (fetches (.load (.s d.toNat) (g == 1)) at' n o))) ∧
    (c.local? at32 32 false = some r →
      (r = .scratch → reads (.kldL k a x) at32 32 (.k k.toNat) fun u =>
        u.core.rk k = unsealToken s.sealKey c.partId (c.scrReadSplit s.now at32.toNat 32) ∧
          (∀ q, q ≠ k → u.core.rk q = c.rk q) ∧ u.core.s = c.s) ∧
      (r ≠ .scratch → Completes (.kldL k a x) s (fetches (.kload k.toNat) at32 32 0))) ∧
    stores (.sts z d a o i) at' (natToBytes n (c.rs d).toNat) o ∧ stores (.kstL k a x) at32 sealedK 0

/-- R68, R69, R76: a timed read at cycle u sees a scalar store issued at cycle t from t + 4 on, and from t + 5 on the part
of it beyond a 64-byte boundary; before that, and everywhere else, it sees what it saw before. A read that an issued load still has to make gives its register the bytes as a timed read of
that later cycle sees them, the lower part of a split load as it was read. R245, R240, R48, R49: the value of loaded bytes, little-endian, zero- or sign-extended; a sealed image unseals to its own token under the key and
partition it was sealed with, and to the zero token when it names another partition. -/
def Obligations.LoadedBytes : Prop :=
  (∀ (c : Core) (t u a x : Nat) (bs : List Byte),
     let d := c.scrStore t a bs
     let before := timedByte c.scr c.timed false u x
     let after := timedByte d.scr d.timed false u x
     let low := 64 - a % 64
     (x < a ∨ a + bs.length ≤ x → after = before) ∧
     (∀ i, i < bs.length → x = a + i →
       (i < low → after = if t + 4 ≤ u then bs.getD i 0 else before) ∧
       (low ≤ i → after = if t + 5 ≤ u then bs.getD i 0 else before))) ∧
  (∀ (a n m : Nat) (low : List Byte) (sext : Bool) (d : BitVec 5) (k : BitVec 4) (g : PReg) (grp : Nat) (s : State),
     let c := s.core
     let now := c.scrRead s.now a n
     let at' (dest : LateDest) (f : Core → Core) : Prop := s.makeLate ⟨m, a, n, low, dest⟩ =
       s.mod fun c => { f c with late := c.late.erase ⟨m, a, n, low, dest⟩ }
     at' (.s d.toNat sext) (fun c => c.ws d (loadValue (low ++ now) sext)) ∧
     at' (.k k.toNat) (fun c => c.wk k (unsealToken s.sealKey c.partId (low ++ now))) ∧
     at' (.rows k.toNat g grp) (fun c => c.wv k (VReg.of fun r col =>
       if r / 4 = grp ∧ g.bit r col then elemAt (low ++ now) (r % 4) col else (c.rv k).get r col)) ∧
     ∀ offs : List Nat, at' (.lanes k.toNat g grp offs) (fun c => c.wv k (VReg.of fun r col =>
       if r / 4 = grp ∧ g.bit r col then c.laneWord s.now col (offs.getD col 0 + 4 * r) else (c.rv k).get r col))) ∧
  ((∀ (bs : List Byte), bs.length ≤ 8 → (loadValue bs false).toNat = bytesToNat bs) ∧
   (∀ (bs : List Byte), bs ≠ [] → bs.length ≤ 8 →
     (loadValue bs true).toInt = (BitVec.ofNat (8 * bs.length) (bytesToNat bs)).toInt) ∧
   (∀ (key part : Nat) (t : Token), t.part.toNat = part → unsealToken key part (sealToken key part t) = t) ∧
   (∀ (key part : Nat) (t : Token), t.part.toNat ≠ part → unsealToken key part (sealToken key part t) = Token.zero))

/-- R114-R120, R125: a token or local atomic whose access passes is issued with its operation, its destination and its
operands T and x as the registers stand, each cut to the size; the strand retires and nothing else changes. `waita`
registers and waits; when its wait has ended it writes the value and BC. -/
def Obligations.AtomicsIssued : Prop :=
  ∀ (z : BitVec 1) (d k b x a i : BitVec 4) (p : BitVec 3) (o : BitVec 2) (r : Region) (s : State),
    let c := s.core
    let issued (y : Access) (u : State) : Prop :=
      u.core.acc = c.acc ++ [{ y with id := c.accNext, issued := s.now, due := s.dueCycle, way := s.waysFor y }] ∧ s.now < s.dueCycle ∧
      { u.core.still with acc := c.acc, accNext := c.accNext } = c.still ∧ OutsideFree s u ∧ BytesKept s u
    let kind (op : BitVec 4) (n : Nat) : AccKind :=
      .atomic op d.toNat ((c.rn d).toNat % 2 ^ (8 * n)) ((c.rn x).toNat % 2 ^ (8 * n))
    let t := c.rk k
    let e := s.entry t.index.toNat
    let off := (c.rn b).toNat
    let va := t.vbase.toNat + off
    let token (y : Instr) (op : BitVec 4) (n : Nat) : Prop := s.checkRights t off n 3 = .ok → Completes y s fun u =>
      issued { Access.make (kind op n) e.space n o p va with reads := e.loadRanges va n, index := some t.index.toNat } u ∧ Retires s u
    let scr (y : Instr) (op : BitVec 4) (n : Nat) : Prop :=
      let la := c.rn a + BitVec.ofNat 64 (i.toNat * n)
      c.local? la n true = some r → Completes y s fun u =>
        let q := c.spaceOf r la.toNat
        issued { Access.make (kind op n) q.1 n o 0 la.toNat with reads := pieces q.2 n } u ∧ Retires s u
    let m := if z = 0 then 4 else 8
    token (.amoAdd z d k b x p o) 0 m ∧ token (.amoAnd z d k b x p o) 1 m ∧ token (.amoOr z d k b x p o) 2 m ∧
    token (.amoXor z d k b x p o) 3 m ∧ token (.amoMin z d k b x p o) 4 m ∧ token (.amoMax z d k b x p o) 5 m ∧
    token (.amoMinu z d k b x p o) 6 m ∧ token (.amoMaxu z d k b x p o) 7 m ∧ token (.amoSwap z d k b x p o) 8 m ∧
    token (.amoCas z d k b x p o) 9 m ∧ token (.amoFadd d k b x p o) 10 4 ∧ token (.amoAddt z d k b x p o) 11 m ∧
    scr (.lamoAdd z d a i x o) 0 m ∧ scr (.lamoAnd z d a i x o) 1 m ∧ scr (.lamoOr z d a i x o) 2 m ∧
    scr (.lamoXor z d a i x o) 3 m ∧ scr (.lamoMin z d a i x o) 4 m ∧ scr (.lamoMax z d a i x o) 5 m ∧
    scr (.lamoMinu z d a i x o) 6 m ∧ scr (.lamoMaxu z d a i x o) 7 m ∧ scr (.lamoSwap z d a i x o) 8 m ∧
    scr (.lamoCas z d a i x o) 9 m ∧ scr (.lamoFadd d a i x o) 10 4 ∧
    (c.waiting = .none → s.checkRights t off m 1 = .ok → Completes (.waita z d k b x p) s fun u =>
      issued { Access.make (.waita d.toNat ((c.rn x).toNat % 2 ^ (8 * m))) e.space m 0 p va with
        reads := e.loadRanges va m, index := some t.index.toNat } u ∧
      u.core.waiting = .waita c.accNext none ∧ u.core.pc = c.pc ∧ u.core.vigil = c.vigil) ∧
    (∀ id (w : WaitEnd), c.waiting = .waita id (some w) → Completes (.waita z d k b x p) s fun u =>
      u.core.rs (d.setWidth 5) = (if d = 0 then 0 else w.value) ∧ u.core.bc = w.bc ∧
      OnlyScalarBc (d.setWidth 5) (s.logWait c (.waita z d k b x p) w.ended w.setter) u)

/-- R119, R121, R129: what an atomic makes of the old value, T and x, of 4 or 8 bytes: the sum, the bitwise operations, the
signed and unsigned least and greatest, the swap, the compare-and-swap, which alone of the twelve may not write, and writes on
equality, the FP32 sum rounded once to nearest even; `addt` crosses when the signed values pass T in either direction. -/
def Obligations.AtomicValues : Prop :=
  ∀ (n old t x : Nat), (n = 4 ∨ n = 8) → old < 2 ^ (8 * n) → t < 2 ^ (8 * n) → x < 2 ^ (8 * n) →
    let v (y : Nat) : Int := (BitVec.ofNat (8 * n) y).toInt
    let new (op : BitVec 4) : Nat := amoNew op n old t x
    new 0 = (old + x) % 2 ^ (8 * n) ∧ new 1 = Nat.land old x ∧ new 2 = Nat.lor old x ∧ new 3 = Nat.xor old x ∧
    (new 4 = old ∨ new 4 = x) ∧ v (new 4) ≤ v old ∧ v (new 4) ≤ v x ∧
    (new 5 = old ∨ new 5 = x) ∧ v old ≤ v (new 5) ∧ v x ≤ v (new 5) ∧
    new 6 = min old x ∧ new 7 = max old x ∧ new 8 = x ∧ new 9 = (if old = t then x else old) ∧
    (n = 4 → new 10 = (toF32 .rne ((f32 (BitVec.ofNat 32 old)).add (f32 (BitVec.ofNat 32 x)))).toNat) ∧
    new 11 = (old + x) % 2 ^ (8 * n) ∧
    (∀ op : BitVec 4, op.toNat ≤ 11 → (amoWrites op old t = false ↔ op = 9 ∧ old ≠ t)) ∧
    (∀ y, y < 2 ^ (8 * n) → (amoCrosses n old y t = true ↔ (v old < v t ∧ v t ≤ v y) ∨ (v y ≤ v t ∧ v t < v old)))

/-! ## The vector unit (12 R264-R290, 11 R248-R250) -/

/-- R264, R269: the integer results, element by element under the guard, modulo 2^32; `vsel` writes every element. -/
def Obligations.VectorInteger : Prop :=
  ∀ (d a b : BitVec 4) (p : BitVec 3) (s : State),
    let x (r k : Nat) : BitVec 32 := (s.core.rv a).get r k
    let y (r k : Nat) : BitVec 32 := (s.core.rv b).get r k
    let n (r k : Nat) : Nat := ((y r k).extractLsb' 0 5).toNat
    let gives (i : Instr) (f : Nat → Nat → BitVec 32) : Prop := PutsVector i d p s f
    let clamp (z : Int) : BitVec 32 := BitVec.ofInt 32 (max (-2147483648) (min 2147483647 z))
    gives (.vaddI32 d a b p) (fun r k => x r k + y r k) ∧ gives (.vsubI32 d a b p) (fun r k => x r k - y r k) ∧
    gives (.vmulI32 d a b p) (fun r k => x r k * y r k) ∧
    gives (.vmulhI32 d a b p) (fun r k => (((x r k).signExtend 64 * (y r k).signExtend 64).extractLsb' 32 32)) ∧
    gives (.vmulhU32 d a b p) (fun r k => (((x r k).setWidth 64 * (y r k).setWidth 64).extractLsb' 32 32)) ∧
    gives (.vminI32 d a b p) (fun r k => if (x r k).toInt ≤ (y r k).toInt then x r k else y r k) ∧
    gives (.vmaxI32 d a b p) (fun r k => if (y r k).toInt ≤ (x r k).toInt then x r k else y r k) ∧
    gives (.vminU32 d a b p) (fun r k => if (x r k).toNat ≤ (y r k).toNat then x r k else y r k) ∧
    gives (.vmaxU32 d a b p) (fun r k => if (y r k).toNat ≤ (x r k).toNat then x r k else y r k) ∧
    gives (.vaddsI32 d a b p) (fun r k => clamp ((x r k).toInt + (y r k).toInt)) ∧
    gives (.vsubsI32 d a b p) (fun r k => clamp ((x r k).toInt - (y r k).toInt)) ∧
    gives (.vand d a b p) (fun r k => x r k &&& y r k) ∧ gives (.vor d a b p) (fun r k => x r k ||| y r k) ∧
    gives (.vxor d a b p) (fun r k => x r k ^^^ y r k) ∧ gives (.vandn d a b p) (fun r k => x r k &&& ~~~(y r k)) ∧
    gives (.vsll d a b p) (fun r k => x r k <<< n r k) ∧ gives (.vsrl d a b p) (fun r k => x r k >>> n r k) ∧
    gives (.vsra d a b p) (fun r k => (x r k).sshiftRight (n r k)) ∧
    gives (.vabsI32 d a p) (fun r k => BitVec.ofInt 32 (x r k).toInt.natAbs) ∧ gives (.vnegI32 d a p) (fun r k => 0 - x r k) ∧
    gives (.vmov d a p) x ∧ gives (.vpopc d a p) (fun r k => BitVec.ofNat 32 ((List.range 32).countP fun i => (x r k).getLsbD i)) ∧
    (∃ z : Nat → Nat → Nat, gives (.vclz d a p) (fun r k => BitVec.ofNat 32 (z r k)) ∧ ∀ r k, z r k ≤ 32 ∧
      (∀ i, 32 - z r k ≤ i → (x r k).getLsbD i = false) ∧ (z r k < 32 → (x r k).getLsbD (31 - z r k) = true)) ∧
    PutsVector (.vsel d a b p) d 0 s (fun r k => if (s.core.rp p).bit r k then x r k else y r k)

/-- R164, R165, R270-R275, R282-R285: the floating results, element by element: the exact value rounded once under the named
mode to FP32; least and greatest by value, a NaN giving way; the conversions, which set SAT and NANCV for the guarded
elements as they retire (R181; on the cycle of the result, log entry 57); the special functions of either grade; `vqnt` and
`vdqnt` complete for every slot and format (their results: Quantisation). Every NaN is the canonical one, by `toF32` and `canon`. R11, R164: rounding
the value of an FP32 element gives the element itself under every mode, and every NaN gives the canonical one; R285: the
special inputs of the special functions, in both grades. -/
def Obligations.VectorFloat : Prop :=
  (∀ (d a b e f : BitVec 4) (p m : BitVec 3) (g : BitVec 1) (s : State),
     let x (r k : Nat) : BitVec 32 := (s.core.rv a).get r k
     let y (r k : Nat) : BitVec 32 := (s.core.rv b).get r k
     let z (r k : Nat) : BitVec 32 := (s.core.rv e).get r k
     let gives (i : Instr) (h : Nat → Nat → BitVec 32) : Prop := PutsVector i d p s h
     let mode := rmOf m
     let flags (i : Instr) (h : BitVec 32 → BitVec 32 × BitVec 5) : Prop := Completes i s fun t =>
       (∀ r k, r < 16 → k < 64 →
         (t.core.rv d).get r k = if (s.core.rp p).bit r k then (h (x r k)).1 else (s.core.rv d).get r k) ∧
       (∃ bits, t.core.fmtLate = s.core.fmtLate ++ [(s.now + 6, bits)] ∧ ∀ j, j < 5 → (bits.getLsbD j = true ↔
         ∃ r k, r < 16 ∧ k < 64 ∧ (s.core.rp p).bit r k = true ∧ (h (x r k)).2.getLsbD j = true)) ∧
       OnlyVectorFlags d s t
     gives (.vaddF32 d a b p m) (fun r k => toF32 mode ((f32 (x r k)).add (f32 (y r k)))) ∧
     gives (.vsubF32 d a b p m) (fun r k => toF32 mode ((f32 (x r k)).add (f32 (y r k)).negate)) ∧
     gives (.vmulF32 d a b p m) (fun r k => toF32 mode ((f32 (x r k)).mul (f32 (y r k)))) ∧
     gives (.vfmaF32 d a b e p m) (fun r k => toF32 mode (((f32 (x r k)).mul (f32 (y r k))).add (f32 (z r k)))) ∧
     gives (.vminF32 d a b p) (fun r k => if f32 (x r k) = .nan then canon (y r k) else if f32 (y r k) = .nan then x r k
       else if (f32 (y r k)).below (f32 (x r k)) then y r k else x r k) ∧
     gives (.vmaxF32 d a b p) (fun r k => if f32 (x r k) = .nan then canon (y r k) else if f32 (y r k) = .nan then x r k
       else if (f32 (x r k)).below (f32 (y r k)) then y r k else x r k) ∧
     gives (.vabsF32 d a p) (fun r k => canon (x r k &&& 0x7FFFFFFF)) ∧ gives (.vnegF32 d a p) (fun r k => canon (x r k ^^^ 0x80000000)) ∧
     gives (.vcvtWiden d a f p) (fun r k => toF32 .rne (elemVal f.toNat ((x r k).toNat % 2 ^ fmtWidth f.toNat))) ∧
     gives (.vcvtF32I32 d a p m) (fun r k => toF32 mode (Val.ofRat ((x r k).toInt : Rat) false)) ∧
     flags (.vcvtNarrow d a f p m) (narrow f.toNat mode false) ∧ flags (.vcvtsNarrow d a f p m) (narrow f.toNat mode true) ∧
     flags (.vcvtI32F32 d a p m) (fun w =>
       let q := toInt mode (-2147483648) 2147483647 (f32 w)
       (BitVec.ofInt 32 q.1, q.2)) ∧
     (∀ x ∈ [(Instr.vrcp d a p g, Sfn.rcp), (.vrsqrt d a p g, .rsqrt), (.vsqrt d a p g, .sqrt), (.vexp2 d a p g, .exp2),
         (.vlog2 d a p g, .log2), (.vexp d a p g, .exp), (.vtanh d a p g, .tanh), (.vsigm d a p g, .sigm), (.vsin d a p g, .sin),
         (.vcos d a p g, .cos), (.verf d a p g, .erf)],
       gives x.1 (fun r k => x.2.apply (g == 0) ((s.core.rv a).get r k))) ∧
     (∀ t : BitVec 2, Completes (.vqnt d a t f) s (OnlyVectorFlags d s) ∧ Completes (.vdqnt d a t f) s (OnlyVector d s))) ∧
  ((∀ (m : RMode) (x : BitVec 32), f32 x ≠ .nan → toF32 m (f32 x) = x) ∧ (∀ m, toF32 m .nan = 0x7FC00000) ∧
   ∀ fast : Bool,
     (∀ (f : Sfn) (x : BitVec 32), f32 x = .nan → f.apply fast x = 0x7FC00000) ∧
     Sfn.rcp.apply fast 0 = 0x7F800000 ∧ Sfn.rcp.apply fast 0x80000000 = 0xFF800000 ∧ Sfn.rcp.apply fast 0xFF800000 = 0x80000000 ∧
     Sfn.rsqrt.apply fast 0x80000000 = 0xFF800000 ∧ Sfn.rsqrt.apply fast 0xBF800000 = 0x7FC00000 ∧
     Sfn.sqrt.apply fast 0x80000000 = 0x80000000 ∧ Sfn.sqrt.apply fast 0xBF800000 = 0x7FC00000 ∧
     Sfn.exp2.apply fast 0xFF800000 = 0 ∧ Sfn.exp.apply fast 0 = 0x3F800000 ∧ Sfn.log2.apply fast 0x3F800000 = 0 ∧
     Sfn.log2.apply fast 0 = 0xFF800000 ∧ Sfn.tanh.apply fast 0xFF800000 = 0xBF800000 ∧ Sfn.sigm.apply fast 0 = 0x3F000000 ∧
     Sfn.sin.apply fast 0x7F800000 = 0x7FC00000 ∧ Sfn.cos.apply fast 0 = 0x3F800000 ∧ Sfn.erf.apply fast 0x7F800000 = 0x3F800000)

/-- R277-R279: reductions along rows and columns, rotations, broadcasts, indices, and single elements. The sums of integers are
modulo 2^32; the least and greatest are of the type named; sums of FP32 are exact and rounded once. -/
def Obligations.VectorAxes : Prop :=
  ∀ (d a q : BitVec 4) (t : BitVec 2) (n : BitVec 6) (s : State),
    let x (r k : Nat) : BitVec 32 := (s.core.rv a).get r k
    let row (r : Nat) : List (BitVec 32) := (List.range 64).map fun k => x r k
    let col (k : Nat) : List (BitVec 32) := (List.range 16).map fun r => x r k
    let gives (i : Instr) (f : Nat → Nat → BitVec 32) : Prop := PutsVector i d 0 s f
    let least (xs : List (BitVec 32)) (y : BitVec 32) : Prop := y ∈ xs ∧
      (t = 0 → ∀ w ∈ xs, y.toInt ≤ w.toInt) ∧ (t = 1 → ∀ w ∈ xs, y.toNat ≤ w.toNat)
    let greatest (xs : List (BitVec 32)) (y : BitVec 32) : Prop := y ∈ xs ∧
      (t = 0 → ∀ w ∈ xs, w.toInt ≤ y.toInt) ∧ (t = 1 → ∀ w ∈ xs, w.toNat ≤ y.toNat)
    let along (byRow : Bool) (r k : Nat) : List (BitVec 32) := if byRow then row r else col k
    let extreme (i : Instr) (byRow : Bool) (ok : List (BitVec 32) → BitVec 32 → Prop) (red : Red) : Prop :=
      (t ≠ 2 → t ≠ 3 → ∃ f, gives i f ∧ ∀ r k, r < 16 → k < 64 → ok (along byRow r k) (f r k)) ∧
      (t = 2 → gives i fun r k => reduce red t (along byRow r k))
    (t ≠ 2 → gives (.vsumRa d a t) (fun r _ => (row r).sum) ∧ gives (.vsumCa d a t) (fun _ k => (col k).sum)) ∧
    (t = 2 → gives (.vsumRa d a t) (fun r _ => fsum (row r)) ∧ gives (.vsumCa d a t) (fun _ k => fsum (col k))) ∧
    extreme (.vmaxRa d a t) true greatest .max ∧ extreme (.vmaxCa d a t) false greatest .max ∧
    extreme (.vminRa d a t) true least .min ∧ extreme (.vminCa d a t) false least .min ∧
    gives (.vrotRa d a n) (fun r k => x r ((k + n.toNat) % 64)) ∧ gives (.vrotCa d a q) (fun r k => x ((r + q.toNat) % 16) k) ∧
    gives (.vbrow d a q) (fun _ k => x q.toNat k) ∧ gives (.vbcol d a n) (fun r _ => x r n.toNat) ∧
    gives (.vidxR d) (fun r _ => BitVec.ofNat 32 r) ∧ gives (.vidxC d) (fun _ k => BitVec.ofNat 32 k) ∧
    gives (.vbcast d a) (fun _ _ => (s.core.rn a).setWidth 32) ∧
    gives (.vins d a q n) (fun r k => if r = q.toNat ∧ k = n.toNat then (s.core.rn a).setWidth 32 else (s.core.rv d).get r k) ∧
    Puts (.vext d a q n) (d.setWidth 5) s ((x q.toNat n.toNat).setWidth 64)

/-- R280, R281: a compare writes the guarded bits of its predicate by the condition on the elements, read signed, unsigned or as
FP32 (a NaN unequal to everything and ordered with nothing); the predicate operations and the count. -/
def Obligations.Predicates : Prop :=
  ∀ (d a b p c t : BitVec 3) (v w e : BitVec 4) (s : State),
    let k := s.core
    let holds (x y : BitVec 32) : Bool :=
      let eq := if t = 2 then (f32 x).same (f32 y) else x == y
      let lt := if t = 0 then decide (x.toInt < y.toInt) else if t = 1 then decide (x.toNat < y.toNat) else (f32 x).less (f32 y)
      let gt := if t = 0 then decide (y.toInt < x.toInt) else if t = 1 then decide (y.toNat < x.toNat) else (f32 y).less (f32 x)
      if c = 0 then eq else if c = 1 then !eq else if c = 2 then lt else if c = 3 then lt || eq else if c = 4 then gt else gt || eq
    (c.toNat ≤ 5 → t.toNat ≤ 2 → ∃ x : PReg, PutsPred (.vcmp d v w p c t) d s x ∧ ∀ r j, r < 16 → j < 64 →
      x.bit r j = if (k.rp p).bit r j then holds ((k.rv v).get r j) ((k.rv w).get r j) else (k.rp d).bit r j) ∧
    PutsPred (.pand d a b) d s (k.rp a &&& k.rp b) ∧ PutsPred (.por d a b) d s (k.rp a ||| k.rp b) ∧
    PutsPred (.pxor d a b) d s (k.rp a ^^^ k.rp b) ∧ PutsPred (.pandn d a b) d s (k.rp a &&& ~~~(k.rp b)) ∧
    PutsPred (.pnot d a) d s (~~~(k.rp a)) ∧ PutsPred (.pmov d a) d s (k.rp a) ∧
    Puts (.pcnt e a) (e.setWidth 5) s (BitVec.ofNat 64 ((List.range 1024).countP fun i => (k.rp a).getLsbD i))

/-- R248-R250, R25, R68: vector loads and stores. The address is A = sa + sb with bits [5:0] clear; element (r, c) lies at A + 256r + 4c;
rows 4g to 4g + 3 are read at issue + g from the own scratchpad (those of g = 1 to 3 by reads still to be made), and stored with exposure at issue + g + 6; elsewhere the
access is issued to be performed. Through a lane slice, element (r, c) lies in slice c at its offset + 4r. The guard
governs what is written. -/
def Obligations.VectorMemory : Prop :=
  ∀ (d a b : BitVec 4) (p : BitVec 3) (r : Region) (s : State),
    let c := s.core
    let A := (c.rn a + c.rn b) &&& ~~~(63 : Word)
    let n := A.toNat
    let g := c.rp p
    let lane (col : Nat) : Nat := ((c.rv a).get 0 col).toNat / 4 * 4
    let issued (x : Access) (u : State) : Prop :=
      u.core.acc = c.acc ++ [{ x with id := c.accNext, issued := s.now, due := s.dueCycle, way := s.waysFor x }] ∧ s.now < s.dueCycle ∧
      { u.core.still with acc := c.acc, accNext := c.accNext, watchNow := c.watchNow } = c.still ∧
      OutsideFree s u ∧ BytesKept s u ∧ Retires s u
    let timed (u : State) (ws : List TimedWrite) : Prop :=
      u.core.timed = c.timed ++ ws ∧ { u.core.still with timed := c.timed, watchNow := c.watchNow } = c.still ∧
      Outside s u ∧ BytesKept s u ∧ Retires s u
    let reads (i : Instr) (late : Nat → LateRead) (f : Nat → Nat → BitVec 32) : Prop := Completes i s fun u =>
      (∀ i k, i < 16 → k < 64 → (u.core.rv d).get i k = if g.bit i k then f i k else (c.rv d).get i k) ∧
        OnlyVectorLate d [late 1, late 2, late 3] s u
    (c.local? A 4096 false = some r →
      (r = .scratch → reads (.vld d a b p) (fun x => ⟨s.now + x, n + 1024 * x, 1024, [], .rows d.toNat g x⟩) fun i k =>
        BitVec.ofNat 32 (bytesToNat (c.scrRead (s.now + i / 4) (n + 256 * i + 4 * k) 4))) ∧
      (r ≠ .scratch → Completes (.vld d a b p) s fun u => let y := c.spaceOf r n
        issued { Access.make (.vload d.toNat g) y.1 4096 0 0 n with reads := pieces y.2 4096 } u)) ∧
    (c.local? A 4096 true = some r →
      (r = .scratch → Completes (.vst d a b p) s fun u => timed u
        [⟨s.now + 6, false, groupCells g (elemCells (c.rv d) n) 0, true⟩, ⟨s.now + 7, false, groupCells g (elemCells (c.rv d) n) 1, true⟩,
          ⟨s.now + 8, false, groupCells g (elemCells (c.rv d) n) 2, true⟩, ⟨s.now + 9, false, groupCells g (elemCells (c.rv d) n) 3, true⟩]) ∧
      (r ≠ .scratch → Completes (.vst d a b p) s fun u => let y := c.spaceOf r n
        issued { Access.make .store y.1 4096 0 0 n with parts := vecParts (c.rv d) g y.2 } u)) ∧
    (reads (.vldL d a p) (fun x => ⟨s.now + x, 0, 0, [], .lanes d.toNat g x ((List.range 64).map lane)⟩) fun i k =>
      BitVec.ofNat 32 (bytesToNat
      ((List.range 4).map fun j => timedByte c.lanes c.timed true (s.now + i / 4) (k * 8192 + (lane k + 4 * i) + j)))) ∧
    Completes (.vstL d a p) s fun u =>
      let cells := groupCells g fun i k => cellsAt (k * 8192 + lane k + 4 * i) (natToBytes 4 ((c.rv d).get i k).toNat)
      timed u [⟨s.now + 6, true, cells 0, true⟩, ⟨s.now + 7, true, cells 1, true⟩, ⟨s.now + 8, true, cells 2, true⟩,
        ⟨s.now + 9, true, cells 3, true⟩] ∧ u.core.watchNow = c.watchNow

/-- R170, R172-R175, R181, R288-R290: `vqnt` completes in every format and writes, in one of R289's formats, each row's codes packed
from column 0 on and its two scales in the next element, all else zero, and sets the flags of its elements as it retires (under
a valid curve, as every slot holds, R172; on the cycle of the result, log entry 57); `vdqnt` writes the value of every code;
`cmpt` reads 68 bytes, of the own scratchpad one bank row a cycle, where no lock holds it and its port is free, and traps on a
pending word of it (R72); elsewhere it reads them after an untimed while, all on one cycle that has their ports free; it waits
forty cycles from its last read, and then sets its slot if the image is a valid curve, else CTBAD. A read that meets a poisoned row
leaves the slot and CTBAD, owes its report with register 0 and retires at once; that, and the one cycle of the read, are the model's
choice (log entry 70). -/
def Obligations.Quantisation : Prop :=
  ∀ (d a b : BitVec 4) (t : BitVec 2) (f : BitVec 4) (rows : List Host.Cell) (next due : Nat) (s : State),
    let c := s.core
    let curve := c.curves[t.toNat]
    let blk (r k : Nat) : Nat × List Nat × BitVec 5 :=
      quantBlock curve f.toNat ((List.range 32).map fun j => f32 ((c.rv a).get r (32 * k + j)))
    let w := fmtWidth f.toNat
    let per := 32 / w
    let code (x : VReg) (r k : Nat) : Nat := (x.get r (k / per)).toNat / 2 ^ (w * (k % per)) % 2 ^ w
    let image := curveOf (rows.map (·.2))
    let A := (c.rn a + c.rn b).toNat
    let waits (w : Waiting) : Prop := Completes (.cmpt a b t) s fun u =>
      u.core.waiting = w ∧ u.core.pc = c.pc ∧ u.core.vigil = c.vigil ∧ u.core.still = c.still ∧ OutsideFree s u ∧ BytesKept s u
    let row (x : Nat) : Nat := min (A + 68) (x / 64 * 64 + 64) - x
    let read (x : Nat) : List Host.Cell := cellsAt x (c.scrRead s.now x (row x))
    let open' (x : Nat) : Prop := c.lockedAt x (x + row x) = false ∧ c.matrixReads s.now x (row x) = false ∧
      c.bankTaken s.now x (row x) = false
    let free (x : Nat) : Prop := open' x ∧ (c.pendTrap = true → c.pendingOn s.now x (row x) = none)
    Completes (.vqnt d a t f) s (OnlyVectorFlags d s) ∧
    (3 ≤ f.toNat → f.toNat ≤ 9 → curve.valid = true → Completes (.vqnt d a t f) s fun u =>
      (∀ r k, r < 16 → k < 64 → code (u.core.rv d) r k = ((blk r (k / 32)).2.1).getD (k % 32) 0) ∧
      (∀ r, r < 16 → (u.core.rv d).get r (64 / per) = BitVec.ofNat 32 ((blk r 0).1 + 256 * (blk r 1).1)) ∧
      (∀ r k, r < 16 → 64 / per < k → k < 64 → (u.core.rv d).get r k = 0) ∧
      (∃ bits, u.core.fmtLate = c.fmtLate ++ [(s.now + 14, bits)] ∧ ∀ j, j < 5 → (bits.getLsbD j = true ↔
        ∃ r k, r < 16 ∧ k < 2 ∧ (blk r k).2.2.getLsbD j = true)) ∧
      OnlyVectorFlags d s u) ∧
    PutsVector (.vdqnt d a t f) d 0 s (fun r k =>
      let scale := ((c.rv a).get r (64 / per)).toNat / (if k < 32 then 1 else 256) % 256
      toF32 .rne (scaledVal curve f.toNat (code (c.rv a) r k) scale)) ∧
    (c.waiting = .none → regionOf c.poolMb A = some .scratch → free A → waits (.cmpt (read A) (A + row A) 0)) ∧
    (c.waiting = .none → regionOf c.poolMb A ≠ some .scratch → waits (.until s.dueCycle)) ∧
    (c.waiting = .cmpt rows next 0 → free next →
      (next + row next < A + 68 → waits (.cmpt (rows ++ read next) (next + row next) 0)) ∧
      (A + 68 ≤ next + row next → waits (.cmpt (rows ++ read next) 0 (s.now + 40)))) ∧
    (∀ x, c.waiting = .cmpt rows next 0 → open' next → c.pendTrap = true → c.pendingOn s.now next (row next) = some x →
      exec (.cmpt a b t) s = .next (s.takeTrap 5 (BitVec.ofNat 64 x) c.pc)) ∧
    (∀ r, c.cur = some (.cmpt a b t) → c.waiting = .until due → due ≤ s.now → regionOf c.poolMb A = some r → r ≠ .scratch →
      (let x := c.spaceOf r A; s.rangeFree x.1 (rowRanges 4 x.2 68)) = true → WindowReads s r A 68) ∧
    (∀ bs, c.waiting = .got bs false → waits (.cmpt (cellsAt A bs) 0 (s.now + 39))) ∧
    (∀ bs, c.waiting = .got bs true → Completes (.cmpt a b t) s fun u => OnlyRetires s u ∧
      ∃ x : PoisonReport, u.core.owed = c.owed ++ [x] ∧ x.reg = 0 ∧ x.integrity = false ∧ x.addr = BitVec.ofNat 56 A) ∧
    (c.waiting = .cmpt rows next due → due ≠ 0 → due ≤ s.now →
      (image.valid = true → Completes (.cmpt a b t) s (Does (fun c => { c with curves := c.curves.set t.toNat image }) s)) ∧
      (image.valid = false → Completes (.cmpt a b t) s (Does (fun c => { c with fmtstat := c.fmtstat ||| 16 }) s)))

/-! ## The engines (09 R202-R207; 13 R292-R320; 14 R322-R334) -/

/-- R202-R206, R298: a parameter word is taken from its packet, counts as one word, and works on the parameter stack of the
engine alone: constants and captured values are pushed, start conditions popped. A ninth entry, an entry that is missing, a
token reference where an integer is needed, and a second start condition halt the engine with subcodes 2, 3, 4 and 5, a
reserved word with 1: its stack and its condition are emptied and its report stands (an engine whose report stands has halted and
takes no word, R300, R301).
That a start condition with an entry missing, or a token
reference for it, is reported as such also while a condition is pending is the model's choice (log entry 18). -/
def Obligations.EngineParameters : Prop :=
  ∀ (n5 : BitVec 5) (n4 : BitVec 4) (n14 : BitVec 14) (w : BitVec 16) (x y : Entry) (v : BitVec 64) (z : Token)
    (r : List Entry) (s : State),
    let c := s.core
    let g := c.eng s.turnEng
    let captured (e : Entry) : Entry := (g.hand.head?.bind fun i => i.cap).getD e
    let taken : Engine := { g with hand := g.hand.tail, widx := g.widx + 1, dequeued := s.now + 1 }
    let only (g' : Engine) (t : State) : Prop :=
      t.core.eng s.turnEng = g' ∧ (∀ e, e ≠ s.turnEng → t.core.eng e = c.eng e) ∧
      { t.core with matrix := c.matrix, copy := c.copy, lantern := c.lantern, events := c.events } = c ∧ Outside s t
    let becomes (i : Instr) (st : List Entry) (cd : Option Cond) : Prop :=
      ∃ t, exec i s = .next t ∧ only { taken with stack := st, cond := cd } t
    let faults (i : Instr) (sub : BitVec 6) : Prop := g.report = none → ∃ t, exec i s = .next t ∧
      only { taken with stack := [], cond := none, held := none, report := some ⟨s.now, false, s.turnEng, sub, g.widx, stampOf g.cond⟩ } t
    becomes .nop g.stack g.cond ∧
    (g.stack.length < 8 → becomes (.sval n5) (captured (.int (c.rs n5)) :: g.stack) g.cond ∧
      becomes (.ktok n4) (captured (.tok (c.rk n4)) :: g.stack) g.cond ∧
      becomes (.lit n14) (.int (n14.setWidth 64) :: g.stack) g.cond) ∧
    (8 ≤ g.stack.length → faults (.sval n5) 2 ∧ faults (.ktok n4) 2 ∧ faults (.lit n14) 2 ∧ faults .dup 2) ∧
    (g.stack = x :: r → becomes .drop r g.cond ∧ (r.length < 7 → becomes .dup (x :: x :: r) g.cond)) ∧
    (g.stack = x :: y :: r → becomes .swap (y :: x :: r) g.cond) ∧
    (g.stack = .int v :: r → becomes (.litx n14) (.int (v * 16384 + n14.setWidth 64) :: r) g.cond ∧
      (g.cond = none → becomes .atStamp r (some (.stamp v)) ∧ becomes .gate r (some (.gate v))) ∧
      (g.cond ≠ none → faults .atStamp 5 ∧ faults .gate 5)) ∧
    (g.stack = [] → faults .drop 3 ∧ faults .dup 3 ∧ faults .swap 3 ∧ faults (.litx n14) 3 ∧ faults .atStamp 3 ∧ faults .gate 3) ∧
    (g.stack = [x] → faults .swap 3) ∧
    (g.stack = .tok z :: r → faults (.litx n14) 4 ∧ faults .atStamp 4 ∧ faults .gate 4) ∧
    faults (.reservedEngineWord w) 1

/-- R295, R298, R302-R304, R312-R318, R327: a launch word of its own engine whose arguments pass the checks, whose tokens all
pass Token.Check, whose start stamp is not reserved and still to come, is held at the head of its engine with its tag,
condition and word number, with what a collective's comes after (R97) and whether it is to run in the network (R375); its
arguments and the condition are consumed, and the format word for the matrix engine. A launch word of another engine is a
reserved word, reported as the Lantern's where it is one of the Lantern's (R334).
Of a side that is indexed the frame of offset 0 is looked up: the model's choice (log entry 76). -/
def Obligations.EngineLaunches : Prop :=
  ∀ (z1 : BitVec 1) (e3 : BitVec 3) (o2 t2 : BitVec 2) (k7 : BitVec 7) (tag a b d i n : BitVec 64) (src dst : Place)
    (w : BitVec 64) (q : List (BitVec 64)) (rest : List Entry) (ms : List (Nat × Nat)) (s : State),
    let c := s.core
    let g := c.eng s.turnEng
    let only (g' : Engine) (fq : List (BitVec 64)) (t : State) : Prop :=
      t.core.eng s.turnEng = g' ∧ (∀ e, e ≠ s.turnEng → t.core.eng e = c.eng e) ∧ t.core.fq = fq ∧
      { t.core with matrix := c.matrix, copy := c.copy, lantern := c.lantern, fq := c.fq, events := c.events } = c ∧ Outside s t
    let entries (p : Place) : List Entry := match p with
      | .loc x => [.int (BitVec.ofNat 64 x)]
      | .tok t x => [.tok t, .int (BitVec.ofNat 64 x)]
    let fits (p : Place) : Prop := match p with
      | .loc x => x < 2 ^ 64
      | .tok _ x => x < 2 ^ 64
    let future : Prop := ∀ x, g.cond = some (.stamp x) → x.getLsbD 62 = false ∧ (c.calendar.setWidth 56).toNat < (x.setWidth 56).toNat
    let holds (own : EngineId) (y : Instr) (args : List Entry) (k : LaunchKind) (toks : List (Token × Nat × Nat × BitVec 2)) : Prop :=
      s.turnEng = own → g.stack = .int tag :: args ++ rest → tag.toNat < 64 → future →
      (∀ x, x ∈ toks → s.checkRights x.1 x.2.1 x.2.2.1 x.2.2.2 = .ok) →
      ∃ t, exec y s = .next t ∧ only { g with
        hand := g.hand.tail, widx := g.widx + 1, dequeued := s.now + 1, stack := rest, cond := none
        held := some ⟨k, tag.toNat, g.cond, g.widx, s.now, g.release, s.inNetwork k⟩ }
          (if own = .matrix then c.fq.tail else c.fq) t
    let mma (y : Instr) (sparse : Bool) : Prop := c.fq = w :: q → mmaFmtOk sparse w = true → 1 ≤ n.toNat → n.toNat ≤ 16384 →
      i.toNat < 8 → (∀ r, r ∈ (mmaReads sparse n.toNat a.toNat b.toNat w).1 → inScratch r.1 r.2 = true) →
      (∀ r, r ∈ (mmaReads sparse n.toNat a.toNat b.toNat w).2 → (if sparse then inWeight r.1 r.2 else inScratch r.1 r.2) = true) →
      (sparse = true → b.toNat % 128 = 0 ∧ fwLDB w % 8 = 0) →
      holds .matrix y [.int i, .int n, .int b, .int a]
        (.mma (z1 == 1) sparse i.toNat n.toNat a.toNat b.toNat w (fwCT w)) []
    let copies (y : Instr) (args : List Entry) (size : Nat) (dims : List Dim) : Prop :=
      let x := srcBounds size dims
      let v := dstBounds size dims
      c.placeOk src x.1 x.2 = true → c.placeOk dst v.1 v.2 = true →
      holds .copy y (args ++ entries dst ++ entries src) (.copy size dims src dst)
        (placeTokens src x.1 x.2 1 ++ placeTokens dst v.1 v.2 2)
    let indexed (y : Instr) (k : LaunchKind) (lo hi : Int) (toks : List (Token × Nat × Nat × BitVec 2)) : Prop :=
      1 ≤ n.toNat → n.toNat ≤ 2 ^ 24 → inScratch i.toNat (4 * n.toNat) = true → c.placeOk src 0 lo = true →
      c.placeOk dst 0 hi = true → holds .copy y ([.int i, .int n] ++ entries dst ++ entries src) k toks
    let span : Int := ((n.toNat * 2 ^ e3.toNat : Nat) : Int)
    let point (p : Place) (need : BitVec 2) : List (Token × Nat × Nat × BitVec 2) := match p with
      | .loc _ => []
      | .tok t _ => [(t, 0, 0, need)]
    let coll (y : Instr) (kind : CollKind) (op dt : Nat) : Prop :=
      let u := collBytes kind dt n.toNat ms.length
      a.toNat < 256 → 1 ≤ n.toNat → n.toNat ≤ 2 ^ 24 → s.groupOf a.toNat = some ms → c.placeOk src 0 u.1 = true →
      c.placeOk dst 0 u.2 = true → holds .copy y ([.int a, .int n] ++ entries dst ++ entries src)
        (.coll kind op dt a.toNat n.toNat src dst) (placeTokens src 0 u.1 1 ++ placeTokens dst 0 u.2 2)
    let rows (x : BitVec 64) (bytes : Nat) : Prop := x.toNat % 64 = 0 ∧ inScratch x.toNat bytes = true
    let descAt := c.scrRead s.now a.toNat (16 + 16 * (e3.toNat + 1))
    (fits src → fits dst →
      mma (.mma z1) false ∧ mma (.mmaSp z1) true ∧
      (c.fq = w :: q → mwbFmtOk w = true → i.toNat < 8 → d.toNat % 64 = 0 → fwLDA w % 4 = 0 →
        inScratch (d.toNat + 16 * fwLDA w * 7) (mwbRow w) = true →
        holds .matrix (.mwb z1) [.int i, .int d] (.mwb (z1 == 1) i.toNat d.toNat w) []) ∧
      (n.toNat < 2 ^ 32 → copies .copy1d [.int n] n.toNat []) ∧
      (∀ size dims, inScratch a.toNat (16 + 16 * (e3.toNat + 1)) = true → c.pendEng = false →
        descOf descAt (e3.toNat + 1) = some (size, dims) → copies (.copyNd e3) [.int a] size dims) ∧
      indexed (.gather e3) (.gather e3.toNat i.toNat n.toNat src dst) 0 span (point src 1 ++ placeTokens dst 0 span 2) ∧
      indexed (.scatter e3) (.scatter e3.toNat i.toNat n.toNat src dst) span 0 (placeTokens src 0 span 1 ++ point dst 2) ∧
      (1 ≤ n.toNat → n.toNat ≤ 16384 → d.toNat % 128 = 0 → inWeight d.toNat (n.toNat * 128) = true →
        c.placeOk src 0 ((n.toNat * 128 : Nat) : Int) = true → holds .copy .wbfill ([.int n, .int d] ++ entries src)
          (.wbfill n.toNat src d.toNat) (placeTokens src 0 ((n.toNat * 128 : Nat) : Int) 1)) ∧
      coll (.collAr t2 o2) .ar o2.toNat t2.toNat ∧ coll (.collRs t2 o2) .rs o2.toNat t2.toNat ∧ coll (.collAg t2) .ag 0 t2.toNat) ∧
    holds .lantern .lrst [] .lrst [] ∧
    (1 ≤ n.toNat → n.toNat + i.toNat ≤ 128 → rows a (128 * n.toNat) →
      holds .lantern .ldly [.int n, .int i, .int a] (.ldly n.toNat i.toNat a.toNat) []) ∧
    (1 ≤ n.toNat → n.toNat ≤ 1024 → holds .lantern .lwin [.int n] (.lwin n.toNat) []) ∧
    (rows a 256 → holds .lantern .llaunchMin [.int a] (.llaunch false a.toNat) [] ∧
      holds .lantern .llaunchMax [.int a] (.llaunch true a.toNat) [] ∧ holds .lantern .lcapV [.int a] (.lcapV a.toNat) []) ∧
    (a.toNat % 2 = 0 → inScratch a.toNat (2 * (k7.toNat + 1)) = true →
      holds .lantern (.lcapO k7) [.int a] (.lcapO (k7.toNat + 1) a.toNat) []) ∧
    (∀ y own, (y, own) ∈ [(Instr.mma z1, EngineId.matrix), (.mmaSp z1, .matrix), (.mwb z1, .matrix), (.copy1d, .copy),
        (.copyNd e3, .copy), (.gather e3, .copy), (.scatter e3, .copy), (.wbfill, .copy), (.collAr t2 o2, .copy),
        (.collRs t2 o2, .copy), (.collAg t2, .copy), (.lrst, .lantern), (.ldly, .lantern), (.lwin, .lantern),
        (.llaunchMin, .lantern), (.llaunchMax, .lantern), (.lcapV, .lantern), (.lcapO k7, .lantern)] →
      s.turnEng ≠ own → g.report = none → ∃ t, exec y s = .next t ∧ only { g with
        hand := g.hand.tail, widx := g.widx + 1, dequeued := s.now + 1, stack := [], cond := none, held := none
        report := some ⟨s.now, false, if own = .lantern then .lantern else s.turnEng, 1, g.widx, stampOf g.cond⟩ } c.fq t)

/-- R296, R297, R306, R307, R327: a held launch waits for its start condition. A stamp's launch starts on its own cycle of
CALENDAR or misses it, by subcodes 1 to 5 in that order: too late, engine busy, operands locked, wanted tag not set, tile not
final; it then posts its tag in TAGS and TAGREV. A gated or unconditional launch starts once nothing of that stands against
it and its gate's tags are set. A start takes the next command number and the engine's next cycles; nothing else of the
core changes but the tile, the locks and the Lantern state that the kind names. -/
def Obligations.EngineStarts : Prop :=
  ∀ (e : EngineId) (h : Launch) (s : State),
    let c := s.core
    let g := c.eng e
    let own : EngineId := match h.kind with
      | .mma .. => .matrix
      | .mwb .. => .matrix
      | .lrst => .lantern
      | .ldly .. => .lantern
      | .lwin _ => .lantern
      | .llaunch .. => .lantern
      | .lcapV _ => .lantern
      | .lcapO .. => .lantern
      | _ => .copy
    let locked := c.launchLocked h.kind (s.membersOf h.kind)
    let others (t : State) : Prop := ∀ e', e' ≠ e → t.core.eng e' = c.eng e'
    let starts : Prop := own = e → (e = .copy → h.kind.total (s.membersOf h.kind) ≠ 0) →
      ∃ t m, exec (.engineLaunchStart e) s = .next t ∧ (t.core.eng e).held = none ∧
        (t.core.eng e).running = g.running ++ [m] ∧ m.id = c.cmdNext ∧ m.launch = h ∧ m.start = s.now ∧ m.pos = 0 ∧
        m.null = (h.network && !s.inNetwork h.kind) ∧
        t.core.cmdNext = c.cmdNext + 1 ∧ others t ∧
        (∀ z sp tile k a b w ct, h.kind = .mma z sp tile k a b w ct →
          (t.core.eng e).freeAt = s.now + chunkCount w k ∧ m.doneAt = some (s.now + chunkCount w k + 3)) ∧
        (∀ z tile d w, h.kind = .mwb z tile d w → (t.core.eng e).freeAt = s.now + 8 ∧ m.doneAt = some (s.now + 11)) ∧
        (e = .lantern → (t.core.eng e).freeAt = s.now + lanternOcc h.kind c.lan.tw.toNat ∧
          m.doneAt = some (s.now + lanternOcc h.kind c.lan.tw.toNat)) ∧
        (e ≠ .matrix → t.core.tiles = c.tiles ∧ t.core.tileFinal = c.tileFinal ∧ t.core.fmtstat = c.fmtstat) ∧
        (e ≠ .lantern → t.core.lan = c.lan) ∧
        { t.core with
          matrix := c.matrix, copy := c.copy, lantern := c.lantern, cmdNext := c.cmdNext, events := c.events
          tiles := c.tiles, tileFinal := c.tileFinal, fmtstat := c.fmtstat, fmtNow := c.fmtNow, locks := c.locks, lan := c.lan } = c ∧
        { t with core := s.core, tasks := s.tasks, fv := s.fv } = s
    let misses (x : BitVec 64) (sub : BitVec 6) : Prop := g.report = none → ∃ t, exec (.engineLaunchStart e) s = .next t ∧
      t.core.eng e = { g with
        stack := [], cond := none, held := none, report := some ⟨s.now, true, e, sub, h.widx, x.setWidth 32⟩ } ∧ others t ∧
      t.core.tags = c.tags ||| 1#64 <<< (h.tag % 64) ∧ t.core.tagrev = c.tagrev ||| 1#64 <<< (h.tag % 64) ∧
      { t.core with
        matrix := c.matrix, copy := c.copy, lantern := c.lantern, events := c.events, tags := c.tags, tagrev := c.tagrev
        doneNow := c.doneNow } = c ∧
      { t with core := s.core, tasks := s.tasks } = s
    let waits : Prop := exec (.engineLaunchStart e) s = .next s
    let ready := c.engFree e s.now = true ∧ locked = false ∧ c.tileReady h.kind s.now = true
    g.held = some h →
      (h.cond = none → (ready → starts) ∧ (¬ready → waits)) ∧
      (∀ m, h.cond = some (.gate m) → (ready ∧ c.tags &&& m = m → starts) ∧ (¬(ready ∧ c.tags &&& m = m) → waits)) ∧
      (∀ x, h.cond = some (.stamp x) →
        let cyc := (x.setWidth 56).toNat
        let cal := (c.calendar.setWidth 56).toNat
        let wanted : Prop := x.getLsbD 63 = true → c.tags.getLsbD (x.extractLsb' 56 6).toNat = true
        (cal < cyc → waits) ∧ (cyc < cal → misses x 1) ∧
        (cyc = cal → c.engFree e s.now = false → misses x 2) ∧
        (cyc = cal → c.engFree e s.now = true → locked = true → misses x 3) ∧
        (cyc = cal → c.engFree e s.now = true → locked = false → ¬wanted → misses x 4) ∧
        (cyc = cal → c.engFree e s.now = true → locked = false → wanted → c.tileReady h.kind s.now = false → misses x 5) ∧
        (cyc = cal → ready → wanted → starts))

/-- R68, R74, R255, R306, R307, R317, R320, R330: a command that has come to its end leaves its engine, gives up its locks
and sets its tag, with TAGREV when it failed; a write-back, a capture and a copy to the own scratchpad or weight buffer
show their bytes with the tag. A collective shows its result once every member's source is read. -/
def Obligations.EngineEnds : Prop :=
  ∀ (id n : Nat) (m : Cmd) (s : State),
    let c := s.core
    let ends (e : EngineId) (i : Instr) (rev : Bool) (P : State → Prop) : Prop := ∃ t, exec i s = .next t ∧
      t.core.eng e = { c.eng e with running := (c.eng e).running.filter fun x => x.id ≠ m.id } ∧
      (∀ e', e' ≠ e → t.core.eng e' = c.eng e') ∧
      t.core.tags = c.tags ||| 1#64 <<< (m.launch.tag % 64) ∧
      t.core.tagrev = (if rev then c.tagrev ||| 1#64 <<< (m.launch.tag % 64) else c.tagrev) ∧
      t.core.locks = c.locks.filter (fun l => !(l.eng == e && l.cmd == m.id)) ∧ P t ∧
      { t.core with
        matrix := c.matrix, copy := c.copy, lantern := c.lantern, tags := c.tags, tagrev := c.tagrev, locks := c.locks
        doneNow := c.doneNow, scr := c.scr, wb := c.wb, lan := c.lan, engPoison := c.engPoison } = c ∧ Outside s t
    let same (t : State) : Prop := t.core.wb = c.wb ∧ t.core.engPoison = c.engPoison
    let due : Prop := ∃ d, m.doneAt = some d ∧ d ≤ s.now
    (c.cmd? .matrix id = some m → due →
      (∀ z sp tile k a b w ct, m.launch.kind = .mma z sp tile k a b w ct → chunkCount w k ≤ m.pos →
        ends .matrix (.matrixComplete id) false fun t => same t ∧ t.core.scr = c.scr ∧ t.core.lan = c.lan) ∧
      (∀ z tile d w, m.launch.kind = .mwb z tile d w → 8 ≤ m.pos →
        ends .matrix (.mwbComplete id) false fun t => same t ∧ t.core.scr = memPut c.scr m.buf ∧ t.core.lan = c.lan)) ∧
    (c.cmd? .lantern id = some m → due → lanternDue m s.now = false → ends .lantern (.lanternComplete id) false fun t =>
      same t ∧
      (∀ mx row, m.launch.kind = .llaunch mx row → t.core.scr = c.scr ∧ t.core.lan = c.lan.evaluate mx m.idx) ∧
      (∀ dst, m.launch.kind = .lcapV dst → t.core.scr = memPut c.scr m.buf ∧ t.core.lan = c.lan) ∧
      (∀ k dst, m.launch.kind = .lcapO k dst → t.core.scr = memPut c.scr m.buf ∧ t.core.lan = c.lan) ∧
      ((∀ mx row, m.launch.kind ≠ .llaunch mx row) → t.core.lan = c.lan) ∧
      ((∀ dst, m.launch.kind ≠ .lcapV dst) → (∀ k dst, m.launch.kind ≠ .lcapO k dst) → t.core.scr = c.scr)) ∧
    (c.cmd? .copy id = some m → s.copyReady m = true → ends .copy (.copyComplete id) m.null fun t =>
      t.core.lan = c.lan ∧ t.core.engPoison = c.engPoison ++ (m.poison.map fun r => { r with cycle := s.now }).toList ∧
      (∀ a, m.launch.kind.places.2 = .loc a →
        (regionOf c.poolMb a = some .scratch → t.core.scr = memPut c.scr m.buf ∧ t.core.wb = c.wb) ∧
        (regionOf c.poolMb a = some .weight → t.core.wb = memPut c.wb (m.buf.map fun x => (x.1 - 0x30000000, x.2)) ∧
          t.core.scr = c.scr)) ∧
      (c.heldDest m.launch.kind = false → t.core.scr = c.scr ∧ t.core.wb = c.wb)) ∧
    (∀ t k q group gr, s.task? n = some t → (t.groups.find? fun x => x.num = group) = some gr →
      (t.colls.filter fun r => r.group = group && (s.collCmd r).isSome) = [k] → s.collCmd k = some (q, m) →
      let ms := gr.members
      (m.shift = 1 → s.collWritten q m = true → ∃ u, exec (.collectiveComplete n group) s = .next u ∧
        OnlyCore q.phys (fun c => c.finishCopy m s.now) s u) ∧
      (∀ kind op dt g count src dst, m.launch.kind = .coll kind op dt g count src dst → m.shift = 0 →
        s.collFailed t group k.seq ms = false → s.collReady t group k.seq ms = true →
        ∃ u, exec (.collectiveComplete n group) s = .next u ∧
          OnlyCore q.phys (fun c => c.collIssue m
            (collResult kind op dt count ms.length (s.memberRank t ms q.phys) (s.memberByte t group k.seq ms)) false s.fv s.now)
            { s with fv := s.fv + 1 } u))

/-! ## What memory brings to an end (04 R68; 05 R89-R104; 06 R114-R132; 11 R240-R248) -/

/-- R68, R101-R103, R241, R246: a timed write whose exposure cycle has come goes to its bank or slice, in the order of issue.
A store to a local region is performed piece by piece where it stands, and leaves its queue with the last; a token store is
performed at its home slice in the die of its core, numbered there, and goes out to the other three dies; an exported store
is applied in a die once it can be, but for a byte where a later store already stands. The bytes then read as the store's
(in a memory of canonical form, of a store that names no byte twice), and every other byte as before. -/
def Obligations.StoresPerformed : Prop :=
  ∀ (id src dst : Nat) (a : Access) (x : Export) (s : State),
    let c := s.core
    let d := dieOf c.phys
    let cells := a.parts.getD (s.nextPart a) []
    let rest := a.parts.eraseIdx (s.nextPart a)
    let once : Prop := ∀ y b b', (y, b) ∈ cells → (y, b') ∈ cells → b = b'
    let part (u t : State) : Prop :=
      (rest = [] → t.core.acc = c.acc.filter fun y => y.id ≠ a.id) ∧
      (rest ≠ [] → ∃ due, s.now ≤ due ∧
        t.core.acc = c.acc.map fun y => if y.id = a.id then { a with parts := rest, due := due, arrived := none } else y) ∧
      { t.core with acc := u.core.acc, dep := u.core.dep, copy := u.core.copy } = u.core ∧ { t with core := u.core, fv := u.fv } = u
    let later (k m : Mark) : Prop := k.before m = true ∨ (k.stamp = m.stamp ∧ k.seq = m.seq)
    (let due := c.timed.filter fun w => decide (w.expose ≤ s.now)
      ∃ t, exec .writeExposure s = .next t ∧ t.core.scr = memPut c.scr ((due.filter fun w => !w.lane).flatMap fun w => w.cells) ∧
        t.core.lanes = memPut c.lanes ((due.filter fun w => w.lane).flatMap fun w => w.cells) ∧
        t.core.timed = c.timed.filter (fun w => !decide (w.expose ≤ s.now)) ∧
        { t.core with scr := c.scr, lanes := c.lanes, timed := c.timed, bankWrites := c.bankWrites } = c ∧ Outside s t) ∧
    (c.access? id = some a → a.kind = .store → a.space = .own ∨ a.space = .wb ∨ (∃ k, a.space = .csm k) ∨ (∃ k, a.space = .pool k) →
      s.ready a = true → s.partFree a cells = true → ∃ t, exec (.localStorePerformed id) s = .next t ∧
        part (s.putSpace a.space cells) t ∧ t.core.dep = c.dep ∧ t.core.copy = c.copy ∧
        (∀ y, (∀ b, (y, b) ∉ cells) → t.spaceByte a.space y = s.spaceByte a.space y) ∧
        ((∀ q, q ∈ s.cores → q.scr.wf = true ∧ q.wb.wf = true) → (∀ k, (s.die k).pool.wf = true) → once →
          ∀ y b, (y, b) ∈ cells → t.spaceByte a.space y = b)) ∧
    (c.access? id = some a → a.kind = .store → a.space = .main → s.ready a = true → d < 4 →
      (∀ y, y ∈ cells → y.1 < Config.mainMemoryEnd) → ∃ t, exec (.tokenStorePerformed id) s = .next t ∧
        part (s.storeMain d cells) t ∧
        (t.die d).exported = (s.die d).exported + 1 ∧ t.core.dep = (c.depend d ((s.die d).exported + 1)).dep ∧
        t.core.copy = ((c.depend d ((s.die d).exported + 1)).precedes a.id).copy ∧
        { t.core with acc := c.acc, dep := c.dep, copy := c.copy } = c ∧
        ((s.die d).view.wf = true → once → ∀ y b, (y, b) ∈ cells → memGet (t.die d).view y = b) ∧
        (∀ y, (∀ b, (y, b) ∉ cells) → memGet (t.die d).view y = memGet (s.die d).view y ∧ memGet t.mem y = memGet s.mem y) ∧
        (∀ f, f < 4 → f ≠ d → (t.die f).view = (s.die f).view ∧ ∃ e, (t.die f).inbox = (s.die f).inbox ++ [e] ∧ e.src = d ∧
          e.num = (s.die d).exported + 1 ∧ (e.cells.map fun y => (y.1, y.2.1)) = cells ∧ s.now < e.due)) ∧
    (∀ p, c.access? id = some a → a.kind = .store → a.space = .lent p → s.bind a = none → s.ready a = true →
      ∃ t, exec (.tokenStorePerformed id) s = .next t ∧ part (s.putSpace (.lent p) cells) t ∧ t.core.dep = c.dep ∧
        (s.lentMem.wf = true → once → ∀ y b, (y, b) ∈ cells → s.lentClosed y = false → memGet t.lentMem y = b)) ∧
    (dst < 4 → ((s.die dst).inbox.find? fun e => e.src == src && s.canApply dst e) = some x →
      ∃ t, exec (.exportedStoreApply src dst) s = .next t ∧
        (t.die dst).applied = (s.die dst).applied.set src x.num ∧
        (t.die dst).inbox = (s.die dst).inbox.filter (fun y => !(y.src == src && y.num == x.num)) ∧
        (t.die dst).exported = (s.die dst).exported ∧ (t.die dst).pool = (s.die dst).pool ∧
        ((s.die dst).view.wf = true → (∀ y z, y ∈ x.cells → z ∈ x.cells → y.1 = z.1 → y = z) → ∀ z, z ∈ x.cells →
          (∀ k, markOf (s.die dst).marks z.1 = some k → later k z.2.2) → memGet (t.die dst).view z.1 = z.2.1) ∧
        (∀ y, (∀ z, z ∈ x.cells → z.1 ≠ y) → memGet (t.die dst).view y = memGet (s.die dst).view y) ∧
        (∀ y k, markOf (s.die dst).marks y = some k → (∀ z, z ∈ x.cells → z.1 = y → ¬later k z.2.2) →
          memGet (t.die dst).view y = memGet (s.die dst).view y) ∧
        (∀ f, f < 4 → f ≠ dst → t.die f = s.die f) ∧ { t with dies := s.dies } = s)

/-- R76, R90, R104, R114, R116, R119, R125, R129-R132, R240, R243, R245, R248: a load reads one piece at a time; the last completes
it: its register takes the value, or keeps its own and is marked when the data are poisoned. An atomic at its serialisation point
takes the old value and writes what its operation makes of it, in one event; one at the memory-side cache is then performed in its
own die, in that place of the order; its result returns later. `waita` ends at its registration when the value has reached the
threshold or the table is full, else it is registered; when it has timed out and the withdrawal has come to its point, a free while
later (log entry 64), its registration is withdrawn. That a wait ended so has END 0 or 1 and no SETTER in its record is the
model's choice (log entry 12). -/
def Obligations.LoadsAndAtomics : Prop :=
  ∀ (id n t x : Nat) (op : BitVec 4) (num : Option (Nat × Nat)) (a : Access) (r : Nat × Nat) (s : State),
    let c := s.core
    let d := dieOf c.phys
    let bs := s.spaceRead a.space r.1 r.2
    let clean := s.poisonIn a.space r.1 r.2 = false ∧ s.macBad a.space r.1 r.2 = false
    let gone (u : State) : Prop := u.core.acc = c.acc.filter fun y => y.id ≠ id
    let reads : Prop := a.id = id ∧ c.access? id = some a ∧ s.bind a = none ∧ s.ready a = true ∧ s.portFree a = true
    let seen (u : State) : Core := { u.core.still with
      s := c.s, v := c.v, k := c.k, acc := c.acc, dep := c.dep, depMsc := c.depMsc, mscSeen := c.mscSeen, copy := c.copy }
    let outside (p : Nat × Nat) (u : State) : Prop :=
      u.others = (s.takeCsm a.space p.1 p.2).others ∧ u.dies = (s.takeCsm a.space p.1 p.2).dies ∧
      u.fw = (s.countCorrected a.space p.1 p.2).fw ∧
      { u with core := s.core, others := s.others, dies := s.dies, fw := s.fw, fv := s.fv } = s ∧ BytesKept s u
    let loads (kind : AccKind) (P : State → Prop) : Prop := a.kind = kind → reads →
      a.reads = [r] → 0 < r.2 → a.got = [] → a.poisoned = false → a.badMac = false → undecoded a.space [r] = none →
      ∃ u, exec (.loadDataReturn id) s = .next u ∧ gone u ∧ P u ∧ seen u = c.still ∧ u.fv = s.fv ∧ outside r u
    let word := a.place
    let waits (w : WaitEnd) (u : State) : Prop := u.core.waiting = .waita id (some w) ∧ gone u ∧ seen u = c.still
    let value (p : Point) : Nat := s.wordAt p word.1 word.2
    let atomic : Prop := a.kind = .atomic op n t x ∧ a.id = id ∧ c.access? id = some a ∧ a.space = .main ∧ a.stage = .waiting ∧
      a.parts = [] ∧ a.reads = [(word.1, a.n)] ∧ s.ready a = true ∧ word.1 + a.n ≤ Config.mainMemoryEnd ∧
      s.poisonIn .main word.1 word.2 = false ∧ s.macBad .main word.1 word.2 = false
    (∀ sext, loads (.load (.s n) sext) fun u =>
      (clean → n < 32 → ∀ q : BitVec 5, u.core.rs q = if q.toNat = n ∧ q ≠ 0 then loadValue bs sext else c.rs q) ∧
      (s.poisonIn a.space r.1 r.2 = true → 0 < n → u.core.s = c.s ∧
        (Reg.s n, (⟨s.now, false, a.src, BitVec.ofNat 5 n, BitVec.ofNat 56 a.va, a.line <|> s.firstLine a.space r.1 r.2 .badMac⟩ :
          PoisonReport)) ∈ u.core.marks) ∧
      u.core.v = c.v ∧ u.core.k = c.k) ∧
    (loads (.kload n) fun u => (clean → n < 16 → ∀ q : BitVec 4, u.core.rk q =
      if q.toNat = n then unsealToken s.sealKey c.partId bs else c.rk q) ∧ u.core.s = c.s ∧ u.core.v = c.v) ∧
    (∀ g, loads (.vload n g) fun u => (clean → n < 16 → ∀ q : BitVec 4, u.core.rv q =
      if q.toNat = n then guarded g (c.rv q) (elemAt bs) else c.rv q) ∧ u.core.s = c.s ∧ u.core.k = c.k) ∧
    (let p := s.nextPiece a
     let got := a.got ++ cellsAt p.1 (s.spaceRead a.space p.1 p.2)
     let left := { a with got := got }.unread
     let bytes := a.reads.flatMap fun r => (List.range r.2).map fun i => memGet got (r.1 + i)
     a.isLoad = true → reads → undecoded a.space a.unread = none → ∃ u, exec (.loadDataReturn id) s = .next u ∧ outside p u ∧
       seen u = c.still ∧
       (left ≠ [] → (u.core.s, u.core.v, u.core.k) = (c.s, c.v, c.k) ∧ ∃ due, s.now ≤ due ∧ u.core.acc = c.acc.map fun y =>
         if y.id = id then { a with
           got := got, poisoned := a.poisoned || s.poisonIn a.space p.1 p.2
           badMac := a.badMac || (s.macBad a.space p.1 p.2 && !s.poisonIn a.space p.1 p.2)
           line := a.line <|> s.firstLine a.space p.1 p.2 .badMac, due := due, arrived := none } else y) ∧
       (left = [] → gone u ∧ (a.poisoned = false → a.badMac = false → s.poisonIn a.space p.1 p.2 = false →
         s.macBad a.space p.1 p.2 = false →
         (∀ sext, a.kind = .load (.s n) sext → n < 32 → ∀ q : BitVec 5,
           u.core.rs q = if q.toNat = n ∧ q ≠ 0 then loadValue bytes sext else c.rs q) ∧
         (a.kind = .kload n → n < 16 → ∀ q : BitVec 4,
           u.core.rk q = if q.toNat = n then unsealToken s.sealKey c.partId bytes else c.rk q) ∧
         (∀ g, a.kind = .vload n g → n < 16 → ∀ q : BitVec 4,
           u.core.rv q = if q.toNat = n then guarded g (c.rv q) (elemAt bytes) else c.rv q)))) ∧
    (atomic → a.scope.toNat < 3 → d < 4 → ∃ u, exec (.atomicApply id) s = .next u ∧
        let old := memReadNat (s.die d).view word.1 a.n
        let new := amoNew op a.n old t x
        (c.waiting ≠ .waita id none →
          ∃ y, u.core.access? id = some y ∧ y.stage = .applied old none ∧ y.parts = [] ∧ s.now < y.due) ∧
        (amoWrites op old t = false → ∀ f, f < 4 → (u.die f).view = (s.die f).view ∧ (u.die f).inbox = (s.die f).inbox) ∧
        (amoWrites op old t = true → (s.die d).view.wf = true → memRead (u.die d).view word.1 a.n = natToBytes a.n new) ∧
        (amoWrites op old t = true → ∀ f, f < 4 → f ≠ d → ∃ e, (u.die f).inbox = (s.die f).inbox ++ [e] ∧ e.src = d ∧
          (e.cells.map fun y => (y.1, y.2.1)) = cellsAt word.1 (natToBytes a.n new)) ∧
        (∀ y, y < word.1 ∨ word.1 + a.n ≤ y → memGet (u.die d).view y = memGet (s.die d).view y) ∧
        (op = 11 → amoCrosses a.n old new t = true → (u.die d).waiters =
          (s.die d).waiters.filter fun w => !(w.addr == word.1 && w.n == a.n)) ∧
        (op ≠ 11 ∨ amoCrosses a.n old new t = false → { u.core with
          acc := c.acc, dep := c.dep, copy := c.copy, watchFly := c.watchFly } = c ∧ (u.die d).waiters = (s.die d).waiters)) ∧
    (atomic → 3 ≤ a.scope.toNat → s.mscTurn a = true → ∃ u, exec (.atomicApply id) s = .next u ∧
        let old := memReadNat s.mem word.1 a.n
        let new := amoNew op a.n old t x
        (c.waiting ≠ .waita id none → ∃ y, u.core.access? id = some y ∧ s.now < y.due ∧
          (amoWrites op old t = false → y.stage = .applied old none ∧ y.parts = []) ∧
          (amoWrites op old t = true → y.parts = [cellsAt word.1 (natToBytes a.n new)] ∧
            ∃ stamp, y.stage = .applied old (some (stamp, s.seq)))) ∧
        (amoWrites op old t = false → u.mem = s.mem) ∧
        (amoWrites op old t = true → s.mem.wf = true → memRead u.mem word.1 a.n = natToBytes a.n new) ∧
        (∀ y, y < word.1 ∨ word.1 + a.n ≤ y → memGet u.mem y = memGet s.mem y) ∧
        (∀ f, f < 4 → (u.die f).view = (s.die f).view ∧ (u.die f).inbox = (s.die f).inbox) ∧
        (op = 11 → amoCrosses a.n old new t = true → u.pkgWaiters = s.pkgWaiters.filter fun w => !(w.addr == word.1 && w.n == a.n)) ∧
        (op ≠ 11 ∨ amoCrosses a.n old new t = false → u.pkgWaiters = s.pkgWaiters)) ∧
    (∀ old stamp q, a.kind = .atomic op n t x → a.id = id → c.access? id = some a → a.space = .main →
      a.stage = .applied old (some (stamp, q)) → a.parts ≠ [] → a.due ≤ s.now → d < 4 → ∃ u, exec (.atomicApply id) s = .next u ∧
        let cells := a.parts.flatten
        (u.die d).exported = (s.die d).exported + 1 ∧
        (∃ y, u.core.access? id = some y ∧ y.stage = a.stage ∧ y.parts = [] ∧ s.now < y.due) ∧
        ((s.die d).view.wf = true → (∀ y b b', (y, b) ∈ cells → (y, b') ∈ cells → b = b') → ∀ y b, (y, b) ∈ cells →
          (∀ k, markOf (s.die d).marks y = some k → k.stamp < stamp ∨ (k.stamp = stamp ∧ k.seq ≤ q)) →
          memGet (u.die d).view y = b) ∧
        (∀ y, (∀ b, (y, b) ∉ cells) → memGet (u.die d).view y = memGet (s.die d).view y ∧ memGet u.mem y = memGet s.mem y) ∧
        (∀ f, f < 4 → f ≠ d → (u.die f).view = (s.die f).view ∧ ∃ e, (u.die f).inbox = (s.die f).inbox ++ [e] ∧ e.src = d ∧
          (e.cells.map fun y => (y.1, y.2.1)) = cells)) ∧
    (∀ old, a.kind = .atomic op n t x → a.stage = .applied old num → c.access? id = some a → a.parts = [] → a.due ≤ s.now → n < 32 →
      s.canTravel a = true → a.poisoned = false → a.badMac = false → ∃ u, exec (.atomicResultReturn id) s = .next u ∧ gone u ∧
        (∀ q : BitVec 5, u.core.rs q = if q.toNat = n ∧ q ≠ 0 then BitVec.ofNat 64 old else c.rs q) ∧
        { u.core.still with s := c.s, acc := c.acc } = c.still ∧ Outside s u ∧ BytesKept s u) ∧
    (a.kind = .atomic op n t x → a.id = id → c.access? id = some a → a.stage = .waiting → a.isToken = false → s.ready a = true →
      s.rowFree a = true → s.spoil a = none → ∃ u, exec (.localAtomicApply id) s = .next u ∧
        let old := bytesToNat (s.spaceRead a.space word.1 word.2)
        let new := amoNew op a.n old t x
        (∃ y, u.core.access? id = some y ∧ y.stage = .applied old none ∧ s.now + 2 ≤ y.due) ∧
        (amoWrites op old t = false → BytesKept s u) ∧
        (amoWrites op old t = true → (∀ q, q ∈ s.cores → q.scr.wf = true ∧ q.wb.wf = true) → (∀ k, (s.die k).pool.wf = true) →
          u.spaceRead a.space word.1 a.n = natToBytes a.n new) ∧
        (∀ y, y < word.1 ∨ word.1 + a.n ≤ y → u.spaceByte a.space y = s.spaceByte a.space y) ∧ u.mem = s.mem ∧
        { u.core with
          acc := c.acc, watchFly := c.watchFly, scr := c.scr, wb := c.wb, bankReads := c.bankReads
          bankWrites := c.bankWrites } = c) ∧
    (a.kind = .waita n x → a.id = id → c.access? id = some a → a.space = .main → a.stage = .waiting → c.waiting = .waita id none →
      a.scope.toNat < 3 → a.reads = [word] → s.ready a = true → word.1 + word.2 ≤ Config.mainMemoryEnd →
      s.poisonIn .main word.1 word.2 = false → s.macBad .main word.1 word.2 = false →
      let p := Point.slice d
      let v := value p
      let reached := signed (8 * a.n) x ≤ signed (8 * a.n) v
      (reached → ∃ u, exec (.waitaRegister id) s = .next u ∧ waits ⟨BitVec.ofNat 64 v, true, 0, setterNone⟩ u) ∧
      (¬reached → s.tableFull p word.1 = true →
        ∃ u, exec (.waitaRegister id) s = .next u ∧ waits ⟨BitVec.ofNat 64 v, false, 0, setterNone⟩ u) ∧
      (¬reached → s.tableFull p word.1 = false → d < 4 → ∃ u, exec (.waitaRegister id) s = .next u ∧
        (u.die d).waiters = (s.die d).waiters ++ [⟨c.phys, id, word.1, a.n⟩] ∧ u.core.waiting = .waita id none ∧
        u.core.acc = c.acc.map (fun y => if y.id = id then { a with stage := .registered, due := s.withdrawalDue a } else y) ∧
        { u.core with acc := c.acc } = c ∧ { u with core := s.core, dies := s.dies, fv := s.fv } = s)) ∧
    (s.waitExpired = some a → a.id = id → c.waiting = .waita id none →
      ∃ u, exec .waitaTimeout s = .next u ∧ waits ⟨BitVec.ofNat 64 (value (a.point c.phys)), false, 1, setterNone⟩ u ∧
        u.waitersAt (a.point c.phys) = (s.waitersAt (a.point c.phys)).filter fun w => !(w.core == c.phys && w.acc == id))

/-! ## Reports, sampling and debug (16 R352-R361; 19 R392-R412) -/

/-- R147, R243, R299, R300, R354-R361, R408, R410: Vigil and the reports that are delivered at the instruction at issue: a
precise watch first, then those of the engines in the order of their numbers, each emptying its engine, then poison met by
an engine, by a reduction, and imprecise watches; POISON and INTEGRITY of a register or an ordering point. F3 logs a POISON, but
for those of requests lost with their port (R128, R359); F4 logs an INTEGRITY and the frame goes over to firmware (R386). -/
def Obligations.ReportsDelivered : Prop :=
  ∀ (i : Instr) (due : Nat) (e : EngineId) (x : EngineReport) (r : PoisonReport) (w : WatchReport) (t : Task) (s : State),
    let c := s.core
    let delivers (y : Report) (f : Core → Core) (code : BitVec 8) (v : Word) : Prop :=
      exec .deferredReportDelivery s = .next (State.takeTrap ((s.logInterrupted y).mod f) code v c.pc)
    let emptied (g : Engine) : Engine := { g with queue := [], hand := [], stack := [], cond := none, report := none }
    let poisons (y : Report) (f : Core → Core) : Prop :=
      exec .deferredReportDelivery s = .next (State.takePoison ((s.logInterrupted y).mod f) r)
    (c.cur = some i → c.vigil = 0 → vigilExempt i = false → c.waiting.committed = false → exec .vigil s = .next s.vigilFault) ∧
    (c.waiting = .install due false → due ≤ s.now → ∃ u, exec .watchInstalled s = .next u ∧ u.core.waiting = .install due true ∧
      { u.core with waiting := c.waiting } = c ∧ Outside s u) ∧
    (c.holdsReports = false → c.draining = false → c.watchNow = some w →
      delivers (.precise w) (fun c => { c with watchNow := none }) 14 (w.val false s.now)) ∧
    (c.holdsReports = false → c.draining = false → c.watchNow = none → c.inh = false → (c.eng e).report = some x → c.ripe x.cycle s.now = true →
      (∀ e', engNum e' < engNum e → (c.eng e').report = none) →
      delivers (.engine e x) (fun c => match e with
          | .matrix => { c with matrix := emptied c.matrix, fq := [] }
          | .copy => { c with copy := emptied c.copy }
          | .lantern => { c with lantern := emptied c.lantern })
        (if x.schedmiss then 11 else 10) (BitVec.ofNat 2 (engNum x.eng) ++ x.sub ++ x.widx ++ x.stamp)) ∧
    (c.nextReport s.now = some (.read r) → poisons (.read r) fun c => { c with engPoison := c.engPoison.erase r }) ∧
    (c.nextReport s.now = some (.reduction r) → poisons (.reduction r) fun c => { c with redOwed := c.redOwed.erase r }) ∧
    (c.nextReport s.now = some (.imprecise w) →
      delivers (.imprecise w) (fun c => { c with watchQ := c.watchQ.erase w, watchLost := false }) 14 (w.val c.watchLost s.now)) ∧
    (c.poisonAt s.now = some r →
      (r.integrity = false → exec .poison s = .next (State.takeTrap
        { s with
          core := c.takeReport r
          fw := if r.src = 4 ∨ r.src = 6 then s.fw else { s.fw with errors := s.fw.errors ++ [.poison r] } }
        12 (r.src ++ r.reg ++ r.addr) c.pc)) ∧
      (r.integrity = true → s.task? c.task = some t → t.ending = none → ∃ u, exec .integrity s = .next u ∧ u.core.ctx = .ended ∧
        (∀ l, r.line = some l → (u.potOf (l / 512)).transition = true ∧ u.trust.secLog = s.trust.secLog ++
          [⟨c.partId, some (l / 512), l % 512, s.nodeFails l, s.time, some c.rank, c.pc⟩]) ∧
        (u.task? c.task).bind (·.ending) = some ⟨t.idx, .fault, 13, c.rank, c.pc⟩ ∧ Journals (.taskEnd t.id) s u))

/-- R71, R230, R392-R396, R405-R407: a sample is one row of 32 bytes in the ring of its core's virtual die, numbered, and one that
F6 has not read counts as lost as it is overwritten; F6 reads the rings, and takes records out of the telemetry log; SAMPLECFG is
written before the dispatch or the restore of a virtual core where its fields and rings fit; DBGCFG by debug request, once requests
are accepted (R429; in mid-context at once, the model's choice, log entry 68); a stop is armed at least 65,536 cycles ahead, freezes
the core on its cycle with a dump of it, an entry for each run of bytes on its way, and resumes with every pending result moved by
as much as it stood; a live dump is posted. -/
def Obligations.Observation : Prop :=
  ∀ (n vc die count cycle mb adr : Nat) (bs : List Byte) (cores : List Nat) (value : BitVec 64) (v2 : BitVec 2) (p : Partition) (q : Core) (s : State),
    let c := s.core
    let seqs := (mapGet p.ringSeq c.vdie).getD (0, 0)
    let unread := (mapGet p.ringRead c.vdie).getD (0, 0)
    let slot := c.poolAt + (0x20000000 + c.poolMb * 0x100000 - 2 * (32 * 2 ^ c.ringLog) + seqs.1 % 2 ^ c.ringLog * 32 - 0x20000000)
    let d := dieOf c.phys
    let exp := (value.extractLsb' 8 5).toNat
    let rlog := (value.extractLsb' 16 5).toNat
    let w := (mapGet p.ringSeq die).getD (0, 0)
    let moved (t : Nat) : Nat := if q.frozenAt ≤ t ∧ t < 2 ^ 62 then t + (s.now - q.frozenAt) else t
    (c.sen = true → c.headRun = true → (c.calendar.toNat + 997 * c.vcore) % 2 ^ c.sampleExp = 0 → mapGet s.parts c.partId = some p →
      d < 4 → ∃ u, exec .pcSample s = .next u ∧
        (mapGet u.parts c.partId = some { p with
          ringSeq := mapSet p.ringSeq c.vdie (seqs.1 + 1, seqs.2)
          ringLost := p.ringLost + if unread.1 + 2 ^ c.ringLog ≤ seqs.1 then 1 else 0 }) ∧
        (u.die d).pool = memWrite (s.die d).pool slot (c.sampleBytes s.time s.ptp.holdover seqs.1) ∧
        (c.sampleBytes s.time s.ptp.holdover seqs.1).length = 32 ∧
        (u.die d).view = (s.die d).view ∧ (∀ f, f < 4 → f ≠ d → u.die f = s.die f) ∧
        { u with parts := s.parts, dies := s.dies } = s) ∧
    (mapGet s.parts n = some p → ∃ u, exec (.ringDrain n die) s = .next u ∧
      mapGet u.parts n = some { p with ringRead := mapSet p.ringRead die w } ∧ { u with parts := s.parts } = s) ∧
    (mapGet s.parts n = some p → ∃ u, exec (.telemetryLogDrain n count) s = .next u ∧
      mapGet u.parts n = some { p with log := p.log.drop count } ∧ { u with parts := s.parts } = s) ∧
    (10 ≤ exp → exp ≤ 24 → 8 ≤ rlog → rlog ≤ 18 → mapGet s.parts n = some p → s.poolOf n vc = some mb → 64 * 2 ^ rlog ≤ mb * 0x100000 →
      (∀ k, k ∈ s.cores → k.stands n vc = false) →
      ((∀ y, y ∈ s.saved → y.isOf n vc = false) → ∃ u, exec (.samplecfgWrite ⟨n, vc⟩ value) s = .next u ∧
        mapGet u.parts n = some { p with sampling := mapSet p.sampling vc (value &&& 0x3FF1F01) } ∧ { u with parts := s.parts } = s) ∧
      ((∃ y, y ∈ s.saved ∧ y.isOf n vc = true) → exec (.samplecfgWrite ⟨n, vc⟩ value) s = .next { s with
        saved := s.saved.map fun y =>
          if y.isOf n vc then { y with core := { y.core with samplecfg := value &&& 0x3FF1F01 } } else y })) ∧
    (exp < 10 ∨ 24 < exp ∨ rlog < 8 ∨ 18 < rlog ∨ s.poolOf n vc = none ∨ (∃ k, k ∈ s.cores ∧ k.stands n vc = true) →
      exec (.samplecfgWrite ⟨n, vc⟩ value) s = .next s) ∧
    (s.coreAt n = some q →
      (s.boot = .running → s.bootStep = 7 → ∃ u, exec (.debugRequest n v2) s = .next u ∧
        OnlyCore n (fun c => { c with dbgcfg := v2 }) s u) ∧
      (s.boot ≠ .running ∨ s.bootStep ≠ 7 → exec (.debugRequest n v2) s = .next s) ∧
      (q.ctx = .running → ∃ u, exec (.liveDump n) s = .next u ∧ OnlyCore n (fun c => { c with dump := true }) s u) ∧
      (q.ctx = .frozen → ∃ u q', exec (.stopResume n) s = .next u ∧ OnlyCore n (fun _ => q') s u ∧ q'.ctx = .running ∧
        (q'.s, q'.v, q'.p, q'.k, q'.pc, q'.calendar, q'.tags, q'.scr) = (q.s, q.v, q.p, q.k, q.pc, q.calendar, q.tags, q.scr) ∧
        q'.headRun = true ∧
        q'.ready = q.ready.map (fun x =>
          (x.1, if q.frozenAt ≤ x.2 + x.1.span ∧ x.2 < 2 ^ 62 then x.2 + (s.now - q.frozenAt) else x.2)) ∧
        q'.timed = q.timed.map (fun x => { x with expose := moved x.expose }) ∧ q'.nextIssue = moved q.nextIssue ∧
        q'.vecFree = moved q.vecFree ∧ q'.divFree = moved q.divFree)) ∧
    (∃ u, exec (.scheduleStopArm cores cycle) s = .next u ∧
      u.cores = s.cores.map (fun c => if cores.contains c.phys = true ∧ c.ctx = .running ∧ c.calendar.toNat + 65536 ≤ cycle then
        { c with stopAt := some (BitVec.ofNat 56 cycle) } else c) ∧
      { u with core := s.core, others := s.others } = s) ∧
    (c.ctx = .running → c.stopAt = some (c.calendar.setWidth 56) → ∃ u, exec .scheduleCycleStop s = .next u ∧
      u.core = { c with ctx := .frozen, stopAt := none, headRun := false, frozenAt := s.now } ∧ 
      (∃ es, u.dumps = s.dumps ++ [⟨c.phys, false, c, [], es⟩] ∧ ∀ w, w ∈ c.timed → s.now ≤ w.expose → w.cells = cellsAt adr bs → bs ≠ [] →
        [if w.lane then 2 else 1, 0] ++ natToBytes 2 (w.expose - s.now) ++ natToBytes 4 adr ++ natToBytes 4 bs.length ++ natToBytes 4 0 ++ bs
          ++ List.replicate ((8 - bs.length % 8) % 8) 0 ∈ es) ∧
      { u with core := s.core, dumps := s.dumps } = s)

/-! ## Launching (15 R335-R350; 07 R149, R150; 16 R363-R365) -/

/-- R335, R339-R350, R376: packets that a partition's job sends to an open queue are appended when they keep the limits and
the queue has fewer than 1,024, else a record REJECTED (FIRST the lowest bad part) or BUSY is to be released; requests reach
F1's mailbox, F1 takes the oldest and enters what it accepts in the journal, as it does its dispatch decisions, and records
take effect as they are acknowledged; a record whose copy F7's mailbox has no room for waits; a fire lands its payload, and its
journal record appends the armed packet; an error in F1's instruction memory halts F1 and F7 takes over from the acknowledged
records and what was reported, a later one in F7 stops dispatch. That a fire is FIRED as it lands and its packet comes with its
record (log entry 23), that the takeover keeps fires and releases of records as it keeps the ends F0 reported (log entry 24), and
that an error in F4's instruction memory keeps F4 from responding (log entry 67) are the model's choice. -/
def Obligations.Launching : Prop :=
  ∀ (part num level weight ring tag len va graph node f task : Nat) (msg : List (BitVec 8)) (again im : Bool) (nodes : List NodeMessage)
    (ns : List GraphNode) (nm : NodeMessage) (new : GraphNode) (members : List (Nat × Nat)) (hosts : List ((Nat × Nat) × Nat))
    (head payload : List (BitVec 8)) (p : Partition) (q : Queue) (a : ArmEntry) (fd : Fired) (e : JournalEvent) (t : Task) (s : State),
    let k := Packet.read msg
    let live := mapGet s.parts part = some p ∧ p.teardown = none
    let up := s.boot = .running ∧ s.bootStep = 7 ∧ live
    let good (n : Nat) : Prop := ∀ d, d ∈ k.parts → descOk n d = true
    let posts (i : Instr) (e : JournalEvent) : Prop :=
      exec i s = .next { s with fw := { s.fw with requests := s.fw.requests ++ [e] } }
    let whole (i : Instr) (first : Nat) (st : EndStatus) : Prop := posts i (.whole part q.ring k.cookie num first st)
    let appended (i : Instr) : Prop := ∃ u more, exec i s = .next u ∧
      u.queue? part num = some { q with packets := q.packets ++ [⟨s.packetNext, k, none, [], [], false, none⟩], kicked := true } ∧
      u.packetNext = s.packetNext + 1 ∧ u.fw.journal = s.fw.journal ++ more ∧
      { u with queues := s.queues, packetNext := s.packetNext, parts := s.parts, fw := s.fw } = s
    let enters (i : Instr) (e : JournalEvent) : Prop := ∃ u, exec i s = .next u ∧ Journals e s u ∧
      { u with fw := { u.fw with journal := s.fw.journal, owed := s.fw.owed } } = s
    let kept := (s.unacked ++ s.fw.owed).filter isReported
    let submits (i : Instr) (ok : Prop) : Prop := ok →
      (q.packets.length < 1024 → appended i) ∧ (1024 ≤ q.packets.length → whole i 0xFFFFFFFF .busy)
    let landsAt (i : Nat) : Option Nat := ((pageAt p.pages (a.bufVa + i)).bind fun g =>
      pageFrame p.req.groups g ((a.bufVa + i) / 65536 * 65536)).map fun f => f * 65536 + (a.bufVa + i) % 65536
    let taken : State := { s with fw := { s.fw with requests := s.fw.requests.tail } }
    (up → s.openQueue part num = some q →
      submits (.tasks part num msg) (tasksHeader k = true ∧ good p.ncores) ∧ submits (.replay part num msg) (replayHeader k = true) ∧
      (tasksHeader k = false → whole (.tasks part num msg) 0xFFFFFFFF .rejected) ∧
      (replayHeader k = false → whole (.replay part num msg) 0xFFFFFFFF .rejected) ∧
      (∀ i d, tasksHeader k = true → k.parts[i]? = some d → descOk p.ncores d = false →
        (∀ j c, j < i → k.parts[j]? = some c → descOk p.ncores c = true) → whole (.tasks part num msg) i .rejected)) ∧
    (up → posts (.queueCreate part num level weight ring) (.queueCreate part num level weight ring) ∧
      posts (.queueDestroy part num) (.queueDestroy part num) ∧ posts (.disarm part tag) (.disarm part tag) ∧
      posts (.arm part tag num msg len va again) (.arm ⟨0, part, tag, num, k, len, va, again, .armed, false⟩) ∧
      (nodesOf nodes = some ns → posts (.graphDefine part graph nodes) (.define part graph ns)) ∧
      (NodeMessage.node nm = some new → posts (.patch part graph node nm) (.patch part graph node new))) ∧
    (s.fw.requests.head? = some e → s.scheduling = true → s.unacked.length < 128 → s.fw.owed = [] →
      (s.accepts e = true → s.acceptStep = some (taken.journal e)) ∧ (s.accepts e = false → s.acceptStep = some taken)) ∧
    (live → (s.accepts (.queueCreate part num level weight ring) = true ↔
        s.queue? part num = none ∧ num < 64 ∧ level < 8 ∧ 1 ≤ weight ∧ weight ≤ 16) ∧
      (s.accepts (.define part graph ns) = true ↔
        graph < 256 ∧ ns.length ≤ 512 ∧ ∀ i n, ns[i]? = some n → nodeOk p.ncores i n = true) ∧
      (s.accepts (.arm ⟨0, part, tag, num, k, len, va, again, .armed, false⟩) = true ↔
        tasksHeader k = true ∧ k.nparts = 1 ∧ good p.ncores ∧ 64 ≤ len ∧ len ≤ 2 ^ 24 ∧ tag < 2 ^ 32 ∧
          ∀ y, y ∈ s.arms → y.part = part → y.tag ≠ tag) ∧
      (mapGet p.graphs graph = some ns →
        (s.accepts (.patch part graph node new) = true ↔ node < ns.length ∧ nodeOk p.ncores node new = true))) ∧
    (up → (s.arms.find? fun y => y.part == part && y.tag == fireTag head && y.state == .armed) = some a → head.length = 16 →
      payload.length ≤ a.bufLen → ∃ u, exec (.fire part head payload) s = .next u ∧
        u.queue? part a.queue = (s.queue? part a.queue).map (fun q => { q with kicked := true }) ∧
        u.arms = s.arms.map (fun y => if y.part = part ∧ y.id = a.id then { y with state := .fired } else y) ∧
        u.fw = { s.fw with requests := s.fw.requests ++ [.fire part a.queue (((s.queue? part a.queue).map Queue.ring).getD 0) a.pk
          ⟨a.tag, a.id, a.bufVa, payload.length⟩] } ∧
        (MemoryOk s → ∀ i x, i < payload.length → landsAt i = some x → (∀ j, i < j → j < payload.length → landsAt j ≠ some x) →
          memGet u.mem x = payload.getD i 0) ∧
        (∀ x, (∀ i, i < payload.length → landsAt i ≠ some x) → memGet u.mem x = memGet s.mem x) ∧
        { u with queues := s.queues, arms := s.arms, fw := s.fw, mem := s.mem, marks := s.marks, dies := s.dies, seq := s.seq
                 writeCtr := s.writeCtr, treeCtr := s.treeCtr, treeRoot := s.treeRoot, lineMac := s.lineMac
                 nodeMac := s.nodeMac } = s) ∧
    (∀ rest, s.unacked = e :: rest → s.scheduling = true → ∃ u more, exec .journalAck s = .next u ∧
      u = State.settleQueues (State.effect (State.enterOwed { s with fw := { s.fw with acked := s.fw.acked + 1 } }) e) ∧
      (∀ y, e = .queueCreate part num level weight y → s.queue? part num = none → live →
        num < 64 → level < 8 → 1 ≤ weight → weight ≤ 16 →
        u.queues = s.queues ++ [⟨part, num, level, weight, y, [], false, false⟩] ∧ u.fw.journal = s.fw.journal ++ more ∧
        { u with queues := s.queues, parts := s.parts, fw := s.fw } = s) ∧
      (e = .arm a → (∀ z, mapGet s.parts a.part = some z → z.teardown = none) → (∀ y, y ∈ s.arms → y.part = a.part → y.tag ≠ a.tag) → s.arms.length < 4096 → (s.openQueue a.part a.queue).isSome = true →
        s.bufferOk a.part a.bufVa a.bufLen = true → s.bufferTaken a = false → u.arms = s.arms ++ [{ a with id := s.packetNext }]) ∧
      (∀ pk y, e = .fire part num y pk fd → s.openQueue part num = some q → (∃ z, z ∈ s.arms ∧ z.part = part ∧ z.id = fd.id) →
        q.packets.length < 1024 → u.queue? part num =
        some { q with packets := q.packets ++ [⟨s.packetNext, pk, none, [], [], false, some fd⟩], kicked := true }) ∧
      (e = .define part graph ns → live →
        (mapGet u.parts part).map Partition.graphs = some (mapSet p.graphs graph ns)) ∧
      (∀ y cookie first st, e = .whole part y cookie num first st → mapGet s.parts part = some p →
        (mapGet u.parts part).map Partition.records = some (p.records ++ [(y, ⟨cookie, num, st, 0, 0, first, 0, 0, s.time⟩)]))) ∧
    (∀ b, s.winner part p = some b → b < 8 ∧ s.waitingAt part b ≠ [] ∧ ∀ c, c < 8 → s.waitingAt part c ≠ [] →
      effLevel c (p.level c).passed ≤ effLevel b (p.level b).passed ∧
        (effLevel c (p.level c).passed = effLevel b (p.level b).passed → c ≤ b)) ∧
    (s.round part = some e → enters (.dispatchRound part) e) ∧ (s.round part = none → exec (.dispatchRound part) s = .next s) ∧
    (∃ u, exec (.uncorrectableErrorReport f im) s = .next u ∧ u.fw.errors = s.fw.errors ++ [.firmware f im] ∧
      (u.fw.f1Halted = true ↔ s.fw.f1Halted = true ∨ f = 1 ∧ im = true ∧ s.fw.schedulerF7 = false) ∧
      (u.fw.stopped = true ↔ s.fw.stopped = true ∨ f = 7 ∧ s.fw.f1Halted = true) ∧
      (u.fw.f4Halted = true ↔ s.fw.f4Halted = true ∨ f = 4 ∧ im = true) ∧
      u.fw.journal = s.fw.journal ∧ u.fw.requests = s.fw.requests ∧ { u with fw := s.fw } = s) ∧
    (s.fw.f1Halted = true → s.fw.schedulerF7 = false → s.gangs.any s.gangWaits = false → ∃ u more, exec .takeover s = .next u ∧
      u.fw.schedulerF7 = true ∧ u.fw.acked = s.fw.acked ∧ u.fw.requests = s.fw.requests ∧
      (s.fw.acked ≤ s.fw.journal.length → u.fw.journal ++ u.fw.owed = s.fw.journal.take s.fw.acked ++ kept ++ more)) ∧
    (s.task? task = some t → t.ending = none → num < 256 → 2 ≤ members.length → members.length ≤ 4096 →
      (∀ m, m ∈ members → m.1 = Config.packageNumber → ∃ x, mapGet s.parts t.part = some x ∧ m.2 < x.ncores) →
      (∀ g, g ∈ t.groups → g.num ≠ num) → ∃ u, exec (.collectiveGroupCreate task num ⟨members, hosts⟩) s = .next u ∧
        u.task? task = some { t with groups := t.groups ++ [⟨num, members, hosts⟩] } ∧ { u with tasks := s.tasks } = s)

/-- R136, R149, R150, R336, R337, R363-R365, R385: a dispatched task starts when its image is translated: every crew core is
loaded with the registers of R136 and begins on a cycle of its own; a fault that F2 cannot mend, and an image that cannot be
read whole (the model's choice, log entry 52), end its part with IMAGE; CREW holds the crew size and the rank as R135 lays them out
(log entry 54). A task past its limit of package time ends with LIMIT at its lowest rank that has not ended. A pre-emption is posted to a cluster as a gang and withdrawn after 2 ms. A drained pre-empting `yield` is saved with
the vectors of its mask, tiles and Lantern state at their initial values, and comes back on its core with its registers, or
at REVOKED when its tokens are stale or their frames no longer pass the POT (R61). -/
def Obligations.Contexts : Prop :=
  ∀ (task cluster n ctx : Nat) (cnt : BitVec 12) (mask : BitVec 16) (t : Task) (p : Partition) (x : Saved) (s : State),
    let c := s.core
    let ends (i : Instr) (status : EndStatus) (rank : Nat) (pc : BitVec 32) : Prop := ∃ u, exec i s = .next u ∧
      (u.task? t.id).bind (·.ending) = some ⟨t.idx, status, 0, rank, pc⟩ ∧ Journals (.taskEnd t.id) s u ∧
      ∀ k, k ∈ u.cores → k.task = t.id → k.ctx = .ended
    let gang (c : Core) : Prop := clusterOf c.phys = cluster ∧ (c.ctx = .starting ∨ c.ctx = .running ∨ c.ctx = .frozen)
    (s.task? task = some t → t.ending = none → t.loaded = false → t.landed = none → mapGet s.parts t.part = some p →
      (∀ tok s1, s.sweeping t.part = false → s.fillFor t t.desc.imgVa t.desc.imgLen 1 = some (tok, s1) →
        let e := s1.entry tok.index.toNat
        let bad (x : LineState) : Option Nat := s.imageLine e t.desc.imgVa t.desc.imgLen x
        (bad .poisoned ≠ none → ends (.imageLoad task) .image 0 0) ∧
        (bad .poisoned = none → bad .badMac ≠ none → ends (.imageLoad task) .image 0 0) ∧
        (bad .poisoned = none → bad .badMac = none →
          ∃ u, exec (.imageLoad task) s = .next u ∧ (u.task? task).map Task.loaded = some true ∧
            ∀ r k, t.cores.Nodup → t.cores[r]? = some k → ∃ d, u.coreAt k = some d ∧ d.ctx = .starting ∧ d.task = t.id ∧
              d.pc = BitVec.ofNat 32 t.desc.entry ∧ d.rs 31 = BitVec.ofNat 64 t.desc.sbase ∧ (∀ q, q ≠ 31 → d.rs q = 0) ∧
              d.tvec = BitVec.ofNat 32 t.desc.tvec ∧ d.sbase = BitVec.ofNat 32 t.desc.sbase ∧
              d.slimit = BitVec.ofNat 32 t.desc.slimit ∧ d.crew = BitVec.ofNat 64 (t.cores.length * 2 ^ 16 + r) ∧
              d.vtopo = p.vtopo t.part (p.virt k) ∧ d.poolAt = s.poolBase t.part (p.virt k / 64) ∧ d.samplecfg = (mapGet p.sampling (p.virt k)).getD 0 ∧
              d.k = Vector.replicate 16 Token.zero ∧ d.v = Vector.replicate 16 (Vector.replicate 1024 0) ∧
              d.calendar = 0 ∧ d.vigil = 65520 ∧ d.tags = 0 ∧ d.tagrev = 0 ∧ d.waitcfg = 20 ∧ d.inh = false ∧ d.lan = Lantern.initial ∧
              d.tiles = Vector.replicate 8 (Vector.replicate 128 0) ∧ s.now < d.nextIssue ∧
              (s.imageBytes e t.desc.imgVa t.desc.imgLen).length = t.desc.imgLen ∧
              d.scr = memWrite (((s.coreAt k).map Core.scr).getD []) t.desc.load (s.imageBytes e t.desc.imgVa t.desc.imgLen))) ∧
      (∀ code at', s.xlatPlan t.part (BitVec.ofNat 64 t.desc.imgVa) (BitVec.ofNat 64 t.desc.imgLen) 1 = .fault code at' →
        code ≠ 6 → ends (.imageLoad task) .image 0 0)) ∧
    (∀ r first, s.task? task = some t → t.ending = none → t.startedAt = some first → t.desc.tlimit ≠ 0 →
      t.desc.tlimit * 1000 ≤ s.time - first → s.scheduling = true → r < t.cores.length → r ∉ t.ended → (∀ j, j < r → j ∈ t.ended) →
      ends (.tlimitExpiry task) .limit r (s.pcOf t (t.cores.getD r 0))) ∧
    ((∃ k, k ∈ s.cores ∧ gang k) → ∃ u, exec (.preemptionRequest cluster) s = .next u ∧
      (∀ (i : Nat) (k : Core), s.cores[i]? = some k → (gang k → u.cores[i]? = some { k with preempt := true }) ∧ (¬gang k → u.cores[i]? = some k)) ∧
      (u.cluster cluster).gangSince = some ((s.cluster cluster).gangSince.getD s.now) ∧
      (∀ j, j ≠ cluster → u.cluster j = s.cluster j) ∧ { u with core := s.core, others := s.others, clusters := s.clusters } = s) ∧
    (∀ since, (s.cluster cluster).gangSince = some since → since + 8000000 ≤ s.now → s.scheduling = true → s.gangWaits cluster = false →
      ∃ u, exec (.gangWithdraw cluster) s = .next u ∧ (u.cluster cluster).gangSince = none ∧
        ((∃ k, k ∈ s.cores ∧ gang k ∧ k.preempt = true) → s.saved = [] →
          u.cores = s.cores.map fun k => if clusterOf k.phys = cluster then { k with preempt := false } else k)) ∧
    (c.cur = some (.yield cnt mask) → c.waiting = .drain → c.ctx = .running → c.preempt = true → c.dump = false →
      c.drained = true → c.late = [] → c.reporting s.now = false → ∃ u y, exec .contextSave s = .next u ∧ u.saved = s.saved ++ [y] ∧
        y.id = s.seq ∧
        (y.core.phys, y.core.task, y.core.s, y.core.p, y.core.k, y.core.b, y.core.bc) = (c.phys, c.task, c.s, c.p, c.k, c.b, c.bc) ∧
        (∀ r : BitVec 4, y.core.rv r = if mask.getLsbD r.toNat then c.rv r else Vector.replicate 1024 0) ∧
        y.core.path = c.advance.path ∧ y.core.lan = Lantern.initial ∧ y.core.tiles = Vector.replicate 8 (Vector.replicate 128 0) ∧
        y.core.vigil = cnt.setWidth 16 <<< 4 ∧ y.core.fmtstat = c.fmtLate.foldl (fun m z => m ||| z.2) c.fmtstat ∧ y.core.fmtLate = [] ∧
        (y.core.calendar, y.core.tags, y.core.tagrev, y.core.curves, y.core.ctrsel, y.core.ctrval) =
          (c.calendar, c.tags, c.tagrev, c.curves, c.ctrsel, c.ctrval) ∧
        u.core.ctx = .idle ∧ (u.core.scr, u.core.wb, u.core.lanes) = (c.scr, c.wb, c.lanes) ∧
        (c.stopAt = none → u.fw = s.fw) ∧
        (∀ t, c.stopAt = some t → u.fw = { s.fw with telemetryFlags := s.fw.telemetryFlags ++ [.stopCancelled c.phys] }) ∧
        { u with core := s.core, saved := s.saved, seq := s.seq, fv := s.fv, clusters := s.clusters, fw := s.fw } = s) ∧
    (s.savedFor n ctx = some x → s.restoreHeld n x = false → x.core.phys = n → (s.cluster (clusterOf n)).owner = some x.core.partId →
      let topo := ((mapGet s.parts x.core.partId).map fun p => p.vtopo x.core.partId (p.virt n)).getD x.core.vtopo
      let m := State.restoreMask { s with core := { x.core with vtopo := topo } }
      (x.damaged = false → ∃ u q, exec (.contextRestore n ctx) s = .next u ∧ u.coreAt n = some q ∧ (∀ y, y ∈ u.saved → y.id ≠ ctx) ∧
        (q.s, q.v, q.p, q.k, q.b, q.bc, q.calendar, q.vigil, q.tags, q.vtopo) =
          (x.core.s, x.core.v, x.core.p, x.core.k, x.core.b, x.core.bc, x.core.calendar, x.core.vigil, x.core.tags, topo) ∧
        (q.scr, q.wb, q.lanes) = ((s.coreAt n).map fun k => (k.scr, k.wb, k.lanes)).getD ([], [], []) ∧
        q.poolAt = s.poolBase x.core.partId x.core.vdie ∧
        (m = 0 → x.core.revpend = false → q.ctx = .starting ∧ q.path = x.core.path ∧ s.now < q.nextIssue) ∧
        (m ≠ 0 ∨ x.core.revpend = true → x.core.inh = false → x.core.tvec ≠ 0 →
          q.trapCause = 7 ∧ q.trapVal = m ∧ q.trapPc = x.core.pc &&& ~~~3 ∧ q.pc = x.core.tvec ∧ q.inh = true ∧ q.revpend = false)) ∧
      (x.damaged = true → s.task? x.core.task = some t → t.ending = none → ends (.contextRestore n ctx) .fault x.core.rank x.core.pc ∧
        ∃ u, exec (.contextRestore n ctx) s = .next u ∧ u.fw.errors = s.fw.errors ++ [.restore x.core.task]))

/-! ## Revocation, tiers, grants (03 R59-R63; 06 R132; 17 R368; 18 R382) -/

/-- R59-R63, R82, R132, R368, R382, R387: a sweep marks its entry REVOKING under its next generation and sends every core an
invalidate; a core drops its cache lines of the entry, ends its wait on it as revoked, and acknowledges once nothing of it
uses the entry, or after 10 ms aborts what does; the entry is FREE when every core has acknowledged, and one that ran out
of generations waits for new seal keys. Pages move only unpinned and out of frames that are the partition's: a move of a pinned one
waits for the sweeps of what pins it (R59), and one whose flash block or whose frame fails its MAC is mapped no more and is logged;
frames are lent out of free ones and come back zeroed; frames whose ownership changes are in TRANSITION first, all of a mapped 2 MiB
page together (R34). The model's choices here: an abort discards a held launch too (log entry 37); lent frames are the firmware's
(log entry 26), clear where no SPDM session hands over a key; the numbering of the channel groups and which group's frame is next
(log entry 49); a page with a poisoned line or one that fails its MAC as it moves (log entry 52); the firmware's own frames are in
the integrity mode (log entry 62). -/
def Obligations.Revocation : Prop :=
  ∀ (n index part page pkg lo count frame due since : Nat) (dest : PagePlace) (world : World) (owner : FrameOwner) (mode : ProtMode)
    (p : Partition) (g : PageMap) (gr : Grant) (q : Core) (a : Access) (s : State),
    let e := s.entry index
    let mine (g : Grant) : Prop := g.pkg = pkg ∧ g.lo = lo ∧ g.count = count ∧ g.reclaim = none
    let entryOnly (u : State) : Prop := ∀ i, i ≠ index → u.entry i = s.entry i
    let closes (i : Instr) : Prop := ∃ u, exec i s = .next u ∧ u.grants = s.grants.erase gr ∧
      (∀ f, gr.lo ≤ f → f < gr.lo + gr.count → u.potOf f = freshPot) ∧
      (∀ f, f < gr.lo ∨ gr.lo + gr.count ≤ f → u.potOf f = s.potOf f) ∧
      (MemoryOk s → ∀ x, gr.lo * 65536 ≤ x → x < (gr.lo + gr.count) * 65536 → markOf s.marks x ≠ none → memGet u.mem x = 0) ∧
      (∀ x, x < gr.lo * 65536 ∨ (gr.lo + gr.count) * 65536 ≤ x → memGet u.mem x = memGet s.mem x) ∧
      { u with grants := s.grants, pot := s.pot, mem := s.mem, marks := s.marks, dies := s.dies, seq := s.seq
               writeCtr := s.writeCtr, treeCtr := s.treeCtr, treeRoot := s.treeRoot, lineMac := s.lineMac, nodeMac := s.nodeMac } = s
    (e.state = .active → ∃ u, exec (.jubileeSweep index) s = .next u ∧ (u.entry index).state = .revoking ∧
      (u.entry index).gen = (if e.gen = 0xFFF then 1 else e.gen + 1) ∧ (e.gen = 0xFFF → (u.entry index).quarantined = true) ∧
      (u.entry index).owner = e.owner ∧ (u.entry index).frames = e.frames ∧ entryOnly u ∧
      (∀ (i : Nat) (k : Core), s.cores[i]? = some k → ∃ d, s.now < d ∧
        u.cores[i]? = some { k with sweeps := k.sweeps ++ [(index, d, s.now)] }) ∧
      { u with core := s.core, others := s.others, almanac := s.almanac, releases := s.releases, fv := s.fv } = s) ∧
    (e.state ≠ .active → exec (.jubileeSweep index) s = .next s) ∧
    (s.coreAt n = some q → q.sweepOf index = some (index, due, since) → due ≠ 0 → due ≤ s.now →
      let dropped (c : Core) : Core := { c with
        tfc := c.tfc.filter fun x => x.index ≠ index
        sweeps := c.sweeps.map fun y => if y.1 = index then (index, 0, y.2.2) else y }
      ((∀ id y, q.waiting = .waita id none → q.access? id = some y → y.index ≠ some index) →
        ∃ u, exec (.tokenInvalidate n index) s = .next u ∧ OnlyCore n dropped s u) ∧
      (q.waiting = .waita a.id none → q.access? a.id = some a → a.index = some index →
        ∃ u, exec (.tokenInvalidate n index) s = .next u ∧
          u.coreAt n = some { dropped q with
            acc := q.acc.filter fun y => y.id ≠ a.id, waiting := .waita a.id (some ⟨0, true, 2, setterFirmware⟩), revpend := true } ∧
          u.waitersAt (a.point q.phys) = (s.waitersAt (a.point q.phys)).filter fun w => !(w.core == n && w.acc == a.id))) ∧
    (s.coreAt n = some q → q.sweepOf index = some (index, 0, since) →
      (q.usesIndex index = false → ∃ u, exec (.sweepAck n index) s = .next u ∧ (u.entry index).acks = e.acks ++ [n] ∧ entryOnly u ∧
        OnlyCore n (fun c => { c with sweeps := c.sweeps.filter fun y => y.1 ≠ index }) { s with almanac := u.almanac } u) ∧
      (q.usesIndex index = true → exec (.sweepAck n index) s = .next s) ∧
      (since + 40000000 ≤ s.now → ∃ u d, exec (.sweepAbort n index) s = .next u ∧ OnlyCore n (fun _ => d) { s with tasks := u.tasks } u ∧
        ((∀ h, q.copy.held = some h → index ∉ launchPins h.kind) → u.tasks = s.tasks) ∧
        (∀ h t kd op dt gn ct sr ds, q.copy.held = some h → h.kind = .coll kd op dt gn ct sr ds → index ∈ launchPins h.kind →
          s.task? q.task = some t → u.task? q.task = some { t with
            colls := t.colls ++ [⟨gn, (t.colls.filter fun r => r.group = gn && r.core = n).length, n, false, 0, []⟩] }) ∧
        d = ((q.pinHolders index).foldl (fun k m => k.abortCmd m (s.membersOf m.launch.kind) s.now) q).abortHeld index ∧
        (∀ h, q.copy.held = some h → index ∈ launchPins h.kind → q.pinHolders index = [] → d.copy.held = none ∧
          d.tags = q.tags ||| 1#64 <<< (h.tag % 64) ∧ d.tagrev = q.tagrev ||| 1#64 <<< (h.tag % 64)))) ∧
    (e.state = .revoking → (∀ k, k ∈ s.cores → ∀ y, y ∈ k.sweeps → y.1 ≠ index) → ∃ u, exec (.sweepFree index) s = .next u ∧
      u.entry index = { e with state := .free, frames := [], acks := [] } ∧ entryOnly u ∧ { u with almanac := s.almanac } = s) ∧
    (e.quarantined = true → e.state = .free → (∀ t, t ∈ s.tasks → e.made ≤ t.id) → ∃ u, exec (.sealKeyRotation index) s = .next u ∧
      (u.entry index).state = .free ∧ (u.entry index).gen = 1 ∧ (u.entry index).quarantined = false ∧ entryOnly u ∧
      (∀ i x, i ∈ e.owners → mapGet s.parts i = some x → ∃ k, s.keyNext ≤ k ∧ k < u.keyNext ∧
        mapGet u.parts i = some { x with sealKey := k }) ∧
      (∀ i, i ∉ e.owners → mapGet u.parts i = mapGet s.parts i) ∧
      { u with almanac := s.almanac, parts := s.parts, keyNext := s.keyNext } = s) ∧
    (mapGet s.parts part = some p → pageAt p.pages page = some g →
      let fs := p.req.groups
      let v := (s.readPage fs g).fillPlace part p dest (pageUnits g) g.mode (s.placeBytes p g.place (pageUnits g))
      let gone : Option (List PageMap) := some (p.pages.filter fun x => !(x.page == g.page && x.gran == g.gran))
      (s.pinned part g = true → s.placeOk part p g dest = true → (part, page, dest) ∉ s.moves →
        exec (.pageMove part page dest) s = .next { s with
          moves := s.moves ++ [(part, page, dest)]
          releases := s.releases ++ (((s.pinsPage part g).map (·.1)).filter fun i => (s.entry i).state == .active && !s.released i).map
            fun i => (i, (s.entry i).gen.toNat) }) ∧
      (s.placeOk part p g dest = false → exec (.pageMove part page dest) s = .next s) ∧
      (s.pinned part g = false → s.pageOwned part fs g = false → exec (.pageMove part page dest) s = .next s) ∧
      (s.pinned part g = false → s.placeOk part p g dest = true → s.pageOwned part fs g = true →
        (pageBad p g = true → ∃ u, exec (.pageMove part page dest) s = .next u ∧ (mapGet u.parts part).map Partition.pages = gone ∧
          u.trust.secLog = s.trust.secLog ++ [⟨part, none, 0, false, s.time, none, 0⟩] ∧ { u with parts := s.parts, trust := s.trust } = s) ∧
        (pageBad p g = false → s.pageLine fs g .poisoned ≠ none → exec (.pageMove part page dest) s = .next s) ∧
        (∀ l, pageBad p g = false → s.pageLine fs g .poisoned = none → s.pageLine fs g .badMac = some l →
          ∃ u, exec (.pageMove part page dest) s = .next u ∧ (mapGet u.parts part).map Partition.pages = gone ∧
            (u.potOf (l / 512)).transition = true ∧
            u.trust.secLog = s.trust.secLog ++ [⟨part, some (l / 512), l % 512, s.nodeFails l, s.time, none, 0⟩]) ∧
        (pageBad p g = false → s.pageLine fs g .poisoned = none → s.pageLine fs g .badMac = none →
          ∃ u, exec (.pageMove part page dest) s = .next u ∧
            (mapGet u.parts part).map Partition.pages =
              some (p.pages.map fun x => if x.page = g.page ∧ x.gran = g.gran then { x with place := dest } else x) ∧
            (∀ b, dest = .flash b → g.mode = .integrity →
              ((mapGet u.parts part).bind fun x => mapGet x.versions (pageAddr g)) = some ((mapGet p.versions (pageAddr g)).getD 0 + 1)) ∧
            (u.mem, u.lentMem, u.dies, u.fw) = (v.mem, v.lentMem, v.dies, v.fw) ∧
            (mapGet u.parts part).map Partition.flash = (mapGet v.parts part).map Partition.flash ∧
            (∀ f, dest = .main f → ∀ i, i < pageUnits g → (u.potOf (nthFrame fs f i)).mode = g.mode) ∧
            { u with parts := s.parts, mem := s.mem, lentMem := s.lentMem, marks := s.marks, dies := s.dies, seq := s.seq, pot := s.pot
                     writeCtr := s.writeCtr, treeCtr := s.treeCtr, treeRoot := s.treeRoot, lineMac := s.lineMac
                     nodeMac := s.nodeMac, fw := s.fw } = s))) ∧
    (s.serves = false → exec (.grantOpen pkg lo count) s = .next s) ∧
    (s.serves = true → 0 < count → 2 ≤ channelGroup lo → (lo + count) * 65536 ≤ Config.mainMemoryEnd →
      (∀ f, lo ≤ f → f < lo + count → (s.potOf f).owner = .free ∧ (s.potOf f).transition = false) →
      ∃ u, exec (.grantOpen pkg lo count) s = .next u ∧
        (s.sessionWith pkg = true → u.grants = s.grants ++ [⟨pkg, lo, count, none, some s.keyNext⟩] ∧ u.keyNext = s.keyNext + 1 ∧
          ∀ f, lo ≤ f → f < lo + count → u.potOf f = ⟨.secure, .firmware, .encrypted, false⟩) ∧
        (s.sessionWith pkg = false → u.grants = s.grants ++ [⟨pkg, lo, count, none, none⟩] ∧ u.keyNext = s.keyNext ∧
          ∀ f, lo ≤ f → f < lo + count → u.potOf f = ⟨.secure, .firmware, .clear, false⟩) ∧
        (∀ f, f < lo ∨ lo + count ≤ f → u.potOf f = s.potOf f) ∧
        { u with grants := s.grants, pot := s.pot, keyNext := s.keyNext } = s) ∧
    (((∃ g, g ∈ s.grants ∧ mine g) → ∃ u, exec (.lenderReclaim pkg lo count) s = .next u ∧
        (∀ (i : Nat) (g : Grant), s.grants[i]? = some g → (mine g → u.grants[i]? = some { g with reclaim := some s.now }) ∧
          (¬mine g → u.grants[i]? = some g)) ∧ { u with grants := s.grants } = s) ∧
      ((∀ g, g ∈ s.grants → ¬mine g) → (∃ x, x ∈ s.parts ∧ pagesLent x.2 pkg lo count ≠ []) →
        ∃ u, exec (.lenderReclaim pkg lo count) s = .next u ∧ u.borrowed = s.borrowed ++ [⟨pkg, lo, count, some s.now, none⟩] ∧
          u.releases = s.releases ++ ((s.borrowedEntries pkg lo count).filter fun i =>
            (s.entry i).state == .active && !s.released i).map (fun i => (i, (s.entry i).gen.toNat)) ∧
          { u with borrowed := s.borrowed, releases := s.releases } = s)) ∧
    ((s.grants.find? fun g => g.pkg == pkg && g.lo == lo && g.count == count && g.reclaim.isSome) = some gr →
      closes (.reclaimCompletion pkg lo count)) ∧
    ((s.grants.find? fun g => g.pkg == pkg && g.lo == lo && g.count == count
        && (g.reclaim.map fun t => decide (t + 400000000 ≤ s.now)).getD false) = some gr → closes (.grantClose pkg lo count)) ∧
    ((s.potOf frame).transition = true ∨ (s.potOf frame).owner = .firmware ∨ channelGroup frame < 2 ∨
        (∃ k x, owner = .part k ∧ mapGet s.parts k = some x ∧
          (x.teardown ≠ none ∨ (s.potOf frame).owner ≠ .part k ∧ channelGroup frame ≠ s.nextGroup k x)) ∨
        (∃ k, (s.potOf frame).owner = .part k ∧ owner ≠ .part k ∧ s.framesLeft k < 65600 + (s.potFrames frame).length) →
      exec (.potChange frame world owner mode) s = .next s) ∧
    (s.potOk (s.potFrames frame) owner = true → ∃ u more, exec (.potChange frame world owner mode) s = .next u ∧
      frame ∈ s.potFrames frame ∧ (∀ f, f ∈ s.potFrames frame → u.potOf f = { s.potOf f with transition := true }) ∧
      (∀ f, f ∉ s.potFrames frame → u.potOf f = s.potOf f) ∧
      u.potWork = s.potWork ++ (s.potFrames frame).map (fun f => (f, ⟨world, owner, mode, false⟩)) ∧ u.releases = s.releases ++ more ∧
      (∀ i, i ∈ s.pinsFrames (s.potFrames frame) → (s.entry i).state = .active → (i, (s.entry i).gen.toNat) ∈ u.releases) ∧
      { u with pot := s.pot, potWork := s.potWork, releases := s.releases } = s)

/-! ## The fabric (06 R127, R128; 17 R366-R379) -/

/-- R127, R128, R366-R371, R374, R375, R379: each direction of a port goes through training, keying and UP; a receiver takes the
flit it expects under its counter and goes DOWN at the third tag failure in a row or a rekey of 1 ms; a request from another
package is answered once from its slice, with its kept reply when it comes again, with poison outside every grant, and none comes without a port
that is UP; a reply leaves on the port its line hashes to; a request of this package that has had no port for 50 ms is lost; switches hold job
keys while attested, and a lost key fails the collectives that run over it in the network; package time runs from its lock. The
model's choices here: what a flit carries for the link and what takes one, the buffers and the port hash (log entry 25); policies and
attestation of switches (log entry 26); a poisoned reply is not kept (log entry 55); the END and SETTER of a lost `waita` (log entry
12); and package time is slewed by -1, 0 or 1 ns (log entry 28). -/
def Obligations.Fabric : Prop :=
  ∀ (port part sw pkg dest seq n id domain time key ctr m model peer since : Nat) (dir : LinkDir) (fs : BitVec 16) (ok : Bool)
    (note : Option LinkNote) (op : UetOptions) (r : RemoteRequest) (e : FilterEntry) (q : Core) (a : Access) (x : Port) (w : Switch)
    (p : Partition) (s : State),
    let becomes (i : Instr) (y : Port) : Prop := ∃ u, exec i s = .next u ∧ u.ports[port]? = some y ∧
      (∀ j, j ≠ port → u.ports[j]? = s.ports[j]?) ∧ { u with ports := s.ports } = s
    let l := x.link dir
    let dropped : Port := { x with
      tx := { x.tx with state := .down, rekeySince := none }, rx := { x.rx with state := .down, rekeySince := none }
      downSince := if x.tx.state = .up ∧ x.rx.state = .up then s.now else x.downSince, session := 0, failures := 0, retryFrom := none }
    let keyed (k : Nat) : Port := match dir with
      | .tx => { x with
          tx := { x.tx with state := .up, rekey := k, ctr := x.retry.length, rekeySince := none }
          retry := x.retry.zipIdx.map (fun y => (y.1.1, y.2)) }
      | .rx => { x with rx := { x.rx with state := .up, rekey := k, ctr := 0, rekeySince := none }, retryFrom := none }
    let flit (intact : Bool) : Instr := .flitReceive port fs ⟨key, ctr⟩ intact note
    let got : Port := { x with
      rx := { x.rx with ctr := x.rx.ctr + 1, seq := x.rx.seq + 1 }, delivered := x.delivered ++ [x.rx.seq], failures := 0
      retryFrom := none }
    let back := (x.rx.seq - fs).toNat
    let answers (y : Reply) : Prop := exec (.remoteRequestArrival r) s = .next { s with outbox := s.outbox ++ [(r.addr, y)] }
    let reads : Prop := (∀ v, r.op ≠ .store v) ∧ ∀ v, r.op ≠ .withdraw v
    let old := s.wordAt (remotePoint r) r.addr r.size
    let full := s.tableFull (remotePoint r) r.addr
    let counted := s.countCorrected .main r.addr r.size
    let kept (y : Reply) (base u : State) : Prop := u.outbox = s.outbox ++ [(r.addr, y)] ∧
      u.filter = s.filter ++ [⟨sliceOf r, r.pkg, r.port, r.seq, y⟩] ∧ { u with outbox := base.outbox, filter := base.filter } = base
    let mine (y : Access) : Prop := y.space = .lent dest ∧ (y.port = some (port, seq) ∨ y.port2 = some (port, seq))
    let late (y : Access) : Access :=
      if y.space = .lent dest ∧ (y.port = some (port, seq) ∨ y.port2 = some (port, seq)) then { y with due := max y.due s.dueCycle } else y
    let fails (y : Cmd) : Cmd := if y.shift = 0 ∧ s.runsOver s.core y sw then { y with null := true } else y
    let hit (v : Nat) (y : RemoteRequest) : Bool :=
      y.pkg == r.pkg && y.port == r.port && y.seq == v && remotePoint y == remotePoint r
    let known : Prop := s.carries r.pkg = true ∧ s.granted r = true ∧ s.cached r = none ∧ s.filterFull r = false
    (s.ports[port]? = some x →
      (l.state = .down → s.boot = .running → becomes (.axtosTrainingStart ⟨port, dir⟩) (x.setLink dir { l with state := .training })) ∧
      (l.state = .training → becomes (.axtosTrainingDone ⟨port, dir⟩ ok) (x.setLink dir { l with state := if ok then .keying else .down })) ∧
      (x.tx.state = .keying ∨ x.rx.state = .keying →
        becomes (.spdmSession (.port port) ok m) (if ok then { x with session := 1 } else dropped)) ∧
      (l.state = .keying → x.session ≠ 0 → becomes (.axtosKeysInstalled ⟨port, dir⟩) { keyed 0 with failures := 0 }) ∧
      (x.rx.state = .up → x.rx.rekeySince = none →
        becomes (flit false) { x with retryFrom := some x.rx.seq } ∧
        (fs = x.rx.seq → key = x.rx.rekey → ctr = x.rx.ctr →
          (note = none → becomes (flit true) got) ∧
          (∀ y, note = some (.ack y) → becomes (flit true) { got with
            retry := x.retry.filter fun z => !decide ((y - z.1).toNat < 32768) }) ∧
          (note = some .rekey → becomes (flit true) { got with
            tx := { x.tx with rekeySince := some (x.tx.rekeySince.getD s.now) } })) ∧
        (fs = x.rx.seq → key ≠ x.rx.rekey ∨ ctr ≠ x.rx.ctr → becomes (flit true) (if x.failures = 2 then dropped
          else { x with failures := x.failures + 1, rx := { x.rx with rekeySince := some s.now } })) ∧
        (1 ≤ back → back ≤ 512 → becomes (flit true) x) ∧ (512 < back → becomes (flit true) { x with retryFrom := some x.rx.seq })) ∧
      becomes (.linkRetry port fs) { x with retry := x.retry.dropWhile fun y => y.1 ≠ fs } ∧
      (l.rekeySince = some since → since + 4000000 ≤ s.now → becomes (.rekeyTimeout ⟨port, dir⟩) dropped) ∧
      (l.state = .up → l.rekeySince ≠ none → becomes (.rekeyComplete ⟨port, dir⟩) (keyed (l.rekey + 1))) ∧
      (∀ y, (mapGet x.acked dest).getD 0 ≤ y → y < (mapGet x.nextSeq dest).getD 0 → y < (mapGet x.acked dest).getD 0 + 65535 →
        y % 65536 = seq % 65536 → becomes (.cumulativeAcknowledgement Config.packageNumber port dest seq)
          { x with acked := mapSet x.acked dest (y + 1) }) ∧
      (s.flitRoom port = true → (∃ c y, c ∈ s.cores ∧ y ∈ c.acc ∧ mine y) → ∃ u, exec (.remoteRetransmit port dest seq) s = .next u ∧
        s.now < s.dueCycle ∧ u.cores = s.cores.map (fun c => { c with acc := c.acc.map late }) ∧ u.ports[port]? = some { x with
          tx := { x.tx with seq := x.tx.seq + 1, ctr := x.tx.ctr + 1 }, retry := x.retry ++ [(x.tx.seq, x.tx.ctr)] } ∧
        { u with core := s.core, others := s.others, fv := s.fv, ports := s.ports } = s)) ∧
    (s.carries r.pkg = false → exec (.remoteRequestArrival r) s = .next s) ∧
    (s.carries r.pkg = true → s.granted r = false → (reads → answers (.poison r.pkg r.port r.seq)) ∧
      (¬reads → exec (.remoteRequestArrival r) s = .next s)) ∧
    (s.carries r.pkg = true → s.granted r = true → s.cached r = some e → answers e.reply) ∧
    (s.carries r.pkg = true → s.granted r = true → s.cached r = none → s.filterFull r = true → answers (.busy r.pkg r.port r.seq)) ∧
    (known → s.poisonIn .main r.addr r.size = true → reads → answers (.poison r.pkg r.port r.seq)) ∧
    (known → s.poisonIn .main r.addr r.size = false ∨ ¬reads → ∃ u, exec (.remoteRequestArrival r) s = .next u ∧
      (r.op = .load → kept (.data r.pkg r.port r.seq old) counted u) ∧
      (∀ v, r.op = .store v → kept (.ack r.pkg r.port r.seq) (counted.remoteWrite r v) u) ∧
      (∀ o t v d, r.op = .atomic o t v d → o ≠ 11 ∨ amoCrosses r.size old (amoNew o r.size old t v) t = false →
        kept (if d then .ack r.pkg r.port r.seq else .data r.pkg r.port r.seq old)
        (if amoWrites o old t then counted.remoteWrite r (amoNew o r.size old t v) else counted) u) ∧
      (∀ v, r.op = .register v → signed (8 * r.size) v ≤ signed (8 * r.size) old →
        kept (.waited r.pkg r.port r.seq old true) counted u) ∧
      (∀ v, r.op = .register v → signed (8 * r.size) old < signed (8 * r.size) v →
        (full = true → kept (.waited r.pkg r.port r.seq old false) counted u) ∧
        (full = false → kept (.ack r.pkg r.port r.seq) { counted with remoteWaits := s.remoteWaits ++ [r] } u)) ∧
      (∀ v, r.op = .withdraw v → (s.remoteWaits.any (hit v) = false → kept (.ack r.pkg r.port r.seq) counted u) ∧
        (s.remoteWaits.any (hit v) = true → u.remoteWaits = s.remoteWaits.filter (fun y => !hit v y) ∧
          u.outbox = s.outbox ++ [(r.addr, .waited r.pkg r.port v old false), (r.addr, .ack r.pkg r.port r.seq)] ∧
          u.filter = s.filter ++ [⟨sliceOf r, r.pkg, r.port, r.seq, .ack r.pkg r.port r.seq⟩] ∧
          { u with remoteWaits := s.remoteWaits, outbox := s.outbox, filter := s.filter } = counted))) ∧
    (∀ u, s.replyStep = some u → ∃ y k, y ∈ s.outbox ∧ s.portFor (Reply.pkg y.2) y.1 = some k ∧ s.flitRoom k = true ∧
      u.replies = s.replies ++ [y.2] ∧ u.outbox = s.outbox.erase y ∧
      { u with ports := s.ports, replies := s.replies, outbox := s.outbox } = s) ∧
    (pkg ≠ Config.packageNumber → exec (.cumulativeAcknowledgement pkg port dest seq) s = .next { s with
      filter := s.filter.filter fun y => !(y.pkg == pkg && y.port == port &&
        decide ((seq % 65536 + 65536 - y.seq % 65536) % 65536 < 32768)) }) ∧
    (s.coreAt n = some q → q.access? id = some a → a.lent = true → a.crossing = false → a.port = some (port, seq) →
      s.ports[port]? = some x → x.tx.state ≠ .up ∨ x.rx.state ≠ .up → x.downSince + 200000000 ≤ s.now →
      s.requestLost a = true ∧ ∃ u, exec (.remoteRequestLost n id) s = .next u ∧ u.fw.failures = s.fw.failures ++ [seq]) ∧
    (s.coreAt n = some q → q.access? id = some a → s.requestLost a = false → exec (.remoteRequestLost n id) s = .next s) ∧
    (s.coreAt n = some q → q.access? id = some a → s.requestLost a = true → (∀ d v z, a.kind ≠ .atomic 11 d v z) →
      ∃ u, exec (.remoteRequestLost n id) s = .next u ∧
        u.coreAt n = some (q.lose a s.now) ∧ (∀ k, k ≠ n → u.coreAt k = s.coreAt k) ∧
        (q.lose a s.now).acc = q.acc.filter (fun y => y.id ≠ id) ∧
        (∀ g sx, a.kind = .load (.s g) sx → 0 < g → a.isToken = true → (q.lose a s.now).s = q.s ∧
          (Reg.s g, (⟨s.now, false, 4, BitVec.ofNat 5 g, BitVec.ofNat 56 a.va, a.line⟩ : PoisonReport)) ∈ (q.lose a s.now).marks) ∧
        (∀ d v, a.kind = .waita d v → q.waiting = .waita id none →
          (q.lose a s.now).waiting = .waita id (some ⟨0, false, 0, setterNone⟩)) ∧
        (a.kind = .store → ∃ y, y ∈ (q.lose a s.now).owed ∧ y.src = 6)) ∧
    (s.switch? sw = some w →
      let measured : Switch := { w with model := model, measurement := m, attestedAt := some s.now }
      (∃ u, exec (.spdmSession (.switch sw model) true m) s = .next u ∧
        u.switch? sw = some { measured with keys := w.keys.filter (s.acceptsSwitch measured) } ∧
        { u with switches := s.switches, core := s.core, others := s.others } = s) ∧
      (∃ u, exec (.spdmSession (.switch sw model) false m) s = .next u ∧ u.switch? sw = some { w with attestedAt := none, keys := [] }) ∧
      (mapGet s.parts part = some p → p.jobKey ≠ none → (w.model, w.measurement) ∈ p.req.policy → part ∉ w.keys →
        (∃ t, w.attestedAt = some t ∧ s.now ≤ t + 24 * 3600 * 4000000000) → ∃ u, exec (.jobKeyGrant part sw) s = .next u ∧
          u.switch? sw = some { w with keys := w.keys ++ [part] } ∧ { u with switches := s.switches } = s) ∧
      (part ∈ w.keys → ∃ u, exec (.jobKeyWithdraw part ⟨sw, false⟩) s = .next u ∧
        u.switch? sw = some { w with keys := w.keys.filter fun k => k ≠ part } ∧
        (s.core.partId = part → u.core = { s.core with copy := { s.core.copy with running := s.core.copy.running.map fails } }) ∧
        (s.core.partId ≠ part → u.core = s.core) ∧ { u with switches := s.switches, core := s.core, others := s.others } = s) ∧
      (∃ u, exec (.jobKeyWithdraw part ⟨sw, true⟩) s = .next u ∧ u.switch? sw = some { w with attestedAt := none, keys := [] } ∧
        { u with switches := s.switches, core := s.core, others := s.others } = s)) ∧
    (s.boot = .running → s.bootStep = 7 → peer ∉ s.uet → op.unordered = true ∨ op.ordered = true → op.unreliable = false →
      op.idempotent = false → op.other = false → op.remoteAccess = false → op.encrypted = true → op.receiverCredit = false →
      op.mtu ≤ 4096 → op.messageBytes ≤ 2 ^ 24 → op.inFlight ≤ 4096 →
      exec (.uetConnectionSetup peer op) s = .next { s with uet := s.uet ++ [peer] }) ∧
    (op.encrypted = false ∨ op.unreliable = true ∨ op.idempotent = true ∨ op.other = true ∨ op.remoteAccess = true ∨
        op.receiverCredit = true ∨ 4096 < op.mtu → exec (.uetConnectionSetup peer op) s = .next s) ∧
    (s.ptp.locked = false → s.boot = .running → domain = s.ptp.domain → ∃ u, exec (.ptpLock ⟨domain, time⟩) s = .next u ∧
      u.time = time ∧ u.ptp.locked = true ∧ u.ptp.holdover = false ∧ u.ptp.domain = domain ∧
      u.bootStep = (if s.bootStep = 6 then 7 else s.bootStep) ∧ { u with ptp := s.ptp, bootStep := s.bootStep } = s) ∧
    (∃ d : Int, -1 ≤ d ∧ d ≤ 1 ∧ s.slew.ptp.base = s.ptp.base + d ∧
      (s.ptp.locked = false ∨ s.ptp.holdover = true ∨ s.now % 40000 ≠ 0 → s.slew = s)) ∧
    exec .ptpSourceLoss s = .next { s with
      ptp := { s.ptp with holdover := true }, fw := { s.fw with telemetryFlags := s.fw.telemetryFlags ++ [.holdover] } } ∧
    exec .ptpSourceRegained s = .next { s with ptp := { s.ptp with holdover := false } }

/-! ## Partitions, ownership, the module (03 R431; 18 R388-R391; 21 R426-R430) -/

/-- R29, R33, R383, R388-R390, R426-R431: a partition is created within the limits with keys of its own, its die-pool allotments
and its frames round-robin over its groups; a teardown ends its
tasks, armed entries and contexts under its nonce and journals the end of its queues, its receipt is signed at its last step,
and what a failed step was to free stays with firmware; images are staged when they pass their checks; ownership is
transferred and enrolled once per nonce, and only to the key named; dispatch stops at 100 °C until every die reads 95 °C or
less, and power goes at 110 °C; a reset keeps what R428 says and nothing else, and brings the chosen image up, or recovery; an
unsigned request, or any in recovery, resets nothing. The model's choices here: what failed steps leave is one list (log entry 27);
the steps of bring-up up to the wait for 1588 are one event, and which ports fail in one that no message asks for is free (log
entry 28); the numbering of channel groups (log entry 49); all Almanac entries may be given out (log entry 56); what makes F4 not
respond (log entry 67); and a die keeps its reading through a reset (log entry 62). -/
def Obligations.ModuleLife : Prop :=
  ∀ (req : PartitionRequest) (part die celsius : Nat) (cs : List Nat) (nonce : BitVec 64) (img : FirmwareImage) (own : OwnerRequest)
    (env : BootEnv) (p : Partition) (s : State),
    let passes (i : FirmwareImage) : Prop := i.makerOk = true ∧ i.ownerKey ≠ none ∧ i.ownerKey = s.trust.ownerKey ∧
      s.trust.minVersion ≤ i.version
    let wiped (u : State) : Prop := u.parts = [] ∧ u.tasks = [] ∧ u.queues = [] ∧ u.mem = [] ∧ u.almanac = [] ∧ u.others = [] ∧
      u.saved = [] ∧ u.grants = [] ∧ u.pools = [] ∧ u.ptp.locked = false ∧ (∀ f, u.potOf f = freshPot) ∧
      (u.trust.ownership, u.trust.ownerKey, u.trust.nonces, u.trust.receiptSerial, u.trust.receipts, u.trust.secLog) =
        (s.trust.ownership, s.trust.ownerKey, [], s.trust.receiptSerial, [], s.trust.secLog)
    let starts (i : FirmwareImage) (bad : List Nat) (u : State) : Prop := wiped u ∧ u.boot = .running ∧ u.bootStep = 6 ∧
      u.trust.running = some i ∧ u.trust.staged = none ∧ u.trust.minVersion = max s.trust.minVersion i.version ∧
      (∀ k, k ∈ u.keyStores.toList → k.parts = [] ∧ s.keyNext ≤ k.firmware ∧ k.firmware < u.keyNext) ∧
      (u.fw.thermalStop = true ↔ ∃ d, d < 4 ∧ 100 ≤ (s.die d).celsius) ∧
      (∀ k x, u.ports[k]? = some x → (x.tx.state = .down ↔ k ∈ bad) ∧ (x.rx.state = .down ↔ k ∈ bad) ∧
        (k ∉ bad → x.tx.state = .up ∧ x.rx.state = .up))
    let comesUp (i : Instr) (bad : List Nat) : Prop :=
      (∀ g, s.trust.staged = some g → passes g → ∃ u, exec i s = .next u ∧ starts g bad u) ∧
      (∀ g, (∀ h, s.trust.staged = some h → ¬passes h) → s.trust.running = some g → passes g → ∃ u, exec i s = .next u ∧ starts g bad u) ∧
      ((∀ h, s.trust.staged = some h → ¬passes h) → (∀ h, s.trust.running = some h → ¬passes h) →
        ∃ u, exec i s = .next u ∧ wiped u ∧ u.trust.staged = none ∧ u.boot = .recovery)
    let heats (i : Instr) (reads : Nat → Nat) : Prop := ∃ u, exec i s = .next u ∧ (∀ d, d < 4 → (u.die d).celsius = reads d) ∧
      (s.boot ≠ .off → (∃ d, d < 4 ∧ 110 ≤ reads d) → u.boot = .off ∧ wiped u) ∧
      (s.boot = .off → { u with dies := s.dies } = s) ∧
      (s.boot ≠ .off → (∀ d, d < 4 → reads d < 110) →
        (u.fw.thermalStop = true ↔ (∃ d, d < 4 ∧ 100 ≤ reads d) ∨ s.fw.thermalStop = true ∧ ∃ d, d < 4 ∧ 95 < reads d) ∧
        { u.fw with thermalStop := s.fw.thermalStop } = s.fw ∧ { u with dies := s.dies, fw := s.fw } = s)
    let trusts (i : Instr) (t : Trust) : Prop := exec i s = .next { s with trust := t }
    let served := s.boot = .running ∧ s.bootStep = 7
    let stays (n : Nat) (u : State) : Prop := u.parts = mapErase s.parts part ∧ u.held = s.held ++ [(n, p.req)] ∧ u.trust = s.trust ∧
      (∀ k c, (k, c) ∈ u.clusters → c.owner ≠ some part) ∧ u.fw.telemetryFlags = s.fw.telemetryFlags ++ [.teardown part]
    (s.createOk req = true → (∃ u x more, exec (.partitionCreate req) s = .next u ∧ mapGet u.parts req.num = some x ∧ x.req = req ∧
        x.pages = req.pages ∧ x.frames = req.frames ∧ x.sealKey = s.keyNext ∧ x.dataKey = s.keyNext + 1 ∧
        x.macKey = s.keyNext + 2 ∧ x.flashKey = s.keyNext + 3 ∧ x.jobKey = some (s.keyNext + 4) ∧ u.keyNext = s.keyNext + 5 ∧
        x.teardown = none ∧ (∀ k, k ∈ u.keyStores.toList → mapGet k.parts req.num = some (x.dataKey, x.macKey)) ∧
        (∀ f, f ∈ req.frames → (u.potOf f).owner = .part req.num ∧ (u.potOf f).world = req.world) ∧
        (∀ n, n ≠ req.num → mapGet u.parts n = mapGet s.parts n) ∧ u.pools = s.pools ++ more ∧
        (∀ v m, req.poolMb[v]? = some m → ∃ r, r ∈ more ∧ r.vdie = v ∧ r.mb = m) ∧
        (∀ r, r ∈ more → r.part = req.num ∧ r.die = req.clusters.getD (8 * r.vdie) 0 / 8 ∧ r.base + r.mb ≤ 64 ∧
          ∀ y, y ∈ s.pools → y.die = r.die → r.base + r.mb ≤ y.base ∨ y.base + y.mb ≤ r.base) ∧
        { u with parts := s.parts, pot := s.pot, keyNext := s.keyNext, pools := s.pools, keyStores := s.keyStores } = s) ∧
      served ∧ 4096 ≤ req.share ∧ 1 ≤ req.clusters.length ∧ req.clusters.length ≤ 32 ∧ (∀ m, m ∈ req.poolMb → m ≤ 64) ∧
      1 ≤ req.ways ∧ req.ways ≤ 64 ∧ 65600 ≤ req.frames.length ∧
      (∀ f, f ∈ req.frames → (s.potOf f).owner = .free ∧ channelGroup f ∈ req.groups) ∧
      (∀ i f, req.frames[i]? = some f → f = nthFrame req.groups (req.frames.headD 0) i) ∧
      (∀ g, g ∈ req.groups → 2 ≤ g ∧ g ≤ 191) ∧ mapGet s.parts req.num = none) ∧
    (s.createOk req = false → exec (.partitionCreate req) s = .next s) ∧
    (mapGet s.parts part = some p → p.teardown = none → (s.tasks.map Task.id).Nodup → ∃ u, exec (.partitionTeardown part nonce) s = .next u ∧
      (mapGet u.parts part).bind Partition.teardown = some ⟨nonce, 1⟩ ∧
      (∀ q, q ∈ s.queues → q.part = part → q.destroyed = false → .queueDestroy part q.num ∈ u.fw.journal ++ u.fw.owed) ∧
      (∀ a, a ∈ u.arms → a.part ≠ part) ∧ (∀ x, x ∈ u.saved → x.core.partId ≠ part) ∧
      (∀ t, t ∈ u.tasks → t.part = part → t.ending ≠ none)) ∧
    (∃ u, s.teardownStep part p ⟨nonce, 5⟩ = some u ∧ (Config.choice s.fv = true ∧ stays 5 u ∨ Config.choice s.fv = false ∧
      u.parts = mapErase s.parts part ∧ u.held = s.held ∧
      u.trust.receiptSerial = s.trust.receiptSerial + 1 ∧ u.trust.receipts = s.trust.receipts ++
        [⟨s.trust.receiptSerial, part, p.req.job, nonce, p.frames.length, p.req.ways, if p.req.flashBlocks = 0 then 0 else 1, s.time⟩])) ∧
    (∃ u, s.teardownStep part p ⟨nonce, 4⟩ = some u ∧ (Config.choice s.fv = true ∧ stays 4 u ∨ Config.choice s.fv = false ∧
      (∀ k, k ∈ u.keyStores.toList → mapGet k.parts part = none) ∧ (∀ w, w ∈ u.switches → part ∉ w.keys) ∧ u.trust = s.trust ∧
      (∀ x, mapGet u.parts part = some x → x.dataKey = 0 ∧ x.macKey = 0 ∧ x.jobKey = none))) ∧
    (served → s.trust.ownership = .owned → passes img → trusts (.firmwareImage img) { s.trust with staged := some img }) ∧
    (¬passes img → exec (.firmwareImage img) s = .next s) ∧
    (served → s.trust.ownership = .owned → own.signedBy ≠ none → own.signedBy = s.trust.ownerKey → own.nonce ∉ s.trust.nonces →
      ∃ u, exec (.transfer own) s = .next u ∧ u.trust = { s.trust with
          ownership := .transferring, nextOwner := BitVec.ofNat 256 own.key, nonces := s.trust.nonces ++ [own.nonce] } ∧
        ∀ n x, mapGet u.parts n = some x → x.teardown ≠ none) ∧
    (served → s.trust.ownership = .unowned → own.signedBy = some own.key → own.nonce ∉ s.trust.nonces →
      (Config.sha256 own.key = s.trust.nextOwner → trusts (.enrol own) { s.trust with
        ownership := .owned, ownerKey := some own.key, nonces := s.trust.nonces ++ [own.nonce] }) ∧
      (Config.sha256 own.key ≠ s.trust.nextOwner → exec (.enrol own) s = .next s)) ∧
    (own.nonce ∈ s.trust.nonces ∨ ¬served → exec (.transfer own) s = .next s ∧ exec (.enrol own) s = .next s) ∧
    (own.signedBy ≠ s.trust.ownerKey → exec (.transfer own) s = .next s) ∧ (own.signedBy ≠ some own.key → exec (.enrol own) s = .next s) ∧
    (die < 4 → heats (.thermalStop die celsius) (fun d => if d = die then celsius else (s.die d).celsius) ∧
      heats (.thermalTrip die celsius) (fun d => if d = die then celsius else (s.die d).celsius)) ∧
    heats (.thermalResume cs) (fun d => cs.getD d (s.die d).celsius) ∧
    ((∀ d, d < 4 → (s.die d).celsius < 110) → comesUp (.powerOn env) env.badPorts) ∧
    ((∃ d, d < 4 ∧ 110 ≤ (s.die d).celsius) → ∃ u, exec (.powerOn env) s = .next u ∧ u.boot = .off ∧ wiped u) ∧
    ((env.cause = .power ∧ s.boot ≠ .off) ∨ (env.cause = .request true ∧ s.boot = .running) ∨
        (env.cause = .watchdog ∧ s.boot = .running ∧ s.fw.f4Halted = true) → comesUp (.moduleReset env) env.badPorts) ∧
    (s.boot = .off ∨ env.cause = .request false ∨ (env.cause ≠ .power ∧ s.boot = .recovery) ∨
        (env.cause = .watchdog ∧ s.fw.f4Halted = false) → exec (.moduleReset env) s = .next s) ∧
    (s.boot = .recovery → s.trust.ownership = .owned → passes img → ∃ u bad, exec (.recovery img) s = .next u ∧ starts img bad u) ∧
    (¬passes img ∨ s.boot ≠ .recovery → exec (.recovery img) s = .next s)

/-! ## Reset and the invariant (07 R136; 21 R429) -/

/-- R136, R172, R322, R429, R430: what reset leaves: bring-up is complete and its service accepts requests, no partition and
no task exists, every port is UP and package time is locked; every Almanac entry is FREE at generation 1, every frame free,
non-secure and clear in the POT; the firmware's own frames, of groups 0 and 1, are protected in the integrity mode all the same (R33,
R383, the model's reading: log entry 62); every byte 0; the registers stand as before a task's first instruction, where R136 gives their value (the others
hold 0, log entry 3). -/
def Obligations.ResetState : Prop :=
  let s := State.reset
  let c := s.core
  s.boot = .running ∧ s.bootStep = 7 ∧ s.parts = [] ∧ s.tasks = [] ∧ s.queues = [] ∧ s.ptp.locked = true ∧
  (∀ (i : Nat) (x : Port), s.ports[i]? = some x → x.tx.state = .up ∧ x.rx.state = .up) ∧
  (∀ i, (s.entry i).state = .free ∧ (s.entry i).gen = 1) ∧
  (∀ f, s.potOf f = ⟨.nonSecure, .free, .clear, false⟩ ∧ s.modeOf f = if channelGroup f < 2 then .integrity else .clear) ∧
  (∀ a, memGet s.mem a = 0 ∧ memGet c.scr a = 0 ∧ memGet c.lanes a = 0 ∧ memGet c.wb a = 0) ∧
  (∀ d a, memGet (s.die d).view a = 0 ∧ memGet (s.die d).pool a = 0) ∧
  c.ctx = .idle ∧ (∀ r, c.rs r = 0) ∧ c.rp 0 = BitVec.allOnes 1024 ∧ (∀ r, r ≠ 0 → c.rp r = 0) ∧ (∀ r, c.rk r = Token.zero) ∧
  (∀ r, c.rb r = 0) ∧ c.bc = false ∧ c.lc = 0 ∧ c.ls = 0 ∧ c.le = 0 ∧ (∀ r, c.rv r = Vector.replicate 1024 0) ∧
  c.tags = 0 ∧ c.tagrev = 0 ∧ c.oob = false ∧ c.revpend = false ∧ c.inh = false ∧ c.dsField = 0 ∧ c.oobcnt = 0 ∧
  c.waitcfg = 20 ∧ c.vigil = 65520 ∧ c.calendar = 0 ∧ c.fmtstat = 0 ∧
  (∀ e, (c.eng e).queue = [] ∧ (c.eng e).stack = [] ∧ (c.eng e).running = []) ∧ c.fq = [] ∧
  (∀ (i : Nat) (x : Curve), c.curves[i]? = some x → x = Curve.identity) ∧
  c.lan.tw = 1024 ∧ (∀ i, mapGet c.lan.delay i = none) ∧ (∀ i, mapGet c.lan.result i = none) ∧ c.lan.order = []

/-- 02 R28, 05 R101, R103, 21 R429: the memory that every package-wide access goes to is in its canonical form at reset, so
that equal memories are equal data (the form is the model's, log entry 7). -/
def Obligations.ResetMemory : Prop := MemoryOk State.reset

/-- 05 R101, R103, R104, 06 R114, 18 R382: every step keeps the canonical form of the memory that every package-wide access
goes to, whatever instruction or event it is, so that no address is listed twice or out of order and none is listed with
the value that an unlisted one reads as (the form is the model's, log entry 7). -/
def Obligations.StepKeepsMemory : Prop := ∀ s t : State, MemoryOk s → step s = .next t → MemoryOk t
end

