-- ==== Sys2Proof/Laws/Dispatch.lean ====
section
/-! SUPPORT. The meaning each instruction is dispatched to, one equation per constructor. -/

namespace Sys2Proof.Machine

theorem exec_add (d : BitVec 5) (a : BitVec 5) (b : BitVec 5) (s : State) :
    exec (.add d a b) s = execAdd d a b s := rfl
theorem exec_sub (d : BitVec 5) (a : BitVec 5) (b : BitVec 5) (s : State) :
    exec (.sub d a b) s = execSub d a b s := rfl
theorem exec_and (d : BitVec 5) (a : BitVec 5) (b : BitVec 5) (s : State) :
    exec (.and d a b) s = execAnd d a b s := rfl
theorem exec_or (d : BitVec 5) (a : BitVec 5) (b : BitVec 5) (s : State) :
    exec (.or d a b) s = execOr d a b s := rfl
theorem exec_xor (d : BitVec 5) (a : BitVec 5) (b : BitVec 5) (s : State) :
    exec (.xor d a b) s = execXor d a b s := rfl
theorem exec_andn (d : BitVec 5) (a : BitVec 5) (b : BitVec 5) (s : State) :
    exec (.andn d a b) s = execAndn d a b s := rfl
theorem exec_orn (d : BitVec 5) (a : BitVec 5) (b : BitVec 5) (s : State) :
    exec (.orn d a b) s = execOrn d a b s := rfl
theorem exec_xnor (d : BitVec 5) (a : BitVec 5) (b : BitVec 5) (s : State) :
    exec (.xnor d a b) s = execXnor d a b s := rfl
theorem exec_sll (d : BitVec 5) (a : BitVec 5) (b : BitVec 5) (s : State) :
    exec (.sll d a b) s = execSll d a b s := rfl
theorem exec_srl (d : BitVec 5) (a : BitVec 5) (b : BitVec 5) (s : State) :
    exec (.srl d a b) s = execSrl d a b s := rfl
theorem exec_sra (d : BitVec 5) (a : BitVec 5) (b : BitVec 5) (s : State) :
    exec (.sra d a b) s = execSra d a b s := rfl
theorem exec_rol (d : BitVec 5) (a : BitVec 5) (b : BitVec 5) (s : State) :
    exec (.rol d a b) s = execRol d a b s := rfl
theorem exec_ror (d : BitVec 5) (a : BitVec 5) (b : BitVec 5) (s : State) :
    exec (.ror d a b) s = execRor d a b s := rfl
theorem exec_mul (d : BitVec 5) (a : BitVec 5) (b : BitVec 5) (s : State) :
    exec (.mul d a b) s = execMul d a b s := rfl
theorem exec_mulh (d : BitVec 5) (a : BitVec 5) (b : BitVec 5) (s : State) :
    exec (.mulh d a b) s = execMulh d a b s := rfl
theorem exec_mulhu (d : BitVec 5) (a : BitVec 5) (b : BitVec 5) (s : State) :
    exec (.mulhu d a b) s = execMulhu d a b s := rfl
theorem exec_div (d : BitVec 5) (a : BitVec 5) (b : BitVec 5) (s : State) :
    exec (.div d a b) s = execDiv d a b s := rfl
theorem exec_divu (d : BitVec 5) (a : BitVec 5) (b : BitVec 5) (s : State) :
    exec (.divu d a b) s = execDivu d a b s := rfl
theorem exec_rem (d : BitVec 5) (a : BitVec 5) (b : BitVec 5) (s : State) :
    exec (.rem d a b) s = execRem d a b s := rfl
theorem exec_remu (d : BitVec 5) (a : BitVec 5) (b : BitVec 5) (s : State) :
    exec (.remu d a b) s = execRemu d a b s := rfl
theorem exec_min (d : BitVec 5) (a : BitVec 5) (b : BitVec 5) (s : State) :
    exec (.min d a b) s = execMin d a b s := rfl
theorem exec_max (d : BitVec 5) (a : BitVec 5) (b : BitVec 5) (s : State) :
    exec (.max d a b) s = execMax d a b s := rfl
theorem exec_minu (d : BitVec 5) (a : BitVec 5) (b : BitVec 5) (s : State) :
    exec (.minu d a b) s = execMinu d a b s := rfl
theorem exec_maxu (d : BitVec 5) (a : BitVec 5) (b : BitVec 5) (s : State) :
    exec (.maxu d a b) s = execMaxu d a b s := rfl
theorem exec_clz (d : BitVec 5) (a : BitVec 5) (s : State) :
    exec (.clz d a) s = execClz d a s := rfl
theorem exec_ctz (d : BitVec 5) (a : BitVec 5) (s : State) :
    exec (.ctz d a) s = execCtz d a s := rfl
theorem exec_popc (d : BitVec 5) (a : BitVec 5) (s : State) :
    exec (.popc d a) s = execPopc d a s := rfl
theorem exec_bswap (d : BitVec 5) (a : BitVec 5) (s : State) :
    exec (.bswap d a) s = execBswap d a s := rfl
theorem exec_brev (d : BitVec 5) (a : BitVec 5) (s : State) :
    exec (.brev d a) s = execBrev d a s := rfl
theorem exec_sel (d : BitVec 5) (a : BitVec 5) (b : BitVec 5) (s : State) :
    exec (.sel d a b) s = execSel d a b s := rfl
theorem exec_addi (d : BitVec 5) (a : BitVec 5) (i : BitVec 12) (s : State) :
    exec (.addi d a i) s = execAddi d a i s := rfl
theorem exec_andi (d : BitVec 5) (a : BitVec 5) (i : BitVec 12) (s : State) :
    exec (.andi d a i) s = execAndi d a i s := rfl
theorem exec_ori (d : BitVec 5) (a : BitVec 5) (i : BitVec 12) (s : State) :
    exec (.ori d a i) s = execOri d a i s := rfl
theorem exec_xori (d : BitVec 5) (a : BitVec 5) (i : BitVec 12) (s : State) :
    exec (.xori d a i) s = execXori d a i s := rfl
theorem exec_slli (d : BitVec 5) (a : BitVec 5) (n : BitVec 6) (s : State) :
    exec (.slli d a n) s = execSlli d a n s := rfl
theorem exec_srli (d : BitVec 5) (a : BitVec 5) (n : BitVec 6) (s : State) :
    exec (.srli d a n) s = execSrli d a n s := rfl
theorem exec_srai (d : BitVec 5) (a : BitVec 5) (n : BitVec 6) (s : State) :
    exec (.srai d a n) s = execSrai d a n s := rfl
theorem exec_rori (d : BitVec 5) (a : BitVec 5) (n : BitVec 6) (s : State) :
    exec (.rori d a n) s = execRori d a n s := rfl
theorem exec_movi (d : BitVec 5) (v : BitVec 17) (sh : BitVec 6) (s : State) :
    exec (.movi d v sh) s = execMovi d v sh s := rfl
theorem exec_lut3 (d : BitVec 5) (a : BitVec 5) (b : BitVec 5) (c : BitVec 5) (tbl : BitVec 8) (s : State) :
    exec (.lut3 d a b c tbl) s = execLut3 d a b c tbl s := rfl
theorem exec_fsl (d : BitVec 5) (a : BitVec 5) (b : BitVec 5) (n : BitVec 6) (s : State) :
    exec (.fsl d a b n) s = execFsl d a b n s := rfl
theorem exec_fsr (d : BitVec 5) (a : BitVec 5) (b : BitVec 5) (n : BitVec 6) (s : State) :
    exec (.fsr d a b n) s = execFsr d a b n s := rfl
theorem exec_cmpEq (a : BitVec 5) (b : BitVec 5) (s : State) :
    exec (.cmpEq a b) s = execCmpEq a b s := rfl
theorem exec_cmpNe (a : BitVec 5) (b : BitVec 5) (s : State) :
    exec (.cmpNe a b) s = execCmpNe a b s := rfl
theorem exec_cmpLt (a : BitVec 5) (b : BitVec 5) (s : State) :
    exec (.cmpLt a b) s = execCmpLt a b s := rfl
theorem exec_cmpGe (a : BitVec 5) (b : BitVec 5) (s : State) :
    exec (.cmpGe a b) s = execCmpGe a b s := rfl
theorem exec_cmpLtu (a : BitVec 5) (b : BitVec 5) (s : State) :
    exec (.cmpLtu a b) s = execCmpLtu a b s := rfl
theorem exec_cmpGeu (a : BitVec 5) (b : BitVec 5) (s : State) :
    exec (.cmpGeu a b) s = execCmpGeu a b s := rfl
theorem exec_tst (a : BitVec 5) (b : BitVec 5) (s : State) :
    exec (.tst a b) s = execTst a b s := rfl
theorem exec_cmpiEq (a : BitVec 5) (i : BitVec 12) (s : State) :
    exec (.cmpiEq a i) s = execCmpiEq a i s := rfl
theorem exec_cmpiNe (a : BitVec 5) (i : BitVec 12) (s : State) :
    exec (.cmpiNe a i) s = execCmpiNe a i s := rfl
theorem exec_cmpiLt (a : BitVec 5) (i : BitVec 12) (s : State) :
    exec (.cmpiLt a i) s = execCmpiLt a i s := rfl
theorem exec_cmpiGe (a : BitVec 5) (i : BitVec 12) (s : State) :
    exec (.cmpiGe a i) s = execCmpiGe a i s := rfl
theorem exec_cmpiLtu (a : BitVec 5) (i : BitVec 12) (s : State) :
    exec (.cmpiLtu a i) s = execCmpiLtu a i s := rfl
theorem exec_cmpiGeu (a : BitVec 5) (i : BitVec 12) (s : State) :
    exec (.cmpiGeu a i) s = execCmpiGeu a i s := rfl
theorem exec_tsti (a : BitVec 5) (i : BitVec 12) (s : State) :
    exec (.tsti a i) s = execTsti a i s := rfl
theorem exec_ptg (t : BitVec 2) (i : BitVec 23) (s : State) :
    exec (.ptg t i) s = execPtg t i s := rfl
theorem exec_br (t : BitVec 2) (s : State) :
    exec (.br t) s = execBr t s := rfl
theorem exec_bz (t : BitVec 2) (s : State) :
    exec (.bz t) s = execBz t s := rfl
theorem exec_call (t : BitVec 2) (s : State) :
    exec (.call t) s = execCall t s := rfl
theorem exec_ret (n : BitVec 2) (s : State) :
    exec (.ret n) s = execRet n s := rfl
theorem exec_ptr (t : BitVec 2) (a : BitVec 5) (s : State) :
    exec (.ptr t a) s = execPtr t a s := rfl
theorem exec_mfb (d : BitVec 5) (t : BitVec 2) (s : State) :
    exec (.mfb d t) s = execMfb d t s := rfl
theorem exec_mtl (a : BitVec 5) (x : BitVec 2) (s : State) :
    exec (.mtl a x) s = execMtl a x s := rfl
theorem exec_mfl (d : BitVec 5) (x : BitVec 2) (s : State) :
    exec (.mfl d x) s = execMfl d x s := rfl
theorem exec_loopPush (s : State) :
    exec .loopPush s = execLoopPush s := rfl
theorem exec_loopPop (s : State) :
    exec .loopPop s = execLoopPop s := rfl
theorem exec_mfbc (d : BitVec 5) (s : State) :
    exec (.mfbc d) s = execMfbc d s := rfl
theorem exec_mtbc (a : BitVec 5) (s : State) :
    exec (.mtbc a) s = execMtbc a s := rfl
theorem exec_loop (a : BitVec 5) (i : BitVec 12) (s : State) :
    exec (.loop a i) s = execLoop a i s := rfl
theorem exec_endOp (s : State) :
    exec .endOp s = execEndOp s := rfl
theorem exec_eret (s : State) :
    exec .eret s = execEret s := rfl
theorem exec_trap (n : BitVec 5) (s : State) :
    exec (.trap n) s = execTrap n s := rfl
theorem exec_svc (n : BitVec 5) (s : State) :
    exec (.svc n) s = execSvc n s := rfl
theorem exec_mfc (d : BitVec 5) (y : BitVec 5) (x : BitVec 5) (s : State) :
    exec (.mfc d y x) s = execMfc d y x s := rfl
theorem exec_mtc (a : BitVec 5) (y : BitVec 5) (x : BitVec 5) (s : State) :
    exec (.mtc a y x) s = execMtc a y x s := rfl
theorem exec_ctrSel (a : BitVec 5) (n : BitVec 4) (s : State) :
    exec (.ctrSel a n) s = execCtrSel a n s := rfl
theorem exec_yield (cnt : BitVec 12) (mask : BitVec 16) (s : State) :
    exec (.yield cnt mask) s = execYield cnt mask s := rfl
theorem exec_sync (s : State) :
    exec .sync s = execSync s := rfl
theorem exec_alignEquinox (s : State) :
    exec .alignEquinox s = execAlignEquinox s := rfl
theorem exec_fenceCo (s : State) :
    exec .fenceCo s = execFenceCo s := rfl
theorem exec_fenceCl (s : State) :
    exec .fenceCl s = execFenceCl s := rfl
theorem exec_fenceDi (s : State) :
    exec .fenceDi s = execFenceDi s := rfl
theorem exec_fencePk (s : State) :
    exec .fencePk s = execFencePk s := rfl
theorem exec_fenceDm (s : State) :
    exec .fenceDm s = execFenceDm s := rfl
theorem exec_tagWany (a : BitVec 5) (s : State) :
    exec (.tagWany a) s = execTagWany a s := rfl
theorem exec_tagWall (a : BitVec 5) (s : State) :
    exec (.tagWall a) s = execTagWall a s := rfl
theorem exec_tagFfr (d : BitVec 5) (a : BitVec 5) (s : State) :
    exec (.tagFfr d a) s = execTagFfr d a s := rfl
theorem exec_tagClr (a : BitVec 5) (s : State) :
    exec (.tagClr a) s = execTagClr a s := rfl
theorem exec_barArrive (d : BitVec 5) (i : BitVec 5) (s : State) :
    exec (.barArrive d i) s = execBarArrive d i s := rfl
theorem exec_barDrop (d : BitVec 5) (i : BitVec 5) (s : State) :
    exec (.barDrop d i) s = execBarDrop d i s := rfl
theorem exec_barWait (a : BitVec 5) (i : BitVec 5) (s : State) :
    exec (.barWait a i) s = execBarWait a i s := rfl
theorem exec_enqM (a : BitVec 5) (s : State) :
    exec (.enqM a) s = execEnqM a s := rfl
theorem exec_enqC (a : BitVec 5) (s : State) :
    exec (.enqC a) s = execEnqC a s := rfl
theorem exec_enqL (a : BitVec 5) (s : State) :
    exec (.enqL a) s = execEnqL a s := rfl
theorem exec_fmtq (a : BitVec 5) (s : State) :
    exec (.fmtq a) s = execFmtq a s := rfl
theorem exec_xlat (k : BitVec 4) (a : BitVec 5) (b : BitVec 5) (r : BitVec 2) (s : State) :
    exec (.xlat k a b r) s = execXlat k a b r s := rfl
theorem exec_kinfo (d : BitVec 5) (k : BitVec 4) (f : BitVec 5) (s : State) :
    exec (.kinfo d k f) s = execKinfo d k f s := rfl
theorem exec_kmov (j : BitVec 4) (k : BitVec 4) (s : State) :
    exec (.kmov j k) s = execKmov j k s := rfl
theorem exec_ksub (j : BitVec 4) (k : BitVec 4) (o : BitVec 5) (l : BitVec 5) (s : State) :
    exec (.ksub j k o l) s = execKsub j k o l s := rfl
theorem exec_kst (k : BitVec 4) (j : BitVec 4) (o : BitVec 5) (s : State) :
    exec (.kst k j o) s = execKst k j o s := rfl
theorem exec_kstL (k : BitVec 4) (b : BitVec 5) (i : BitVec 5) (s : State) :
    exec (.kstL k b i) s = execKstL k b i s := rfl
theorem exec_kld (k : BitVec 4) (j : BitVec 4) (o : BitVec 5) (s : State) :
    exec (.kld k j o) s = execKld k j o s := rfl
theorem exec_kldL (k : BitVec 4) (b : BitVec 5) (i : BitVec 5) (s : State) :
    exec (.kldL k b i) s = execKldL k b i s := rfl
theorem exec_kclr (k : BitVec 4) (s : State) :
    exec (.kclr k) s = execKclr k s := rfl
theorem exec_krel (k : BitVec 4) (s : State) :
    exec (.krel k) s = execKrel k s := rfl
theorem exec_ld (d : BitVec 5) (k : BitVec 4) (b : BitVec 5) (p : BitVec 3) (o : BitVec 2) (g : BitVec 1) (z : BitVec 2) (s : State) :
    exec (.ld d k b p o g z) s = execLd d k b p o g z s := rfl
theorem exec_st (d : BitVec 5) (k : BitVec 4) (b : BitVec 5) (p : BitVec 3) (o : BitVec 2) (z : BitVec 2) (s : State) :
    exec (.st d k b p o z) s = execSt d k b p o z s := rfl
theorem exec_lds (z : BitVec 2) (d : BitVec 5) (a : BitVec 5) (g : BitVec 1) (o : BitVec 2) (i : BitVec 11) (s : State) :
    exec (.lds z d a g o i) s = execLds z d a g o i s := rfl
theorem exec_sts (z : BitVec 2) (d : BitVec 5) (a : BitVec 5) (o : BitVec 2) (i : BitVec 11) (s : State) :
    exec (.sts z d a o i) s = execSts z d a o i s := rfl
theorem exec_amoAdd (z : BitVec 1) (d : BitVec 4) (k : BitVec 4) (b : BitVec 4) (c : BitVec 4) (p : BitVec 3) (o : BitVec 2) (s : State) :
    exec (.amoAdd z d k b c p o) s = execAmoAdd z d k b c p o s := rfl
theorem exec_amoAnd (z : BitVec 1) (d : BitVec 4) (k : BitVec 4) (b : BitVec 4) (c : BitVec 4) (p : BitVec 3) (o : BitVec 2) (s : State) :
    exec (.amoAnd z d k b c p o) s = execAmoAnd z d k b c p o s := rfl
theorem exec_amoOr (z : BitVec 1) (d : BitVec 4) (k : BitVec 4) (b : BitVec 4) (c : BitVec 4) (p : BitVec 3) (o : BitVec 2) (s : State) :
    exec (.amoOr z d k b c p o) s = execAmoOr z d k b c p o s := rfl
theorem exec_amoXor (z : BitVec 1) (d : BitVec 4) (k : BitVec 4) (b : BitVec 4) (c : BitVec 4) (p : BitVec 3) (o : BitVec 2) (s : State) :
    exec (.amoXor z d k b c p o) s = execAmoXor z d k b c p o s := rfl
theorem exec_amoMin (z : BitVec 1) (d : BitVec 4) (k : BitVec 4) (b : BitVec 4) (c : BitVec 4) (p : BitVec 3) (o : BitVec 2) (s : State) :
    exec (.amoMin z d k b c p o) s = execAmoMin z d k b c p o s := rfl
theorem exec_amoMax (z : BitVec 1) (d : BitVec 4) (k : BitVec 4) (b : BitVec 4) (c : BitVec 4) (p : BitVec 3) (o : BitVec 2) (s : State) :
    exec (.amoMax z d k b c p o) s = execAmoMax z d k b c p o s := rfl
theorem exec_amoMinu (z : BitVec 1) (d : BitVec 4) (k : BitVec 4) (b : BitVec 4) (c : BitVec 4) (p : BitVec 3) (o : BitVec 2) (s : State) :
    exec (.amoMinu z d k b c p o) s = execAmoMinu z d k b c p o s := rfl
theorem exec_amoMaxu (z : BitVec 1) (d : BitVec 4) (k : BitVec 4) (b : BitVec 4) (c : BitVec 4) (p : BitVec 3) (o : BitVec 2) (s : State) :
    exec (.amoMaxu z d k b c p o) s = execAmoMaxu z d k b c p o s := rfl
theorem exec_amoSwap (z : BitVec 1) (d : BitVec 4) (k : BitVec 4) (b : BitVec 4) (c : BitVec 4) (p : BitVec 3) (o : BitVec 2) (s : State) :
    exec (.amoSwap z d k b c p o) s = execAmoSwap z d k b c p o s := rfl
theorem exec_amoCas (z : BitVec 1) (d : BitVec 4) (k : BitVec 4) (b : BitVec 4) (c : BitVec 4) (p : BitVec 3) (o : BitVec 2) (s : State) :
    exec (.amoCas z d k b c p o) s = execAmoCas z d k b c p o s := rfl
theorem exec_amoFadd (d : BitVec 4) (k : BitVec 4) (b : BitVec 4) (c : BitVec 4) (p : BitVec 3) (o : BitVec 2) (s : State) :
    exec (.amoFadd d k b c p o) s = execAmoFadd d k b c p o s := rfl
theorem exec_amoAddt (z : BitVec 1) (d : BitVec 4) (k : BitVec 4) (b : BitVec 4) (c : BitVec 4) (p : BitVec 3) (o : BitVec 2) (s : State) :
    exec (.amoAddt z d k b c p o) s = execAmoAddt z d k b c p o s := rfl
theorem exec_waita (z : BitVec 1) (d : BitVec 4) (k : BitVec 4) (b : BitVec 4) (c : BitVec 4) (p : BitVec 3) (s : State) :
    exec (.waita z d k b c p) s = execWaita z d k b c p s := rfl
theorem exec_lamoAdd (z : BitVec 1) (d : BitVec 4) (a : BitVec 4) (i : BitVec 4) (c : BitVec 4) (o : BitVec 2) (s : State) :
    exec (.lamoAdd z d a i c o) s = execLamoAdd z d a i c o s := rfl
theorem exec_lamoAnd (z : BitVec 1) (d : BitVec 4) (a : BitVec 4) (i : BitVec 4) (c : BitVec 4) (o : BitVec 2) (s : State) :
    exec (.lamoAnd z d a i c o) s = execLamoAnd z d a i c o s := rfl
theorem exec_lamoOr (z : BitVec 1) (d : BitVec 4) (a : BitVec 4) (i : BitVec 4) (c : BitVec 4) (o : BitVec 2) (s : State) :
    exec (.lamoOr z d a i c o) s = execLamoOr z d a i c o s := rfl
theorem exec_lamoXor (z : BitVec 1) (d : BitVec 4) (a : BitVec 4) (i : BitVec 4) (c : BitVec 4) (o : BitVec 2) (s : State) :
    exec (.lamoXor z d a i c o) s = execLamoXor z d a i c o s := rfl
theorem exec_lamoMin (z : BitVec 1) (d : BitVec 4) (a : BitVec 4) (i : BitVec 4) (c : BitVec 4) (o : BitVec 2) (s : State) :
    exec (.lamoMin z d a i c o) s = execLamoMin z d a i c o s := rfl
theorem exec_lamoMax (z : BitVec 1) (d : BitVec 4) (a : BitVec 4) (i : BitVec 4) (c : BitVec 4) (o : BitVec 2) (s : State) :
    exec (.lamoMax z d a i c o) s = execLamoMax z d a i c o s := rfl
theorem exec_lamoMinu (z : BitVec 1) (d : BitVec 4) (a : BitVec 4) (i : BitVec 4) (c : BitVec 4) (o : BitVec 2) (s : State) :
    exec (.lamoMinu z d a i c o) s = execLamoMinu z d a i c o s := rfl
theorem exec_lamoMaxu (z : BitVec 1) (d : BitVec 4) (a : BitVec 4) (i : BitVec 4) (c : BitVec 4) (o : BitVec 2) (s : State) :
    exec (.lamoMaxu z d a i c o) s = execLamoMaxu z d a i c o s := rfl
theorem exec_lamoSwap (z : BitVec 1) (d : BitVec 4) (a : BitVec 4) (i : BitVec 4) (c : BitVec 4) (o : BitVec 2) (s : State) :
    exec (.lamoSwap z d a i c o) s = execLamoSwap z d a i c o s := rfl
theorem exec_lamoCas (z : BitVec 1) (d : BitVec 4) (a : BitVec 4) (i : BitVec 4) (c : BitVec 4) (o : BitVec 2) (s : State) :
    exec (.lamoCas z d a i c o) s = execLamoCas z d a i c o s := rfl
theorem exec_lamoFadd (d : BitVec 4) (a : BitVec 4) (i : BitVec 4) (c : BitVec 4) (o : BitVec 2) (s : State) :
    exec (.lamoFadd d a i c o) s = execLamoFadd d a i c o s := rfl
theorem exec_vaddI32 (d : BitVec 4) (a : BitVec 4) (b : BitVec 4) (p : BitVec 3) (s : State) :
    exec (.vaddI32 d a b p) s = execVaddI32 d a b p s := rfl
theorem exec_vsubI32 (d : BitVec 4) (a : BitVec 4) (b : BitVec 4) (p : BitVec 3) (s : State) :
    exec (.vsubI32 d a b p) s = execVsubI32 d a b p s := rfl
theorem exec_vmulI32 (d : BitVec 4) (a : BitVec 4) (b : BitVec 4) (p : BitVec 3) (s : State) :
    exec (.vmulI32 d a b p) s = execVmulI32 d a b p s := rfl
theorem exec_vmulhI32 (d : BitVec 4) (a : BitVec 4) (b : BitVec 4) (p : BitVec 3) (s : State) :
    exec (.vmulhI32 d a b p) s = execVmulhI32 d a b p s := rfl
theorem exec_vmulhU32 (d : BitVec 4) (a : BitVec 4) (b : BitVec 4) (p : BitVec 3) (s : State) :
    exec (.vmulhU32 d a b p) s = execVmulhU32 d a b p s := rfl
theorem exec_vminI32 (d : BitVec 4) (a : BitVec 4) (b : BitVec 4) (p : BitVec 3) (s : State) :
    exec (.vminI32 d a b p) s = execVminI32 d a b p s := rfl
theorem exec_vmaxI32 (d : BitVec 4) (a : BitVec 4) (b : BitVec 4) (p : BitVec 3) (s : State) :
    exec (.vmaxI32 d a b p) s = execVmaxI32 d a b p s := rfl
theorem exec_vminU32 (d : BitVec 4) (a : BitVec 4) (b : BitVec 4) (p : BitVec 3) (s : State) :
    exec (.vminU32 d a b p) s = execVminU32 d a b p s := rfl
theorem exec_vmaxU32 (d : BitVec 4) (a : BitVec 4) (b : BitVec 4) (p : BitVec 3) (s : State) :
    exec (.vmaxU32 d a b p) s = execVmaxU32 d a b p s := rfl
theorem exec_vaddsI32 (d : BitVec 4) (a : BitVec 4) (b : BitVec 4) (p : BitVec 3) (s : State) :
    exec (.vaddsI32 d a b p) s = execVaddsI32 d a b p s := rfl
theorem exec_vsubsI32 (d : BitVec 4) (a : BitVec 4) (b : BitVec 4) (p : BitVec 3) (s : State) :
    exec (.vsubsI32 d a b p) s = execVsubsI32 d a b p s := rfl
theorem exec_vabsI32 (d : BitVec 4) (a : BitVec 4) (p : BitVec 3) (s : State) :
    exec (.vabsI32 d a p) s = execVabsI32 d a p s := rfl
theorem exec_vnegI32 (d : BitVec 4) (a : BitVec 4) (p : BitVec 3) (s : State) :
    exec (.vnegI32 d a p) s = execVnegI32 d a p s := rfl
theorem exec_vand (d : BitVec 4) (a : BitVec 4) (b : BitVec 4) (p : BitVec 3) (s : State) :
    exec (.vand d a b p) s = execVand d a b p s := rfl
theorem exec_vor (d : BitVec 4) (a : BitVec 4) (b : BitVec 4) (p : BitVec 3) (s : State) :
    exec (.vor d a b p) s = execVor d a b p s := rfl
theorem exec_vxor (d : BitVec 4) (a : BitVec 4) (b : BitVec 4) (p : BitVec 3) (s : State) :
    exec (.vxor d a b p) s = execVxor d a b p s := rfl
theorem exec_vandn (d : BitVec 4) (a : BitVec 4) (b : BitVec 4) (p : BitVec 3) (s : State) :
    exec (.vandn d a b p) s = execVandn d a b p s := rfl
theorem exec_vsll (d : BitVec 4) (a : BitVec 4) (b : BitVec 4) (p : BitVec 3) (s : State) :
    exec (.vsll d a b p) s = execVsll d a b p s := rfl
theorem exec_vsrl (d : BitVec 4) (a : BitVec 4) (b : BitVec 4) (p : BitVec 3) (s : State) :
    exec (.vsrl d a b p) s = execVsrl d a b p s := rfl
theorem exec_vsra (d : BitVec 4) (a : BitVec 4) (b : BitVec 4) (p : BitVec 3) (s : State) :
    exec (.vsra d a b p) s = execVsra d a b p s := rfl
theorem exec_vmov (d : BitVec 4) (a : BitVec 4) (p : BitVec 3) (s : State) :
    exec (.vmov d a p) s = execVmov d a p s := rfl
theorem exec_vsel (d : BitVec 4) (a : BitVec 4) (b : BitVec 4) (p : BitVec 3) (s : State) :
    exec (.vsel d a b p) s = execVsel d a b p s := rfl
theorem exec_vclz (d : BitVec 4) (a : BitVec 4) (p : BitVec 3) (s : State) :
    exec (.vclz d a p) s = execVclz d a p s := rfl
theorem exec_vpopc (d : BitVec 4) (a : BitVec 4) (p : BitVec 3) (s : State) :
    exec (.vpopc d a p) s = execVpopc d a p s := rfl
theorem exec_vaddF32 (d : BitVec 4) (a : BitVec 4) (b : BitVec 4) (p : BitVec 3) (m : BitVec 3) (s : State) :
    exec (.vaddF32 d a b p m) s = execVaddF32 d a b p m s := rfl
theorem exec_vsubF32 (d : BitVec 4) (a : BitVec 4) (b : BitVec 4) (p : BitVec 3) (m : BitVec 3) (s : State) :
    exec (.vsubF32 d a b p m) s = execVsubF32 d a b p m s := rfl
theorem exec_vmulF32 (d : BitVec 4) (a : BitVec 4) (b : BitVec 4) (p : BitVec 3) (m : BitVec 3) (s : State) :
    exec (.vmulF32 d a b p m) s = execVmulF32 d a b p m s := rfl
theorem exec_vfmaF32 (d : BitVec 4) (a : BitVec 4) (b : BitVec 4) (c : BitVec 4) (p : BitVec 3) (m : BitVec 3) (s : State) :
    exec (.vfmaF32 d a b c p m) s = execVfmaF32 d a b c p m s := rfl
theorem exec_vminF32 (d : BitVec 4) (a : BitVec 4) (b : BitVec 4) (p : BitVec 3) (s : State) :
    exec (.vminF32 d a b p) s = execVminF32 d a b p s := rfl
theorem exec_vmaxF32 (d : BitVec 4) (a : BitVec 4) (b : BitVec 4) (p : BitVec 3) (s : State) :
    exec (.vmaxF32 d a b p) s = execVmaxF32 d a b p s := rfl
theorem exec_vabsF32 (d : BitVec 4) (a : BitVec 4) (p : BitVec 3) (s : State) :
    exec (.vabsF32 d a p) s = execVabsF32 d a p s := rfl
theorem exec_vnegF32 (d : BitVec 4) (a : BitVec 4) (p : BitVec 3) (s : State) :
    exec (.vnegF32 d a p) s = execVnegF32 d a p s := rfl
theorem exec_vcvtNarrow (d : BitVec 4) (a : BitVec 4) (f : BitVec 4) (p : BitVec 3) (m : BitVec 3) (s : State) :
    exec (.vcvtNarrow d a f p m) s = execVcvtNarrow d a f p m s := rfl
theorem exec_vcvtWiden (d : BitVec 4) (a : BitVec 4) (f : BitVec 4) (p : BitVec 3) (s : State) :
    exec (.vcvtWiden d a f p) s = execVcvtWiden d a f p s := rfl
theorem exec_vcvtI32F32 (d : BitVec 4) (a : BitVec 4) (p : BitVec 3) (m : BitVec 3) (s : State) :
    exec (.vcvtI32F32 d a p m) s = execVcvtI32F32 d a p m s := rfl
theorem exec_vcvtF32I32 (d : BitVec 4) (a : BitVec 4) (p : BitVec 3) (m : BitVec 3) (s : State) :
    exec (.vcvtF32I32 d a p m) s = execVcvtF32I32 d a p m s := rfl
theorem exec_vcvtsNarrow (d : BitVec 4) (a : BitVec 4) (f : BitVec 4) (p : BitVec 3) (m : BitVec 3) (s : State) :
    exec (.vcvtsNarrow d a f p m) s = execVcvtsNarrow d a f p m s := rfl
theorem exec_vsumRa (d : BitVec 4) (a : BitVec 4) (t : BitVec 2) (s : State) :
    exec (.vsumRa d a t) s = execVsumRa d a t s := rfl
theorem exec_vsumCa (d : BitVec 4) (a : BitVec 4) (t : BitVec 2) (s : State) :
    exec (.vsumCa d a t) s = execVsumCa d a t s := rfl
theorem exec_vmaxRa (d : BitVec 4) (a : BitVec 4) (t : BitVec 2) (s : State) :
    exec (.vmaxRa d a t) s = execVmaxRa d a t s := rfl
theorem exec_vmaxCa (d : BitVec 4) (a : BitVec 4) (t : BitVec 2) (s : State) :
    exec (.vmaxCa d a t) s = execVmaxCa d a t s := rfl
theorem exec_vminRa (d : BitVec 4) (a : BitVec 4) (t : BitVec 2) (s : State) :
    exec (.vminRa d a t) s = execVminRa d a t s := rfl
theorem exec_vminCa (d : BitVec 4) (a : BitVec 4) (t : BitVec 2) (s : State) :
    exec (.vminCa d a t) s = execVminCa d a t s := rfl
theorem exec_vrotRa (d : BitVec 4) (a : BitVec 4) (n : BitVec 6) (s : State) :
    exec (.vrotRa d a n) s = execVrotRa d a n s := rfl
theorem exec_vrotCa (d : BitVec 4) (a : BitVec 4) (n : BitVec 4) (s : State) :
    exec (.vrotCa d a n) s = execVrotCa d a n s := rfl
theorem exec_vbrow (d : BitVec 4) (a : BitVec 4) (r : BitVec 4) (s : State) :
    exec (.vbrow d a r) s = execVbrow d a r s := rfl
theorem exec_vbcol (d : BitVec 4) (a : BitVec 4) (c : BitVec 6) (s : State) :
    exec (.vbcol d a c) s = execVbcol d a c s := rfl
theorem exec_vidxR (d : BitVec 4) (s : State) :
    exec (.vidxR d) s = execVidxR d s := rfl
theorem exec_vidxC (d : BitVec 4) (s : State) :
    exec (.vidxC d) s = execVidxC d s := rfl
theorem exec_vext (d : BitVec 4) (a : BitVec 4) (r : BitVec 4) (c : BitVec 6) (s : State) :
    exec (.vext d a r c) s = execVext d a r c s := rfl
theorem exec_vins (d : BitVec 4) (a : BitVec 4) (r : BitVec 4) (c : BitVec 6) (s : State) :
    exec (.vins d a r c) s = execVins d a r c s := rfl
theorem exec_vbcast (d : BitVec 4) (a : BitVec 4) (s : State) :
    exec (.vbcast d a) s = execVbcast d a s := rfl
theorem exec_vcmp (d : BitVec 3) (a : BitVec 4) (b : BitVec 4) (p : BitVec 3) (c : BitVec 3) (t : BitVec 3) (s : State) :
    exec (.vcmp d a b p c t) s = execVcmp d a b p c t s := rfl
theorem exec_pand (d : BitVec 3) (a : BitVec 3) (b : BitVec 3) (s : State) :
    exec (.pand d a b) s = execPand d a b s := rfl
theorem exec_por (d : BitVec 3) (a : BitVec 3) (b : BitVec 3) (s : State) :
    exec (.por d a b) s = execPor d a b s := rfl
theorem exec_pxor (d : BitVec 3) (a : BitVec 3) (b : BitVec 3) (s : State) :
    exec (.pxor d a b) s = execPxor d a b s := rfl
theorem exec_pandn (d : BitVec 3) (a : BitVec 3) (b : BitVec 3) (s : State) :
    exec (.pandn d a b) s = execPandn d a b s := rfl
theorem exec_pnot (d : BitVec 3) (a : BitVec 3) (s : State) :
    exec (.pnot d a) s = execPnot d a s := rfl
theorem exec_vany (a : BitVec 3) (s : State) :
    exec (.vany a) s = execVany a s := rfl
theorem exec_vall (a : BitVec 3) (s : State) :
    exec (.vall a) s = execVall a s := rfl
theorem exec_pcnt (d : BitVec 4) (a : BitVec 3) (s : State) :
    exec (.pcnt d a) s = execPcnt d a s := rfl
theorem exec_pmov (d : BitVec 3) (a : BitVec 3) (s : State) :
    exec (.pmov d a) s = execPmov d a s := rfl
theorem exec_vrcp (d : BitVec 4) (a : BitVec 4) (p : BitVec 3) (g : BitVec 1) (s : State) :
    exec (.vrcp d a p g) s = execVrcp d a p g s := rfl
theorem exec_vrsqrt (d : BitVec 4) (a : BitVec 4) (p : BitVec 3) (g : BitVec 1) (s : State) :
    exec (.vrsqrt d a p g) s = execVrsqrt d a p g s := rfl
theorem exec_vsqrt (d : BitVec 4) (a : BitVec 4) (p : BitVec 3) (g : BitVec 1) (s : State) :
    exec (.vsqrt d a p g) s = execVsqrt d a p g s := rfl
theorem exec_vexp2 (d : BitVec 4) (a : BitVec 4) (p : BitVec 3) (g : BitVec 1) (s : State) :
    exec (.vexp2 d a p g) s = execVexp2 d a p g s := rfl
theorem exec_vlog2 (d : BitVec 4) (a : BitVec 4) (p : BitVec 3) (g : BitVec 1) (s : State) :
    exec (.vlog2 d a p g) s = execVlog2 d a p g s := rfl
theorem exec_vexp (d : BitVec 4) (a : BitVec 4) (p : BitVec 3) (g : BitVec 1) (s : State) :
    exec (.vexp d a p g) s = execVexp d a p g s := rfl
theorem exec_vtanh (d : BitVec 4) (a : BitVec 4) (p : BitVec 3) (g : BitVec 1) (s : State) :
    exec (.vtanh d a p g) s = execVtanh d a p g s := rfl
theorem exec_vsigm (d : BitVec 4) (a : BitVec 4) (p : BitVec 3) (g : BitVec 1) (s : State) :
    exec (.vsigm d a p g) s = execVsigm d a p g s := rfl
theorem exec_vsin (d : BitVec 4) (a : BitVec 4) (p : BitVec 3) (g : BitVec 1) (s : State) :
    exec (.vsin d a p g) s = execVsin d a p g s := rfl
theorem exec_vcos (d : BitVec 4) (a : BitVec 4) (p : BitVec 3) (g : BitVec 1) (s : State) :
    exec (.vcos d a p g) s = execVcos d a p g s := rfl
theorem exec_verf (d : BitVec 4) (a : BitVec 4) (p : BitVec 3) (g : BitVec 1) (s : State) :
    exec (.verf d a p g) s = execVerf d a p g s := rfl
theorem exec_cmpt (a : BitVec 4) (b : BitVec 4) (t : BitVec 2) (s : State) :
    exec (.cmpt a b t) s = execCmpt a b t s := rfl
theorem exec_vqnt (d : BitVec 4) (a : BitVec 4) (t : BitVec 2) (f : BitVec 4) (s : State) :
    exec (.vqnt d a t f) s = execVqnt d a t f s := rfl
theorem exec_vdqnt (d : BitVec 4) (a : BitVec 4) (t : BitVec 2) (f : BitVec 4) (s : State) :
    exec (.vdqnt d a t f) s = execVdqnt d a t f s := rfl
theorem exec_vld (d : BitVec 4) (a : BitVec 4) (b : BitVec 4) (p : BitVec 3) (s : State) :
    exec (.vld d a b p) s = execVld d a b p s := rfl
theorem exec_vst (d : BitVec 4) (a : BitVec 4) (b : BitVec 4) (p : BitVec 3) (s : State) :
    exec (.vst d a b p) s = execVst d a b p s := rfl
theorem exec_vldL (d : BitVec 4) (a : BitVec 4) (p : BitVec 3) (s : State) :
    exec (.vldL d a p) s = execVldL d a p s := rfl
theorem exec_vstL (d : BitVec 4) (a : BitVec 4) (p : BitVec 3) (s : State) :
    exec (.vstL d a p) s = execVstL d a p s := rfl
theorem exec_nop (s : State) :
    exec .nop s = execNop s := rfl
theorem exec_sval (n : BitVec 5) (s : State) :
    exec (.sval n) s = execSval n s := rfl
theorem exec_ktok (n : BitVec 4) (s : State) :
    exec (.ktok n) s = execKtok n s := rfl
theorem exec_atStamp (s : State) :
    exec .atStamp s = execAtStamp s := rfl
theorem exec_gate (s : State) :
    exec .gate s = execGate s := rfl
theorem exec_dup (s : State) :
    exec .dup s = execDup s := rfl
theorem exec_drop (s : State) :
    exec .drop s = execDrop s := rfl
theorem exec_swap (s : State) :
    exec .swap s = execSwap s := rfl
theorem exec_lit (n : BitVec 14) (s : State) :
    exec (.lit n) s = execLit n s := rfl
theorem exec_litx (n : BitVec 14) (s : State) :
    exec (.litx n) s = execLitx n s := rfl
theorem exec_mma (z : BitVec 1) (s : State) :
    exec (.mma z) s = execMma z s := rfl
theorem exec_mmaSp (z : BitVec 1) (s : State) :
    exec (.mmaSp z) s = execMmaSp z s := rfl
theorem exec_mwb (c : BitVec 1) (s : State) :
    exec (.mwb c) s = execMwb c s := rfl
theorem exec_copy1d (s : State) :
    exec .copy1d s = execCopy1d s := rfl
theorem exec_copyNd (n : BitVec 3) (s : State) :
    exec (.copyNd n) s = execCopyNd n s := rfl
theorem exec_gather (e : BitVec 3) (s : State) :
    exec (.gather e) s = execGather e s := rfl
theorem exec_scatter (e : BitVec 3) (s : State) :
    exec (.scatter e) s = execScatter e s := rfl
theorem exec_wbfill (s : State) :
    exec .wbfill s = execWbfill s := rfl
theorem exec_collAr (t : BitVec 2) (o : BitVec 2) (s : State) :
    exec (.collAr t o) s = execCollAr t o s := rfl
theorem exec_collRs (t : BitVec 2) (o : BitVec 2) (s : State) :
    exec (.collRs t o) s = execCollRs t o s := rfl
theorem exec_collAg (t : BitVec 2) (s : State) :
    exec (.collAg t) s = execCollAg t s := rfl
theorem exec_lrst (s : State) :
    exec .lrst s = execLrst s := rfl
theorem exec_ldly (s : State) :
    exec .ldly s = execLdly s := rfl
theorem exec_lwin (s : State) :
    exec .lwin s = execLwin s := rfl
theorem exec_llaunchMin (s : State) :
    exec .llaunchMin s = execLlaunchMin s := rfl
theorem exec_llaunchMax (s : State) :
    exec .llaunchMax s = execLlaunchMax s := rfl
theorem exec_lcapV (s : State) :
    exec .lcapV s = execLcapV s := rfl
theorem exec_lcapO (k : BitVec 7) (s : State) :
    exec (.lcapO k) s = execLcapO k s := rfl
theorem exec_svcTime (core : Nat) (s : State) :
    exec (.svcTime core) s = execSvcTime core s := rfl
theorem exec_svcLog (core : Nat) (s : State) :
    exec (.svcLog core) s = execSvcLog core s := rfl
theorem exec_svcLimit (core : Nat) (s : State) :
    exec (.svcLimit core) s = execSvcLimit core s := rfl
theorem exec_svcUnassigned (core : Nat) (s : State) :
    exec (.svcUnassigned core) s = execSvcUnassigned core s := rfl
theorem exec_telemetryLogDrain (part : Nat) (count : Nat) (s : State) :
    exec (.telemetryLogDrain part count) s = execTelemetryLogDrain part count s := rfl
theorem exec_counterWrap (n : BitVec 4) (s : State) :
    exec (.counterWrap n) s = execCounterWrap n s := rfl
theorem exec_watchInstalled (s : State) :
    exec .watchInstalled s = execWatchInstalled s := rfl
theorem exec_vigil (s : State) :
    exec .vigil s = execVigil s := rfl
theorem exec_equinoxRelease (task : Nat) (s : State) :
    exec (.equinoxRelease task) s = execEquinoxRelease task s := rfl
theorem exec_barHeldArrival (cluster : Nat) (id : BitVec 5) (pos : BitVec 3) (s : State) :
    exec (.barHeldArrival cluster id pos) s = execBarHeldArrival cluster id pos s := rfl
theorem exec_xlatFaultResolution (core : Nat) (act : XlatAction) (s : State) :
    exec (.xlatFaultResolution core act) s = execXlatFaultResolution core act s := rfl
theorem exec_writeExposure (s : State) :
    exec .writeExposure s = execWriteExposure s := rfl
theorem exec_localStorePerformed (id : Nat) (s : State) :
    exec (.localStorePerformed id) s = execLocalStorePerformed id s := rfl
theorem exec_tokenStorePerformed (id : Nat) (s : State) :
    exec (.tokenStorePerformed id) s = execTokenStorePerformed id s := rfl
theorem exec_exportedStoreApply (src : Nat) (dst : Nat) (s : State) :
    exec (.exportedStoreApply src dst) s = execExportedStoreApply src dst s := rfl
theorem exec_loadDataReturn (id : Nat) (s : State) :
    exec (.loadDataReturn id) s = execLoadDataReturn id s := rfl
theorem exec_poison (s : State) :
    exec .poison s = execPoison s := rfl
theorem exec_integrity (s : State) :
    exec .integrity s = execIntegrity s := rfl
theorem exec_tfcMissFill (s : State) :
    exec .tfcMissFill s = execTfcMissFill s := rfl
theorem exec_atomicApply (id : Nat) (s : State) :
    exec (.atomicApply id) s = execAtomicApply id s := rfl
theorem exec_atomicResultReturn (id : Nat) (s : State) :
    exec (.atomicResultReturn id) s = execAtomicResultReturn id s := rfl
theorem exec_waitaRegister (id : Nat) (s : State) :
    exec (.waitaRegister id) s = execWaitaRegister id s := rfl
theorem exec_waitaTimeout (s : State) :
    exec .waitaTimeout s = execWaitaTimeout s := rfl
theorem exec_localAtomicApply (id : Nat) (s : State) :
    exec (.localAtomicApply id) s = execLocalAtomicApply id s := rfl
theorem exec_engineLaunchStart (e : EngineId) (s : State) :
    exec (.engineLaunchStart e) s = execEngineLaunchStart e s := rfl
theorem exec_matrixComplete (id : Nat) (s : State) :
    exec (.matrixComplete id) s = execMatrixComplete id s := rfl
theorem exec_mwbComplete (id : Nat) (s : State) :
    exec (.mwbComplete id) s = execMwbComplete id s := rfl
theorem exec_copyComplete (id : Nat) (s : State) :
    exec (.copyComplete id) s = execCopyComplete id s := rfl
theorem exec_collectiveComplete (task : Nat) (group : Nat) (s : State) :
    exec (.collectiveComplete task group) s = execCollectiveComplete task group s := rfl
theorem exec_lanternComplete (id : Nat) (s : State) :
    exec (.lanternComplete id) s = execLanternComplete id s := rfl
theorem exec_deferredReportDelivery (s : State) :
    exec .deferredReportDelivery s = execDeferredReportDelivery s := rfl
theorem exec_pcSample (s : State) :
    exec .pcSample s = execPcSample s := rfl
theorem exec_ringDrain (part : Nat) (die : Nat) (s : State) :
    exec (.ringDrain part die) s = execRingDrain part die s := rfl
theorem exec_dispatchRound (part : Nat) (s : State) :
    exec (.dispatchRound part) s = execDispatchRound part s := rfl
theorem exec_imageLoad (task : Nat) (s : State) :
    exec (.imageLoad task) s = execImageLoad task s := rfl
theorem exec_tlimitExpiry (task : Nat) (s : State) :
    exec (.tlimitExpiry task) s = execTlimitExpiry task s := rfl
theorem exec_preemptionRequest (cluster : Nat) (s : State) :
    exec (.preemptionRequest cluster) s = execPreemptionRequest cluster s := rfl
theorem exec_gangWithdraw (cluster : Nat) (s : State) :
    exec (.gangWithdraw cluster) s = execGangWithdraw cluster s := rfl
theorem exec_contextSave (s : State) :
    exec .contextSave s = execContextSave s := rfl
theorem exec_contextRestore (core : Nat) (ctx : Nat) (s : State) :
    exec (.contextRestore core ctx) s = execContextRestore core ctx s := rfl
theorem exec_tasks (part : Nat) (queue : Nat) (msg : List (BitVec 8)) (s : State) :
    exec (.tasks part queue msg) s = execTasks part queue msg s := rfl
theorem exec_replay (part : Nat) (queue : Nat) (msg : List (BitVec 8)) (s : State) :
    exec (.replay part queue msg) s = execReplay part queue msg s := rfl
theorem exec_queueCreate (part : Nat) (queue : Nat) (level : Nat) (weight : Nat) (ring : Nat) (s : State) :
    exec (.queueCreate part queue level weight ring) s = execQueueCreate part queue level weight ring s := rfl
theorem exec_queueDestroy (part : Nat) (queue : Nat) (s : State) :
    exec (.queueDestroy part queue) s = execQueueDestroy part queue s := rfl
theorem exec_arm (part : Nat) (tag : Nat) (queue : Nat) (msg : List (BitVec 8)) (bufLen : Nat) (bufVa : Nat) (rearm : Bool) (s : State) :
    exec (.arm part tag queue msg bufLen bufVa rearm) s = execArm part tag queue msg bufLen bufVa rearm s := rfl
theorem exec_disarm (part : Nat) (tag : Nat) (s : State) :
    exec (.disarm part tag) s = execDisarm part tag s := rfl
theorem exec_fire (part : Nat) (head payload : List (BitVec 8)) (s : State) :
    exec (.fire part head payload) s = execFire part head payload s := rfl
theorem exec_graphDefine (part : Nat) (graph : Nat) (nodes : List NodeMessage) (s : State) :
    exec (.graphDefine part graph nodes) s = execGraphDefine part graph nodes s := rfl
theorem exec_patch (part : Nat) (graph : Nat) (node : Nat) (new : NodeMessage) (s : State) :
    exec (.patch part graph node new) s = execPatch part graph node new s := rfl
theorem exec_collectiveGroupCreate (task group : Nat) (setup : GroupSetup) (s : State) :
    exec (.collectiveGroupCreate task group setup) s = execCollectiveGroupCreate task group setup s := rfl
theorem exec_partitionCreate (req : PartitionRequest) (s : State) :
    exec (.partitionCreate req) s = execPartitionCreate req s := rfl
theorem exec_partitionTeardown (part : Nat) (nonce : BitVec 64) (s : State) :
    exec (.partitionTeardown part nonce) s = execPartitionTeardown part nonce s := rfl
theorem exec_journalAck (s : State) :
    exec .journalAck s = execJournalAck s := rfl
theorem exec_uncorrectableErrorReport (fcore : Nat) (imem : Bool) (s : State) :
    exec (.uncorrectableErrorReport fcore imem) s = execUncorrectableErrorReport fcore imem s := rfl
theorem exec_takeover (s : State) :
    exec .takeover s = execTakeover s := rfl
theorem exec_jubileeSweep (index : Nat) (s : State) :
    exec (.jubileeSweep index) s = execJubileeSweep index s := rfl
theorem exec_tokenInvalidate (core : Nat) (index : Nat) (s : State) :
    exec (.tokenInvalidate core index) s = execTokenInvalidate core index s := rfl
theorem exec_sweepAck (core : Nat) (index : Nat) (s : State) :
    exec (.sweepAck core index) s = execSweepAck core index s := rfl
theorem exec_sweepAbort (core : Nat) (index : Nat) (s : State) :
    exec (.sweepAbort core index) s = execSweepAbort core index s := rfl
theorem exec_sweepFree (index : Nat) (s : State) :
    exec (.sweepFree index) s = execSweepFree index s := rfl
theorem exec_sealKeyRotation (index : Nat) (s : State) :
    exec (.sealKeyRotation index) s = execSealKeyRotation index s := rfl
theorem exec_pageMove (part : Nat) (page : Nat) (dest : PagePlace) (s : State) :
    exec (.pageMove part page dest) s = execPageMove part page dest s := rfl
theorem exec_lenderReclaim (pkg : Nat) (lo : Nat) (count : Nat) (s : State) :
    exec (.lenderReclaim pkg lo count) s = execLenderReclaim pkg lo count s := rfl
theorem exec_grantClose (pkg : Nat) (lo : Nat) (count : Nat) (s : State) :
    exec (.grantClose pkg lo count) s = execGrantClose pkg lo count s := rfl
theorem exec_grantOpen (pkg : Nat) (lo : Nat) (count : Nat) (s : State) :
    exec (.grantOpen pkg lo count) s = execGrantOpen pkg lo count s := rfl
theorem exec_potChange (frame : Nat) (world : World) (owner : FrameOwner) (mode : ProtMode) (s : State) :
    exec (.potChange frame world owner mode) s = execPotChange frame world owner mode s := rfl
theorem exec_remoteRequestArrival (req : RemoteRequest) (s : State) :
    exec (.remoteRequestArrival req) s = execRemoteRequestArrival req s := rfl
theorem exec_remoteRetransmit (port : Nat) (dest : Nat) (seq : Nat) (s : State) :
    exec (.remoteRetransmit port dest seq) s = execRemoteRetransmit port dest seq s := rfl
theorem exec_remoteRequestLost (core : Nat) (id : Nat) (s : State) :
    exec (.remoteRequestLost core id) s = execRemoteRequestLost core id s := rfl
theorem exec_axtosTrainingStart (link : LinkEnd) (s : State) :
    exec (.axtosTrainingStart link) s = execAxtosTrainingStart link s := rfl
theorem exec_axtosTrainingDone (link : LinkEnd) (ok : Bool) (s : State) :
    exec (.axtosTrainingDone link ok) s = execAxtosTrainingDone link ok s := rfl
theorem exec_axtosKeysInstalled (link : LinkEnd) (s : State) :
    exec (.axtosKeysInstalled link) s = execAxtosKeysInstalled link s := rfl
theorem exec_flitReceive (port : Nat) (seq : BitVec 16) (sealed : FlitSeal) (intact : Bool) (note : Option LinkNote) (s : State) :
    exec (.flitReceive port seq sealed intact note) s = execFlitReceive port seq sealed intact note s := rfl
theorem exec_linkRetry (port : Nat) (seq : BitVec 16) (s : State) :
    exec (.linkRetry port seq) s = execLinkRetry port seq s := rfl
theorem exec_rekeyTimeout (link : LinkEnd) (s : State) :
    exec (.rekeyTimeout link) s = execRekeyTimeout link s := rfl
theorem exec_spdmSession (peer : SpdmPeer) (algsOk : Bool) (measurement : Nat) (s : State) :
    exec (.spdmSession peer algsOk measurement) s = execSpdmSession peer algsOk measurement s := rfl
theorem exec_jobKeyGrant (part : Nat) (switch : Nat) (s : State) :
    exec (.jobKeyGrant part switch) s = execJobKeyGrant part switch s := rfl
theorem exec_jobKeyWithdraw (part : Nat) (loss : KeyLoss) (s : State) :
    exec (.jobKeyWithdraw part loss) s = execJobKeyWithdraw part loss s := rfl
theorem exec_uetConnectionSetup (peer : Nat) (opts : UetOptions) (s : State) :
    exec (.uetConnectionSetup peer opts) s = execUetConnectionSetup peer opts s := rfl
theorem exec_ptpLock (source : PtpSource) (s : State) :
    exec (.ptpLock source) s = execPtpLock source s := rfl
theorem exec_ptpSourceLoss (s : State) :
    exec .ptpSourceLoss s = execPtpSourceLoss s := rfl
theorem exec_samplecfgWrite (vcore : VirtualCore) (value : BitVec 64) (s : State) :
    exec (.samplecfgWrite vcore value) s = execSamplecfgWrite vcore value s := rfl
theorem exec_debugRequest (core : Nat) (value : BitVec 2) (s : State) :
    exec (.debugRequest core value) s = execDebugRequest core value s := rfl
theorem exec_scheduleStopArm (cores : List Nat) (cycle : Nat) (s : State) :
    exec (.scheduleStopArm cores cycle) s = execScheduleStopArm cores cycle s := rfl
theorem exec_scheduleCycleStop (s : State) :
    exec .scheduleCycleStop s = execScheduleCycleStop s := rfl
theorem exec_stopResume (core : Nat) (s : State) :
    exec (.stopResume core) s = execStopResume core s := rfl
theorem exec_liveDump (core : Nat) (s : State) :
    exec (.liveDump core) s = execLiveDump core s := rfl
theorem exec_firmwareImage (img : FirmwareImage) (s : State) :
    exec (.firmwareImage img) s = execFirmwareImage img s := rfl
theorem exec_transfer (req : OwnerRequest) (s : State) :
    exec (.transfer req) s = execTransfer req s := rfl
theorem exec_enrol (req : OwnerRequest) (s : State) :
    exec (.enrol req) s = execEnrol req s := rfl
theorem exec_thermalStop (die : Nat) (celsius : Nat) (s : State) :
    exec (.thermalStop die celsius) s = execThermalStop die celsius s := rfl
theorem exec_thermalResume (celsius : List Nat) (s : State) :
    exec (.thermalResume celsius) s = execThermalResume celsius s := rfl
theorem exec_thermalTrip (die : Nat) (celsius : Nat) (s : State) :
    exec (.thermalTrip die celsius) s = execThermalTrip die celsius s := rfl
theorem exec_powerOn (env : BootEnv) (s : State) :
    exec (.powerOn env) s = execPowerOn env s := rfl
theorem exec_moduleReset (env : BootEnv) (s : State) :
    exec (.moduleReset env) s = execModuleReset env s := rfl
theorem exec_recovery (img : FirmwareImage) (s : State) :
    exec (.recovery img) s = execRecovery img s := rfl
theorem exec_ptpSourceRegained (s : State) :
    exec .ptpSourceRegained s = execPtpSourceRegained s := rfl
theorem exec_rekeyComplete (link : LinkEnd) (s : State) :
    exec (.rekeyComplete link) s = execRekeyComplete link s := rfl
theorem exec_reclaimCompletion (pkg : Nat) (lo : Nat) (count : Nat) (s : State) :
    exec (.reclaimCompletion pkg lo count) s = execReclaimCompletion pkg lo count s := rfl
theorem exec_cumulativeAcknowledgement (pkg : Nat) (port : Nat) (dest : Nat) (seq : Nat) (s : State) :
    exec (.cumulativeAcknowledgement pkg port dest seq) s = execCumulativeAcknowledgement pkg port dest seq s := rfl
theorem exec_reservedEncoding (word : BitVec 32) (s : State) :
    exec (.reservedEncoding word) s = execReservedEncoding word s := rfl
theorem exec_reservedEngineWord (word : BitVec 16) (s : State) :
    exec (.reservedEngineWord word) s = execReservedEngineWord word s := rfl

end Sys2Proof.Machine
end

