-- ==== Sys2Proof/Laws/State.lean ====
section
/-! SUPPORT. One lemma per field per update: what `State.mod` and the small updates of a core leave alone. -/

namespace Sys2Proof.Machine

@[simp] theorem State.mod_core (s : State) (f : Core → Core) : (s.mod f).core = f s.core := rfl
@[simp] theorem State.mod_others (s : State) (f : Core → Core) : (s.mod f).others = s.others := rfl
@[simp] theorem State.mod_clusters (s : State) (f : Core → Core) : (s.mod f).clusters = s.clusters := rfl
@[simp] theorem State.mod_dies (s : State) (f : Core → Core) : (s.mod f).dies = s.dies := rfl
@[simp] theorem State.mod_mem (s : State) (f : Core → Core) : (s.mod f).mem = s.mem := rfl
@[simp] theorem State.mod_marks (s : State) (f : Core → Core) : (s.mod f).marks = s.marks := rfl
@[simp] theorem State.mod_floor (s : State) (f : Core → Core) : (s.mod f).floor = s.floor := rfl
@[simp] theorem State.mod_pkgWaiters (s : State) (f : Core → Core) : (s.mod f).pkgWaiters = s.pkgWaiters := rfl
@[simp] theorem State.mod_lentMem (s : State) (f : Core → Core) : (s.mod f).lentMem = s.lentMem := rfl
@[simp] theorem State.mod_lentWaiters (s : State) (f : Core → Core) : (s.mod f).lentWaiters = s.lentWaiters := rfl
@[simp] theorem State.mod_remoteWaits (s : State) (f : Core → Core) : (s.mod f).remoteWaits = s.remoteWaits := rfl
@[simp] theorem State.mod_poisonLines (s : State) (f : Core → Core) : (s.mod f).poisonLines = s.poisonLines := rfl
@[simp] theorem State.mod_macLines (s : State) (f : Core → Core) : (s.mod f).macLines = s.macLines := rfl
@[simp] theorem State.mod_macNodes (s : State) (f : Core → Core) : (s.mod f).macNodes = s.macNodes := rfl
@[simp] theorem State.mod_poisonNodes (s : State) (f : Core → Core) : (s.mod f).poisonNodes = s.poisonNodes := rfl
@[simp] theorem State.mod_correctedLines (s : State) (f : Core → Core) : (s.mod f).correctedLines = s.correctedLines := rfl
@[simp] theorem State.mod_writeCtr (s : State) (f : Core → Core) : (s.mod f).writeCtr = s.writeCtr := rfl
@[simp] theorem State.mod_treeCtr (s : State) (f : Core → Core) : (s.mod f).treeCtr = s.treeCtr := rfl
@[simp] theorem State.mod_treeRoot (s : State) (f : Core → Core) : (s.mod f).treeRoot = s.treeRoot := rfl
@[simp] theorem State.mod_lineMac (s : State) (f : Core → Core) : (s.mod f).lineMac = s.lineMac := rfl
@[simp] theorem State.mod_nodeMac (s : State) (f : Core → Core) : (s.mod f).nodeMac = s.nodeMac := rfl
@[simp] theorem State.mod_keyStores (s : State) (f : Core → Core) : (s.mod f).keyStores = s.keyStores := rfl
@[simp] theorem State.mod_pools (s : State) (f : Core → Core) : (s.mod f).pools = s.pools := rfl
@[simp] theorem State.mod_almanac (s : State) (f : Core → Core) : (s.mod f).almanac = s.almanac := rfl
@[simp] theorem State.mod_pot (s : State) (f : Core → Core) : (s.mod f).pot = s.pot := rfl
@[simp] theorem State.mod_parts (s : State) (f : Core → Core) : (s.mod f).parts = s.parts := rfl
@[simp] theorem State.mod_tasks (s : State) (f : Core → Core) : (s.mod f).tasks = s.tasks := rfl
@[simp] theorem State.mod_taskNext (s : State) (f : Core → Core) : (s.mod f).taskNext = s.taskNext := rfl
@[simp] theorem State.mod_packetNext (s : State) (f : Core → Core) : (s.mod f).packetNext = s.packetNext := rfl
@[simp] theorem State.mod_queues (s : State) (f : Core → Core) : (s.mod f).queues = s.queues := rfl
@[simp] theorem State.mod_arms (s : State) (f : Core → Core) : (s.mod f).arms = s.arms := rfl
@[simp] theorem State.mod_saved (s : State) (f : Core → Core) : (s.mod f).saved = s.saved := rfl
@[simp] theorem State.mod_dumps (s : State) (f : Core → Core) : (s.mod f).dumps = s.dumps := rfl
@[simp] theorem State.mod_fw (s : State) (f : Core → Core) : (s.mod f).fw = s.fw := rfl
@[simp] theorem State.mod_ports (s : State) (f : Core → Core) : (s.mod f).ports = s.ports := rfl
@[simp] theorem State.mod_filter (s : State) (f : Core → Core) : (s.mod f).filter = s.filter := rfl
@[simp] theorem State.mod_replies (s : State) (f : Core → Core) : (s.mod f).replies = s.replies := rfl
@[simp] theorem State.mod_outbox (s : State) (f : Core → Core) : (s.mod f).outbox = s.outbox := rfl
@[simp] theorem State.mod_switches (s : State) (f : Core → Core) : (s.mod f).switches = s.switches := rfl
@[simp] theorem State.mod_grants (s : State) (f : Core → Core) : (s.mod f).grants = s.grants := rfl
@[simp] theorem State.mod_borrowed (s : State) (f : Core → Core) : (s.mod f).borrowed = s.borrowed := rfl
@[simp] theorem State.mod_uet (s : State) (f : Core → Core) : (s.mod f).uet = s.uet := rfl
@[simp] theorem State.mod_ptp (s : State) (f : Core → Core) : (s.mod f).ptp = s.ptp := rfl
@[simp] theorem State.mod_trust (s : State) (f : Core → Core) : (s.mod f).trust = s.trust := rfl
@[simp] theorem State.mod_boot (s : State) (f : Core → Core) : (s.mod f).boot = s.boot := rfl
@[simp] theorem State.mod_bootStep (s : State) (f : Core → Core) : (s.mod f).bootStep = s.bootStep := rfl
@[simp] theorem State.mod_keyNext (s : State) (f : Core → Core) : (s.mod f).keyNext = s.keyNext := rfl
@[simp] theorem State.mod_releases (s : State) (f : Core → Core) : (s.mod f).releases = s.releases := rfl
@[simp] theorem State.mod_potWork (s : State) (f : Core → Core) : (s.mod f).potWork = s.potWork := rfl
@[simp] theorem State.mod_moves (s : State) (f : Core → Core) : (s.mod f).moves = s.moves := rfl
@[simp] theorem State.mod_held (s : State) (f : Core → Core) : (s.mod f).held = s.held := rfl
@[simp] theorem State.mod_fwDue (s : State) (f : Core → Core) : (s.mod f).fwDue = s.fwDue := rfl
@[simp] theorem State.mod_now (s : State) (f : Core → Core) : (s.mod f).now = s.now := rfl
@[simp] theorem State.mod_turnEng (s : State) (f : Core → Core) : (s.mod f).turnEng = s.turnEng := rfl
@[simp] theorem State.mod_phase (s : State) (f : Core → Core) : (s.mod f).phase = s.phase := rfl
@[simp] theorem State.mod_slice (s : State) (f : Core → Core) : (s.mod f).slice = s.slice := rfl
@[simp] theorem State.mod_left (s : State) (f : Core → Core) : (s.mod f).left = s.left := rfl
@[simp] theorem State.mod_inputs (s : State) (f : Core → Core) : (s.mod f).inputs = s.inputs := rfl
@[simp] theorem State.mod_fv (s : State) (f : Core → Core) : (s.mod f).fv = s.fv := rfl
@[simp] theorem State.mod_seq (s : State) (f : Core → Core) : (s.mod f).seq = s.seq := rfl

@[simp] theorem Core.ws_phys (c : Core) (r : BitVec 5) (x : Word) : (c.ws r x).phys = c.phys := by unfold Core.ws; split <;> rfl
@[simp] theorem Core.ws_ctx (c : Core) (r : BitVec 5) (x : Word) : (c.ws r x).ctx = c.ctx := by unfold Core.ws; split <;> rfl
@[simp] theorem Core.ws_task (c : Core) (r : BitVec 5) (x : Word) : (c.ws r x).task = c.task := by unfold Core.ws; split <;> rfl
@[simp] theorem Core.ws_v (c : Core) (r : BitVec 5) (x : Word) : (c.ws r x).v = c.v := by unfold Core.ws; split <;> rfl
@[simp] theorem Core.ws_p (c : Core) (r : BitVec 5) (x : Word) : (c.ws r x).p = c.p := by unfold Core.ws; split <;> rfl
@[simp] theorem Core.ws_k (c : Core) (r : BitVec 5) (x : Word) : (c.ws r x).k = c.k := by unfold Core.ws; split <;> rfl
@[simp] theorem Core.ws_b (c : Core) (r : BitVec 5) (x : Word) : (c.ws r x).b = c.b := by unfold Core.ws; split <;> rfl
@[simp] theorem Core.ws_bc (c : Core) (r : BitVec 5) (x : Word) : (c.ws r x).bc = c.bc := by unfold Core.ws; split <;> rfl
@[simp] theorem Core.ws_lc (c : Core) (r : BitVec 5) (x : Word) : (c.ws r x).lc = c.lc := by unfold Core.ws; split <;> rfl
@[simp] theorem Core.ws_ls (c : Core) (r : BitVec 5) (x : Word) : (c.ws r x).ls = c.ls := by unfold Core.ws; split <;> rfl
@[simp] theorem Core.ws_le (c : Core) (r : BitVec 5) (x : Word) : (c.ws r x).le = c.le := by unfold Core.ws; split <;> rfl
@[simp] theorem Core.ws_heldLs (c : Core) (r : BitVec 5) (x : Word) : (c.ws r x).heldLs = c.heldLs := by unfold Core.ws; split <;> rfl
@[simp] theorem Core.ws_heldLe (c : Core) (r : BitVec 5) (x : Word) : (c.ws r x).heldLe = c.heldLe := by unfold Core.ws; split <;> rfl
@[simp] theorem Core.ws_pc (c : Core) (r : BitVec 5) (x : Word) : (c.ws r x).pc = c.pc := by unfold Core.ws; split <;> rfl
@[simp] theorem Core.ws_slots (c : Core) (r : BitVec 5) (x : Word) : (c.ws r x).slots = c.slots := by unfold Core.ws; split <;> rfl
@[simp] theorem Core.ws_oob (c : Core) (r : BitVec 5) (x : Word) : (c.ws r x).oob = c.oob := by unfold Core.ws; split <;> rfl
@[simp] theorem Core.ws_revpend (c : Core) (r : BitVec 5) (x : Word) : (c.ws r x).revpend = c.revpend := by unfold Core.ws; split <;> rfl
@[simp] theorem Core.ws_inh (c : Core) (r : BitVec 5) (x : Word) : (c.ws r x).inh = c.inh := by unfold Core.ws; split <;> rfl
@[simp] theorem Core.ws_dsField (c : Core) (r : BitVec 5) (x : Word) : (c.ws r x).dsField = c.dsField := by unfold Core.ws; split <;> rfl
@[simp] theorem Core.ws_trapCause (c : Core) (r : BitVec 5) (x : Word) : (c.ws r x).trapCause = c.trapCause := by unfold Core.ws; split <;> rfl
@[simp] theorem Core.ws_trapPc (c : Core) (r : BitVec 5) (x : Word) : (c.ws r x).trapPc = c.trapPc := by unfold Core.ws; split <;> rfl
@[simp] theorem Core.ws_trapVal (c : Core) (r : BitVec 5) (x : Word) : (c.ws r x).trapVal = c.trapVal := by unfold Core.ws; split <;> rfl
@[simp] theorem Core.ws_trapTgt (c : Core) (r : BitVec 5) (x : Word) : (c.ws r x).trapTgt = c.trapTgt := by unfold Core.ws; split <;> rfl
@[simp] theorem Core.ws_tvec (c : Core) (r : BitVec 5) (x : Word) : (c.ws r x).tvec = c.tvec := by unfold Core.ws; split <;> rfl
@[simp] theorem Core.ws_sbase (c : Core) (r : BitVec 5) (x : Word) : (c.ws r x).sbase = c.sbase := by unfold Core.ws; split <;> rfl
@[simp] theorem Core.ws_slimit (c : Core) (r : BitVec 5) (x : Word) : (c.ws r x).slimit = c.slimit := by unfold Core.ws; split <;> rfl
@[simp] theorem Core.ws_calendar (c : Core) (r : BitVec 5) (x : Word) : (c.ws r x).calendar = c.calendar := by unfold Core.ws; split <;> rfl
@[simp] theorem Core.ws_vigil (c : Core) (r : BitVec 5) (x : Word) : (c.ws r x).vigil = c.vigil := by unfold Core.ws; split <;> rfl
@[simp] theorem Core.ws_tags (c : Core) (r : BitVec 5) (x : Word) : (c.ws r x).tags = c.tags := by unfold Core.ws; split <;> rfl
@[simp] theorem Core.ws_tagrev (c : Core) (r : BitVec 5) (x : Word) : (c.ws r x).tagrev = c.tagrev := by unfold Core.ws; split <;> rfl
@[simp] theorem Core.ws_oobcnt (c : Core) (r : BitVec 5) (x : Word) : (c.ws r x).oobcnt = c.oobcnt := by unfold Core.ws; split <;> rfl
@[simp] theorem Core.ws_fmtstat (c : Core) (r : BitVec 5) (x : Word) : (c.ws r x).fmtstat = c.fmtstat := by unfold Core.ws; split <;> rfl
@[simp] theorem Core.ws_waitcfg (c : Core) (r : BitVec 5) (x : Word) : (c.ws r x).waitcfg = c.waitcfg := by unfold Core.ws; split <;> rfl
@[simp] theorem Core.ws_crew (c : Core) (r : BitVec 5) (x : Word) : (c.ws r x).crew = c.crew := by unfold Core.ws; split <;> rfl
@[simp] theorem Core.ws_vtopo (c : Core) (r : BitVec 5) (x : Word) : (c.ws r x).vtopo = c.vtopo := by unfold Core.ws; split <;> rfl
@[simp] theorem Core.ws_poolAt (c : Core) (r : BitVec 5) (x : Word) : (c.ws r x).poolAt = c.poolAt := by unfold Core.ws; split <;> rfl
@[simp] theorem Core.ws_dbgcfg (c : Core) (r : BitVec 5) (x : Word) : (c.ws r x).dbgcfg = c.dbgcfg := by unfold Core.ws; split <;> rfl
@[simp] theorem Core.ws_samplecfg (c : Core) (r : BitVec 5) (x : Word) : (c.ws r x).samplecfg = c.samplecfg := by unfold Core.ws; split <;> rfl
@[simp] theorem Core.ws_wpbase (c : Core) (r : BitVec 5) (x : Word) : (c.ws r x).wpbase = c.wpbase := by unfold Core.ws; split <;> rfl
@[simp] theorem Core.ws_wpmask (c : Core) (r : BitVec 5) (x : Word) : (c.ws r x).wpmask = c.wpmask := by unfold Core.ws; split <;> rfl
@[simp] theorem Core.ws_ctrsel (c : Core) (r : BitVec 5) (x : Word) : (c.ws r x).ctrsel = c.ctrsel := by unfold Core.ws; split <;> rfl
@[simp] theorem Core.ws_ctrval (c : Core) (r : BitVec 5) (x : Word) : (c.ws r x).ctrval = c.ctrval := by unfold Core.ws; split <;> rfl
@[simp] theorem Core.ws_ctrRead (c : Core) (r : BitVec 5) (x : Word) : (c.ws r x).ctrRead = c.ctrRead := by unfold Core.ws; split <;> rfl
@[simp] theorem Core.ws_rows (c : Core) (r : BitVec 5) (x : Word) : (c.ws r x).rows = c.rows := by unfold Core.ws; split <;> rfl
@[simp] theorem Core.ws_rowReads (c : Core) (r : BitVec 5) (x : Word) : (c.ws r x).rowReads = c.rowReads := by unfold Core.ws; split <;> rfl
@[simp] theorem Core.ws_lastRow (c : Core) (r : BitVec 5) (x : Word) : (c.ws r x).lastRow = c.lastRow := by unfold Core.ws; split <;> rfl
@[simp] theorem Core.ws_jumped (c : Core) (r : BitVec 5) (x : Word) : (c.ws r x).jumped = c.jumped := by unfold Core.ws; split <;> rfl
@[simp] theorem Core.ws_coFence (c : Core) (r : BitVec 5) (x : Word) : (c.ws r x).coFence = c.coFence := by unfold Core.ws; split <;> rfl
@[simp] theorem Core.ws_scr (c : Core) (r : BitVec 5) (x : Word) : (c.ws r x).scr = c.scr := by unfold Core.ws; split <;> rfl
@[simp] theorem Core.ws_lanes (c : Core) (r : BitVec 5) (x : Word) : (c.ws r x).lanes = c.lanes := by unfold Core.ws; split <;> rfl
@[simp] theorem Core.ws_wb (c : Core) (r : BitVec 5) (x : Word) : (c.ws r x).wb = c.wb := by unfold Core.ws; split <;> rfl
@[simp] theorem Core.ws_timed (c : Core) (r : BitVec 5) (x : Word) : (c.ws r x).timed = c.timed := by unfold Core.ws; split <;> rfl
@[simp] theorem Core.ws_locks (c : Core) (r : BitVec 5) (x : Word) : (c.ws r x).locks = c.locks := by unfold Core.ws; split <;> rfl
@[simp] theorem Core.ws_bankReads (c : Core) (r : BitVec 5) (x : Word) : (c.ws r x).bankReads = c.bankReads := by unfold Core.ws; split <;> rfl
@[simp] theorem Core.ws_bankWrites (c : Core) (r : BitVec 5) (x : Word) : (c.ws r x).bankWrites = c.bankWrites := by unfold Core.ws; split <;> rfl
@[simp] theorem Core.ws_late (c : Core) (r : BitVec 5) (x : Word) : (c.ws r x).late = c.late := by unfold Core.ws; split <;> rfl
@[simp] theorem Core.ws_ready (c : Core) (r : BitVec 5) (x : Word) : (c.ws r x).ready = c.ready := by unfold Core.ws; split <;> rfl
@[simp] theorem Core.ws_btime (c : Core) (r : BitVec 5) (x : Word) : (c.ws r x).btime = c.btime := by unfold Core.ws; split <;> rfl
@[simp] theorem Core.ws_nextIssue (c : Core) (r : BitVec 5) (x : Word) : (c.ws r x).nextIssue = c.nextIssue := by unfold Core.ws; split <;> rfl
@[simp] theorem Core.ws_vecFree (c : Core) (r : BitVec 5) (x : Word) : (c.ws r x).vecFree = c.vecFree := by unfold Core.ws; split <;> rfl
@[simp] theorem Core.ws_divFree (c : Core) (r : BitVec 5) (x : Word) : (c.ws r x).divFree = c.divFree := by unfold Core.ws; split <;> rfl
@[simp] theorem Core.ws_quantDone (c : Core) (r : BitVec 5) (x : Word) : (c.ws r x).quantDone = c.quantDone := by unfold Core.ws; split <;> rfl
@[simp] theorem Core.ws_acc (c : Core) (r : BitVec 5) (x : Word) : (c.ws r x).acc = c.acc := by unfold Core.ws; split <;> rfl
@[simp] theorem Core.ws_accNext (c : Core) (r : BitVec 5) (x : Word) : (c.ws r x).accNext = c.accNext := by unfold Core.ws; split <;> rfl
@[simp] theorem Core.ws_dep (c : Core) (r : BitVec 5) (x : Word) : (c.ws r x).dep = c.dep := by unfold Core.ws; split <;> rfl
@[simp] theorem Core.ws_depMsc (c : Core) (r : BitVec 5) (x : Word) : (c.ws r x).depMsc = c.depMsc := by unfold Core.ws; split <;> rfl
@[simp] theorem Core.ws_mscSeen (c : Core) (r : BitVec 5) (x : Word) : (c.ws r x).mscSeen = c.mscSeen := by unfold Core.ws; split <;> rfl
@[simp] theorem Core.ws_tfc (c : Core) (r : BitVec 5) (x : Word) : (c.ws r x).tfc = c.tfc := by unfold Core.ws; split <;> rfl
@[simp] theorem Core.ws_tfcReq (c : Core) (r : BitVec 5) (x : Word) : (c.ws r x).tfcReq = c.tfcReq := by unfold Core.ws; split <;> rfl
@[simp] theorem Core.ws_marks (c : Core) (r : BitVec 5) (x : Word) : (c.ws r x).marks = c.marks := by unfold Core.ws; split <;> rfl
@[simp] theorem Core.ws_owed (c : Core) (r : BitVec 5) (x : Word) : (c.ws r x).owed = c.owed := by unfold Core.ws; split <;> rfl
@[simp] theorem Core.ws_redOwed (c : Core) (r : BitVec 5) (x : Word) : (c.ws r x).redOwed = c.redOwed := by unfold Core.ws; split <;> rfl
@[simp] theorem Core.ws_redHeld (c : Core) (r : BitVec 5) (x : Word) : (c.ws r x).redHeld = c.redHeld := by unfold Core.ws; split <;> rfl
@[simp] theorem Core.ws_engPoison (c : Core) (r : BitVec 5) (x : Word) : (c.ws r x).engPoison = c.engPoison := by unfold Core.ws; split <;> rfl
@[simp] theorem Core.ws_watchNow (c : Core) (r : BitVec 5) (x : Word) : (c.ws r x).watchNow = c.watchNow := by unfold Core.ws; split <;> rfl
@[simp] theorem Core.ws_watchQ (c : Core) (r : BitVec 5) (x : Word) : (c.ws r x).watchQ = c.watchQ := by unfold Core.ws; split <;> rfl
@[simp] theorem Core.ws_watchLost (c : Core) (r : BitVec 5) (x : Word) : (c.ws r x).watchLost = c.watchLost := by unfold Core.ws; split <;> rfl
@[simp] theorem Core.ws_watchFly (c : Core) (r : BitVec 5) (x : Word) : (c.ws r x).watchFly = c.watchFly := by unfold Core.ws; split <;> rfl
@[simp] theorem Core.ws_waiting (c : Core) (r : BitVec 5) (x : Word) : (c.ws r x).waiting = c.waiting := by unfold Core.ws; split <;> rfl
@[simp] theorem Core.ws_waitStart (c : Core) (r : BitVec 5) (x : Word) : (c.ws r x).waitStart = c.waitStart := by unfold Core.ws; split <;> rfl
@[simp] theorem Core.ws_waitCal (c : Core) (r : BitVec 5) (x : Word) : (c.ws r x).waitCal = c.waitCal := by unfold Core.ws; split <;> rfl
@[simp] theorem Core.ws_preempt (c : Core) (r : BitVec 5) (x : Word) : (c.ws r x).preempt = c.preempt := by unfold Core.ws; split <;> rfl
@[simp] theorem Core.ws_dump (c : Core) (r : BitVec 5) (x : Word) : (c.ws r x).dump = c.dump := by unfold Core.ws; split <;> rfl
@[simp] theorem Core.ws_stopAt (c : Core) (r : BitVec 5) (x : Word) : (c.ws r x).stopAt = c.stopAt := by unfold Core.ws; split <;> rfl
@[simp] theorem Core.ws_sweeps (c : Core) (r : BitVec 5) (x : Word) : (c.ws r x).sweeps = c.sweeps := by unfold Core.ws; split <;> rfl
@[simp] theorem Core.ws_matrix (c : Core) (r : BitVec 5) (x : Word) : (c.ws r x).matrix = c.matrix := by unfold Core.ws; split <;> rfl
@[simp] theorem Core.ws_copy (c : Core) (r : BitVec 5) (x : Word) : (c.ws r x).copy = c.copy := by unfold Core.ws; split <;> rfl
@[simp] theorem Core.ws_lantern (c : Core) (r : BitVec 5) (x : Word) : (c.ws r x).lantern = c.lantern := by unfold Core.ws; split <;> rfl
@[simp] theorem Core.ws_cmdNext (c : Core) (r : BitVec 5) (x : Word) : (c.ws r x).cmdNext = c.cmdNext := by unfold Core.ws; split <;> rfl
@[simp] theorem Core.ws_fq (c : Core) (r : BitVec 5) (x : Word) : (c.ws r x).fq = c.fq := by unfold Core.ws; split <;> rfl
@[simp] theorem Core.ws_tiles (c : Core) (r : BitVec 5) (x : Word) : (c.ws r x).tiles = c.tiles := by unfold Core.ws; split <;> rfl
@[simp] theorem Core.ws_tileFinal (c : Core) (r : BitVec 5) (x : Word) : (c.ws r x).tileFinal = c.tileFinal := by unfold Core.ws; split <;> rfl
@[simp] theorem Core.ws_curves (c : Core) (r : BitVec 5) (x : Word) : (c.ws r x).curves = c.curves := by unfold Core.ws; split <;> rfl
@[simp] theorem Core.ws_lan (c : Core) (r : BitVec 5) (x : Word) : (c.ws r x).lan = c.lan := by unfold Core.ws; split <;> rfl
@[simp] theorem Core.ws_eqx (c : Core) (r : BitVec 5) (x : Word) : (c.ws r x).eqx = c.eqx := by unfold Core.ws; split <;> rfl
@[simp] theorem Core.ws_doneNow (c : Core) (r : BitVec 5) (x : Word) : (c.ws r x).doneNow = c.doneNow := by unfold Core.ws; split <;> rfl
@[simp] theorem Core.ws_fmtNow (c : Core) (r : BitVec 5) (x : Word) : (c.ws r x).fmtNow = c.fmtNow := by unfold Core.ws; split <;> rfl
@[simp] theorem Core.ws_fmtLate (c : Core) (r : BitVec 5) (x : Word) : (c.ws r x).fmtLate = c.fmtLate := by unfold Core.ws; split <;> rfl
@[simp] theorem Core.ws_statusNow (c : Core) (r : BitVec 5) (x : Word) : (c.ws r x).statusNow = c.statusNow := by unfold Core.ws; split <;> rfl
@[simp] theorem Core.ws_acted (c : Core) (r : BitVec 5) (x : Word) : (c.ws r x).acted = c.acted := by unfold Core.ws; split <;> rfl
@[simp] theorem Core.ws_headPc (c : Core) (r : BitVec 5) (x : Word) : (c.ws r x).headPc = c.headPc := by unfold Core.ws; split <;> rfl
@[simp] theorem Core.ws_headSlot (c : Core) (r : BitVec 5) (x : Word) : (c.ws r x).headSlot = c.headSlot := by unfold Core.ws; split <;> rfl
@[simp] theorem Core.ws_headRun (c : Core) (r : BitVec 5) (x : Word) : (c.ws r x).headRun = c.headRun := by unfold Core.ws; split <;> rfl
@[simp] theorem Core.ws_headInh (c : Core) (r : BitVec 5) (x : Word) : (c.ws r x).headInh = c.headInh := by unfold Core.ws; split <;> rfl
@[simp] theorem Core.ws_frozenAt (c : Core) (r : BitVec 5) (x : Word) : (c.ws r x).frozenAt = c.frozenAt := by unfold Core.ws; split <;> rfl
@[simp] theorem Core.ws_cur (c : Core) (r : BitVec 5) (x : Word) : (c.ws r x).cur = c.cur := by unfold Core.ws; split <;> rfl
@[simp] theorem Core.ws_stall (c : Core) (r : BitVec 5) (x : Word) : (c.ws r x).stall = c.stall := by unfold Core.ws; split <;> rfl
@[simp] theorem Core.ws_events (c : Core) (r : BitVec 5) (x : Word) : (c.ws r x).events = c.events := by unfold Core.ws; split <;> rfl

@[simp] theorem Core.wv_phys (c : Core) (r : BitVec 4) (x : VReg) : (c.wv r x).phys = c.phys := rfl
@[simp] theorem Core.wv_ctx (c : Core) (r : BitVec 4) (x : VReg) : (c.wv r x).ctx = c.ctx := rfl
@[simp] theorem Core.wv_task (c : Core) (r : BitVec 4) (x : VReg) : (c.wv r x).task = c.task := rfl
@[simp] theorem Core.wv_s (c : Core) (r : BitVec 4) (x : VReg) : (c.wv r x).s = c.s := rfl
@[simp] theorem Core.wv_p (c : Core) (r : BitVec 4) (x : VReg) : (c.wv r x).p = c.p := rfl
@[simp] theorem Core.wv_k (c : Core) (r : BitVec 4) (x : VReg) : (c.wv r x).k = c.k := rfl
@[simp] theorem Core.wv_b (c : Core) (r : BitVec 4) (x : VReg) : (c.wv r x).b = c.b := rfl
@[simp] theorem Core.wv_bc (c : Core) (r : BitVec 4) (x : VReg) : (c.wv r x).bc = c.bc := rfl
@[simp] theorem Core.wv_lc (c : Core) (r : BitVec 4) (x : VReg) : (c.wv r x).lc = c.lc := rfl
@[simp] theorem Core.wv_ls (c : Core) (r : BitVec 4) (x : VReg) : (c.wv r x).ls = c.ls := rfl
@[simp] theorem Core.wv_le (c : Core) (r : BitVec 4) (x : VReg) : (c.wv r x).le = c.le := rfl
@[simp] theorem Core.wv_heldLs (c : Core) (r : BitVec 4) (x : VReg) : (c.wv r x).heldLs = c.heldLs := rfl
@[simp] theorem Core.wv_heldLe (c : Core) (r : BitVec 4) (x : VReg) : (c.wv r x).heldLe = c.heldLe := rfl
@[simp] theorem Core.wv_pc (c : Core) (r : BitVec 4) (x : VReg) : (c.wv r x).pc = c.pc := rfl
@[simp] theorem Core.wv_slots (c : Core) (r : BitVec 4) (x : VReg) : (c.wv r x).slots = c.slots := rfl
@[simp] theorem Core.wv_oob (c : Core) (r : BitVec 4) (x : VReg) : (c.wv r x).oob = c.oob := rfl
@[simp] theorem Core.wv_revpend (c : Core) (r : BitVec 4) (x : VReg) : (c.wv r x).revpend = c.revpend := rfl
@[simp] theorem Core.wv_inh (c : Core) (r : BitVec 4) (x : VReg) : (c.wv r x).inh = c.inh := rfl
@[simp] theorem Core.wv_dsField (c : Core) (r : BitVec 4) (x : VReg) : (c.wv r x).dsField = c.dsField := rfl
@[simp] theorem Core.wv_trapCause (c : Core) (r : BitVec 4) (x : VReg) : (c.wv r x).trapCause = c.trapCause := rfl
@[simp] theorem Core.wv_trapPc (c : Core) (r : BitVec 4) (x : VReg) : (c.wv r x).trapPc = c.trapPc := rfl
@[simp] theorem Core.wv_trapVal (c : Core) (r : BitVec 4) (x : VReg) : (c.wv r x).trapVal = c.trapVal := rfl
@[simp] theorem Core.wv_trapTgt (c : Core) (r : BitVec 4) (x : VReg) : (c.wv r x).trapTgt = c.trapTgt := rfl
@[simp] theorem Core.wv_tvec (c : Core) (r : BitVec 4) (x : VReg) : (c.wv r x).tvec = c.tvec := rfl
@[simp] theorem Core.wv_sbase (c : Core) (r : BitVec 4) (x : VReg) : (c.wv r x).sbase = c.sbase := rfl
@[simp] theorem Core.wv_slimit (c : Core) (r : BitVec 4) (x : VReg) : (c.wv r x).slimit = c.slimit := rfl
@[simp] theorem Core.wv_calendar (c : Core) (r : BitVec 4) (x : VReg) : (c.wv r x).calendar = c.calendar := rfl
@[simp] theorem Core.wv_vigil (c : Core) (r : BitVec 4) (x : VReg) : (c.wv r x).vigil = c.vigil := rfl
@[simp] theorem Core.wv_tags (c : Core) (r : BitVec 4) (x : VReg) : (c.wv r x).tags = c.tags := rfl
@[simp] theorem Core.wv_tagrev (c : Core) (r : BitVec 4) (x : VReg) : (c.wv r x).tagrev = c.tagrev := rfl
@[simp] theorem Core.wv_oobcnt (c : Core) (r : BitVec 4) (x : VReg) : (c.wv r x).oobcnt = c.oobcnt := rfl
@[simp] theorem Core.wv_fmtstat (c : Core) (r : BitVec 4) (x : VReg) : (c.wv r x).fmtstat = c.fmtstat := rfl
@[simp] theorem Core.wv_waitcfg (c : Core) (r : BitVec 4) (x : VReg) : (c.wv r x).waitcfg = c.waitcfg := rfl
@[simp] theorem Core.wv_crew (c : Core) (r : BitVec 4) (x : VReg) : (c.wv r x).crew = c.crew := rfl
@[simp] theorem Core.wv_vtopo (c : Core) (r : BitVec 4) (x : VReg) : (c.wv r x).vtopo = c.vtopo := rfl
@[simp] theorem Core.wv_poolAt (c : Core) (r : BitVec 4) (x : VReg) : (c.wv r x).poolAt = c.poolAt := rfl
@[simp] theorem Core.wv_dbgcfg (c : Core) (r : BitVec 4) (x : VReg) : (c.wv r x).dbgcfg = c.dbgcfg := rfl
@[simp] theorem Core.wv_samplecfg (c : Core) (r : BitVec 4) (x : VReg) : (c.wv r x).samplecfg = c.samplecfg := rfl
@[simp] theorem Core.wv_wpbase (c : Core) (r : BitVec 4) (x : VReg) : (c.wv r x).wpbase = c.wpbase := rfl
@[simp] theorem Core.wv_wpmask (c : Core) (r : BitVec 4) (x : VReg) : (c.wv r x).wpmask = c.wpmask := rfl
@[simp] theorem Core.wv_ctrsel (c : Core) (r : BitVec 4) (x : VReg) : (c.wv r x).ctrsel = c.ctrsel := rfl
@[simp] theorem Core.wv_ctrval (c : Core) (r : BitVec 4) (x : VReg) : (c.wv r x).ctrval = c.ctrval := rfl
@[simp] theorem Core.wv_ctrRead (c : Core) (r : BitVec 4) (x : VReg) : (c.wv r x).ctrRead = c.ctrRead := rfl
@[simp] theorem Core.wv_rows (c : Core) (r : BitVec 4) (x : VReg) : (c.wv r x).rows = c.rows := rfl
@[simp] theorem Core.wv_rowReads (c : Core) (r : BitVec 4) (x : VReg) : (c.wv r x).rowReads = c.rowReads := rfl
@[simp] theorem Core.wv_lastRow (c : Core) (r : BitVec 4) (x : VReg) : (c.wv r x).lastRow = c.lastRow := rfl
@[simp] theorem Core.wv_jumped (c : Core) (r : BitVec 4) (x : VReg) : (c.wv r x).jumped = c.jumped := rfl
@[simp] theorem Core.wv_coFence (c : Core) (r : BitVec 4) (x : VReg) : (c.wv r x).coFence = c.coFence := rfl
@[simp] theorem Core.wv_scr (c : Core) (r : BitVec 4) (x : VReg) : (c.wv r x).scr = c.scr := rfl
@[simp] theorem Core.wv_lanes (c : Core) (r : BitVec 4) (x : VReg) : (c.wv r x).lanes = c.lanes := rfl
@[simp] theorem Core.wv_wb (c : Core) (r : BitVec 4) (x : VReg) : (c.wv r x).wb = c.wb := rfl
@[simp] theorem Core.wv_timed (c : Core) (r : BitVec 4) (x : VReg) : (c.wv r x).timed = c.timed := rfl
@[simp] theorem Core.wv_locks (c : Core) (r : BitVec 4) (x : VReg) : (c.wv r x).locks = c.locks := rfl
@[simp] theorem Core.wv_bankReads (c : Core) (r : BitVec 4) (x : VReg) : (c.wv r x).bankReads = c.bankReads := rfl
@[simp] theorem Core.wv_bankWrites (c : Core) (r : BitVec 4) (x : VReg) : (c.wv r x).bankWrites = c.bankWrites := rfl
@[simp] theorem Core.wv_late (c : Core) (r : BitVec 4) (x : VReg) : (c.wv r x).late = c.late := rfl
@[simp] theorem Core.wv_ready (c : Core) (r : BitVec 4) (x : VReg) : (c.wv r x).ready = c.ready := rfl
@[simp] theorem Core.wv_btime (c : Core) (r : BitVec 4) (x : VReg) : (c.wv r x).btime = c.btime := rfl
@[simp] theorem Core.wv_nextIssue (c : Core) (r : BitVec 4) (x : VReg) : (c.wv r x).nextIssue = c.nextIssue := rfl
@[simp] theorem Core.wv_vecFree (c : Core) (r : BitVec 4) (x : VReg) : (c.wv r x).vecFree = c.vecFree := rfl
@[simp] theorem Core.wv_divFree (c : Core) (r : BitVec 4) (x : VReg) : (c.wv r x).divFree = c.divFree := rfl
@[simp] theorem Core.wv_quantDone (c : Core) (r : BitVec 4) (x : VReg) : (c.wv r x).quantDone = c.quantDone := rfl
@[simp] theorem Core.wv_acc (c : Core) (r : BitVec 4) (x : VReg) : (c.wv r x).acc = c.acc := rfl
@[simp] theorem Core.wv_accNext (c : Core) (r : BitVec 4) (x : VReg) : (c.wv r x).accNext = c.accNext := rfl
@[simp] theorem Core.wv_dep (c : Core) (r : BitVec 4) (x : VReg) : (c.wv r x).dep = c.dep := rfl
@[simp] theorem Core.wv_depMsc (c : Core) (r : BitVec 4) (x : VReg) : (c.wv r x).depMsc = c.depMsc := rfl
@[simp] theorem Core.wv_mscSeen (c : Core) (r : BitVec 4) (x : VReg) : (c.wv r x).mscSeen = c.mscSeen := rfl
@[simp] theorem Core.wv_tfc (c : Core) (r : BitVec 4) (x : VReg) : (c.wv r x).tfc = c.tfc := rfl
@[simp] theorem Core.wv_tfcReq (c : Core) (r : BitVec 4) (x : VReg) : (c.wv r x).tfcReq = c.tfcReq := rfl
@[simp] theorem Core.wv_marks (c : Core) (r : BitVec 4) (x : VReg) : (c.wv r x).marks = c.marks := rfl
@[simp] theorem Core.wv_owed (c : Core) (r : BitVec 4) (x : VReg) : (c.wv r x).owed = c.owed := rfl
@[simp] theorem Core.wv_redOwed (c : Core) (r : BitVec 4) (x : VReg) : (c.wv r x).redOwed = c.redOwed := rfl
@[simp] theorem Core.wv_redHeld (c : Core) (r : BitVec 4) (x : VReg) : (c.wv r x).redHeld = c.redHeld := rfl
@[simp] theorem Core.wv_engPoison (c : Core) (r : BitVec 4) (x : VReg) : (c.wv r x).engPoison = c.engPoison := rfl
@[simp] theorem Core.wv_watchNow (c : Core) (r : BitVec 4) (x : VReg) : (c.wv r x).watchNow = c.watchNow := rfl
@[simp] theorem Core.wv_watchQ (c : Core) (r : BitVec 4) (x : VReg) : (c.wv r x).watchQ = c.watchQ := rfl
@[simp] theorem Core.wv_watchLost (c : Core) (r : BitVec 4) (x : VReg) : (c.wv r x).watchLost = c.watchLost := rfl
@[simp] theorem Core.wv_watchFly (c : Core) (r : BitVec 4) (x : VReg) : (c.wv r x).watchFly = c.watchFly := rfl
@[simp] theorem Core.wv_waiting (c : Core) (r : BitVec 4) (x : VReg) : (c.wv r x).waiting = c.waiting := rfl
@[simp] theorem Core.wv_waitStart (c : Core) (r : BitVec 4) (x : VReg) : (c.wv r x).waitStart = c.waitStart := rfl
@[simp] theorem Core.wv_waitCal (c : Core) (r : BitVec 4) (x : VReg) : (c.wv r x).waitCal = c.waitCal := rfl
@[simp] theorem Core.wv_preempt (c : Core) (r : BitVec 4) (x : VReg) : (c.wv r x).preempt = c.preempt := rfl
@[simp] theorem Core.wv_dump (c : Core) (r : BitVec 4) (x : VReg) : (c.wv r x).dump = c.dump := rfl
@[simp] theorem Core.wv_stopAt (c : Core) (r : BitVec 4) (x : VReg) : (c.wv r x).stopAt = c.stopAt := rfl
@[simp] theorem Core.wv_sweeps (c : Core) (r : BitVec 4) (x : VReg) : (c.wv r x).sweeps = c.sweeps := rfl
@[simp] theorem Core.wv_matrix (c : Core) (r : BitVec 4) (x : VReg) : (c.wv r x).matrix = c.matrix := rfl
@[simp] theorem Core.wv_copy (c : Core) (r : BitVec 4) (x : VReg) : (c.wv r x).copy = c.copy := rfl
@[simp] theorem Core.wv_lantern (c : Core) (r : BitVec 4) (x : VReg) : (c.wv r x).lantern = c.lantern := rfl
@[simp] theorem Core.wv_cmdNext (c : Core) (r : BitVec 4) (x : VReg) : (c.wv r x).cmdNext = c.cmdNext := rfl
@[simp] theorem Core.wv_fq (c : Core) (r : BitVec 4) (x : VReg) : (c.wv r x).fq = c.fq := rfl
@[simp] theorem Core.wv_tiles (c : Core) (r : BitVec 4) (x : VReg) : (c.wv r x).tiles = c.tiles := rfl
@[simp] theorem Core.wv_tileFinal (c : Core) (r : BitVec 4) (x : VReg) : (c.wv r x).tileFinal = c.tileFinal := rfl
@[simp] theorem Core.wv_curves (c : Core) (r : BitVec 4) (x : VReg) : (c.wv r x).curves = c.curves := rfl
@[simp] theorem Core.wv_lan (c : Core) (r : BitVec 4) (x : VReg) : (c.wv r x).lan = c.lan := rfl
@[simp] theorem Core.wv_eqx (c : Core) (r : BitVec 4) (x : VReg) : (c.wv r x).eqx = c.eqx := rfl
@[simp] theorem Core.wv_doneNow (c : Core) (r : BitVec 4) (x : VReg) : (c.wv r x).doneNow = c.doneNow := rfl
@[simp] theorem Core.wv_fmtNow (c : Core) (r : BitVec 4) (x : VReg) : (c.wv r x).fmtNow = c.fmtNow := rfl
@[simp] theorem Core.wv_fmtLate (c : Core) (r : BitVec 4) (x : VReg) : (c.wv r x).fmtLate = c.fmtLate := rfl
@[simp] theorem Core.wv_statusNow (c : Core) (r : BitVec 4) (x : VReg) : (c.wv r x).statusNow = c.statusNow := rfl
@[simp] theorem Core.wv_acted (c : Core) (r : BitVec 4) (x : VReg) : (c.wv r x).acted = c.acted := rfl
@[simp] theorem Core.wv_headPc (c : Core) (r : BitVec 4) (x : VReg) : (c.wv r x).headPc = c.headPc := rfl
@[simp] theorem Core.wv_headSlot (c : Core) (r : BitVec 4) (x : VReg) : (c.wv r x).headSlot = c.headSlot := rfl
@[simp] theorem Core.wv_headRun (c : Core) (r : BitVec 4) (x : VReg) : (c.wv r x).headRun = c.headRun := rfl
@[simp] theorem Core.wv_headInh (c : Core) (r : BitVec 4) (x : VReg) : (c.wv r x).headInh = c.headInh := rfl
@[simp] theorem Core.wv_frozenAt (c : Core) (r : BitVec 4) (x : VReg) : (c.wv r x).frozenAt = c.frozenAt := rfl
@[simp] theorem Core.wv_cur (c : Core) (r : BitVec 4) (x : VReg) : (c.wv r x).cur = c.cur := rfl
@[simp] theorem Core.wv_stall (c : Core) (r : BitVec 4) (x : VReg) : (c.wv r x).stall = c.stall := rfl
@[simp] theorem Core.wv_events (c : Core) (r : BitVec 4) (x : VReg) : (c.wv r x).events = c.events := rfl

@[simp] theorem Core.wp_phys (c : Core) (r : BitVec 3) (x : PReg) : (c.wp r x).phys = c.phys := by unfold Core.wp; split <;> rfl
@[simp] theorem Core.wp_ctx (c : Core) (r : BitVec 3) (x : PReg) : (c.wp r x).ctx = c.ctx := by unfold Core.wp; split <;> rfl
@[simp] theorem Core.wp_task (c : Core) (r : BitVec 3) (x : PReg) : (c.wp r x).task = c.task := by unfold Core.wp; split <;> rfl
@[simp] theorem Core.wp_s (c : Core) (r : BitVec 3) (x : PReg) : (c.wp r x).s = c.s := by unfold Core.wp; split <;> rfl
@[simp] theorem Core.wp_v (c : Core) (r : BitVec 3) (x : PReg) : (c.wp r x).v = c.v := by unfold Core.wp; split <;> rfl
@[simp] theorem Core.wp_k (c : Core) (r : BitVec 3) (x : PReg) : (c.wp r x).k = c.k := by unfold Core.wp; split <;> rfl
@[simp] theorem Core.wp_b (c : Core) (r : BitVec 3) (x : PReg) : (c.wp r x).b = c.b := by unfold Core.wp; split <;> rfl
@[simp] theorem Core.wp_bc (c : Core) (r : BitVec 3) (x : PReg) : (c.wp r x).bc = c.bc := by unfold Core.wp; split <;> rfl
@[simp] theorem Core.wp_lc (c : Core) (r : BitVec 3) (x : PReg) : (c.wp r x).lc = c.lc := by unfold Core.wp; split <;> rfl
@[simp] theorem Core.wp_ls (c : Core) (r : BitVec 3) (x : PReg) : (c.wp r x).ls = c.ls := by unfold Core.wp; split <;> rfl
@[simp] theorem Core.wp_le (c : Core) (r : BitVec 3) (x : PReg) : (c.wp r x).le = c.le := by unfold Core.wp; split <;> rfl
@[simp] theorem Core.wp_heldLs (c : Core) (r : BitVec 3) (x : PReg) : (c.wp r x).heldLs = c.heldLs := by unfold Core.wp; split <;> rfl
@[simp] theorem Core.wp_heldLe (c : Core) (r : BitVec 3) (x : PReg) : (c.wp r x).heldLe = c.heldLe := by unfold Core.wp; split <;> rfl
@[simp] theorem Core.wp_pc (c : Core) (r : BitVec 3) (x : PReg) : (c.wp r x).pc = c.pc := by unfold Core.wp; split <;> rfl
@[simp] theorem Core.wp_slots (c : Core) (r : BitVec 3) (x : PReg) : (c.wp r x).slots = c.slots := by unfold Core.wp; split <;> rfl
@[simp] theorem Core.wp_oob (c : Core) (r : BitVec 3) (x : PReg) : (c.wp r x).oob = c.oob := by unfold Core.wp; split <;> rfl
@[simp] theorem Core.wp_revpend (c : Core) (r : BitVec 3) (x : PReg) : (c.wp r x).revpend = c.revpend := by unfold Core.wp; split <;> rfl
@[simp] theorem Core.wp_inh (c : Core) (r : BitVec 3) (x : PReg) : (c.wp r x).inh = c.inh := by unfold Core.wp; split <;> rfl
@[simp] theorem Core.wp_dsField (c : Core) (r : BitVec 3) (x : PReg) : (c.wp r x).dsField = c.dsField := by unfold Core.wp; split <;> rfl
@[simp] theorem Core.wp_trapCause (c : Core) (r : BitVec 3) (x : PReg) : (c.wp r x).trapCause = c.trapCause := by unfold Core.wp; split <;> rfl
@[simp] theorem Core.wp_trapPc (c : Core) (r : BitVec 3) (x : PReg) : (c.wp r x).trapPc = c.trapPc := by unfold Core.wp; split <;> rfl
@[simp] theorem Core.wp_trapVal (c : Core) (r : BitVec 3) (x : PReg) : (c.wp r x).trapVal = c.trapVal := by unfold Core.wp; split <;> rfl
@[simp] theorem Core.wp_trapTgt (c : Core) (r : BitVec 3) (x : PReg) : (c.wp r x).trapTgt = c.trapTgt := by unfold Core.wp; split <;> rfl
@[simp] theorem Core.wp_tvec (c : Core) (r : BitVec 3) (x : PReg) : (c.wp r x).tvec = c.tvec := by unfold Core.wp; split <;> rfl
@[simp] theorem Core.wp_sbase (c : Core) (r : BitVec 3) (x : PReg) : (c.wp r x).sbase = c.sbase := by unfold Core.wp; split <;> rfl
@[simp] theorem Core.wp_slimit (c : Core) (r : BitVec 3) (x : PReg) : (c.wp r x).slimit = c.slimit := by unfold Core.wp; split <;> rfl
@[simp] theorem Core.wp_calendar (c : Core) (r : BitVec 3) (x : PReg) : (c.wp r x).calendar = c.calendar := by unfold Core.wp; split <;> rfl
@[simp] theorem Core.wp_vigil (c : Core) (r : BitVec 3) (x : PReg) : (c.wp r x).vigil = c.vigil := by unfold Core.wp; split <;> rfl
@[simp] theorem Core.wp_tags (c : Core) (r : BitVec 3) (x : PReg) : (c.wp r x).tags = c.tags := by unfold Core.wp; split <;> rfl
@[simp] theorem Core.wp_tagrev (c : Core) (r : BitVec 3) (x : PReg) : (c.wp r x).tagrev = c.tagrev := by unfold Core.wp; split <;> rfl
@[simp] theorem Core.wp_oobcnt (c : Core) (r : BitVec 3) (x : PReg) : (c.wp r x).oobcnt = c.oobcnt := by unfold Core.wp; split <;> rfl
@[simp] theorem Core.wp_fmtstat (c : Core) (r : BitVec 3) (x : PReg) : (c.wp r x).fmtstat = c.fmtstat := by unfold Core.wp; split <;> rfl
@[simp] theorem Core.wp_waitcfg (c : Core) (r : BitVec 3) (x : PReg) : (c.wp r x).waitcfg = c.waitcfg := by unfold Core.wp; split <;> rfl
@[simp] theorem Core.wp_crew (c : Core) (r : BitVec 3) (x : PReg) : (c.wp r x).crew = c.crew := by unfold Core.wp; split <;> rfl
@[simp] theorem Core.wp_vtopo (c : Core) (r : BitVec 3) (x : PReg) : (c.wp r x).vtopo = c.vtopo := by unfold Core.wp; split <;> rfl
@[simp] theorem Core.wp_poolAt (c : Core) (r : BitVec 3) (x : PReg) : (c.wp r x).poolAt = c.poolAt := by unfold Core.wp; split <;> rfl
@[simp] theorem Core.wp_dbgcfg (c : Core) (r : BitVec 3) (x : PReg) : (c.wp r x).dbgcfg = c.dbgcfg := by unfold Core.wp; split <;> rfl
@[simp] theorem Core.wp_samplecfg (c : Core) (r : BitVec 3) (x : PReg) : (c.wp r x).samplecfg = c.samplecfg := by unfold Core.wp; split <;> rfl
@[simp] theorem Core.wp_wpbase (c : Core) (r : BitVec 3) (x : PReg) : (c.wp r x).wpbase = c.wpbase := by unfold Core.wp; split <;> rfl
@[simp] theorem Core.wp_wpmask (c : Core) (r : BitVec 3) (x : PReg) : (c.wp r x).wpmask = c.wpmask := by unfold Core.wp; split <;> rfl
@[simp] theorem Core.wp_ctrsel (c : Core) (r : BitVec 3) (x : PReg) : (c.wp r x).ctrsel = c.ctrsel := by unfold Core.wp; split <;> rfl
@[simp] theorem Core.wp_ctrval (c : Core) (r : BitVec 3) (x : PReg) : (c.wp r x).ctrval = c.ctrval := by unfold Core.wp; split <;> rfl
@[simp] theorem Core.wp_ctrRead (c : Core) (r : BitVec 3) (x : PReg) : (c.wp r x).ctrRead = c.ctrRead := by unfold Core.wp; split <;> rfl
@[simp] theorem Core.wp_rows (c : Core) (r : BitVec 3) (x : PReg) : (c.wp r x).rows = c.rows := by unfold Core.wp; split <;> rfl
@[simp] theorem Core.wp_rowReads (c : Core) (r : BitVec 3) (x : PReg) : (c.wp r x).rowReads = c.rowReads := by unfold Core.wp; split <;> rfl
@[simp] theorem Core.wp_lastRow (c : Core) (r : BitVec 3) (x : PReg) : (c.wp r x).lastRow = c.lastRow := by unfold Core.wp; split <;> rfl
@[simp] theorem Core.wp_jumped (c : Core) (r : BitVec 3) (x : PReg) : (c.wp r x).jumped = c.jumped := by unfold Core.wp; split <;> rfl
@[simp] theorem Core.wp_coFence (c : Core) (r : BitVec 3) (x : PReg) : (c.wp r x).coFence = c.coFence := by unfold Core.wp; split <;> rfl
@[simp] theorem Core.wp_scr (c : Core) (r : BitVec 3) (x : PReg) : (c.wp r x).scr = c.scr := by unfold Core.wp; split <;> rfl
@[simp] theorem Core.wp_lanes (c : Core) (r : BitVec 3) (x : PReg) : (c.wp r x).lanes = c.lanes := by unfold Core.wp; split <;> rfl
@[simp] theorem Core.wp_wb (c : Core) (r : BitVec 3) (x : PReg) : (c.wp r x).wb = c.wb := by unfold Core.wp; split <;> rfl
@[simp] theorem Core.wp_timed (c : Core) (r : BitVec 3) (x : PReg) : (c.wp r x).timed = c.timed := by unfold Core.wp; split <;> rfl
@[simp] theorem Core.wp_locks (c : Core) (r : BitVec 3) (x : PReg) : (c.wp r x).locks = c.locks := by unfold Core.wp; split <;> rfl
@[simp] theorem Core.wp_bankReads (c : Core) (r : BitVec 3) (x : PReg) : (c.wp r x).bankReads = c.bankReads := by unfold Core.wp; split <;> rfl
@[simp] theorem Core.wp_bankWrites (c : Core) (r : BitVec 3) (x : PReg) : (c.wp r x).bankWrites = c.bankWrites := by unfold Core.wp; split <;> rfl
@[simp] theorem Core.wp_late (c : Core) (r : BitVec 3) (x : PReg) : (c.wp r x).late = c.late := by unfold Core.wp; split <;> rfl
@[simp] theorem Core.wp_ready (c : Core) (r : BitVec 3) (x : PReg) : (c.wp r x).ready = c.ready := by unfold Core.wp; split <;> rfl
@[simp] theorem Core.wp_btime (c : Core) (r : BitVec 3) (x : PReg) : (c.wp r x).btime = c.btime := by unfold Core.wp; split <;> rfl
@[simp] theorem Core.wp_nextIssue (c : Core) (r : BitVec 3) (x : PReg) : (c.wp r x).nextIssue = c.nextIssue := by unfold Core.wp; split <;> rfl
@[simp] theorem Core.wp_vecFree (c : Core) (r : BitVec 3) (x : PReg) : (c.wp r x).vecFree = c.vecFree := by unfold Core.wp; split <;> rfl
@[simp] theorem Core.wp_divFree (c : Core) (r : BitVec 3) (x : PReg) : (c.wp r x).divFree = c.divFree := by unfold Core.wp; split <;> rfl
@[simp] theorem Core.wp_quantDone (c : Core) (r : BitVec 3) (x : PReg) : (c.wp r x).quantDone = c.quantDone := by unfold Core.wp; split <;> rfl
@[simp] theorem Core.wp_acc (c : Core) (r : BitVec 3) (x : PReg) : (c.wp r x).acc = c.acc := by unfold Core.wp; split <;> rfl
@[simp] theorem Core.wp_accNext (c : Core) (r : BitVec 3) (x : PReg) : (c.wp r x).accNext = c.accNext := by unfold Core.wp; split <;> rfl
@[simp] theorem Core.wp_dep (c : Core) (r : BitVec 3) (x : PReg) : (c.wp r x).dep = c.dep := by unfold Core.wp; split <;> rfl
@[simp] theorem Core.wp_depMsc (c : Core) (r : BitVec 3) (x : PReg) : (c.wp r x).depMsc = c.depMsc := by unfold Core.wp; split <;> rfl
@[simp] theorem Core.wp_mscSeen (c : Core) (r : BitVec 3) (x : PReg) : (c.wp r x).mscSeen = c.mscSeen := by unfold Core.wp; split <;> rfl
@[simp] theorem Core.wp_tfc (c : Core) (r : BitVec 3) (x : PReg) : (c.wp r x).tfc = c.tfc := by unfold Core.wp; split <;> rfl
@[simp] theorem Core.wp_tfcReq (c : Core) (r : BitVec 3) (x : PReg) : (c.wp r x).tfcReq = c.tfcReq := by unfold Core.wp; split <;> rfl
@[simp] theorem Core.wp_marks (c : Core) (r : BitVec 3) (x : PReg) : (c.wp r x).marks = c.marks := by unfold Core.wp; split <;> rfl
@[simp] theorem Core.wp_owed (c : Core) (r : BitVec 3) (x : PReg) : (c.wp r x).owed = c.owed := by unfold Core.wp; split <;> rfl
@[simp] theorem Core.wp_redOwed (c : Core) (r : BitVec 3) (x : PReg) : (c.wp r x).redOwed = c.redOwed := by unfold Core.wp; split <;> rfl
@[simp] theorem Core.wp_redHeld (c : Core) (r : BitVec 3) (x : PReg) : (c.wp r x).redHeld = c.redHeld := by unfold Core.wp; split <;> rfl
@[simp] theorem Core.wp_engPoison (c : Core) (r : BitVec 3) (x : PReg) : (c.wp r x).engPoison = c.engPoison := by unfold Core.wp; split <;> rfl
@[simp] theorem Core.wp_watchNow (c : Core) (r : BitVec 3) (x : PReg) : (c.wp r x).watchNow = c.watchNow := by unfold Core.wp; split <;> rfl
@[simp] theorem Core.wp_watchQ (c : Core) (r : BitVec 3) (x : PReg) : (c.wp r x).watchQ = c.watchQ := by unfold Core.wp; split <;> rfl
@[simp] theorem Core.wp_watchLost (c : Core) (r : BitVec 3) (x : PReg) : (c.wp r x).watchLost = c.watchLost := by unfold Core.wp; split <;> rfl
@[simp] theorem Core.wp_watchFly (c : Core) (r : BitVec 3) (x : PReg) : (c.wp r x).watchFly = c.watchFly := by unfold Core.wp; split <;> rfl
@[simp] theorem Core.wp_waiting (c : Core) (r : BitVec 3) (x : PReg) : (c.wp r x).waiting = c.waiting := by unfold Core.wp; split <;> rfl
@[simp] theorem Core.wp_waitStart (c : Core) (r : BitVec 3) (x : PReg) : (c.wp r x).waitStart = c.waitStart := by unfold Core.wp; split <;> rfl
@[simp] theorem Core.wp_waitCal (c : Core) (r : BitVec 3) (x : PReg) : (c.wp r x).waitCal = c.waitCal := by unfold Core.wp; split <;> rfl
@[simp] theorem Core.wp_preempt (c : Core) (r : BitVec 3) (x : PReg) : (c.wp r x).preempt = c.preempt := by unfold Core.wp; split <;> rfl
@[simp] theorem Core.wp_dump (c : Core) (r : BitVec 3) (x : PReg) : (c.wp r x).dump = c.dump := by unfold Core.wp; split <;> rfl
@[simp] theorem Core.wp_stopAt (c : Core) (r : BitVec 3) (x : PReg) : (c.wp r x).stopAt = c.stopAt := by unfold Core.wp; split <;> rfl
@[simp] theorem Core.wp_sweeps (c : Core) (r : BitVec 3) (x : PReg) : (c.wp r x).sweeps = c.sweeps := by unfold Core.wp; split <;> rfl
@[simp] theorem Core.wp_matrix (c : Core) (r : BitVec 3) (x : PReg) : (c.wp r x).matrix = c.matrix := by unfold Core.wp; split <;> rfl
@[simp] theorem Core.wp_copy (c : Core) (r : BitVec 3) (x : PReg) : (c.wp r x).copy = c.copy := by unfold Core.wp; split <;> rfl
@[simp] theorem Core.wp_lantern (c : Core) (r : BitVec 3) (x : PReg) : (c.wp r x).lantern = c.lantern := by unfold Core.wp; split <;> rfl
@[simp] theorem Core.wp_cmdNext (c : Core) (r : BitVec 3) (x : PReg) : (c.wp r x).cmdNext = c.cmdNext := by unfold Core.wp; split <;> rfl
@[simp] theorem Core.wp_fq (c : Core) (r : BitVec 3) (x : PReg) : (c.wp r x).fq = c.fq := by unfold Core.wp; split <;> rfl
@[simp] theorem Core.wp_tiles (c : Core) (r : BitVec 3) (x : PReg) : (c.wp r x).tiles = c.tiles := by unfold Core.wp; split <;> rfl
@[simp] theorem Core.wp_tileFinal (c : Core) (r : BitVec 3) (x : PReg) : (c.wp r x).tileFinal = c.tileFinal := by unfold Core.wp; split <;> rfl
@[simp] theorem Core.wp_curves (c : Core) (r : BitVec 3) (x : PReg) : (c.wp r x).curves = c.curves := by unfold Core.wp; split <;> rfl
@[simp] theorem Core.wp_lan (c : Core) (r : BitVec 3) (x : PReg) : (c.wp r x).lan = c.lan := by unfold Core.wp; split <;> rfl
@[simp] theorem Core.wp_eqx (c : Core) (r : BitVec 3) (x : PReg) : (c.wp r x).eqx = c.eqx := by unfold Core.wp; split <;> rfl
@[simp] theorem Core.wp_doneNow (c : Core) (r : BitVec 3) (x : PReg) : (c.wp r x).doneNow = c.doneNow := by unfold Core.wp; split <;> rfl
@[simp] theorem Core.wp_fmtNow (c : Core) (r : BitVec 3) (x : PReg) : (c.wp r x).fmtNow = c.fmtNow := by unfold Core.wp; split <;> rfl
@[simp] theorem Core.wp_fmtLate (c : Core) (r : BitVec 3) (x : PReg) : (c.wp r x).fmtLate = c.fmtLate := by unfold Core.wp; split <;> rfl
@[simp] theorem Core.wp_statusNow (c : Core) (r : BitVec 3) (x : PReg) : (c.wp r x).statusNow = c.statusNow := by unfold Core.wp; split <;> rfl
@[simp] theorem Core.wp_acted (c : Core) (r : BitVec 3) (x : PReg) : (c.wp r x).acted = c.acted := by unfold Core.wp; split <;> rfl
@[simp] theorem Core.wp_headPc (c : Core) (r : BitVec 3) (x : PReg) : (c.wp r x).headPc = c.headPc := by unfold Core.wp; split <;> rfl
@[simp] theorem Core.wp_headSlot (c : Core) (r : BitVec 3) (x : PReg) : (c.wp r x).headSlot = c.headSlot := by unfold Core.wp; split <;> rfl
@[simp] theorem Core.wp_headRun (c : Core) (r : BitVec 3) (x : PReg) : (c.wp r x).headRun = c.headRun := by unfold Core.wp; split <;> rfl
@[simp] theorem Core.wp_headInh (c : Core) (r : BitVec 3) (x : PReg) : (c.wp r x).headInh = c.headInh := by unfold Core.wp; split <;> rfl
@[simp] theorem Core.wp_frozenAt (c : Core) (r : BitVec 3) (x : PReg) : (c.wp r x).frozenAt = c.frozenAt := by unfold Core.wp; split <;> rfl
@[simp] theorem Core.wp_cur (c : Core) (r : BitVec 3) (x : PReg) : (c.wp r x).cur = c.cur := by unfold Core.wp; split <;> rfl
@[simp] theorem Core.wp_stall (c : Core) (r : BitVec 3) (x : PReg) : (c.wp r x).stall = c.stall := by unfold Core.wp; split <;> rfl
@[simp] theorem Core.wp_events (c : Core) (r : BitVec 3) (x : PReg) : (c.wp r x).events = c.events := by unfold Core.wp; split <;> rfl

@[simp] theorem Core.wk_phys (c : Core) (r : BitVec 4) (x : Token) : (c.wk r x).phys = c.phys := rfl
@[simp] theorem Core.wk_ctx (c : Core) (r : BitVec 4) (x : Token) : (c.wk r x).ctx = c.ctx := rfl
@[simp] theorem Core.wk_task (c : Core) (r : BitVec 4) (x : Token) : (c.wk r x).task = c.task := rfl
@[simp] theorem Core.wk_s (c : Core) (r : BitVec 4) (x : Token) : (c.wk r x).s = c.s := rfl
@[simp] theorem Core.wk_v (c : Core) (r : BitVec 4) (x : Token) : (c.wk r x).v = c.v := rfl
@[simp] theorem Core.wk_p (c : Core) (r : BitVec 4) (x : Token) : (c.wk r x).p = c.p := rfl
@[simp] theorem Core.wk_b (c : Core) (r : BitVec 4) (x : Token) : (c.wk r x).b = c.b := rfl
@[simp] theorem Core.wk_bc (c : Core) (r : BitVec 4) (x : Token) : (c.wk r x).bc = c.bc := rfl
@[simp] theorem Core.wk_lc (c : Core) (r : BitVec 4) (x : Token) : (c.wk r x).lc = c.lc := rfl
@[simp] theorem Core.wk_ls (c : Core) (r : BitVec 4) (x : Token) : (c.wk r x).ls = c.ls := rfl
@[simp] theorem Core.wk_le (c : Core) (r : BitVec 4) (x : Token) : (c.wk r x).le = c.le := rfl
@[simp] theorem Core.wk_heldLs (c : Core) (r : BitVec 4) (x : Token) : (c.wk r x).heldLs = c.heldLs := rfl
@[simp] theorem Core.wk_heldLe (c : Core) (r : BitVec 4) (x : Token) : (c.wk r x).heldLe = c.heldLe := rfl
@[simp] theorem Core.wk_pc (c : Core) (r : BitVec 4) (x : Token) : (c.wk r x).pc = c.pc := rfl
@[simp] theorem Core.wk_slots (c : Core) (r : BitVec 4) (x : Token) : (c.wk r x).slots = c.slots := rfl
@[simp] theorem Core.wk_oob (c : Core) (r : BitVec 4) (x : Token) : (c.wk r x).oob = c.oob := rfl
@[simp] theorem Core.wk_revpend (c : Core) (r : BitVec 4) (x : Token) : (c.wk r x).revpend = c.revpend := rfl
@[simp] theorem Core.wk_inh (c : Core) (r : BitVec 4) (x : Token) : (c.wk r x).inh = c.inh := rfl
@[simp] theorem Core.wk_dsField (c : Core) (r : BitVec 4) (x : Token) : (c.wk r x).dsField = c.dsField := rfl
@[simp] theorem Core.wk_trapCause (c : Core) (r : BitVec 4) (x : Token) : (c.wk r x).trapCause = c.trapCause := rfl
@[simp] theorem Core.wk_trapPc (c : Core) (r : BitVec 4) (x : Token) : (c.wk r x).trapPc = c.trapPc := rfl
@[simp] theorem Core.wk_trapVal (c : Core) (r : BitVec 4) (x : Token) : (c.wk r x).trapVal = c.trapVal := rfl
@[simp] theorem Core.wk_trapTgt (c : Core) (r : BitVec 4) (x : Token) : (c.wk r x).trapTgt = c.trapTgt := rfl
@[simp] theorem Core.wk_tvec (c : Core) (r : BitVec 4) (x : Token) : (c.wk r x).tvec = c.tvec := rfl
@[simp] theorem Core.wk_sbase (c : Core) (r : BitVec 4) (x : Token) : (c.wk r x).sbase = c.sbase := rfl
@[simp] theorem Core.wk_slimit (c : Core) (r : BitVec 4) (x : Token) : (c.wk r x).slimit = c.slimit := rfl
@[simp] theorem Core.wk_calendar (c : Core) (r : BitVec 4) (x : Token) : (c.wk r x).calendar = c.calendar := rfl
@[simp] theorem Core.wk_vigil (c : Core) (r : BitVec 4) (x : Token) : (c.wk r x).vigil = c.vigil := rfl
@[simp] theorem Core.wk_tags (c : Core) (r : BitVec 4) (x : Token) : (c.wk r x).tags = c.tags := rfl
@[simp] theorem Core.wk_tagrev (c : Core) (r : BitVec 4) (x : Token) : (c.wk r x).tagrev = c.tagrev := rfl
@[simp] theorem Core.wk_oobcnt (c : Core) (r : BitVec 4) (x : Token) : (c.wk r x).oobcnt = c.oobcnt := rfl
@[simp] theorem Core.wk_fmtstat (c : Core) (r : BitVec 4) (x : Token) : (c.wk r x).fmtstat = c.fmtstat := rfl
@[simp] theorem Core.wk_waitcfg (c : Core) (r : BitVec 4) (x : Token) : (c.wk r x).waitcfg = c.waitcfg := rfl
@[simp] theorem Core.wk_crew (c : Core) (r : BitVec 4) (x : Token) : (c.wk r x).crew = c.crew := rfl
@[simp] theorem Core.wk_vtopo (c : Core) (r : BitVec 4) (x : Token) : (c.wk r x).vtopo = c.vtopo := rfl
@[simp] theorem Core.wk_poolAt (c : Core) (r : BitVec 4) (x : Token) : (c.wk r x).poolAt = c.poolAt := rfl
@[simp] theorem Core.wk_dbgcfg (c : Core) (r : BitVec 4) (x : Token) : (c.wk r x).dbgcfg = c.dbgcfg := rfl
@[simp] theorem Core.wk_samplecfg (c : Core) (r : BitVec 4) (x : Token) : (c.wk r x).samplecfg = c.samplecfg := rfl
@[simp] theorem Core.wk_wpbase (c : Core) (r : BitVec 4) (x : Token) : (c.wk r x).wpbase = c.wpbase := rfl
@[simp] theorem Core.wk_wpmask (c : Core) (r : BitVec 4) (x : Token) : (c.wk r x).wpmask = c.wpmask := rfl
@[simp] theorem Core.wk_ctrsel (c : Core) (r : BitVec 4) (x : Token) : (c.wk r x).ctrsel = c.ctrsel := rfl
@[simp] theorem Core.wk_ctrval (c : Core) (r : BitVec 4) (x : Token) : (c.wk r x).ctrval = c.ctrval := rfl
@[simp] theorem Core.wk_ctrRead (c : Core) (r : BitVec 4) (x : Token) : (c.wk r x).ctrRead = c.ctrRead := rfl
@[simp] theorem Core.wk_rows (c : Core) (r : BitVec 4) (x : Token) : (c.wk r x).rows = c.rows := rfl
@[simp] theorem Core.wk_rowReads (c : Core) (r : BitVec 4) (x : Token) : (c.wk r x).rowReads = c.rowReads := rfl
@[simp] theorem Core.wk_lastRow (c : Core) (r : BitVec 4) (x : Token) : (c.wk r x).lastRow = c.lastRow := rfl
@[simp] theorem Core.wk_jumped (c : Core) (r : BitVec 4) (x : Token) : (c.wk r x).jumped = c.jumped := rfl
@[simp] theorem Core.wk_coFence (c : Core) (r : BitVec 4) (x : Token) : (c.wk r x).coFence = c.coFence := rfl
@[simp] theorem Core.wk_scr (c : Core) (r : BitVec 4) (x : Token) : (c.wk r x).scr = c.scr := rfl
@[simp] theorem Core.wk_lanes (c : Core) (r : BitVec 4) (x : Token) : (c.wk r x).lanes = c.lanes := rfl
@[simp] theorem Core.wk_wb (c : Core) (r : BitVec 4) (x : Token) : (c.wk r x).wb = c.wb := rfl
@[simp] theorem Core.wk_timed (c : Core) (r : BitVec 4) (x : Token) : (c.wk r x).timed = c.timed := rfl
@[simp] theorem Core.wk_locks (c : Core) (r : BitVec 4) (x : Token) : (c.wk r x).locks = c.locks := rfl
@[simp] theorem Core.wk_bankReads (c : Core) (r : BitVec 4) (x : Token) : (c.wk r x).bankReads = c.bankReads := rfl
@[simp] theorem Core.wk_bankWrites (c : Core) (r : BitVec 4) (x : Token) : (c.wk r x).bankWrites = c.bankWrites := rfl
@[simp] theorem Core.wk_late (c : Core) (r : BitVec 4) (x : Token) : (c.wk r x).late = c.late := rfl
@[simp] theorem Core.wk_ready (c : Core) (r : BitVec 4) (x : Token) : (c.wk r x).ready = c.ready := rfl
@[simp] theorem Core.wk_btime (c : Core) (r : BitVec 4) (x : Token) : (c.wk r x).btime = c.btime := rfl
@[simp] theorem Core.wk_nextIssue (c : Core) (r : BitVec 4) (x : Token) : (c.wk r x).nextIssue = c.nextIssue := rfl
@[simp] theorem Core.wk_vecFree (c : Core) (r : BitVec 4) (x : Token) : (c.wk r x).vecFree = c.vecFree := rfl
@[simp] theorem Core.wk_divFree (c : Core) (r : BitVec 4) (x : Token) : (c.wk r x).divFree = c.divFree := rfl
@[simp] theorem Core.wk_quantDone (c : Core) (r : BitVec 4) (x : Token) : (c.wk r x).quantDone = c.quantDone := rfl
@[simp] theorem Core.wk_acc (c : Core) (r : BitVec 4) (x : Token) : (c.wk r x).acc = c.acc := rfl
@[simp] theorem Core.wk_accNext (c : Core) (r : BitVec 4) (x : Token) : (c.wk r x).accNext = c.accNext := rfl
@[simp] theorem Core.wk_dep (c : Core) (r : BitVec 4) (x : Token) : (c.wk r x).dep = c.dep := rfl
@[simp] theorem Core.wk_depMsc (c : Core) (r : BitVec 4) (x : Token) : (c.wk r x).depMsc = c.depMsc := rfl
@[simp] theorem Core.wk_mscSeen (c : Core) (r : BitVec 4) (x : Token) : (c.wk r x).mscSeen = c.mscSeen := rfl
@[simp] theorem Core.wk_tfc (c : Core) (r : BitVec 4) (x : Token) : (c.wk r x).tfc = c.tfc := rfl
@[simp] theorem Core.wk_tfcReq (c : Core) (r : BitVec 4) (x : Token) : (c.wk r x).tfcReq = c.tfcReq := rfl
@[simp] theorem Core.wk_marks (c : Core) (r : BitVec 4) (x : Token) : (c.wk r x).marks = c.marks := rfl
@[simp] theorem Core.wk_owed (c : Core) (r : BitVec 4) (x : Token) : (c.wk r x).owed = c.owed := rfl
@[simp] theorem Core.wk_redOwed (c : Core) (r : BitVec 4) (x : Token) : (c.wk r x).redOwed = c.redOwed := rfl
@[simp] theorem Core.wk_redHeld (c : Core) (r : BitVec 4) (x : Token) : (c.wk r x).redHeld = c.redHeld := rfl
@[simp] theorem Core.wk_engPoison (c : Core) (r : BitVec 4) (x : Token) : (c.wk r x).engPoison = c.engPoison := rfl
@[simp] theorem Core.wk_watchNow (c : Core) (r : BitVec 4) (x : Token) : (c.wk r x).watchNow = c.watchNow := rfl
@[simp] theorem Core.wk_watchQ (c : Core) (r : BitVec 4) (x : Token) : (c.wk r x).watchQ = c.watchQ := rfl
@[simp] theorem Core.wk_watchLost (c : Core) (r : BitVec 4) (x : Token) : (c.wk r x).watchLost = c.watchLost := rfl
@[simp] theorem Core.wk_watchFly (c : Core) (r : BitVec 4) (x : Token) : (c.wk r x).watchFly = c.watchFly := rfl
@[simp] theorem Core.wk_waiting (c : Core) (r : BitVec 4) (x : Token) : (c.wk r x).waiting = c.waiting := rfl
@[simp] theorem Core.wk_waitStart (c : Core) (r : BitVec 4) (x : Token) : (c.wk r x).waitStart = c.waitStart := rfl
@[simp] theorem Core.wk_waitCal (c : Core) (r : BitVec 4) (x : Token) : (c.wk r x).waitCal = c.waitCal := rfl
@[simp] theorem Core.wk_preempt (c : Core) (r : BitVec 4) (x : Token) : (c.wk r x).preempt = c.preempt := rfl
@[simp] theorem Core.wk_dump (c : Core) (r : BitVec 4) (x : Token) : (c.wk r x).dump = c.dump := rfl
@[simp] theorem Core.wk_stopAt (c : Core) (r : BitVec 4) (x : Token) : (c.wk r x).stopAt = c.stopAt := rfl
@[simp] theorem Core.wk_sweeps (c : Core) (r : BitVec 4) (x : Token) : (c.wk r x).sweeps = c.sweeps := rfl
@[simp] theorem Core.wk_matrix (c : Core) (r : BitVec 4) (x : Token) : (c.wk r x).matrix = c.matrix := rfl
@[simp] theorem Core.wk_copy (c : Core) (r : BitVec 4) (x : Token) : (c.wk r x).copy = c.copy := rfl
@[simp] theorem Core.wk_lantern (c : Core) (r : BitVec 4) (x : Token) : (c.wk r x).lantern = c.lantern := rfl
@[simp] theorem Core.wk_cmdNext (c : Core) (r : BitVec 4) (x : Token) : (c.wk r x).cmdNext = c.cmdNext := rfl
@[simp] theorem Core.wk_fq (c : Core) (r : BitVec 4) (x : Token) : (c.wk r x).fq = c.fq := rfl
@[simp] theorem Core.wk_tiles (c : Core) (r : BitVec 4) (x : Token) : (c.wk r x).tiles = c.tiles := rfl
@[simp] theorem Core.wk_tileFinal (c : Core) (r : BitVec 4) (x : Token) : (c.wk r x).tileFinal = c.tileFinal := rfl
@[simp] theorem Core.wk_curves (c : Core) (r : BitVec 4) (x : Token) : (c.wk r x).curves = c.curves := rfl
@[simp] theorem Core.wk_lan (c : Core) (r : BitVec 4) (x : Token) : (c.wk r x).lan = c.lan := rfl
@[simp] theorem Core.wk_eqx (c : Core) (r : BitVec 4) (x : Token) : (c.wk r x).eqx = c.eqx := rfl
@[simp] theorem Core.wk_doneNow (c : Core) (r : BitVec 4) (x : Token) : (c.wk r x).doneNow = c.doneNow := rfl
@[simp] theorem Core.wk_fmtNow (c : Core) (r : BitVec 4) (x : Token) : (c.wk r x).fmtNow = c.fmtNow := rfl
@[simp] theorem Core.wk_fmtLate (c : Core) (r : BitVec 4) (x : Token) : (c.wk r x).fmtLate = c.fmtLate := rfl
@[simp] theorem Core.wk_statusNow (c : Core) (r : BitVec 4) (x : Token) : (c.wk r x).statusNow = c.statusNow := rfl
@[simp] theorem Core.wk_acted (c : Core) (r : BitVec 4) (x : Token) : (c.wk r x).acted = c.acted := rfl
@[simp] theorem Core.wk_headPc (c : Core) (r : BitVec 4) (x : Token) : (c.wk r x).headPc = c.headPc := rfl
@[simp] theorem Core.wk_headSlot (c : Core) (r : BitVec 4) (x : Token) : (c.wk r x).headSlot = c.headSlot := rfl
@[simp] theorem Core.wk_headRun (c : Core) (r : BitVec 4) (x : Token) : (c.wk r x).headRun = c.headRun := rfl
@[simp] theorem Core.wk_headInh (c : Core) (r : BitVec 4) (x : Token) : (c.wk r x).headInh = c.headInh := rfl
@[simp] theorem Core.wk_frozenAt (c : Core) (r : BitVec 4) (x : Token) : (c.wk r x).frozenAt = c.frozenAt := rfl
@[simp] theorem Core.wk_cur (c : Core) (r : BitVec 4) (x : Token) : (c.wk r x).cur = c.cur := rfl
@[simp] theorem Core.wk_stall (c : Core) (r : BitVec 4) (x : Token) : (c.wk r x).stall = c.stall := rfl
@[simp] theorem Core.wk_events (c : Core) (r : BitVec 4) (x : Token) : (c.wk r x).events = c.events := rfl

@[simp] theorem Core.after_phys (c : Core) (r : Reg) (n : Nat) : (c.after r n).phys = c.phys := rfl
@[simp] theorem Core.after_ctx (c : Core) (r : Reg) (n : Nat) : (c.after r n).ctx = c.ctx := rfl
@[simp] theorem Core.after_task (c : Core) (r : Reg) (n : Nat) : (c.after r n).task = c.task := rfl
@[simp] theorem Core.after_s (c : Core) (r : Reg) (n : Nat) : (c.after r n).s = c.s := rfl
@[simp] theorem Core.after_v (c : Core) (r : Reg) (n : Nat) : (c.after r n).v = c.v := rfl
@[simp] theorem Core.after_p (c : Core) (r : Reg) (n : Nat) : (c.after r n).p = c.p := rfl
@[simp] theorem Core.after_k (c : Core) (r : Reg) (n : Nat) : (c.after r n).k = c.k := rfl
@[simp] theorem Core.after_b (c : Core) (r : Reg) (n : Nat) : (c.after r n).b = c.b := rfl
@[simp] theorem Core.after_bc (c : Core) (r : Reg) (n : Nat) : (c.after r n).bc = c.bc := rfl
@[simp] theorem Core.after_lc (c : Core) (r : Reg) (n : Nat) : (c.after r n).lc = c.lc := rfl
@[simp] theorem Core.after_ls (c : Core) (r : Reg) (n : Nat) : (c.after r n).ls = c.ls := rfl
@[simp] theorem Core.after_le (c : Core) (r : Reg) (n : Nat) : (c.after r n).le = c.le := rfl
@[simp] theorem Core.after_heldLs (c : Core) (r : Reg) (n : Nat) : (c.after r n).heldLs = c.heldLs := rfl
@[simp] theorem Core.after_heldLe (c : Core) (r : Reg) (n : Nat) : (c.after r n).heldLe = c.heldLe := rfl
@[simp] theorem Core.after_pc (c : Core) (r : Reg) (n : Nat) : (c.after r n).pc = c.pc := rfl
@[simp] theorem Core.after_slots (c : Core) (r : Reg) (n : Nat) : (c.after r n).slots = c.slots := rfl
@[simp] theorem Core.after_oob (c : Core) (r : Reg) (n : Nat) : (c.after r n).oob = c.oob := rfl
@[simp] theorem Core.after_revpend (c : Core) (r : Reg) (n : Nat) : (c.after r n).revpend = c.revpend := rfl
@[simp] theorem Core.after_inh (c : Core) (r : Reg) (n : Nat) : (c.after r n).inh = c.inh := rfl
@[simp] theorem Core.after_dsField (c : Core) (r : Reg) (n : Nat) : (c.after r n).dsField = c.dsField := rfl
@[simp] theorem Core.after_trapCause (c : Core) (r : Reg) (n : Nat) : (c.after r n).trapCause = c.trapCause := rfl
@[simp] theorem Core.after_trapPc (c : Core) (r : Reg) (n : Nat) : (c.after r n).trapPc = c.trapPc := rfl
@[simp] theorem Core.after_trapVal (c : Core) (r : Reg) (n : Nat) : (c.after r n).trapVal = c.trapVal := rfl
@[simp] theorem Core.after_trapTgt (c : Core) (r : Reg) (n : Nat) : (c.after r n).trapTgt = c.trapTgt := rfl
@[simp] theorem Core.after_tvec (c : Core) (r : Reg) (n : Nat) : (c.after r n).tvec = c.tvec := rfl
@[simp] theorem Core.after_sbase (c : Core) (r : Reg) (n : Nat) : (c.after r n).sbase = c.sbase := rfl
@[simp] theorem Core.after_slimit (c : Core) (r : Reg) (n : Nat) : (c.after r n).slimit = c.slimit := rfl
@[simp] theorem Core.after_calendar (c : Core) (r : Reg) (n : Nat) : (c.after r n).calendar = c.calendar := rfl
@[simp] theorem Core.after_vigil (c : Core) (r : Reg) (n : Nat) : (c.after r n).vigil = c.vigil := rfl
@[simp] theorem Core.after_tags (c : Core) (r : Reg) (n : Nat) : (c.after r n).tags = c.tags := rfl
@[simp] theorem Core.after_tagrev (c : Core) (r : Reg) (n : Nat) : (c.after r n).tagrev = c.tagrev := rfl
@[simp] theorem Core.after_oobcnt (c : Core) (r : Reg) (n : Nat) : (c.after r n).oobcnt = c.oobcnt := rfl
@[simp] theorem Core.after_fmtstat (c : Core) (r : Reg) (n : Nat) : (c.after r n).fmtstat = c.fmtstat := rfl
@[simp] theorem Core.after_waitcfg (c : Core) (r : Reg) (n : Nat) : (c.after r n).waitcfg = c.waitcfg := rfl
@[simp] theorem Core.after_crew (c : Core) (r : Reg) (n : Nat) : (c.after r n).crew = c.crew := rfl
@[simp] theorem Core.after_vtopo (c : Core) (r : Reg) (n : Nat) : (c.after r n).vtopo = c.vtopo := rfl
@[simp] theorem Core.after_poolAt (c : Core) (r : Reg) (n : Nat) : (c.after r n).poolAt = c.poolAt := rfl
@[simp] theorem Core.after_dbgcfg (c : Core) (r : Reg) (n : Nat) : (c.after r n).dbgcfg = c.dbgcfg := rfl
@[simp] theorem Core.after_samplecfg (c : Core) (r : Reg) (n : Nat) : (c.after r n).samplecfg = c.samplecfg := rfl
@[simp] theorem Core.after_wpbase (c : Core) (r : Reg) (n : Nat) : (c.after r n).wpbase = c.wpbase := rfl
@[simp] theorem Core.after_wpmask (c : Core) (r : Reg) (n : Nat) : (c.after r n).wpmask = c.wpmask := rfl
@[simp] theorem Core.after_ctrsel (c : Core) (r : Reg) (n : Nat) : (c.after r n).ctrsel = c.ctrsel := rfl
@[simp] theorem Core.after_ctrval (c : Core) (r : Reg) (n : Nat) : (c.after r n).ctrval = c.ctrval := rfl
@[simp] theorem Core.after_ctrRead (c : Core) (r : Reg) (n : Nat) : (c.after r n).ctrRead = c.ctrRead := rfl
@[simp] theorem Core.after_rows (c : Core) (r : Reg) (n : Nat) : (c.after r n).rows = c.rows := rfl
@[simp] theorem Core.after_rowReads (c : Core) (r : Reg) (n : Nat) : (c.after r n).rowReads = c.rowReads := rfl
@[simp] theorem Core.after_lastRow (c : Core) (r : Reg) (n : Nat) : (c.after r n).lastRow = c.lastRow := rfl
@[simp] theorem Core.after_jumped (c : Core) (r : Reg) (n : Nat) : (c.after r n).jumped = c.jumped := rfl
@[simp] theorem Core.after_coFence (c : Core) (r : Reg) (n : Nat) : (c.after r n).coFence = c.coFence := rfl
@[simp] theorem Core.after_scr (c : Core) (r : Reg) (n : Nat) : (c.after r n).scr = c.scr := rfl
@[simp] theorem Core.after_lanes (c : Core) (r : Reg) (n : Nat) : (c.after r n).lanes = c.lanes := rfl
@[simp] theorem Core.after_wb (c : Core) (r : Reg) (n : Nat) : (c.after r n).wb = c.wb := rfl
@[simp] theorem Core.after_timed (c : Core) (r : Reg) (n : Nat) : (c.after r n).timed = c.timed := rfl
@[simp] theorem Core.after_locks (c : Core) (r : Reg) (n : Nat) : (c.after r n).locks = c.locks := rfl
@[simp] theorem Core.after_bankReads (c : Core) (r : Reg) (n : Nat) : (c.after r n).bankReads = c.bankReads := rfl
@[simp] theorem Core.after_bankWrites (c : Core) (r : Reg) (n : Nat) : (c.after r n).bankWrites = c.bankWrites := rfl
@[simp] theorem Core.after_late (c : Core) (r : Reg) (n : Nat) : (c.after r n).late = c.late := rfl
@[simp] theorem Core.after_btime (c : Core) (r : Reg) (n : Nat) : (c.after r n).btime = c.btime := rfl
@[simp] theorem Core.after_nextIssue (c : Core) (r : Reg) (n : Nat) : (c.after r n).nextIssue = c.nextIssue := rfl
@[simp] theorem Core.after_vecFree (c : Core) (r : Reg) (n : Nat) : (c.after r n).vecFree = c.vecFree := rfl
@[simp] theorem Core.after_divFree (c : Core) (r : Reg) (n : Nat) : (c.after r n).divFree = c.divFree := rfl
@[simp] theorem Core.after_quantDone (c : Core) (r : Reg) (n : Nat) : (c.after r n).quantDone = c.quantDone := rfl
@[simp] theorem Core.after_acc (c : Core) (r : Reg) (n : Nat) : (c.after r n).acc = c.acc := rfl
@[simp] theorem Core.after_accNext (c : Core) (r : Reg) (n : Nat) : (c.after r n).accNext = c.accNext := rfl
@[simp] theorem Core.after_dep (c : Core) (r : Reg) (n : Nat) : (c.after r n).dep = c.dep := rfl
@[simp] theorem Core.after_depMsc (c : Core) (r : Reg) (n : Nat) : (c.after r n).depMsc = c.depMsc := rfl
@[simp] theorem Core.after_mscSeen (c : Core) (r : Reg) (n : Nat) : (c.after r n).mscSeen = c.mscSeen := rfl
@[simp] theorem Core.after_tfc (c : Core) (r : Reg) (n : Nat) : (c.after r n).tfc = c.tfc := rfl
@[simp] theorem Core.after_tfcReq (c : Core) (r : Reg) (n : Nat) : (c.after r n).tfcReq = c.tfcReq := rfl
@[simp] theorem Core.after_marks (c : Core) (r : Reg) (n : Nat) : (c.after r n).marks = c.marks := rfl
@[simp] theorem Core.after_owed (c : Core) (r : Reg) (n : Nat) : (c.after r n).owed = c.owed := rfl
@[simp] theorem Core.after_redOwed (c : Core) (r : Reg) (n : Nat) : (c.after r n).redOwed = c.redOwed := rfl
@[simp] theorem Core.after_redHeld (c : Core) (r : Reg) (n : Nat) : (c.after r n).redHeld = c.redHeld := rfl
@[simp] theorem Core.after_engPoison (c : Core) (r : Reg) (n : Nat) : (c.after r n).engPoison = c.engPoison := rfl
@[simp] theorem Core.after_watchNow (c : Core) (r : Reg) (n : Nat) : (c.after r n).watchNow = c.watchNow := rfl
@[simp] theorem Core.after_watchQ (c : Core) (r : Reg) (n : Nat) : (c.after r n).watchQ = c.watchQ := rfl
@[simp] theorem Core.after_watchLost (c : Core) (r : Reg) (n : Nat) : (c.after r n).watchLost = c.watchLost := rfl
@[simp] theorem Core.after_watchFly (c : Core) (r : Reg) (n : Nat) : (c.after r n).watchFly = c.watchFly := rfl
@[simp] theorem Core.after_waiting (c : Core) (r : Reg) (n : Nat) : (c.after r n).waiting = c.waiting := rfl
@[simp] theorem Core.after_waitStart (c : Core) (r : Reg) (n : Nat) : (c.after r n).waitStart = c.waitStart := rfl
@[simp] theorem Core.after_waitCal (c : Core) (r : Reg) (n : Nat) : (c.after r n).waitCal = c.waitCal := rfl
@[simp] theorem Core.after_preempt (c : Core) (r : Reg) (n : Nat) : (c.after r n).preempt = c.preempt := rfl
@[simp] theorem Core.after_dump (c : Core) (r : Reg) (n : Nat) : (c.after r n).dump = c.dump := rfl
@[simp] theorem Core.after_stopAt (c : Core) (r : Reg) (n : Nat) : (c.after r n).stopAt = c.stopAt := rfl
@[simp] theorem Core.after_sweeps (c : Core) (r : Reg) (n : Nat) : (c.after r n).sweeps = c.sweeps := rfl
@[simp] theorem Core.after_matrix (c : Core) (r : Reg) (n : Nat) : (c.after r n).matrix = c.matrix := rfl
@[simp] theorem Core.after_copy (c : Core) (r : Reg) (n : Nat) : (c.after r n).copy = c.copy := rfl
@[simp] theorem Core.after_lantern (c : Core) (r : Reg) (n : Nat) : (c.after r n).lantern = c.lantern := rfl
@[simp] theorem Core.after_cmdNext (c : Core) (r : Reg) (n : Nat) : (c.after r n).cmdNext = c.cmdNext := rfl
@[simp] theorem Core.after_fq (c : Core) (r : Reg) (n : Nat) : (c.after r n).fq = c.fq := rfl
@[simp] theorem Core.after_tiles (c : Core) (r : Reg) (n : Nat) : (c.after r n).tiles = c.tiles := rfl
@[simp] theorem Core.after_tileFinal (c : Core) (r : Reg) (n : Nat) : (c.after r n).tileFinal = c.tileFinal := rfl
@[simp] theorem Core.after_curves (c : Core) (r : Reg) (n : Nat) : (c.after r n).curves = c.curves := rfl
@[simp] theorem Core.after_lan (c : Core) (r : Reg) (n : Nat) : (c.after r n).lan = c.lan := rfl
@[simp] theorem Core.after_eqx (c : Core) (r : Reg) (n : Nat) : (c.after r n).eqx = c.eqx := rfl
@[simp] theorem Core.after_doneNow (c : Core) (r : Reg) (n : Nat) : (c.after r n).doneNow = c.doneNow := rfl
@[simp] theorem Core.after_fmtNow (c : Core) (r : Reg) (n : Nat) : (c.after r n).fmtNow = c.fmtNow := rfl
@[simp] theorem Core.after_fmtLate (c : Core) (r : Reg) (n : Nat) : (c.after r n).fmtLate = c.fmtLate := rfl
@[simp] theorem Core.after_statusNow (c : Core) (r : Reg) (n : Nat) : (c.after r n).statusNow = c.statusNow := rfl
@[simp] theorem Core.after_acted (c : Core) (r : Reg) (n : Nat) : (c.after r n).acted = c.acted := rfl
@[simp] theorem Core.after_headPc (c : Core) (r : Reg) (n : Nat) : (c.after r n).headPc = c.headPc := rfl
@[simp] theorem Core.after_headSlot (c : Core) (r : Reg) (n : Nat) : (c.after r n).headSlot = c.headSlot := rfl
@[simp] theorem Core.after_headRun (c : Core) (r : Reg) (n : Nat) : (c.after r n).headRun = c.headRun := rfl
@[simp] theorem Core.after_headInh (c : Core) (r : Reg) (n : Nat) : (c.after r n).headInh = c.headInh := rfl
@[simp] theorem Core.after_frozenAt (c : Core) (r : Reg) (n : Nat) : (c.after r n).frozenAt = c.frozenAt := rfl
@[simp] theorem Core.after_cur (c : Core) (r : Reg) (n : Nat) : (c.after r n).cur = c.cur := rfl
@[simp] theorem Core.after_stall (c : Core) (r : Reg) (n : Nat) : (c.after r n).stall = c.stall := rfl
@[simp] theorem Core.after_events (c : Core) (r : Reg) (n : Nat) : (c.after r n).events = c.events := rfl

@[simp] theorem Core.unmark_phys (c : Core) (r : Reg) : (c.unmark r).phys = c.phys := rfl
@[simp] theorem Core.unmark_ctx (c : Core) (r : Reg) : (c.unmark r).ctx = c.ctx := rfl
@[simp] theorem Core.unmark_task (c : Core) (r : Reg) : (c.unmark r).task = c.task := rfl
@[simp] theorem Core.unmark_s (c : Core) (r : Reg) : (c.unmark r).s = c.s := rfl
@[simp] theorem Core.unmark_v (c : Core) (r : Reg) : (c.unmark r).v = c.v := rfl
@[simp] theorem Core.unmark_p (c : Core) (r : Reg) : (c.unmark r).p = c.p := rfl
@[simp] theorem Core.unmark_k (c : Core) (r : Reg) : (c.unmark r).k = c.k := rfl
@[simp] theorem Core.unmark_b (c : Core) (r : Reg) : (c.unmark r).b = c.b := rfl
@[simp] theorem Core.unmark_bc (c : Core) (r : Reg) : (c.unmark r).bc = c.bc := rfl
@[simp] theorem Core.unmark_lc (c : Core) (r : Reg) : (c.unmark r).lc = c.lc := rfl
@[simp] theorem Core.unmark_ls (c : Core) (r : Reg) : (c.unmark r).ls = c.ls := rfl
@[simp] theorem Core.unmark_le (c : Core) (r : Reg) : (c.unmark r).le = c.le := rfl
@[simp] theorem Core.unmark_heldLs (c : Core) (r : Reg) : (c.unmark r).heldLs = c.heldLs := rfl
@[simp] theorem Core.unmark_heldLe (c : Core) (r : Reg) : (c.unmark r).heldLe = c.heldLe := rfl
@[simp] theorem Core.unmark_pc (c : Core) (r : Reg) : (c.unmark r).pc = c.pc := rfl
@[simp] theorem Core.unmark_slots (c : Core) (r : Reg) : (c.unmark r).slots = c.slots := rfl
@[simp] theorem Core.unmark_oob (c : Core) (r : Reg) : (c.unmark r).oob = c.oob := rfl
@[simp] theorem Core.unmark_revpend (c : Core) (r : Reg) : (c.unmark r).revpend = c.revpend := rfl
@[simp] theorem Core.unmark_inh (c : Core) (r : Reg) : (c.unmark r).inh = c.inh := rfl
@[simp] theorem Core.unmark_dsField (c : Core) (r : Reg) : (c.unmark r).dsField = c.dsField := rfl
@[simp] theorem Core.unmark_trapCause (c : Core) (r : Reg) : (c.unmark r).trapCause = c.trapCause := rfl
@[simp] theorem Core.unmark_trapPc (c : Core) (r : Reg) : (c.unmark r).trapPc = c.trapPc := rfl
@[simp] theorem Core.unmark_trapVal (c : Core) (r : Reg) : (c.unmark r).trapVal = c.trapVal := rfl
@[simp] theorem Core.unmark_trapTgt (c : Core) (r : Reg) : (c.unmark r).trapTgt = c.trapTgt := rfl
@[simp] theorem Core.unmark_tvec (c : Core) (r : Reg) : (c.unmark r).tvec = c.tvec := rfl
@[simp] theorem Core.unmark_sbase (c : Core) (r : Reg) : (c.unmark r).sbase = c.sbase := rfl
@[simp] theorem Core.unmark_slimit (c : Core) (r : Reg) : (c.unmark r).slimit = c.slimit := rfl
@[simp] theorem Core.unmark_calendar (c : Core) (r : Reg) : (c.unmark r).calendar = c.calendar := rfl
@[simp] theorem Core.unmark_vigil (c : Core) (r : Reg) : (c.unmark r).vigil = c.vigil := rfl
@[simp] theorem Core.unmark_tags (c : Core) (r : Reg) : (c.unmark r).tags = c.tags := rfl
@[simp] theorem Core.unmark_tagrev (c : Core) (r : Reg) : (c.unmark r).tagrev = c.tagrev := rfl
@[simp] theorem Core.unmark_oobcnt (c : Core) (r : Reg) : (c.unmark r).oobcnt = c.oobcnt := rfl
@[simp] theorem Core.unmark_fmtstat (c : Core) (r : Reg) : (c.unmark r).fmtstat = c.fmtstat := rfl
@[simp] theorem Core.unmark_waitcfg (c : Core) (r : Reg) : (c.unmark r).waitcfg = c.waitcfg := rfl
@[simp] theorem Core.unmark_crew (c : Core) (r : Reg) : (c.unmark r).crew = c.crew := rfl
@[simp] theorem Core.unmark_vtopo (c : Core) (r : Reg) : (c.unmark r).vtopo = c.vtopo := rfl
@[simp] theorem Core.unmark_poolAt (c : Core) (r : Reg) : (c.unmark r).poolAt = c.poolAt := rfl
@[simp] theorem Core.unmark_dbgcfg (c : Core) (r : Reg) : (c.unmark r).dbgcfg = c.dbgcfg := rfl
@[simp] theorem Core.unmark_samplecfg (c : Core) (r : Reg) : (c.unmark r).samplecfg = c.samplecfg := rfl
@[simp] theorem Core.unmark_wpbase (c : Core) (r : Reg) : (c.unmark r).wpbase = c.wpbase := rfl
@[simp] theorem Core.unmark_wpmask (c : Core) (r : Reg) : (c.unmark r).wpmask = c.wpmask := rfl
@[simp] theorem Core.unmark_ctrsel (c : Core) (r : Reg) : (c.unmark r).ctrsel = c.ctrsel := rfl
@[simp] theorem Core.unmark_ctrval (c : Core) (r : Reg) : (c.unmark r).ctrval = c.ctrval := rfl
@[simp] theorem Core.unmark_ctrRead (c : Core) (r : Reg) : (c.unmark r).ctrRead = c.ctrRead := rfl
@[simp] theorem Core.unmark_rows (c : Core) (r : Reg) : (c.unmark r).rows = c.rows := rfl
@[simp] theorem Core.unmark_rowReads (c : Core) (r : Reg) : (c.unmark r).rowReads = c.rowReads := rfl
@[simp] theorem Core.unmark_lastRow (c : Core) (r : Reg) : (c.unmark r).lastRow = c.lastRow := rfl
@[simp] theorem Core.unmark_jumped (c : Core) (r : Reg) : (c.unmark r).jumped = c.jumped := rfl
@[simp] theorem Core.unmark_coFence (c : Core) (r : Reg) : (c.unmark r).coFence = c.coFence := rfl
@[simp] theorem Core.unmark_scr (c : Core) (r : Reg) : (c.unmark r).scr = c.scr := rfl
@[simp] theorem Core.unmark_lanes (c : Core) (r : Reg) : (c.unmark r).lanes = c.lanes := rfl
@[simp] theorem Core.unmark_wb (c : Core) (r : Reg) : (c.unmark r).wb = c.wb := rfl
@[simp] theorem Core.unmark_timed (c : Core) (r : Reg) : (c.unmark r).timed = c.timed := rfl
@[simp] theorem Core.unmark_locks (c : Core) (r : Reg) : (c.unmark r).locks = c.locks := rfl
@[simp] theorem Core.unmark_bankReads (c : Core) (r : Reg) : (c.unmark r).bankReads = c.bankReads := rfl
@[simp] theorem Core.unmark_bankWrites (c : Core) (r : Reg) : (c.unmark r).bankWrites = c.bankWrites := rfl
@[simp] theorem Core.unmark_late (c : Core) (r : Reg) : (c.unmark r).late = c.late := rfl
@[simp] theorem Core.unmark_ready (c : Core) (r : Reg) : (c.unmark r).ready = c.ready := rfl
@[simp] theorem Core.unmark_btime (c : Core) (r : Reg) : (c.unmark r).btime = c.btime := rfl
@[simp] theorem Core.unmark_nextIssue (c : Core) (r : Reg) : (c.unmark r).nextIssue = c.nextIssue := rfl
@[simp] theorem Core.unmark_vecFree (c : Core) (r : Reg) : (c.unmark r).vecFree = c.vecFree := rfl
@[simp] theorem Core.unmark_divFree (c : Core) (r : Reg) : (c.unmark r).divFree = c.divFree := rfl
@[simp] theorem Core.unmark_quantDone (c : Core) (r : Reg) : (c.unmark r).quantDone = c.quantDone := rfl
@[simp] theorem Core.unmark_acc (c : Core) (r : Reg) : (c.unmark r).acc = c.acc := rfl
@[simp] theorem Core.unmark_accNext (c : Core) (r : Reg) : (c.unmark r).accNext = c.accNext := rfl
@[simp] theorem Core.unmark_dep (c : Core) (r : Reg) : (c.unmark r).dep = c.dep := rfl
@[simp] theorem Core.unmark_depMsc (c : Core) (r : Reg) : (c.unmark r).depMsc = c.depMsc := rfl
@[simp] theorem Core.unmark_mscSeen (c : Core) (r : Reg) : (c.unmark r).mscSeen = c.mscSeen := rfl
@[simp] theorem Core.unmark_tfc (c : Core) (r : Reg) : (c.unmark r).tfc = c.tfc := rfl
@[simp] theorem Core.unmark_tfcReq (c : Core) (r : Reg) : (c.unmark r).tfcReq = c.tfcReq := rfl
@[simp] theorem Core.unmark_redOwed (c : Core) (r : Reg) : (c.unmark r).redOwed = c.redOwed := rfl
@[simp] theorem Core.unmark_redHeld (c : Core) (r : Reg) : (c.unmark r).redHeld = c.redHeld := rfl
@[simp] theorem Core.unmark_engPoison (c : Core) (r : Reg) : (c.unmark r).engPoison = c.engPoison := rfl
@[simp] theorem Core.unmark_watchNow (c : Core) (r : Reg) : (c.unmark r).watchNow = c.watchNow := rfl
@[simp] theorem Core.unmark_watchQ (c : Core) (r : Reg) : (c.unmark r).watchQ = c.watchQ := rfl
@[simp] theorem Core.unmark_watchLost (c : Core) (r : Reg) : (c.unmark r).watchLost = c.watchLost := rfl
@[simp] theorem Core.unmark_watchFly (c : Core) (r : Reg) : (c.unmark r).watchFly = c.watchFly := rfl
@[simp] theorem Core.unmark_waiting (c : Core) (r : Reg) : (c.unmark r).waiting = c.waiting := rfl
@[simp] theorem Core.unmark_waitStart (c : Core) (r : Reg) : (c.unmark r).waitStart = c.waitStart := rfl
@[simp] theorem Core.unmark_waitCal (c : Core) (r : Reg) : (c.unmark r).waitCal = c.waitCal := rfl
@[simp] theorem Core.unmark_preempt (c : Core) (r : Reg) : (c.unmark r).preempt = c.preempt := rfl
@[simp] theorem Core.unmark_dump (c : Core) (r : Reg) : (c.unmark r).dump = c.dump := rfl
@[simp] theorem Core.unmark_stopAt (c : Core) (r : Reg) : (c.unmark r).stopAt = c.stopAt := rfl
@[simp] theorem Core.unmark_sweeps (c : Core) (r : Reg) : (c.unmark r).sweeps = c.sweeps := rfl
@[simp] theorem Core.unmark_matrix (c : Core) (r : Reg) : (c.unmark r).matrix = c.matrix := rfl
@[simp] theorem Core.unmark_copy (c : Core) (r : Reg) : (c.unmark r).copy = c.copy := rfl
@[simp] theorem Core.unmark_lantern (c : Core) (r : Reg) : (c.unmark r).lantern = c.lantern := rfl
@[simp] theorem Core.unmark_cmdNext (c : Core) (r : Reg) : (c.unmark r).cmdNext = c.cmdNext := rfl
@[simp] theorem Core.unmark_fq (c : Core) (r : Reg) : (c.unmark r).fq = c.fq := rfl
@[simp] theorem Core.unmark_tiles (c : Core) (r : Reg) : (c.unmark r).tiles = c.tiles := rfl
@[simp] theorem Core.unmark_tileFinal (c : Core) (r : Reg) : (c.unmark r).tileFinal = c.tileFinal := rfl
@[simp] theorem Core.unmark_curves (c : Core) (r : Reg) : (c.unmark r).curves = c.curves := rfl
@[simp] theorem Core.unmark_lan (c : Core) (r : Reg) : (c.unmark r).lan = c.lan := rfl
@[simp] theorem Core.unmark_eqx (c : Core) (r : Reg) : (c.unmark r).eqx = c.eqx := rfl
@[simp] theorem Core.unmark_doneNow (c : Core) (r : Reg) : (c.unmark r).doneNow = c.doneNow := rfl
@[simp] theorem Core.unmark_fmtNow (c : Core) (r : Reg) : (c.unmark r).fmtNow = c.fmtNow := rfl
@[simp] theorem Core.unmark_fmtLate (c : Core) (r : Reg) : (c.unmark r).fmtLate = c.fmtLate := rfl
@[simp] theorem Core.unmark_statusNow (c : Core) (r : Reg) : (c.unmark r).statusNow = c.statusNow := rfl
@[simp] theorem Core.unmark_acted (c : Core) (r : Reg) : (c.unmark r).acted = c.acted := rfl
@[simp] theorem Core.unmark_headPc (c : Core) (r : Reg) : (c.unmark r).headPc = c.headPc := rfl
@[simp] theorem Core.unmark_headSlot (c : Core) (r : Reg) : (c.unmark r).headSlot = c.headSlot := rfl
@[simp] theorem Core.unmark_headRun (c : Core) (r : Reg) : (c.unmark r).headRun = c.headRun := rfl
@[simp] theorem Core.unmark_headInh (c : Core) (r : Reg) : (c.unmark r).headInh = c.headInh := rfl
@[simp] theorem Core.unmark_frozenAt (c : Core) (r : Reg) : (c.unmark r).frozenAt = c.frozenAt := rfl
@[simp] theorem Core.unmark_cur (c : Core) (r : Reg) : (c.unmark r).cur = c.cur := rfl
@[simp] theorem Core.unmark_stall (c : Core) (r : Reg) : (c.unmark r).stall = c.stall := rfl
@[simp] theorem Core.unmark_events (c : Core) (r : Reg) : (c.unmark r).events = c.events := rfl

@[simp] theorem Core.note_phys (c : Core) (e : BitVec 8) : (c.note e).phys = c.phys := rfl
@[simp] theorem Core.note_ctx (c : Core) (e : BitVec 8) : (c.note e).ctx = c.ctx := rfl
@[simp] theorem Core.note_task (c : Core) (e : BitVec 8) : (c.note e).task = c.task := rfl
@[simp] theorem Core.note_s (c : Core) (e : BitVec 8) : (c.note e).s = c.s := rfl
@[simp] theorem Core.note_v (c : Core) (e : BitVec 8) : (c.note e).v = c.v := rfl
@[simp] theorem Core.note_p (c : Core) (e : BitVec 8) : (c.note e).p = c.p := rfl
@[simp] theorem Core.note_k (c : Core) (e : BitVec 8) : (c.note e).k = c.k := rfl
@[simp] theorem Core.note_b (c : Core) (e : BitVec 8) : (c.note e).b = c.b := rfl
@[simp] theorem Core.note_bc (c : Core) (e : BitVec 8) : (c.note e).bc = c.bc := rfl
@[simp] theorem Core.note_lc (c : Core) (e : BitVec 8) : (c.note e).lc = c.lc := rfl
@[simp] theorem Core.note_ls (c : Core) (e : BitVec 8) : (c.note e).ls = c.ls := rfl
@[simp] theorem Core.note_le (c : Core) (e : BitVec 8) : (c.note e).le = c.le := rfl
@[simp] theorem Core.note_heldLs (c : Core) (e : BitVec 8) : (c.note e).heldLs = c.heldLs := rfl
@[simp] theorem Core.note_heldLe (c : Core) (e : BitVec 8) : (c.note e).heldLe = c.heldLe := rfl
@[simp] theorem Core.note_pc (c : Core) (e : BitVec 8) : (c.note e).pc = c.pc := rfl
@[simp] theorem Core.note_slots (c : Core) (e : BitVec 8) : (c.note e).slots = c.slots := rfl
@[simp] theorem Core.note_oob (c : Core) (e : BitVec 8) : (c.note e).oob = c.oob := rfl
@[simp] theorem Core.note_revpend (c : Core) (e : BitVec 8) : (c.note e).revpend = c.revpend := rfl
@[simp] theorem Core.note_inh (c : Core) (e : BitVec 8) : (c.note e).inh = c.inh := rfl
@[simp] theorem Core.note_dsField (c : Core) (e : BitVec 8) : (c.note e).dsField = c.dsField := rfl
@[simp] theorem Core.note_trapCause (c : Core) (e : BitVec 8) : (c.note e).trapCause = c.trapCause := rfl
@[simp] theorem Core.note_trapPc (c : Core) (e : BitVec 8) : (c.note e).trapPc = c.trapPc := rfl
@[simp] theorem Core.note_trapVal (c : Core) (e : BitVec 8) : (c.note e).trapVal = c.trapVal := rfl
@[simp] theorem Core.note_trapTgt (c : Core) (e : BitVec 8) : (c.note e).trapTgt = c.trapTgt := rfl
@[simp] theorem Core.note_tvec (c : Core) (e : BitVec 8) : (c.note e).tvec = c.tvec := rfl
@[simp] theorem Core.note_sbase (c : Core) (e : BitVec 8) : (c.note e).sbase = c.sbase := rfl
@[simp] theorem Core.note_slimit (c : Core) (e : BitVec 8) : (c.note e).slimit = c.slimit := rfl
@[simp] theorem Core.note_calendar (c : Core) (e : BitVec 8) : (c.note e).calendar = c.calendar := rfl
@[simp] theorem Core.note_vigil (c : Core) (e : BitVec 8) : (c.note e).vigil = c.vigil := rfl
@[simp] theorem Core.note_tags (c : Core) (e : BitVec 8) : (c.note e).tags = c.tags := rfl
@[simp] theorem Core.note_tagrev (c : Core) (e : BitVec 8) : (c.note e).tagrev = c.tagrev := rfl
@[simp] theorem Core.note_oobcnt (c : Core) (e : BitVec 8) : (c.note e).oobcnt = c.oobcnt := rfl
@[simp] theorem Core.note_fmtstat (c : Core) (e : BitVec 8) : (c.note e).fmtstat = c.fmtstat := rfl
@[simp] theorem Core.note_waitcfg (c : Core) (e : BitVec 8) : (c.note e).waitcfg = c.waitcfg := rfl
@[simp] theorem Core.note_crew (c : Core) (e : BitVec 8) : (c.note e).crew = c.crew := rfl
@[simp] theorem Core.note_vtopo (c : Core) (e : BitVec 8) : (c.note e).vtopo = c.vtopo := rfl
@[simp] theorem Core.note_poolAt (c : Core) (e : BitVec 8) : (c.note e).poolAt = c.poolAt := rfl
@[simp] theorem Core.note_dbgcfg (c : Core) (e : BitVec 8) : (c.note e).dbgcfg = c.dbgcfg := rfl
@[simp] theorem Core.note_samplecfg (c : Core) (e : BitVec 8) : (c.note e).samplecfg = c.samplecfg := rfl
@[simp] theorem Core.note_wpbase (c : Core) (e : BitVec 8) : (c.note e).wpbase = c.wpbase := rfl
@[simp] theorem Core.note_wpmask (c : Core) (e : BitVec 8) : (c.note e).wpmask = c.wpmask := rfl
@[simp] theorem Core.note_ctrsel (c : Core) (e : BitVec 8) : (c.note e).ctrsel = c.ctrsel := rfl
@[simp] theorem Core.note_ctrval (c : Core) (e : BitVec 8) : (c.note e).ctrval = c.ctrval := rfl
@[simp] theorem Core.note_ctrRead (c : Core) (e : BitVec 8) : (c.note e).ctrRead = c.ctrRead := rfl
@[simp] theorem Core.note_rows (c : Core) (e : BitVec 8) : (c.note e).rows = c.rows := rfl
@[simp] theorem Core.note_rowReads (c : Core) (e : BitVec 8) : (c.note e).rowReads = c.rowReads := rfl
@[simp] theorem Core.note_lastRow (c : Core) (e : BitVec 8) : (c.note e).lastRow = c.lastRow := rfl
@[simp] theorem Core.note_jumped (c : Core) (e : BitVec 8) : (c.note e).jumped = c.jumped := rfl
@[simp] theorem Core.note_coFence (c : Core) (e : BitVec 8) : (c.note e).coFence = c.coFence := rfl
@[simp] theorem Core.note_scr (c : Core) (e : BitVec 8) : (c.note e).scr = c.scr := rfl
@[simp] theorem Core.note_lanes (c : Core) (e : BitVec 8) : (c.note e).lanes = c.lanes := rfl
@[simp] theorem Core.note_wb (c : Core) (e : BitVec 8) : (c.note e).wb = c.wb := rfl
@[simp] theorem Core.note_timed (c : Core) (e : BitVec 8) : (c.note e).timed = c.timed := rfl
@[simp] theorem Core.note_locks (c : Core) (e : BitVec 8) : (c.note e).locks = c.locks := rfl
@[simp] theorem Core.note_bankReads (c : Core) (e : BitVec 8) : (c.note e).bankReads = c.bankReads := rfl
@[simp] theorem Core.note_bankWrites (c : Core) (e : BitVec 8) : (c.note e).bankWrites = c.bankWrites := rfl
@[simp] theorem Core.note_late (c : Core) (e : BitVec 8) : (c.note e).late = c.late := rfl
@[simp] theorem Core.note_ready (c : Core) (e : BitVec 8) : (c.note e).ready = c.ready := rfl
@[simp] theorem Core.note_btime (c : Core) (e : BitVec 8) : (c.note e).btime = c.btime := rfl
@[simp] theorem Core.note_nextIssue (c : Core) (e : BitVec 8) : (c.note e).nextIssue = c.nextIssue := rfl
@[simp] theorem Core.note_vecFree (c : Core) (e : BitVec 8) : (c.note e).vecFree = c.vecFree := rfl
@[simp] theorem Core.note_divFree (c : Core) (e : BitVec 8) : (c.note e).divFree = c.divFree := rfl
@[simp] theorem Core.note_quantDone (c : Core) (e : BitVec 8) : (c.note e).quantDone = c.quantDone := rfl
@[simp] theorem Core.note_acc (c : Core) (e : BitVec 8) : (c.note e).acc = c.acc := rfl
@[simp] theorem Core.note_accNext (c : Core) (e : BitVec 8) : (c.note e).accNext = c.accNext := rfl
@[simp] theorem Core.note_dep (c : Core) (e : BitVec 8) : (c.note e).dep = c.dep := rfl
@[simp] theorem Core.note_depMsc (c : Core) (e : BitVec 8) : (c.note e).depMsc = c.depMsc := rfl
@[simp] theorem Core.note_mscSeen (c : Core) (e : BitVec 8) : (c.note e).mscSeen = c.mscSeen := rfl
@[simp] theorem Core.note_tfc (c : Core) (e : BitVec 8) : (c.note e).tfc = c.tfc := rfl
@[simp] theorem Core.note_tfcReq (c : Core) (e : BitVec 8) : (c.note e).tfcReq = c.tfcReq := rfl
@[simp] theorem Core.note_marks (c : Core) (e : BitVec 8) : (c.note e).marks = c.marks := rfl
@[simp] theorem Core.note_owed (c : Core) (e : BitVec 8) : (c.note e).owed = c.owed := rfl
@[simp] theorem Core.note_redOwed (c : Core) (e : BitVec 8) : (c.note e).redOwed = c.redOwed := rfl
@[simp] theorem Core.note_redHeld (c : Core) (e : BitVec 8) : (c.note e).redHeld = c.redHeld := rfl
@[simp] theorem Core.note_engPoison (c : Core) (e : BitVec 8) : (c.note e).engPoison = c.engPoison := rfl
@[simp] theorem Core.note_watchNow (c : Core) (e : BitVec 8) : (c.note e).watchNow = c.watchNow := rfl
@[simp] theorem Core.note_watchQ (c : Core) (e : BitVec 8) : (c.note e).watchQ = c.watchQ := rfl
@[simp] theorem Core.note_watchLost (c : Core) (e : BitVec 8) : (c.note e).watchLost = c.watchLost := rfl
@[simp] theorem Core.note_watchFly (c : Core) (e : BitVec 8) : (c.note e).watchFly = c.watchFly := rfl
@[simp] theorem Core.note_waiting (c : Core) (e : BitVec 8) : (c.note e).waiting = c.waiting := rfl
@[simp] theorem Core.note_waitStart (c : Core) (e : BitVec 8) : (c.note e).waitStart = c.waitStart := rfl
@[simp] theorem Core.note_waitCal (c : Core) (e : BitVec 8) : (c.note e).waitCal = c.waitCal := rfl
@[simp] theorem Core.note_preempt (c : Core) (e : BitVec 8) : (c.note e).preempt = c.preempt := rfl
@[simp] theorem Core.note_dump (c : Core) (e : BitVec 8) : (c.note e).dump = c.dump := rfl
@[simp] theorem Core.note_stopAt (c : Core) (e : BitVec 8) : (c.note e).stopAt = c.stopAt := rfl
@[simp] theorem Core.note_sweeps (c : Core) (e : BitVec 8) : (c.note e).sweeps = c.sweeps := rfl
@[simp] theorem Core.note_matrix (c : Core) (e : BitVec 8) : (c.note e).matrix = c.matrix := rfl
@[simp] theorem Core.note_copy (c : Core) (e : BitVec 8) : (c.note e).copy = c.copy := rfl
@[simp] theorem Core.note_lantern (c : Core) (e : BitVec 8) : (c.note e).lantern = c.lantern := rfl
@[simp] theorem Core.note_cmdNext (c : Core) (e : BitVec 8) : (c.note e).cmdNext = c.cmdNext := rfl
@[simp] theorem Core.note_fq (c : Core) (e : BitVec 8) : (c.note e).fq = c.fq := rfl
@[simp] theorem Core.note_tiles (c : Core) (e : BitVec 8) : (c.note e).tiles = c.tiles := rfl
@[simp] theorem Core.note_tileFinal (c : Core) (e : BitVec 8) : (c.note e).tileFinal = c.tileFinal := rfl
@[simp] theorem Core.note_curves (c : Core) (e : BitVec 8) : (c.note e).curves = c.curves := rfl
@[simp] theorem Core.note_lan (c : Core) (e : BitVec 8) : (c.note e).lan = c.lan := rfl
@[simp] theorem Core.note_eqx (c : Core) (e : BitVec 8) : (c.note e).eqx = c.eqx := rfl
@[simp] theorem Core.note_doneNow (c : Core) (e : BitVec 8) : (c.note e).doneNow = c.doneNow := rfl
@[simp] theorem Core.note_fmtNow (c : Core) (e : BitVec 8) : (c.note e).fmtNow = c.fmtNow := rfl
@[simp] theorem Core.note_fmtLate (c : Core) (e : BitVec 8) : (c.note e).fmtLate = c.fmtLate := rfl
@[simp] theorem Core.note_statusNow (c : Core) (e : BitVec 8) : (c.note e).statusNow = c.statusNow := rfl
@[simp] theorem Core.note_acted (c : Core) (e : BitVec 8) : (c.note e).acted = c.acted := rfl
@[simp] theorem Core.note_headPc (c : Core) (e : BitVec 8) : (c.note e).headPc = c.headPc := rfl
@[simp] theorem Core.note_headSlot (c : Core) (e : BitVec 8) : (c.note e).headSlot = c.headSlot := rfl
@[simp] theorem Core.note_headRun (c : Core) (e : BitVec 8) : (c.note e).headRun = c.headRun := rfl
@[simp] theorem Core.note_headInh (c : Core) (e : BitVec 8) : (c.note e).headInh = c.headInh := rfl
@[simp] theorem Core.note_frozenAt (c : Core) (e : BitVec 8) : (c.note e).frozenAt = c.frozenAt := rfl
@[simp] theorem Core.note_cur (c : Core) (e : BitVec 8) : (c.note e).cur = c.cur := rfl
@[simp] theorem Core.note_stall (c : Core) (e : BitVec 8) : (c.note e).stall = c.stall := rfl

@[simp] theorem Core.takePort_phys (c : Core) (t a n : Nat) : (c.takePort t a n).phys = c.phys := rfl
@[simp] theorem Core.takePort_ctx (c : Core) (t a n : Nat) : (c.takePort t a n).ctx = c.ctx := rfl
@[simp] theorem Core.takePort_task (c : Core) (t a n : Nat) : (c.takePort t a n).task = c.task := rfl
@[simp] theorem Core.takePort_s (c : Core) (t a n : Nat) : (c.takePort t a n).s = c.s := rfl
@[simp] theorem Core.takePort_v (c : Core) (t a n : Nat) : (c.takePort t a n).v = c.v := rfl
@[simp] theorem Core.takePort_p (c : Core) (t a n : Nat) : (c.takePort t a n).p = c.p := rfl
@[simp] theorem Core.takePort_k (c : Core) (t a n : Nat) : (c.takePort t a n).k = c.k := rfl
@[simp] theorem Core.takePort_b (c : Core) (t a n : Nat) : (c.takePort t a n).b = c.b := rfl
@[simp] theorem Core.takePort_bc (c : Core) (t a n : Nat) : (c.takePort t a n).bc = c.bc := rfl
@[simp] theorem Core.takePort_lc (c : Core) (t a n : Nat) : (c.takePort t a n).lc = c.lc := rfl
@[simp] theorem Core.takePort_ls (c : Core) (t a n : Nat) : (c.takePort t a n).ls = c.ls := rfl
@[simp] theorem Core.takePort_le (c : Core) (t a n : Nat) : (c.takePort t a n).le = c.le := rfl
@[simp] theorem Core.takePort_heldLs (c : Core) (t a n : Nat) : (c.takePort t a n).heldLs = c.heldLs := rfl
@[simp] theorem Core.takePort_heldLe (c : Core) (t a n : Nat) : (c.takePort t a n).heldLe = c.heldLe := rfl
@[simp] theorem Core.takePort_pc (c : Core) (t a n : Nat) : (c.takePort t a n).pc = c.pc := rfl
@[simp] theorem Core.takePort_slots (c : Core) (t a n : Nat) : (c.takePort t a n).slots = c.slots := rfl
@[simp] theorem Core.takePort_oob (c : Core) (t a n : Nat) : (c.takePort t a n).oob = c.oob := rfl
@[simp] theorem Core.takePort_revpend (c : Core) (t a n : Nat) : (c.takePort t a n).revpend = c.revpend := rfl
@[simp] theorem Core.takePort_inh (c : Core) (t a n : Nat) : (c.takePort t a n).inh = c.inh := rfl
@[simp] theorem Core.takePort_dsField (c : Core) (t a n : Nat) : (c.takePort t a n).dsField = c.dsField := rfl
@[simp] theorem Core.takePort_trapCause (c : Core) (t a n : Nat) : (c.takePort t a n).trapCause = c.trapCause := rfl
@[simp] theorem Core.takePort_trapPc (c : Core) (t a n : Nat) : (c.takePort t a n).trapPc = c.trapPc := rfl
@[simp] theorem Core.takePort_trapVal (c : Core) (t a n : Nat) : (c.takePort t a n).trapVal = c.trapVal := rfl
@[simp] theorem Core.takePort_trapTgt (c : Core) (t a n : Nat) : (c.takePort t a n).trapTgt = c.trapTgt := rfl
@[simp] theorem Core.takePort_tvec (c : Core) (t a n : Nat) : (c.takePort t a n).tvec = c.tvec := rfl
@[simp] theorem Core.takePort_sbase (c : Core) (t a n : Nat) : (c.takePort t a n).sbase = c.sbase := rfl
@[simp] theorem Core.takePort_slimit (c : Core) (t a n : Nat) : (c.takePort t a n).slimit = c.slimit := rfl
@[simp] theorem Core.takePort_calendar (c : Core) (t a n : Nat) : (c.takePort t a n).calendar = c.calendar := rfl
@[simp] theorem Core.takePort_vigil (c : Core) (t a n : Nat) : (c.takePort t a n).vigil = c.vigil := rfl
@[simp] theorem Core.takePort_tags (c : Core) (t a n : Nat) : (c.takePort t a n).tags = c.tags := rfl
@[simp] theorem Core.takePort_tagrev (c : Core) (t a n : Nat) : (c.takePort t a n).tagrev = c.tagrev := rfl
@[simp] theorem Core.takePort_oobcnt (c : Core) (t a n : Nat) : (c.takePort t a n).oobcnt = c.oobcnt := rfl
@[simp] theorem Core.takePort_fmtstat (c : Core) (t a n : Nat) : (c.takePort t a n).fmtstat = c.fmtstat := rfl
@[simp] theorem Core.takePort_waitcfg (c : Core) (t a n : Nat) : (c.takePort t a n).waitcfg = c.waitcfg := rfl
@[simp] theorem Core.takePort_crew (c : Core) (t a n : Nat) : (c.takePort t a n).crew = c.crew := rfl
@[simp] theorem Core.takePort_vtopo (c : Core) (t a n : Nat) : (c.takePort t a n).vtopo = c.vtopo := rfl
@[simp] theorem Core.takePort_poolAt (c : Core) (t a n : Nat) : (c.takePort t a n).poolAt = c.poolAt := rfl
@[simp] theorem Core.takePort_dbgcfg (c : Core) (t a n : Nat) : (c.takePort t a n).dbgcfg = c.dbgcfg := rfl
@[simp] theorem Core.takePort_samplecfg (c : Core) (t a n : Nat) : (c.takePort t a n).samplecfg = c.samplecfg := rfl
@[simp] theorem Core.takePort_wpbase (c : Core) (t a n : Nat) : (c.takePort t a n).wpbase = c.wpbase := rfl
@[simp] theorem Core.takePort_wpmask (c : Core) (t a n : Nat) : (c.takePort t a n).wpmask = c.wpmask := rfl
@[simp] theorem Core.takePort_ctrsel (c : Core) (t a n : Nat) : (c.takePort t a n).ctrsel = c.ctrsel := rfl
@[simp] theorem Core.takePort_ctrval (c : Core) (t a n : Nat) : (c.takePort t a n).ctrval = c.ctrval := rfl
@[simp] theorem Core.takePort_ctrRead (c : Core) (t a n : Nat) : (c.takePort t a n).ctrRead = c.ctrRead := rfl
@[simp] theorem Core.takePort_rows (c : Core) (t a n : Nat) : (c.takePort t a n).rows = c.rows := rfl
@[simp] theorem Core.takePort_rowReads (c : Core) (t a n : Nat) : (c.takePort t a n).rowReads = c.rowReads := rfl
@[simp] theorem Core.takePort_lastRow (c : Core) (t a n : Nat) : (c.takePort t a n).lastRow = c.lastRow := rfl
@[simp] theorem Core.takePort_jumped (c : Core) (t a n : Nat) : (c.takePort t a n).jumped = c.jumped := rfl
@[simp] theorem Core.takePort_coFence (c : Core) (t a n : Nat) : (c.takePort t a n).coFence = c.coFence := rfl
@[simp] theorem Core.takePort_scr (c : Core) (t a n : Nat) : (c.takePort t a n).scr = c.scr := rfl
@[simp] theorem Core.takePort_lanes (c : Core) (t a n : Nat) : (c.takePort t a n).lanes = c.lanes := rfl
@[simp] theorem Core.takePort_wb (c : Core) (t a n : Nat) : (c.takePort t a n).wb = c.wb := rfl
@[simp] theorem Core.takePort_timed (c : Core) (t a n : Nat) : (c.takePort t a n).timed = c.timed := rfl
@[simp] theorem Core.takePort_locks (c : Core) (t a n : Nat) : (c.takePort t a n).locks = c.locks := rfl
@[simp] theorem Core.takePort_bankWrites (c : Core) (t a n : Nat) : (c.takePort t a n).bankWrites = c.bankWrites := rfl
@[simp] theorem Core.takePort_late (c : Core) (t a n : Nat) : (c.takePort t a n).late = c.late := rfl
@[simp] theorem Core.takePort_ready (c : Core) (t a n : Nat) : (c.takePort t a n).ready = c.ready := rfl
@[simp] theorem Core.takePort_btime (c : Core) (t a n : Nat) : (c.takePort t a n).btime = c.btime := rfl
@[simp] theorem Core.takePort_nextIssue (c : Core) (t a n : Nat) : (c.takePort t a n).nextIssue = c.nextIssue := rfl
@[simp] theorem Core.takePort_vecFree (c : Core) (t a n : Nat) : (c.takePort t a n).vecFree = c.vecFree := rfl
@[simp] theorem Core.takePort_divFree (c : Core) (t a n : Nat) : (c.takePort t a n).divFree = c.divFree := rfl
@[simp] theorem Core.takePort_quantDone (c : Core) (t a n : Nat) : (c.takePort t a n).quantDone = c.quantDone := rfl
@[simp] theorem Core.takePort_acc (c : Core) (t a n : Nat) : (c.takePort t a n).acc = c.acc := rfl
@[simp] theorem Core.takePort_accNext (c : Core) (t a n : Nat) : (c.takePort t a n).accNext = c.accNext := rfl
@[simp] theorem Core.takePort_dep (c : Core) (t a n : Nat) : (c.takePort t a n).dep = c.dep := rfl
@[simp] theorem Core.takePort_depMsc (c : Core) (t a n : Nat) : (c.takePort t a n).depMsc = c.depMsc := rfl
@[simp] theorem Core.takePort_mscSeen (c : Core) (t a n : Nat) : (c.takePort t a n).mscSeen = c.mscSeen := rfl
@[simp] theorem Core.takePort_tfc (c : Core) (t a n : Nat) : (c.takePort t a n).tfc = c.tfc := rfl
@[simp] theorem Core.takePort_tfcReq (c : Core) (t a n : Nat) : (c.takePort t a n).tfcReq = c.tfcReq := rfl
@[simp] theorem Core.takePort_marks (c : Core) (t a n : Nat) : (c.takePort t a n).marks = c.marks := rfl
@[simp] theorem Core.takePort_owed (c : Core) (t a n : Nat) : (c.takePort t a n).owed = c.owed := rfl
@[simp] theorem Core.takePort_redOwed (c : Core) (t a n : Nat) : (c.takePort t a n).redOwed = c.redOwed := rfl
@[simp] theorem Core.takePort_redHeld (c : Core) (t a n : Nat) : (c.takePort t a n).redHeld = c.redHeld := rfl
@[simp] theorem Core.takePort_engPoison (c : Core) (t a n : Nat) : (c.takePort t a n).engPoison = c.engPoison := rfl
@[simp] theorem Core.takePort_watchNow (c : Core) (t a n : Nat) : (c.takePort t a n).watchNow = c.watchNow := rfl
@[simp] theorem Core.takePort_watchQ (c : Core) (t a n : Nat) : (c.takePort t a n).watchQ = c.watchQ := rfl
@[simp] theorem Core.takePort_watchLost (c : Core) (t a n : Nat) : (c.takePort t a n).watchLost = c.watchLost := rfl
@[simp] theorem Core.takePort_watchFly (c : Core) (t a n : Nat) : (c.takePort t a n).watchFly = c.watchFly := rfl
@[simp] theorem Core.takePort_waiting (c : Core) (t a n : Nat) : (c.takePort t a n).waiting = c.waiting := rfl
@[simp] theorem Core.takePort_waitStart (c : Core) (t a n : Nat) : (c.takePort t a n).waitStart = c.waitStart := rfl
@[simp] theorem Core.takePort_waitCal (c : Core) (t a n : Nat) : (c.takePort t a n).waitCal = c.waitCal := rfl
@[simp] theorem Core.takePort_preempt (c : Core) (t a n : Nat) : (c.takePort t a n).preempt = c.preempt := rfl
@[simp] theorem Core.takePort_dump (c : Core) (t a n : Nat) : (c.takePort t a n).dump = c.dump := rfl
@[simp] theorem Core.takePort_stopAt (c : Core) (t a n : Nat) : (c.takePort t a n).stopAt = c.stopAt := rfl
@[simp] theorem Core.takePort_sweeps (c : Core) (t a n : Nat) : (c.takePort t a n).sweeps = c.sweeps := rfl
@[simp] theorem Core.takePort_matrix (c : Core) (t a n : Nat) : (c.takePort t a n).matrix = c.matrix := rfl
@[simp] theorem Core.takePort_copy (c : Core) (t a n : Nat) : (c.takePort t a n).copy = c.copy := rfl
@[simp] theorem Core.takePort_lantern (c : Core) (t a n : Nat) : (c.takePort t a n).lantern = c.lantern := rfl
@[simp] theorem Core.takePort_cmdNext (c : Core) (t a n : Nat) : (c.takePort t a n).cmdNext = c.cmdNext := rfl
@[simp] theorem Core.takePort_fq (c : Core) (t a n : Nat) : (c.takePort t a n).fq = c.fq := rfl
@[simp] theorem Core.takePort_tiles (c : Core) (t a n : Nat) : (c.takePort t a n).tiles = c.tiles := rfl
@[simp] theorem Core.takePort_tileFinal (c : Core) (t a n : Nat) : (c.takePort t a n).tileFinal = c.tileFinal := rfl
@[simp] theorem Core.takePort_curves (c : Core) (t a n : Nat) : (c.takePort t a n).curves = c.curves := rfl
@[simp] theorem Core.takePort_lan (c : Core) (t a n : Nat) : (c.takePort t a n).lan = c.lan := rfl
@[simp] theorem Core.takePort_eqx (c : Core) (t a n : Nat) : (c.takePort t a n).eqx = c.eqx := rfl
@[simp] theorem Core.takePort_doneNow (c : Core) (t a n : Nat) : (c.takePort t a n).doneNow = c.doneNow := rfl
@[simp] theorem Core.takePort_fmtNow (c : Core) (t a n : Nat) : (c.takePort t a n).fmtNow = c.fmtNow := rfl
@[simp] theorem Core.takePort_fmtLate (c : Core) (t a n : Nat) : (c.takePort t a n).fmtLate = c.fmtLate := rfl
@[simp] theorem Core.takePort_statusNow (c : Core) (t a n : Nat) : (c.takePort t a n).statusNow = c.statusNow := rfl
@[simp] theorem Core.takePort_acted (c : Core) (t a n : Nat) : (c.takePort t a n).acted = c.acted := rfl
@[simp] theorem Core.takePort_headPc (c : Core) (t a n : Nat) : (c.takePort t a n).headPc = c.headPc := rfl
@[simp] theorem Core.takePort_headSlot (c : Core) (t a n : Nat) : (c.takePort t a n).headSlot = c.headSlot := rfl
@[simp] theorem Core.takePort_headRun (c : Core) (t a n : Nat) : (c.takePort t a n).headRun = c.headRun := rfl
@[simp] theorem Core.takePort_headInh (c : Core) (t a n : Nat) : (c.takePort t a n).headInh = c.headInh := rfl
@[simp] theorem Core.takePort_frozenAt (c : Core) (t a n : Nat) : (c.takePort t a n).frozenAt = c.frozenAt := rfl
@[simp] theorem Core.takePort_cur (c : Core) (t a n : Nat) : (c.takePort t a n).cur = c.cur := rfl
@[simp] theorem Core.takePort_stall (c : Core) (t a n : Nat) : (c.takePort t a n).stall = c.stall := rfl
@[simp] theorem Core.takePort_events (c : Core) (t a n : Nat) : (c.takePort t a n).events = c.events := rfl

@[simp] theorem Core.takeWrite_phys (c : Core) (t a n : Nat) (atomic : Bool) : (c.takeWrite t a n atomic).phys = c.phys := rfl
@[simp] theorem Core.takeWrite_ctx (c : Core) (t a n : Nat) (atomic : Bool) : (c.takeWrite t a n atomic).ctx = c.ctx := rfl
@[simp] theorem Core.takeWrite_task (c : Core) (t a n : Nat) (atomic : Bool) : (c.takeWrite t a n atomic).task = c.task := rfl
@[simp] theorem Core.takeWrite_s (c : Core) (t a n : Nat) (atomic : Bool) : (c.takeWrite t a n atomic).s = c.s := rfl
@[simp] theorem Core.takeWrite_v (c : Core) (t a n : Nat) (atomic : Bool) : (c.takeWrite t a n atomic).v = c.v := rfl
@[simp] theorem Core.takeWrite_p (c : Core) (t a n : Nat) (atomic : Bool) : (c.takeWrite t a n atomic).p = c.p := rfl
@[simp] theorem Core.takeWrite_k (c : Core) (t a n : Nat) (atomic : Bool) : (c.takeWrite t a n atomic).k = c.k := rfl
@[simp] theorem Core.takeWrite_b (c : Core) (t a n : Nat) (atomic : Bool) : (c.takeWrite t a n atomic).b = c.b := rfl
@[simp] theorem Core.takeWrite_bc (c : Core) (t a n : Nat) (atomic : Bool) : (c.takeWrite t a n atomic).bc = c.bc := rfl
@[simp] theorem Core.takeWrite_lc (c : Core) (t a n : Nat) (atomic : Bool) : (c.takeWrite t a n atomic).lc = c.lc := rfl
@[simp] theorem Core.takeWrite_ls (c : Core) (t a n : Nat) (atomic : Bool) : (c.takeWrite t a n atomic).ls = c.ls := rfl
@[simp] theorem Core.takeWrite_le (c : Core) (t a n : Nat) (atomic : Bool) : (c.takeWrite t a n atomic).le = c.le := rfl
@[simp] theorem Core.takeWrite_heldLs (c : Core) (t a n : Nat) (atomic : Bool) : (c.takeWrite t a n atomic).heldLs = c.heldLs := rfl
@[simp] theorem Core.takeWrite_heldLe (c : Core) (t a n : Nat) (atomic : Bool) : (c.takeWrite t a n atomic).heldLe = c.heldLe := rfl
@[simp] theorem Core.takeWrite_pc (c : Core) (t a n : Nat) (atomic : Bool) : (c.takeWrite t a n atomic).pc = c.pc := rfl
@[simp] theorem Core.takeWrite_slots (c : Core) (t a n : Nat) (atomic : Bool) : (c.takeWrite t a n atomic).slots = c.slots := rfl
@[simp] theorem Core.takeWrite_oob (c : Core) (t a n : Nat) (atomic : Bool) : (c.takeWrite t a n atomic).oob = c.oob := rfl
@[simp] theorem Core.takeWrite_revpend (c : Core) (t a n : Nat) (atomic : Bool) : (c.takeWrite t a n atomic).revpend = c.revpend := rfl
@[simp] theorem Core.takeWrite_inh (c : Core) (t a n : Nat) (atomic : Bool) : (c.takeWrite t a n atomic).inh = c.inh := rfl
@[simp] theorem Core.takeWrite_dsField (c : Core) (t a n : Nat) (atomic : Bool) : (c.takeWrite t a n atomic).dsField = c.dsField := rfl
@[simp] theorem Core.takeWrite_trapCause (c : Core) (t a n : Nat) (atomic : Bool) : (c.takeWrite t a n atomic).trapCause = c.trapCause := rfl
@[simp] theorem Core.takeWrite_trapPc (c : Core) (t a n : Nat) (atomic : Bool) : (c.takeWrite t a n atomic).trapPc = c.trapPc := rfl
@[simp] theorem Core.takeWrite_trapVal (c : Core) (t a n : Nat) (atomic : Bool) : (c.takeWrite t a n atomic).trapVal = c.trapVal := rfl
@[simp] theorem Core.takeWrite_trapTgt (c : Core) (t a n : Nat) (atomic : Bool) : (c.takeWrite t a n atomic).trapTgt = c.trapTgt := rfl
@[simp] theorem Core.takeWrite_tvec (c : Core) (t a n : Nat) (atomic : Bool) : (c.takeWrite t a n atomic).tvec = c.tvec := rfl
@[simp] theorem Core.takeWrite_sbase (c : Core) (t a n : Nat) (atomic : Bool) : (c.takeWrite t a n atomic).sbase = c.sbase := rfl
@[simp] theorem Core.takeWrite_slimit (c : Core) (t a n : Nat) (atomic : Bool) : (c.takeWrite t a n atomic).slimit = c.slimit := rfl
@[simp] theorem Core.takeWrite_calendar (c : Core) (t a n : Nat) (atomic : Bool) : (c.takeWrite t a n atomic).calendar = c.calendar := rfl
@[simp] theorem Core.takeWrite_vigil (c : Core) (t a n : Nat) (atomic : Bool) : (c.takeWrite t a n atomic).vigil = c.vigil := rfl
@[simp] theorem Core.takeWrite_tags (c : Core) (t a n : Nat) (atomic : Bool) : (c.takeWrite t a n atomic).tags = c.tags := rfl
@[simp] theorem Core.takeWrite_tagrev (c : Core) (t a n : Nat) (atomic : Bool) : (c.takeWrite t a n atomic).tagrev = c.tagrev := rfl
@[simp] theorem Core.takeWrite_oobcnt (c : Core) (t a n : Nat) (atomic : Bool) : (c.takeWrite t a n atomic).oobcnt = c.oobcnt := rfl
@[simp] theorem Core.takeWrite_fmtstat (c : Core) (t a n : Nat) (atomic : Bool) : (c.takeWrite t a n atomic).fmtstat = c.fmtstat := rfl
@[simp] theorem Core.takeWrite_waitcfg (c : Core) (t a n : Nat) (atomic : Bool) : (c.takeWrite t a n atomic).waitcfg = c.waitcfg := rfl
@[simp] theorem Core.takeWrite_crew (c : Core) (t a n : Nat) (atomic : Bool) : (c.takeWrite t a n atomic).crew = c.crew := rfl
@[simp] theorem Core.takeWrite_vtopo (c : Core) (t a n : Nat) (atomic : Bool) : (c.takeWrite t a n atomic).vtopo = c.vtopo := rfl
@[simp] theorem Core.takeWrite_poolAt (c : Core) (t a n : Nat) (atomic : Bool) : (c.takeWrite t a n atomic).poolAt = c.poolAt := rfl
@[simp] theorem Core.takeWrite_dbgcfg (c : Core) (t a n : Nat) (atomic : Bool) : (c.takeWrite t a n atomic).dbgcfg = c.dbgcfg := rfl
@[simp] theorem Core.takeWrite_samplecfg (c : Core) (t a n : Nat) (atomic : Bool) : (c.takeWrite t a n atomic).samplecfg = c.samplecfg := rfl
@[simp] theorem Core.takeWrite_wpbase (c : Core) (t a n : Nat) (atomic : Bool) : (c.takeWrite t a n atomic).wpbase = c.wpbase := rfl
@[simp] theorem Core.takeWrite_wpmask (c : Core) (t a n : Nat) (atomic : Bool) : (c.takeWrite t a n atomic).wpmask = c.wpmask := rfl
@[simp] theorem Core.takeWrite_ctrsel (c : Core) (t a n : Nat) (atomic : Bool) : (c.takeWrite t a n atomic).ctrsel = c.ctrsel := rfl
@[simp] theorem Core.takeWrite_ctrval (c : Core) (t a n : Nat) (atomic : Bool) : (c.takeWrite t a n atomic).ctrval = c.ctrval := rfl
@[simp] theorem Core.takeWrite_ctrRead (c : Core) (t a n : Nat) (atomic : Bool) : (c.takeWrite t a n atomic).ctrRead = c.ctrRead := rfl
@[simp] theorem Core.takeWrite_rows (c : Core) (t a n : Nat) (atomic : Bool) : (c.takeWrite t a n atomic).rows = c.rows := rfl
@[simp] theorem Core.takeWrite_rowReads (c : Core) (t a n : Nat) (atomic : Bool) : (c.takeWrite t a n atomic).rowReads = c.rowReads := rfl
@[simp] theorem Core.takeWrite_lastRow (c : Core) (t a n : Nat) (atomic : Bool) : (c.takeWrite t a n atomic).lastRow = c.lastRow := rfl
@[simp] theorem Core.takeWrite_jumped (c : Core) (t a n : Nat) (atomic : Bool) : (c.takeWrite t a n atomic).jumped = c.jumped := rfl
@[simp] theorem Core.takeWrite_coFence (c : Core) (t a n : Nat) (atomic : Bool) : (c.takeWrite t a n atomic).coFence = c.coFence := rfl
@[simp] theorem Core.takeWrite_scr (c : Core) (t a n : Nat) (atomic : Bool) : (c.takeWrite t a n atomic).scr = c.scr := rfl
@[simp] theorem Core.takeWrite_lanes (c : Core) (t a n : Nat) (atomic : Bool) : (c.takeWrite t a n atomic).lanes = c.lanes := rfl
@[simp] theorem Core.takeWrite_wb (c : Core) (t a n : Nat) (atomic : Bool) : (c.takeWrite t a n atomic).wb = c.wb := rfl
@[simp] theorem Core.takeWrite_timed (c : Core) (t a n : Nat) (atomic : Bool) : (c.takeWrite t a n atomic).timed = c.timed := rfl
@[simp] theorem Core.takeWrite_locks (c : Core) (t a n : Nat) (atomic : Bool) : (c.takeWrite t a n atomic).locks = c.locks := rfl
@[simp] theorem Core.takeWrite_bankReads (c : Core) (t a n : Nat) (atomic : Bool) : (c.takeWrite t a n atomic).bankReads = c.bankReads := rfl
@[simp] theorem Core.takeWrite_late (c : Core) (t a n : Nat) (atomic : Bool) : (c.takeWrite t a n atomic).late = c.late := rfl
@[simp] theorem Core.takeWrite_ready (c : Core) (t a n : Nat) (atomic : Bool) : (c.takeWrite t a n atomic).ready = c.ready := rfl
@[simp] theorem Core.takeWrite_btime (c : Core) (t a n : Nat) (atomic : Bool) : (c.takeWrite t a n atomic).btime = c.btime := rfl
@[simp] theorem Core.takeWrite_nextIssue (c : Core) (t a n : Nat) (atomic : Bool) : (c.takeWrite t a n atomic).nextIssue = c.nextIssue := rfl
@[simp] theorem Core.takeWrite_vecFree (c : Core) (t a n : Nat) (atomic : Bool) : (c.takeWrite t a n atomic).vecFree = c.vecFree := rfl
@[simp] theorem Core.takeWrite_divFree (c : Core) (t a n : Nat) (atomic : Bool) : (c.takeWrite t a n atomic).divFree = c.divFree := rfl
@[simp] theorem Core.takeWrite_quantDone (c : Core) (t a n : Nat) (atomic : Bool) : (c.takeWrite t a n atomic).quantDone = c.quantDone := rfl
@[simp] theorem Core.takeWrite_acc (c : Core) (t a n : Nat) (atomic : Bool) : (c.takeWrite t a n atomic).acc = c.acc := rfl
@[simp] theorem Core.takeWrite_accNext (c : Core) (t a n : Nat) (atomic : Bool) : (c.takeWrite t a n atomic).accNext = c.accNext := rfl
@[simp] theorem Core.takeWrite_dep (c : Core) (t a n : Nat) (atomic : Bool) : (c.takeWrite t a n atomic).dep = c.dep := rfl
@[simp] theorem Core.takeWrite_depMsc (c : Core) (t a n : Nat) (atomic : Bool) : (c.takeWrite t a n atomic).depMsc = c.depMsc := rfl
@[simp] theorem Core.takeWrite_mscSeen (c : Core) (t a n : Nat) (atomic : Bool) : (c.takeWrite t a n atomic).mscSeen = c.mscSeen := rfl
@[simp] theorem Core.takeWrite_tfc (c : Core) (t a n : Nat) (atomic : Bool) : (c.takeWrite t a n atomic).tfc = c.tfc := rfl
@[simp] theorem Core.takeWrite_tfcReq (c : Core) (t a n : Nat) (atomic : Bool) : (c.takeWrite t a n atomic).tfcReq = c.tfcReq := rfl
@[simp] theorem Core.takeWrite_marks (c : Core) (t a n : Nat) (atomic : Bool) : (c.takeWrite t a n atomic).marks = c.marks := rfl
@[simp] theorem Core.takeWrite_owed (c : Core) (t a n : Nat) (atomic : Bool) : (c.takeWrite t a n atomic).owed = c.owed := rfl
@[simp] theorem Core.takeWrite_redOwed (c : Core) (t a n : Nat) (atomic : Bool) : (c.takeWrite t a n atomic).redOwed = c.redOwed := rfl
@[simp] theorem Core.takeWrite_redHeld (c : Core) (t a n : Nat) (atomic : Bool) : (c.takeWrite t a n atomic).redHeld = c.redHeld := rfl
@[simp] theorem Core.takeWrite_engPoison (c : Core) (t a n : Nat) (atomic : Bool) : (c.takeWrite t a n atomic).engPoison = c.engPoison := rfl
@[simp] theorem Core.takeWrite_watchNow (c : Core) (t a n : Nat) (atomic : Bool) : (c.takeWrite t a n atomic).watchNow = c.watchNow := rfl
@[simp] theorem Core.takeWrite_watchQ (c : Core) (t a n : Nat) (atomic : Bool) : (c.takeWrite t a n atomic).watchQ = c.watchQ := rfl
@[simp] theorem Core.takeWrite_watchLost (c : Core) (t a n : Nat) (atomic : Bool) : (c.takeWrite t a n atomic).watchLost = c.watchLost := rfl
@[simp] theorem Core.takeWrite_watchFly (c : Core) (t a n : Nat) (atomic : Bool) : (c.takeWrite t a n atomic).watchFly = c.watchFly := rfl
@[simp] theorem Core.takeWrite_waiting (c : Core) (t a n : Nat) (atomic : Bool) : (c.takeWrite t a n atomic).waiting = c.waiting := rfl
@[simp] theorem Core.takeWrite_waitStart (c : Core) (t a n : Nat) (atomic : Bool) : (c.takeWrite t a n atomic).waitStart = c.waitStart := rfl
@[simp] theorem Core.takeWrite_waitCal (c : Core) (t a n : Nat) (atomic : Bool) : (c.takeWrite t a n atomic).waitCal = c.waitCal := rfl
@[simp] theorem Core.takeWrite_preempt (c : Core) (t a n : Nat) (atomic : Bool) : (c.takeWrite t a n atomic).preempt = c.preempt := rfl
@[simp] theorem Core.takeWrite_dump (c : Core) (t a n : Nat) (atomic : Bool) : (c.takeWrite t a n atomic).dump = c.dump := rfl
@[simp] theorem Core.takeWrite_stopAt (c : Core) (t a n : Nat) (atomic : Bool) : (c.takeWrite t a n atomic).stopAt = c.stopAt := rfl
@[simp] theorem Core.takeWrite_sweeps (c : Core) (t a n : Nat) (atomic : Bool) : (c.takeWrite t a n atomic).sweeps = c.sweeps := rfl
@[simp] theorem Core.takeWrite_matrix (c : Core) (t a n : Nat) (atomic : Bool) : (c.takeWrite t a n atomic).matrix = c.matrix := rfl
@[simp] theorem Core.takeWrite_copy (c : Core) (t a n : Nat) (atomic : Bool) : (c.takeWrite t a n atomic).copy = c.copy := rfl
@[simp] theorem Core.takeWrite_lantern (c : Core) (t a n : Nat) (atomic : Bool) : (c.takeWrite t a n atomic).lantern = c.lantern := rfl
@[simp] theorem Core.takeWrite_cmdNext (c : Core) (t a n : Nat) (atomic : Bool) : (c.takeWrite t a n atomic).cmdNext = c.cmdNext := rfl
@[simp] theorem Core.takeWrite_fq (c : Core) (t a n : Nat) (atomic : Bool) : (c.takeWrite t a n atomic).fq = c.fq := rfl
@[simp] theorem Core.takeWrite_tiles (c : Core) (t a n : Nat) (atomic : Bool) : (c.takeWrite t a n atomic).tiles = c.tiles := rfl
@[simp] theorem Core.takeWrite_tileFinal (c : Core) (t a n : Nat) (atomic : Bool) : (c.takeWrite t a n atomic).tileFinal = c.tileFinal := rfl
@[simp] theorem Core.takeWrite_curves (c : Core) (t a n : Nat) (atomic : Bool) : (c.takeWrite t a n atomic).curves = c.curves := rfl
@[simp] theorem Core.takeWrite_lan (c : Core) (t a n : Nat) (atomic : Bool) : (c.takeWrite t a n atomic).lan = c.lan := rfl
@[simp] theorem Core.takeWrite_eqx (c : Core) (t a n : Nat) (atomic : Bool) : (c.takeWrite t a n atomic).eqx = c.eqx := rfl
@[simp] theorem Core.takeWrite_doneNow (c : Core) (t a n : Nat) (atomic : Bool) : (c.takeWrite t a n atomic).doneNow = c.doneNow := rfl
@[simp] theorem Core.takeWrite_fmtNow (c : Core) (t a n : Nat) (atomic : Bool) : (c.takeWrite t a n atomic).fmtNow = c.fmtNow := rfl
@[simp] theorem Core.takeWrite_fmtLate (c : Core) (t a n : Nat) (atomic : Bool) : (c.takeWrite t a n atomic).fmtLate = c.fmtLate := rfl
@[simp] theorem Core.takeWrite_statusNow (c : Core) (t a n : Nat) (atomic : Bool) : (c.takeWrite t a n atomic).statusNow = c.statusNow := rfl
@[simp] theorem Core.takeWrite_acted (c : Core) (t a n : Nat) (atomic : Bool) : (c.takeWrite t a n atomic).acted = c.acted := rfl
@[simp] theorem Core.takeWrite_headPc (c : Core) (t a n : Nat) (atomic : Bool) : (c.takeWrite t a n atomic).headPc = c.headPc := rfl
@[simp] theorem Core.takeWrite_headSlot (c : Core) (t a n : Nat) (atomic : Bool) : (c.takeWrite t a n atomic).headSlot = c.headSlot := rfl
@[simp] theorem Core.takeWrite_headRun (c : Core) (t a n : Nat) (atomic : Bool) : (c.takeWrite t a n atomic).headRun = c.headRun := rfl
@[simp] theorem Core.takeWrite_headInh (c : Core) (t a n : Nat) (atomic : Bool) : (c.takeWrite t a n atomic).headInh = c.headInh := rfl
@[simp] theorem Core.takeWrite_frozenAt (c : Core) (t a n : Nat) (atomic : Bool) : (c.takeWrite t a n atomic).frozenAt = c.frozenAt := rfl
@[simp] theorem Core.takeWrite_cur (c : Core) (t a n : Nat) (atomic : Bool) : (c.takeWrite t a n atomic).cur = c.cur := rfl
@[simp] theorem Core.takeWrite_stall (c : Core) (t a n : Nat) (atomic : Bool) : (c.takeWrite t a n atomic).stall = c.stall := rfl
@[simp] theorem Core.takeWrite_events (c : Core) (t a n : Nat) (atomic : Bool) : (c.takeWrite t a n atomic).events = c.events := rfl

@[simp] theorem Core.readUpper_phys (c : Core) (u a n : Nat) (dest : LateDest) : (c.readUpper u a n dest).phys = c.phys := by simp only [Core.readUpper]; split <;> rfl
@[simp] theorem Core.readUpper_ctx (c : Core) (u a n : Nat) (dest : LateDest) : (c.readUpper u a n dest).ctx = c.ctx := by simp only [Core.readUpper]; split <;> rfl
@[simp] theorem Core.readUpper_task (c : Core) (u a n : Nat) (dest : LateDest) : (c.readUpper u a n dest).task = c.task := by simp only [Core.readUpper]; split <;> rfl
@[simp] theorem Core.readUpper_s (c : Core) (u a n : Nat) (dest : LateDest) : (c.readUpper u a n dest).s = c.s := by simp only [Core.readUpper]; split <;> rfl
@[simp] theorem Core.readUpper_v (c : Core) (u a n : Nat) (dest : LateDest) : (c.readUpper u a n dest).v = c.v := by simp only [Core.readUpper]; split <;> rfl
@[simp] theorem Core.readUpper_p (c : Core) (u a n : Nat) (dest : LateDest) : (c.readUpper u a n dest).p = c.p := by simp only [Core.readUpper]; split <;> rfl
@[simp] theorem Core.readUpper_k (c : Core) (u a n : Nat) (dest : LateDest) : (c.readUpper u a n dest).k = c.k := by simp only [Core.readUpper]; split <;> rfl
@[simp] theorem Core.readUpper_b (c : Core) (u a n : Nat) (dest : LateDest) : (c.readUpper u a n dest).b = c.b := by simp only [Core.readUpper]; split <;> rfl
@[simp] theorem Core.readUpper_bc (c : Core) (u a n : Nat) (dest : LateDest) : (c.readUpper u a n dest).bc = c.bc := by simp only [Core.readUpper]; split <;> rfl
@[simp] theorem Core.readUpper_lc (c : Core) (u a n : Nat) (dest : LateDest) : (c.readUpper u a n dest).lc = c.lc := by simp only [Core.readUpper]; split <;> rfl
@[simp] theorem Core.readUpper_ls (c : Core) (u a n : Nat) (dest : LateDest) : (c.readUpper u a n dest).ls = c.ls := by simp only [Core.readUpper]; split <;> rfl
@[simp] theorem Core.readUpper_le (c : Core) (u a n : Nat) (dest : LateDest) : (c.readUpper u a n dest).le = c.le := by simp only [Core.readUpper]; split <;> rfl
@[simp] theorem Core.readUpper_heldLs (c : Core) (u a n : Nat) (dest : LateDest) : (c.readUpper u a n dest).heldLs = c.heldLs := by simp only [Core.readUpper]; split <;> rfl
@[simp] theorem Core.readUpper_heldLe (c : Core) (u a n : Nat) (dest : LateDest) : (c.readUpper u a n dest).heldLe = c.heldLe := by simp only [Core.readUpper]; split <;> rfl
@[simp] theorem Core.readUpper_pc (c : Core) (u a n : Nat) (dest : LateDest) : (c.readUpper u a n dest).pc = c.pc := by simp only [Core.readUpper]; split <;> rfl
@[simp] theorem Core.readUpper_slots (c : Core) (u a n : Nat) (dest : LateDest) : (c.readUpper u a n dest).slots = c.slots := by simp only [Core.readUpper]; split <;> rfl
@[simp] theorem Core.readUpper_oob (c : Core) (u a n : Nat) (dest : LateDest) : (c.readUpper u a n dest).oob = c.oob := by simp only [Core.readUpper]; split <;> rfl
@[simp] theorem Core.readUpper_revpend (c : Core) (u a n : Nat) (dest : LateDest) : (c.readUpper u a n dest).revpend = c.revpend := by simp only [Core.readUpper]; split <;> rfl
@[simp] theorem Core.readUpper_inh (c : Core) (u a n : Nat) (dest : LateDest) : (c.readUpper u a n dest).inh = c.inh := by simp only [Core.readUpper]; split <;> rfl
@[simp] theorem Core.readUpper_dsField (c : Core) (u a n : Nat) (dest : LateDest) : (c.readUpper u a n dest).dsField = c.dsField := by simp only [Core.readUpper]; split <;> rfl
@[simp] theorem Core.readUpper_trapCause (c : Core) (u a n : Nat) (dest : LateDest) : (c.readUpper u a n dest).trapCause = c.trapCause := by simp only [Core.readUpper]; split <;> rfl
@[simp] theorem Core.readUpper_trapPc (c : Core) (u a n : Nat) (dest : LateDest) : (c.readUpper u a n dest).trapPc = c.trapPc := by simp only [Core.readUpper]; split <;> rfl
@[simp] theorem Core.readUpper_trapVal (c : Core) (u a n : Nat) (dest : LateDest) : (c.readUpper u a n dest).trapVal = c.trapVal := by simp only [Core.readUpper]; split <;> rfl
@[simp] theorem Core.readUpper_trapTgt (c : Core) (u a n : Nat) (dest : LateDest) : (c.readUpper u a n dest).trapTgt = c.trapTgt := by simp only [Core.readUpper]; split <;> rfl
@[simp] theorem Core.readUpper_tvec (c : Core) (u a n : Nat) (dest : LateDest) : (c.readUpper u a n dest).tvec = c.tvec := by simp only [Core.readUpper]; split <;> rfl
@[simp] theorem Core.readUpper_sbase (c : Core) (u a n : Nat) (dest : LateDest) : (c.readUpper u a n dest).sbase = c.sbase := by simp only [Core.readUpper]; split <;> rfl
@[simp] theorem Core.readUpper_slimit (c : Core) (u a n : Nat) (dest : LateDest) : (c.readUpper u a n dest).slimit = c.slimit := by simp only [Core.readUpper]; split <;> rfl
@[simp] theorem Core.readUpper_calendar (c : Core) (u a n : Nat) (dest : LateDest) : (c.readUpper u a n dest).calendar = c.calendar := by simp only [Core.readUpper]; split <;> rfl
@[simp] theorem Core.readUpper_vigil (c : Core) (u a n : Nat) (dest : LateDest) : (c.readUpper u a n dest).vigil = c.vigil := by simp only [Core.readUpper]; split <;> rfl
@[simp] theorem Core.readUpper_tags (c : Core) (u a n : Nat) (dest : LateDest) : (c.readUpper u a n dest).tags = c.tags := by simp only [Core.readUpper]; split <;> rfl
@[simp] theorem Core.readUpper_tagrev (c : Core) (u a n : Nat) (dest : LateDest) : (c.readUpper u a n dest).tagrev = c.tagrev := by simp only [Core.readUpper]; split <;> rfl
@[simp] theorem Core.readUpper_oobcnt (c : Core) (u a n : Nat) (dest : LateDest) : (c.readUpper u a n dest).oobcnt = c.oobcnt := by simp only [Core.readUpper]; split <;> rfl
@[simp] theorem Core.readUpper_fmtstat (c : Core) (u a n : Nat) (dest : LateDest) : (c.readUpper u a n dest).fmtstat = c.fmtstat := by simp only [Core.readUpper]; split <;> rfl
@[simp] theorem Core.readUpper_waitcfg (c : Core) (u a n : Nat) (dest : LateDest) : (c.readUpper u a n dest).waitcfg = c.waitcfg := by simp only [Core.readUpper]; split <;> rfl
@[simp] theorem Core.readUpper_crew (c : Core) (u a n : Nat) (dest : LateDest) : (c.readUpper u a n dest).crew = c.crew := by simp only [Core.readUpper]; split <;> rfl
@[simp] theorem Core.readUpper_vtopo (c : Core) (u a n : Nat) (dest : LateDest) : (c.readUpper u a n dest).vtopo = c.vtopo := by simp only [Core.readUpper]; split <;> rfl
@[simp] theorem Core.readUpper_poolAt (c : Core) (u a n : Nat) (dest : LateDest) : (c.readUpper u a n dest).poolAt = c.poolAt := by simp only [Core.readUpper]; split <;> rfl
@[simp] theorem Core.readUpper_dbgcfg (c : Core) (u a n : Nat) (dest : LateDest) : (c.readUpper u a n dest).dbgcfg = c.dbgcfg := by simp only [Core.readUpper]; split <;> rfl
@[simp] theorem Core.readUpper_samplecfg (c : Core) (u a n : Nat) (dest : LateDest) : (c.readUpper u a n dest).samplecfg = c.samplecfg := by simp only [Core.readUpper]; split <;> rfl
@[simp] theorem Core.readUpper_wpbase (c : Core) (u a n : Nat) (dest : LateDest) : (c.readUpper u a n dest).wpbase = c.wpbase := by simp only [Core.readUpper]; split <;> rfl
@[simp] theorem Core.readUpper_wpmask (c : Core) (u a n : Nat) (dest : LateDest) : (c.readUpper u a n dest).wpmask = c.wpmask := by simp only [Core.readUpper]; split <;> rfl
@[simp] theorem Core.readUpper_ctrsel (c : Core) (u a n : Nat) (dest : LateDest) : (c.readUpper u a n dest).ctrsel = c.ctrsel := by simp only [Core.readUpper]; split <;> rfl
@[simp] theorem Core.readUpper_ctrval (c : Core) (u a n : Nat) (dest : LateDest) : (c.readUpper u a n dest).ctrval = c.ctrval := by simp only [Core.readUpper]; split <;> rfl
@[simp] theorem Core.readUpper_ctrRead (c : Core) (u a n : Nat) (dest : LateDest) : (c.readUpper u a n dest).ctrRead = c.ctrRead := by simp only [Core.readUpper]; split <;> rfl
@[simp] theorem Core.readUpper_rows (c : Core) (u a n : Nat) (dest : LateDest) : (c.readUpper u a n dest).rows = c.rows := by simp only [Core.readUpper]; split <;> rfl
@[simp] theorem Core.readUpper_rowReads (c : Core) (u a n : Nat) (dest : LateDest) : (c.readUpper u a n dest).rowReads = c.rowReads := by simp only [Core.readUpper]; split <;> rfl
@[simp] theorem Core.readUpper_lastRow (c : Core) (u a n : Nat) (dest : LateDest) : (c.readUpper u a n dest).lastRow = c.lastRow := by simp only [Core.readUpper]; split <;> rfl
@[simp] theorem Core.readUpper_jumped (c : Core) (u a n : Nat) (dest : LateDest) : (c.readUpper u a n dest).jumped = c.jumped := by simp only [Core.readUpper]; split <;> rfl
@[simp] theorem Core.readUpper_coFence (c : Core) (u a n : Nat) (dest : LateDest) : (c.readUpper u a n dest).coFence = c.coFence := by simp only [Core.readUpper]; split <;> rfl
@[simp] theorem Core.readUpper_scr (c : Core) (u a n : Nat) (dest : LateDest) : (c.readUpper u a n dest).scr = c.scr := by simp only [Core.readUpper]; split <;> rfl
@[simp] theorem Core.readUpper_lanes (c : Core) (u a n : Nat) (dest : LateDest) : (c.readUpper u a n dest).lanes = c.lanes := by simp only [Core.readUpper]; split <;> rfl
@[simp] theorem Core.readUpper_wb (c : Core) (u a n : Nat) (dest : LateDest) : (c.readUpper u a n dest).wb = c.wb := by simp only [Core.readUpper]; split <;> rfl
@[simp] theorem Core.readUpper_timed (c : Core) (u a n : Nat) (dest : LateDest) : (c.readUpper u a n dest).timed = c.timed := by simp only [Core.readUpper]; split <;> rfl
@[simp] theorem Core.readUpper_locks (c : Core) (u a n : Nat) (dest : LateDest) : (c.readUpper u a n dest).locks = c.locks := by simp only [Core.readUpper]; split <;> rfl
@[simp] theorem Core.readUpper_bankReads (c : Core) (u a n : Nat) (dest : LateDest) : (c.readUpper u a n dest).bankReads = c.bankReads := by simp only [Core.readUpper]; split <;> rfl
@[simp] theorem Core.readUpper_bankWrites (c : Core) (u a n : Nat) (dest : LateDest) : (c.readUpper u a n dest).bankWrites = c.bankWrites := by simp only [Core.readUpper]; split <;> rfl
@[simp] theorem Core.readUpper_ready (c : Core) (u a n : Nat) (dest : LateDest) : (c.readUpper u a n dest).ready = c.ready := by simp only [Core.readUpper]; split <;> rfl
@[simp] theorem Core.readUpper_btime (c : Core) (u a n : Nat) (dest : LateDest) : (c.readUpper u a n dest).btime = c.btime := by simp only [Core.readUpper]; split <;> rfl
@[simp] theorem Core.readUpper_nextIssue (c : Core) (u a n : Nat) (dest : LateDest) : (c.readUpper u a n dest).nextIssue = c.nextIssue := by simp only [Core.readUpper]; split <;> rfl
@[simp] theorem Core.readUpper_vecFree (c : Core) (u a n : Nat) (dest : LateDest) : (c.readUpper u a n dest).vecFree = c.vecFree := by simp only [Core.readUpper]; split <;> rfl
@[simp] theorem Core.readUpper_divFree (c : Core) (u a n : Nat) (dest : LateDest) : (c.readUpper u a n dest).divFree = c.divFree := by simp only [Core.readUpper]; split <;> rfl
@[simp] theorem Core.readUpper_quantDone (c : Core) (u a n : Nat) (dest : LateDest) : (c.readUpper u a n dest).quantDone = c.quantDone := by simp only [Core.readUpper]; split <;> rfl
@[simp] theorem Core.readUpper_acc (c : Core) (u a n : Nat) (dest : LateDest) : (c.readUpper u a n dest).acc = c.acc := by simp only [Core.readUpper]; split <;> rfl
@[simp] theorem Core.readUpper_accNext (c : Core) (u a n : Nat) (dest : LateDest) : (c.readUpper u a n dest).accNext = c.accNext := by simp only [Core.readUpper]; split <;> rfl
@[simp] theorem Core.readUpper_dep (c : Core) (u a n : Nat) (dest : LateDest) : (c.readUpper u a n dest).dep = c.dep := by simp only [Core.readUpper]; split <;> rfl
@[simp] theorem Core.readUpper_depMsc (c : Core) (u a n : Nat) (dest : LateDest) : (c.readUpper u a n dest).depMsc = c.depMsc := by simp only [Core.readUpper]; split <;> rfl
@[simp] theorem Core.readUpper_mscSeen (c : Core) (u a n : Nat) (dest : LateDest) : (c.readUpper u a n dest).mscSeen = c.mscSeen := by simp only [Core.readUpper]; split <;> rfl
@[simp] theorem Core.readUpper_tfc (c : Core) (u a n : Nat) (dest : LateDest) : (c.readUpper u a n dest).tfc = c.tfc := by simp only [Core.readUpper]; split <;> rfl
@[simp] theorem Core.readUpper_tfcReq (c : Core) (u a n : Nat) (dest : LateDest) : (c.readUpper u a n dest).tfcReq = c.tfcReq := by simp only [Core.readUpper]; split <;> rfl
@[simp] theorem Core.readUpper_marks (c : Core) (u a n : Nat) (dest : LateDest) : (c.readUpper u a n dest).marks = c.marks := by simp only [Core.readUpper]; split <;> rfl
@[simp] theorem Core.readUpper_owed (c : Core) (u a n : Nat) (dest : LateDest) : (c.readUpper u a n dest).owed = c.owed := by simp only [Core.readUpper]; split <;> rfl
@[simp] theorem Core.readUpper_redOwed (c : Core) (u a n : Nat) (dest : LateDest) : (c.readUpper u a n dest).redOwed = c.redOwed := by simp only [Core.readUpper]; split <;> rfl
@[simp] theorem Core.readUpper_redHeld (c : Core) (u a n : Nat) (dest : LateDest) : (c.readUpper u a n dest).redHeld = c.redHeld := by simp only [Core.readUpper]; split <;> rfl
@[simp] theorem Core.readUpper_engPoison (c : Core) (u a n : Nat) (dest : LateDest) : (c.readUpper u a n dest).engPoison = c.engPoison := by simp only [Core.readUpper]; split <;> rfl
@[simp] theorem Core.readUpper_watchNow (c : Core) (u a n : Nat) (dest : LateDest) : (c.readUpper u a n dest).watchNow = c.watchNow := by simp only [Core.readUpper]; split <;> rfl
@[simp] theorem Core.readUpper_watchQ (c : Core) (u a n : Nat) (dest : LateDest) : (c.readUpper u a n dest).watchQ = c.watchQ := by simp only [Core.readUpper]; split <;> rfl
@[simp] theorem Core.readUpper_watchLost (c : Core) (u a n : Nat) (dest : LateDest) : (c.readUpper u a n dest).watchLost = c.watchLost := by simp only [Core.readUpper]; split <;> rfl
@[simp] theorem Core.readUpper_watchFly (c : Core) (u a n : Nat) (dest : LateDest) : (c.readUpper u a n dest).watchFly = c.watchFly := by simp only [Core.readUpper]; split <;> rfl
@[simp] theorem Core.readUpper_waiting (c : Core) (u a n : Nat) (dest : LateDest) : (c.readUpper u a n dest).waiting = c.waiting := by simp only [Core.readUpper]; split <;> rfl
@[simp] theorem Core.readUpper_waitStart (c : Core) (u a n : Nat) (dest : LateDest) : (c.readUpper u a n dest).waitStart = c.waitStart := by simp only [Core.readUpper]; split <;> rfl
@[simp] theorem Core.readUpper_waitCal (c : Core) (u a n : Nat) (dest : LateDest) : (c.readUpper u a n dest).waitCal = c.waitCal := by simp only [Core.readUpper]; split <;> rfl
@[simp] theorem Core.readUpper_preempt (c : Core) (u a n : Nat) (dest : LateDest) : (c.readUpper u a n dest).preempt = c.preempt := by simp only [Core.readUpper]; split <;> rfl
@[simp] theorem Core.readUpper_dump (c : Core) (u a n : Nat) (dest : LateDest) : (c.readUpper u a n dest).dump = c.dump := by simp only [Core.readUpper]; split <;> rfl
@[simp] theorem Core.readUpper_stopAt (c : Core) (u a n : Nat) (dest : LateDest) : (c.readUpper u a n dest).stopAt = c.stopAt := by simp only [Core.readUpper]; split <;> rfl
@[simp] theorem Core.readUpper_sweeps (c : Core) (u a n : Nat) (dest : LateDest) : (c.readUpper u a n dest).sweeps = c.sweeps := by simp only [Core.readUpper]; split <;> rfl
@[simp] theorem Core.readUpper_matrix (c : Core) (u a n : Nat) (dest : LateDest) : (c.readUpper u a n dest).matrix = c.matrix := by simp only [Core.readUpper]; split <;> rfl
@[simp] theorem Core.readUpper_copy (c : Core) (u a n : Nat) (dest : LateDest) : (c.readUpper u a n dest).copy = c.copy := by simp only [Core.readUpper]; split <;> rfl
@[simp] theorem Core.readUpper_lantern (c : Core) (u a n : Nat) (dest : LateDest) : (c.readUpper u a n dest).lantern = c.lantern := by simp only [Core.readUpper]; split <;> rfl
@[simp] theorem Core.readUpper_cmdNext (c : Core) (u a n : Nat) (dest : LateDest) : (c.readUpper u a n dest).cmdNext = c.cmdNext := by simp only [Core.readUpper]; split <;> rfl
@[simp] theorem Core.readUpper_fq (c : Core) (u a n : Nat) (dest : LateDest) : (c.readUpper u a n dest).fq = c.fq := by simp only [Core.readUpper]; split <;> rfl
@[simp] theorem Core.readUpper_tiles (c : Core) (u a n : Nat) (dest : LateDest) : (c.readUpper u a n dest).tiles = c.tiles := by simp only [Core.readUpper]; split <;> rfl
@[simp] theorem Core.readUpper_tileFinal (c : Core) (u a n : Nat) (dest : LateDest) : (c.readUpper u a n dest).tileFinal = c.tileFinal := by simp only [Core.readUpper]; split <;> rfl
@[simp] theorem Core.readUpper_curves (c : Core) (u a n : Nat) (dest : LateDest) : (c.readUpper u a n dest).curves = c.curves := by simp only [Core.readUpper]; split <;> rfl
@[simp] theorem Core.readUpper_lan (c : Core) (u a n : Nat) (dest : LateDest) : (c.readUpper u a n dest).lan = c.lan := by simp only [Core.readUpper]; split <;> rfl
@[simp] theorem Core.readUpper_eqx (c : Core) (u a n : Nat) (dest : LateDest) : (c.readUpper u a n dest).eqx = c.eqx := by simp only [Core.readUpper]; split <;> rfl
@[simp] theorem Core.readUpper_doneNow (c : Core) (u a n : Nat) (dest : LateDest) : (c.readUpper u a n dest).doneNow = c.doneNow := by simp only [Core.readUpper]; split <;> rfl
@[simp] theorem Core.readUpper_fmtNow (c : Core) (u a n : Nat) (dest : LateDest) : (c.readUpper u a n dest).fmtNow = c.fmtNow := by simp only [Core.readUpper]; split <;> rfl
@[simp] theorem Core.readUpper_fmtLate (c : Core) (u a n : Nat) (dest : LateDest) : (c.readUpper u a n dest).fmtLate = c.fmtLate := by simp only [Core.readUpper]; split <;> rfl
@[simp] theorem Core.readUpper_statusNow (c : Core) (u a n : Nat) (dest : LateDest) : (c.readUpper u a n dest).statusNow = c.statusNow := by simp only [Core.readUpper]; split <;> rfl
@[simp] theorem Core.readUpper_acted (c : Core) (u a n : Nat) (dest : LateDest) : (c.readUpper u a n dest).acted = c.acted := by simp only [Core.readUpper]; split <;> rfl
@[simp] theorem Core.readUpper_headPc (c : Core) (u a n : Nat) (dest : LateDest) : (c.readUpper u a n dest).headPc = c.headPc := by simp only [Core.readUpper]; split <;> rfl
@[simp] theorem Core.readUpper_headSlot (c : Core) (u a n : Nat) (dest : LateDest) : (c.readUpper u a n dest).headSlot = c.headSlot := by simp only [Core.readUpper]; split <;> rfl
@[simp] theorem Core.readUpper_headRun (c : Core) (u a n : Nat) (dest : LateDest) : (c.readUpper u a n dest).headRun = c.headRun := by simp only [Core.readUpper]; split <;> rfl
@[simp] theorem Core.readUpper_headInh (c : Core) (u a n : Nat) (dest : LateDest) : (c.readUpper u a n dest).headInh = c.headInh := by simp only [Core.readUpper]; split <;> rfl
@[simp] theorem Core.readUpper_frozenAt (c : Core) (u a n : Nat) (dest : LateDest) : (c.readUpper u a n dest).frozenAt = c.frozenAt := by simp only [Core.readUpper]; split <;> rfl
@[simp] theorem Core.readUpper_cur (c : Core) (u a n : Nat) (dest : LateDest) : (c.readUpper u a n dest).cur = c.cur := by simp only [Core.readUpper]; split <;> rfl
@[simp] theorem Core.readUpper_stall (c : Core) (u a n : Nat) (dest : LateDest) : (c.readUpper u a n dest).stall = c.stall := by simp only [Core.readUpper]; split <;> rfl
@[simp] theorem Core.readUpper_events (c : Core) (u a n : Nat) (dest : LateDest) : (c.readUpper u a n dest).events = c.events := by simp only [Core.readUpper]; split <;> rfl

@[simp] theorem Core.pushTimed_phys (c : Core) (w : TimedWrite) : (c.pushTimed w).phys = c.phys := rfl
@[simp] theorem Core.pushTimed_ctx (c : Core) (w : TimedWrite) : (c.pushTimed w).ctx = c.ctx := rfl
@[simp] theorem Core.pushTimed_task (c : Core) (w : TimedWrite) : (c.pushTimed w).task = c.task := rfl
@[simp] theorem Core.pushTimed_s (c : Core) (w : TimedWrite) : (c.pushTimed w).s = c.s := rfl
@[simp] theorem Core.pushTimed_v (c : Core) (w : TimedWrite) : (c.pushTimed w).v = c.v := rfl
@[simp] theorem Core.pushTimed_p (c : Core) (w : TimedWrite) : (c.pushTimed w).p = c.p := rfl
@[simp] theorem Core.pushTimed_k (c : Core) (w : TimedWrite) : (c.pushTimed w).k = c.k := rfl
@[simp] theorem Core.pushTimed_b (c : Core) (w : TimedWrite) : (c.pushTimed w).b = c.b := rfl
@[simp] theorem Core.pushTimed_bc (c : Core) (w : TimedWrite) : (c.pushTimed w).bc = c.bc := rfl
@[simp] theorem Core.pushTimed_lc (c : Core) (w : TimedWrite) : (c.pushTimed w).lc = c.lc := rfl
@[simp] theorem Core.pushTimed_ls (c : Core) (w : TimedWrite) : (c.pushTimed w).ls = c.ls := rfl
@[simp] theorem Core.pushTimed_le (c : Core) (w : TimedWrite) : (c.pushTimed w).le = c.le := rfl
@[simp] theorem Core.pushTimed_heldLs (c : Core) (w : TimedWrite) : (c.pushTimed w).heldLs = c.heldLs := rfl
@[simp] theorem Core.pushTimed_heldLe (c : Core) (w : TimedWrite) : (c.pushTimed w).heldLe = c.heldLe := rfl
@[simp] theorem Core.pushTimed_pc (c : Core) (w : TimedWrite) : (c.pushTimed w).pc = c.pc := rfl
@[simp] theorem Core.pushTimed_slots (c : Core) (w : TimedWrite) : (c.pushTimed w).slots = c.slots := rfl
@[simp] theorem Core.pushTimed_oob (c : Core) (w : TimedWrite) : (c.pushTimed w).oob = c.oob := rfl
@[simp] theorem Core.pushTimed_revpend (c : Core) (w : TimedWrite) : (c.pushTimed w).revpend = c.revpend := rfl
@[simp] theorem Core.pushTimed_inh (c : Core) (w : TimedWrite) : (c.pushTimed w).inh = c.inh := rfl
@[simp] theorem Core.pushTimed_dsField (c : Core) (w : TimedWrite) : (c.pushTimed w).dsField = c.dsField := rfl
@[simp] theorem Core.pushTimed_trapCause (c : Core) (w : TimedWrite) : (c.pushTimed w).trapCause = c.trapCause := rfl
@[simp] theorem Core.pushTimed_trapPc (c : Core) (w : TimedWrite) : (c.pushTimed w).trapPc = c.trapPc := rfl
@[simp] theorem Core.pushTimed_trapVal (c : Core) (w : TimedWrite) : (c.pushTimed w).trapVal = c.trapVal := rfl
@[simp] theorem Core.pushTimed_trapTgt (c : Core) (w : TimedWrite) : (c.pushTimed w).trapTgt = c.trapTgt := rfl
@[simp] theorem Core.pushTimed_tvec (c : Core) (w : TimedWrite) : (c.pushTimed w).tvec = c.tvec := rfl
@[simp] theorem Core.pushTimed_sbase (c : Core) (w : TimedWrite) : (c.pushTimed w).sbase = c.sbase := rfl
@[simp] theorem Core.pushTimed_slimit (c : Core) (w : TimedWrite) : (c.pushTimed w).slimit = c.slimit := rfl
@[simp] theorem Core.pushTimed_calendar (c : Core) (w : TimedWrite) : (c.pushTimed w).calendar = c.calendar := rfl
@[simp] theorem Core.pushTimed_vigil (c : Core) (w : TimedWrite) : (c.pushTimed w).vigil = c.vigil := rfl
@[simp] theorem Core.pushTimed_tags (c : Core) (w : TimedWrite) : (c.pushTimed w).tags = c.tags := rfl
@[simp] theorem Core.pushTimed_tagrev (c : Core) (w : TimedWrite) : (c.pushTimed w).tagrev = c.tagrev := rfl
@[simp] theorem Core.pushTimed_oobcnt (c : Core) (w : TimedWrite) : (c.pushTimed w).oobcnt = c.oobcnt := rfl
@[simp] theorem Core.pushTimed_fmtstat (c : Core) (w : TimedWrite) : (c.pushTimed w).fmtstat = c.fmtstat := rfl
@[simp] theorem Core.pushTimed_waitcfg (c : Core) (w : TimedWrite) : (c.pushTimed w).waitcfg = c.waitcfg := rfl
@[simp] theorem Core.pushTimed_crew (c : Core) (w : TimedWrite) : (c.pushTimed w).crew = c.crew := rfl
@[simp] theorem Core.pushTimed_vtopo (c : Core) (w : TimedWrite) : (c.pushTimed w).vtopo = c.vtopo := rfl
@[simp] theorem Core.pushTimed_poolAt (c : Core) (w : TimedWrite) : (c.pushTimed w).poolAt = c.poolAt := rfl
@[simp] theorem Core.pushTimed_dbgcfg (c : Core) (w : TimedWrite) : (c.pushTimed w).dbgcfg = c.dbgcfg := rfl
@[simp] theorem Core.pushTimed_samplecfg (c : Core) (w : TimedWrite) : (c.pushTimed w).samplecfg = c.samplecfg := rfl
@[simp] theorem Core.pushTimed_wpbase (c : Core) (w : TimedWrite) : (c.pushTimed w).wpbase = c.wpbase := rfl
@[simp] theorem Core.pushTimed_wpmask (c : Core) (w : TimedWrite) : (c.pushTimed w).wpmask = c.wpmask := rfl
@[simp] theorem Core.pushTimed_ctrsel (c : Core) (w : TimedWrite) : (c.pushTimed w).ctrsel = c.ctrsel := rfl
@[simp] theorem Core.pushTimed_ctrval (c : Core) (w : TimedWrite) : (c.pushTimed w).ctrval = c.ctrval := rfl
@[simp] theorem Core.pushTimed_ctrRead (c : Core) (w : TimedWrite) : (c.pushTimed w).ctrRead = c.ctrRead := rfl
@[simp] theorem Core.pushTimed_rows (c : Core) (w : TimedWrite) : (c.pushTimed w).rows = c.rows := rfl
@[simp] theorem Core.pushTimed_rowReads (c : Core) (w : TimedWrite) : (c.pushTimed w).rowReads = c.rowReads := rfl
@[simp] theorem Core.pushTimed_lastRow (c : Core) (w : TimedWrite) : (c.pushTimed w).lastRow = c.lastRow := rfl
@[simp] theorem Core.pushTimed_jumped (c : Core) (w : TimedWrite) : (c.pushTimed w).jumped = c.jumped := rfl
@[simp] theorem Core.pushTimed_coFence (c : Core) (w : TimedWrite) : (c.pushTimed w).coFence = c.coFence := rfl
@[simp] theorem Core.pushTimed_scr (c : Core) (w : TimedWrite) : (c.pushTimed w).scr = c.scr := rfl
@[simp] theorem Core.pushTimed_lanes (c : Core) (w : TimedWrite) : (c.pushTimed w).lanes = c.lanes := rfl
@[simp] theorem Core.pushTimed_wb (c : Core) (w : TimedWrite) : (c.pushTimed w).wb = c.wb := rfl
@[simp] theorem Core.pushTimed_locks (c : Core) (w : TimedWrite) : (c.pushTimed w).locks = c.locks := rfl
@[simp] theorem Core.pushTimed_bankReads (c : Core) (w : TimedWrite) : (c.pushTimed w).bankReads = c.bankReads := rfl
@[simp] theorem Core.pushTimed_bankWrites (c : Core) (w : TimedWrite) : (c.pushTimed w).bankWrites = c.bankWrites := rfl
@[simp] theorem Core.pushTimed_late (c : Core) (w : TimedWrite) : (c.pushTimed w).late = c.late := rfl
@[simp] theorem Core.pushTimed_ready (c : Core) (w : TimedWrite) : (c.pushTimed w).ready = c.ready := rfl
@[simp] theorem Core.pushTimed_btime (c : Core) (w : TimedWrite) : (c.pushTimed w).btime = c.btime := rfl
@[simp] theorem Core.pushTimed_nextIssue (c : Core) (w : TimedWrite) : (c.pushTimed w).nextIssue = c.nextIssue := rfl
@[simp] theorem Core.pushTimed_vecFree (c : Core) (w : TimedWrite) : (c.pushTimed w).vecFree = c.vecFree := rfl
@[simp] theorem Core.pushTimed_divFree (c : Core) (w : TimedWrite) : (c.pushTimed w).divFree = c.divFree := rfl
@[simp] theorem Core.pushTimed_quantDone (c : Core) (w : TimedWrite) : (c.pushTimed w).quantDone = c.quantDone := rfl
@[simp] theorem Core.pushTimed_acc (c : Core) (w : TimedWrite) : (c.pushTimed w).acc = c.acc := rfl
@[simp] theorem Core.pushTimed_accNext (c : Core) (w : TimedWrite) : (c.pushTimed w).accNext = c.accNext := rfl
@[simp] theorem Core.pushTimed_dep (c : Core) (w : TimedWrite) : (c.pushTimed w).dep = c.dep := rfl
@[simp] theorem Core.pushTimed_depMsc (c : Core) (w : TimedWrite) : (c.pushTimed w).depMsc = c.depMsc := rfl
@[simp] theorem Core.pushTimed_mscSeen (c : Core) (w : TimedWrite) : (c.pushTimed w).mscSeen = c.mscSeen := rfl
@[simp] theorem Core.pushTimed_tfc (c : Core) (w : TimedWrite) : (c.pushTimed w).tfc = c.tfc := rfl
@[simp] theorem Core.pushTimed_tfcReq (c : Core) (w : TimedWrite) : (c.pushTimed w).tfcReq = c.tfcReq := rfl
@[simp] theorem Core.pushTimed_marks (c : Core) (w : TimedWrite) : (c.pushTimed w).marks = c.marks := rfl
@[simp] theorem Core.pushTimed_owed (c : Core) (w : TimedWrite) : (c.pushTimed w).owed = c.owed := rfl
@[simp] theorem Core.pushTimed_redOwed (c : Core) (w : TimedWrite) : (c.pushTimed w).redOwed = c.redOwed := rfl
@[simp] theorem Core.pushTimed_redHeld (c : Core) (w : TimedWrite) : (c.pushTimed w).redHeld = c.redHeld := rfl
@[simp] theorem Core.pushTimed_engPoison (c : Core) (w : TimedWrite) : (c.pushTimed w).engPoison = c.engPoison := rfl
@[simp] theorem Core.pushTimed_watchNow (c : Core) (w : TimedWrite) : (c.pushTimed w).watchNow = c.watchNow := rfl
@[simp] theorem Core.pushTimed_watchQ (c : Core) (w : TimedWrite) : (c.pushTimed w).watchQ = c.watchQ := rfl
@[simp] theorem Core.pushTimed_watchLost (c : Core) (w : TimedWrite) : (c.pushTimed w).watchLost = c.watchLost := rfl
@[simp] theorem Core.pushTimed_watchFly (c : Core) (w : TimedWrite) : (c.pushTimed w).watchFly = c.watchFly := rfl
@[simp] theorem Core.pushTimed_waiting (c : Core) (w : TimedWrite) : (c.pushTimed w).waiting = c.waiting := rfl
@[simp] theorem Core.pushTimed_waitStart (c : Core) (w : TimedWrite) : (c.pushTimed w).waitStart = c.waitStart := rfl
@[simp] theorem Core.pushTimed_waitCal (c : Core) (w : TimedWrite) : (c.pushTimed w).waitCal = c.waitCal := rfl
@[simp] theorem Core.pushTimed_preempt (c : Core) (w : TimedWrite) : (c.pushTimed w).preempt = c.preempt := rfl
@[simp] theorem Core.pushTimed_dump (c : Core) (w : TimedWrite) : (c.pushTimed w).dump = c.dump := rfl
@[simp] theorem Core.pushTimed_stopAt (c : Core) (w : TimedWrite) : (c.pushTimed w).stopAt = c.stopAt := rfl
@[simp] theorem Core.pushTimed_sweeps (c : Core) (w : TimedWrite) : (c.pushTimed w).sweeps = c.sweeps := rfl
@[simp] theorem Core.pushTimed_matrix (c : Core) (w : TimedWrite) : (c.pushTimed w).matrix = c.matrix := rfl
@[simp] theorem Core.pushTimed_copy (c : Core) (w : TimedWrite) : (c.pushTimed w).copy = c.copy := rfl
@[simp] theorem Core.pushTimed_lantern (c : Core) (w : TimedWrite) : (c.pushTimed w).lantern = c.lantern := rfl
@[simp] theorem Core.pushTimed_cmdNext (c : Core) (w : TimedWrite) : (c.pushTimed w).cmdNext = c.cmdNext := rfl
@[simp] theorem Core.pushTimed_fq (c : Core) (w : TimedWrite) : (c.pushTimed w).fq = c.fq := rfl
@[simp] theorem Core.pushTimed_tiles (c : Core) (w : TimedWrite) : (c.pushTimed w).tiles = c.tiles := rfl
@[simp] theorem Core.pushTimed_tileFinal (c : Core) (w : TimedWrite) : (c.pushTimed w).tileFinal = c.tileFinal := rfl
@[simp] theorem Core.pushTimed_curves (c : Core) (w : TimedWrite) : (c.pushTimed w).curves = c.curves := rfl
@[simp] theorem Core.pushTimed_lan (c : Core) (w : TimedWrite) : (c.pushTimed w).lan = c.lan := rfl
@[simp] theorem Core.pushTimed_eqx (c : Core) (w : TimedWrite) : (c.pushTimed w).eqx = c.eqx := rfl
@[simp] theorem Core.pushTimed_doneNow (c : Core) (w : TimedWrite) : (c.pushTimed w).doneNow = c.doneNow := rfl
@[simp] theorem Core.pushTimed_fmtNow (c : Core) (w : TimedWrite) : (c.pushTimed w).fmtNow = c.fmtNow := rfl
@[simp] theorem Core.pushTimed_fmtLate (c : Core) (w : TimedWrite) : (c.pushTimed w).fmtLate = c.fmtLate := rfl
@[simp] theorem Core.pushTimed_statusNow (c : Core) (w : TimedWrite) : (c.pushTimed w).statusNow = c.statusNow := rfl
@[simp] theorem Core.pushTimed_acted (c : Core) (w : TimedWrite) : (c.pushTimed w).acted = c.acted := rfl
@[simp] theorem Core.pushTimed_headPc (c : Core) (w : TimedWrite) : (c.pushTimed w).headPc = c.headPc := rfl
@[simp] theorem Core.pushTimed_headSlot (c : Core) (w : TimedWrite) : (c.pushTimed w).headSlot = c.headSlot := rfl
@[simp] theorem Core.pushTimed_headRun (c : Core) (w : TimedWrite) : (c.pushTimed w).headRun = c.headRun := rfl
@[simp] theorem Core.pushTimed_headInh (c : Core) (w : TimedWrite) : (c.pushTimed w).headInh = c.headInh := rfl
@[simp] theorem Core.pushTimed_frozenAt (c : Core) (w : TimedWrite) : (c.pushTimed w).frozenAt = c.frozenAt := rfl
@[simp] theorem Core.pushTimed_cur (c : Core) (w : TimedWrite) : (c.pushTimed w).cur = c.cur := rfl
@[simp] theorem Core.pushTimed_stall (c : Core) (w : TimedWrite) : (c.pushTimed w).stall = c.stall := rfl
@[simp] theorem Core.pushTimed_events (c : Core) (w : TimedWrite) : (c.pushTimed w).events = c.events := rfl

end Sys2Proof.Machine
end

