-- ==== Sys2Proof/Laws/Frame.lean ====
section
/-! SUPPORT. What retiring leaves alone, said once: the frame of an instruction follows from what its own effect does to
the core. -/

namespace Sys2Proof.Machine

/-! ## Retirement -/

theorem Core.still_advance (c : Core) : c.advance.still = c.still := by
  unfold Core.advance; dsimp only; split_ifs <;> rfl

theorem Core.still_finish (c : Core) (b : Bool) (now : Nat) : (c.finish b now).still = c.still := rfl

theorem Core.still_retire (c : Core) (now : Nat) : (c.retire now).still = c.still := by
  rw [Core.retire, Core.still_finish, Core.still_advance]

theorem Core.path_finish (c : Core) (b : Bool) (now : Nat) : (c.finish b now).path = c.path := rfl

/-- Where control goes depends on the path alone. -/
theorem Core.path_advance {a b : Core} (h : a.path = b.path) : a.advance.path = b.advance.path := by
  simp only [Core.path, Prod.mk.injEq] at h
  obtain ⟨h1, h2, h3, h4, h5, h6, h7⟩ := h
  unfold Core.advance Core.inTakenSlot Core.path Core.applyHeld
  simp only [h1, h2, h3, h4, h5, h6, h7]
  split_ifs <;> rfl

theorem Core.vigil_advance (c : Core) : c.advance.vigil = c.vigil := by
  unfold Core.advance; dsimp only; split_ifs <;> rfl

theorem Core.vigil_retire (c : Core) (now : Nat) : (c.retire now).vigil = c.vigil - 1 := by
  rw [Core.retire]
  show c.advance.vigil - 1 = _
  rw [Core.vigil_advance]

/-- What the fields of `still` say, field by field, for those the frames need. -/
theorem Core.still_s {a b : Core} (h : a.still = b.still) : a.s = b.s := by have := congrArg Core.s h; exact this
theorem Core.retire_s (c : Core) (now : Nat) : (c.retire now).s = c.s := Core.still_s (c.still_retire now)
theorem Core.retire_v (c : Core) (now : Nat) : (c.retire now).v = c.v := by
  have := congrArg Core.v (c.still_retire now); exact this
theorem Core.retire_p (c : Core) (now : Nat) : (c.retire now).p = c.p := by
  have := congrArg Core.p (c.still_retire now); exact this
theorem Core.retire_k (c : Core) (now : Nat) : (c.retire now).k = c.k := by
  have := congrArg Core.k (c.still_retire now); exact this
theorem Core.retire_b (c : Core) (now : Nat) : (c.retire now).b = c.b := by
  have := congrArg Core.b (c.still_retire now); exact this
theorem Core.retire_bc (c : Core) (now : Nat) : (c.retire now).bc = c.bc := by
  have := congrArg Core.bc (c.still_retire now); exact this
theorem Core.retire_fmtstat (c : Core) (now : Nat) : (c.retire now).fmtstat = c.fmtstat := by
  have := congrArg Core.fmtstat (c.still_retire now); exact this

theorem Core.retire_rs (c : Core) (now : Nat) (r : BitVec 5) : (c.retire now).rs r = c.rs r := by
  simp only [Core.rs, Core.retire_s]
theorem Core.retire_rv (c : Core) (now : Nat) (r : BitVec 4) : (c.retire now).rv r = c.rv r := by
  simp only [Core.rv, Core.retire_v]
theorem Core.retire_rp (c : Core) (now : Nat) (r : BitVec 3) : (c.retire now).rp r = c.rp r := by
  simp only [Core.rp, Core.retire_p]
theorem Core.retire_rk (c : Core) (now : Nat) (r : BitVec 4) : (c.retire now).rk r = c.rk r := by
  simp only [Core.rk, Core.retire_k]

/-! ## Registers -/

theorem Core.ws_s (c : Core) (d : BitVec 5) (x : Word) (h : d ≠ 0) : (c.ws d x).s = c.s.set d.toNat x := by
  rw [Core.ws, if_neg h]

theorem Core.rs_ws (c : Core) (d : BitVec 5) (x : Word) : (c.ws d x).rs d = if d = 0 then 0 else x := by
  by_cases h : d = 0
  · rw [if_pos h, Core.rs, if_pos h]
  · rw [if_neg h, Core.rs, if_neg h]
    simp only [Core.ws_s c d x h, Vector.getElem_set_self]

theorem Core.rs_ws_ne (c : Core) (d r : BitVec 5) (x : Word) (h : r ≠ d) : (c.ws d x).rs r = c.rs r := by
  have hn : d.toNat ≠ r.toNat := fun e => h (BitVec.eq_of_toNat_eq e.symm)
  by_cases h0 : d = 0
  · rw [Core.ws, if_pos h0]
  · simp only [Core.rs, Core.ws_s c d x h0, Vector.getElem_set_ne _ _ hn]

theorem Core.rv_wv (c : Core) (d : BitVec 4) (x : VReg) : (c.wv d x).rv d = x := by simp [Core.wv, Core.rv]

theorem Core.rv_wv_ne (c : Core) (d r : BitVec 4) (x : VReg) (h : r ≠ d) : (c.wv d x).rv r = c.rv r := by
  have : d.toNat ≠ r.toNat := fun e => h (BitVec.eq_of_toNat_eq e.symm)
  simp [Core.wv, Core.rv, Vector.getElem_set_ne, this]

theorem Core.rk_wk (c : Core) (d : BitVec 4) (x : Token) : (c.wk d x).rk d = x := by simp [Core.wk, Core.rk]

theorem Core.rk_wk_ne (c : Core) (d r : BitVec 4) (x : Token) (h : r ≠ d) : (c.wk d x).rk r = c.rk r := by
  have : d.toNat ≠ r.toNat := fun e => h (BitVec.eq_of_toNat_eq e.symm)
  simp [Core.wk, Core.rk, Vector.getElem_set_ne, this]

theorem Core.wp_p (c : Core) (d : BitVec 3) (x : PReg) (h : d ≠ 0) : (c.wp d x).p = c.p.set d.toNat x := by
  rw [Core.wp, if_neg h]

theorem Core.rp_wp (c : Core) (d : BitVec 3) (x : PReg) : (c.wp d x).rp d = if d = 0 then BitVec.allOnes 1024 else x := by
  by_cases h : d = 0
  · rw [if_pos h, Core.rp, if_pos h]
  · rw [if_neg h, Core.rp, if_neg h]
    simp only [Core.wp_p c d x h, Vector.getElem_set_self]

theorem Core.rp_wp_ne (c : Core) (d r : BitVec 3) (x : PReg) (h : r ≠ d) : (c.wp d x).rp r = c.rp r := by
  have hn : d.toNat ≠ r.toNat := fun e => h (BitVec.eq_of_toNat_eq e.symm)
  by_cases h0 : d = 0
  · rw [Core.wp, if_pos h0]
  · simp only [Core.rp, Core.wp_p c d x h0, Vector.getElem_set_ne _ _ hn]

/-- An element of a register built element by element. -/
theorem VReg.get_of (f : Nat → Nat → BitVec 32) {r c : Nat} (hr : r < 16) (hc : c < 64) : (VReg.of f).get r c = f r c := by
  have h : 64 * r + c < 1024 := by omega
  have h1 : (64 * r + c) / 64 = r := by omega
  have h2 : (64 * r + c) % 64 = c := by omega
  simp [VReg.of, VReg.get, Array.getD, h, h1, h2]

theorem get_guarded (g : PReg) (old : VReg) (f : Nat → Nat → BitVec 32) {r c : Nat} (hr : r < 16) (hc : c < 64) :
    (guarded g old f).get r c = if g.bit r c then f r c else old.get r c := VReg.get_of _ hr hc

theorem PReg.bit_p0 (c : Core) {r k : Nat} (hr : r < 16) (hk : k < 64) : (c.rp 0).bit r k = true := by
  have : 64 * r + k < 1024 := by omega
  show (if (0 : BitVec 3) = 0 then BitVec.allOnes 1024 else c.p[(0 : BitVec 3).toNat]).getLsbD (64 * r + k) = true
  rw [if_pos rfl, BitVec.getLsbD_allOnes]
  exact decide_eq_true this

/-! ## Frames -/

theorem outside_mod (s : State) (f : Core → Core) : Outside s (s.mod f) := rfl

theorem find_phys {x y : Core} (hp : x.phys = y.phys) (n : Nat) (cs : List Core) :
    (x :: cs).find? (fun c => c.phys = n) = if y.phys = n then some x else cs.find? fun c => c.phys = n := by
  simp only [List.find?_cons, hp]
  split_ifs with h <;> simp [h]

/-- Changing the running core without its memories changes no byte. -/
theorem bytesKept_mod (s : State) (f : Core → Core) (hp : (f s.core).phys = s.core.phys) (hs : (f s.core).scr = s.core.scr)
    (hw : (f s.core).wb = s.core.wb) (hl : (f s.core).lanes = s.core.lanes) : BytesKept s (s.mod f) := by
  refine ⟨?_, fun _ _ => rfl, fun _ => ⟨rfl, by rw [State.mod_core, hl]⟩⟩
  intro sp a
  cases sp with
  | main =>
    show memGet (s.die (dieOf (f s.core).phys)).view a = _
    rw [hp]; rfl
  | lent => rfl
  | csm k =>
    simp only [State.spaceByte, State.csmByte, State.coreAt, State.cores, State.mod_core, State.mod_others]
    rw [find_phys hp, find_phys rfl]
    split_ifs
    · exact congrArg (memGet · _) hs
    · rfl
  | pool d => rfl
  | wb => exact congrArg (memGet · a) hw
  | own => exact congrArg (memGet · a) hs

/-- What the effect of an instruction leaves alone for its frame to follow: a relation of the core before and after. -/
structure Keeps (c d : Core) : Prop where
  path : d.path = c.path
  vigil : d.vigil = c.vigil
  phys : d.phys = c.phys
  scr : d.scr = c.scr
  wb : d.wb = c.wb
  lanes : d.lanes = c.lanes

theorem Keeps.trans {a b c : Core} (h : Keeps a b) (k : Keeps b c) : Keeps a c :=
  ⟨k.1.trans h.1, k.2.trans h.2, k.3.trans h.3, k.4.trans h.4, k.5.trans h.5, k.6.trans h.6⟩

theorem keeps_refl (c : Core) : Keeps c c := ⟨rfl, rfl, rfl, rfl, rfl, rfl⟩
theorem keeps_after (c : Core) (r : Reg) (n : Nat) : Keeps c (c.after r n) := ⟨rfl, rfl, rfl, rfl, rfl, rfl⟩
theorem keeps_unmark (c : Core) (r : Reg) : Keeps c (c.unmark r) := ⟨rfl, rfl, rfl, rfl, rfl, rfl⟩
theorem keeps_note (c : Core) (e : BitVec 8) : Keeps c (c.note e) := ⟨rfl, rfl, rfl, rfl, rfl, rfl⟩
theorem keeps_useVec (c : Core) (now occ : Nat) : Keeps c (c.useVec now occ) := ⟨rfl, rfl, rfl, rfl, rfl, rfl⟩
theorem keeps_wv (c : Core) (d : BitVec 4) (x : VReg) : Keeps c (c.wv d x) := ⟨rfl, rfl, rfl, rfl, rfl, rfl⟩
theorem keeps_wk (c : Core) (d : BitVec 4) (x : Token) : Keeps c (c.wk d x) := ⟨rfl, rfl, rfl, rfl, rfl, rfl⟩
theorem keeps_fmtSet (c : Core) (x : BitVec 5) : Keeps c (c.fmtSet x) := ⟨rfl, rfl, rfl, rfl, rfl, rfl⟩
theorem keeps_fmtLater (c : Core) (n : Nat) (x : BitVec 5) : Keeps c (c.fmtLater n x) := ⟨rfl, rfl, rfl, rfl, rfl, rfl⟩
theorem keeps_readUpper (c : Core) (u a n : Nat) (d : LateDest) : Keeps c (c.readUpper u a n d) :=
  ⟨by simp [Core.path], by simp, by simp, by simp, by simp, by simp⟩
theorem keeps_takePort (c : Core) (n a m : Nat) : Keeps c (c.takePort n a m) := ⟨rfl, rfl, rfl, rfl, rfl, rfl⟩
theorem keeps_ws (c : Core) (d : BitVec 5) (x : Word) : Keeps c (c.ws d x) := by
  unfold Core.ws; split_ifs <;> exact ⟨rfl, rfl, rfl, rfl, rfl, rfl⟩
theorem keeps_wp (c : Core) (d : BitVec 3) (x : PReg) : Keeps c (c.wp d x) := by
  unfold Core.wp; split_ifs <;> exact ⟨rfl, rfl, rfl, rfl, rfl, rfl⟩
theorem keeps_put (c : Core) (d : BitVec 5) (x : Word) (now lat : Nat) : Keeps c (c.put d x now lat) :=
  ((keeps_unmark c _).trans (keeps_ws _ d x)).trans (keeps_after _ _ _)
theorem keeps_putV (c : Core) (d : BitVec 4) (x : VReg) (now lat : Nat) : Keeps c (c.putV d x now lat) :=
  ((keeps_unmark c _).trans (keeps_wv _ d x)).trans (keeps_after _ _ _)
theorem keeps_putK (c : Core) (d : BitVec 4) (x : Token) (now lat : Nat) : Keeps c (c.putK d x now lat) :=
  ((keeps_unmark c _).trans (keeps_wk _ d x)).trans (keeps_after _ _ _)
theorem keeps_putP (c : Core) (d : BitVec 3) (x : PReg) (now lat : Nat) : Keeps c (c.putP d x now lat) :=
  (keeps_wp c d x).trans (keeps_after _ _ _)
theorem keeps_putBc (c : Core) (b : Bool) (now : Nat) : Keeps c (c.putBc b now) := ⟨rfl, rfl, rfl, rfl, rfl, rfl⟩

/-! ## `still` under each writer -/

theorem still_after (c : Core) (r : Reg) (n : Nat) : (c.after r n).still = c.still := rfl
theorem still_unmark (c : Core) (r : Reg) : (c.unmark r).still = c.still := rfl
theorem still_note (c : Core) (e : BitVec 8) : (c.note e).still = c.still := rfl
theorem still_useVec (c : Core) (now occ : Nat) : (c.useVec now occ).still = c.still := rfl
theorem still_takePort (c : Core) (n a m : Nat) : (c.takePort n a m).still = c.still := rfl
theorem still_ws (c : Core) (d : BitVec 5) (x : Word) : (c.ws d x).still = { c.still with s := (c.ws d x).s } := by
  unfold Core.ws; split_ifs <;> rfl
theorem still_wp (c : Core) (d : BitVec 3) (x : PReg) : (c.wp d x).still = { c.still with p := (c.wp d x).p } := by
  unfold Core.wp; split_ifs <;> rfl
theorem still_wv (c : Core) (d : BitVec 4) (x : VReg) : (c.wv d x).still = { c.still with v := (c.wv d x).v } := rfl
theorem still_wk (c : Core) (d : BitVec 4) (x : Token) : (c.wk d x).still = { c.still with k := (c.wk d x).k } := rfl
theorem still_put (c : Core) (d : BitVec 5) (x : Word) (now lat : Nat) :
    (c.put d x now lat).still = { c.still with s := ((c.unmark (sr d)).ws d x).s } := by
  rw [Core.put, still_after, still_ws, still_unmark]
theorem still_putV (c : Core) (d : BitVec 4) (x : VReg) (now lat : Nat) :
    (c.putV d x now lat).still = { c.still with v := ((c.unmark (vr d)).wv d x).v } := by
  rw [Core.putV, still_after, still_wv, still_unmark]
theorem still_putK (c : Core) (d : BitVec 4) (x : Token) (now lat : Nat) :
    (c.putK d x now lat).still = { c.still with k := ((c.unmark (kr d)).wk d x).k } := by
  rw [Core.putK, still_after, still_wk, still_unmark]
theorem still_putP (c : Core) (d : BitVec 3) (x : PReg) (now lat : Nat) :
    (c.putP d x now lat).still = { c.still with p := (c.wp d x).p } := by
  rw [Core.putP, still_after, still_wp]
theorem still_putBc (c : Core) (b : Bool) (now : Nat) : (c.putBc b now).still = { c.still with bc := b } := rfl

/-- A register set back gives the core that stood. -/
theorem still_s_back {c d : Core} {x : Vector (BitVec 64) 32} (h : d.still = { c.still with s := x }) :
    { d.still with s := c.s } = c.still := by rw [h]; rfl
theorem still_v_back {c d : Core} {x : Vector VReg 16} (h : d.still = { c.still with v := x }) :
    { d.still with v := c.v } = c.still := by rw [h]; rfl
theorem still_k_back {c d : Core} {x : Vector Token 16} (h : d.still = { c.still with k := x }) :
    { d.still with k := c.k } = c.still := by rw [h]; rfl
theorem still_p_back {c d : Core} {x : Vector PReg 8} (h : d.still = { c.still with p := x }) :
    { d.still with p := c.p } = c.still := by rw [h]; rfl
theorem still_bc_back {c d : Core} {x : Bool} (h : d.still = { c.still with bc := x }) :
    { d.still with bc := c.bc } = c.still := by rw [h]; rfl

/-! ## Reading back -/

theorem put_rs (c : Core) (d : BitVec 5) (x : Word) (now lat : Nat) :
    (c.put d x now lat).rs d = if d = 0 then 0 else x := Core.rs_ws (c.unmark (sr d)) d x
theorem put_rs_ne (c : Core) (d r : BitVec 5) (x : Word) (now lat : Nat) (h : r ≠ d) :
    (c.put d x now lat).rs r = c.rs r := Core.rs_ws_ne (c.unmark (sr d)) d r x h
theorem after_rv (c : Core) (g : Reg) (n : Nat) (r : BitVec 4) : (c.after g n).rv r = c.rv r := rfl
theorem unmark_rv (c : Core) (g : Reg) (r : BitVec 4) : (c.unmark g).rv r = c.rv r := rfl
theorem useVec_rv (c : Core) (now occ : Nat) (r : BitVec 4) : (c.useVec now occ).rv r = c.rv r := rfl
theorem putV_rv (c : Core) (d : BitVec 4) (x : VReg) (now lat : Nat) : (c.putV d x now lat).rv d = x := by
  rw [Core.putV, after_rv, Core.rv_wv]
theorem putV_rv_ne (c : Core) (d r : BitVec 4) (x : VReg) (now lat : Nat) (h : r ≠ d) :
    (c.putV d x now lat).rv r = c.rv r := by
  rw [Core.putV, after_rv, Core.rv_wv_ne _ _ _ _ h, unmark_rv]
theorem after_rk (c : Core) (g : Reg) (n : Nat) (r : BitVec 4) : (c.after g n).rk r = c.rk r := rfl
theorem unmark_rk (c : Core) (g : Reg) (r : BitVec 4) : (c.unmark g).rk r = c.rk r := rfl
theorem putK_rk (c : Core) (d : BitVec 4) (x : Token) (now lat : Nat) : (c.putK d x now lat).rk d = x := by
  rw [Core.putK, after_rk, Core.rk_wk]
theorem putK_rk_ne (c : Core) (d r : BitVec 4) (x : Token) (now lat : Nat) (h : r ≠ d) :
    (c.putK d x now lat).rk r = c.rk r := by
  rw [Core.putK, after_rk, Core.rk_wk_ne _ _ _ _ h, unmark_rk]
theorem after_rp (c : Core) (g : Reg) (n : Nat) (r : BitVec 3) : (c.after g n).rp r = c.rp r := rfl
theorem useVec_rp (c : Core) (now occ : Nat) (r : BitVec 3) : (c.useVec now occ).rp r = c.rp r := rfl

/-! ## From the effect of an instruction to its frame -/

theorem withGate_go {i : Instr} {s : State} {eff : State → State} (h : gate i s = .go) :
    withGate i s eff = .next (eff s) := by rw [withGate, h]

theorem retires_of {s : State} {f : Core → Core} (h : Keeps s.core (f s.core)) : Retires s (retireWith s f) := by
  refine ⟨?_, ?_, rfl, rfl⟩
  · exact Core.path_advance h.path
  · show ((f s.core).retire s.now).vigil = _
    rw [Core.vigil_retire, h.vigil]

theorem bytes_of {s : State} {f : Core → Core} (h : Keeps s.core (f s.core)) : BytesKept s (retireWith s f) := by
  refine bytesKept_mod s _ ?_ ?_ ?_ ?_
  · have := congrArg Core.phys ((f s.core).still_retire s.now); exact Eq.trans this h.phys
  · have := congrArg Core.scr ((f s.core).still_retire s.now); exact Eq.trans this h.scr
  · have := congrArg Core.wb ((f s.core).still_retire s.now); exact Eq.trans this h.wb
  · have := congrArg Core.lanes ((f s.core).still_retire s.now); exact Eq.trans this h.lanes

/-- The core after an instruction that retires. -/
theorem retireWith_core (s : State) (f : Core → Core) : (retireWith s f).core = (f s.core).retire s.now := rfl

theorem onlyScalar_of {s : State} {f : Core → Core} {d : BitVec 5} (hk : Keeps s.core (f s.core))
    (hs : { (f s.core).still with s := s.core.s } = s.core.still) (hr : ∀ r, r ≠ d → (f s.core).rs r = s.core.rs r) :
    OnlyScalar d s (retireWith s f) := by
  refine ⟨?_, ?_, rfl, bytes_of hk, retires_of hk⟩
  · intro r h; rw [retireWith_core, Core.retire_rs, hr r h]
  · rw [retireWith_core, Core.still_retire]; exact hs

theorem onlyBc_of {s : State} {f : Core → Core} (hk : Keeps s.core (f s.core))
    (hs : { (f s.core).still with bc := s.core.bc } = s.core.still) : OnlyBc s (retireWith s f) := by
  refine ⟨?_, rfl, bytes_of hk, retires_of hk⟩
  rw [retireWith_core, Core.still_retire]; exact hs

theorem onlyVector_of {s : State} {f : Core → Core} {d : BitVec 4} (hk : Keeps s.core (f s.core))
    (hs : { (f s.core).still with v := s.core.v } = s.core.still) (hr : ∀ r, r ≠ d → (f s.core).rv r = s.core.rv r) :
    OnlyVector d s (retireWith s f) := by
  refine ⟨?_, ?_, rfl, bytes_of hk, retires_of hk⟩
  · intro r h; rw [retireWith_core, Core.retire_rv, hr r h]
  · rw [retireWith_core, Core.still_retire]; exact hs

theorem onlyPred_of {s : State} {f : Core → Core} {d : BitVec 3} (hk : Keeps s.core (f s.core))
    (hs : { (f s.core).still with p := s.core.p } = s.core.still) (hr : ∀ r, r ≠ d → (f s.core).rp r = s.core.rp r) :
    OnlyPred d s (retireWith s f) := by
  refine ⟨?_, ?_, rfl, bytes_of hk, retires_of hk⟩
  · intro r h; rw [retireWith_core, Core.retire_rp, hr r h]
  · rw [retireWith_core, Core.still_retire]; exact hs

theorem onlyToken_of {s : State} {f : Core → Core} {d : BitVec 4} (hk : Keeps s.core (f s.core))
    (hs : { (f s.core).still with k := s.core.k } = s.core.still) (hr : ∀ r, r ≠ d → (f s.core).rk r = s.core.rk r) :
    OnlyToken d s (retireWith s f) := by
  refine ⟨?_, ?_, rfl, bytes_of hk, retires_of hk⟩
  · intro r h; rw [retireWith_core, Core.retire_rk, hr r h]
  · rw [retireWith_core, Core.still_retire]; exact hs

theorem onlyRetires_of {s : State} {f : Core → Core} (hk : Keeps s.core (f s.core))
    (hs : (f s.core).still = s.core.still) : OnlyRetires s (retireWith s f) := by
  refine ⟨?_, rfl, bytes_of hk, retires_of hk⟩
  rw [retireWith_core, Core.still_retire]; exact hs

/-- A result of registers written `lat` cycles on. -/
theorem puts_put {i : Instr} {d : BitVec 5} {s : State} {x : Core → Word} {lat : Nat}
    (he : exec i s = withGate i s fun s => retireWith s fun c => c.put d (x c) s.now lat) : Puts i d s (x s.core) := by
  intro hg
  refine ⟨_, he.trans (withGate_go hg), ?_, onlyScalar_of (keeps_put ..) (still_s_back (still_put ..)) ?_⟩
  · rw [retireWith_core, Core.retire_rs]; exact put_rs ..
  · exact fun r h => put_rs_ne _ _ _ _ _ _ h

/-- A branch condition written. -/
theorem putsBc_of {i : Instr} {s : State} {b : Core → Bool}
    (he : exec i s = withGate i s fun s => retireWith s fun c => c.putBc (b c) s.now) : PutsBc i s (b s.core) := by
  intro hg
  refine ⟨_, he.trans (withGate_go hg), ?_, onlyBc_of (keeps_putBc ..) (still_bc_back (still_putBc ..))⟩
  rw [retireWith_core, Core.retire_bc]; rfl

/-- A guarded vector result. -/
theorem putsVector_of {i : Instr} {d : BitVec 4} {p : BitVec 3} {s : State} {lat : Nat} {f : Core → Nat → Nat → BitVec 32}
    (he : exec i s = vecOp i d p lat f s) : PutsVector i d p s (f s.core) := by
  intro hg
  have e : vecOp i d p lat f s = _ := withGate_go hg
  refine ⟨_, he.trans e, ?_, onlyVector_of ((keeps_useVec ..).trans (keeps_putV ..))
    (still_v_back ((still_putV ..).trans (by rw [still_useVec]))) ?_⟩
  · intro r c hr hc
    rw [retireWith_core, Core.retire_rv, putV_rv]
    exact get_guarded _ _ _ hr hc
  · intro r h
    rw [putV_rv_ne _ _ _ _ _ _ h, useVec_rv]

/-- A predicate result. -/
theorem putsPred_of {i : Instr} {d : BitVec 3} {s : State} {occ lat : Nat} {f : Core → PReg}
    (he : exec i s = withGate i s fun s => retireWith s fun c => (c.useVec s.now occ).putP d (f c) s.now lat) :
    PutsPred i d s (f s.core) := by
  intro hg
  refine ⟨_, he.trans (withGate_go hg), ?_, onlyPred_of ((keeps_useVec ..).trans (keeps_putP ..))
    (still_p_back ((still_putP ..).trans (by rw [still_useVec]))) ?_⟩
  · rw [retireWith_core, Core.retire_rp, Core.putP, after_rp, Core.rp_wp]
  · intro r h
    rw [Core.putP, after_rp, Core.rp_wp_ne _ _ _ _ h, useVec_rp]

/-- A token result. -/
theorem putsToken_of {i : Instr} {d : BitVec 4} {s : State} {lat : Nat} {f : Core → Token}
    (he : exec i s = withGate i s fun s => retireWith s fun c => c.putK d (f c) s.now lat) : PutsToken i d s (f s.core) := by
  intro hg
  refine ⟨_, he.trans (withGate_go hg), ?_, onlyToken_of (keeps_putK ..) (still_k_back (still_putK ..)) ?_⟩
  · rw [retireWith_core, Core.retire_rk, putK_rk]
  · exact fun r h => putK_rk_ne _ _ _ _ _ _ h

seal withGate in
/-- Every strand instruction meets the gate first (R355). -/
theorem exec_strand (i : Instr) (h : isStrand i = true) (s : State) : ∃ eff, exec i s = withGate i s eff := by
  cases i <;> first | exact ⟨_, rfl⟩ | exact absurd (show false = true from h) Bool.false_ne_true

end Sys2Proof.Machine
end

