-- ==== Sys2Proof/Laws/Memory.lean ====
section
/-! SUPPORT. Sparse tables and the canonical form of memory: what a read gives after a write, and that every operation
over memory keeps the form. -/

namespace Sys2Proof.Machine

/-! ## Sparse tables -/

theorem mapGet_mapSet {α : Type} (m : SMap α) (k : Nat) (x : α) : mapGet (mapSet m k x) k = some x := by
  induction m with
  | nil => simp [mapSet, mapGet]
  | cons c rest ih =>
    obtain ⟨a, y⟩ := c
    simp only [mapSet]
    split_ifs with h1 h2
    · simp [mapGet]
    · simp [mapGet]
    · rw [mapGet, if_neg (fun e => h2 e.symm), ih]

theorem mapGet_mapSet_ne {α : Type} (m : SMap α) {k b : Nat} (x : α) (h : b ≠ k) : mapGet (mapSet m k x) b = mapGet m b := by
  induction m with
  | nil => simp [mapSet, mapGet, Ne.symm h]
  | cons c rest ih =>
    obtain ⟨a, y⟩ := c
    simp only [mapSet]
    split_ifs with h1 h2
    · rw [mapGet, if_neg (Ne.symm h)]
    · subst h2; rw [mapGet, if_neg (Ne.symm h), mapGet, if_neg (Ne.symm h)]
    · rw [mapGet, mapGet, ih]

theorem mapGet_mapErase_ne {α : Type} (m : SMap α) {k b : Nat} (h : b ≠ k) : mapGet (mapErase m k) b = mapGet m b := by
  induction m with
  | nil => rfl
  | cons c rest ih =>
    obtain ⟨a, y⟩ := c
    rw [mapErase]
    split_ifs with h1
    · subst h1; rw [mapGet, if_neg (Ne.symm h)]
    · rw [mapGet, mapGet, ih]

theorem keysRising_mono {α : Type} {lo hi : Nat} (m : SMap α) (hl : lo ≤ hi) (h : keysRising hi m = true) :
    keysRising lo m = true := by
  cases m with
  | nil => rfl
  | cons c rest =>
    obtain ⟨a, y⟩ := c
    simp only [keysRising, Bool.and_eq_true, decide_eq_true_eq] at *
    exact ⟨by omega, h.2⟩

theorem mapGet_below {α : Type} {lo b : Nat} (m : SMap α) (h : keysRising lo m = true) (hb : b < lo) : mapGet m b = none := by
  induction m generalizing lo with
  | nil => rfl
  | cons c rest ih =>
    obtain ⟨a, y⟩ := c
    simp only [keysRising, Bool.and_eq_true, decide_eq_true_eq] at h
    rw [mapGet, if_neg (by omega), ih h.2 (by omega)]

theorem mapGet_mapErase {α : Type} {lo : Nat} (m : SMap α) (k : Nat) (h : keysRising lo m = true) :
    mapGet (mapErase m k) k = none := by
  induction m generalizing lo with
  | nil => rfl
  | cons c rest ih =>
    obtain ⟨a, y⟩ := c
    simp only [keysRising, Bool.and_eq_true, decide_eq_true_eq] at h
    rw [mapErase]
    split_ifs with h1
    · subst h1; exact mapGet_below rest h.2 (by omega)
    · rw [mapGet, if_neg h1, ih h.2]

theorem keysRising_mapSet {α : Type} {lo : Nat} (m : SMap α) (k : Nat) (x : α) (hk : lo ≤ k) (h : keysRising lo m = true) :
    keysRising lo (mapSet m k x) = true := by
  induction m generalizing lo with
  | nil => simp [mapSet, keysRising, hk]
  | cons c rest ih =>
    obtain ⟨a, y⟩ := c
    simp only [keysRising, Bool.and_eq_true, decide_eq_true_eq] at h
    simp only [mapSet]
    split_ifs with h1 h2
    · simp only [keysRising, Bool.and_eq_true, decide_eq_true_eq]; exact ⟨hk, by omega, h.2⟩
    · subst h2; simp only [keysRising, Bool.and_eq_true, decide_eq_true_eq]; exact h
    · simp only [keysRising, Bool.and_eq_true, decide_eq_true_eq]; exact ⟨h.1, ih (by omega) h.2⟩

theorem keysRising_mapErase {α : Type} {lo : Nat} (m : SMap α) (k : Nat) (h : keysRising lo m = true) :
    keysRising lo (mapErase m k) = true := by
  induction m generalizing lo with
  | nil => rfl
  | cons c rest ih =>
    obtain ⟨a, y⟩ := c
    simp only [keysRising, Bool.and_eq_true, decide_eq_true_eq] at h
    rw [mapErase]
    split_ifs with h1
    · exact keysRising_mono rest (by omega) h.2
    · simp only [keysRising, Bool.and_eq_true, decide_eq_true_eq]; exact ⟨h.1, ih h.2⟩

theorem mem_mapSet {α : Type} (m : SMap α) (k : Nat) (x : α) (c : Nat × α) (h : c ∈ mapSet m k x) : c = (k, x) ∨ c ∈ m := by
  induction m with
  | nil => exact .inl (List.mem_singleton.1 h)
  | cons d rest ih =>
    obtain ⟨a, y⟩ := d
    simp only [mapSet] at h
    split_ifs at h with h1 h2
    · exact List.mem_cons.1 h
    · exact (List.mem_cons.1 h).imp id (List.mem_cons_of_mem _)
    · rcases List.mem_cons.1 h with h | h
      · exact .inr (h ▸ List.mem_cons_self)
      · exact (ih h).imp id (List.mem_cons_of_mem _)

theorem mem_mapErase {α : Type} (m : SMap α) (k : Nat) (c : Nat × α) (h : c ∈ mapErase m k) : c ∈ m := by
  induction m with
  | nil => exact h
  | cons d rest ih =>
    obtain ⟨a, y⟩ := d
    rw [mapErase] at h
    split_ifs at h
    · exact List.mem_cons_of_mem _ h
    · exact (List.mem_cons.1 h).elim (fun e => e ▸ List.mem_cons_self) fun h => List.mem_cons_of_mem _ (ih h)

/-! ## The canonical form -/

theorem wf_nil : Memory.wf [] = true := rfl

theorem wf_rising {m : Memory} (h : m.wf = true) : keysRising 0 m = true := by
  rw [Memory.wf, Bool.and_eq_true] at h; exact h.1

theorem wf_memSet {m : Memory} (a : Nat) (x : Byte) (h : m.wf = true) : (memSet m a x).wf = true := by
  rw [Memory.wf, Bool.and_eq_true, List.all_eq_true] at *
  rw [memSet]
  split_ifs with hx
  · exact ⟨keysRising_mapErase m a h.1, fun c hc => h.2 c (mem_mapErase m a c hc)⟩
  · refine ⟨keysRising_mapSet m a x (Nat.zero_le a) h.1, fun c hc => ?_⟩
    rcases mem_mapSet m a x c hc with rfl | hc
    · simpa using hx
    · exact h.2 c hc

theorem wf_memPut {m : Memory} (cells : List Host.Cell) (h : m.wf = true) : (memPut m cells).wf = true := by
  induction cells generalizing m with
  | nil => exact h
  | cons c rest ih => exact ih (wf_memSet c.1 c.2 h)

theorem wf_memWrite {m : Memory} (a : Nat) (bs : List Byte) (h : m.wf = true) : (memWrite m a bs).wf = true := by
  induction bs generalizing m a with
  | nil => exact h
  | cons x xs ih => exact ih (a + 1) (wf_memSet a x h)

theorem wf_putMarked {v : Memory × SMap Mark} (c : Nat × Byte × Mark) (h : v.1.wf = true) : (putMarked v c).1.wf = true := by
  rw [putMarked]
  split_ifs
  · exact wf_memSet _ _ h
  · exact h

theorem wf_putMarkeds {v : Memory × SMap Mark} (cells : List (Nat × Byte × Mark)) (h : v.1.wf = true) :
    (cells.foldl putMarked v).1.wf = true := by
  induction cells generalizing v with
  | nil => exact h
  | cons c rest ih => exact ih (wf_putMarked c h)

/-! ## Reading after a write -/

theorem memGet_memSet {m : Memory} (a : Nat) (x : Byte) (h : m.wf = true) : memGet (memSet m a x) a = x := by
  rw [memSet]
  split_ifs with hx
  · rw [memGet, mapGet_mapErase m a (wf_rising h), hx]; rfl
  · rw [memGet, mapGet_mapSet]; rfl

theorem memGet_memSet_ne (m : Memory) {a b : Nat} (x : Byte) (h : b ≠ a) : memGet (memSet m a x) b = memGet m b := by
  rw [memSet]
  split_ifs
  · rw [memGet, mapGet_mapErase_ne m h, memGet]
  · rw [memGet, mapGet_mapSet_ne m x h, memGet]

theorem memGet_memPut_ne (m : Memory) {b : Nat} (cells : List Host.Cell) (h : ∀ c, c ∈ cells → c.1 ≠ b) :
    memGet (memPut m cells) b = memGet m b := by
  induction cells generalizing m with
  | nil => rfl
  | cons c rest ih =>
    show memGet (memPut (memSet m c.1 c.2) rest) b = _
    rw [ih _ fun d hd => h d (List.mem_cons_of_mem c hd), memGet_memSet_ne _ _ (Ne.symm (h c List.mem_cons_self))]

theorem memPut_append (m : Memory) (xs ys : List Host.Cell) : memPut m (xs ++ ys) = memPut (memPut m xs) ys := by
  induction xs generalizing m with
  | nil => rfl
  | cons c rest ih => exact ih (memSet m c.1 c.2)

theorem memGet_memWrite_ne (m : Memory) (a b : Nat) (bs : List Byte) (h : b < a ∨ a + bs.length ≤ b) :
    memGet (memWrite m a bs) b = memGet m b := by
  induction bs generalizing m a with
  | nil => rfl
  | cons x xs ih =>
    rw [List.length_cons] at h
    show memGet (memWrite (memSet m a x) (a + 1) xs) b = _
    rw [ih _ _ (by omega), memGet_memSet_ne _ _ (by omega)]

theorem memGet_memWrite {m : Memory} (a i : Nat) (bs : List Byte) (hm : m.wf = true) (hi : i < bs.length) :
    memGet (memWrite m a bs) (a + i) = bs.getD i 0 := by
  induction bs generalizing m a i with
  | nil => exact absurd hi (Nat.not_lt_zero i)
  | cons x xs ih =>
    show memGet (memWrite (memSet m a x) (a + 1) xs) (a + i) = _
    cases i with
    | zero => rw [memGet_memWrite_ne _ _ _ _ (by omega)]; exact memGet_memSet a x hm
    | succ j =>
      have := ih (a + 1) j (wf_memSet a x hm) (by simpa using hi)
      rw [show a + (j + 1) = a + 1 + j by omega, this]; rfl

theorem memGet_putMarkeds_ne (v : Memory × SMap Mark) {b : Nat} (cells : List (Nat × Byte × Mark)) (h : ∀ c, c ∈ cells → c.1 ≠ b) :
    memGet (cells.foldl putMarked v).1 b = memGet v.1 b := by
  induction cells generalizing v with
  | nil => rfl
  | cons c rest ih =>
    rw [List.foldl_cons, ih _ fun d hd => h d (List.mem_cons_of_mem c hd), putMarked]
    split_ifs
    · exact memGet_memSet_ne _ _ (Ne.symm (h c List.mem_cons_self))
    · rfl

/-! ## The operations that write the memory every package-wide access goes to -/

theorem modDie_mem (s : State) (d : Nat) (f : Die → Die) : (s.modDie d f).mem = s.mem := by
  unfold State.modDie; split <;> rfl

theorem modDie_marks (s : State) (d : Nat) (f : Die → Die) : (s.modDie d f).marks = s.marks := by
  unfold State.modDie; split <;> rfl

theorem mem_foldl {α : Type} (f : State → α → State) (hf : ∀ s x, (f s x).mem = s.mem) (s : State) (xs : List α) :
    (xs.foldl f s).mem = s.mem := by
  induction xs generalizing s with
  | nil => rfl
  | cons x rest ih => rw [List.foldl_cons, ih, hf]

/-- Counting the writes of a line moves counters, no byte. -/
theorem countLine_mem (s : State) (line : Nat) : (s.countLine line).mem = s.mem := by
  unfold State.countLine; split <;> rfl

theorem countLines_mem (s : State) (as : List Nat) : (s.countLines as).mem = s.mem :=
  mem_foldl _ countLine_mem s _

theorem wf_mscWrite {s : State} (cells : List (Nat × Byte × Mark)) (h : s.mem.wf = true) : (s.mscWrite cells).mem.wf = true := by
  unfold State.mscWrite
  rw [countLines_mem]
  exact wf_putMarkeds cells h

theorem wf_fwWrite {s : State} (cells : List Host.Cell) (h : s.mem.wf = true) : (s.fwWrite cells).mem.wf = true := by
  unfold State.fwWrite
  rw [countLines_mem]
  exact wf_putMarkeds _ h

theorem wf_performMarked {s : State} (d : Nat) (cells : List (Nat × Byte × Mark)) (h : s.mem.wf = true) :
    (s.performMarked d cells).mem.wf = true := by
  unfold State.performMarked
  exact wf_putMarkeds _ (by rw [modDie_mem]; exact h)

theorem wf_storeMain {s : State} (d : Nat) (cells : List Host.Cell) (h : s.mem.wf = true) : (s.storeMain d cells).mem.wf = true := by
  unfold State.storeMain
  rw [countLines_mem]
  exact wf_performMarked d _ h

theorem csmPut_mem (s : State) (k : Nat) (cells : List Host.Cell) : (s.csmPut k cells).mem = s.mem := by
  unfold State.csmPut
  refine mem_foldl _ (fun s c => ?_) s cells
  show (s.ensureCore _).mem = _
  unfold State.ensureCore; split <;> rfl

theorem putSpace_mem (s : State) (sp : Space) (cells : List Host.Cell) : (s.putSpace sp cells).mem = s.mem := by
  unfold State.putSpace
  split
  · rfl
  · rfl
  · exact csmPut_mem s _ cells
  · exact modDie_mem s _ _
  · rfl
  · rfl

/-! ## The entry a translation fills (R40) -/

theorem State.freeIndex_lt (s : State) : s.freeIndex < Config.almanacSize := by
  unfold State.freeIndex
  have h : ∀ i, i % Config.almanacSize < Config.almanacSize := fun i => Nat.mod_lt _ (by decide)
  simp only
  generalize hf : List.find? _ _ = o
  cases o with
  | none => exact h _
  | some i =>
    obtain ⟨j, -, rfl⟩ := List.mem_map.mp (List.mem_of_find?_eq_some hf)
    exact h _

theorem modPart_almanac (s : State) (p : Nat) (f : Partition → Partition) : (s.modPart p f).almanac = s.almanac := by
  unfold State.modPart; split <;> rfl

/-- The token that a translation gives names the entry it filled. -/
theorem State.fillEntry_entry (s : State) (part task va len : Nat) (rights : BitVec 2) (home : Option Nat) (gran : Nat)
    (mode : ProtMode) (frames : List Nat) :
    let x := s.fillEntry part task va len rights home gran mode frames
    let old := s.entry s.freeIndex
    x.2.entry x.1.index.toNat = ⟨.active, old.gen, part, va, len, rights, gran, mode, home, frames, task, s.seq, [], false,
      if old.owners.contains part then old.owners else old.owners ++ [part]⟩ := by
  have hi : (BitVec.ofNat 20 s.freeIndex).toNat = s.freeIndex := by
    rw [BitVec.toNat_ofNat]; exact Nat.mod_eq_of_lt s.freeIndex_lt
  show (mapGet (State.modPart _ part _).almanac (BitVec.ofNat 20 s.freeIndex).toNat).getD _ = _
  rw [modPart_almanac, hi]
  exact congrArg (Option.getD · freshEntry) (mapGet_mapSet _ _ _)

end Sys2Proof.Machine
end

