-- ==== Sys2Proof/Tests/Slice0.lean ====
section
/-! SUPPORT. Tests: ill-formed terms, words written out from the spec, single steps on small states, and a witness of the
hypotheses of each statement. -/

open Sys2Proof Sys2Proof.Machine

namespace Sys2Proof.Tests

/-! ## States to test on -/

/-- The state after reset, its core as f makes it. -/
def st (f : Core → Core) : State := State.reset.mod f

/-- The gate lets each instruction through. -/
def goes (is : List Instr) (s : State) : Bool := is.all fun i => gate i s == .go

/-- A core with a stack of 4 KiB at the bottom of the scratchpad, sp in its middle. -/
def stack (c : Core) : Core := ({ c with sbase := 0x1000 }).ws 31 0x800

/-- A core with a stack in the CSM window. -/
def stackCsm (c : Core) : Core := ({ c with sbase := 0x10001000 }).ws 31 0x10000800

/-- A token of partition 3: entry 0 at generation 1, 64 KiB from 0x10000 on. -/
def tok (rights : BitVec 2) : Token := ⟨0x10000, 0xFFFF, 0, 1, 3, rights⟩

/-- A core of partition 3, rank 0 of a crew of one, with a die-pool allotment of 1 MiB. -/
def mine (c : Core) : Core := { c with vtopo := 0x0301000000000000, task := 1, crew := 0x10000, ctx := .running }

/-- Its token frame cache holds the frame of that token, and k1 the token. -/
def cached (c : Core) : Core :=
  { mine c with tfc := [⟨0, 1, 1, true, 3, .clear⟩], k := (c.k.set 1 (tok 3)) }

/-- Entry 0 of the Almanac, live for partition 3 over frame 5. -/
def entry0 : AlmanacEntry := ⟨.active, 1, 3, 0x10000, 0x10000, 3, 16, .clear, none, [5], 1, 0, [], false, [3]⟩

/-- A state with that entry and that core. -/
def live (f : Core → Core) : State := { State.reset with almanac := [(0, entry0)], core := f (cached State.reset.core) }

/-! ## Well-formedness refuses each ill-formed term (09 R189-R203) -/

theorem test_illFormed_scalar : (List.all [Instr.mtl 0 3, .mfl 0 3, .mfc 0 24 0, .mtc 0 31 5, .mtc 0 15 1, .yield 0 0, .xlat 0 0 0 0,
    .kinfo 0 0 11] fun i => !i.wf) = true := by decide

theorem test_illFormed_memory : (List.all [Instr.ld 0 0 0 5 0 0 0, .ld 0 0 0 0 2 0 0, .ld 0 0 0 0 0 1 3, .st 0 0 0 5 0 0, .st 0 0 0 0 1 0,
    .lds 0 0 0 0 2 0, .lds 3 0 0 1 0 0, .sts 0 0 0 3 0, .amoAdd 0 0 0 0 0 5 0, .amoAnd 0 0 0 0 0 5 0, .amoOr 0 0 0 0 0 5 0,
    .amoXor 0 0 0 0 0 5 0, .amoMin 0 0 0 0 0 5 0, .amoMax 0 0 0 0 0 5 0, .amoMinu 0 0 0 0 0 5 0, .amoMaxu 0 0 0 0 0 5 0,
    .amoSwap 0 0 0 0 0 5 0, .amoCas 0 0 0 0 0 5 0, .amoAddt 0 0 0 0 0 5 0, .amoFadd 0 0 0 0 5 0, .waita 0 0 0 0 0 5]
    fun i => !i.wf) = true := by decide

theorem test_illFormed_vector : (List.all [Instr.vaddF32 0 0 0 0 5, .vsubF32 0 0 0 0 5, .vmulF32 0 0 0 0 5, .vfmaF32 0 0 0 0 0 5,
    .vcvtNarrow 0 0 0 0 0, .vcvtNarrow 0 0 8 0 0, .vcvtNarrow 0 0 1 0 5, .vcvtsNarrow 0 0 3 0 0, .vcvtsNarrow 0 0 1 0 5,
    .vcvtWiden 0 0 0 0, .vcvtWiden 0 0 8 0, .vcvtI32F32 0 0 0 5, .vcvtF32I32 0 0 0 5, .vsumRa 0 0 1, .vsumCa 0 0 3, .vmaxRa 0 0 3,
    .vmaxCa 0 0 3, .vminRa 0 0 3, .vminCa 0 0 3, .vcmp 0 0 0 0 6 0, .vcmp 0 0 0 0 0 3, .vqnt 0 0 0 2, .vqnt 0 0 0 10, .vqnt 0 0 1 3,
    .vdqnt 0 0 0 2, .vdqnt 0 0 1 7] fun i => !i.wf) = true := by decide

theorem test_illFormed_engine : (List.all [Instr.copyNd 0, .gather 7, .scatter 7, .collAr 3 0, .collAr 0 3, .collRs 3 0, .collRs 0 3,
    .collAg 3] fun i => !i.wf) = true := by decide

theorem test_illFormed_core : (List.all [Instr.svcTime 256, .svcLog 256, .svcLimit 256, .svcUnassigned 256, .stopResume 256, .liveDump 256,
    .samplecfgWrite ⟨64, 0⟩ 0, .samplecfgWrite ⟨0, 256⟩ 0, .debugRequest 256 0, .xlatFaultResolution 256 .deliver, .contextRestore 256 0, .remoteRequestLost 256 0,
    .tokenInvalidate 256 0, .tokenInvalidate 0 1048576, .sweepAck 256 0, .sweepAck 0 1048576, .sweepAbort 256 0, .sweepAbort 0 1048576,
    .jubileeSweep 1048576, .sweepFree 1048576, .sealKeyRotation 1048576, .scheduleStopArm [0, 256] 0, .preemptionRequest 32,
    .gangWithdraw 32, .barHeldArrival 32 0 0] fun i => !i.wf) = true := by decide

theorem test_illFormed_package : (List.all [Instr.telemetryLogDrain 64 0, .ringDrain 64 0, .dispatchRound 64, .partitionTeardown 64 0,
    .tasks 64 0 [], .tasks 0 64 [], .replay 64 0 [], .replay 0 64 [], .queueDestroy 64 0, .queueDestroy 0 64,
    .queueCreate 64 0 0 1 0, .queueCreate 0 64 0 1 0, .queueCreate 0 0 8 1 0, .queueCreate 0 0 0 0 0, .queueCreate 0 0 0 17 0,
    .arm 64 0 0 [] 0 0 false, .arm 0 0 64 [] 0 0 false, .disarm 64 0, .fire 64 [] [], .graphDefine 64 0 [],
    .graphDefine 0 256 [], .patch 64 0 0 ⟨[], []⟩, .patch 0 256 0 ⟨[], []⟩, .jobKeyGrant 64 0, .jobKeyWithdraw 64 ⟨0, false⟩,
    .pageMove 64 0 (.main 0), .pageMove 0 0 (.lent 512 0), .xlatFaultResolution 0 (.resolve [(0, .lent 512 0)] []),
    .collectiveGroupCreate 1 256 ⟨[], []⟩, .collectiveGroupCreate 1 0 ⟨[(512, 0)], []⟩,
    .collectiveGroupCreate 1 0 ⟨[(0, 256)], []⟩] fun i => !i.wf) = true := by decide

theorem test_illFormed_device : (List.all [Instr.exportedStoreApply 4 0, .exportedStoreApply 0 4, .exportedStoreApply 1 1, .thermalStop 4 0,
    .thermalTrip 4 0, .uncorrectableErrorReport 8 false, .axtosTrainingStart ⟨16, .tx⟩, .axtosTrainingDone ⟨16, .rx⟩ true,
    .axtosKeysInstalled ⟨16, .tx⟩, .flitReceive 16 0 ⟨0, 0⟩ true none, .linkRetry 16 0, .rekeyTimeout ⟨16, .rx⟩, .rekeyComplete ⟨16, .tx⟩,
    .lenderReclaim 512 0 0, .grantClose 512 0 0, .grantOpen 512 0 0, .reclaimCompletion 512 0 0, .remoteRetransmit 16 0 0,
    .remoteRetransmit 0 512 0, .cumulativeAcknowledgement 512 0 0 0, .cumulativeAcknowledgement 0 16 0 0,
    .cumulativeAcknowledgement 0 0 512 0, .remoteRequestArrival ⟨512, 0, 0, 0, none, 0, 4, .load⟩,
    .remoteRequestArrival ⟨0, 256, 0, 0, none, 0, 4, .load⟩, .remoteRequestArrival ⟨0, 0, 16, 0, none, 0, 4, .load⟩, .ptpLock ⟨128, 0⟩,
    .partitionCreate ⟨64, 0, .nonSecure, [], [], 0, 0, [], [], 0, 0, [], []⟩,
    .partitionCreate ⟨0, 0, .nonSecure, [], [], 0, 0, [], [], 0, 0, [⟨0, 16, 0, .clear, .lent 512 0⟩], []⟩,
    .potChange (Config.mainMemoryEnd / 65536) .nonSecure .free .clear] fun i => !i.wf) = true := by decide

/-- The bounds themselves are well-formed. -/
theorem test_wellFormed_bounds : (List.all [Instr.mtl 0 2, .mfc 0 23 0, .mtc 0 23 0, .mtc 0 16 1, .yield 1 0, .kinfo 0 0 10, .ld 0 0 0 4 1 0 3,
    .st 0 0 0 4 2 3, .vaddF32 0 0 0 0 4, .vcvtNarrow 0 0 7 0 4, .vcvtWiden 0 0 10 0, .vqnt 0 0 3 8, .vdqnt 0 0 0 3, .copyNd 1,
    .gather 6, .collAr 2 2, .sweepAck 255 1048575, .queueCreate 63 63 7 16 0, .exportedStoreApply 3 0] fun i => i.wf) = true := by decide

/-! ## Words written out from the encoding tables (09 R186-R203, and the worked words of 07, 10-13) -/

/-- 10 R213-R220: `movi`, `addi`, `slli`, `cmp.eq`, `lut3`, `fsl`. -/
theorem test_decode_scalar : decodeTableWord 32 0x0123408F = some (.movi 1 0x1234 0) ∧ decodeTableWord 32 0x00000020 = some (.addi 0 0 0) ∧
    decodeTableWord 32 0x00483220 = some (.slli 4 3 4) ∧ decodeTableWord 32 0x00004040 = some (.cmpEq 4 0) ∧
    decodeTableWord 32 0xB0C41343 = some (.lut3 6 1 2 3 0x96) ∧ decodeTableWord 32 0x00421230 = some (.fsl 4 1 1 1) := by decide

theorem test_decode_control : decodeTableWord 32 0x08001011 = some (.bz 1) ∧ decodeTableWord 32 0x00000201 = some (.ptg 0 1) ∧
    decodeTableWord 32 0x0060A021 = some (.loop 10 6) ∧ decodeTableWord 32 0x28445031 = some (.ctrSel 5 2) ∧
    decodeTableWord 32 0x0000010E = some (.yield 16 0) := by decide

theorem test_decode_memory : decodeTableWord 32 0x820C2209 = some (.ld 4 2 6 2 0 0 2) ∧ decodeTableWord 32 0xD2002099 = some (.st 1 2 0 2 2 3) ∧
    decodeTableWord 32 0x800005AD = some (.lds 2 11 0 0 0 0x400) ∧ decodeTableWord 32 0x013B123B = some (.amoAdd 0 4 2 6 7 2 0) ∧
    decodeTableWord 32 0x00C4112B = some (.xlat 2 1 2 3) := by decide

theorem test_decode_vector : decodeTableWord 32 0x100398C5 = some (.vcmp 1 3 7 0 4 0) ∧ decodeTableWord 32 0x00010985 = some (.vaddI32 3 1 2 0) ∧
    decodeTableWord 32 0x18080B35 = some (.vrotRa 6 1 1) ∧ decodeTableWord 32 0x3001A235 = some (.vext 4 4 3 0) ∧
    decodeTableWord 32 0x20080925 = some (.vcvtNarrow 2 1 1 0 1) ∧ decodeTableWord 32 0x04490965 = some (.vqnt 2 1 2 9) := by decide

theorem test_decode_engine : decodeTableWord 16 0x0202 = some (.ktok 2) ∧ decodeTableWord 16 0x010A = some (.sval 10) ∧
    decodeTableWord 16 0x4005 = some (.lit 5) ∧ decodeTableWord 16 0x0300 = some .atStamp ∧ decodeTableWord 16 0xD000 = some .copy1d ∧
    decodeTableWord 16 0xE000 = some .lrst ∧ decodeTableWord 16 0xE500 = some (.lcapO 0) := by decide

/-- 09 R200, R202: reserved words and fields are refused, not read as a neighbour. -/
theorem test_decode_reserved : decodeTableWord 32 0 = none ∧ decodeTableWord 32 0xE2002099 = none ∧ decodeTableWord 32 0x010C61BD = none ∧
    decodeTableWord 16 0x0800 = none ∧ decodeTableWord 16 0xD107 = none ∧ decodeTableWord 16 0x0210 = none := by decide


/-! ## One instruction on a small state, the result worked by hand from its rule -/

/-- What f reads after one instruction, if it answers a next state. -/
def after {α : Type} (i : Instr) (s : State) (f : State → α) : Option α :=
  match exec i s with
  | .next t => some (f t)
  | _ => none

/-- The state after reset with s1 = x and s2 = y. -/
def two (x y : Word) : State := st fun c => (c.ws 1 x).ws 2 y

/-- The scalar register s3 after an instruction on s1 and s2. -/
def s3 (i : Instr) (x y : Word) : Option Word := after i (two x y) fun t => t.core.rs 3

/-- BC after an instruction on s1 and s2. -/
def bc (i : Instr) (x y : Word) : Option Bool := after i (two x y) fun t => t.core.bc

/-- R213: results are modulo 2^64. -/
theorem test_add_wraps : s3 (.add 3 1 2) 0xFFFFFFFFFFFFFFFF 2 = some 1 := by decide
theorem test_sub_borrows : s3 (.sub 3 1 2) 3 5 = some 0xFFFFFFFFFFFFFFFE := by decide
theorem test_andn_second_inverted : s3 (.andn 3 1 2) 0xF0 0x30 = some 0xC0 := by decide
theorem test_sra_keeps_sign : s3 (.sra 3 1 2) 0x8000000000000000 4 = some 0xF800000000000000 := by decide
theorem test_sll_takes_six_bits : s3 (.sll 3 1 2) 1 65 = some 2 := by decide
theorem test_rol : s3 (.rol 3 1 2) 0x8000000000000001 1 = some 3 := by decide
theorem test_mulh_signed : s3 (.mulh 3 1 2) 0xFFFFFFFFFFFFFFFF 1 = some 0xFFFFFFFFFFFFFFFF := by decide
theorem test_mulhu_unsigned : s3 (.mulhu 3 1 2) 0xFFFFFFFFFFFFFFFF 2 = some 1 := by decide
/-- R214: toward zero, the remainder with the sign of the dividend. -/
theorem test_div_toward_zero : s3 (.div 3 1 2) 0xFFFFFFFFFFFFFFF9 2 = some 0xFFFFFFFFFFFFFFFD := by decide
theorem test_rem_sign : s3 (.rem 3 1 2) 0xFFFFFFFFFFFFFFF9 2 = some 0xFFFFFFFFFFFFFFFF := by decide
theorem test_div_by_zero : s3 (.div 3 1 2) 7 0 = some 0xFFFFFFFFFFFFFFFF := by decide
theorem test_rem_by_zero : s3 (.rem 3 1 2) 7 0 = some 7 := by decide
theorem test_div_overflow : s3 (.div 3 1 2) 0x8000000000000000 0xFFFFFFFFFFFFFFFF = some 0x8000000000000000 := by decide
theorem test_min_signed : s3 (.min 3 1 2) 0xFFFFFFFFFFFFFFFF 1 = some 0xFFFFFFFFFFFFFFFF := by decide
theorem test_minu_unsigned : s3 (.minu 3 1 2) 0xFFFFFFFFFFFFFFFF 1 = some 1 := by decide
theorem test_clz_of_zero : s3 (.clz 3 1) 0 0 = some 64 := by decide +kernel
theorem test_ctz : s3 (.ctz 3 1) 0x50 0 = some 4 := by decide +kernel
theorem test_bswap : s3 (.bswap 3 1) 0x0102030405060708 0 = some 0x0807060504030201 := by decide
theorem test_brev : s3 (.brev 3 1) 1 0 = some 0x8000000000000000 := by decide +kernel
theorem test_fsl : s3 (.fsl 3 1 2 8) 0x1122334455667788 0x99AABBCCDDEEFF00 = some 0x2233445566778899 := by decide
theorem test_fsr : s3 (.fsr 3 1 2 8) 0x1122334455667788 0x99AABBCCDDEEFF00 = some 0x8899AABBCCDDEEFF := by decide
/-- R218: 0x96 is the parity of three bits. -/
theorem test_lut3_parity : s3 (.lut3 3 1 2 0 0x96) 0xC 0xA = some 6 := by decide +kernel
/-- 09 R208: `movi s7, 0x00800080` is 0x10001 shifted by 7. -/
theorem test_movi : s3 (.movi 3 0x10001 7) 0 0 = some 0x00800080 := by decide
theorem test_addi_sign : s3 (.addi 3 1 0xFFF) 5 0 = some 4 := by decide
theorem test_ori_zero_extends : s3 (.ori 3 1 0xFFF) 0 0 = some 0xFFF := by decide
theorem test_rori : s3 (.rori 3 1 4) 0xF 0 = some 0xF000000000000000 := by decide
/-- R185: `s0` discards a write. -/
theorem test_s0_discards : after (.add 0 1 2) (two 1 2) (fun t => t.core.rs 0) = some 0 := by decide
theorem test_cmp_signed : bc (.cmpLt 1 2) 0xFFFFFFFFFFFFFFFF 0 = some true := by decide
theorem test_cmp_unsigned : bc (.cmpLtu 1 2) 0xFFFFFFFFFFFFFFFF 0 = some false := by decide
theorem test_cmpi_sign : bc (.cmpiEq 1 0xFFF) 0xFFFFFFFFFFFFFFFF 0 = some true := by decide

/-- R221: `ptg` adds four times its offset to the address of the instruction. -/
theorem test_ptg_back : after (.ptg 1 0x7FFFFF) (st fun c => { c with pc := 0x100 }) (fun t => t.core.rb 1) = some 0xFC := by decide
/-- R222: a taken branch opens two delay slots; one not taken opens them too. -/
theorem test_br_taken : after (.br 0) (st fun c => { c with bc := true, b := c.b.set 0 0x40 })
    (fun t => (t.core.pc, t.core.slots.map fun x => (x.left, x.target))) = some (4, some (2, some 0x40)) := by decide
theorem test_br_passed : after (.br 0) (st fun c => { c with b := c.b.set 0 0x40 })
    (fun t => t.core.slots.map fun x => (x.left, x.target)) = some (some (2, none)) := by decide
/-- R155: a count of 0 passes over the body. -/
theorem test_loop_zero : after (.loop 1 2) (two 0 0) (fun t => (t.core.pc, t.core.lc, t.core.le)) = some (16, 0, 12) := by decide
theorem test_loop_opens : after (.loop 1 2) (two 3 0) (fun t => (t.core.pc, t.core.lc, t.core.ls, t.core.le)) = some (4, 3, 4, 12) := by
  decide
/-- R157: a write to ls is held while a loop is active. -/
theorem test_mtl_held : after (.mtl 1 1) (st fun c => { c.ws 1 0x23 with lc := 2, le := 0x100 }) (fun t => (t.core.ls, t.core.heldLs))
    = some (0, some 0x20) := by decide
/-- R154: `call` pushes the address past its delay slots. -/
theorem test_call : after (.call 0) (st fun c => { stack c with pc := 0x40 })
    (fun t => (t.core.rs 31, t.core.timed.map fun w => (w.expose, w.cells.head?))) = some (0x7F8, [(4, some (0x7F8, 0x4C))]) := by decide
/-- R153: below SLIMIT it traps STACK with sp. -/
theorem test_call_stack_trap : after (.call 0) (st fun c => { stack c with tvec := 0x80, slimit := 0x800 })
    (fun t => (t.core.trapCause, t.core.trapVal, t.core.pc)) = some (4, 0x800, 0x80) := by decide
/-- R229: `trap` resumes after itself. -/
theorem test_trap : after (.trap 5) (st fun c => { c with tvec := 0x80, pc := 0x20 })
    (fun t => (t.core.trapCause, t.core.trapVal, t.core.trapPc, t.core.pc, t.core.inh)) = some (8, 5, 0x24, 0x80, true) := by decide
/-- R231: `eret` goes back, into the delay slots that were left. -/
theorem test_eret : after .eret (st fun c => { c with inh := true, trapPc := 0x30, trapTgt := 0x90, dsField := 1 })
    (fun t => (t.core.pc, t.core.inh, t.core.slots.map fun x => (x.left, x.target))) = some (0x30, false, some (1, some 0x90)) := by decide
/-- R223: a branch in a delay slot traps ILLEGAL. -/
theorem test_branch_in_slot : after (.br 0) (st fun c => { c with tvec := 0x80, slots := some ⟨1, some 0x40, 0⟩ })
    (fun t => (t.core.trapCause, t.core.dsField, t.core.trapTgt)) = some (1, 1, 0x40) := by decide
/-- R200: a reserved word traps ILLEGAL with the word. -/
theorem test_reserved : after (.reservedEncoding 0) (st fun c => { c with tvec := 0x80, pc := 8 })
    (fun t => (t.core.trapCause, t.core.trapVal, t.core.trapPc)) = some (1, 0, 8) := by decide
/-- R235: STATUS, OOB in bit 0, DS in bits 4:3. -/
theorem test_mfc_status : after (.mfc 3 0 0) (st fun c => { c with oob := true, inh := true, dsField := 2 }) (fun t => t.core.rs 3)
    = some 0x15 := by decide
theorem test_mtc_tvec : after (.mtc 1 4 0) (two 0x87 0) (fun t => t.core.tvec) = some 0x84 := by decide
/-- R401: a write that changes a field clears the counter. -/
theorem test_ctrSel_clears : after (.ctrSel 1 2) (st fun c => { c.ws 1 0x8002 with ctrval := c.ctrval.set 2 7 })
    (fun t => (t.core.ctrsel[2], t.core.ctrval[2])) = some (0x8002, 0) := by decide

/-- R245: a byte load with sign extension. -/
theorem test_lds_sign : after (.lds 0 3 1 1 0 0) (st fun c => { c.ws 1 0x100 with scr := [(0x100, 0x80)] }) (fun t => t.core.rs 3)
    = some 0xFFFFFFFFFFFFFF80 := by decide
/-- R68: a store is exposed four cycles after its issue. -/
theorem test_sts_exposure : after (.sts 2 2 1 0 1) (two 0x100 0xAABBCCDD)
    (fun t => t.core.timed.map fun w => (w.expose, w.cells)) = some [(4, [(0x104, 0xDD), (0x105, 0xCC), (0x106, 0xBB), (0x107, 0xAA)])] := by
  decide
/-- R22: past the end of the scratchpad it traps LADDR with the address. -/
theorem test_lds_laddr : after (.lds 3 3 1 0 0 0) (st fun c => { c.ws 1 0x2FFFFC with tvec := 0x80 })
    (fun t => (t.core.trapCause, t.core.trapVal)) = some (2, 0x2FFFFC) := by decide
/-- R52: an access past the extent is null and counts. -/
theorem test_ld_out_of_extent : after (.ld 3 1 1 0 0 0 2) (live fun c => (c.ws 1 0xFFFE).ws 3 9)
    (fun t => (t.core.rs 3, t.core.oobcnt, t.core.oob, t.core.acc)) = some (0, 1, true, []) := by decide
/-- R123: an atomic that is not aligned traps ALIGN. -/
theorem test_amo_align : after (.amoAdd 1 3 1 1 2 0 0) (live fun c => { c.ws 1 4 with tvec := 0x80 })
    (fun t => (t.core.trapCause, t.core.trapVal)) = some (3, 0x10004) := by decide
/-- R47: a narrowed token. -/
theorem test_ksub : after (.ksub 2 1 1 2) (live fun c => (c.ws 1 0x100).ws 2 0x10)
    (fun t => ((t.core.rk 2).vbase, (t.core.rk 2).lenm1)) = some (0x10100, 0xF) := by decide
theorem test_kinfo_home_stale : after (.kinfo 3 1 7) (live fun c => { c with tfc := [⟨0, 1, 1, false, 3, .clear⟩] }) (fun t => t.core.rs 3)
    = some 1 := by decide

/-- R264: only guarded elements are written. -/
theorem test_vadd_guard : after (.vaddI32 3 1 2 1) (st fun c => { c with
      v := (c.v.set 1 (Vector.replicate 1024 0xFFFFFFFF)).set 2 (Vector.replicate 1024 3), p := c.p.set 1 1 })
    (fun t => ((t.core.rv 3).get 0 0, (t.core.rv 3).get 0 1)) = some (2, 0) := by decide +kernel
/-- R269: saturation at the greatest signed number. -/
theorem test_vadds_saturates : after (.vaddsI32 3 1 2 0) (st fun c => { c with
      v := (c.v.set 1 (Vector.replicate 1024 0x7FFFFFFF)).set 2 (Vector.replicate 1024 1) })
    (fun t => (t.core.rv 3).get 15 63) = some 0x7FFFFFFF := by decide +kernel
/-- R271: 1.0 + 2^-24 is a tie and rounds to even. -/
theorem test_vadd_f32_tie : after (.vaddF32 3 1 2 0 0) (st fun c => { c with
      v := (c.v.set 1 (Vector.replicate 1024 0x3F800000)).set 2 (Vector.replicate 1024 0x33800000) })
    (fun t => (t.core.rv 3).get 0 0) = some 0x3F800000 := by decide +kernel
/-- R278: element c of a row takes element c + n of it. -/
theorem test_vrot : after (.vrotRa 3 1 1) (st fun c => { c with v := c.v.set 1 ((Vector.replicate 1024 0).set 0 7) })
    (fun t => ((t.core.rv 3).get 0 63, (t.core.rv 3).get 0 0)) = some (7, 0) := by decide +kernel
/-- R280: a NaN is unequal to itself. -/
theorem test_nan_unequal : (f32 0x7FC00000).same (f32 0x7FC00000) = false := by decide
theorem test_pnot : after (.pnot 2 0) State.reset (fun t => t.core.rp 2) = some 0 := by decide +kernel

/-- R259: the lowest tag of the mask, its TAGREV bit as bit 8. -/
theorem test_tagFfr : after (.tagFfr 3 1) (st fun c => { c.ws 1 0xFF0 with tags := 0x120, tagrev := 0x20 })
    (fun t => (t.core.rs 3, t.core.bc)) = some (0x105, true) := by decide
/-- R257: a wait for a tag that is not set stalls. -/
theorem test_tagWany_stalls : after (.tagWany 1) (st fun c => { c.ws 1 1 with tags := 2 }) (fun t => (t.core.pc, t.core.stall)) = some (0, 9) := by
  decide
/-- R292: a packet captures the register that its `sval` names. -/
theorem test_enqM : after (.enqM 1) (st fun c => (c.ws 1 0x010A).ws 10 77)
    (fun t => t.core.matrix.queue.map fun p => p.items.map fun w => w.cap) = some [[some (Entry.int 77), none, none, none]] := by decide
/-- R205: `lit` pushes, the ninth entry halts the engine with subcode 2. -/
theorem test_lit : after (.lit 5) (st fun c => { c with matrix := { c.matrix with hand := [⟨0x4005, none, ⟨0, 0, [], []⟩⟩] } })
    (fun t => (t.core.matrix.stack, t.core.matrix.widx)) = some ([.int 5], 1) := by decide
theorem test_lit_ninth : after (.lit 5) (st fun c => { c with matrix := { c.matrix with
      hand := [⟨0x4005, none, ⟨0, 0, [], []⟩⟩], stack := List.replicate 8 (.int 0) } })
    (fun t => (t.core.matrix.stack, t.core.matrix.report.map fun r => (r.schedmiss, r.sub))) = some ([], some (false, 2)) := by decide
/-- R144: the arrival of a member sets its bit of ARRMASK. -/
theorem test_barArrive : after (.barArrive 3 0) { State.reset with clusters := [(0, ⟨Vector.replicate 32 (Barrier.initial 3), none, none, []⟩)] }
    (fun t => (t.core.rs 3, (t.cluster 0).bars[0].arr)) = some (0, 1) := by decide

/-- R211: the word at pc is fetched, decoded and run: `movi` of 0x1234 into s1. -/
theorem test_step_movi : (match step (State.reset.withFetchWord 32 0x0123408F) with
    | .next t => some (t.core.rs 1, t.core.pc)
    | _ => none) = some (0x1234, 4) := by decide
/-- R204: an engine word is taken from its packet: `lit` of 5. -/
theorem test_step_lit : (match step (State.reset.withFetchWord 16 0x4005) with
    | .next t => some t.core.matrix.stack
    | _ => none) = some [.int 5] := by decide


/-! ## Witnesses: for each statement, states and operands that meet all its hypotheses together, clause by clause -/

theorem witness_decodeOfEncode : (∃ i w, Instr.wf i = true ∧ encodeWord i = some w) ∧
    ∃ i w, Instr.wf i = true ∧ encodeEngineWord i = some w :=
  ⟨⟨.movi 1 0x1234 0, 0x0123408F, by decide⟩, ⟨.ktok 2, 0x0202, by decide⟩⟩

theorem witness_wordHasOneMeaning : (∃ w i, decodeWord w = .ok i) ∧ ∃ w i, decodeEngineWord w = .ok i :=
  ⟨⟨0x00483220, .slli 4 3 4, by decide⟩, ⟨0x4005, .lit 5, by decide⟩⟩

/-- A state whose strand turn has come, with `movi` at pc. -/
def turn : State := State.reset.withFetchWord 32 0x0123408F

/-- Its strand has a turn: what the statement asks of every clause. -/
def hasTurn (s : State) : Bool :=
  s.phase == 6 && s.core.ctx == .running && !s.core.acted && s.core.rowReads.isEmpty && s.core.late.all (fun x => s.now < x.cycle)
    && decide (s.core.nextIssue ≤ s.now) && s.core.nextReport s.now == none

/-- The row that the fetch finds at pc, as it stands. -/
def rowAtPc (s : State) : FetchRow := ⟨0, s.core.scrRead s.now 0 64, s.now, 0⟩

theorem witness_stepRunsStrandWord :
    (∃ s : State, hasTurn s = true ∧ s.core.cur = some (.add 1 2 3)) ∧
    (∃ (s : State) (x : FetchRow), hasTurn s = true ∧ s.core.cur = none ∧ s.core.pc.toNat < 0x300000 ∧
      decodeWord (s.core.fetchWord s.now) = .ok (.movi 1 0x1234 0) ∧
      (s.core.afterJump.rows.find? fun x => x.addr == lineOf s.core.pc.toNat) = some x ∧ x.lost = 0 ∧
      s.core.rowWord x = s.core.fetchWord s.now) ∧
    (∃ s : State, hasTurn s = true ∧ s.core.cur = none ∧ s.core.pc.toNat < 0x300000 ∧
      decodeWord (s.core.fetchWord s.now) = .ok (.movi 1 0x1234 0) ∧
      (s.core.afterJump.rows.find? fun x => x.addr == lineOf s.core.pc.toNat) = none ∧
      s.core.portLost s.now (lineOf s.core.pc.toNat) 64 = false) :=
  ⟨⟨turn.mod fun c => { c with cur := some (.add 1 2 3) }, by decide⟩,
   ⟨turn.mod fun c => { c with rows := [rowAtPc turn] }, rowAtPc turn, by decide⟩,
   ⟨turn.mod fun c => { c with rows := [] }, by decide⟩⟩

theorem witness_stepRunsEngineWord : ∃ s : State, s.phase = 4 ∧ s.core.clocked = true ∧
    (s.core.eng s.turnEng).canTake s.now = true ∧ decodeEngineWord (s.withPacket.core.eng s.turnEng).word = .ok (.lit 5) :=
  ⟨State.reset.withFetchWord 16 0x4005, by decide⟩

theorem witness_scalarTwoOperands : goes [.add 1 2 3, .sub 1 2 3, .and 1 2 3, .or 1 2 3, .xor 1 2 3, .andn 1 2 3, .orn 1 2 3, .xnor 1 2 3,
    .sll 1 2 3, .srl 1 2 3, .sra 1 2 3, .rol 1 2 3, .ror 1 2 3, .mul 1 2 3, .mulh 1 2 3, .mulhu 1 2 3, .min 1 2 3, .max 1 2 3,
    .minu 1 2 3, .maxu 1 2 3, .sel 1 2 3, .fsl 1 2 3 63, .fsr 1 2 3 0, .add 0 0 0] State.reset = true := by decide

theorem witness_division : goes [.div 1 2 3, .rem 1 2 3, .divu 1 2 3, .remu 1 2 3] State.reset = true ∧
    (∃ s : State, s.core.rs 3 = 0) ∧ (∃ s : State, s.core.rs 2 = BitVec.intMin 64 ∧ s.core.rs 3 = BitVec.allOnes 64) ∧
    ∃ s : State, s.core.rs 3 ≠ 0 :=
  ⟨by decide, ⟨State.reset, by decide⟩,
   ⟨st fun c => (c.ws 2 0x8000000000000000).ws 3 0xFFFFFFFFFFFFFFFF, by decide⟩, ⟨st fun c => c.ws 3 1, by decide⟩⟩

theorem witness_scalarBits : goes [.clz 1 2, .ctz 1 2, .popc 1 2, .bswap 1 2, .brev 1 2] State.reset = true := by decide

theorem witness_scalarImmediates : goes [.addi 1 2 3, .andi 1 2 3, .ori 1 2 3, .xori 1 2 3, .slli 1 2 63, .srli 1 2 0, .srai 1 2 3,
    .rori 1 2 3, .movi 1 2 47, .mfbc 1, .mfb 1 3, .lut3 1 2 3 4 255] State.reset = true := by decide

theorem witness_branchCondition : goes [.cmpEq 1 2, .cmpNe 1 2, .cmpLt 1 2, .cmpGe 1 2, .cmpLtu 1 2, .cmpGeu 1 2, .tst 1 2, .cmpiEq 1 2,
    .cmpiNe 1 2, .cmpiLt 1 2, .cmpiGe 1 2, .cmpiLtu 1 2, .cmpiGeu 1 2, .tsti 1 2, .mtbc 1, .vany 0, .vall 7] State.reset = true := by
  decide

theorem witness_pathOfControl :
    let loopEnd (c : Core) : Prop := c.lc ≠ 0 ∧ c.pc.setWidth 64 = c.le ∧ ∀ n t e, c.slots ≠ some ⟨n, some t, e⟩
    (∃ c, loopEnd c ∧ c.lc = 2) ∧ (∃ c, loopEnd c ∧ c.lc = 1) ∧
    (∃ c, ¬loopEnd c ∧ ∀ t e, c.slots ≠ some ⟨1, some t, e⟩) ∧ (∃ c : Core, c.slots = some ⟨1, some 8, 0⟩) ∧
    (∃ c : Core, c.slots = some ⟨2, some 8, 0⟩) ∧ ∃ c : Core, c.slots = some ⟨1, none, 0⟩ :=
  let c := State.reset.core
  ⟨⟨{ c with lc := 2 }, ⟨by decide, by decide, fun _ _ _ h => by cases h⟩, by decide⟩,
   ⟨{ c with lc := 1 }, ⟨by decide, by decide, fun _ _ _ h => by cases h⟩, by decide⟩,
   ⟨c, fun h => h.1 rfl, fun _ _ h => by cases h⟩, ⟨{ c with slots := some ⟨1, some 8, 0⟩ }, rfl⟩,
   ⟨{ c with slots := some ⟨2, some 8, 0⟩ }, rfl⟩, ⟨{ c with slots := some ⟨1, none, 0⟩ }, rfl⟩⟩

theorem witness_conditionalBranches : goes [.br 0, .bz 3] State.reset = true := by decide

theorem witness_transferRegisters : goes [.ptg 0 1, .ptr 0 1] State.reset = true ∧
    (∃ s : State, s.core.local? (s.core.rs 31 - 8) 8 true = some .scratch ∧ goes [.call 0] s = true) ∧
    (∃ s : State, s.core.local? (s.core.rs 31 - 8) 8 true = some .csm ∧ goes [.call 0] s = true) ∧
    (∃ s bs, PopReads s 8 bs false ∧ regionOf s.core.poolMb (s.core.rs 31).toNat = some .scratch ∧ goes [.ret 0] s = true) ∧
    (∃ (s : State) (bs : List Byte), PopReads s 8 bs false ∧ s.core.waiting = .got bs false ∧ goes [.ret 0] s = true) ∧
    (∃ (s : State) (bs : List Byte), PopReads s 8 bs true ∧ goes [.ret 0] s = true) ∧
    (∃ s : State, let sp := s.core.rs 31
      s.core.cur = some (.ret 0) ∧ s.core.waiting = .until 0 ∧ regionOf s.core.poolMb sp.toNat = some .csm ∧
      (let x := s.core.spaceOf .csm sp.toNat; s.rangeFree x.1 (rowRanges 4 x.2 8)) = true) ∧
    ∃ s : State, regionOf s.core.poolMb (s.core.rs 31).toNat = some .csm ∧ s.core.waiting = .none ∧ goes [.ret 0] s = true :=
  ⟨by decide, ⟨st stack, by decide⟩, ⟨st stackCsm, by decide⟩,
   ⟨st stack, _, .inl ⟨by decide, rfl, rfl⟩, by decide, by decide⟩,
   ⟨st fun c => { stackCsm c with waiting := .got [1, 2] false }, _, .inr ⟨.csm, by decide, by decide, rfl⟩, rfl, by decide⟩,
   ⟨st fun c => { stackCsm c with waiting := .got [1, 2] true }, _, .inr ⟨.csm, by decide, by decide, rfl⟩, by decide⟩,
   ⟨st fun c => { stackCsm c with cur := some (.ret 0), waiting := .until 0 }, by decide⟩, ⟨st stackCsm, by decide⟩⟩

theorem witness_loops : goes [.loop 1 0, .mfl 1 0, .mfl 1 1, .mfl 1 2, .mtl 1 0, .mtl 1 1, .mtl 1 2] (st fun c => c.ws 1 3) = true ∧
    goes [.loop 1 0, .mtl 1 0] State.reset = true ∧ goes [.mtl 1 1, .mtl 1 2] (st fun c => { c with lc := 5 }) = true ∧
    (∃ s : State, s.core.local? (s.core.rs 31 - 24) 24 true = some .scratch ∧ goes [.loopPush] s = true) ∧
    (∃ s bs, PopReads s 24 bs false ∧ regionOf s.core.poolMb (s.core.rs 31).toNat = some .scratch ∧ goes [.loopPop] s = true) ∧
    (∃ s bs, PopReads s 24 bs false ∧ regionOf s.core.poolMb (s.core.rs 31).toNat = some .csm ∧ goes [.loopPop] s = true) ∧
    (∃ s bs, PopReads s 24 bs true ∧ goes [.loopPop] s = true) ∧
    (∃ s : State, let sp := s.core.rs 31
      s.core.cur = some .loopPop ∧ s.core.waiting = .until 0 ∧ regionOf s.core.poolMb sp.toNat = some .csm ∧
      (let x := s.core.spaceOf .csm sp.toNat; s.rangeFree x.1 (rowRanges 4 x.2 24)) = true) ∧
    ∃ s : State, regionOf s.core.poolMb (s.core.rs 31).toNat = some .csm ∧ s.core.waiting = .none ∧ goes [.loopPop] s = true :=
  ⟨by decide, by decide, by decide, ⟨st stack, by decide⟩, ⟨st stack, _, .inl ⟨by decide, rfl, rfl⟩, by decide, by decide⟩,
   ⟨st fun c => { stackCsm c with waiting := .got [1] false }, _, .inr ⟨.csm, by decide, by decide, rfl⟩, by decide, by decide⟩,
   ⟨st fun c => { stackCsm c with waiting := .got [1] true }, _, .inr ⟨.csm, by decide, by decide, rfl⟩, by decide⟩,
   ⟨st fun c => { stackCsm c with cur := some .loopPop, waiting := .until 0 }, by decide⟩, ⟨st stackCsm, by decide⟩⟩


/-- An outstanding store of the strand to main memory. -/
def store0 : Access :=
  ⟨0, .store, .main, [], [], [[(0x50000, 1)]], 1, 0, 2, some 0, 0x10000, 0, 1, .waiting, false, false, none, (none, none), none, none, none⟩

/-- Nothing of the gate up to the interlocks stops an instruction. -/
def issues (i : Instr) (s : State) : Bool :=
  isStrand i && !s.core.waiting.committed && !s.core.misplaced i && !(s.core.vigil == 0) && (s.core.regStall s.now i).isNone

/-- Nor a trap of its address. -/
def addressed (i : Instr) (s : State) : Bool :=
  issues i s && (s.core.alignTrap i).isNone && (s.core.laddrTrap i).isNone

/-- Nor a stall of memory, nor a miss. -/
def reaches (i : Instr) (s : State) : Bool :=
  addressed i s && (s.memStall i).isNone && (s.tokenMiss i).isNone

/-- A report that a register of number 1 owes. -/
def owed1 : PoisonReport := ⟨0, false, 4, 1, 0x10000, none⟩

theorem witness_issueOrder :
    (isStrand .eret = true ∧ State.reset.core.waiting.committed = false ∧ State.reset.core.misplaced .eret = true) ∧
    (∃ s : State, s.core.waiting.committed = false ∧ s.core.misplaced .sync = false ∧ s.core.vigil = 0 ∧ vigilExempt .sync = false) ∧
    (∃ s : State, s.core.waiting.committed = false ∧ s.core.misplaced (.add 1 2 3) = false ∧ s.core.vigil ≠ 0 ∧
      s.core.regStall s.now (.add 1 2 3) = some 1) ∧
    (∃ s : State, s.core.waiting.committed = false ∧ s.core.misplaced (.cmpt 0 1 0) = false ∧ s.core.vigil ≠ 0 ∧
      s.core.regStall s.now (.cmpt 0 1 0) = some 16 ∧ s.memStall (.cmpt 0 1 0) = some 1) ∧
    (∃ s : State, s.core.waiting.committed = false ∧ s.core.misplaced (.cmpt 0 1 0) = false ∧ s.core.vigil ≠ 0 ∧
      s.core.regStall s.now (.cmpt 0 1 0) = some 16 ∧ s.memStall (.cmpt 0 1 0) = none) ∧
    (∃ s, issues (.call 0) s = true ∧ s.core.alignTrap (.call 0) = some (4, 0)) ∧
    (∃ s, issues (.lds 0 1 2 0 0 0) s = true ∧ s.core.alignTrap (.lds 0 1 2 0 0 0) = none ∧
      s.core.laddrTrap (.lds 0 1 2 0 0 0) = some 0x300000) ∧
    (∃ s, addressed (.fmtq 1) s = true ∧ s.memStall (.fmtq 1) = some 7) ∧
    (∃ s, addressed (.ld 3 1 0 0 0 0 0) s = true ∧ s.memStall (.ld 3 1 0 0 0 0 0) = none ∧
      s.tokenMiss (.ld 3 1 0 0 0 0 0) = some (tok 3, 0)) ∧
    (∃ s, reaches (.lds 0 1 0 0 0 0) s = true ∧ s.core.pendingTrap s.now (.lds 0 1 0 0 0 0) = some 0) ∧
    (∃ s, reaches (.add 1 1 1) s = true ∧ s.core.pendingTrap s.now (.add 1 1 1) = none ∧ s.core.duePoison (.add 1 1 1) = some owed1) ∧
    (∃ s, reaches (.add 1 1 1) s = true ∧ s.core.pendingTrap s.now (.add 1 1 1) = none ∧ s.core.duePoison (.add 1 1 1) = none) ∧
    ∃ s, reaches (.xlat 1 1 1 1) s = true ∧ s.core.pendingTrap s.now (.xlat 1 1 1 1) = none ∧
      s.core.duePoison (.xlat 1 1 1 1) = some owed1 :=
  ⟨by decide, ⟨st fun c => { c with vigil := 0 }, by decide⟩, ⟨st fun c => { c with ready := [(.s 2, 9)] }, by decide⟩,
   ⟨st fun c => { c with quantDone := 9, acc := [{ store0 with ord := 1 }] }, by decide⟩, ⟨st fun c => { c with quantDone := 9 }, by decide⟩,
   ⟨State.reset, by decide⟩, ⟨st fun c => c.ws 2 0x300000, by decide⟩, ⟨st fun c => { c with fq := List.replicate 16 0 }, by decide⟩,
   ⟨live fun c => { c with tfc := [] }, by decide⟩,
   ⟨st fun c => { c with dbgcfg := 1, timed := [⟨3, false, [(0, 7)], true⟩] }, by decide⟩,
   ⟨st fun c => { c with marks := [(.s 1, owed1)] }, by decide⟩, ⟨State.reset, by decide⟩,
   ⟨st fun c => { c with marks := [(.s 1, owed1)] }, by decide⟩⟩

theorem witness_misplacedTraps :
    (∃ s : State, s.core.waiting.committed = false ∧ s.core.slots ≠ none) ∧
    (∃ s : State, s.core.waiting.committed = false ∧ s.core.lc ≠ 0 ∧ s.core.pc.setWidth 64 = s.core.le) ∧
    (∃ s : State, s.core.waiting.committed = false ∧ s.core.lc ≠ 0 ∧ s.core.pc.setWidth 64 = s.core.le - 4) ∧
    (∃ s : State, s.core.waiting.committed = false ∧ s.core.inh = false) ∧
    ∃ s : State, s.core.waiting.committed = false ∧ s.core.inh = true :=
  ⟨⟨st fun c => { c with slots := some ⟨1, none, 0⟩ }, by decide⟩, ⟨st fun c => { c with lc := 1 }, by decide⟩,
   ⟨st fun c => { c with lc := 1, le := 4 }, by decide⟩, ⟨State.reset, by decide⟩, ⟨st fun c => { c with inh := true }, by decide⟩⟩

/-- Each bound of each address trap: one past the region, above bit 31, across two regions, the weight buffer; sp unaligned, below
SLIMIT, above SBASE; an address one off its size. -/
theorem witness_addressTraps :
    (∃ s, issues (.lds 0 1 2 0 0 0) s = true ∧ regionOf s.core.poolMb 0x300000 = none ∧ s.core.rs 2 = 0x300000) ∧
    (∃ s, issues (.lds 0 1 2 0 0 0) s = true ∧ s.core.rs 2 = 0x100000000) ∧
    (∃ s, issues (.lds 3 1 2 0 0 0) s = true ∧ s.core.rs 2 = 0x2FFFF9 ∧ regionOf s.core.poolMb 0x300000 ≠ some .scratch) ∧
    (∃ s, issues (.sts 0 1 2 0 0) s = true ∧ s.core.rs 2 = 0x30000000 ∧ regionOf s.core.poolMb 0x30000000 = some .weight) ∧
    (∃ s, issues (.sts 3 1 2 0 0) s = true ∧ s.core.rs 2 = 0x107FFFF9) ∧
    (∃ s, issues (.call 0) s = true ∧ (s.core.rs 31).toNat % 8 = 4) ∧
    (∃ s, issues (.call 0) s = true ∧ (s.core.rs 31).toNat < s.core.slimit.toNat + 8) ∧
    (∃ s, issues (.call 0) s = true ∧ s.core.sbase.toNat < (s.core.rs 31).toNat) ∧
    (∃ s, issues (.ret 0) s = true ∧ s.core.sbase.toNat < (s.core.rs 31).toNat + 8) ∧
    (∃ s, issues .loopPush s = true ∧ (s.core.rs 31).toNat < s.core.slimit.toNat + 24) ∧
    (∃ s, issues .loopPop s = true ∧ s.core.sbase.toNat < (s.core.rs 31).toNat + 24) ∧
    (∃ s, issues (.amoAdd 1 4 1 2 3 0 0) s = true ∧ ((s.core.rk 1).vbase.toNat + (s.core.rn 2).toNat) % 8 ≠ 0) ∧
    ∃ s, issues (.waita 0 4 1 2 3 0) s = true ∧ ((s.core.rk 1).vbase.toNat + (s.core.rn 2).toNat) % 4 ≠ 0 :=
  ⟨⟨st fun c => c.ws 2 0x300000, by decide⟩, ⟨st fun c => c.ws 2 0x100000000, by decide⟩, ⟨st fun c => c.ws 2 0x2FFFF9, by decide⟩,
   ⟨st fun c => c.ws 2 0x30000000, by decide⟩, ⟨st fun c => c.ws 2 0x107FFFF9, by decide⟩,
   ⟨st fun c => (stack c).ws 31 0x804, by decide⟩, ⟨st fun c => { stack c with slimit := 0x7F9 }, by decide⟩,
   ⟨st fun c => (stack c).ws 31 0x1008, by decide⟩, ⟨st fun c => (stack c).ws 31 0x1000, by decide⟩,
   ⟨st fun c => { stack c with slimit := 0x7E9 }, by decide⟩, ⟨st fun c => (stack c).ws 31 0xFF0, by decide⟩,
   ⟨live fun c => c.ws 2 4, by decide⟩, ⟨live fun c => c.ws 2 2, by decide⟩⟩

theorem witness_trapEntry : ∃ s : State, s.core.inh = false ∧ s.core.tvec ≠ 0 ∧ s.core.slots = some ⟨2, some 0x40, 0⟩ :=
  ⟨st fun c => { c with tvec := 0x80, slots := some ⟨2, some 0x40, 0⟩ }, by decide⟩

/-- Task 1 of partition 3 on core 0, in hand. -/
def task1 : Task := ⟨1, 3, 0, 1, 0, ⟨0, 0x100, 0, 0, 0, 0x1000, 0, 1, 0, 0, 1, 0⟩, [0], true, [], [], 0, 0, 0, some 0, none, none, [], []⟩

/-- A state in which that task runs. -/
def busy (f : Core → Core) : State := { live f with tasks := [task1] }

theorem witness_taskEndsByTrap : (∃ s : State, s.task? s.core.task = some task1 ∧ task1.ending = none ∧ s.core.inh = true) ∧
    (∃ s : State, s.task? s.core.task = some task1 ∧ task1.ending = none ∧ s.core.inh = false ∧ s.core.tvec = 0) ∧
    (∃ s : State, s.task? s.core.task = some task1 ∧ s.core.cur = some (.add 1 2 3) ∧ s.core.vigil = 0 ∧ vigilExempt (.add 1 2 3) = false ∧
      s.core.waiting.committed = false) ∧
    ∃ s : State, s.task? s.core.task = some task1 ∧ s.core.poisonAt s.now = some { owed1 with integrity := true } :=
  ⟨⟨busy fun c => { c with inh := true }, by decide⟩, ⟨busy id, by decide⟩,
   ⟨busy fun c => { c with cur := some (.add 1 2 3), vigil := 0 }, by decide⟩,
   ⟨{ busy fun c => { c with cur := some .fenceCo, owed := [{ owed1 with integrity := true }] } with now := 5 }, by decide⟩⟩

theorem witness_trapAndReturn : goes [.trap 31] State.reset = true ∧ goes [.eret] (st fun c => { c with inh := true, dsField := 2 }) = true ∧
    goes [.eret] (st fun c => { c with inh := true }) = true ∧
    (∃ s : State, s.core.poisonAt s.now = some owed1 ∧ owed1.integrity = false ∧ s.core.inh = false ∧ s.core.tvec ≠ 0) ∧
    (∃ s : State, s.core.nextReport s.now = some (.reduction owed1) ∧ owed1.integrity = false ∧ s.core.inh = false ∧ s.core.tvec ≠ 0) ∧
    ∃ s : State, s.core.nextReport s.now = some (.precise ⟨0, 0, 0, 0, 1⟩) ∧ s.core.inh = false ∧ s.core.tvec ≠ 0 :=
  ⟨by decide, by decide, by decide,
   ⟨{ st fun c => { c with cur := some (.add 1 1 1), marks := [(.s 1, owed1)], tvec := 0x80 } with now := 5 }, by decide⟩,
   ⟨{ st fun c => { c with redOwed := [owed1], tvec := 0x80 } with now := 5 }, by decide⟩,
   ⟨st fun c => { c with watchNow := some ⟨0, 0, 0, 0, 1⟩, tvec := 0x80 }, by decide⟩⟩

/-- `mfc` of every assigned number meets nothing at issue; one has read counter 4 on this cycle. -/
theorem witness_controlRegistersRead : (∀ y : Fin 24, gate (.mfc 3 (BitVec.ofNat 5 y) 0) State.reset = .go) ∧
    (∀ y : Fin 32, gate (.mfc 3 (BitVec.ofNat 5 y) 1) State.reset = .go) ∧ ∃ c : Core, c.ctrRead = some (3, 4) :=
  ⟨by decide, by decide, { State.reset.core with ctrRead := some (3, 4) }, rfl⟩

theorem witness_controlRegistersWritten : (∀ y : Fin 24, gate (.mtc 1 (BitVec.ofNat 5 y) 0) State.reset = .go) ∧
    State.reset.core.waiting = .none ∧ goes [.ctrSel 1 15, .mtc 1 16 1] State.reset = true ∧
    (∃ s : State, goes [.mtc 1 21 0, .mtc 1 23 0] s = true ∧ (s.core.rs 1).extractLsb' 16 2 = 2 ∧ (s.core.rs 1).getLsbD 20 = true ∧
      s.core.waiting = .none) ∧
    (∃ s : State, goes [.mtc 1 21 0] s = true ∧ s.core.waiting = .install 7 true) ∧
    (∃ (s : State) (k : BitVec 4), s.core.ctrval[k.toNat].extractLsb' 0 48 = BitVec.allOnes 48 ∧ s.core.countsNow k.toFin = true) ∧
    ∃ s : State, s.core.waiting = .install 0 false ∧ 0 ≤ s.now :=
  ⟨by decide, by decide, by decide, ⟨st fun c => c.ws 1 0x120000, by decide⟩, ⟨st fun c => { c with waiting := .install 7 true }, by decide⟩,
   ⟨st fun c => { c with ctx := .running, ctrsel := c.ctrsel.set 3 0x8002, ctrval := c.ctrval.set 3 0xFFFFFFFFFFFF, events := [2] }, 3,
     by decide⟩, ⟨st fun c => { c with waiting := .install 0 false }, by decide⟩⟩


/-- The same outstanding store, to remote-home memory. -/
def remote0 : Access := { store0 with space := .lent 2, port := some (0, 0) }

/-- A state in which a store of die 0 has not gone to the other dies. -/
def unseen (f : Core → Core) : State :=
  { st f with dies := State.reset.dies.set 0 { Die.initial with exported := 1 } }

theorem witness_yield : (∃ s : State, goes [.yield 1 0] s = true ∧ s.core.waiting = .none ∧ s.core.revpend = false ∧ s.core.preempt = false ∧
      s.core.dump = false) ∧
    (∃ s : State, goes [.yield 1 0] s = true ∧ s.core.waiting = .drain ∧ s.core.preempt = true ∧ s.core.dump = false ∧ s.core.acc = [] ∧
      s.core.timed = [] ∧ s.core.late = [] ∧ s.core.reporting s.now = false) ∧
    (∃ s : State, goes [.yield 1 0] s = true ∧ s.core.waiting = .none ∧ s.core.revpend = false ∧ s.core.dump = true ∧ s.core.preempt = false ∧
      s.core.acc = [] ∧ s.core.timed = [] ∧ s.core.late = [] ∧ s.core.reporting s.now = false) ∧
    (∃ s : State, goes [.yield 1 0] s = true ∧ s.core.waiting = .drain ∧ s.core.dump = true ∧ s.core.preempt = true ∧
      s.core.acc = [] ∧ s.core.timed = [] ∧ s.core.late = [] ∧ s.core.reporting s.now = false) ∧
    (∃ s : State, goes [.yield 1 0] s = true ∧ s.core.waiting = .none ∧ s.core.revpend = false ∧ s.core.dump = true ∧ s.core.acc ≠ []) ∧
    (∃ s : State, goes [.yield 1 0] s = true ∧ s.core.waiting = .none ∧ s.core.revpend = true) ∧
    (∃ s : State, goes [.yield 1 0] s = true ∧ s.core.waiting = .until 0 ∧ 0 ≤ s.now) ∧
    ∃ s : State, s.staleMask.getLsbD 1 = true :=
  ⟨⟨State.reset, by decide⟩, ⟨st fun c => { c with preempt := true, waiting := .drain }, by decide⟩,
   ⟨st fun c => { c with dump := true }, by decide⟩, ⟨st fun c => { c with dump := true, preempt := true, waiting := .drain }, by decide⟩,
   ⟨st fun c => { c with dump := true, acc := [store0] }, by decide⟩,
   ⟨st fun c => { c with revpend := true }, by decide⟩, ⟨st fun c => { c with waiting := .until 0 }, by decide⟩,
   ⟨{ live id with almanac := [(0, { entry0 with gen := 2 })] }, by decide⟩⟩

theorem witness_endOfTask : (∃ s : State, goes [.endOp] s = true ∧ s.core.acc ≠ []) ∧
    ∃ s : State, goes [.endOp] s = true ∧ s.core.acc = [] ∧ s.core.timed = [] ∧ s.core.reporting s.now = false ∧
      s.task? s.core.task = some task1 :=
  ⟨⟨busy fun c => { c with acc := [store0] }, by decide⟩, ⟨busy id, by decide⟩⟩

/-- A partition of core 0's die. -/
def part3 : Partition := ⟨⟨3, 7, .nonSecure, [0], [1, 1, 1, 1], 4096, 0, [], [5], 1, 0, [], []⟩, [⟨1, 16, 3, .clear, .main 5⟩], [5], 1, 2,
  3, 4, some 5, [], [], [], 0, [], [], 0, List.replicate 8 ⟨0, none, 0⟩, [], [], [], [], [], none⟩

/-- The task without a limit. -/
def unlimited : Task := { task1 with desc := { task1.desc with tlimit := 0 } }

/-- A core whose `svc` waits for its reply. -/
def asking (k : BitVec 5) (c : Core) : Core := { c with cur := some (.svc k), waiting := .svc 0 none }

theorem witness_service :
    (∃ s : State, goes [.svc 0] s = true ∧ s.core.waiting = .none ∧ s.core.ownDone false = true ∧ s.seenHere = true ∧
      s.reached (s.dieClock (dieOf s.core.phys)) = true) ∧
    (∃ s : State, goes [.svc 0] s = true ∧ s.core.waiting = .svc 0 (some (some 5, 0))) ∧
    (∃ (s : State) (c : Core), s.coreAt 0 = some c ∧ c.cur = some (.svc 0) ∧ c.waiting = .svc 0 none ∧ c.ctx = .running) ∧
    (∃ (s : State) (c : Core), s.coreAt 0 = some c ∧ c.cur = some (.svc 1) ∧ c.waiting = .svc 0 none ∧ c.ctx = .running ∧
      mapGet s.parts c.partId = some part3 ∧ part3.log.length < 65536) ∧
    (∃ (s : State) (c : Core) (p : Partition), s.coreAt 0 = some c ∧ c.cur = some (.svc 1) ∧ c.waiting = .svc 0 none ∧ c.ctx = .running ∧
      mapGet s.parts c.partId = some p ∧ 65536 ≤ p.log.length) ∧
    (∃ (s : State) (c : Core), s.coreAt 0 = some c ∧ c.cur = some (.svc 2) ∧ c.waiting = .svc 0 none ∧ c.ctx = .running ∧
      s.task? c.task = some task1 ∧ (s.limitLeft task1).isSome = true) ∧
    (∃ (s : State) (c : Core), s.coreAt 0 = some c ∧ c.cur = some (.svc 2) ∧ c.waiting = .svc 0 none ∧ c.ctx = .running ∧
      s.task? c.task = some unlimited ∧ (s.limitLeft unlimited).isNone = true) ∧
    ∃ (s : State) (c : Core), s.coreAt 0 = some c ∧ c.cur = some (.svc 3) ∧ c.waiting = .svc 0 none ∧ c.ctx = .running :=
  ⟨⟨State.reset, by decide⟩, ⟨st fun c => { c with waiting := .svc 0 (some (some 5, 0)) }, by decide⟩,
   ⟨busy (asking 0), _, rfl, by decide⟩, ⟨{ busy (asking 1) with parts := [(3, part3)] }, _, rfl, by decide⟩,
   ⟨{ busy (asking 1) with parts := [(3, { part3 with log := List.replicate 65536 [] })] }, _,
     { part3 with log := List.replicate 65536 [] }, rfl, rfl, rfl, rfl, rfl, Nat.le_of_eq List.length_replicate.symm⟩,
   ⟨busy (asking 2), _, rfl, by decide⟩, ⟨{ busy (asking 2) with tasks := [unlimited] }, _, rfl, by decide⟩,
   ⟨busy (asking 3), _, rfl, by decide⟩⟩

theorem witness_fences : goes [.fenceCo, .fenceCl, .fenceDi, .fencePk, .fenceDm] State.reset = true ∧
    State.reset.core.ownDone false = true ∧ State.reset.core.ownDone true = true ∧ State.reset.seenHere = true ∧
    State.reset.core.waiting = .none ∧
    (∃ s : State, goes [.fenceCo, .fencePk, .fenceDm] s = true ∧ s.core.ownDone true = true ∧ s.core.depMsc ≠ [] ∧ s.core.waiting = .none) ∧
    (∃ s : State, goes [.fenceCo, .fencePk, .fenceDm] s = true ∧ (∃ a, a ∈ s.core.acc ∧ a.space = .main) ∧ s.core.waiting = .none) ∧
    (∃ s : State, goes [.fencePk, .fenceDm] s = true ∧ s.core.ownDone true = true ∧ s.core.waiting = .none ∧ s.countIn 0 0 = 1 ∧
      s.countIn 1 0 = 0) ∧
    (∃ s : State, goes [.fenceCo, .fencePk, .fenceDm] s = true ∧ s.core.late ≠ [] ∧ s.core.waiting = .none) ∧
    (∃ s : State, goes [.fenceCo] s = true ∧ ∃ a, a ∈ s.core.acc ∧ a.space = .lent 2) ∧
    (∃ s : State, goes [.fencePk, .fenceDm] s = true ∧ s.core.waiting = .fence [0, 0, 0, 0]) ∧
    ∃ s : State, goes [.fencePk, .fenceDm] s = true ∧ s.core.waiting = .fence [1, 0, 0, 0] ∧ s.countIn 1 0 = 0 :=
  ⟨by decide, by decide, by decide, by decide, by decide, ⟨st fun c => { c with depMsc := [1] }, by decide⟩,
   ⟨st fun c => { c with acc := [store0] }, by decide, ⟨store0, by decide⟩, by decide⟩,
   ⟨unseen id, by decide⟩, ⟨st fun c => { c with late := [⟨9, 0x40, 64, [], .k 1⟩] }, by decide⟩,
   ⟨st fun c => { c with acc := [remote0] }, by decide, remote0, by decide⟩,
   ⟨st fun c => { c with waiting := .fence [0, 0, 0, 0] }, by decide⟩, ⟨unseen fun c => { c with waiting := .fence [1, 0, 0, 0] }, by decide⟩⟩

/-- A crew of two: core 0, and a second core of rank 1. -/
def crew2 (t : Task) (f : Core → Core) : State :=
  { busy f with tasks := [t], others := [{ mine (Core.initial 1) with crew := 0x20001 }] }

theorem witness_equinox :
    (∃ s : State, goes [.sync, .alignEquinox] s = true ∧ s.core.waiting = .none ∧ s.core.ownDone false = true ∧ s.seenHere = true ∧
      s.reached (s.dieClock (dieOf s.core.phys)) = true ∧ s.task? s.core.task = some task1) ∧
    (∃ s : State, goes [.sync, .alignEquinox] s = true ∧ s.core.waiting = .equinox 1 (some 0)) ∧
    (∃ s : State, goes [.sync, .alignEquinox] s = true ∧ s.core.waiting = .equinox 1 none) ∧
    (∃ (s : State) (t : Task), s.task? 1 = some t ∧ t.ending = none ∧ t.arrivals = [(0, true)] ∧ t.cores.length = 1 ∧
      ∀ r, r < t.cores.length → r ∈ t.ended ∨ (r, true) ∈ t.arrivals) ∧
    (∃ (s : State) (t : Task), s.task? 1 = some t ∧ t.ending = none ∧ t.arrivals = [(0, true)] ∧ t.cores.length = 2 ∧ t.releaseDue ≠ 0 ∧
      t.releaseDue ≤ s.now ∧ ∀ r, r < t.cores.length → r ∈ t.ended ∨ (r, true) ∈ t.arrivals) ∧
    ∃ (s : State) (t : Task), s.task? 1 = some t ∧ t.ending = none ∧ t.arrivals = [(0, true), (1, false)] ∧ t.cores.length ≠ 1 ∧
      t.releaseDue = 0 ∧ ∀ r, r < t.cores.length → r ∈ t.ended ∨ ∃ a, (r, a) ∈ t.arrivals :=
  ⟨⟨busy id, by decide⟩, ⟨busy fun c => { c with waiting := .equinox 1 (some 0) }, by decide⟩,
   ⟨busy fun c => { c with waiting := .equinox 1 none }, by decide⟩,
   ⟨{ busy id with tasks := [{ task1 with arrivals := [(0, true)] }] }, { task1 with arrivals := [(0, true)] }, by decide⟩,
   ⟨{ crew2 { task1 with cores := [0, 1], ended := [1], arrivals := [(0, true)], releaseDue := 5 } id with now := 5 },
     { task1 with cores := [0, 1], ended := [1], arrivals := [(0, true)], releaseDue := 5 }, by decide⟩,
   ⟨crew2 { task1 with cores := [0, 1], arrivals := [(0, true), (1, false)] } id,
     { task1 with cores := [0, 1], arrivals := [(0, true), (1, false)] }, by decide, rfl, rfl, by decide, rfl, fun r h => by
      have : r = 0 ∨ r = 1 := by simp at h; omega
      rcases this with rfl | rfl <;> simp⟩⟩

theorem witness_tags : goes [.tagWany 1, .tagWall 1, .tagFfr 2 1, .tagClr 1] State.reset = true ∧
    (∃ s : State, s.core.rs 1 ≠ 0 ∧ s.core.tags &&& s.core.rs 1 = 0 ∧ goes [.tagWany 1, .tagWall 1] s = true) ∧
    (∃ s : State, s.core.tags &&& s.core.rs 1 ≠ 0 ∧ s.core.tags &&& s.core.rs 1 ≠ s.core.rs 1 ∧ goes [.tagWany 1, .tagWall 1] s = true) ∧
    (∃ s : State, (s.core.tags &&& s.core.rs 1).getLsbD 0 = true ∧ goes [.tagFfr 2 1] s = true) ∧
    ∃ s : State, (s.core.tags &&& s.core.rs 1).getLsbD 63 = true ∧ (∀ j, j < 63 → (s.core.tags &&& s.core.rs 1).getLsbD j = false) ∧
      goes [.tagFfr 2 1] s = true :=
  ⟨by decide, ⟨st fun c => { c.ws 1 1 with tags := 2 }, by decide⟩, ⟨st fun c => { c.ws 1 3 with tags := 2 }, by decide⟩,
   ⟨st fun c => { c.ws 1 1 with tags := 1 }, by decide⟩, ⟨st fun c => { c.ws 1 0x8000000000000000 with tags := BitVec.allOnes 64 }, by decide⟩⟩

/-- Cluster 0 with its first barrier object as given. -/
def bars (b : Barrier) (f : Core → Core) : State :=
  { st f with clusters := [(0, ⟨(Vector.replicate 32 (Barrier.initial 0)).set 0 b, none, none, []⟩)] }

theorem witness_barriers :
    (∃ s : State, s.core.ownDone false = true ∧ s.seenHere = true ∧ goes [.barArrive 1 0, .barDrop 1 0] s = true ∧
      (s.cluster 0).bars[0].members = 1 ∧
      (s.cluster 0).bars[0].arr = 0) ∧
    (∃ s : State, s.core.ownDone false = true ∧ s.seenHere = true ∧ goes [.barArrive 1 0] s = true ∧ (s.cluster 0).bars[0].members = 2) ∧
    (∃ s : State, s.core.ownDone false = true ∧ s.seenHere = true ∧ goes [.barArrive 1 0] s = true ∧ (s.cluster 0).bars[0].members = 1 ∧
      (s.cluster 0).bars[0].arr = 1) ∧
    (∃ s : State, s.core.ownDone false = true ∧ s.seenHere = false ∧ goes [.barArrive 1 0, .barDrop 1 0] s = true) ∧
    (∃ s : State, s.core.ownDone false = false ∧ goes [.barArrive 1 0, .barDrop 1 0] s = true) ∧
    (∃ s : State, goes [.barWait 1 0] s = true ∧ (s.cluster 0).bars[0].phase - (s.core.rs 1).setWidth 32 = 1) ∧
    (∃ s : State, goes [.barWait 1 0] s = true ∧ (s.cluster 0).bars[0].phase - (s.core.rs 1).setWidth 32 = 0x80000000) ∧
    (∃ s : State, goes [.barWait 1 0] s = true ∧ (s.cluster 0).bars[0].phase - (s.core.rs 1).setWidth 32 = 0) ∧
    (∃ s : State, goes [.barWait 1 0] s = true ∧ (s.cluster 0).bars[0].phase - (s.core.rs 1).setWidth 32 = 0x80000001) ∧
    (∃ s : State, goes [.barWait 1 0] s = true ∧ s.core.waiting = .told 0 7 ∧ 0 ≤ s.now) ∧
    (∃ s : State, goes [.barWait 1 0] s = true ∧ s.core.waiting = .told 1 7 ∧ s.now < 1) ∧
    (∃ s : State, goes [.barWait 1 0] s = true ∧ s.core.waiting = .none ∧ s.core.stall = 11 ∧ s.core.cur = some (.barWait 1 0) ∧
      (s.cluster 0).bars[0].phase - (s.core.rs 1).setWidth 32 = 1) ∧
    (∃ s : State, goes [.barWait 1 0] s = true ∧ s.core.waiting = .none ∧ s.core.stall = 11 ∧ s.core.cur = some (.barWait 1 0) ∧
      (s.cluster 0).bars[0].phase - (s.core.rs 1).setWidth 32 = 0) ∧
    (∃ s : State, s.core.ownDone false = true ∧ s.seenHere = true ∧ goes [.barArrive 1 0] s = true ∧
      (s.cluster 0).bars[0].members = 1 ∧ (0, 5) ∈ (s.cluster 0).bars[0].held) ∧
    (∃ s : State, (0, (s.cluster 0).bars[0].phase) ∈ (s.cluster 0).bars[0].held ∧ (s.cluster 0).bars[0].members &&& 1 = 0) ∧
    (∃ s : State, (0, (s.cluster 0).bars[0].phase) ∈ (s.cluster 0).bars[0].held ∧ (s.cluster 0).bars[0].members &&& 1 ≠ 0) ∧
    (∃ b : Barrier, b.touched = true ∧ b.arr &&& b.members = b.members) ∧ (∃ b : Barrier, b.touched = false) ∧
    ∃ b : Barrier, b.touched = true ∧ b.arr &&& b.members ≠ b.members :=
  ⟨⟨bars (Barrier.initial 1) id, by decide⟩, ⟨bars (Barrier.initial 2) id, by decide⟩,
   ⟨bars { Barrier.initial 1 with arr := 1 } id, by decide⟩, ⟨bars (Barrier.initial 1) fun c => { c with depMsc := [1] }, by decide⟩,
   ⟨bars (Barrier.initial 1) fun c => { c with acc := [store0] }, by decide⟩,
   ⟨bars { Barrier.initial 1 with phase := 5 } fun c => c.ws 1 4, by decide⟩,
   ⟨bars { Barrier.initial 1 with phase := 5 } fun c => c.ws 1 0x80000005, by decide⟩,
   ⟨bars { Barrier.initial 1 with phase := 5 } fun c => c.ws 1 5, by decide⟩,
   ⟨bars { Barrier.initial 1 with phase := 5 } fun c => c.ws 1 0x80000004, by decide⟩,
   ⟨bars (Barrier.initial 1) fun c => { c with waiting := .told 0 7 }, by decide⟩,
   ⟨bars (Barrier.initial 1) fun c => { c with waiting := .told 1 7 }, by decide⟩,
   ⟨bars { Barrier.initial 1 with phase := 5 } fun c => { c.ws 1 4 with stall := 11, cur := some (.barWait 1 0) }, by decide⟩,
   ⟨bars { Barrier.initial 1 with phase := 5 } fun c => { c.ws 1 5 with stall := 11, cur := some (.barWait 1 0) }, by decide⟩,
   ⟨bars { Barrier.initial 1 with held := [(0, 5)] } id, by decide⟩,
   ⟨bars { Barrier.initial 0 with held := [(0, 0)] } id, by decide⟩, ⟨bars { Barrier.initial 1 with held := [(0, 0)] } id, by decide⟩,
   ⟨{ Barrier.initial 1 with touched := true, arr := 1 }, by decide⟩, ⟨Barrier.initial 1, by decide⟩,
   ⟨{ Barrier.initial 3 with touched := true, arr := 1 }, by decide⟩⟩

theorem witness_engineQueues : goes [.enqM 1, .enqC 1, .enqL 1, .fmtq 1] (st fun c => (c.ws 1 0x020F0100011F0002).ws 31 9) = true := by
  decide


/-- A state with the live entry, the task and its partition. -/
def owned (f : Core → Core) : State := { busy f with parts := [(3, part3)], pot := [(5, ⟨.nonSecure, .part 3, .clear, false⟩)] }

theorem witness_tokenChecks :
    (∃ s : State, (s.core.rk 2).gen = 0 ∧ s.checkRights (s.core.rk 2) 0 4 1 = .invalid) ∧
    (∃ s : State, (s.core.rk 1).gen ≠ 0 ∧ (s.core.rk 1).part.toNat = s.core.partId ∧ (s.entry 0).owner = 3 ∧
      (s.core.tfc.find? fun l => l.index = 0 && l.frame = 1) = none) ∧
    (∃ s : State, (s.core.rk 1).gen ≠ 0 ∧ (s.core.rk 1).part.toNat = s.core.partId ∧ (s.entry 0).owner = 3 ∧
      (s.core.tfc.find? fun l => l.index = 0 && l.frame = 1) = some ⟨0, 1, 1, true, 3, .clear⟩ ∧ (s.core.rk 1).gen = 1 ∧
      (s.core.rk 1).lenm1.toNat + 1 < 0x10000 + 1 ∧ 0xFFFF + 1 ≤ (s.core.rk 1).lenm1.toNat + 1) ∧
    (∃ s : State, goes [.ld 4 1 2 0 0 0 2, .st 4 1 2 0 0 2, .kst 0 1 2, .kld 0 1 2] s = true ∧
      s.checkRights (s.core.rk 1) (s.core.rs 2).toNat 4 1 = .oob ∧ s.checkRights (s.core.rk 1) (s.core.rs 2).toNat 4 2 = .oob ∧
      s.checkRights (s.core.rk 1) (s.core.rs 2).toNat 32 2 = .oob ∧ s.checkRights (s.core.rk 1) (s.core.rs 2).toNat 32 1 = .oob) ∧
    (∃ s : State, goes [.ld 4 1 2 0 0 0 2, .amoAdd 0 4 1 2 3 0 0, .amoAnd 0 4 1 2 3 0 0, .amoOr 0 4 1 2 3 0 0, .amoXor 0 4 1 2 3 0 0,
        .amoMin 0 4 1 2 3 0 0, .amoMax 0 4 1 2 3 0 0, .amoMinu 0 4 1 2 3 0 0, .amoMaxu 0 4 1 2 3 0 0, .amoSwap 0 4 1 2 3 0 0,
        .amoCas 0 4 1 2 3 0 0, .amoAddt 0 4 1 2 3 0 0, .amoFadd 4 1 2 3 0 0, .waita 0 4 1 2 3 0] s = true ∧
      s.checkRights (s.core.rk 1) (s.core.rn 2).toNat 4 3 = .stale ∧ s.checkRights (s.core.rk 1) (s.core.rn 2).toNat 4 1 = .stale ∧
      s.core.waiting = .none) :=
  ⟨⟨live id, by decide⟩, ⟨live fun c => { c with tfc := [] }, by decide⟩, ⟨live id, by decide⟩,
   ⟨live fun c => c.ws 2 0xFFFD, by decide⟩, ⟨live fun c => { c with tfc := [⟨0, 1, 1, false, 3, .clear⟩] }, by decide⟩⟩

theorem witness_tokenRegisters :
    goes ([0, 1, 2, 3, 4, 5, 6, 7, 8, 9, 10].map fun f => .kinfo 3 1 f) (live id) = true ∧
    goes [.kmov 2 1, .kclr 1, .krel 1, .ksub 2 1 3 4] (live fun c => (c.ws 3 0xFFFF).ws 4 1) = true ∧
    (∃ s : State, (s.core.rk 1).gen ≠ 0 ∧ (s.core.rs 4).toNat ≠ 0 ∧
      (s.core.rs 3).toNat + (s.core.rs 4).toNat = (s.core.rk 1).lenm1.toNat + 1 ∧ goes [.ksub 2 1 3 4] s = true) ∧
    (∃ s : State, (s.core.rk 1).gen ≠ 0 ∧ (s.core.rs 4).toNat = 0 ∧ goes [.ksub 2 1 3 4] s = true) ∧
    (∃ s : State, (s.core.rk 1).gen ≠ 0 ∧ (s.core.rk 1).lenm1.toNat + 1 < (s.core.rs 3).toNat + (s.core.rs 4).toNat ∧
      goes [.ksub 2 1 3 4] s = true) ∧
    (∃ s : State, (s.core.rk 2).gen = 0 ∧ goes [.ksub 2 2 3 4, .krel 2] s = true) ∧
    ∃ s : State, let t := s.core.rk 1
      let e := s.entry t.index.toNat
      t.gen ≠ 0 ∧ t.part.toNat = s.core.partId ∧ e.owner = t.part.toNat ∧ e.state = .active ∧ e.gen = t.gen ∧ goes [.krel 1] s = true :=
  ⟨by decide, by decide, ⟨live fun c => (c.ws 3 0xFFFF).ws 4 1, by decide⟩, ⟨live id, by decide⟩,
   ⟨live fun c => (c.ws 3 0xFFFF).ws 4 2, by decide⟩, ⟨live id, by decide⟩, ⟨live id, by decide⟩⟩

/-- `xlat` of `len` bytes at `va`, in the stage w. -/
def xlating (va len : Word) (w : Waiting) (c : Core) : Core := { (c.ws 1 va).ws 2 len with waiting := w, cur := some (.xlat 4 1 2 1) }

theorem witness_translation :
    goes [.xlat 4 1 2 1] (owned (xlating 0x10000 4 .none)) = true ∧
    (∃ s : State, s.core.waiting = .until 0 ∧ goes [.xlat 4 1 2 1] s = true ∧
      s.xlatPlan s.core.partId (s.core.rs 1) (s.core.rs 2) 1 = .fault 1 0x30000) ∧
    (∃ s : State, s.core.waiting = .until 0 ∧ goes [.xlat 4 1 2 1] s = true ∧
      s.xlatPlan s.core.partId (s.core.rs 1) (s.core.rs 2) 1 = .paging) ∧
    (∃ s : State, s.core.waiting = .until 0 ∧ goes [.xlat 4 1 2 1] s = true ∧
      s.xlatPlan s.core.partId (s.core.rs 1) (s.core.rs 2) 1 = .ok none 16 .clear [5] ∧ s.core.duePoison (.xlat 4 1 2 1) = none) ∧
    (∃ s : State, s.core.waiting = .xlat 1 0 false) ∧ (∃ s : State, s.core.waiting = .xlat 1 0 true) ∧
    (∃ (s : State) (q : Core), s.coreAt 0 = some q ∧ q.cur = some (.xlat 4 1 2 1) ∧ q.waiting = .xlat 1 0x30000 false ∧
      s.xlatPlan q.partId (q.rs 1) (q.rs 2) 1 = .fault 1 0x30000) ∧
    (∃ (s : State) (q : Core), s.coreAt 0 = some q ∧ q.cur = some (.xlat 4 1 2 1) ∧ q.waiting = .xlat 0 0x10000 false ∧
      s.xlatPlan q.partId (q.rs 1) (q.rs 2) 1 = .ok none 16 .clear [5] ∧
      ∀ x, x ∈ s.almanac → x.2.owner = q.partId → x.2.state ≠ .revoking) ∧
    ∃ s : State, s.core.tfcReq = some (0, 1, 0) ∧ 0 ≤ s.now :=
  ⟨by decide, ⟨owned (xlating 0x30000 4 (.until 0)), by decide⟩,
   ⟨{ owned (xlating 0x10000 4 (.until 0)) with pot := [(5, ⟨.nonSecure, .part 3, .clear, true⟩)] }, by decide⟩,
   ⟨owned (xlating 0x10000 4 (.until 0)), by decide⟩, ⟨st fun c => { c with waiting := .xlat 1 0 false }, rfl⟩,
   ⟨st fun c => { c with waiting := .xlat 1 0 true }, rfl⟩, ⟨owned (xlating 0x30000 4 (.xlat 1 0x30000 false)), _, rfl, by decide⟩,
   ⟨owned (xlating 0x10000 4 (.xlat 0 0x10000 false)), _, rfl, by decide⟩,
   ⟨st fun c => { c with tfcReq := some (0, 1, 0) }, by decide⟩⟩

theorem witness_translation_extents : (∃ va len : Word, len.toNat = 0 ∧ va.toNat = 0) ∧ (∃ va : Word, 2 ^ 56 ≤ va.toNat) ∧
    (∃ va len : Word, len.toNat ≠ 0 ∧ va.toNat < 2 ^ 56 ∧ 2 ^ 32 < len.toNat) ∧
    ∃ va len : Word, len.toNat ≠ 0 ∧ va.toNat < 2 ^ 56 ∧ len.toNat ≤ 2 ^ 32 ∧ 2 ^ 56 ≤ va.toNat + len.toNat - 1 :=
  ⟨⟨0, 0, by decide⟩, ⟨0x100000000000000, by decide⟩, ⟨0, 0x100000001, by decide⟩, ⟨0xFFFFFFFFFFFFFF, 2, by decide⟩⟩

theorem witness_tokenAccesses :
    (∃ s : State, goes [.ld 4 1 2 0 0 0 2, .st 4 1 2 0 0 2, .kst 0 1 2, .kld 0 1 2] s = true ∧
      s.checkRights (s.core.rk 1) (s.core.rs 2).toNat 4 1 = .ok ∧ s.checkRights (s.core.rk 1) (s.core.rs 2).toNat 32 1 = .ok ∧
      s.checkRights (s.core.rk 1) (s.core.rs 2).toNat 4 2 = .ok ∧ s.checkRights (s.core.rk 1) (s.core.rs 2).toNat 32 2 = .ok ∧
      s.core.strike 18 false (span 0x1FFE0 4) = none) ∧
    ∃ s : State, goes [.st 4 1 2 0 0 2] s = true ∧ s.checkRights (s.core.rk 1) (s.core.rs 2).toNat 4 2 = .ok ∧ s.core.inh = false ∧
      (s.core.strike 18 false (span 0x10000 4)).isSome = true :=
  ⟨⟨live fun c => c.ws 2 0xFFE0, by decide⟩,
   ⟨live fun c => { c with wpbase := c.wpbase.set 0 0x10000, wpmask := c.wpmask.set 0 0x60001 }, by decide⟩⟩

theorem witness_localAccesses :
    (∃ s : State, goes [.lds 3 4 2 0 0 0, .sts 3 4 2 0 0, .kldL 0 2 0, .kstL 0 2 0] s = true ∧ s.core.local? (s.core.rs 2) 8 false = some .scratch ∧
      s.core.local? (s.core.rs 2) 32 false = some .scratch ∧ s.core.local? (s.core.rs 2) 8 true = some .scratch ∧
      s.core.strike 18 true (span 0x2FFFE0 8) = none) ∧
    (∃ s : State, goes [.lds 3 4 2 0 0 0, .sts 3 4 2 0 0, .kldL 0 2 0, .kstL 0 2 0] s = true ∧ s.core.local? (s.core.rs 2) 8 false = some .pool ∧
      s.core.local? (s.core.rs 2) 32 true = some .pool) ∧
    (∃ s : State, goes [.lds 3 4 2 0 0 0] s = true ∧ s.core.local? (s.core.rs 2) 8 false = some .weight) ∧
    ∃ s : State, goes [.sts 2 4 2 0 0] s = true ∧ s.core.local? (s.core.rs 2) 4 true = some .csm ∧ s.core.inh = false ∧
      (s.core.strike 18 true (span 0x10000000 4)).isSome = true :=
  ⟨⟨st fun c => c.ws 2 0x2FFFE0, by decide⟩, ⟨st fun c => (mine c).ws 2 0x200FFFE0, by decide⟩, ⟨st fun c => c.ws 2 0x30000000, by decide⟩,
   ⟨st fun c => { c.ws 2 0x10000000 with wpbase := c.wpbase.set 1 0x10000000, wpmask := c.wpmask.set 1 0x50001 }, by decide⟩⟩

theorem witness_loadedBytes : (∃ (a x : Nat) (bs : List Byte), x < a ∨ a + bs.length ≤ x) ∧
    (∃ (i a x : Nat) (bs : List Byte), i < bs.length ∧ x = a + i ∧ i < 64 - a % 64) ∧
    (∃ (i a x : Nat) (bs : List Byte), i < bs.length ∧ x = a + i ∧ 64 - a % 64 ≤ i) ∧
    (∃ bs : List Byte, bs ≠ [] ∧ bs.length ≤ 8) ∧ (∃ part : Nat, (tok 1).part.toNat = part) ∧ ∃ part : Nat, (tok 1).part.toNat ≠ part :=
  ⟨⟨4, 3, [1], by decide⟩, ⟨0, 63, 63, [1, 2], by decide⟩, ⟨1, 63, 64, [1, 2], by decide⟩, ⟨[1, 2, 3, 4, 5, 6, 7, 8], by decide⟩, ⟨3, by decide⟩,
   ⟨4, by decide⟩⟩

theorem witness_atomicsIssued :
    (∃ s : State, goes [.amoAdd 1 4 1 2 3 0 0, .amoAnd 1 4 1 2 3 0 0, .amoOr 1 4 1 2 3 0 0, .amoXor 1 4 1 2 3 0 0, .amoMin 1 4 1 2 3 0 0,
        .amoMax 1 4 1 2 3 0 0, .amoMinu 1 4 1 2 3 0 0, .amoMaxu 1 4 1 2 3 0 0, .amoSwap 1 4 1 2 3 0 0, .amoCas 1 4 1 2 3 0 0,
        .amoFadd 4 1 2 3 0 0, .amoAddt 1 4 1 2 3 0 0, .waita 1 4 1 2 3 0] s = true ∧ s.core.waiting = .none ∧
      s.checkRights (s.core.rk 1) (s.core.rn 2).toNat 8 3 = .ok ∧ s.checkRights (s.core.rk 1) (s.core.rn 2).toNat 4 3 = .ok ∧
      s.checkRights (s.core.rk 1) (s.core.rn 2).toNat 8 1 = .ok) ∧
    (∃ s : State, goes [.lamoAdd 1 4 2 0 3 0, .lamoAnd 1 4 2 0 3 0, .lamoOr 1 4 2 0 3 0, .lamoXor 1 4 2 0 3 0, .lamoMin 1 4 2 0 3 0,
        .lamoMax 1 4 2 0 3 0, .lamoMinu 1 4 2 0 3 0, .lamoMaxu 1 4 2 0 3 0, .lamoSwap 1 4 2 0 3 0, .lamoCas 1 4 2 0 3 0,
        .lamoFadd 4 2 0 3 0] s = true ∧ s.core.local? (s.core.rn 2) 8 true = some .scratch ∧ s.core.local? (s.core.rn 2) 4 true = some .scratch) ∧
    (∃ s : State, goes [.lamoAdd 0 4 2 15 3 0] s = true ∧ s.core.local? (s.core.rn 2 + 60) 4 true = some .csm) ∧
    ∃ s : State, goes [.waita 0 4 1 2 3 0] s = true ∧ s.core.waiting = .waita 0 (some ⟨5, true, 0, 0⟩) :=
  ⟨⟨live fun c => c.ws 2 0xFFF8, by decide⟩, ⟨st fun c => c.ws 2 0x2FFFF8, by decide⟩, ⟨st fun c => c.ws 2 0x10000000, by decide⟩,
   ⟨st fun c => { c with waiting := .waita 0 (some ⟨5, true, 0, 0⟩) }, by decide⟩⟩

theorem witness_atomicValues : ∃ n old t x : Nat, (n = 4 ∨ n = 8) ∧ old < 2 ^ (8 * n) ∧ t < 2 ^ (8 * n) ∧ x < 2 ^ (8 * n) :=
  ⟨8, 2 ^ 64 - 1, 0, 2 ^ 63, by decide⟩

theorem witness_vectorInteger : goes [.vaddI32 1 2 3 0, .vsubI32 1 2 3 0, .vmulI32 1 2 3 0, .vmulhI32 1 2 3 0, .vmulhU32 1 2 3 0,
    .vminI32 1 2 3 0, .vmaxI32 1 2 3 0, .vminU32 1 2 3 0, .vmaxU32 1 2 3 0, .vaddsI32 1 2 3 0, .vsubsI32 1 2 3 0, .vand 1 2 3 0,
    .vor 1 2 3 0, .vxor 1 2 3 0, .vandn 1 2 3 0, .vsll 1 2 3 7, .vsrl 1 2 3 7, .vsra 1 2 3 7, .vabsI32 1 2 7, .vnegI32 1 2 7, .vmov 1 2 7,
    .vpopc 1 2 7, .vclz 1 2 7, .vsel 1 2 3 7] State.reset = true := by decide

theorem witness_vectorFloat : goes [.vaddF32 1 2 3 0 4, .vsubF32 1 2 3 0 0, .vmulF32 1 2 3 0 1, .vfmaF32 1 2 3 4 0 2, .vminF32 1 2 3 0,
    .vmaxF32 1 2 3 0, .vabsF32 1 2 0, .vnegF32 1 2 0, .vcvtWiden 1 2 1 0, .vcvtF32I32 1 2 0 3, .vcvtNarrow 1 2 1 0 0, .vcvtsNarrow 1 2 1 0 0,
    .vcvtI32F32 1 2 0 0, .vrcp 1 2 0 0, .vrsqrt 1 2 0 1, .vsqrt 1 2 0 0, .vexp2 1 2 0 1, .vlog2 1 2 0 0, .vexp 1 2 0 0, .vtanh 1 2 0 0,
    .vsigm 1 2 0 0, .vsin 1 2 0 0, .vcos 1 2 0 0, .verf 1 2 0 0] State.reset = true ∧ ∃ x : BitVec 32, f32 x ≠ .nan :=
  ⟨by decide, 0x3F800000, by decide⟩

theorem witness_vectorAxes : goes ([0, 1, 2].flatMap fun t => [.vsumRa 1 2 t, .vsumCa 1 2 t, .vmaxRa 1 2 t, .vmaxCa 1 2 t, .vminRa 1 2 t,
    .vminCa 1 2 t]) State.reset = true ∧ goes [.vrotRa 1 2 63, .vrotCa 1 2 15, .vbrow 1 2 15, .vbcol 1 2 63, .vidxR 1, .vidxC 1, .vbcast 1 2,
    .vins 1 2 15 63, .vext 1 2 15 63, .vext 0 2 0 0] State.reset = true := by decide

theorem witness_predicates : goes ([0, 5].flatMap fun c => [.vcmp 1 2 3 0 c 0, .vcmp 1 2 3 0 c 2, .vcmp 0 2 3 7 c 1]) State.reset = true ∧
    goes [.pand 1 2 3, .por 1 2 3, .pxor 1 2 3, .pandn 1 2 3, .pnot 1 2, .pmov 0 2, .pcnt 1 2] State.reset = true := by decide

theorem witness_vectorMemory :
    (∃ s : State, goes [.vld 1 2 3 0, .vst 1 2 3 0] s = true ∧ s.core.local? ((s.core.rn 2 + s.core.rn 3) &&& ~~~(63 : Word)) 4096 false = some .scratch ∧
      s.core.local? ((s.core.rn 2 + s.core.rn 3) &&& ~~~(63 : Word)) 4096 true = some .scratch) ∧
    (∃ s : State, goes [.vld 1 2 3 0, .vst 1 2 3 0] s = true ∧ s.core.local? ((s.core.rn 2 + s.core.rn 3) &&& ~~~(63 : Word)) 4096 false = some .csm ∧
      s.core.local? ((s.core.rn 2 + s.core.rn 3) &&& ~~~(63 : Word)) 4096 true = some .csm) ∧
    goes [.vldL 1 2 0, .vstL 1 2 0] State.reset = true :=
  ⟨⟨st fun c => c.ws 2 0x2FF03F, by decide⟩, ⟨st fun c => c.ws 2 0x10000000, by decide⟩, by decide +kernel⟩

/-- The bytes of an image of a valid curve, the identity of 17 breakpoints of R172, with addresses. -/
def identityImage : List Host.Cell := (Curve.identity.flatMap fun b => natToBytes 2 b.1 ++ natToBytes 2 b.2).map fun b => ((0 : Nat), b)

theorem witness_quantisation : (∀ f : BitVec 4, goes [.vqnt 1 2 0 f, .vdqnt 1 2 0 f] State.reset = true) ∧
    State.reset.core.curves[0].valid = true ∧
    (∃ s : State, goes [.cmpt 1 2 0] s = true ∧ s.core.waiting = .none ∧ regionOf s.core.poolMb (s.core.rn 1 + s.core.rn 2).toNat = some .scratch ∧
      s.core.lockedAt 0 64 = false ∧ s.core.matrixReads s.now 0 64 = false ∧ s.core.bankTaken s.now 0 64 = false ∧ s.core.pendTrap = true ∧
      s.core.pendingOn s.now 0 64 = none) ∧
    (∃ s : State, goes [.cmpt 1 2 0] s = true ∧ s.core.waiting = .none ∧ regionOf s.core.poolMb (s.core.rn 1 + s.core.rn 2).toNat = some .csm) ∧
    (∃ s : State, goes [.cmpt 1 2 0] s = true ∧ s.core.waiting = .cmpt [] 64 0 ∧ (s.core.rn 1 + s.core.rn 2).toNat = 61 ∧
      s.core.lockedAt 64 128 = false ∧ s.core.matrixReads s.now 64 64 = false ∧ s.core.bankTaken s.now 64 64 = false ∧
      s.core.pendTrap = false) ∧
    (∃ s : State, goes [.cmpt 1 2 0] s = true ∧ s.core.waiting = .cmpt [] 64 0 ∧ (s.core.rn 1 + s.core.rn 2).toNat = 0 ∧
      s.core.lockedAt 64 68 = false ∧ s.core.matrixReads s.now 64 4 = false ∧ s.core.bankTaken s.now 64 4 = false ∧ s.core.pendTrap = false) ∧
    (∃ s : State, s.core.waiting = .cmpt [] 64 0 ∧ (s.core.rn 1 + s.core.rn 2).toNat = 0 ∧ s.core.lockedAt 64 68 = false ∧
      s.core.matrixReads s.now 64 4 = false ∧ s.core.bankTaken s.now 64 4 = false ∧ s.core.pendTrap = true ∧
      s.core.pendingOn s.now 64 4 = some 64) ∧
    (∃ s : State, s.core.cur = some (.cmpt 1 2 0) ∧ s.core.waiting = .until 0 ∧ (s.core.rn 1 + s.core.rn 2).toNat = 0x10000000 ∧
      regionOf s.core.poolMb 0x10000000 = some .csm ∧
      (let x := s.core.spaceOf .csm 0x10000000; s.rangeFree x.1 (rowRanges 4 x.2 68)) = true) ∧
    (∀ bad, ∃ s : State, goes [.cmpt 1 2 0] s = true ∧ s.core.waiting = .got [1] bad) ∧
    (∃ (s : State) (rows : List Host.Cell), goes [.cmpt 1 2 0] s = true ∧ s.core.waiting = .cmpt rows 0 3 ∧ 3 ≤ s.now ∧
      (curveOf (rows.map (·.2))).valid = false) ∧
    ∃ (s : State) (rows : List Host.Cell), goes [.cmpt 1 2 0] s = true ∧ s.core.waiting = .cmpt rows 0 3 ∧ 3 ≤ s.now ∧
      (curveOf (rows.map (·.2))).valid = true :=
  ⟨by decide, by decide, ⟨st fun c => { c with dbgcfg := 1 }, by decide⟩, ⟨st fun c => c.ws 1 0x10000000, by decide⟩,
   ⟨st fun c => { c.ws 1 61 with waiting := .cmpt [] 64 0 }, by decide⟩, ⟨st fun c => { c with waiting := .cmpt [] 64 0 }, by decide⟩,
   ⟨st fun c => { c with waiting := .cmpt [] 64 0, dbgcfg := 1, timed := [⟨3, false, [(64, 7)], true⟩] }, by decide⟩,
   ⟨st fun c => { c.ws 1 0x10000000 with cur := some (.cmpt 1 2 0), waiting := .until 0 }, by decide⟩,
   fun bad => ⟨st fun c => { c with waiting := .got [1] bad }, by cases bad <;> decide⟩,
   ⟨{ st fun c => { c with waiting := .cmpt [] 0 3 } with now := 3 }, [], by decide⟩,
   ⟨{ st fun c => { c with waiting := .cmpt identityImage 0 3 } with now := 3 }, identityImage, by decide⟩⟩


/-- A state in which it is the turn of engine e, with a word in hand and the stack given. -/
def words (e : EngineId) (stack : List Entry) (f : Core → Core) : State :=
  { live fun c => f (c.modEng e fun g => { g with hand := [⟨0, none, ⟨0, 0, [], []⟩⟩], stack := stack }) with turnEng := e }

theorem witness_engineParameters :
    (∃ s : State, (s.core.eng s.turnEng).stack.length < 8) ∧ (∃ s : State, (s.core.eng s.turnEng).stack.length = 7) ∧
    (∃ s : State, (s.core.eng s.turnEng).stack.length = 8 ∧ (s.core.eng s.turnEng).report = none) ∧ (∃ s : State, (s.core.eng s.turnEng).stack = .int 1 :: [.int 2]) ∧
    (∃ s : State, (s.core.eng s.turnEng).stack = [.int 1] ∧ (s.core.eng s.turnEng).cond = none) ∧
    (∃ s : State, (s.core.eng s.turnEng).stack = [.int 1] ∧ (s.core.eng s.turnEng).cond ≠ none ∧
      (s.core.eng s.turnEng).report = none) ∧
    (∃ s : State, (s.core.eng s.turnEng).stack = [] ∧ (s.core.eng s.turnEng).report = none) ∧
    ∃ s : State, (s.core.eng s.turnEng).stack = .tok (tok 3) :: [] ∧ (s.core.eng s.turnEng).report = none :=
  ⟨⟨words .copy [] id, by decide⟩, ⟨words .copy (List.replicate 7 (.int 1)) id, by decide⟩,
   ⟨words .copy (List.replicate 8 (.int 1)) id, by decide⟩, ⟨words .matrix [.int 1, .int 2] id, by decide⟩,
   ⟨words .matrix [.int 1] id, by decide⟩, ⟨words .matrix [.int 1] fun c => { c with matrix := { c.matrix with cond := some (.gate 0) } }, by decide⟩,
   ⟨words .lantern [] id, by decide⟩, ⟨words .lantern [.tok (tok 3)] id, by decide⟩⟩

/-- A format word of bf16 rows of 16 bytes each side. -/
def bf16 : BitVec 64 := 0x10010011

/-- The hypotheses that every launch shares: its engine's turn, its tag, its start stamp, its tokens. -/
def launches (s : State) (own : EngineId) (tag : BitVec 64) (args : List Entry) (toks : List (Token × Nat × Nat × BitVec 2)) : Prop :=
  s.turnEng = own ∧ (s.core.eng s.turnEng).stack = .int tag :: args ++ [] ∧ tag.toNat < 64 ∧ (s.core.eng s.turnEng).cond = none ∧
    ∀ x, x ∈ toks → s.checkRights x.1 x.2.1 x.2.2.1 x.2.2.2 = .ok

theorem witness_engineLaunches_matrix :
    (∃ (s : State) (i n a b : BitVec 64), s.core.fq = [bf16] ∧ mmaFmtOk false bf16 = true ∧ 1 ≤ n.toNat ∧ n.toNat ≤ 16384 ∧ i.toNat < 8 ∧
      (∀ r, r ∈ (mmaReads false n.toNat a.toNat b.toNat bf16).1 → inScratch r.1 r.2 = true) ∧
      (∀ r, r ∈ (mmaReads false n.toNat a.toNat b.toNat bf16).2 → inScratch r.1 r.2 = true) ∧
      launches s .matrix 63 [.int i, .int n, .int b, .int a] []) ∧
    (∃ (s : State) (i n a b : BitVec 64), s.core.fq = [0x80010011] ∧ mmaFmtOk true 0x80010011 = true ∧ 1 ≤ n.toNat ∧ n.toNat ≤ 16384 ∧
      i.toNat < 8 ∧ (∀ r, r ∈ (mmaReads true n.toNat a.toNat b.toNat 0x80010011).1 → inScratch r.1 r.2 = true) ∧
      (∀ r, r ∈ (mmaReads true n.toNat a.toNat b.toNat 0x80010011).2 → inWeight r.1 r.2 = true) ∧ b.toNat % 128 = 0 ∧
      fwLDB 0x80010011 % 8 = 0 ∧ launches s .matrix 0 [.int i, .int n, .int b, .int a] []) ∧
    ∃ (s : State) (i d : BitVec 64), s.core.fq = [0x40000] ∧ mwbFmtOk 0x40000 = true ∧ i.toNat < 8 ∧ d.toNat % 64 = 0 ∧ fwLDA 0x40000 % 4 = 0 ∧
      inScratch (d.toNat + 16 * fwLDA 0x40000 * 7) (mwbRow 0x40000) = true ∧ launches s .matrix 5 [.int i, .int d] [] :=
  ⟨⟨words .matrix [.int 63, .int 7, .int 8, .int 0x1000, .int 0] fun c => { c with fq := [bf16] }, 7, 8, 0, 0x1000, by decide,
     by decide, by decide, by decide, by decide, by decide, by decide, by unfold launches; decide⟩,
   ⟨words .matrix [.int 0, .int 7, .int 8, .int 0x30000000, .int 0] fun c => { c with fq := [0x80010011] }, 7, 8, 0, 0x30000000, by decide,
     by decide, by decide, by decide, by decide, by decide, by decide, by decide, by decide, by unfold launches; decide⟩,
   ⟨words .matrix [.int 5, .int 7, .int 0x2FFC00] fun c => { c with fq := [0x40000] }, 7, 0x2FFC00, by decide, by decide, by decide, by decide,
     by decide, by decide, by unfold launches; decide⟩⟩

theorem witness_engineLaunches_copy1d : ∃ s : State, (64 : BitVec 64).toNat < 2 ^ 32 ∧ s.core.placeOk (.loc 0x1000) 0 64 = true ∧
    s.core.placeOk (.tok (tok 3) 0x100) 0 64 = true ∧ srcBounds 64 [] = (0, 64) ∧ dstBounds 64 [] = (0, 64) ∧
    launches s .copy 1 [.int 64, .tok (tok 3), .int 0x100, .int 0x1000] (placeTokens (.tok (tok 3) 0x100) 0 64 2) :=
  ⟨words .copy [.int 1, .int 64, .tok (tok 3), .int 0x100, .int 0x1000] id, by unfold launches; decide⟩

theorem witness_engineLaunches_copyNd : ∃ s : State, inScratch 0 32 = true ∧ s.core.pendEng = false ∧
    descOf (s.core.scrRead s.now 0 32) 1 = some (1, [⟨1, 0, 0⟩]) ∧ s.core.placeOk (.loc 0x1000) 0 1 = true ∧
    s.core.placeOk (.loc 0x2000) 0 1 = true ∧ srcBounds 1 [⟨1, 0, 0⟩] = (0, 1) ∧ dstBounds 1 [⟨1, 0, 0⟩] = (0, 1) ∧
    launches s .copy 1 [.int 0, .int 0x2000, .int 0x1000] [] :=
  ⟨words .copy [.int 1, .int 0, .int 0x2000, .int 0x1000] fun c => { c with scr := [(1, 1), (16, 1)] }, by unfold launches; decide⟩

theorem witness_engineLaunches_gather : ∃ s : State, inScratch 0x100 64 = true ∧ s.core.placeOk (.tok (tok 3) 0) 0 0 = true ∧
    s.core.placeOk (.loc 0x1000) 0 64 = true ∧ launches s .copy 1 [.int 0x100, .int 16, .int 0x1000, .tok (tok 3), .int 0] [(tok 3, 0, 0, 1)] :=
  ⟨words .copy [.int 1, .int 0x100, .int 16, .int 0x1000, .tok (tok 3), .int 0] id, by unfold launches; decide⟩

theorem witness_engineLaunches_scatter : ∃ s : State, inScratch 0x100 64 = true ∧ s.core.placeOk (.loc 0x1000) 0 64 = true ∧
    s.core.placeOk (.tok (tok 3) 0) 0 0 = true ∧ launches s .copy 1 [.int 0x100, .int 16, .tok (tok 3), .int 0, .int 0x1000] [(tok 3, 0, 0, 2)] :=
  ⟨words .copy [.int 1, .int 0x100, .int 16, .tok (tok 3), .int 0, .int 0x1000] id, by unfold launches; decide⟩

theorem witness_engineLaunches_wbfill : ∃ s : State, inWeight 0x30000000 0x200000 = true ∧ s.core.placeOk (.loc 0) 0 0x200000 = true ∧
    launches s .copy 1 [.int 16384, .int 0x30000000, .int 0] [] :=
  ⟨words .copy [.int 1, .int 16384, .int 0x30000000, .int 0] id, by unfold launches; decide⟩

theorem witness_engineLaunches_coll : ∃ s : State, s.groupOf 9 = some [(0, 0), (1, 0)] ∧ collBytes .ar 0 4 2 = (16, 16) ∧
    s.core.placeOk (.loc 0) 0 16 = true ∧ s.core.placeOk (.loc 0x1000) 0 16 = true ∧
    launches s .copy 1 [.int 9, .int 4, .int 0x1000, .int 0] [] :=
  ⟨{ words .copy [.int 1, .int 9, .int 4, .int 0x1000, .int 0] id with tasks := [{ task1 with groups := [⟨9, [(0, 0), (1, 0)], []⟩] }] },
    by unfold launches; decide⟩

theorem witness_engineLaunches_lantern :
    (∃ s, launches s .lantern 1 [] []) ∧
    (∃ (s : State) (n i a : BitVec 64), 1 ≤ n.toNat ∧ n.toNat + i.toNat = 128 ∧ a.toNat % 64 = 0 ∧ inScratch a.toNat (128 * n.toNat) = true ∧
      launches s .lantern 1 [.int n, .int i, .int a] []) ∧
    (∃ (s : State) (n : BitVec 64), n.toNat = 1024 ∧ launches s .lantern 1 [.int n] []) ∧
    (∃ (s : State) (a : BitVec 64), a.toNat % 64 = 0 ∧ inScratch a.toNat 256 = true ∧ launches s .lantern 1 [.int a] []) ∧
    (∃ (s : State) (a : BitVec 64), a.toNat % 2 = 0 ∧ inScratch a.toNat (2 * (127 + 1)) = true ∧ launches s .lantern 1 [.int a] []) ∧
    ∃ s : State, s.turnEng ≠ .lantern ∧ (s.core.eng s.turnEng).report = none :=
  ⟨⟨words .lantern [.int 1] id, by unfold launches; decide⟩,
   ⟨words .lantern [.int 1, .int 1, .int 127, .int 64] id, 1, 127, 64, by decide, by decide, by decide, by decide, by unfold launches; decide⟩,
   ⟨words .lantern [.int 1, .int 1024] id, 1024, by decide, by unfold launches; decide⟩,
   ⟨words .lantern [.int 1, .int 0x2FFF00] id, 0x2FFF00, by decide, by decide, by unfold launches; decide⟩,
   ⟨words .lantern [.int 1, .int 0x2FFF00] id, 0x2FFF00, by decide, by decide, by unfold launches; decide⟩, ⟨State.reset, by decide⟩⟩

/-- A held launch of `lwin` under a condition. -/
def heldWin (k : Option Cond) : Launch := ⟨.lwin 5, 3, k, 0, 0, ⟨0, 0, [], []⟩, false⟩
/-- A held write-back of tile 1. -/
def heldMwb (k : Option Cond) : Launch := ⟨.mwb true 1 0 0x40000, 3, k, 0, 0, ⟨0, 0, [], []⟩, false⟩

/-- A held launch of a copy between places. -/
def heldCopy (src dst : Place) : Launch := ⟨.copy 64 [] src dst, 1, none, 0, 0, ⟨0, 0, [], []⟩, false⟩

/-- The Lantern holds a launch, at a value of CALENDAR. -/
def holding (h : Launch) (cal : BitVec 64) (f : Core → Core) : State :=
  st fun c => f { c with calendar := cal, lantern := { c.lantern with held := some h } }

/-- What stands against a start. -/
def free (s : State) (e : EngineId) (h : Launch) : Prop :=
  (s.core.eng e).held = some h ∧ s.core.engFree e s.now = true ∧ s.core.launchLocked h.kind (s.membersOf h.kind) = false ∧
    s.core.tileReady h.kind s.now = true

theorem witness_engineStarts :
    (∃ s h, free s .lantern h ∧ h.cond = none) ∧
    (∃ (s : State) (h : Launch), (s.core.eng .lantern).held = some h ∧ h.cond = none ∧ s.core.engFree .lantern s.now = false) ∧
    (∃ s h m, free s .lantern h ∧ h.cond = some (.gate m) ∧ s.core.tags &&& m = m) ∧
    (∃ s h m, free s .lantern h ∧ h.cond = some (.gate m) ∧ s.core.tags &&& m ≠ m) ∧
    (∃ (s : State) (h : Launch), (s.core.eng .lantern).held = some h ∧ h.cond = some (.stamp 9) ∧ s.core.calendar = 8) ∧
    (∃ (s : State) (h : Launch), (s.core.eng .lantern).held = some h ∧ h.cond = some (.stamp 9) ∧ s.core.calendar = 10) ∧
    (∃ (s : State) (h : Launch), (s.core.eng .lantern).held = some h ∧ h.cond = some (.stamp 9) ∧ s.core.calendar = 9 ∧
      s.core.engFree .lantern s.now = false) ∧
    (∃ (s : State) (h : Launch), (s.core.eng .matrix).held = some h ∧ h.cond = some (.stamp 0) ∧ s.core.calendar = 0 ∧
      s.core.engFree .matrix s.now = true ∧ s.core.launchLocked h.kind (s.membersOf h.kind) = true) ∧
    (∃ s h x, free s .lantern h ∧ h.cond = some (.stamp x) ∧ (x.setWidth 56).toNat = (s.core.calendar.setWidth 56).toNat ∧
      x.getLsbD 63 = true ∧ s.core.tags.getLsbD (x.extractLsb' 56 6).toNat = false) ∧
    (∃ (s : State) (h : Launch), (s.core.eng .matrix).held = some h ∧ h.cond = some (.stamp 0) ∧ s.core.calendar = 0 ∧
      s.core.engFree .matrix s.now = true ∧ s.core.launchLocked h.kind (s.membersOf h.kind) = false ∧ s.core.tileReady h.kind s.now = false) ∧
    (∃ s h x, free s .lantern h ∧ h.cond = some (.stamp x) ∧ (x.setWidth 56).toNat = (s.core.calendar.setWidth 56).toNat ∧
      x.getLsbD 63 = true ∧ s.core.tags.getLsbD (x.extractLsb' 56 6).toNat = true) ∧
    ∃ s h, free s .copy h ∧ h.cond = none ∧ h.kind.total (s.membersOf h.kind) ≠ 0 :=
  ⟨⟨holding (heldWin none) 0 id, heldWin none, by unfold free; decide, rfl⟩,
   ⟨holding (heldWin none) 0 fun c => { c with lantern := { c.lantern with freeAt := 7 } }, heldWin none, by decide⟩,
   ⟨holding (heldWin (some (.gate 2))) 0 fun c => { c with tags := 2 }, heldWin (some (.gate 2)), 2, by unfold free; decide, rfl, by decide⟩,
   ⟨holding (heldWin (some (.gate 2))) 0 id, heldWin (some (.gate 2)), 2, by unfold free; decide, rfl, by decide⟩,
   ⟨holding (heldWin (some (.stamp 9))) 8 id, heldWin (some (.stamp 9)), by decide⟩,
   ⟨holding (heldWin (some (.stamp 9))) 10 id, heldWin (some (.stamp 9)), by decide⟩,
   ⟨holding (heldWin (some (.stamp 9))) 9 fun c => { c with lantern := { c.lantern with freeAt := 7 } }, heldWin (some (.stamp 9)), by decide⟩,
   ⟨st fun c => { c with matrix := { c.matrix with held := some (heldMwb (some (.stamp 0))) }, locks := [⟨.copy, 0, [(0, 64)]⟩] },
     heldMwb (some (.stamp 0)), by decide⟩,
   ⟨holding (heldWin (some (.stamp 0x8100000000000009))) 9 id, heldWin (some (.stamp 0x8100000000000009)), 0x8100000000000009,
     by unfold free; decide, rfl, by decide⟩,
   ⟨st fun c => { c with matrix := { c.matrix with held := some (heldMwb (some (.stamp 0))) }, tileFinal := c.tileFinal.set 1 9 },
     heldMwb (some (.stamp 0)), by decide⟩,
   ⟨holding (heldWin (some (.stamp 0x8100000000000009))) 9 fun c => { c with tags := 2 }, heldWin (some (.stamp 0x8100000000000009)),
     0x8100000000000009, by unfold free; decide, rfl, by decide⟩,
   ⟨st fun c => { c with copy := { c.copy with held := some (heldCopy (.loc 0) (.loc 0x1000)) } },
     heldCopy (.loc 0) (.loc 0x1000), by unfold free; decide, rfl, by decide⟩⟩

/-- A command that has come to the end of its work. -/
def done (k : LaunchKind) (pos : Nat) : Cmd := ⟨4, ⟨k, 3, none, 0, 0, ⟨0, 0, [], []⟩, false⟩, 0, pos, 0, some 0, [], [], [], false, 0, 0, none, none⟩

theorem witness_engineEnds :
    (∃ (s : State) (m : Cmd), s.core.cmd? .matrix 4 = some m ∧ m.doneAt = some 0 ∧ m.launch.kind = .mma true false 0 8 0 0x1000 bf16 0 ∧
      chunkCount bf16 8 ≤ m.pos) ∧
    (∃ (s : State) (m : Cmd), s.core.cmd? .matrix 4 = some m ∧ m.doneAt = some 0 ∧ m.launch.kind = .mwb true 1 0 0x40000 ∧ 8 ≤ m.pos) ∧
    (∃ (s : State) (m : Cmd), s.core.cmd? .lantern 4 = some m ∧ m.doneAt = some 0 ∧ lanternDue m s.now = false ∧ m.launch.kind = .lwin 5) ∧
    (∃ (s : State) (m : Cmd), s.core.cmd? .lantern 4 = some m ∧ m.doneAt = some 0 ∧ lanternDue m s.now = false ∧ m.launch.kind = .lcapV 0) ∧
    (∃ (s : State) (m : Cmd), s.core.cmd? .copy 4 = some m ∧ s.copyReady m = true ∧ m.launch.kind.places.2 = .loc 0x1000 ∧
      regionOf s.core.poolMb 0x1000 = some .scratch) ∧
    (∃ (s : State) (m : Cmd), s.core.cmd? .copy 4 = some m ∧ s.copyReady m = true ∧ m.launch.kind.places.2 = .loc 0x30000000 ∧
      regionOf s.core.poolMb 0x30000000 = some .weight) ∧
    ∃ (s : State) (m : Cmd), s.core.cmd? .copy 4 = some m ∧ s.copyReady m = true ∧ s.core.heldDest m.launch.kind = false :=
  ⟨⟨st fun c => { c with matrix := { c.matrix with running := [done (.mma true false 0 8 0 0x1000 bf16 0) 1] } }, _, rfl, by decide⟩,
   ⟨st fun c => { c with matrix := { c.matrix with running := [done (.mwb true 1 0 0x40000) 8] } }, _, rfl, by decide⟩,
   ⟨st fun c => { c with lantern := { c.lantern with running := [done (.lwin 5) 0] } }, _, rfl, by decide⟩,
   ⟨st fun c => { c with lantern := { c.lantern with running := [done (.lcapV 0) 4] } }, _, rfl, by decide⟩,
   ⟨st fun c => { c with copy := { c.copy with running := [done (.copy 64 [] (.loc 0) (.loc 0x1000)) 64] } }, _, rfl, by decide⟩,
   ⟨st fun c => { c with copy := { c.copy with running := [done (.wbfill 1 (.loc 0) 0x30000000) 128] } }, _, rfl, by decide⟩,
   ⟨st fun c => { c with copy := { c.copy with running := [done (.copy 64 [] (.loc 0) (.tok (tok 3) 0)) 64] } }, _, rfl, by decide⟩⟩

/-- A command of a collective that has read its source. -/
def collCmd (shift : Nat) : Cmd := { done (.coll .ar 0 0 9 4 (.loc 0) (.loc 0x1000)) 16 with shift := shift }

/-- Its task, a group of one with core 0. -/
def collTask : Task := { task1 with groups := [⟨9, [(Config.packageNumber, 0)], []⟩], colls := [⟨9, 1, 0, true, 4, []⟩] }

/-- The core that runs it. -/
def collCore (shift : Nat) : Core :=
  let c := cached State.reset.core
  { c with copy := { c.copy with running := [collCmd shift] } }

/-- A state in which it is to go on. -/
def gathered (shift : Nat) : State := { owned fun _ => collCore shift with tasks := [collTask] }

theorem collCmd_gathered (n : Nat) : (gathered n).collCmd ⟨9, 1, 0, true, 4, []⟩ = some (collCore n, collCmd n) := rfl

theorem collTask_gathered (n : Nat) : (gathered n).task? 1 = some collTask := rfl

theorem core0_gathered (n : Nat) : (gathered n).memberCore 3 (Config.packageNumber, 0) = some 0 := by
  rw [State.memberCore, if_pos rfl]; rfl

theorem ready_gathered (n : Nat) : (gathered n).collReady collTask 9 1 [(Config.packageNumber, 0)] = true := by
  simp only [State.collReady, List.all_cons, List.all_nil, Bool.and_true, show collTask.part = 3 from rfl, core0_gathered]
  rfl

theorem unfailed_gathered (n : Nat) : (gathered n).collFailed collTask 9 1 [(Config.packageNumber, 0)] = false := by
  simp only [State.collFailed, List.any_cons, List.any_nil, Bool.or_false, show collTask.part = 3 from rfl, core0_gathered]
  rfl

theorem witness_engineEnds_collective : ∀ n, n = 0 ∨ n = 1 →
    (gathered n).task? 1 = some collTask ∧ (collTask.groups.find? fun x => x.num = 9) = some ⟨9, [(Config.packageNumber, 0)], []⟩ ∧
    (collTask.colls.filter fun r => r.group = 9 && ((gathered n).collCmd r).isSome) = [⟨9, 1, 0, true, 4, []⟩] ∧
    (gathered n).collCmd ⟨9, 1, 0, true, 4, []⟩ = some (collCore n, collCmd n) ∧ (collCmd n).shift = n ∧
    (n = 1 → (gathered n).collWritten (collCore n) (collCmd n) = true) ∧
    (gathered n).collFailed collTask 9 1 [(Config.packageNumber, 0)] = false ∧
    (gathered n).collReady collTask 9 1 [(Config.packageNumber, 0)] = true :=
  fun n _ => ⟨collTask_gathered n, rfl, rfl, collCmd_gathered n, rfl, fun h => by subst h; decide, unfailed_gathered n, ready_gathered n⟩


/-- An outstanding access of number 0 that is due. -/
def acc (kind : AccKind) (space : Space) (reads : List (Nat × Nat)) (parts : List (List Host.Cell)) (n : Nat) : Access :=
  ⟨0, kind, space, reads, [], parts, n, 0, 2, some 0, 0x10000, 0, 0, .waiting, false, false, none, (none, none), none, none, none⟩

/-- It is the strand's only one. -/
def out (a : Access) (f : Core → Core) : State := live fun c => f { c with acc := [a] }

/-- An exported store of die 0 that die 1 can apply. -/
def export1 : Export := ⟨0, 1, [0, 0, 0, 0], [(0x50000, 7, ⟨1, 1, 0, 1⟩)], 0⟩

theorem die_reset (k : Nat) : State.reset.die k = Die.initial := by
  match k with
  | 0 | 1 | 2 | 3 => rfl
  | _ + 4 => rfl

theorem onePart (s : State) (sp : Space) (cells : List Host.Cell) (n : Nat) :
    (acc .store sp [] [cells] n).parts.getD (s.nextPart (acc .store sp [] [cells] n)) [] = cells := by
  show [cells].getD (Config.pick s.fv % 1) [] = cells
  rw [Nat.mod_one]; rfl

/-- It has come to die 1, where the bytes have the places given. -/
def exporting (marks : SMap Mark) : State :=
  { State.reset with dies := State.reset.dies.set 1 { Die.initial with inbox := [export1], marks := marks } }

theorem witness_storesPerformed :
    (∃ s : State, s.core.timed = [⟨0, false, [(0x100, 1)], true⟩, ⟨9, false, [(0x104, 1)], true⟩]) ∧
    (∃ (s : State) (a : Access), s.core.access? 0 = some a ∧ a.kind = .store ∧ a.space = .own ∧ s.ready a = true ∧
      s.partFree a (a.parts.getD (s.nextPart a) []) = true) ∧
    (∃ (s : State) (a : Access), s.core.access? 0 = some a ∧ a.kind = .store ∧ a.space = .pool 0 ∧ s.ready a = true ∧
      s.partFree a (a.parts.getD (s.nextPart a) []) = true) ∧
    (∃ (s : State) (a : Access), s.core.access? 0 = some a ∧ a.kind = .store ∧ a.space = .main ∧ s.ready a = true ∧ dieOf s.core.phys < 4 ∧
      ∀ y, y ∈ a.parts.getD (s.nextPart a) [] → y.1 < Config.mainMemoryEnd) ∧
    (∃ (s : State) (a : Access), s.core.access? 0 = some a ∧ a.kind = .store ∧ a.space = .lent 2 ∧ (s.bind a).isNone = true ∧
      s.ready a = true) ∧
    (∃ s : State, (∀ q, q ∈ s.cores → q.scr.wf = true ∧ q.wb.wf = true) ∧ (∀ k, (s.die k).pool.wf = true) ∧ (∀ k, (s.die k).view.wf = true) ∧
      s.lentMem.wf = true) ∧
    (∃ s : State, ((s.die 1).inbox.find? fun e => e.src == 0 && s.canApply 1 e) = some export1 ∧ (s.die 1).view.wf = true ∧
      (∀ y z, y ∈ export1.cells → z ∈ export1.cells → y.1 = z.1 → y = z) ∧ markOf (s.die 1).marks 0x50000 = none) ∧
    (∃ s : State, ((s.die 1).inbox.find? fun e => e.src == 0 && s.canApply 1 e) = some export1 ∧
      markOf (s.die 1).marks 0x50000 = some ⟨1, 0, 1, 1⟩ ∧ (⟨1, 0, 1, 1⟩ : Mark).before ⟨1, 1, 0, 1⟩ = true) ∧
    ∃ (s : State) (k : Mark), ((s.die 1).inbox.find? fun e => e.src == 0 && s.canApply 1 e) = some export1 ∧
      markOf (s.die 1).marks 0x50000 = some k ∧ ¬(k.before ⟨1, 1, 0, 1⟩ = true ∨ (k.stamp = 1 ∧ k.seq = 1)) :=
  ⟨⟨st fun c => { c with timed := [⟨0, false, [(0x100, 1)], true⟩, ⟨9, false, [(0x104, 1)], true⟩] }, rfl⟩,
   ⟨out (acc .store .own [] [[(0x100, 1)]] 1) id, _, rfl, by decide⟩, ⟨out (acc .store (.pool 0) [] [[(0x100, 1)]] 1) id, _, rfl, rfl, rfl, by decide, by rw [onePart]; decide⟩,
   ⟨out (acc .store .main [] [[(0x50000, 1)]] 1) id, _, rfl, rfl, rfl, by decide, by decide, fun y h => by
      rw [onePart] at h
      cases h with
      | head => decide
      | tail _ h => cases h⟩,
   ⟨out { acc .store (.lent 2) [] [[(0x50000, 1)]] 1 with port := some (0, 0) } id, _, rfl, by decide⟩,
   ⟨State.reset, by decide, fun k => by rw [die_reset]; decide, fun k => by rw [die_reset]; decide, by decide⟩,
   ⟨exporting [], by decide, by decide, by simp [export1], by decide⟩, ⟨exporting [(0x50000, ⟨1, 0, 1, 1⟩)], by decide⟩,
   ⟨exporting [(0x50000, ⟨2, 0, 1, 1⟩)], ⟨2, 0, 1, 1⟩, by decide⟩⟩

/-- What every clause of a load of one piece asks of an access. -/
def lands (s : State) (a : Access) (r : Nat × Nat) : Prop :=
  a.id = 0 ∧ s.core.access? 0 = some a ∧ a.reads = [r] ∧ 0 < r.2 ∧ a.got = [] ∧ a.poisoned = false ∧ a.badMac = false ∧
    a.space = .main ∧ (s.bind a).isNone = true ∧ s.ready a = true ∧ s.portFree a = true ∧ undecoded a.space [r] = none

/-- What every atomic or `waita` clause asks of an access to main memory. -/
def serialised (s : State) (a : Access) : Prop :=
  a.id = 0 ∧ s.core.access? 0 = some a ∧ a.space = .main ∧ a.stage = .waiting ∧ a.parts = [] ∧
    a.reads = [(a.place.1, a.n)] ∧ s.ready a = true ∧ a.place.1 + a.n ≤ Config.mainMemoryEnd ∧
    s.poisonIn .main a.place.1 a.place.2 = false ∧ s.macBad .main a.place.1 a.place.2 = false ∧ dieOf s.core.phys < 4

/-- A load of two pieces, the bytes given read. -/
def twoPieces (got : List Host.Cell) : Access :=
  { acc (.load (.s 3) true) .main [(0x5007E, 2), (0x50080, 2)] [] 4 with got := got }

/-- One of its pieces is left when none or one is read, none when the other is. -/
theorem witness_pieces :
    (∃ (s : State) (a : Access), s.core.access? 0 = some a ∧ a.isLoad = true ∧ (s.bind a).isNone = true ∧ s.ready a = true ∧ s.portFree a = true ∧
      undecoded a.space a.unread = none ∧
      ({ a with got := a.got ++ cellsAt (s.nextPiece a).1 (s.spaceRead .main (s.nextPiece a).1 (s.nextPiece a).2) } : Access).unread ≠ []) ∧
    ∃ (s : State) (a : Access), s.core.access? 0 = some a ∧ a.isLoad = true ∧ (s.bind a).isNone = true ∧ s.ready a = true ∧ s.portFree a = true ∧
      undecoded a.space a.unread = none ∧ a.got ≠ [] ∧ a.poisoned = false ∧ a.badMac = false ∧ s.poisonIn .main (s.nextPiece a).1 2 = false ∧
      ({ a with got := a.got ++ cellsAt (s.nextPiece a).1 (s.spaceRead .main (s.nextPiece a).1 (s.nextPiece a).2) } : Access).unread = [] := by
  refine ⟨⟨out (twoPieces []) id, twoPieces [], rfl, rfl, rfl, by decide, by decide, by decide, ?_⟩,
    out (twoPieces [(0x5007E, 1), (0x5007F, 1)]) id, twoPieces [(0x5007E, 1), (0x5007F, 1)], rfl, rfl, rfl, by decide, by decide, by decide,
    by decide, rfl, rfl, ?_, ?_⟩
  · have h : (out (twoPieces []) id).nextPiece (twoPieces []) = (0x5007E, 2) ∨ (out (twoPieces []) id).nextPiece (twoPieces []) = (0x50080, 2) := by
      show [(0x5007E, 2), (0x50080, 2)].getD (Config.pick 0 % 2) (0, 0) = (0x5007E, 2) ∨ _
      rcases Nat.mod_two_eq_zero_or_one (Config.pick 0) with h | h
      · left; rw [h]; rfl
      · right
        show [(0x5007E, 2), (0x50080, 2)].getD (Config.pick 0 % 2) (0, 0) = (0x50080, 2)
        rw [h]; rfl
    rcases h with h | h <;> rw [h] <;> decide
  all_goals
    rw [show (out (twoPieces [(0x5007E, 1), (0x5007F, 1)]) id).nextPiece (twoPieces [(0x5007E, 1), (0x5007F, 1)]) = (0x50080, 2) by
      show [(0x50080, 2)].getD (Config.pick 0 % 1) (0, 0) = _
      rw [Nat.mod_one]; rfl]
    decide

/-- One that waits for the memory-side cache alone has its turn there. -/
theorem mscTurn_out (k : AccKind) (r : Nat × Nat) (n : Nat) (f : Core → Core) (hf : ∀ c, f c = c) :
    (out { acc k .main [r] [] n with scope := 3 } f).mscTurn { acc k .main [r] [] n with scope := 3 } = true := by
  simp [State.mscTurn, State.mscBusy, out, live, hf, acc, State.cores, State.reset]


theorem witness_loadsAndAtomics :
    (∃ (s : State) (a : Access), lands s a (0x50000, 4) ∧ a.kind = .load (.s 3) true ∧ s.poisonIn a.space 0x50000 4 = false ∧
      s.macBad a.space 0x50000 4 = false) ∧
    (∃ (s : State) (a : Access), lands s a (0x50000, 4) ∧ a.kind = .load (.s 31) false ∧ s.poisonIn a.space 0x50000 4 = true) ∧
    (∃ (s : State) (a : Access), lands s a (0x50000, 32) ∧ a.kind = .kload 15) ∧
    (∃ (s : State) (a : Access), lands s a (0x50000, 4096) ∧ a.kind = .vload 15 1) ∧
    (∃ (s : State) (a : Access), serialised s a ∧ a.scope.toNat < 3 ∧ a.kind = .atomic 0 3 0 5 ∧ (s.die 0).view.wf = true) ∧
    (∃ (s : State) (a : Access), serialised s a ∧ a.scope.toNat < 3 ∧ a.kind = .atomic 9 3 1 5 ∧ amoWrites 9 0 1 = false) ∧
    (∃ (s : State) (a : Access), serialised s a ∧ a.scope.toNat < 3 ∧ a.kind = .atomic 11 3 5 5 ∧ amoCrosses 4 0 5 5 = true) ∧
    (∀ k ∈ [AccKind.atomic 0 3 0 5, .atomic 9 3 1 5, .atomic 11 3 5 5], ∃ (s : State) (a : Access), serialised s a ∧ 3 ≤ a.scope.toNat ∧
      s.mscTurn a = true ∧ a.kind = k ∧ s.mem.wf = true) ∧
    (∃ (s : State) (a : Access), a.id = 0 ∧ s.core.access? 0 = some a ∧ a.space = .main ∧ a.kind = .atomic 0 3 0 5 ∧
      a.stage = .applied 7 (some (1, 0)) ∧ a.parts = [[(0x50000, 12)]] ∧ a.due ≤ s.now ∧ dieOf s.core.phys < 4 ∧ (s.die 0).view.wf = true ∧
      markOf (s.die 0).marks 0x50000 = none) ∧
    (∀ num, num = none ∨ num = some (1, 0) → ∃ (s : State) (a : Access), s.core.access? 0 = some a ∧ a.kind = .atomic 0 31 0 5 ∧
      a.stage = .applied 7 num ∧ a.parts = [] ∧ a.due ≤ s.now ∧ s.canTravel a = true ∧ a.poisoned = false ∧ a.badMac = false) ∧
    (∃ (s : State) (a : Access), a.id = 0 ∧ s.core.access? 0 = some a ∧ a.kind = .atomic 0 3 0 5 ∧ a.stage = .waiting ∧ a.isToken = false ∧
      s.ready a = true ∧ s.rowFree a = true ∧ (s.spoil a).isNone = true) ∧
    (∃ (s : State) (a : Access), a.id = 0 ∧ s.core.access? 0 = some a ∧ a.kind = .atomic 0 3 0 5 ∧ a.space = .pool 0 ∧ a.stage = .waiting ∧
      a.isToken = false ∧ s.ready a = true ∧ s.rowFree a = true ∧ (s.spoil a).isNone = true) ∧
    (∃ (s : State) (a : Access), serialised s a ∧ a.scope.toNat < 3 ∧ a.kind = .waita 3 0 ∧ s.core.waiting = .waita 0 none ∧
      signed 32 0 ≤ signed 32 (s.wordAt (.slice 0) 0x50000 4)) ∧
    (∃ (s : State) (a : Access), serialised s a ∧ a.scope.toNat < 3 ∧ a.kind = .waita 3 1 ∧ s.core.waiting = .waita 0 none ∧
      ¬signed 32 1 ≤ signed 32 (s.wordAt (.slice 0) 0x50000 4) ∧ s.tableFull (.slice 0) 0x50000 = false) ∧
    (∃ (s : State) (a : Access), serialised s a ∧ a.scope.toNat < 3 ∧ a.kind = .waita 3 1 ∧ s.core.waiting = .waita 0 none ∧
      ¬signed 32 1 ≤ signed 32 (s.wordAt (.slice 0) 0x50000 4) ∧ s.tableFull (.slice 0) 0x50000 = true) ∧
    ∃ (s : State) (a : Access), s.waitExpired = some a ∧ a.id = 0 ∧ s.core.waiting = .waita 0 none :=
  ⟨⟨out (acc (.load (.s 3) true) .main [(0x50000, 4)] [] 4) id, _, ⟨rfl, rfl, rfl, by decide⟩, by decide⟩,
   ⟨{ out (acc (.load (.s 31) false) .main [(0x50000, 4)] [] 4) id with poisonLines := [0xA00] }, _, ⟨rfl, rfl, rfl, by decide⟩, by decide⟩,
   ⟨out (acc (.kload 15) .main [(0x50000, 32)] [] 32) id, _, ⟨rfl, rfl, rfl, by decide⟩, by decide⟩,
   ⟨out (acc (.vload 15 1) .main [(0x50000, 4096)] [] 4096) id, _, ⟨rfl, rfl, rfl, by decide⟩, rfl⟩,
   ⟨out (acc (.atomic 0 3 0 5) .main [(0x50000, 4)] [] 4) id, _, ⟨rfl, rfl, by decide⟩, by decide⟩,
   ⟨out (acc (.atomic 9 3 1 5) .main [(0x50000, 4)] [] 4) id, _, ⟨rfl, rfl, by decide⟩, by decide⟩,
   ⟨out (acc (.atomic 11 3 5 5) .main [(0x50000, 4)] [] 4) id, _, ⟨rfl, rfl, by decide⟩, by decide⟩,
   fun k hk => ⟨out { acc k .main [(0x50000, 4)] [] 4 with scope := 3 } id, { acc k .main [(0x50000, 4)] [] 4 with scope := 3 },
     by simp only [List.mem_cons, List.not_mem_nil, or_false] at hk; rcases hk with rfl | rfl | rfl <;> exact ⟨rfl, rfl, by decide⟩,
     Nat.le_refl 3, mscTurn_out k _ 4 id fun _ => rfl, rfl, rfl⟩,
   ⟨out { acc (.atomic 0 3 0 5) .main [(0x50000, 4)] [[(0x50000, 12)]] 4 with stage := .applied 7 (some (1, 0)) } id, _, rfl, rfl, by decide⟩,
   fun num h => ⟨out { acc (.atomic 0 31 0 5) .main [(0x50000, 4)] [] 4 with stage := .applied 7 num } id, _, rfl, rfl, rfl, rfl,
     Nat.le_refl 0, rfl, rfl, rfl⟩,
   ⟨out (acc (.atomic 0 3 0 5) .own [(0x100, 4)] [] 4) id, _, rfl, rfl, by decide⟩,
   ⟨out (acc (.atomic 0 3 0 5) (.pool 0) [(0x100, 4)] [] 4) id, _, rfl, rfl, by decide⟩,
   ⟨out (acc (.waita 3 0) .main [(0x50000, 4)] [] 4) fun c => { c with waiting := .waita 0 none }, _, ⟨rfl, rfl, by decide⟩, by decide⟩,
   ⟨out (acc (.waita 3 1) .main [(0x50000, 4)] [] 4) fun c => { c with waiting := .waita 0 none }, _, ⟨rfl, rfl, by decide⟩, by decide⟩,
   ⟨{ out (acc (.waita 3 1) .main [(0x50000, 4)] [] 4) fun c => { c with waiting := .waita 0 none } with
      dies := State.reset.dies.set 0 { Die.initial with waiters := List.replicate 64 ⟨9, 0, 0x50000, 4⟩ } }, _, ⟨rfl, rfl, by decide⟩, by decide⟩,
   ⟨{ out { acc (.waita 3 1) .main [(0x50000, 4)] [] 4 with stage := .registered } fun c => { c with waiting := .waita 0 none } with
      now := 0x100000 }, _, rfl, rfl, rfl⟩⟩

/-- A watch report and an engine's report of an earlier cycle. -/
def watch0 : WatchReport := ⟨0, 0, 0, 0, 1⟩
def missed (e : EngineId) : EngineReport := ⟨0, true, e, 1, 7, 9⟩

/-- The core as f makes it, on cycle 5. -/
def at5 (f : Core → Core) : State := { busy f with now := 5 }

theorem witness_reportsDelivered :
    (∃ s : State, s.core.cur = some (.add 1 2 3) ∧ s.core.vigil = 0 ∧ vigilExempt (.add 1 2 3) = false ∧ s.core.waiting.committed = false) ∧
    (∃ s : State, s.core.waiting = .install 3 false ∧ 3 ≤ s.now) ∧
    (∃ s : State, s.core.holdsReports = false ∧ s.core.draining = false ∧ s.core.watchNow = some watch0) ∧
    (∃ s : State, s.core.holdsReports = false ∧ s.core.draining = false ∧ s.core.watchNow = none ∧ s.core.inh = false ∧ (s.core.eng .lantern).report = some (missed .lantern) ∧
      s.core.ripe 0 s.now = true ∧ (s.core.eng .matrix).report = none ∧ (s.core.eng .copy).report = none) ∧
    (∃ s : State, s.core.holdsReports = false ∧ s.core.draining = false ∧ s.core.watchNow = none ∧ s.core.inh = false ∧ (s.core.eng .matrix).report = some (missed .matrix) ∧
      s.core.ripe 0 s.now = true ∧ (s.core.eng .copy).report ≠ none) ∧
    (∃ s : State, s.core.nextReport s.now = some (.read owed1)) ∧ (∃ s : State, s.core.nextReport s.now = some (.reduction owed1)) ∧
    (∃ (s : State) (w : WatchReport), s.core.nextReport s.now = some (.imprecise w)) ∧
    (∃ s : State, s.core.poisonAt s.now = some owed1 ∧ owed1.integrity = false) ∧
    ∃ (s : State) (r : PoisonReport), s.core.poisonAt s.now = some r ∧ r.integrity = true ∧ s.task? s.core.task = some task1 ∧ task1.ending = none :=
  ⟨⟨at5 fun c => { c with cur := some (.add 1 2 3), vigil := 0 }, by decide⟩, ⟨at5 fun c => { c with waiting := .install 3 false }, by decide⟩,
   ⟨at5 fun c => { c with watchNow := some watch0 }, by decide⟩,
   ⟨at5 fun c => { c with lantern := { c.lantern with report := some (missed .lantern) } }, by decide⟩,
   ⟨at5 fun c => { c with matrix := { c.matrix with report := some (missed .matrix) }, copy := { c.copy with report := some (missed .copy) } },
     by decide⟩,
   ⟨at5 fun c => { c with engPoison := [owed1] }, by decide⟩, ⟨at5 fun c => { c with redOwed := [owed1] }, by decide⟩,
   ⟨at5 fun c => { c with watchQ := [⟨1, 0, 0, 0, 1⟩] }, ⟨1, 0, 0, 0, 1⟩, by decide⟩,
   ⟨at5 fun c => { c with cur := some (.add 1 1 1), marks := [(.s 1, owed1)] }, by decide⟩,
   ⟨at5 fun c => { c with cur := some .fenceCo, owed := [{ owed1 with integrity := true, line := some 0xA00 }] },
     { owed1 with integrity := true, line := some 0xA00 }, by decide⟩⟩

/-- Core 0 as saved by a pre-emption, under the number 6. -/
def saved0 (f : Core → Core) : Saved := ⟨6, f { cached State.reset.core with ctx := .idle }, false⟩

/-- The value of SAMPLECFG with the exponent and the ring size at their lower bounds, sampling on. -/
def sample10 : BitVec 64 := 0x80A01

theorem witness_observation :
    (∃ s : State, s.core.sen = true ∧ s.core.headRun = true ∧ (s.core.calendar.toNat + 997 * s.core.vcore) % 2 ^ s.core.sampleExp = 0 ∧
      mapGet s.parts s.core.partId = some part3 ∧ dieOf s.core.phys < 4) ∧
    (∃ s : State, mapGet s.parts 3 = some part3) ∧ (State.reset.boot = .running ∧ State.reset.bootStep = 7) ∧
    (∃ s : State, s.boot ≠ .running) ∧ (∃ s : State, s.boot = .running ∧ s.bootStep ≠ 7) ∧
    (10 ≤ (sample10.extractLsb' 8 5).toNat ∧ 8 ≤ (sample10.extractLsb' 16 5).toNat ∧ (sample10.extractLsb' 8 5).toNat ≤ 24 ∧
      (sample10.extractLsb' 16 5).toNat ≤ 18 ∧ 64 * 2 ^ (sample10.extractLsb' 16 5).toNat ≤ 1 * 0x100000) ∧
    (∃ s : State, mapGet s.parts 3 = some part3 ∧ s.poolOf 3 0 = some 1 ∧ (∀ k, k ∈ s.cores → k.stands 3 0 = false) ∧
      ∀ y, y ∈ s.saved → y.isOf 3 0 = false) ∧
    (∃ s : State, mapGet s.parts 3 = some part3 ∧ s.poolOf 3 0 = some 1 ∧ (∀ k, k ∈ s.cores → k.stands 3 0 = false) ∧
      ∃ y, y ∈ s.saved ∧ y.isOf 3 0 = true) ∧
    (∃ s : State, s.poolOf 3 8 = none) ∧ (∃ s : State, ∃ k, k ∈ s.cores ∧ k.stands 3 0 = true) ∧
    (((0x80901 : BitVec 64).extractLsb' 8 5).toNat = 9) ∧ (((0x70A01 : BitVec 64).extractLsb' 16 5).toNat = 7) ∧
    (((0x81901 : BitVec 64).extractLsb' 8 5).toNat = 25) ∧ (((0x130A01 : BitVec 64).extractLsb' 16 5).toNat = 19) ∧
    (∃ (s : State) (q : Core), s.coreAt 0 = some q ∧ q.ctx = .running) ∧ (∃ (s : State) (q : Core), s.coreAt 0 = some q ∧ q.ctx = .frozen) ∧
    ∃ (s : State) (w : TimedWrite), s.core.ctx = .running ∧ s.core.stopAt = some (s.core.calendar.setWidth 56) ∧ w ∈ s.core.timed ∧
      s.now ≤ w.expose ∧ w.cells = cellsAt 64 [1, 2, 3] :=
  ⟨⟨owned fun c => { c with samplecfg := sample10, headRun := true }, by decide⟩, ⟨owned id, by decide⟩, by decide,
   ⟨{ State.reset with boot := .recovery }, by decide⟩, ⟨{ State.reset with bootStep := 6 }, by decide⟩, by decide,
   ⟨owned fun c => { c with ctx := .idle }, by decide⟩,
   ⟨{ owned fun c => { c with ctx := .idle } with saved := [saved0 id] }, by decide, by decide, by decide, saved0 id, .head _, by decide⟩,
   ⟨owned id, by decide⟩, ⟨owned id, (owned id).core, .head _, by decide⟩, by decide, by decide, by decide, by decide,
   ⟨busy id, _, rfl, rfl⟩, ⟨busy fun c => { c with ctx := .frozen }, _, rfl, rfl⟩,
   ⟨busy fun c => { c with stopAt := some 0, timed := [⟨(busy id).now, false, cellsAt 64 [1, 2, 3], true⟩] }, _, by decide, by decide, .head _,
     by decide, rfl⟩⟩


/-- A descriptor that keeps the limits of R335. -/
def desc0 : Descriptor := ⟨0x10000, 0x100, 0, 0, 0, 0x1000, 0, 1, 0, 0, 1, 0⟩
/-- A TASKS packet of one part, and a REPLAY packet. -/
def tasks0 : Packet := ⟨0, 1, 0, 0, 5, 0, [desc0], 0⟩
def replay0 : Packet := ⟨1, 0, 0, 0, 5, 0, [], 0⟩
/-- A TASKS packet whose second part is bad. -/
def bad1 : Packet := ⟨0, 2, 0, 0, 5, 0, [desc0, { desc0 with entry := 0x100 }], 0⟩
/-- The 64 bytes of a descriptor, by the table of R335. -/
def descBytes (d : Descriptor) : List Byte := natToBytes 8 d.imgVa ++ natToBytes 4 d.imgLen ++ natToBytes 4 d.load ++ natToBytes 4 d.entry ++
  natToBytes 4 d.tvec ++ natToBytes 4 d.sbase ++ natToBytes 4 d.slimit ++ natToBytes 2 d.size ++ natToBytes 1 d.place ++ natToBytes 1 d.z35 ++
  natToBytes 4 d.tlimit ++ natToBytes 24 d.z40
/-- The bytes of a packet, by the table of R339. -/
def message (k : Packet) : List Byte := natToBytes 1 k.kind ++ natToBytes 1 k.nparts ++ natToBytes 1 k.serial ++ natToBytes 1 k.b3 ++
  natToBytes 4 k.cookie ++ natToBytes 8 k.b8 ++ k.parts.flatMap descBytes
/-- An open queue of partition 3. -/
def queue0 : Queue := ⟨3, 0, 4, 1, 9, [], false, false⟩
/-- A packet that waits in it. -/
def waiting0 : QPacket := ⟨1, tasks0, none, [], [], false, none⟩
/-- A state in which partition 3 has that queue and no task runs. -/
def served (q : Queue) : State :=
  { State.reset with parts := [(3, part3)], queues := [q], pot := [(5, ⟨.nonSecure, .part 3, .clear, false⟩)], packetNext := 2 }
/-- An armed entry of partition 3. -/
def arm0 : ArmEntry := ⟨0, 3, 8, 0, tasks0, 64, 0x10000, false, .armed, false⟩

/-- R335, R339: what the bytes of a message stand for. -/
theorem test_packet : Packet.read (message tasks0) = tasks0 ∧ Packet.read (message replay0) = replay0 ∧ Packet.read (message bad1) = bad1 := by
  decide +kernel

theorem witness_launching_submit :
    (∃ s : State, s.boot = .running ∧ s.bootStep = 7 ∧ mapGet s.parts 3 = some part3 ∧ part3.teardown = none ∧ s.openQueue 3 0 = some queue0 ∧
      tasksHeader tasks0 = true ∧ (∀ d, d ∈ tasks0.parts → descOk part3.ncores d = true) ∧ replayHeader replay0 = true ∧
      queue0.packets.length < 1024 ∧ tasksHeader replay0 = false ∧ replayHeader tasks0 = false ∧ tasksHeader bad1 = true ∧
      bad1.parts[1]? = some { desc0 with entry := 0x100 } ∧ descOk part3.ncores { desc0 with entry := 0x100 } = false ∧
      ∀ j c, j < 1 → bad1.parts[j]? = some c → descOk part3.ncores c = true) ∧
    ∃ (s : State) (q : Queue), s.boot = .running ∧ s.bootStep = 7 ∧ mapGet s.parts 3 = some part3 ∧ s.openQueue 3 0 = some q ∧ 1024 ≤ q.packets.length :=
  ⟨⟨served queue0, by decide, by decide, by decide, by decide, by decide, by decide, by decide, by decide, by decide, by decide, by decide, by decide,
     by decide, by decide, fun j c hj h => by
       have : j = 0 := by omega
       subst this; cases h; decide⟩,
   ⟨served { queue0 with packets := List.replicate 1024 waiting0 }, { queue0 with packets := List.replicate 1024 waiting0 }, by decide, by decide,
     by decide, rfl, Nat.le_of_eq List.length_replicate.symm⟩⟩

theorem witness_launching_requests :
    let s := served queue0
    s.scheduling = true ∧ s.queue? 3 1 = none ∧ s.openQueue 3 0 = some queue0 ∧ tasksHeader tasks0 = true ∧ tasks0.nparts = 1 ∧
      (∀ d, d ∈ tasks0.parts → descOk part3.ncores d = true) ∧ (∀ y, y ∈ s.arms → y.part = 3 → y.tag ≠ 8) ∧
      (∃ s : State, s.fw.requests.head? = some (.arm arm0) ∧ s.scheduling = true ∧ s.unacked.length < 128 ∧ s.accepts (.arm arm0) = true) ∧
      (∃ s : State, s.fw.requests.head? = some (.arm arm0) ∧ s.scheduling = true ∧ s.unacked.length < 128 ∧ s.accepts (.arm arm0) = false) ∧
      (nodesOf [⟨descBytes desc0, []⟩] = some [⟨desc0, []⟩]) ∧
      (∃ (p : Partition) (ns : List GraphNode), mapGet p.graphs 0 = some ns ∧ 0 < ns.length ∧ nodeOk p.ncores 0 ⟨desc0, []⟩ = true) ∧
      ∀ (i : Nat) (n : GraphNode), [(⟨desc0, []⟩ : GraphNode)][i]? = some n → nodeOk part3.ncores i n = true :=
  ⟨by decide, by decide, by decide, by decide, by decide, by decide, by decide,
   ⟨{ served queue0 with fw := { State.reset.fw with requests := [.arm arm0] } }, by decide⟩,
   ⟨{ served queue0 with arms := [arm0], fw := { State.reset.fw with requests := [.arm arm0] } }, by decide⟩, by decide +kernel,
   ⟨{ part3 with graphs := [(0, [⟨desc0, []⟩])] }, [⟨desc0, []⟩], by decide⟩, fun i n h => by
     cases i with
     | zero => cases h; decide
     | succ k => cases h⟩

/-- The first 16 bytes of a FIRE message of tag 8. -/
def fire8 : List Byte := [2, 0, 0, 0, 8, 0, 0, 0, 0, 0, 0, 0, 0, 0, 0, 0]

theorem witness_launching_fire : ∃ s : State, s.boot = .running ∧ s.bootStep = 7 ∧ mapGet s.parts 3 = some part3 ∧ part3.teardown = none ∧
    (s.arms.find? fun y => y.part == 3 && y.tag == fireTag fire8 && y.state == .armed) = some arm0 ∧ fire8.length = 16 ∧
      ([7, 9] : List Byte).length ≤ arm0.bufLen ∧ MemoryOk s ∧
      ((pageAt part3.pages 0x10000).bind fun g => pageFrame part3.req.groups g 0x10000) = some 5 :=
  ⟨{ served queue0 with arms := [arm0] }, by unfold MemoryOk; decide⟩

theorem witness_launching_journal :
    (∃ s : State, s.unacked = [.queueCreate 3 1 4 1 9] ∧ s.scheduling = true ∧ s.queue? 3 1 = none ∧ mapGet s.parts 3 = some part3) ∧
    (∃ s : State, s.unacked = [.arm arm0] ∧ s.scheduling = true ∧ s.arms = [] ∧ (s.openQueue arm0.part arm0.queue).isSome = true ∧
      s.bufferOk arm0.part arm0.bufVa arm0.bufLen = true ∧ s.bufferTaken arm0 = false) ∧
    (∃ s : State, s.unacked = [.fire 3 0 9 tasks0 ⟨8, 0, 0x10000, 2⟩] ∧ s.scheduling = true ∧ s.openQueue 3 0 = some queue0 ∧
      ∃ z, z ∈ s.arms ∧ z.part = 3 ∧ z.id = 0) ∧
    (∃ s : State, s.unacked = [.define 3 0 [⟨desc0, []⟩]] ∧ s.scheduling = true ∧ mapGet s.parts 3 = some part3) ∧
    (∃ s : State, s.unacked = [.whole 3 9 5 0 0xFFFFFFFF .busy] ∧ s.scheduling = true ∧ mapGet s.parts 3 = some part3) ∧
    (∃ s : State, (s.winner 3 part3).isSome = true) ∧ (∃ s : State, (s.round 3).isSome = true) ∧ (∃ s : State, (s.round 3).isNone = true) ∧
    (∃ s : State, s.fw.f1Halted = true ∧ s.fw.schedulerF7 = false ∧ s.gangs.any s.gangWaits = false) ∧
    ∃ (s : State) (ms : List (Nat × Nat)), s.task? 1 = some task1 ∧ task1.ending = none ∧ ms.length = 2 ∧
      (∀ m, m ∈ ms → m.1 = Config.packageNumber → ∃ x, mapGet s.parts task1.part = some x ∧ m.2 < x.ncores) ∧
      ∀ g, g ∈ task1.groups → g.num ≠ 9 :=
  ⟨⟨{ served queue0 with fw := { State.reset.fw with journal := [.queueCreate 3 1 4 1 9] } }, by decide⟩,
   ⟨{ served queue0 with fw := { State.reset.fw with journal := [.arm arm0] } }, by decide⟩,
   ⟨{ served queue0 with arms := [arm0], fw := { State.reset.fw with journal := [.fire 3 0 9 tasks0 ⟨8, 0, 0x10000, 2⟩] } }, by decide, by decide,
     by decide, arm0, by decide⟩,
   ⟨{ served queue0 with fw := { State.reset.fw with journal := [.define 3 0 [⟨desc0, []⟩]] } }, by decide⟩,
   ⟨{ served queue0 with fw := { State.reset.fw with journal := [.whole 3 9 5 0 0xFFFFFFFF .busy] } }, by decide⟩,
   ⟨served { queue0 with packets := [waiting0] }, by decide⟩, ⟨served { queue0 with packets := [waiting0] }, by decide⟩,
   ⟨served queue0, by decide⟩, ⟨{ State.reset with fw := { State.reset.fw with f1Halted := true } }, by decide⟩,
   ⟨owned id, [(Config.packageNumber, 0), (Config.packageNumber, 1)], rfl, rfl, rfl, fun m hm _ => by
     simp only [List.mem_cons, List.not_mem_nil, or_false] at hm
     rcases hm with rfl | rfl
     · exact ⟨part3, rfl, by decide⟩
     · exact ⟨part3, rfl, by decide⟩, by decide⟩⟩

/-- A dispatched task whose image is still to be loaded. -/
def coming : Task := { task1 with loaded := false, startedAt := none, desc := desc0 }

/-- Cluster 0, of partition 3. -/
def cluster0 : Cluster := ⟨Vector.replicate 32 (Barrier.initial 1), some 3, none, []⟩

/-- Core 0 is idle, and its context is saved. -/
def restorable (x : Saved) : State :=
  { owned id with core := { State.reset.core with ctx := .idle }, saved := [x], clusters := [(0, cluster0)] }

/-- Partition 3 with its page in the mode m. -/
def moded (m : ProtMode) : Partition := { part3 with pages := [⟨1, 16, 3, m, .main 5⟩] }

/-- What the clauses of the start of a task share: the task, its image translated. -/
def translated (m : ProtMode) (s : State) (x : Token × State) : Prop :=
  s.task? 1 = some coming ∧ coming.ending = none ∧ coming.loaded = false ∧ coming.landed = none ∧ mapGet s.parts coming.part = some (moded m) ∧
    coming.cores.Nodup ∧ coming.cores[0]? = some 0 ∧ s.sweeping coming.part = false ∧
    s.fillFor coming coming.desc.imgVa coming.desc.imgLen 1 = some x

/-- The image is translated to frame 5. -/
theorem translated_coming (m : ProtMode) (s : State)
    (h : s.task? 1 = some coming ∧ mapGet s.parts coming.part = some (moded m) ∧ s.sweeping coming.part = false ∧
      s.xlatPlan coming.part (BitVec.ofNat 64 coming.desc.imgVa) (BitVec.ofNat 64 coming.desc.imgLen) 1 = .ok none 16 m [5]) :
    translated m s (s.fillEntry 3 1 0x10000 0x100 1 none 16 m [5]) := by
  obtain ⟨h1, h2, h3, h4⟩ := h
  refine ⟨h1, rfl, rfl, rfl, h2, by decide, rfl, h3, ?_⟩
  unfold State.fillFor; rw [h4]; rfl

theorem imageLine_main (s : State) {e : AlmanacEntry} (va n : Nat) (x : LineState) (h : e.home = none) :
    s.imageLine e va n x = (e.allRanges va n).findSome? fun r => s.firstLine .main r.1 r.2 x := by
  unfold State.imageLine; rw [h]

/-- What F2 meets as it reads an image that stands in frame 5. -/
theorem imageLine_coming (m : ProtMode) (s : State) (x : LineState) :
    s.imageLine ((s.fillEntry 3 1 0x10000 0x100 1 none 16 m [5]).2.entry
      (s.fillEntry 3 1 0x10000 0x100 1 none 16 m [5]).1.index.toNat) coming.desc.imgVa coming.desc.imgLen x =
      s.firstLine .main 0x50000 0x100 x := by
  rw [State.fillEntry_entry, imageLine_main _ _ _ _ rfl]
  generalize he : AlmanacEntry.allRanges _ _ _ = rs
  have : rs = [(0x50000, 0x100)] := by
    rw [← he]; simp [AlmanacEntry.allRanges, AlmanacEntry.phys, unitsOf, coming, desc0, List.range_succ]
  rw [this, List.findSome?_cons, List.findSome?_nil]; cases s.firstLine .main 0x50000 0x100 x <;> rfl

theorem witness_contexts_start :
    (∃ s x, translated .clear s x ∧ s.imageLine (x.2.entry x.1.index.toNat) coming.desc.imgVa coming.desc.imgLen .poisoned = none ∧
      s.imageLine (x.2.entry x.1.index.toNat) coming.desc.imgVa coming.desc.imgLen .badMac = none) ∧
    (∃ s x, translated .clear s x ∧ s.imageLine (x.2.entry x.1.index.toNat) coming.desc.imgVa coming.desc.imgLen .poisoned ≠ none) ∧
    (∃ s x, translated .integrity s x ∧ s.imageLine (x.2.entry x.1.index.toNat) coming.desc.imgVa coming.desc.imgLen .poisoned = none ∧
      s.imageLine (x.2.entry x.1.index.toNat) coming.desc.imgVa coming.desc.imgLen .badMac ≠ none) ∧
    (∃ (s : State) (t : Task), s.task? 1 = some t ∧ t.ending = none ∧ t.loaded = false ∧ t.landed = none ∧ mapGet s.parts t.part = some part3 ∧
      s.xlatPlan t.part (BitVec.ofNat 64 t.desc.imgVa) (BitVec.ofNat 64 t.desc.imgLen) 1 = .fault 1 0x30000) ∧
    ∃ s : State, s.task? 1 = some task1 ∧ task1.ending = none ∧ task1.startedAt = some 0 ∧ task1.desc.tlimit = 1 ∧ 1 * 1000 ≤ s.time - 0 ∧
      s.scheduling = true ∧ 0 < task1.cores.length ∧ 0 ∉ task1.ended ∧ ∀ j, j < 0 → j ∈ task1.ended :=
  let s : State := { owned id with tasks := [coming] }
  ⟨⟨s, _, translated_coming _ s (by decide), by rw [imageLine_coming]; decide, by rw [imageLine_coming]; decide⟩,
   ⟨{ s with poisonLines := [0xA01] }, _, translated_coming _ _ (by decide), by rw [imageLine_coming]; decide⟩,
   ⟨{ s with macLines := [0xA01], pot := [(5, ⟨.nonSecure, .part 3, .integrity, false⟩)], parts := [(3, moded .integrity)] }, _,
     translated_coming _ _ (by decide),
     by rw [imageLine_coming]; decide, by rw [imageLine_coming]; decide⟩,
   ⟨{ owned id with tasks := [{ coming with desc := { desc0 with imgVa := 0x30000 } }] }, { coming with desc := { desc0 with imgVa := 0x30000 } },
     by decide⟩,
   ⟨{ owned id with now := 4000 }, by decide, by decide, by decide, by decide, by decide, by decide, by decide, by decide, fun j h => by omega⟩⟩

theorem witness_contexts_switch :
    (∃ s : State, ∃ k, k ∈ s.cores ∧ clusterOf k.phys = 0 ∧ k.ctx = .running) ∧
    (∃ s : State, (s.cluster 0).gangSince = some 0 ∧ 8000000 ≤ s.now ∧ s.scheduling = true ∧ s.gangWaits 0 = false ∧ s.saved = [] ∧
      ∃ k, k ∈ s.cores ∧ clusterOf k.phys = 0 ∧ k.ctx = .running ∧ k.preempt = true) ∧
    (∀ stop, stop = none ∨ stop = some 70000 → ∃ s : State, s.core.cur = some (.yield 1 3) ∧ s.core.waiting = .drain ∧ s.core.ctx = .running ∧
      s.core.preempt = true ∧ s.core.dump = false ∧ s.core.drained = true ∧ s.core.late = [] ∧ s.core.reporting s.now = false ∧ s.core.stopAt = stop) ∧
    (∀ f : Core → Core, f = id ∨ f = (fun c => { c with revpend := true, tvec := 0x80 }) →
      let s := restorable (saved0 f)
      let topo := ((mapGet s.parts (saved0 f).core.partId).map fun p => p.vtopo (saved0 f).core.partId (p.virt 0)).getD 0
      s.savedFor 0 6 = some (saved0 f) ∧ s.restoreHeld 0 (saved0 f) = false ∧ (saved0 f).core.phys = 0 ∧
        (s.cluster 0).owner = some (saved0 f).core.partId ∧ State.restoreMask { s with core := { (saved0 f).core with vtopo := topo } } = 0) ∧
    let x := { saved0 id with damaged := true }
    (restorable x).savedFor 0 6 = some x ∧ (restorable x).restoreHeld 0 x = false ∧ x.core.phys = 0 ∧
      ((restorable x).cluster 0).owner = some x.core.partId ∧ (restorable x).task? x.core.task = some task1 ∧ task1.ending = none :=
  ⟨⟨owned id, _, .head _, rfl, rfl⟩,
   ⟨{ owned fun c => { c with preempt := true } with now := 8000000, clusters := [(0, { cluster0 with gangSince := some 0 })] }, by decide, by decide,
     by decide, by decide, by decide, _, .head _, rfl, rfl, rfl⟩,
   fun stop h => ⟨busy fun c => { c with cur := some (.yield 1 3), waiting := .drain, preempt := true, stopAt := stop },
     by rcases h with rfl | rfl <;> decide⟩,
   fun f h => by
     rcases h with rfl | rfl
     · exact ⟨rfl, by decide, rfl, rfl, by decide +kernel⟩
     · exact ⟨rfl, by decide, rfl, rfl, by decide +kernel⟩, rfl, by decide, rfl, rfl, rfl, rfl⟩


/-- Core 0 with an invalidate of entry 0, due on cycle d, posted on cycle 0. -/
def swept (d : Nat) (f : Core → Core) : State := { busy fun c => f { c with sweeps := [(0, d, 0)] } with now := 40000000 }

theorem witness_revocation_sweep :
    (∃ s : State, (s.entry 0).state = .active ∧ (s.entry 0).gen = 1) ∧ (∃ s : State, (s.entry 0).state = .active ∧ (s.entry 0).gen = 0xFFF) ∧
    (∃ s : State, (s.entry 7).state ≠ .active) ∧
    (∃ (s : State) (q : Core), s.coreAt 0 = some q ∧ q.sweepOf 0 = some (0, 5, 0) ∧ 5 ≤ s.now ∧ q.waiting = .none) ∧
    (∃ (s : State) (q : Core) (a : Access), s.coreAt 0 = some q ∧ q.sweepOf 0 = some (0, 5, 0) ∧ 5 ≤ s.now ∧ q.waiting = .waita a.id none ∧
      q.access? a.id = some a ∧ a.index = some 0) ∧
    (∃ (s : State) (q : Core), s.coreAt 0 = some q ∧ q.sweepOf 0 = some (0, 0, 0) ∧ q.usesIndex 0 = false) ∧
    (∃ (s : State) (q : Core), s.coreAt 0 = some q ∧ q.sweepOf 0 = some (0, 0, 0) ∧ q.usesIndex 0 = true ∧ 0 + 40000000 ≤ s.now) ∧
    (∃ (s : State) (q : Core) (h : Launch), s.coreAt 0 = some q ∧ q.sweepOf 0 = some (0, 0, 0) ∧ 0 + 40000000 ≤ s.now ∧ q.copy.held = some h ∧
      0 ∈ launchPins h.kind ∧ q.pinHolders 0 = []) ∧
    (∃ (s : State) (q : Core) (h : Launch), s.coreAt 0 = some q ∧ q.sweepOf 0 = some (0, 0, 0) ∧ 0 + 40000000 ≤ s.now ∧ q.copy.held = some h ∧
      h.kind = .coll .ar 0 0 9 4 (.tok (tok 3) 0) (.loc 0) ∧ 0 ∈ launchPins h.kind ∧ s.task? q.task = some task1) ∧
    (∃ s : State, (s.entry 0).state = .revoking ∧ ∀ k, k ∈ s.cores → ∀ y, y ∈ k.sweeps → y.1 ≠ 0) ∧
    ∃ s : State, (s.entry 0).quarantined = true ∧ (s.entry 0).state = .free ∧ (∀ t, t ∈ s.tasks → (s.entry 0).made ≤ t.id) ∧
      3 ∈ (s.entry 0).owners ∧ mapGet s.parts 3 = some part3 :=
  ⟨⟨live id, by decide⟩, ⟨{ live id with almanac := [(0, { entry0 with gen := 0xFFF })] }, by decide⟩, ⟨live id, by decide⟩,
   ⟨swept 5 id, _, rfl, rfl, by decide, rfl⟩,
   ⟨swept 5 fun c => { c with acc := [acc (.waita 3 1) .main [(0x50000, 4)] [] 4], waiting := .waita 0 none }, _,
     acc (.waita 3 1) .main [(0x50000, 4)] [] 4, rfl, rfl, by decide, rfl, rfl, rfl⟩,
   ⟨swept 0 id, _, rfl, rfl, by decide⟩, ⟨swept 0 fun c => { c with acc := [store0] }, _, rfl, rfl, by decide, by decide⟩,
   ⟨swept 0 fun c => { c with copy := { c.copy with held := some (heldCopy (.tok (tok 3) 0) (.loc 0)) } }, _,
     heldCopy (.tok (tok 3) 0) (.loc 0), rfl, rfl, by decide, rfl, by decide, by decide⟩,
   ⟨swept 0 fun c => { c with copy := { c.copy with held := some ⟨.coll .ar 0 0 9 4 (.tok (tok 3) 0) (.loc 0), 1, none, 0, 0, ⟨0, 0, [], []⟩, false⟩ } },
     _, _, rfl, rfl, by decide, rfl, rfl, by decide, rfl⟩,
   ⟨{ live id with almanac := [(0, { entry0 with state := .revoking })] }, by decide⟩,
   ⟨{ owned id with almanac := [(0, { entry0 with state := .free, quarantined := true })] }, by decide⟩⟩

/-- A grant of frames 131072 and 131073, of channel group 2, to package 2, and its reclaim under way. -/
def grant0 : Grant := ⟨2, 131072, 2, none, some 0⟩
def reclaimed : Grant := { grant0 with reclaim := some 0 }

/-- The page of partition 3 lent to it by package 2. -/
def lentPart : Partition := { part3 with pages := [⟨1, 16, 3, .clear, .lent 2 131072⟩] }

/-- The page of partition 3 in frame 131072, of channel group 2, in the mode m. -/
def page5 (m : ProtMode) : PageMap := ⟨1, 16, 3, m, .main 131072⟩

/-- Partition 3 with that page; nothing pins it. -/
def unpinned (m : ProtMode) : State :=
  { State.reset with parts := [(3, { part3 with pages := [page5 m] })], pot := [(131072, ⟨.nonSecure, .part 3, m, false⟩)] }

/-- Partition 3 with its page in flash and a free frame. -/
def inFlash : Partition :=
  { part3 with req := { part3.req with groups := [2, 3] }, pages := [⟨1, 16, 3, .clear, .flash 0⟩], frames := [131072] }

theorem witness_revocation_moves :
    (∃ (s : State) (g : PageMap), mapGet s.parts 3 = some part3 ∧ pageAt part3.pages 0x10000 = some g ∧ s.pinned 3 g = true ∧
      s.placeOk 3 part3 g (.flash 0) = true ∧ (3, 0x10000, .flash 0) ∉ s.moves) ∧
    (∃ (s : State) (g : PageMap), mapGet s.parts 3 = some part3 ∧ pageAt part3.pages 0x10000 = some g ∧ s.placeOk 3 part3 g (.main 5) = false) ∧
    (∃ (s : State) (g : PageMap), mapGet s.parts 3 = some part3 ∧ pageAt part3.pages 0x10000 = some g ∧ s.pinned 3 g = false ∧
      s.pageOwned 3 part3.req.groups g = false) ∧
    (∃ (s : State) (p : Partition) (g : PageMap), mapGet s.parts 3 = some p ∧ pageAt p.pages 0x10000 = some g ∧ s.pinned 3 g = false ∧
      s.pageOwned 3 p.req.groups g = true ∧ s.placeOk 3 p g (.main 131072) = true) ∧
    ∀ m, let p : Partition := { part3 with pages := [page5 m] }
      mapGet (unpinned m).parts 3 = some p ∧ pageAt p.pages 0x10000 = some (page5 m) ∧ (unpinned m).pinned 3 (page5 m) = false ∧
      (unpinned m).placeOk 3 p (page5 m) (.flash 0) = true ∧ (unpinned m).pageOwned 3 [] (page5 m) = true ∧
      pageBad p (page5 m) = false ∧
      ({ unpinned m with poisonLines := [0x4000000] } : State).pageLine [] (page5 m) .poisoned ≠ none ∧
      (unpinned m).pageLine [] (page5 m) .poisoned = none ∧ (unpinned m).pageLine [] (page5 m) .badMac = none ∧
      (m = .integrity → ({ unpinned m with macLines := [0x4000000] } : State).pageLine [] (page5 m) .badMac = some 0x4000000) :=
  ⟨⟨owned id, ⟨1, 16, 3, .clear, .main 5⟩, by decide⟩, ⟨served queue0, ⟨1, 16, 3, .clear, .main 5⟩, by decide⟩,
   ⟨{ served queue0 with pot := [] }, ⟨1, 16, 3, .clear, .main 5⟩, by decide⟩,
   ⟨{ State.reset with parts := [(3, inFlash)], pot := [(131072, ⟨.nonSecure, .part 3, .clear, false⟩)] }, inFlash,
     ⟨1, 16, 3, .clear, .flash 0⟩, by decide⟩, fun m => by
    cases m <;> decide +kernel⟩

/-- Partition 3 with a frame in the first of its two channel groups. -/
def twoGroups : Partition := { part3 with req := { part3.req with groups := [2, 3] }, frames := [131072] }

/-- Partition 3 with a page of 2 MiB in channel group 2 alone. -/
def hugePart : Partition := { part3 with req := { part3.req with groups := [2] }, pages := [⟨0, 21, 3, .clear, .main 131072⟩] }

theorem noSession (pkg : Nat) : State.reset.sessionWith pkg = false := by
  have none' : ∀ n, ((State.reset.ports[n]?).any fun x : Port => !decide (x.session = 0)) = false := fun n => by
    by_cases h : n < 16
    · rw [Vector.getElem?_eq_getElem h]; simp [State.reset, Port.initial]
    · rw [Vector.getElem?_eq_none (by omega)]; rfl
  simp [State.sessionWith, none']

theorem witness_revocation_frames :
    (131072 + 2) * 65536 ≤ Config.mainMemoryEnd ∧
    (∃ s : State, s.serves = true ∧ s.sessionWith 2 = false ∧ 2 ≤ channelGroup 131072 ∧
      ∀ f, 131072 ≤ f → f < 131072 + 2 → (s.potOf f).owner = .free ∧ (s.potOf f).transition = false) ∧
    (∃ s : State, s.serves = false) ∧
    (Config.portReaches 0 2 = true → ∃ s : State, s.serves = true ∧ s.sessionWith 2 = true) ∧
    (∃ s : State, ∃ g, g ∈ s.grants ∧ g.pkg = 2 ∧ g.lo = 131072 ∧ g.count = 2 ∧ g.reclaim = none) ∧
    (∃ s : State, s.grants = [] ∧ ∃ x, x ∈ s.parts ∧ pagesLent x.2 2 131072 2 ≠ []) ∧
    (∃ s : State, (s.grants.find? fun g => g.pkg == 2 && g.lo == 131072 && g.count == 2 && g.reclaim.isSome) = some reclaimed) ∧
    (∃ s : State, (s.grants.find? fun g => g.pkg == 2 && g.lo == 131072 && g.count == 2
      && (g.reclaim.map fun t => decide (t + 400000000 ≤ s.now)).getD false) = some reclaimed) ∧
    (∃ s : State, (s.potOf 5).transition = true) ∧ (∃ s : State, (s.potOf 5).owner = .firmware) ∧
    channelGroup 131071 < 2 ∧
    (∃ (s : State) (x : Partition), mapGet s.parts 3 = some x ∧ x.teardown ≠ none) ∧
    (∃ (s : State) (x : Partition), mapGet s.parts 3 = some x ∧ x.teardown = none ∧ (s.potOf 131073).owner ≠ .part 3 ∧
      channelGroup 131073 ≠ s.nextGroup 3 x ∧ s.potOk (s.potFrames 196608) (.part 3) = true) ∧
    (∃ s : State, (s.potOf 5).owner = .part 3 ∧ FrameOwner.free ≠ .part 3 ∧ s.framesLeft 3 < 65600 + (s.potFrames 5).length) ∧
    (∃ s : State, s.potFrames 131073 = (List.range 32).map fun i => 131072 + i) ∧
    ∃ s : State, s.potOk (s.potFrames 131072) .free = true ∧ 0 ∈ s.pinsFrames (s.potFrames 131072) ∧ (s.entry 0).state = .active :=
  ⟨by decide, ⟨State.reset, by decide, noSession 2, by decide, fun f h1 h2 => by
     rcases (by omega : f = 131072 ∨ f = 131073) with rfl | rfl <;> decide⟩, ⟨{ State.reset with bootStep := 6 }, by decide⟩,
   fun h => ⟨{ State.reset with ports := State.reset.ports.set 0 { Port.initial with session := 1 } }, by decide, by
     refine List.any_eq_true.mpr ⟨0, by decide, ?_⟩
     rw [h]; decide⟩, ⟨{ State.reset with grants := [grant0] }, grant0, .head _, by decide⟩,
   ⟨{ State.reset with parts := [(3, lentPart)] }, rfl, (3, lentPart), by decide⟩, ⟨{ State.reset with grants := [reclaimed] }, rfl⟩,
   ⟨{ State.reset with grants := [reclaimed], now := 400000000 }, rfl⟩,
   ⟨{ State.reset with pot := [(5, ⟨.nonSecure, .part 3, .clear, true⟩)] }, by decide⟩,
   ⟨{ State.reset with pot := [(5, ⟨.secure, .firmware, .clear, false⟩)] }, by decide⟩, by decide,
   ⟨{ served queue0 with parts := [(3, { part3 with teardown := some ⟨9, 1⟩ })] }, _, rfl, by decide⟩,
   ⟨{ State.reset with parts := [(3, twoGroups)] }, twoGroups, by decide⟩, ⟨owned id, by decide⟩,
   ⟨{ State.reset with parts := [(3, hugePart)], pot := [(131073, ⟨.nonSecure, .part 3, .clear, false⟩)] }, by decide +kernel⟩, ⟨{ live id with almanac := [(0, { entry0 with frames := [131072] })] }, by decide⟩⟩

/-- The page of partition 3 in the integrity mode, in a flash block that fails its MAC. -/
def badPart : Partition := { part3 with pages := [⟨1, 16, 3, .integrity, .flash 0⟩], badBlocks := [0] }

theorem witness_revocation_badPage :
    ∃ (s : State) (g : PageMap), mapGet s.parts 3 = some badPart ∧ pageAt badPart.pages 0x10000 = some g ∧ s.pinned 3 g = false ∧
      s.placeOk 3 badPart g (.main 5) = true ∧ pageBad badPart g = true :=
  ⟨{ State.reset with parts := [(3, badPart)], pot := [(5, ⟨.nonSecure, .part 3, .clear, false⟩)] },
    ⟨1, 16, 3, .integrity, .flash 0⟩, by decide⟩

theorem test_badPage :
    let s := { State.reset with parts := [(3, badPart)], pot := [(5, ⟨.nonSecure, .part 3, .clear, false⟩)] }
    (match execPageMove 3 0x10000 (.main 5) s with
      | .next u => (mapGet u.parts 3).map (·.pages) == some [] && u.trust.secLog.length == 1
      | _ => false) = true := by decide

/-- Port 0 as given. -/
def ported (x : Port) : State := { State.reset with ports := State.reset.ports.set 0 x }

/-- A port whose directions are in the states given. -/
def links (t r : PortState) : Port := { Port.initial with tx := { Link.initial with state := t }, rx := { Link.initial with state := r } }

/-- A port whose directions have had a rekey under way since cycle 0. -/
def rekeys : Port := { Port.initial with tx := { Link.initial with rekeySince := some 0 }, rx := { Link.initial with rekeySince := some 0 } }

theorem witness_fabric_ports :
    (∀ x, (ported x).ports[0]? = some x) ∧
    (∀ dir a, (a = .down ∨ a = .training) → ∃ x : Port, (x.link dir).state = a) ∧
    (∃ x : Port, x.tx.state = .keying ∨ x.rx.state = .keying) ∧
    (∀ dir, ∃ x : Port, (x.link dir).state = .keying ∧ x.session ≠ 0) ∧
    (∃ x : Port, x.rx.state = .up ∧ x.rx.rekeySince = none ∧ x.failures = 2 ∧ x.rx.rekey = 0 ∧ x.rx.ctr = 0 ∧ x.rx.seq = 0 ∧
      (x.rx.seq - 0xFFFF).toNat = 1 ∧ (x.rx.seq - 0xFE00).toNat = 512 ∧ (x.rx.seq - 0xFDFF).toNat = 513) ∧
    (∀ dir, (rekeys.link dir).rekeySince = some 0 ∧ (rekeys.link dir).state = .up ∧ ∃ s : State, s.ports[0]? = some rekeys ∧ 0 + 4000000 ≤ s.now) ∧
    (∃ x : Port, (mapGet x.acked 2).getD 0 ≤ 0 ∧ 0 < (mapGet x.nextSeq 2).getD 0) ∧
    (∃ s : State, s.flitRoom 0 = true ∧ ∃ c y, c ∈ s.cores ∧ y ∈ c.acc ∧ y.space = .lent 2 ∧ y.port = some (0, 0)) ∧
    (∃ s : State, s.flitRoom 0 = true ∧ ∃ c y, c ∈ s.cores ∧ y ∈ c.acc ∧ y.space = .lent 2 ∧ y.port2 = some (0, 0)) ∧
    (∃ s : State, s.coreAt 0 = some s.core ∧ s.core.access? 0 = some remote0 ∧ remote0.lent = true ∧ remote0.crossing = false ∧
      remote0.port = some (0, 0) ∧ s.ports[0]? = some (links .down .up) ∧ (links .down .up).downSince + 200000000 ≤ s.now ∧
      s.requestLost remote0 = true) ∧
    ∃ s : State, s.coreAt 0 = some s.core ∧ s.core.access? 0 = some remote0 ∧ s.requestLost remote0 = false :=
  ⟨fun _ => rfl, fun dir a _ => ⟨links a a, by cases dir <;> rfl⟩, ⟨links .keying .up, .inl rfl⟩,
   fun dir => ⟨{ links .keying .keying with session := 1 }, by cases dir <;> decide⟩, ⟨{ Port.initial with failures := 2 }, by decide⟩,
   fun dir => ⟨by cases dir <;> rfl, by cases dir <;> rfl, { ported rekeys with now := 4000000 }, rfl, by decide⟩,
   ⟨{ Port.initial with nextSeq := [(2, 1)] }, by decide⟩,
   ⟨out remote0 id, by decide, _, remote0, .head _, .head _, rfl, rfl⟩,
   ⟨out { remote0 with port2 := some (0, 0) } id, by decide, _, _, .head _, .head _, rfl, rfl⟩,
   ⟨{ ported (links .down .up) with core := (out remote0 id).core, now := 200000000 }, rfl, by decide⟩, ⟨out remote0 id, rfl, by decide⟩⟩

/-- A request of package 2 to a granted word. -/
def request (op : RemoteOp) : RemoteRequest := ⟨2, 0, 0, 7, some 0, 0x200000000, 4, op⟩
/-- A state that grants it. -/
def lending (f : List FilterEntry) : State := { State.reset with grants := [grant0], filter := f }
/-- The reply kept for it. -/
def reply0 : FilterEntry := ⟨sliceOf (request .load), 2, 0, 7, .data 2 0 7 9⟩

theorem cached_reply0 (f : List FilterEntry) : (lending (reply0 :: f)).cached (request .load) = some reply0 := by
  refine List.find?_cons_of_pos ?_
  show (sliceOf (request .load) == sliceOf (request .load) && true && true && true) = true
  rw [beq_self_eq_true]; rfl

theorem full_reply (x : FilterEntry) (h : x.slice = sliceOf (request .load)) :
    (lending (List.replicate 4096 x)).filterFull (request .load) = true := by
  refine decide_eq_true ?_
  rw [List.filter_eq_self.mpr fun y hy => ?_]
  · exact Nat.le_of_eq List.length_replicate.symm
  · rw [List.eq_of_mem_replicate hy, h]; exact beq_self_eq_true _

theorem uncached_reply (n : Nat) : (lending (List.replicate n { reply0 with port := 1 })).cached (request .load) = none := by
  refine List.find?_eq_none.mpr fun x hx => ?_
  rw [List.eq_of_mem_replicate hx]
  show ¬(sliceOf (request .load) == sliceOf (request .load) && true && false && true) = true
  rw [Bool.and_false, Bool.false_and]; exact Bool.false_ne_true

/-- Every request of these is to a word that is granted and not poisoned, and has no reply kept. -/
theorem request_known (op : RemoteOp) : (lending []).granted (request op) = true ∧ (lending []).cached (request op) = none ∧
    (lending []).filterFull (request op) = false ∧ (lending []).poisonIn .main 0x200000000 4 = false :=
  ⟨rfl, rfl, rfl, by decide⟩

/-- Every port is DOWN. -/
def silent : State := { State.reset with ports := Vector.replicate 16 (links .down .down) }

theorem carries_silent (pkg : Nat) : silent.carries pkg = false := by
  have shut : ∀ n, ((silent.ports[n]?).any fun x : Port => x.goes) = false := fun n => by
    by_cases h : n < 16
    · rw [Vector.getElem?_eq_getElem h]; simp [silent, links, Port.goes]
    · rw [Vector.getElem?_eq_none (by omega)]; rfl
  simp only [State.carries, shut, Bool.and_false, List.any_eq_false]; simp

theorem witness_fabric_requests :
    (∃ s : State, s.granted (request .load) = false) ∧ (∃ s : State, s.granted (request (.store 1)) = false) ∧
    (∃ s : State, s.granted (request .load) = true ∧ s.cached (request .load) = some reply0) ∧
    (∃ s : State, s.granted (request .load) = true ∧ s.cached (request .load) = none ∧ s.filterFull (request .load) = true) ∧
    (∀ op, ∃ s : State, s.granted (request op) = true ∧ s.cached (request op) = none ∧ s.filterFull (request op) = false ∧
      s.poisonIn .main 0x200000000 4 = false) ∧
    (∀ op, ∃ s : State, s.granted (request op) = true ∧ s.cached (request op) = none ∧ s.filterFull (request op) = false ∧
      s.poisonIn .main 0x200000000 4 = true) ∧
    (∃ s : State, s.carries 2 = false) ∧ (Config.portReaches 0 2 = true → (lending []).carries 2 = true) ∧
    (∃ s : State, (s.remoteWaits.any fun y => y.pkg == 2 && y.port == 0 && y.seq == 6 && remotePoint y == remotePoint (request (.withdraw 6)))
      = true) ∧
    (∃ s : State, signed (8 * 4) 0 ≤ signed (8 * 4) (s.wordAt (remotePoint (request (.register 0))) 0x200000000 4)) ∧
    (∃ s : State, signed (8 * 4) (s.wordAt (remotePoint (request (.register 1))) 0x200000000 4) < signed (8 * 4) 1 ∧
      s.tableFull (remotePoint (request (.register 1))) 0x200000000 = false) ∧
    ∃ pkg : Nat, pkg ≠ Config.packageNumber :=
  ⟨⟨State.reset, by decide⟩, ⟨State.reset, by decide⟩, ⟨lending [reply0], by decide, cached_reply0 _⟩,
   ⟨lending (List.replicate 4096 { reply0 with port := 1 }), by decide, uncached_reply _, full_reply _ rfl⟩,
   fun op => ⟨lending [], request_known op⟩,
   fun op => ⟨{ lending [] with poisonLines := [0x4000000] }, (request_known op).1, (request_known op).2.1, (request_known op).2.2.1, by decide⟩,
   ⟨silent, carries_silent 2⟩, fun h => List.any_eq_true.mpr ⟨0, by decide, by rw [h]; decide⟩,
   ⟨{ lending [] with remoteWaits := [{ request (.register 1) with seq := 6 }] }, by decide⟩,
   ⟨State.reset, by decide⟩, ⟨State.reset, by decide, rfl⟩, ⟨Config.packageNumber + 1, by omega⟩⟩

/-- A reply waits, and only port 0 is UP. -/
def replying : State :=
  { State.reset with ports := (Vector.replicate 16 (links .down .down)).set 0 Port.initial, outbox := [(0, .ack 2 0 0)] }

/-- A reply leaves where port 0 has a path to the package (which ports have one is the configuration's). -/
theorem witness_fabric_reply (h : Config.portReaches 0 2 = true) : replying.replyStep.isSome = true := by
  have goes : ∀ p, p < 16 → ((replying.ports[p]?).any fun x => x.goes) = decide (p = 0) := by decide
  have ways : ((List.range 16).filter fun p => ((replying.ports[p]?).any fun x => x.goes) && Config.portReaches p 2) = [0] := by
    have : ((List.range 16).filter fun p => ((replying.ports[p]?).any fun x => x.goes) && Config.portReaches p 2)
        = (List.range 16).filter fun p => decide (p = 0) := by
      refine List.filter_congr fun p hp => ?_
      rw [goes p (List.mem_range.mp hp)]
      by_cases h0 : p = 0
      · subst h0; simp [h]
      · simp [h0]
    rw [this]; decide
  have way : replying.portFor 2 0 = some 0 := by
    unfold State.portFor; rw [ways]; simp [Nat.mod_one]
  have leaves : (replying.portFor (Reply.pkg (.ack 2 0 0)) 0).filter replying.flitRoom = some 0 := by
    show (replying.portFor 2 0).filter replying.flitRoom = some 0
    rw [way]; decide
  unfold State.replyStep
  rw [show replying.outbox = [(0, .ack 2 0 0)] from rfl, List.findSome?_cons, leaves]; rfl

/-- Options of a connection that the module supports. -/
def uet0 : UetOptions := ⟨true, false, false, false, false, false, true, false, 4096, 2 ^ 24, 4096⟩

/-- Switch 1, attested, with the keys given. -/
def switch1 (keys : List Nat) : Switch := ⟨1, 7, 42, some 0, keys⟩

theorem witness_fabric_switches :
    (∃ s : State, s.switch? 1 = some (switch1 []) ∧ 3 ∉ (switch1 []).keys ∧
      (∃ t, (switch1 []).attestedAt = some t ∧ s.now ≤ t + 24 * 3600 * 4000000000) ∧
      ∃ p : Partition, mapGet s.parts 3 = some p ∧ p.jobKey ≠ none ∧ (7, 42) ∈ p.req.policy) ∧
    (∃ s : State, s.switch? 1 = some (switch1 [3]) ∧ 3 ∈ (switch1 [3]).keys ∧ s.core.partId = 3) ∧
    (∃ s : State, s.switch? 1 = some (switch1 [3]) ∧ s.core.partId ≠ 3) ∧
    (∃ (s : State) (op : UetOptions), s.boot = .running ∧ s.bootStep = 7 ∧ 4 ∉ s.uet ∧ (op.unordered = true ∨ op.ordered = true) ∧
      op.unreliable = false ∧ op.idempotent = false ∧ op.other = false ∧ op.remoteAccess = false ∧ op.encrypted = true ∧
      op.receiverCredit = false ∧ op.mtu ≤ 4096 ∧ op.messageBytes ≤ 2 ^ 24 ∧ op.inFlight ≤ 4096) ∧
    (∃ op : UetOptions, op.encrypted = false) ∧
    ∃ s : State, s.ptp.locked = false ∧ s.boot = .running ∧ s.bootStep = 6 ∧ s.ptp.domain = 0 :=
  let part : Partition := { part3 with req := { part3.req with policy := [(7, 42)] } }
  ⟨⟨{ State.reset with switches := [switch1 []], parts := [(3, part)] }, rfl, by decide, ⟨0, by decide⟩, part, by decide⟩,
   ⟨{ live id with switches := [switch1 [3]] }, by decide⟩, ⟨{ State.reset with switches := [switch1 [3]] }, by decide⟩,
   ⟨State.reset, uet0, by decide⟩, ⟨{ uet0 with encrypted := false }, rfl⟩,
   ⟨{ State.reset with ptp := ⟨0, false, false, 0⟩, bootStep := 6 }, by decide⟩⟩

/-- A request of the smallest partition, with n frames of channel groups 2 and 3. -/
def smallest (n : Nat) : PartitionRequest :=
  ⟨3, 7, .nonSecure, [0], [64], 4096, 1, [2, 3], (List.range n).map (nthFrame [2, 3] 131072), 0, 0, [], []⟩

/-- They go to and fro between the two groups. -/
theorem nthFrame_two (i : Nat) : nthFrame [2, 3] 131072 i = (2 + i % 2) * 65536 + i / 2 := by
  unfold nthFrame
  rw [if_pos (by decide)]
  show [2, 3].getD ((0 + i) % 2) 0 * 65536 + (0 + (0 + i) / 2) = _
  rw [Nat.zero_add, Nat.zero_add]
  rcases Nat.mod_two_eq_zero_or_one i with h | h <;> rw [h] <;> rfl

theorem createOk_smallest (n : Nat) (hn : 65600 ≤ n) (hm : n ≤ 131072) : State.reset.createOk (smallest n) = true := by
  have frames : distinct (smallest n).frames = true :=
    decide_eq_true (List.Nodup.map_on (fun a ha b hb h => by
      have ha := List.mem_range.mp ha
      have hb := List.mem_range.mp hb
      rw [nthFrame_two, nthFrame_two] at h; omega) List.nodup_range)
  have free : ((smallest n).frames.all fun f => decide (f < Config.mainMemoryEnd / 65536) && (smallest n).groups.contains (channelGroup f)
      && (State.reset.potOf f).owner == .free && !(State.reset.potOf f).transition) = true := by
    simp only [List.all_eq_true, smallest, List.mem_map, List.mem_range]
    rintro _ ⟨i, hi, rfl⟩
    have small : nthFrame [2, 3] 131072 i < Config.mainMemoryEnd / 65536 := by
      have : Config.mainMemoryEnd / 65536 = 12582912 := by decide
      rw [nthFrame_two]; omega
    have group : channelGroup (nthFrame [2, 3] 131072 i) = 2 ∨ channelGroup (nthFrame [2, 3] 131072 i) = 3 := by
      rw [nthFrame_two]; unfold channelGroup; omega
    generalize nthFrame [2, 3] 131072 i = f at *
    rw [show State.reset.potOf f = freshPot from rfl]
    rcases group with h | h <;> rw [h] <;> simp [small, freshPot]
  have round : ((smallest n).frames == (List.range (smallest n).frames.length).map
      (nthFrame (smallest n).groups ((smallest n).frames.headD 0))) = true := by
    obtain ⟨m, rfl⟩ : ∃ m, n = m + 1 := ⟨n - 1, by omega⟩
    have first : (smallest (m + 1)).frames.headD 0 = 131072 := by simp [smallest, List.range_succ_eq_map, nthFrame_two]
    rw [first]; simp [smallest]
  have long : decide (65600 ≤ (smallest n).frames.length) = true := by simp [smallest, hn]
  have room : State.reset.roomFor (smallest n) = true := by
    show State.reset.roomFor ⟨3, 7, .nonSecure, [0], [64], 4096, 1, [2, 3], [], 0, 0, [], []⟩ = true
    decide
  have rest : State.reset.createOk (smallest n) = (State.reset.roomFor (smallest n) && decide (65600 ≤ (smallest n).frames.length)
      && distinct (smallest n).frames && (smallest n).frames.all fun f => decide (f < Config.mainMemoryEnd / 65536)
        && (smallest n).groups.contains (channelGroup f) && (State.reset.potOf f).owner == .free && !(State.reset.potOf f).transition) := by
    have dies : diesOk [0] = true := by decide
    unfold State.createOk
    rw [room, long, frames, free, round]
    simp only [smallest, dies, Bool.and_true, List.all_nil]
    simp [State.reset, State.serves, mapGet, pagesApart, Config.almanacSize, distinct]
  rw [rest, room, long, frames, free]; rfl

/-- An image that passes its checks. -/
def image0 : FirmwareImage := ⟨5, 2, true, some 0⟩

/-- Partition 3 at a step of its teardown. -/
def tearing (n : Nat) : State := { owned id with tasks := [], parts := [(3, { part3 with teardown := some ⟨9, n⟩ })], almanac := [] }

theorem witness_moduleLife_parts :
    State.reset.createOk (smallest 65600) = true ∧ (∃ s : State, s.createOk { smallest 0 with share := 4095 } = false) ∧
    (∃ s : State, mapGet s.parts 3 = some part3 ∧ part3.teardown = none ∧ (s.tasks.map Task.id).Nodup ∧ ∃ q, q ∈ s.queues ∧ q.part = 3 ∧
      q.destroyed = false) ∧
    ∀ v, (Config.choice (tearing 5).fv = v → (tearing 5).teardownStep 3 part3 ⟨9, 5⟩ = some (if v then
        ({ tearing 5 with fv := (tearing 5).fv + 1 } : State).failStep 3 part3 5
        else ({ tearing 5 with fv := (tearing 5).fv + 1 } : State).finishTeardown 3 part3 9)) ∧
      (Config.choice (tearing 4).fv = true → (tearing 4).teardownStep 3 part3 ⟨9, 4⟩ =
        some (({ tearing 4 with fv := (tearing 4).fv + 1 } : State).failStep 3 part3 4)) :=
  ⟨createOk_smallest 65600 (Nat.le_refl _) (by decide), ⟨State.reset, by decide⟩, ⟨served queue0, by decide⟩, fun v =>
   ⟨fun h => by unfold State.teardownStep; rw [h]; cases v <;> rfl, fun h => by unfold State.teardownStep; rw [h]; rfl⟩⟩

theorem witness_moduleLife :
    (∃ s : State, s.boot = .running ∧ s.bootStep = 7 ∧ s.trust.ownership = .owned ∧ s.trust.passes image0 = true ∧
      some 0 = s.trust.ownerKey ∧ 4 ∉ s.trust.nonces) ∧
    (∃ s : State, s.trust.passes { image0 with makerOk := false } = false) ∧
    (∃ s : State, s.boot = .running ∧ s.bootStep = 7 ∧ s.trust.ownership = .unowned ∧ 4 ∉ s.trust.nonces ∧ Config.sha256 9 = s.trust.nextOwner) ∧
    (∃ s : State, s.boot = .running ∧ s.bootStep = 7 ∧ s.trust.ownership = .unowned ∧ 4 ∉ s.trust.nonces ∧ Config.sha256 9 ≠ s.trust.nextOwner) ∧
    (∃ s : State, 4 ∈ s.trust.nonces) ∧ (∃ s : State, ¬(s.boot = .running ∧ s.bootStep = 7)) ∧
    (∃ s : State, some 1 ≠ s.trust.ownerKey) ∧ (∃ own : OwnerRequest, own.signedBy ≠ some own.key) ∧
    (∃ s : State, s.boot ≠ .off ∧ ∀ d, d < 4 → (s.die d).celsius < 110) ∧ (∃ s : State, s.boot ≠ .off ∧ ∃ d, d < 4 ∧ 110 ≤ (s.die d).celsius) ∧
    (∃ s : State, s.boot ≠ .off ∧ s.trust.staged = some image0 ∧ s.trust.passes image0 = true) ∧
    (∃ (s : State) (g : FirmwareImage), s.trust.staged = none ∧ s.trust.running = some g ∧ s.trust.passes g = true) ∧
    (∃ s : State, s.trust.staged = none ∧ s.trust.running = none) ∧ (∃ s : State, s.boot = .off) ∧
    (∃ s : State, s.boot = .running ∧ s.fw.f4Halted = true) ∧ (∃ s : State, s.boot = .running ∧ s.fw.f4Halted = false) ∧
    ∃ s : State, s.boot = .recovery ∧ s.trust.ownership = .owned ∧ s.trust.passes image0 = true :=
  let t := State.reset.trust
  ⟨⟨State.reset, by decide⟩, ⟨State.reset, by decide⟩,
   ⟨{ State.reset with trust := { t with ownership := .unowned, nextOwner := Config.sha256 9 } }, rfl, rfl, rfl, by decide, rfl⟩,
   ⟨{ State.reset with trust := { t with ownership := .unowned, nextOwner := Config.sha256 9 + 1 } }, rfl, rfl, rfl, by decide, fun h => by
     have h1 : Config.sha256 9 - Config.sha256 9 = Config.sha256 9 + 1 - Config.sha256 9 := congrArg (· - Config.sha256 9) h
     rw [BitVec.sub_self, BitVec.add_comm, BitVec.add_sub_cancel] at h1
     exact absurd h1 (by decide)⟩,
   ⟨{ State.reset with trust := { t with nonces := [4] } }, by decide⟩, ⟨{ State.reset with boot := .recovery }, by decide⟩,
   ⟨State.reset, by decide⟩, ⟨⟨9, 4, some 8⟩, by decide⟩, ⟨State.reset, by decide⟩,
   ⟨{ State.reset with dies := State.reset.dies.set 3 { Die.initial with celsius := 110 } }, by decide, 3, by decide⟩,
   ⟨{ State.reset with trust := { t with staged := some image0 } }, by decide⟩, ⟨State.reset, ⟨0, 0, true, some 0⟩, by decide⟩,
   ⟨{ State.reset with trust := { t with running := none } }, rfl, rfl⟩,
   ⟨{ State.reset with boot := .off }, rfl⟩, ⟨{ State.reset with fw := { State.reset.fw with f4Halted := true } }, by decide⟩,
   ⟨State.reset, by decide⟩, ⟨{ State.reset with boot := .recovery }, by decide⟩⟩

theorem witness_stepKeepsMemory : ∃ s t : State, MemoryOk s ∧ s.mem = [(0x50000, 7)] ∧ step s = .next t := by
  refine ⟨{ turn with mem := [(0x50000, 7)] }, _, by unfold MemoryOk; decide, rfl, rfl⟩

end Sys2Proof.Tests
end

section
/-! SUPPORT. Address spaces (02 R21, R22, R28): where the address of an instruction traps at issue (R123, R153, R355), what a
local access that passes does (R68-R70, R245, R246), and the memory at reset. -/

namespace Sys2Proof.Machine

/-! ## The traps of an instruction's own addresses, at the gate (R355) -/

/-- Nothing of what ranks before its addresses stops the instruction at issue (R355). -/
def ReachesAddresses (i : Instr) (s : State) : Prop :=
  s.core.waiting.committed = false ∧ s.core.misplaced i = false ∧ s.core.vigil ≠ 0 ∧ s.core.regStall s.now i = none

theorem exec_of_gate_trap {i : Instr} {s : State} {code : BitVec 8} {v : Word} (hi : isStrand i = true)
    (hg : gate i s = .trap code v) : exec i s = .next (s.takeTrap code v s.core.pc) := by
  obtain ⟨eff, he⟩ := exec_strand i hi s
  rw [he, withGate, hg]

theorem exec_of_alignTrap {i : Instr} {s : State} {code : BitVec 8} {v : Word} (hi : isStrand i = true)
    (h : ReachesAddresses i s) (ha : s.core.alignTrap i = some (code, v)) :
    exec i s = .next (s.takeTrap code v s.core.pc) := by
  obtain ⟨hwait, hplace, hvigil, hregs⟩ := h
  exact exec_of_gate_trap hi (by simp_all [gate])

theorem exec_of_laddrTrap {i : Instr} {s : State} {v : Word} (hi : isStrand i = true) (h : ReachesAddresses i s)
    (ha : s.core.alignTrap i = none) (hl : s.core.laddrTrap i = some v) :
    exec i s = .next (s.takeTrap 2 v s.core.pc) := by
  obtain ⟨hwait, hplace, hvigil, hregs⟩ := h
  exact exec_of_gate_trap hi (by simp_all [gate])

/-! ## LADDR (R22) -/

theorem localCheck_eq_none_iff {mb a n : Nat} {store : Bool} : localCheck mb a n store = none ↔
    regionOf mb a = none ∨ regionOf mb (a + n - 1) ≠ regionOf mb a ∨ (store = true ∧ regionOf mb a = some .weight) := by
  unfold localCheck
  cases regionOf mb a with
  | none => simp
  | some r => simp only [reduceCtorEq, false_or, Option.some.injEq]; split_ifs <;> simp <;> tauto

theorem Core.local?_eq_none_iff {c : Core} {a : Word} {n : Nat} {store : Bool} : c.local? a n store = none ↔
    2 ^ 32 ≤ a.toNat ∨ regionOf c.poolMb a.toNat = none ∨ regionOf c.poolMb (a.toNat + n - 1) ≠ regionOf c.poolMb a.toNat ∨
      (store = true ∧ regionOf c.poolMb a.toNat = some .weight) := by
  rw [Core.local?, ← localCheck_eq_none_iff]
  split_ifs with h
  · exact ⟨.inr, fun hor => hor.resolve_left (Nat.not_le.mpr h)⟩
  · exact iff_of_true rfl (.inl (Nat.le_of_not_lt h))

/-- An instruction whose local access R22 refuses traps with its address; `vld.l` and `vst.l` have no such access (R249). -/
theorem laddrTrap_of_local {c : Core} {i : Instr} {x : LocalAccess} (hx : c.localAccess i = some x)
    (hn : c.local? x.addr x.n x.store = none) : c.laddrTrap i = some x.addr := by
  unfold Core.laddrTrap
  split
  · cases hx
  · cases hx
  · simp [hx, hn]

/-! ## STACK and ALIGN (R123, R153) -/

theorem Core.stackBad_push {c : Core} {n : Nat} : c.stackBad true n = true ↔
    (c.rs spReg).toNat % 8 ≠ 0 ∨ (c.rs spReg).toNat < c.slimit.toNat + n ∨ c.sbase.toNat < (c.rs spReg).toNat := by
  simp only [Core.stackBad, if_true, Bool.or_eq_true, bne_iff_ne, decide_eq_true_eq]

theorem Core.stackBad_pop {c : Core} {n : Nat} : c.stackBad false n = true ↔
    (c.rs spReg).toNat % 8 ≠ 0 ∨ (c.rs spReg).toNat < c.slimit.toNat ∨ c.sbase.toNat < (c.rs spReg).toNat + n := by
  simp only [Core.stackBad, Bool.false_eq_true, if_false, Bool.or_eq_true, bne_iff_ne, decide_eq_true_eq]

/-- A token access that must be aligned and is not traps with its address; stack instructions have no token access. -/
theorem alignTrap_of_token {c : Core} {i : Instr} {t : TokenAccess} (hl : c.localAccess i = none)
    (ht : c.tokenAccess i = some t) (ha : t.atomic = true) (hv : t.va % t.n ≠ 0) :
    c.alignTrap i = some (3, BitVec.ofNat 64 t.va) := by
  unfold Core.alignTrap
  split
  case h_5 => simp [hl, ht, ha, hv]
  all_goals cases hl

/-! ## Writers of a local access: which field each one writes -/

theorem Core.takePorts_eq (c : Core) (u a n : Nat) : c.takePorts u a n = { c with bankReads := (c.takePorts u a n).bankReads } := by
  unfold Core.takePorts; dsimp only; split_ifs <;> rfl

theorem Core.readUpper_eq (c : Core) (u a n : Nat) (dest : LateDest) :
    c.readUpper u a n dest = { c with late := (c.readUpper u a n dest).late } := by
  unfold Core.readUpper; dsimp only; split_ifs <;> rfl

theorem Core.scrStore_eq (c : Core) (now a : Nat) (bs : List Byte) :
    c.scrStore now a bs = { c with timed := (c.scrStore now a bs).timed } := by
  unfold Core.scrStore; dsimp only; split_ifs <;> rfl

theorem Core.strikeStore_eq (c : Core) (isLocal : Bool) (w : Nat → Bool) (now : Nat) :
    c.strikeStore isLocal w now = { c with watchNow := (c.strikeStore isLocal w now).watchNow } := by
  unfold Core.strikeStore; split
  · rfl
  · split <;> rfl

theorem Core.scrRead_congr {c d : Core} (hs : d.scr = c.scr) (ht : d.timed = c.timed) (u a n : Nat) :
    d.scrRead u a n = c.scrRead u a n := by
  induction n generalizing a with
  | zero => rfl
  | succ n ih => rw [Core.scrRead, Core.scrRead, ih, hs, ht]

/-- What a split load has still to read depends on the scratchpad, its unexposed writes and the reads already to be made. -/
theorem Core.late_readUpper_congr {c d : Core} (hs : d.scr = c.scr) (ht : d.timed = c.timed) (hl : d.late = c.late)
    (u a n : Nat) (dest : LateDest) : (d.readUpper u a n dest).late = (c.readUpper u a n dest).late := by
  unfold Core.readUpper; dsimp only; split_ifs
  · simp only [hl, Core.scrRead_congr hs ht]
  · exact hl

theorem keeps_takePorts (c : Core) (u a n : Nat) : Keeps c (c.takePorts u a n) := by
  rw [Core.takePorts_eq]; exact ⟨rfl, rfl, rfl, rfl, rfl, rfl⟩

theorem keeps_scrStore (c : Core) (now a : Nat) (bs : List Byte) : Keeps c (c.scrStore now a bs) := by
  rw [Core.scrStore_eq]; exact ⟨rfl, rfl, rfl, rfl, rfl, rfl⟩

theorem keeps_strikeStore (c : Core) (isLocal : Bool) (w : Nat → Bool) (now : Nat) : Keeps c (c.strikeStore isLocal w now) := by
  rw [Core.strikeStore_eq]; exact ⟨rfl, rfl, rfl, rfl, rfl, rfl⟩

/-! ## Watchpoints on strand stores (R409) -/

/-- What a strike is depends on the watchpoint registers alone. -/
theorem Core.strike_congr {c d : Core} (hb : d.wpbase = c.wpbase) (hm : d.wpmask = c.wpmask) (e : Nat) (isLocal : Bool)
    (w : Nat → Bool) : d.strike e isLocal w = c.strike e isLocal w := by
  unfold Core.strike Core.wpMode Core.wpHit Core.wpMode
  rw [hb, hm]

theorem Core.watchNow_strikeStore_of_none {c : Core} {isLocal : Bool} {w : Nat → Bool} {now : Nat}
    (h : c.inh = true ∨ c.strike 18 isLocal w = none) : (c.strikeStore isLocal w now).watchNow = c.watchNow := by
  unfold Core.strikeStore
  split
  · rfl
  · next hi => rw [h.resolve_left hi]

theorem Core.watchNow_strikeStore_of_some {c : Core} {isLocal : Bool} {w : Nat → Bool} {now : Nat} {wp : BitVec 1}
    {hit : BitVec 16} (hi : c.inh = false) (h : c.strike 18 isLocal w = some (wp, hit)) :
    (c.strikeStore isLocal w now).watchNow = some ⟨0, wp, now, 0, hit⟩ := by
  simp [Core.strikeStore, hi, h]

/-- What a strand store's strike leaves in WATCHNOW, in terms of the core before the store: the store itself moves neither the
watchpoints nor the mode. -/
theorem watchNow_strikeStore {c d : Core} (hb : d.wpbase = c.wpbase) (hm : d.wpmask = c.wpmask) (hi : d.inh = c.inh)
    (hw : d.watchNow = c.watchNow) (isLocal : Bool) (w : Nat → Bool) (now : Nat) :
    (c.inh = true ∨ c.strike 18 isLocal w = none → (d.strikeStore isLocal w now).watchNow = c.watchNow) ∧
    ∀ wp hit, c.inh = false → c.strike 18 isLocal w = some (wp, hit) →
      (d.strikeStore isLocal w now).watchNow = some ⟨0, wp, now, 0, hit⟩ := by
  rw [← Core.strike_congr hb hm, ← hi, ← hw]
  exact ⟨Core.watchNow_strikeStore_of_none, fun _ _ => Core.watchNow_strikeStore_of_some⟩

theorem Core.retire_watchNow (c : Core) (now : Nat) : (c.retire now).watchNow = c.watchNow := by
  have := congrArg Core.watchNow (c.still_retire now); exact this
theorem Core.retire_timed (c : Core) (now : Nat) : (c.retire now).timed = c.timed := by
  have := congrArg Core.timed (c.still_retire now); exact this
theorem Core.retire_late (c : Core) (now : Nat) : (c.retire now).late = c.late := by
  have := congrArg Core.late (c.still_retire now); exact this
theorem Core.retire_acc (c : Core) (now : Nat) : (c.retire now).acc = c.acc := by
  have := congrArg Core.acc (c.still_retire now); exact this

/-! ## An access issued to be performed later (R70, R246) -/

theorem State.now_lt_dueCycle (s : State) : s.now < s.dueCycle := by
  unfold State.dueCycle; omega

/-- The access `a` has been issued between two states: it stands last among the outstanding ones, due at a later cycle; the
strand has retired, and no byte, no register and nothing outside the core has changed but the trace of a watchpoint. -/
def Issued (s : State) (a : Access) (u : State) : Prop :=
  u.core.acc = s.core.acc ++ [{ a with id := s.core.accNext, issued := s.now, due := s.dueCycle, way := s.waysFor a }] ∧
    s.now < s.dueCycle ∧
    { u.core.still with acc := s.core.acc, accNext := s.core.accNext, watchNow := s.core.watchNow } = s.core.still ∧
    OutsideFree s u ∧ BytesKept s u ∧ Retires s u

theorem outsideFree_issueAccess (s : State) (a : Access) : OutsideFree s (s.issueAccess a) := rfl

theorem OutsideFree.mod {s u : State} (h : OutsideFree s u) (f : Core → Core) : OutsideFree s (u.mod f) := h

theorem OutsideFree.retireWith {s u : State} (h : OutsideFree s u) (f : Core → Core) : OutsideFree s (retireWith u f) := h

theorem BytesKept.trans {s t u : State} (h : BytesKept s t) (k : BytesKept t u) : BytesKept s u := by
  obtain ⟨hspace, hview, hcore⟩ := h
  obtain ⟨kspace, kview, kcore⟩ := k
  exact ⟨fun sp a => (kspace sp a).trans (hspace sp a), fun d a => (kview d a).trans (hview d a),
    fun a => ⟨(kcore a).1.trans (hcore a).1, (kcore a).2.trans (hcore a).2⟩⟩

theorem bytesKept_issueAccess (s : State) (a : Access) : BytesKept s (s.issueAccess a) :=
  have h : BytesKept s (s.mod fun _ => (s.issueAccess a).core) := bytesKept_mod s _ rfl rfl rfl rfl
  h

theorem keeps_issueAccess (s : State) (a : Access) : Keeps s.core (s.issueAccess a).core := ⟨rfl, rfl, rfl, rfl, rfl, rfl⟩

/-- Retirement after an effect that keeps the path of control and Vigil. -/
theorem retires_of_keeps {s u : State} (h : Keeps s.core u.core) : Retires s (retireWith u fun c => c) :=
  ⟨Core.path_advance h.path, by rw [retireWith_core, Core.vigil_retire, h.vigil], rfl, rfl⟩

theorem still_issueAccess (s : State) (a : Access) : (s.issueAccess a).core.still =
    { s.core.still with acc := (s.issueAccess a).core.acc, accNext := (s.issueAccess a).core.accNext } := rfl

theorem still_watchNow (c : Core) (x : Option WatchReport) : ({ c with watchNow := x } : Core).still = { c.still with watchNow := x } := rfl

/-- What issuing moves set back gives the core that stood. -/
theorem still_issue_back {c d : Core} {x : List Access} {y : Nat} {z : Option WatchReport}
    (h : d.still = { c.still with acc := x, accNext := y, watchNow := z }) :
    { d.still with acc := c.acc, accNext := c.accNext, watchNow := c.watchNow } = c.still := by rw [h]; rfl

theorem keeps_watchNow (c : Core) (x : Option WatchReport) : Keeps c { c with watchNow := x } := ⟨rfl, rfl, rfl, rfl, rfl, rfl⟩

/-- Issuing an access and retiring, with whatever a watchpoint leaves, is `Issued`. -/
theorem issued_of_issueAccess (s : State) (a : Access) (x : Option WatchReport) :
    Issued s a (retireWith ((s.issueAccess a).mod fun c => { c with watchNow := x }) fun c => c) := by
  have hout : OutsideFree s ((s.issueAccess a).mod fun c => { c with watchNow := x }) := (outsideFree_issueAccess s a).mod _
  have hwatch : BytesKept (s.issueAccess a) ((s.issueAccess a).mod fun c => { c with watchNow := x }) :=
    bytesKept_mod _ _ rfl rfl rfl rfl
  refine ⟨?_, s.now_lt_dueCycle, ?_, hout.retireWith _,
    ((bytesKept_issueAccess s a).trans hwatch).trans (bytes_of (keeps_refl _)),
    retires_of_keeps ((keeps_issueAccess s a).trans (keeps_watchNow _ x))⟩
  · rw [retireWith_core, Core.retire_acc]; rfl
  · rw [retireWith_core, Core.still_retire, State.mod_core]
    exact still_issue_back (by rw [still_watchNow, still_issueAccess])

theorem issued_strikeStore (s : State) (a : Access) (isLocal : Bool) (w : Nat → Bool) :
    Issued s a (retireWith ((s.issueAccess a).mod fun c => c.strikeStore isLocal w s.now) fun c => c) := by
  let x := ((s.issueAccess a).core.strikeStore isLocal w s.now).watchNow
  have hx : (s.issueAccess a).mod (fun c => c.strikeStore isLocal w s.now) = (s.issueAccess a).mod fun c => { c with watchNow := x } :=
    congrArg (fun k : Core => ({ s.issueAccess a with core := k } : State)) (Core.strikeStore_eq ..)
  rw [hx]
  exact issued_of_issueAccess s a x

/-! ## Local accesses that pass (R245, R246) -/

/-- A local access of a region that R22 lets pass has the effect its form names, and retires. -/
theorem completes_localForm {i : Instr} {s : State} {eff : Region → Nat → Nat → State → State} {x : LocalAccess} {r : Region}
    {P : State → Prop} (he : exec i s = localForm i eff s) (hx : s.core.localAccess i = some x)
    (hr : s.core.local? x.addr x.n x.store = some r)
    (hP : P (retireWith (eff r x.addr.toNat x.n s) fun c => c)) : Completes i s P := by
  intro hgo
  refine ⟨_, ?_, hP⟩
  rw [he, localForm, withGate_go hgo]
  simp only [hx, hr]

/-- A load outside the own scratchpad is issued and leaves no trace of a watchpoint. -/
theorem issued_localFetch (s : State) (kind : AccKind) (r : Region) (va n : Nat) (o : BitVec 2) :
    let y := s.core.spaceOf r va
    let u := retireWith (s.localFetch kind r va n o) fun c => c
    Issued s { Access.make kind y.1 n o 0 va with reads := pieces y.2 n } u ∧ u.core.watchNow = s.core.watchNow := by
  refine ⟨issued_of_issueAccess s _ s.core.watchNow, ?_⟩
  rw [retireWith_core, Core.retire_watchNow]; rfl

theorem localStore_of_ne {s : State} {r : Region} (hr : r ≠ .scratch) (va : Nat) (bs : List Byte) (o : BitVec 2) :
    s.localStore r va bs o = s.issueAccess { Access.make .store (s.core.spaceOf r va).1 bs.length o 0 va with
      parts := s.core.storeParts (s.core.spaceOf r va).1 (s.core.spaceOf r va).2 bs } := by
  cases r with
  | scratch => exact absurd rfl hr
  | csm | pool | weight => rfl

theorem still_scrStore (c : Core) (now a : Nat) (bs : List Byte) :
    (c.scrStore now a bs).still = { c.still with timed := (c.scrStore now a bs).timed } := by
  rw [Core.scrStore_eq]; rfl

theorem still_strikeStore (c : Core) (isLocal : Bool) (w : Nat → Bool) (now : Nat) :
    (c.strikeStore isLocal w now).still = { c.still with watchNow := (c.strikeStore isLocal w now).watchNow } := by
  rw [Core.strikeStore_eq]; rfl

theorem Core.strikeStore_timed (c : Core) (isLocal : Bool) (w : Nat → Bool) (now : Nat) :
    (c.strikeStore isLocal w now).timed = c.timed := by
  rw [Core.strikeStore_eq]

/-- A store's timed writes and its watchpoint's trace set back give the core that stood. -/
theorem still_store_back {c d : Core} {x : List TimedWrite} {z : Option WatchReport}
    (h : d.still = { c.still with timed := x, watchNow := z }) :
    { d.still with timed := c.timed, watchNow := c.watchNow } = c.still := by rw [h]; rfl

/-- A store to the own scratchpad leaves its timed writes and what a watchpoint saw, and retires (R68). -/
theorem scrStore_retires (s : State) (va : Nat) (bs : List Byte) (o : BitVec 2) (w : Nat → Bool) :
    let u := retireWith ((s.localStore .scratch va bs o).mod fun c => c.strikeStore true w s.now) fun c => c
    u.core.timed = (s.core.scrStore s.now va bs).timed ∧
      { u.core.still with timed := s.core.timed, watchNow := s.core.watchNow } = s.core.still ∧
      Outside s u ∧ BytesKept s u ∧ Retires s u := by
  intro u
  have hu : u.core = ((s.core.scrStore s.now va bs).strikeStore true w s.now).retire s.now := rfl
  have hk : Keeps s.core ((s.core.scrStore s.now va bs).strikeStore true w s.now) :=
    (keeps_scrStore ..).trans (keeps_strikeStore ..)
  have hbytes : BytesKept s (retireWith s fun c => (c.scrStore s.now va bs).strikeStore true w s.now) := bytes_of hk
  refine ⟨?_, ?_, rfl, hbytes, retires_of_keeps hk⟩
  · rw [hu, Core.retire_timed, Core.strikeStore_timed]
  · rw [hu, Core.still_retire]
    exact still_store_back (by rw [still_strikeStore, still_scrStore])

/-- A store moves neither the watchpoints nor the mode. -/
theorem localStore_watchpoints (s : State) (r : Region) (va : Nat) (bs : List Byte) (o : BitVec 2) :
    let d := (s.localStore r va bs o).core
    d.wpbase = s.core.wpbase ∧ d.wpmask = s.core.wpmask ∧ d.inh = s.core.inh ∧ d.watchNow = s.core.watchNow := by
  cases r with
  | scratch =>
    have hd : (s.localStore .scratch va bs o).core = s.core.scrStore s.now va bs := rfl
    simp only [hd]
    rw [Core.scrStore_eq]
    exact ⟨rfl, rfl, rfl, rfl⟩
  | csm | pool | weight => exact ⟨rfl, rfl, rfl, rfl⟩

/-- A local store that passes: timed in the own scratchpad, issued elsewhere, and what a watchpoint makes of it (R68, R246,
R409). -/
theorem localStore_completes {i : Instr} {s : State} {eff : Region → Nat → Nat → State → State} {va : Word}
    {o : BitVec 2} {r : Region} (bs : List Byte) (he : exec i s = localForm i eff s)
    (hx : s.core.localAccess i = some ⟨va, bs.length, true, false⟩)
    (heff : eff r va.toNat bs.length s =
      (s.localStore r va.toNat bs o).mod fun c => c.strikeStore true (span va.toNat bs.length) s.now)
    (hr : s.core.local? va bs.length true = some r) :
    Completes i s fun u =>
      (r = .scratch → u.core.timed = (s.core.scrStore s.now va.toNat bs).timed ∧
        { u.core.still with timed := s.core.timed, watchNow := s.core.watchNow } = s.core.still ∧ Outside s u ∧ BytesKept s u ∧
        Retires s u) ∧
      (r ≠ .scratch → let y := s.core.spaceOf r va.toNat
        Issued s { Access.make .store y.1 bs.length o 0 va.toNat with parts := s.core.storeParts y.1 y.2 bs } u) ∧
      (s.core.inh = true ∨ s.core.strike 18 true (span va.toNat bs.length) = none → u.core.watchNow = s.core.watchNow) ∧
      (∀ wp hit, s.core.inh = false → s.core.strike 18 true (span va.toNat bs.length) = some (wp, hit) →
        u.core.watchNow = some ⟨0, wp, s.now, 0, hit⟩) := by
  refine completes_localForm he hx hr ?_
  obtain ⟨hbase, hmask, hinh, hnow⟩ := localStore_watchpoints s r va.toNat bs o
  simp only [heff, retireWith_core, State.mod_core, Core.retire_watchNow]
  refine ⟨fun hs => ?_, fun hs => ?_, watchNow_strikeStore hbase hmask hinh hnow ..⟩
  · subst hs; exact scrStore_retires ..
  · rw [localStore_of_ne hs]; exact issued_strikeStore ..

/-! ## Loads of the own scratchpad (R69, R76, R245) -/

/-- What a load of the own scratchpad does beside writing its register: it takes its ports, and the part beyond a 64-byte
boundary is still to be read. -/
def Core.beginRead (c : Core) (now a n : Nat) (dest : LateDest) : Core := (c.takePorts now a n).readUpper now a n dest

theorem keeps_beginRead (c : Core) (now a n : Nat) (dest : LateDest) : Keeps c (c.beginRead now a n dest) :=
  (keeps_takePorts ..).trans (keeps_readUpper ..)

theorem Core.beginRead_late (c : Core) (now a n : Nat) (dest : LateDest) :
    (c.beginRead now a n dest).late = (c.readUpper now a n dest).late := by
  refine Core.late_readUpper_congr ?_ ?_ ?_ .. <;> rw [Core.takePorts_eq]

theorem Core.beginRead_s (c : Core) (now a n : Nat) (dest : LateDest) : (c.beginRead now a n dest).s = c.s := by
  rw [Core.beginRead, Core.readUpper_s, Core.takePorts_eq]

theorem Core.beginRead_k (c : Core) (now a n : Nat) (dest : LateDest) : (c.beginRead now a n dest).k = c.k := by
  rw [Core.beginRead, Core.readUpper_k, Core.takePorts_eq]

theorem Core.beginRead_rs (c : Core) (now a n : Nat) (dest : LateDest) (r : BitVec 5) :
    (c.beginRead now a n dest).rs r = c.rs r := by
  simp only [Core.rs, Core.beginRead_s]

theorem Core.beginRead_rk (c : Core) (now a n : Nat) (dest : LateDest) (r : BitVec 4) :
    (c.beginRead now a n dest).rk r = c.rk r := by
  simp only [Core.rk, Core.beginRead_k]

theorem still_takePorts (c : Core) (u a n : Nat) : (c.takePorts u a n).still = c.still := by
  rw [Core.takePorts_eq]; rfl

theorem still_readUpper (c : Core) (u a n : Nat) (dest : LateDest) :
    (c.readUpper u a n dest).still = { c.still with late := (c.readUpper u a n dest).late } := by
  rw [Core.readUpper_eq]; rfl

theorem still_beginRead (c : Core) (now a n : Nat) (dest : LateDest) :
    (c.beginRead now a n dest).still = { c.still with late := (c.beginRead now a n dest).late } := by
  rw [Core.beginRead, still_readUpper, still_takePorts]

/-- The destination and the reads still to be made set back give the core that stood. -/
theorem still_read_back {c d : Core} {x : Vector (BitVec 64) 32} {y : Vector Token 16} {z : List LateRead}
    (h : d.still = { c.still with s := x, k := y, late := z }) :
    { d.still with s := c.s, k := c.k, late := c.late } = c.still := by rw [h]; rfl

theorem length_natToBytes (n x : Nat) : (natToBytes n x).length = n := by
  induction n generalizing x with
  | zero => rfl
  | succ n ih => rw [natToBytes, List.length_cons, ih]

theorem length_sealToken (key part : Nat) (t : Token) : (sealToken key part t).length = 32 := by
  simp only [sealToken, List.length_append, length_natToBytes]

/-- What a load of the own scratchpad leaves beside the register it writes, whichever that is: `f` begins the read and then
writes registers alone (R69, R76). -/
theorem ownLoad_retires {s : State} {va n : Nat} {dest : LateDest} {f : Core → Core}
    (hk : Keeps (s.core.beginRead s.now va n dest) (f s.core)) (hl : (f s.core).late = (s.core.beginRead s.now va n dest).late)
    (hs : (f s.core).still = { (s.core.beginRead s.now va n dest).still with s := (f s.core).s, k := (f s.core).k }) :
    let u := retireWith (s.mod f) fun c => c
    u.core.late = (s.core.readUpper s.now va n dest).late ∧
      { u.core.still with s := s.core.s, k := s.core.k, late := s.core.late } = s.core.still ∧
      Outside s u ∧ BytesKept s u ∧ Retires s u := by
  intro u
  have hu : u.core = (f s.core).retire s.now := rfl
  have hc : Keeps s.core (f s.core) := (keeps_beginRead ..).trans hk
  refine ⟨?_, ?_, rfl, bytes_of hc, retires_of_keeps hc⟩
  · rw [hu, Core.retire_late, hl, Core.beginRead_late]
  · rw [hu, Core.still_retire]
    exact still_read_back (by rw [hs, still_beginRead])

theorem still_put_registers (c : Core) (d : BitVec 5) (x : Word) (now lat : Nat) :
    (c.put d x now lat).still = { c.still with s := (c.put d x now lat).s, k := (c.put d x now lat).k } := by
  have hk : (c.put d x now lat).k = c.k := by simp [Core.put]
  rw [hk, still_put]; rfl

theorem still_putK_registers (c : Core) (d : BitVec 4) (x : Token) (now lat : Nat) :
    (c.putK d x now lat).still = { c.still with s := (c.putK d x now lat).s, k := (c.putK d x now lat).k } := by
  rw [still_putK]; rfl

/-- `lds` of the own scratchpad (R245). -/
theorem lds_scratch (s : State) (va n : Nat) (dest : LateDest) (d : BitVec 5) (x : Core → Word) (lat : Nat) :
    let u := retireWith (s.mod fun c => (c.beginRead s.now va n dest).put d (x c) s.now lat) fun c => c
    (u.core.rs d = (if d = 0 then 0 else x s.core) ∧ (∀ q, q ≠ d → u.core.rs q = s.core.rs q) ∧ u.core.k = s.core.k) ∧
      u.core.late = (s.core.readUpper s.now va n dest).late ∧
      { u.core.still with s := s.core.s, k := s.core.k, late := s.core.late } = s.core.still ∧
      Outside s u ∧ BytesKept s u ∧ Retires s u := by
  intro u
  have hu : u.core = ((s.core.beginRead s.now va n dest).put d (x s.core) s.now lat).retire s.now := rfl
  refine ⟨⟨?_, fun q hq => ?_, ?_⟩, ownLoad_retires (keeps_put ..) ?_ ?_⟩
  · rw [hu, Core.retire_rs, put_rs]
  · rw [hu, Core.retire_rs, put_rs_ne _ _ _ _ _ _ hq, Core.beginRead_rs]
  · rw [hu, Core.retire_k, ← Core.beginRead_k s.core s.now va n dest]
    simp [Core.put]
  · simp [Core.put]
  · exact still_put_registers ..

/-- `kld.l` of the own scratchpad (R49, R251). -/
theorem kldL_scratch (s : State) (va n : Nat) (dest : LateDest) (k : BitVec 4) (x : Core → Token) (lat : Nat) :
    let u := retireWith (s.mod fun c => (c.beginRead s.now va n dest).putK k (x c) s.now lat) fun c => c
    (u.core.rk k = x s.core ∧ (∀ q, q ≠ k → u.core.rk q = s.core.rk q) ∧ u.core.s = s.core.s) ∧
      u.core.late = (s.core.readUpper s.now va n dest).late ∧
      { u.core.still with s := s.core.s, k := s.core.k, late := s.core.late } = s.core.still ∧
      Outside s u ∧ BytesKept s u ∧ Retires s u := by
  intro u
  have hu : u.core = ((s.core.beginRead s.now va n dest).putK k (x s.core) s.now lat).retire s.now := rfl
  refine ⟨⟨?_, fun q hq => ?_, ?_⟩, ownLoad_retires (keeps_putK ..) ?_ ?_⟩
  · rw [hu, Core.retire_rk, putK_rk]
  · rw [hu, Core.retire_rk, putK_rk_ne _ _ _ _ _ _ hq, Core.beginRead_rk]
  · rw [hu, Core.retire_s, ← Core.beginRead_s s.core s.now va n dest]
    simp [Core.putK]
  · simp [Core.putK]
  · exact still_putK_registers ..

/-! ## The obligations -/

/-- Settles O17: each clause names the access that the instruction forms, and its trap is the first thing it meets. -/
theorem addressTraps : Obligations.AddressTraps := by
  intro z o w d a g i b k x y q p s
  refine ⟨fun h hbad => ?_, fun h hbad => ?_, fun h hbad => ?_, fun h hbad => ?_, fun h hbad => ?_, fun h hbad => ?_,
    fun h hbad => ?_, fun h hbad => ?_⟩
  · have hx : s.core.localAccess (.lds z d a g o i) =
        some ⟨s.core.rs a + (i.setWidth 64) <<< z.toNat, 2 ^ z.toNat, false, false⟩ := rfl
    exact exec_of_laddrTrap rfl h rfl (laddrTrap_of_local hx (Core.local?_eq_none_iff.mpr (by tauto)))
  · have hx : s.core.localAccess (.sts z d a o i) =
        some ⟨s.core.rs a + (i.setWidth 64) <<< z.toNat, 2 ^ z.toNat, true, false⟩ := rfl
    exact exec_of_laddrTrap rfl h rfl (laddrTrap_of_local hx (Core.local?_eq_none_iff.mpr (by tauto)))
  · exact exec_of_alignTrap rfl h (if_pos (Core.stackBad_push.mpr hbad))
  · exact exec_of_alignTrap rfl h (if_pos (Core.stackBad_pop.mpr hbad))
  · exact exec_of_alignTrap rfl h (if_pos (Core.stackBad_push.mpr hbad))
  · exact exec_of_alignTrap rfl h (if_pos (Core.stackBad_pop.mpr hbad))
  · have ht : s.core.tokenAccess (.amoAdd w q k x y p o) = some ⟨s.core.rk k, (s.core.rn x).toNat, amoSize w, 3, true⟩ := rfl
    exact exec_of_alignTrap rfl h (alignTrap_of_token rfl ht rfl hbad)
  · have ht : s.core.tokenAccess (.waita w q k x y p) = some ⟨s.core.rk k, (s.core.rn x).toNat, amoSize w, 1, true⟩ := rfl
    exact exec_of_alignTrap rfl h (alignTrap_of_token rfl ht rfl hbad)

/-- Settles O35: each form is its region's case of the local store, of the fetch that is issued, or of the timed read. -/
theorem localAccesses : Obligations.LocalAccesses := by
  intro z o d a g i x k r s
  refine ⟨fun hr => ⟨fun hs => ?_, fun hs => ?_⟩, fun hr => ⟨fun hs => ?_, fun hs => ?_⟩, fun hr => ?_, fun hr => ?_⟩
  · subst hs
    have hload := lds_scratch s (s.core.rs a + (i.setWidth 64) <<< z.toNat).toNat (2 ^ z.toNat) (.s d.toNat (g == 1)) d
      (fun c => loadValue (c.scrReadSplit s.now (s.core.rs a + (i.setWidth 64) <<< z.toNat).toNat (2 ^ z.toNat)) (g == 1))
    exact completes_localForm (exec_lds ..) rfl hr (hload _)
  · refine completes_localForm (exec_lds ..) rfl hr ?_
    have hfetch := issued_localFetch s (.load (.s d.toNat) (g == 1)) r (s.core.rs a + (i.setWidth 64) <<< z.toNat).toNat (2 ^ z.toNat) o
    cases r with
    | scratch => exact absurd rfl hs
    | csm | pool | weight => exact hfetch
  · subst hs
    have hload := kldL_scratch s (s.core.rs a + (x.setWidth 64) <<< 5).toNat 32 (.k k.toNat) k
      (fun c => unsealToken s.sealKey c.partId (c.scrReadSplit s.now (s.core.rs a + (x.setWidth 64) <<< 5).toNat 32))
    exact completes_localForm (exec_kldL ..) rfl hr (hload _)
  · refine completes_localForm (exec_kldL ..) rfl hr ?_
    have hfetch := issued_localFetch s (.kload k.toNat) r (s.core.rs a + (x.setWidth 64) <<< 5).toNat 32 0
    cases r with
    | scratch => exact absurd rfl hs
    | csm | pool | weight => exact hfetch
  · have hlen := length_natToBytes (2 ^ z.toNat) (s.core.rs d).toNat
    exact localStore_completes (natToBytes (2 ^ z.toNat) (s.core.rs d).toNat) (exec_sts ..) (by rw [hlen]; rfl) (by rw [hlen]; rfl) hr
  · have hlen := length_sealToken s.sealKey s.core.partId (s.core.rk k)
    exact localStore_completes (sealToken s.sealKey s.core.partId (s.core.rk k)) (exec_kstL ..) (by rw [hlen]; rfl) rfl hr

/-- Settles O59: no byte of that memory is listed at reset. -/
theorem resetMemory : Obligations.ResetMemory := wf_nil

end Sys2Proof.Machine
end

section
/-! SUPPORT. Tokens (02 R10, 03 R36-R63): the verdicts of Token.Check, the null effect, the token instructions. -/

namespace Sys2Proof.Machine

/-! ## The verdicts of Token.Check (R10, R37, R39) -/

/-- The token is of generation 0 or of another partition, or its entry, unless FREE, is another's (R37). -/
def State.Foreign (s : State) (t : Token) : Prop :=
  t.gen = 0 ∨ t.part.toNat ≠ s.core.partId ∨
    ((s.entry t.index.toNat).state ≠ .free ∧ (s.entry t.index.toNat).owner ≠ t.part.toNat)

/-- The frames looked up are those of the first byte and, of an access inside the extent, of the last one (log entry 76). -/
theorem Token.exists_lookup_iff {t : Token} {off n : Nat} {P : Nat → Prop}
    (hP : ∀ o o', t.frameOf o = t.frameOf o' → P o → P o') :
    (∃ o ∈ t.lookups off n, P o) ↔ ∃ o, (o = off ∨ (o = off + n - 1 ∧ n ≠ 0 ∧ off + n ≤ t.len)) ∧ P o := by
  unfold Token.lookups
  split_ifs with h
  · simp only [List.mem_singleton]
    constructor
    · rintro ⟨o, ho, hp⟩; exact ⟨o, .inl ho, hp⟩
    · rintro ⟨o, rfl | ⟨rfl, hn, hlen⟩, hp⟩
      · exact ⟨o, rfl, hp⟩
      · exact ⟨off, rfl, hP _ _ ((h.resolve_left hn).resolve_left (by omega)) hp⟩
  · simp only [not_or, not_lt] at h
    obtain ⟨hn, hlen, -⟩ := h
    simp only [List.mem_cons, List.not_mem_nil, or_false]
    exact ⟨fun ⟨o, ho, hp⟩ => ⟨o, ho.imp id fun e => ⟨e, hn, hlen⟩, hp⟩, fun ⟨o, ho, hp⟩ => ⟨o, ho.imp id fun e => e.1, hp⟩⟩

theorem Core.cached_congr (c : Core) {t : Token} {o o' : Nat} (h : t.frameOf o = t.frameOf o') :
    c.cached t o = c.cached t o' := by unfold Core.cached; rw [h]

theorem Core.missAt_isSome_iff {c : Core} {t : Token} {off n : Nat} : (c.missAt t off n).isSome ↔
    ∃ o, (o = off ∨ (o = off + n - 1 ∧ n ≠ 0 ∧ off + n ≤ t.len)) ∧ c.cached t o = none := by
  rw [← Token.exists_lookup_iff fun o o' h hn => (c.cached_congr h).symm.trans hn, Core.missAt, List.find?_isSome]
  simp

/-- A line of the token frame cache that is not ACTIVE at the token's generation (R37). -/
def StaleLine (t : Token) (x : Option TfcEntry) : Prop := ∃ l, x = some l ∧ (l.active = false ∨ l.gen ≠ t.gen)

theorem Core.any_stale_iff {c : Core} {t : Token} {off n : Nat} :
    ((t.lookups off n).any fun o => (c.cached t o).any fun e => !e.active || e.gen != t.gen) = true ↔
      ∃ o, (o = off ∨ (o = off + n - 1 ∧ n ≠ 0 ∧ off + n ≤ t.len)) ∧ StaleLine t (c.cached t o) := by
  rw [← Token.exists_lookup_iff fun o o' h hs => c.cached_congr h ▸ hs, List.any_eq_true]
  refine exists_congr fun o => and_congr_right fun _ => ?_
  cases hc : c.cached t o with
  | none => simp [StaleLine]
  | some l => simp [StaleLine]

/-- Token.Check against the Almanac: what makes a token invalid comes first (R10, R37). -/
theorem State.check_of_foreign {s : State} {t : Token} (off n : Nat) (h : s.Foreign t) : s.check t off n = .invalid := by
  unfold State.check Core.check
  refine if_pos ?_
  obtain hgen | hpart | ⟨hfree, howner⟩ := h
  · exact .inl hgen
  · exact .inr (.inl hpart)
  · exact .inr (.inr (by rwa [if_neg hfree]))

theorem State.check_of_not_foreign {s : State} {t : Token} (off n : Nat) (h : ¬s.Foreign t) : s.check t off n =
    if (s.core.missAt t off n).isSome then .miss
    else if (t.lookups off n).any fun o => (s.core.cached t o).any fun e => !e.active || e.gen != t.gen then .stale
    else if t.len < off + n then .oob
    else .ok := by
  unfold State.check Core.check
  refine if_neg ?_
  unfold State.Foreign at h
  split_ifs <;> tauto

/-- Only a check that passes goes on to the rights (R51). -/
theorem State.checkRights_of_ne_ok {s : State} {t : Token} {off n : Nat} {need : BitVec 2} {chk : Check}
    (h : s.check t off n = chk) (hok : chk ≠ .ok) : s.checkRights t off n need = chk := by
  unfold State.checkRights
  rw [h]
  cases chk with
  | ok => exact absurd rfl hok
  | oob | invalid | stale | miss => rfl

theorem State.checkRights_of_ok {s : State} {t : Token} {off n : Nat} {need : BitVec 2} (h : s.check t off n = .ok) :
    s.checkRights t off n need = if t.rights &&& need = need then .ok else .oob := by
  unfold State.checkRights
  rw [h]

/-! ## The null effect and its bookkeeping (R51-R53) -/

/-- What an access that fails its check leaves beside its destination: one of the two bookkeeping actions of R52, no byte, and
the instruction retired. -/
def NullBooked (s : State) (chk : Check) (u : State) : Prop :=
  (chk = .stale → u.core.revpend = true ∧ u.core.oob = s.core.oob ∧ u.core.oobcnt = s.core.oobcnt) ∧
  (chk = .oob ∨ chk = .invalid → u.core.oob = true ∧ u.core.oobcnt.toNat = min (s.core.oobcnt.toNat + 1) 0xFFFFFFFF ∧
    u.core.revpend = s.core.revpend) ∧
  { u.core.still with s := s.core.s, k := s.core.k, bc := s.core.bc, revpend := s.core.revpend, oob := s.core.oob,
                      oobcnt := s.core.oobcnt } = s.core.still ∧
  Outside s u ∧ BytesKept s u ∧ Retires s u

theorem saturating_succ_toNat (x : BitVec 32) :
    (if x = BitVec.allOnes 32 then x else x + 1).toNat = min (x.toNat + 1) 0xFFFFFFFF := by
  split_ifs with h
  · subst h; decide
  · have : x.toNat ≠ 0xFFFFFFFF := fun e => h (BitVec.eq_of_toNat_eq e)
    bv_omega

theorem Core.nullBook_eq (c : Core) (chk : Check) : c.nullBook chk =
    { c with revpend := (c.nullBook chk).revpend, oob := (c.nullBook chk).oob, oobcnt := (c.nullBook chk).oobcnt
             events := (c.nullBook chk).events } := by
  cases chk <;> rfl

theorem keeps_nullBook (c : Core) (chk : Check) : Keeps c (c.nullBook chk) := by
  rw [Core.nullBook_eq]; exact ⟨rfl, rfl, rfl, rfl, rfl, rfl⟩

theorem still_nullBook (c : Core) (chk : Check) : (c.nullBook chk).still =
    { c.still with revpend := (c.nullBook chk).revpend, oob := (c.nullBook chk).oob, oobcnt := (c.nullBook chk).oobcnt } := by
  cases chk <;> rfl

/-- The registers of a destination and of the bookkeeping set back give the core that stood. -/
theorem still_null_back {c d : Core} {x : Vector (BitVec 64) 32} {y : Vector Token 16} {b r o : Bool} {n : BitVec 32}
    (h : d.still = { c.still with s := x, k := y, bc := b, revpend := r, oob := o, oobcnt := n }) :
    { d.still with s := c.s, k := c.k, bc := c.bc, revpend := c.revpend, oob := c.oob, oobcnt := c.oobcnt } = c.still := by
  rw [h]; rfl

/-- A null effect `f` that writes destination registers alone leaves the bookkeeping of R52. -/
theorem nullBooked_of {s : State} {chk : Check} {f : Core → Core}
    (hk : Keeps (s.core.nullBook chk) (f (s.core.nullBook chk)))
    (hs : (f (s.core.nullBook chk)).still = { (s.core.nullBook chk).still with
      s := (f (s.core.nullBook chk)).s, k := (f (s.core.nullBook chk)).k, bc := (f (s.core.nullBook chk)).bc }) :
    NullBooked s chk (retireWith s fun c => f (c.nullBook chk)) := by
  have hkeep : Keeps s.core (f (s.core.nullBook chk)) := (keeps_nullBook ..).trans hk
  have hstill := (Core.still_retire (f (s.core.nullBook chk)) s.now).trans hs
  have hrev : ((f (s.core.nullBook chk)).retire s.now).revpend = (s.core.nullBook chk).revpend := by
    have := congrArg Core.revpend hstill; exact this
  have hoob : ((f (s.core.nullBook chk)).retire s.now).oob = (s.core.nullBook chk).oob := by
    have := congrArg Core.oob hstill; exact this
  have hcnt : ((f (s.core.nullBook chk)).retire s.now).oobcnt = (s.core.nullBook chk).oobcnt := by
    have := congrArg Core.oobcnt hstill; exact this
  refine ⟨fun h => ?_, fun h => ?_, ?_, rfl, bytes_of hkeep, retires_of hkeep⟩
  · subst h
    exact ⟨hrev, hoob, hcnt⟩
  · rw [retireWith_core, hrev, hoob, hcnt]
    obtain rfl | rfl := h <;> exact ⟨rfl, saturating_succ_toNat _, rfl⟩
  · rw [retireWith_core]
    exact still_null_back (hstill.trans (by rw [still_nullBook]))

/-- A token access that fails its check is null: it has its null effect and the bookkeeping of R52, and retires. -/
theorem completes_tokenNull {i : Instr} {event : BitVec 8} {null : Core → Core} {eff : TokenAccess → State → State} {s : State}
    {x : TokenAccess} {chk : Check} {P : State → Prop} (he : exec i s = tokenForm i event null eff s)
    (hx : s.core.tokenAccess i = some x) (hchk : s.checkRights x.tok x.off x.n x.need = chk) (hok : chk ≠ .ok)
    (hP : P (retireWith s fun c => (null (c.nullBook chk)).note event)) : Completes i s P := by
  intro hgo
  refine ⟨_, ?_, hP⟩
  rw [he, tokenForm, withGate_go hgo]
  simp only [hx, hchk]

/-- The scalar destination of an access that fails its check becomes 0, and no other register that the access could have
written changes. -/
def ZeroesScalar (d : BitVec 5) (s u : State) : Prop :=
  u.core.rs d = 0 ∧ (∀ q, q ≠ d → u.core.rs q = s.core.rs q) ∧ u.core.k = s.core.k ∧ u.core.bc = s.core.bc

theorem Core.nullBook_s (c : Core) (chk : Check) : (c.nullBook chk).s = c.s := by rw [Core.nullBook_eq]
theorem Core.nullBook_k (c : Core) (chk : Check) : (c.nullBook chk).k = c.k := by rw [Core.nullBook_eq]
theorem Core.nullBook_bc (c : Core) (chk : Check) : (c.nullBook chk).bc = c.bc := by rw [Core.nullBook_eq]
theorem Core.nullBook_rs (c : Core) (chk : Check) (r : BitVec 5) : (c.nullBook chk).rs r = c.rs r := by
  simp only [Core.rs, Core.nullBook_s]
theorem Core.nullBook_rk (c : Core) (chk : Check) (r : BitVec 4) : (c.nullBook chk).rk r = c.rk r := by
  simp only [Core.rk, Core.nullBook_k]

theorem put_rs_zero (c : Core) (d : BitVec 5) (now lat : Nat) : (c.put d 0 now lat).rs d = 0 := by rw [put_rs, ite_self]
theorem put_k (c : Core) (d : BitVec 5) (x : Word) (now lat : Nat) : (c.put d x now lat).k = c.k := by simp [Core.put]
theorem put_bc (c : Core) (d : BitVec 5) (x : Word) (now lat : Nat) : (c.put d x now lat).bc = c.bc := by simp [Core.put]
theorem putK_s (c : Core) (d : BitVec 4) (x : Token) (now lat : Nat) : (c.putK d x now lat).s = c.s := by simp [Core.putK]
theorem putK_bc (c : Core) (d : BitVec 4) (x : Token) (now lat : Nat) : (c.putK d x now lat).bc = c.bc := by simp [Core.putK]

theorem still_put_null (c : Core) (d : BitVec 5) (x : Word) (now lat : Nat) :
    (c.put d x now lat).still =
      { c.still with s := (c.put d x now lat).s, k := (c.put d x now lat).k, bc := (c.put d x now lat).bc } := by
  rw [put_k, put_bc, still_put]; rfl

theorem still_putK_null (c : Core) (d : BitVec 4) (x : Token) (now lat : Nat) :
    (c.putK d x now lat).still =
      { c.still with s := (c.putK d x now lat).s, k := (c.putK d x now lat).k, bc := (c.putK d x now lat).bc } := by
  rw [putK_s, putK_bc, still_putK]; rfl

/-- Counting an event leaves a core that differs from another in destination registers alone such a one. -/
theorem still_note_null {c d : Core} (e : BitVec 8) (h : d.still = { c.still with s := d.s, k := d.k, bc := d.bc }) :
    (d.note e).still = { c.still with s := (d.note e).s, k := (d.note e).k, bc := (d.note e).bc } := h

/-- The null effect of `ld` and of an atomic (R52, R120). -/
theorem scalarNull {i : Instr} {event : BitVec 8} {eff : TokenAccess → State → State} {s : State} {d : BitVec 5}
    {x : TokenAccess} {chk : Check} (he : exec i s = tokenForm i event (fun c => c.put d 0 s.now 1) eff s)
    (hx : s.core.tokenAccess i = some x) (hchk : s.checkRights x.tok x.off x.n x.need = chk) (hok : chk ≠ .ok) :
    Completes i s fun u => ZeroesScalar d s u ∧ NullBooked s chk u := by
  refine completes_tokenNull he hx hchk hok ⟨⟨?_, fun q hq => ?_, ?_, ?_⟩, ?_⟩
  · rw [retireWith_core, Core.retire_rs]; exact put_rs_zero _ _ s.now 1
  · rw [retireWith_core, Core.retire_rs, ← Core.nullBook_rs s.core chk]; exact put_rs_ne _ _ _ 0 s.now 1 hq
  · rw [retireWith_core, Core.retire_k, ← Core.nullBook_k s.core chk]; exact put_k _ _ 0 s.now 1
  · rw [retireWith_core, Core.retire_bc, ← Core.nullBook_bc s.core chk]; exact put_bc _ _ 0 s.now 1
  · exact nullBooked_of (f := fun c => (c.put d 0 s.now 1).note event) ((keeps_put ..).trans (keeps_note ..))
      (still_note_null event (still_put_null ..))

/-- The null effect of a token atomic (R120). -/
theorem amoNull {i : Instr} {op d y : BitVec 4} {p : BitVec 3} {o : BitVec 2} {s : State} {x : TokenAccess} {chk : Check}
    (he : exec i s = amoForm i op d y p o s) (hx : s.core.tokenAccess i = some x)
    (hchk : s.checkRights x.tok x.off x.n x.need = chk) (hok : chk ≠ .ok) :
    Completes i s fun u => ZeroesScalar (d.setWidth 5) s u ∧ NullBooked s chk u := by
  unfold amoForm at he
  exact scalarNull he hx hchk hok

/-- The null effect of a store: nothing (R52). -/
theorem storeNull {i : Instr} {event : BitVec 8} {eff : TokenAccess → State → State} {s : State} {x : TokenAccess} {chk : Check}
    (he : exec i s = tokenForm i event (fun c => c) eff s) (hx : s.core.tokenAccess i = some x)
    (hchk : s.checkRights x.tok x.off x.n x.need = chk) (hok : chk ≠ .ok) :
    Completes i s fun u => (u.core.s = s.core.s ∧ u.core.k = s.core.k ∧ u.core.bc = s.core.bc) ∧ NullBooked s chk u := by
  refine completes_tokenNull he hx hchk hok ⟨⟨?_, ?_, ?_⟩, ?_⟩
  · rw [retireWith_core, Core.retire_s]; exact Core.nullBook_s ..
  · rw [retireWith_core, Core.retire_k]; exact Core.nullBook_k ..
  · rw [retireWith_core, Core.retire_bc]; exact Core.nullBook_bc ..
  · exact nullBooked_of (f := fun c => c.note event) (keeps_note ..) rfl

/-- The null effect of `kld`: the token becomes 0 (R49). -/
theorem kldNull {s : State} {d k : BitVec 4} {b : BitVec 5} {chk : Check}
    (hchk : s.checkRights (s.core.rk k) (s.core.rs b).toNat 32 1 = chk) (hok : chk ≠ .ok) :
    Completes (.kld d k b) s fun u => (u.core.rk d = Token.zero ∧ (∀ q, q ≠ d → u.core.rk q = s.core.rk q) ∧
      u.core.s = s.core.s ∧ u.core.bc = s.core.bc) ∧ NullBooked s chk u := by
  refine completes_tokenNull (exec_kld ..) rfl hchk hok ⟨⟨?_, fun q hq => ?_, ?_, ?_⟩, ?_⟩
  · rw [retireWith_core, Core.retire_rk]; exact putK_rk _ _ _ s.now 1
  · rw [retireWith_core, Core.retire_rk, ← Core.nullBook_rk s.core chk]; exact putK_rk_ne _ _ _ Token.zero s.now 1 hq
  · rw [retireWith_core, Core.retire_s, ← Core.nullBook_s s.core chk]; exact putK_s _ d Token.zero s.now 1
  · rw [retireWith_core, Core.retire_bc, ← Core.nullBook_bc s.core chk]; exact putK_bc _ d Token.zero s.now 1
  · refine nullBooked_of (f := fun c => (c.putK d Token.zero s.now 1).note 8) ((keeps_putK _ d Token.zero s.now 1).trans (keeps_note ..)) ?_
    exact still_note_null 8 (still_putK_null _ d Token.zero s.now 1)

/-- The null effect of a `waita` that has not begun to wait: value 0 and BC 1 (R130). -/
theorem waitaNull {s : State} {w : BitVec 1} {d k b x : BitVec 4} {p : BitVec 3} {chk : Check} (hw : s.core.waiting = .none)
    (hchk : s.checkRights (s.core.rk k) (s.core.rn b).toNat (amoSize w) 1 = chk) (hok : chk ≠ .ok) :
    Completes (.waita w d k b x p) s fun u => (u.core.rs (d.setWidth 5) = 0 ∧
      (∀ q, q ≠ d.setWidth 5 → u.core.rs q = s.core.rs q) ∧ u.core.k = s.core.k ∧ u.core.bc = true) ∧ NullBooked s chk u := by
  intro hgo
  refine ⟨retireWith s fun c => ((c.nullBook chk).put (d.setWidth 5) 0 s.now 1).putBc true s.now, ?_, ⟨?_, fun q hq => ?_, ?_, ?_⟩, ?_⟩
  · rw [exec_waita, execWaita, withGate_go hgo]
    simp only [hw, Core.tokenAccess, hchk]
  · rw [retireWith_core, Core.retire_rs]; exact put_rs_zero _ _ s.now 1
  · rw [retireWith_core, Core.retire_rs, ← Core.nullBook_rs s.core chk]; exact put_rs_ne _ _ _ 0 s.now 1 hq
  · rw [retireWith_core, Core.retire_k, ← Core.nullBook_k s.core chk]; exact put_k _ _ 0 s.now 1
  · rw [retireWith_core, Core.retire_bc]; rfl
  · refine nullBooked_of (f := fun c => (c.put (d.setWidth 5) 0 s.now 1).putBc true s.now) ((keeps_put ..).trans (keeps_putBc ..)) ?_
    rw [still_putBc, still_put_null]; rfl

/-- Settles O31: the verdicts by the order of Token.Check, and each form's null effect. -/
theorem tokenChecks : Obligations.TokenChecks := by
  refine ⟨fun t off n need s => ?_, fun d5 b5 d k b x p o z g w s => ?_⟩
  · intro c e len frame line looks foreign
    refine ⟨fun h => State.checkRights_of_ne_ok (State.check_of_foreign off n h) (by decide), fun h hmiss => ?_, fun h hlines => ?_⟩
    · refine State.checkRights_of_ne_ok ?_ (by decide)
      rw [State.check_of_not_foreign off n h, if_pos (Core.missAt_isSome_iff.mpr hmiss)]
    · have hhit : ¬(c.missAt t off n).isSome := fun hm =>
        let ⟨o, ho, hnone⟩ := Core.missAt_isSome_iff.mp hm
        hlines o ho hnone
      have hcheck := (State.check_of_not_foreign off n h).trans (if_neg hhit)
      refine ⟨fun ⟨o, l, ho, hl, hbad⟩ => ?_, fun hlive => ?_⟩
      · exact State.checkRights_of_ne_ok (hcheck.trans (if_pos (Core.any_stale_iff.mpr ⟨o, ho, l, hl, hbad⟩))) (by decide)
      · have hfresh := hcheck.trans (if_neg fun hs =>
          let ⟨o, ho, l, hl, hbad⟩ := Core.any_stale_iff.mp hs
          hbad.elim (fun hf => Bool.false_ne_true (hf.symm.trans (hlive o l ho hl).1)) (fun hg => hg (hlive o l ho hl).2))
        exact ⟨fun hlen => State.checkRights_of_ne_ok (hfresh.trans (if_pos hlen)) (by decide),
          fun hlen => State.checkRights_of_ok (hfresh.trans (if_neg (Nat.not_lt.mpr hlen)))⟩
  · intro c book null zeroS none' m
    refine ⟨fun chk hc hok _ => scalarNull (exec_ld ..) rfl hc hok, fun chk hc hok _ => storeNull (exec_st ..) rfl hc hok,
      fun chk hc hok _ => storeNull (exec_kst ..) rfl hc hok, fun chk hc hok _ => kldNull hc hok, fun i hi chk hc hok _ => ?_, fun chk hc hok _ => ?_,
      fun hw chk hc hok _ => waitaNull hw hc hok⟩
    · simp only [List.mem_cons, List.not_mem_nil, or_false] at hi
      obtain rfl | rfl | rfl | rfl | rfl | rfl | rfl | rfl | rfl | rfl | rfl := hi
      · exact amoNull (exec_amoAdd ..) rfl hc hok
      · exact amoNull (exec_amoAnd ..) rfl hc hok
      · exact amoNull (exec_amoOr ..) rfl hc hok
      · exact amoNull (exec_amoXor ..) rfl hc hok
      · exact amoNull (exec_amoMin ..) rfl hc hok
      · exact amoNull (exec_amoMax ..) rfl hc hok
      · exact amoNull (exec_amoMinu ..) rfl hc hok
      · exact amoNull (exec_amoMaxu ..) rfl hc hok
      · exact amoNull (exec_amoSwap ..) rfl hc hok
      · exact amoNull (exec_amoCas ..) rfl hc hok
      · exact amoNull (exec_amoAddt ..) rfl hc hok
    · exact amoNull (exec_amoFadd ..) rfl hc hok

/-! ## Reading, copying, narrowing, releasing (R45-R47, R50) -/

/-- A field of `kinfo` (R45). -/
theorem kinfo_puts (d : BitVec 5) (k : BitVec 4) (f : BitVec 5) (s : State) :
    Puts (.kinfo d k f) d s
      (kinfoField (s.core.rk k) (s.entry (s.core.rk k).index.toNat) (s.check (s.core.rk k) 0 0) f.toNat) :=
  puts_put (x := fun _ => kinfoField (s.core.rk k) (s.entry (s.core.rk k).index.toNat) (s.check (s.core.rk k) 0 0) f.toNat)
    (exec_kinfo ..)

/-- `kinfo` of a field whose value is known (R45). -/
theorem kinfo_puts_of {d : BitVec 5} {k : BitVec 4} {f : BitVec 5} {s : State} {v : Word}
    (h : kinfoField (s.core.rk k) (s.entry (s.core.rk k).index.toNat) (s.check (s.core.rk k) 0 0) f.toNat = v) :
    Puts (.kinfo d k f) d s v := h ▸ kinfo_puts d k f s

theorem kinfoField_valid (t : Token) (e : AlmanacEntry) (chk : Check) : kinfoField t e chk 0 = if t.gen = 0 then 0 else 1 := by
  simp [kinfoField, boolWord]

theorem kinfoField_length (t : Token) (e : AlmanacEntry) (chk : Check) :
    kinfoField t e chk 1 = if t.gen = 0 then 0 else BitVec.ofNat 64 (t.lenm1.toNat + 1) := ite_not ..

/-- A field that is given only while the check does not find the token gone: the fields of the entry (R45). -/
theorem ite_gone {α : Type} (chk : Check) (x y : α) : (if (decide (chk = .stale) || decide (chk = .invalid)) = true then x else y) =
    if chk = .stale ∨ chk = .invalid then x else y := by
  simp only [Bool.or_eq_true, decide_eq_true_eq]

/-- Only the effect on the state at issue counts. -/
theorem withGate_congr {i : Instr} {s : State} {eff eff' : State → State} (h : eff s = eff' s) :
    withGate i s eff = withGate i s eff' := by
  unfold withGate
  rw [h]

/-- `ksub` where it writes the token `x` and counts nothing (R47). -/
theorem ksub_puts {j k : BitVec 4} {o l : BitVec 5} {s : State} {x : Token}
    (h : ¬((s.core.rk k).gen ≠ 0 ∧ ((s.core.rs l).toNat = 0 ∨ (s.core.rk k).len < (s.core.rs o).toNat + (s.core.rs l).toNat)))
    (hx : x = if (s.core.rk k).gen = 0 then Token.zero else
      { s.core.rk k with vbase := (s.core.rk k).vbase + BitVec.ofNat 56 (s.core.rs o).toNat
                         lenm1 := BitVec.ofNat 32 ((s.core.rs l).toNat - 1) }) :
    PutsToken (.ksub j k o l) j s x := by
  refine putsToken_of (f := fun _ => x) (lat := 1) ((exec_ksub ..).trans (withGate_congr ?_))
  refine congrArg (fun c : Core => s.mod fun _ => c.retire s.now) ?_
  subst hx
  by_cases hgen : (s.core.rk k).gen = 0
  · simp only [hgen, if_true]
  · simp only [hgen, if_false, if_neg (fun hlen => h ⟨hgen, hlen⟩)]

/-- The count of an extent that does not fit (R47). -/
def Core.refuseExtent (c : Core) : Core :=
  { c with oobcnt := if c.oobcnt = BitVec.allOnes 32 then c.oobcnt else c.oobcnt + 1, oob := true }

theorem keeps_refuseExtent (c : Core) : Keeps c c.refuseExtent := ⟨rfl, rfl, rfl, rfl, rfl, rfl⟩

theorem still_refuseExtent (c : Core) :
    c.refuseExtent.still = { c.still with oob := true, oobcnt := c.refuseExtent.oobcnt } := rfl

/-- What OOBCNT and STATUS.OOB count set back, with the token registers, gives the core that stood. -/
theorem still_count_back {c d : Core} {y : Vector Token 16} {o : Bool} {n : BitVec 32}
    (h : d.still = { c.still with k := y, oob := o, oobcnt := n }) :
    { d.still with k := c.k, oob := c.oob, oobcnt := c.oobcnt } = c.still := by rw [h]; rfl

/-- `ksub` of an extent that does not fit clears its destination and counts (R47). -/
theorem ksub_counts {j k : BitVec 4} {o l : BitVec 5} {s : State} (hgen : (s.core.rk k).gen ≠ 0)
    (hlen : (s.core.rs l).toNat = 0 ∨ (s.core.rk k).len < (s.core.rs o).toNat + (s.core.rs l).toNat) :
    Completes (.ksub j k o l) s fun u =>
      u.core.rk j = Token.zero ∧ (∀ r, r ≠ j → u.core.rk r = s.core.rk r) ∧ u.core.oob = true ∧
      u.core.oobcnt.toNat = min (s.core.oobcnt.toNat + 1) 0xFFFFFFFF ∧
      { u.core.still with k := s.core.k, oob := s.core.oob, oobcnt := s.core.oobcnt } = s.core.still ∧ Outside s u ∧
      BytesKept s u ∧ Retires s u := by
  have hk : Keeps s.core (s.core.refuseExtent.putK j Token.zero s.now 1) := (keeps_refuseExtent _).trans (keeps_putK ..)
  have hstill : (s.core.refuseExtent.putK j Token.zero s.now 1).still = { s.core.still with
      k := ((s.core.refuseExtent.unmark (kr j)).wk j Token.zero).k, oob := true, oobcnt := s.core.refuseExtent.oobcnt } := by
    rw [still_putK, still_refuseExtent]
  intro hgo
  refine ⟨retireWith s fun c => c.refuseExtent.putK j Token.zero s.now 1, ?_, ?_, fun r hr => ?_, ?_, ?_, ?_, rfl, bytes_of hk,
    retires_of hk⟩
  · rw [exec_ksub, execKsub, withGate_go hgo]
    refine congrArg (fun c : Core => Host.Outcome.next (s.mod fun _ => c.retire s.now)) ?_
    simp only [hgen, if_false, if_pos hlen, Core.refuseExtent]
  · rw [retireWith_core, Core.retire_rk]; exact putK_rk _ j Token.zero s.now 1
  · rw [retireWith_core, Core.retire_rk]; exact putK_rk_ne s.core.refuseExtent j r Token.zero s.now 1 hr
  · have := congrArg Core.oob ((Core.still_retire _ s.now).trans hstill); exact this
  · have := congrArg Core.oobcnt ((Core.still_retire _ s.now).trans hstill)
    exact (congrArg BitVec.toNat this).trans (saturating_succ_toNat _)
  · rw [retireWith_core, Core.still_retire]; exact still_count_back hstill

/-- What `krel` does, whatever it posts to F2 (R50). -/
theorem krel_frame (k : BitVec 4) (s : State) (rs : List (Nat × Nat)) :
    let u := retireWith { s with releases := rs } fun c => c.putK k Token.zero s.now 1
    u.core.rk k = Token.zero ∧ (∀ r, r ≠ k → u.core.rk r = s.core.rk r) ∧ { u.core.still with k := s.core.k } = s.core.still ∧
      u.releases = rs ∧ { u with core := s.core, releases := s.releases } = s ∧ BytesKept s u ∧ Retires s u := by
  intro u
  have hu : u.core = (s.core.putK k Token.zero s.now 1).retire s.now := rfl
  have hbytes : BytesKept s (retireWith s fun c => c.putK k Token.zero s.now 1) := bytes_of (keeps_putK ..)
  have hretires : Retires s (retireWith s fun c => c.putK k Token.zero s.now 1) := retires_of (keeps_putK ..)
  refine ⟨?_, fun r hr => ?_, ?_, rfl, rfl, hbytes, hretires⟩
  · rw [hu, Core.retire_rk, putK_rk]
  · rw [hu, Core.retire_rk, putK_rk_ne _ _ _ _ _ _ hr]
  · rw [hu, Core.still_retire]; exact still_k_back (still_putK ..)

/-- Settles O32: each field by its own value, each extent by whether it fits, and the release of a token by whether it is live. -/
theorem tokenRegisters : Obligations.TokenRegisters := by
  intro d o l j k f s c t e off len gone info held
  refine ⟨fun h => ?_, fun h => ?_, fun h => ?_, fun h => ?_, fun h => ?_, fun h => ?_, fun h => ?_, fun h => ?_, fun h => ?_,
    fun h => ?_, fun h => ?_, putsToken_of (f := fun c => c.rk k) (exec_kmov ..),
    putsToken_of (f := fun _ => Token.zero) (exec_kclr ..), fun hgen => ksub_puts (fun h => h.1 hgen) (if_pos hgen).symm,
    fun hgen hlen hfit => ksub_puts (fun h => h.2.elim hlen (Nat.not_lt.mpr hfit)) (if_neg hgen).symm,
    fun hgen hbad => ksub_counts hgen hbad, fun hgo => ?_⟩
  · subst h; exact kinfo_puts_of (kinfoField_valid ..)
  · subst h; exact kinfo_puts_of (kinfoField_length ..)
  · subst h; exact kinfo_puts_of rfl
  · subst h; exact kinfo_puts_of rfl
  · subst h; exact kinfo_puts_of rfl
  · subst h; exact kinfo_puts_of rfl
  · subst h; exact kinfo_puts_of rfl
  · subst h; exact kinfo_puts_of (ite_gone ..)
  · subst h; exact kinfo_puts_of (ite_gone ..)
  · subst h; exact kinfo_puts_of (ite_gone ..)
  · subst h; exact kinfo_puts_of (ite_gone ..)
  · have hexec : exec (.krel k) s = .next (retireWith (if held then
        { s with releases := s.releases ++ [(t.index.toNat, t.gen.toNat)] } else s) fun c => c.putK k Token.zero s.now 1) :=
      (exec_krel ..).trans (withGate_go hgo)
    by_cases hheld : held
    · obtain ⟨htok, hothers, hstill, hrel, hout, hbytes, hretires⟩ :=
        krel_frame k s (s.releases ++ [(t.index.toNat, t.gen.toNat)])
      exact ⟨_, by rw [hexec, if_pos hheld], htok, hothers, hstill, fun _ => hrel, fun hn => absurd hheld hn, hout, hbytes, hretires⟩
    · obtain ⟨htok, hothers, hstill, hrel, hout, hbytes, hretires⟩ := krel_frame k s s.releases
      exact ⟨_, by rw [hexec, if_neg hheld], htok, hothers, hstill, fun h => absurd h hheld, fun _ => hrel, hout, hbytes, hretires⟩

end Sys2Proof.Machine
end

section
/-! SUPPORT. Token accesses that pass their check (03 R38, R48, R49, R51, 11 R240, R241). -/

namespace Sys2Proof.Machine

/-! ## A token access that passes is issued -/

/-- A token access that passes its check has its own effect and retires. -/
theorem completes_tokenPass {i : Instr} {event : BitVec 8} {null : Core → Core} {eff : TokenAccess → State → State} {s : State}
    {x : TokenAccess} {P : State → Prop} (he : exec i s = tokenForm i event null eff s) (hx : s.core.tokenAccess i = some x)
    (hok : s.checkRights x.tok x.off x.n x.need = .ok) (hP : P (retireWith (eff x s) fun c => c.note event)) :
    Completes i s P := by
  intro hgo
  refine ⟨_, ?_, hP⟩
  rw [he, tokenForm, withGate_go hgo]
  simp only [hx, hok]

/-- Retirement with an effect that keeps the path of control and Vigil, in a state that may differ outside the core. -/
theorem retires_retireWith {s u : State} {f : Core → Core} (hk : Keeps s.core (f u.core)) : Retires s (retireWith u f) :=
  ⟨Core.path_advance hk.path, by rw [retireWith_core, Core.vigil_retire, hk.vigil], rfl, rfl⟩

/-- Issuing an access and retiring with an effect that leaves no more than a watchpoint's trace is `Issued`. -/
theorem issued_retireWith {s : State} {a : Access} {f : Core → Core} {x : Option WatchReport}
    (hk : Keeps (s.issueAccess a).core (f (s.issueAccess a).core))
    (hs : (f (s.issueAccess a).core).still = { (s.issueAccess a).core.still with watchNow := x }) :
    Issued s a (retireWith (s.issueAccess a) f) := by
  have hkeep : Keeps s.core (f (s.issueAccess a).core) := (keeps_issueAccess s a).trans hk
  refine ⟨?_, s.now_lt_dueCycle, ?_, (outsideFree_issueAccess s a).retireWith _,
    (bytesKept_issueAccess s a).trans (bytes_of hk), retires_retireWith hkeep⟩
  · rw [retireWith_core, Core.retire_acc]
    have := congrArg Core.acc hs; exact this
  · rw [retireWith_core, Core.still_retire]
    exact still_issue_back (hs.trans (by rw [still_issueAccess]))
theorem Core.watchNow_retire_note (c : Core) (e : BitVec 8) (now : Nat) : ((c.note e).retire now).watchNow = c.watchNow :=
  Core.retire_watchNow ..

/-- A token load that passes its check is issued, and leaves no trace of a watchpoint (R51, R240). -/
theorem tokenLoad_completes {i : Instr} {event : BitVec 8} {null : Core → Core} {eff : TokenAccess → State → State} {s : State}
    {x : TokenAccess} {kind : AccKind} {o : BitVec 2} {p : BitVec 3} (he : exec i s = tokenForm i event null eff s)
    (hx : s.core.tokenAccess i = some x) (heff : eff x s = s.tokenFetch kind x o p)
    (hok : s.checkRights x.tok x.off x.n x.need = .ok) :
    let e := s.entry x.tok.index.toNat
    Completes i s fun u => u.core.watchNow = s.core.watchNow ∧
      Issued s { Access.make kind e.space x.n o p x.va with reads := e.loadRanges x.va x.n, index := some x.tok.index.toNat } u := by
  refine completes_tokenPass he hx hok ?_
  rw [heff]
  exact ⟨Core.watchNow_retire_note .., issued_retireWith (x := s.core.watchNow) (keeps_note ..) rfl⟩

/-- A token store that passes its check is issued with its bytes, and a watchpoint sees it (R51, R240, R409). -/
theorem tokenStore_completes {i : Instr} {event : BitVec 8} {null : Core → Core} {eff : TokenAccess → State → State} {s : State}
    {x : TokenAccess} {o : BitVec 2} {p : BitVec 3} (bs : List Byte) (he : exec i s = tokenForm i event null eff s)
    (hx : s.core.tokenAccess i = some x) (hn : bs.length = x.n)
    (heff : eff x s = (s.tokenStore x bs o p).mod fun c => c.strikeStore false (span x.va x.n) s.now)
    (hok : s.checkRights x.tok x.off x.n x.need = .ok) :
    let e := s.entry x.tok.index.toNat
    Completes i s fun u =>
      Issued s { Access.make .store e.space bs.length o p x.va with
        parts := e.storeParts x.va bs, index := some x.tok.index.toNat } u ∧
      (s.core.inh = true ∨ s.core.strike 18 false (span x.va bs.length) = none → u.core.watchNow = s.core.watchNow) ∧
      (∀ wp hit, s.core.inh = false → s.core.strike 18 false (span x.va bs.length) = some (wp, hit) →
        u.core.watchNow = some ⟨0, wp, s.now, 0, hit⟩) := by
  refine completes_tokenPass he hx hok ?_
  rw [heff, hn]
  refine ⟨issued_retireWith (f := fun c => (c.strikeStore false (span x.va x.n) s.now).note event)
    ((keeps_strikeStore ..).trans (keeps_note ..)) ((still_note ..).trans (still_strikeStore ..)), ?_⟩
  simp only [retireWith_core, Core.watchNow_retire_note]
  exact watchNow_strikeStore (c := s.core) (d := (s.tokenStore x bs o p).core) rfl rfl rfl rfl ..

/-- Settles O34: the two loads and the two stores, each by its own access. -/
theorem tokenAccesses : Obligations.TokenAccesses := by
  intro d b j k p o z g s c t e off va issued loads stores
  refine ⟨fun hok => ?_, fun hok => ?_, fun hok => ?_, fun hok => ?_⟩
  · exact tokenLoad_completes (x := ⟨t, off, 2 ^ z.toNat, 1, false⟩) (kind := .load (.s d.toNat) (g == 1)) (exec_ld ..) rfl rfl hok
  · exact tokenLoad_completes (x := ⟨t, off, 32, 1, false⟩) (kind := .kload j.toNat) (exec_kld ..) rfl rfl hok
  · have hn := length_natToBytes (2 ^ z.toNat) (c.rs d).toNat
    rw [hn] at hok
    exact tokenStore_completes (x := ⟨t, off, 2 ^ z.toNat, 2, false⟩) (natToBytes (2 ^ z.toNat) (c.rs d).toNat) (exec_st ..) rfl hn rfl hok
  · have hn := length_sealToken s.sealKey c.partId (c.rk j)
    have hok' : s.checkRights t off 32 2 = .ok := hn ▸ hok
    exact tokenStore_completes (x := ⟨t, off, 32, 2, false⟩) (sealToken s.sealKey c.partId (c.rk j)) (exec_kst ..) rfl hn rfl hok'

end Sys2Proof.Machine
end

section
/-! SUPPORT. Translation (03 R39-R42): the plan of an `xlat`, the entry it fills, its fault, and the frame-cache fill. -/

namespace Sys2Proof.Machine

/-! ## Changing one core, or every core -/

theorem coreAt_phys {s : State} {n : Nat} {c : Core} (h : s.coreAt n = some c) : c.phys = n := by
  rw [State.coreAt] at h
  simpa using List.find?_some h

theorem coreAt_modAll (s : State) {f : Core → Core} (hf : ∀ c, (f c).phys = c.phys) (n : Nat) :
    (s.modAll f).coreAt n = (s.coreAt n).map f := by
  have hcores : (s.modAll f).cores = s.cores.map f := rfl
  rw [State.coreAt, hcores, List.find?_map]
  simp only [Function.comp_def, hf]
  rfl

theorem cores_modAt (s : State) (n : Nat) (f : Core → Core) :
    (s.modAt n f).cores = s.cores.map fun c => if c.phys = n then f c else c := rfl

theorem coreAt_modAt (s : State) {n : Nat} {f : Core → Core} (hf : ∀ c, c.phys = n → (f c).phys = n) (m : Nat) :
    (s.modAt n f).coreAt m = if m = n then (s.coreAt n).map f else s.coreAt m := by
  have hphys : ∀ c : Core, (if c.phys = n then f c else c).phys = c.phys := fun c => by
    split_ifs with h
    · exact (hf c h).trans h.symm
    · rfl
  rw [State.coreAt, cores_modAt, List.find?_map]
  simp only [Function.comp_def, hphys]
  change (s.coreAt m).map _ = _
  cases hm : s.coreAt m with
  | none =>
    split_ifs with h
    · rw [← h, hm]; rfl
    · rfl
  | some c =>
    have hc : c.phys = m := coreAt_phys hm
    split_ifs with h
    · rw [← h, hm, Option.map_some, Option.map_some, if_pos hc]
    · rw [Option.map_some, if_neg (hc ▸ h)]

theorem onlyCore_modAt (s : State) {n : Nat} {f : Core → Core} (hf : ∀ c, c.phys = n → (f c).phys = n) :
    OnlyCore n f s (s.modAt n f) :=
  ⟨by rw [coreAt_modAt s hf, if_pos rfl], fun m hm => by rw [coreAt_modAt s hf, if_neg hm], rfl⟩

/-- Changing every core without its memories changes no byte. -/
theorem bytesKept_modAll (s : State) {f : Core → Core} (hp : ∀ c, (f c).phys = c.phys) (hs : ∀ c, (f c).scr = c.scr)
    (hw : ∀ c, (f c).wb = c.wb) (hl : ∀ c, (f c).lanes = c.lanes) : BytesKept s (s.modAll f) := by
  refine ⟨fun sp a => ?_, fun _ _ => rfl, fun a => ⟨rfl, congrArg (memGet · a) (hl s.core)⟩⟩
  cases sp with
  | main =>
    show memGet (s.die (dieOf (f s.core).phys)).view a = _
    rw [hp]; rfl
  | lent => rfl
  | csm k =>
    simp only [State.spaceByte, State.csmByte, coreAt_modAll s hp]
    cases s.coreAt (csmCore k a) with
    | none => rfl
    | some c => exact congrArg (memGet · _) (hs c)
  | pool => rfl
  | wb => exact congrArg (memGet · a) (hw s.core)
  | own => exact congrArg (memGet · a) (hs s.core)

theorem modPart_core (s : State) (p : Nat) (f : Partition → Partition) : (s.modPart p f).core = s.core := by
  unfold State.modPart; split <;> rfl

theorem modPart_now (s : State) (p : Nat) (f : Partition → Partition) : (s.modPart p f).now = s.now := by
  unfold State.modPart; split <;> rfl

theorem bytesKept_refl (s : State) : BytesKept s s := ⟨fun _ _ => rfl, fun _ _ => rfl, fun _ => ⟨rfl, rfl⟩⟩

theorem bytesKept_modPart (s : State) (p : Nat) (f : Partition → Partition) : BytesKept s (s.modPart p f) := by
  unfold State.modPart; split <;> exact bytesKept_refl s

/-! ## The plan of an `xlat`: its extent tests come first (R40, R41) -/

theorem xlatPlan_unmapped_extent (s : State) (part : Nat) {sa sb : Word} (r : BitVec 2)
    (h : sb.toNat = 0 ∨ 2 ^ 56 ≤ sa.toNat) : s.xlatPlan part sa sb r = .fault 1 sa.toNat := if_pos h

theorem xlatPlan_long_extent (s : State) (part : Nat) {sa sb : Word} (r : BitVec 2) (h0 : sb.toNat ≠ 0)
    (ha : sa.toNat < 2 ^ 56) (h : 2 ^ 32 < sb.toNat) : s.xlatPlan part sa sb r = .fault 2 sa.toNat := by
  unfold State.xlatPlan
  exact (if_neg (not_or.mpr ⟨h0, Nat.not_le.mpr ha⟩)).trans (if_pos h)

theorem xlatPlan_high_extent (s : State) (part : Nat) {sa sb : Word} (r : BitVec 2) (h0 : sb.toNat ≠ 0)
    (ha : sa.toNat < 2 ^ 56) (hb : sb.toNat ≤ 2 ^ 32) (h : 2 ^ 56 ≤ sa.toNat + sb.toNat - 1) :
    s.xlatPlan part sa sb r = .fault 1 sa.toNat := by
  unfold State.xlatPlan
  exact (if_neg (not_or.mpr ⟨h0, Nat.not_le.mpr ha⟩)).trans ((if_neg (Nat.not_lt.mpr hb)).trans (if_pos h))

/-! ## The strand's wait -/

/-- A wait of the strand that leaves everything but the wait itself. -/
def OnlyWaits (w : Waiting) (s t : State) : Prop :=
  t.core.waiting = w ∧ t.core.still = s.core.still ∧ t.core.pc = s.core.pc ∧ t.core.vigil = s.core.vigil ∧ OutsideFree s t ∧
    BytesKept s t

theorem onlyWaits_stallFor (s : State) (w : Waiting) (fv : Nat) (reason : BitVec 8) :
    OnlyWaits w s (State.stallFor { s with core := { s.core with waiting := w }, fv := fv } reason) := by
  have hbytes : BytesKept s (s.mod fun c => Core.stalled { c with waiting := w } reason s.now) := bytesKept_mod _ _ rfl rfl rfl rfl
  exact ⟨rfl, rfl, rfl, rfl, rfl, hbytes⟩

theorem gate_of_committed {i : Instr} {s : State} (h : s.core.waiting.committed = true) : gate i s = .go := by
  unfold gate; exact if_pos h

/-! ## The entry that a translation fills (R40) -/

/-- The core as a fill leaves it: without the lines of the index it cached before. -/
def Core.forget (c : Core) (i : Nat) : Core := { c with tfc := c.tfc.filter fun l => l.index ≠ i }

section
variable (s : State) (part task va len : Nat) (rights : BitVec 2) (home : Option Nat) (gran : Nat) (mode : ProtMode)
  (frames : List Nat)

theorem fillEntry_core : (s.fillEntry part task va len rights home gran mode frames).2.core = s.core.forget s.freeIndex :=
  (modPart_core ..).trans rfl

theorem fillEntry_entry_ne {m : Nat} (h : m ≠ s.freeIndex) :
    (s.fillEntry part task va len rights home gran mode frames).2.entry m = s.entry m := by
  show (mapGet (State.modPart _ part _).almanac m).getD _ = _
  rw [modPart_almanac]
  exact congrArg (Option.getD · freshEntry) (mapGet_mapSet_ne _ _ h)

theorem bytesKept_fillEntry : BytesKept s (s.fillEntry part task va len rights home gran mode frames).2 := by
  have hcores : BytesKept s (s.modAll fun c => c.forget s.freeIndex) :=
    bytesKept_modAll s (fun _ => rfl) (fun _ => rfl) (fun _ => rfl) (fun _ => rfl)
  exact BytesKept.trans hcores (bytesKept_modPart ..)

end

/-- The token of a fill (R36, R40). -/
theorem fillEntry_token (s : State) (part task va len : Nat) (rights : BitVec 2) (home : Option Nat) (gran : Nat)
    (mode : ProtMode) (frames : List Nat) : (s.fillEntry part task va len rights home gran mode frames).1 =
      ⟨BitVec.ofNat 56 va, BitVec.ofNat 32 (len - 1), BitVec.ofNat 20 s.freeIndex, (s.entry s.freeIndex).gen,
        BitVec.ofNat 6 part, rights⟩ := rfl

/-- The index of the token is the entry's own: it fits its field. -/
theorem ofNat_freeIndex (s : State) : (BitVec.ofNat 20 s.freeIndex).toNat = s.freeIndex := by
  rw [BitVec.toNat_ofNat]; exact Nat.mod_eq_of_lt s.freeIndex_lt

/-- What a fill moves in the core set back gives the core that stood. -/
theorem still_fill_back {c d : Core} {y : Vector Token 16} {z : List TfcEntry} (h : d.still = { c.still with k := y, tfc := z }) :
    { d.still with k := c.k, tfc := c.tfc } = c.still := by rw [h]; rfl

theorem still_forget (c : Core) (i : Nat) : (c.forget i).still = { c.still with tfc := (c.forget i).tfc } := rfl

theorem keeps_forget (c : Core) (i : Nat) : Keeps c (c.forget i) := ⟨rfl, rfl, rfl, rfl, rfl, rfl⟩

/-- An `xlat` begins to wait an untimed while (R40). -/
theorem xlat_begins {k : BitVec 4} {a b : BitVec 5} {r : BitVec 2} {s : State} (hw : s.core.waiting = .none) :
    Completes (.xlat k a b r) s (OnlyWaits (.until s.dueCycle) s) := by
  intro hgo
  refine ⟨_, ?_, onlyWaits_stallFor s (.until s.dueCycle) (s.fv + 1) 14⟩
  rw [exec_xlat, execXlat, withGate_go hgo]
  simp only [hw]

/-- An `xlat` whose fault F2 has goes on waiting (R42). -/
theorem exec_xlat_given {k : BitVec 4} {a b : BitVec 5} {r : BitVec 2} {s : State} {code at' : Nat}
    (hw : s.core.waiting = .xlat code at' false) : exec (.xlat k a b r) s = .next (s.stallFor 14) := by
  rw [exec_xlat, execXlat, withGate_go (gate_of_committed (by rw [hw]; rfl))]
  simp only [hw]

/-- A delivered fault traps (R41, R42). -/
theorem exec_xlat_delivered {k : BitVec 4} {a b : BitVec 5} {r : BitVec 2} {s : State} {code at' : Nat}
    (hw : s.core.waiting = .xlat code at' true) :
    exec (.xlat k a b r) s = .next (s.takeTrap 6 (BitVec.ofNat 64 (code * 2 ^ 56 + at' % 2 ^ 56)) s.core.pc) := by
  rw [exec_xlat, execXlat, withGate_go (gate_of_committed (by rw [hw]; rfl))]
  simp only [hw]

/-- An `xlat` that meets a fault has it given to F2 (R42). -/
theorem xlat_faults {k : BitVec 4} {a b : BitVec 5} {r : BitVec 2} {s : State} {due code at' : Nat}
    (hw : s.core.waiting = .until due) (hdue : due ≤ s.now)
    (hplan : s.xlatPlan s.core.partId (s.core.rs a) (s.core.rs b) r = .fault code at') :
    ∃ t, exec (.xlat k a b r) s = .next t ∧ OnlyWaits (.xlat code at' false) s t := by
  refine ⟨_, ?_, onlyWaits_stallFor s (.xlat code at' false) s.fv 14⟩
  rw [exec_xlat, execXlat, withGate_go (gate_of_committed (by rw [hw]; rfl))]
  simp only [hw, if_neg (Nat.not_lt.mpr hdue), hplan]

/-- An `xlat` of pages that are not in one place waits for F2 (R42). -/
theorem xlat_pages {k : BitVec 4} {a b : BitVec 5} {r : BitVec 2} {s : State} {due : Nat}
    (hw : s.core.waiting = .until due) (hdue : due ≤ s.now)
    (hplan : s.xlatPlan s.core.partId (s.core.rs a) (s.core.rs b) r = .paging) :
    ∃ t, exec (.xlat k a b r) s = .next t ∧ OnlyWaits (.xlat 0 (s.core.rs a).toNat false) s t := by
  refine ⟨_, ?_, onlyWaits_stallFor s (.xlat 0 (s.core.rs a).toNat false) s.fv 14⟩
  rw [exec_xlat, execXlat, withGate_go (gate_of_committed (by rw [hw]; rfl))]
  simp only [hw, if_neg (Nat.not_lt.mpr hdue), hplan]

/-- An `xlat` that fills an entry: its token, the entry, and nothing else but the cached lines of the index (R40). -/
theorem xlat_fills {k : BitVec 4} {a b : BitVec 5} {r : BitVec 2} {s : State} {due : Nat} {home : Option Nat} {gran : Nat}
    {mode : ProtMode} {frames : List Nat} (hw : s.core.waiting = .until due) (hdue : due ≤ s.now)
    (hplan : s.xlatPlan s.core.partId (s.core.rs a) (s.core.rs b) r = .ok home gran mode frames)
    (hpoison : s.core.duePoison (.xlat k a b r) = none) :
    let n := s.freeIndex
    let old := s.entry n
    ∃ t, exec (.xlat k a b r) s = .next t ∧
      t.core.rk k = ⟨BitVec.ofNat 56 (s.core.rs a).toNat, BitVec.ofNat 32 ((s.core.rs b).toNat - 1), BitVec.ofNat 20 n, old.gen,
        BitVec.ofNat 6 s.core.partId, r⟩ ∧
      (∀ j, j ≠ k → t.core.rk j = s.core.rk j) ∧ { t.core.still with k := s.core.k, tfc := s.core.tfc } = s.core.still ∧
      t.entry n = ⟨.active, old.gen, s.core.partId, (s.core.rs a).toNat, (s.core.rs b).toNat, r, gran, mode, home, frames,
        s.core.task, s.seq, [], false, if old.owners.contains s.core.partId then old.owners else old.owners ++ [s.core.partId]⟩ ∧
      (∀ m, m ≠ n → t.entry m = s.entry m) ∧ BytesKept s t ∧ Retires s t := by
  intro n old
  let x := s.fillEntry s.core.partId s.core.task (s.core.rs a).toNat (s.core.rs b).toNat r home gran mode frames
  have hcore : x.2.core = s.core.forget n := fillEntry_core ..
  have hk : Keeps x.2.core ((x.2.core.putK k x.1 s.now 1).note 0x0C) := (keeps_putK ..).trans (keeps_note ..)
  have hforget : Keeps s.core x.2.core := hcore ▸ keeps_forget ..
  have hrk : ∀ j, x.2.core.rk j = s.core.rk j := fun j => by rw [hcore]; rfl
  refine ⟨retireWith x.2 fun c => (c.putK k x.1 s.now 1).note 0x0C, ?_, ?_, fun j hj => ?_, ?_, ?_, fun m hm => ?_,
    (bytesKept_fillEntry ..).trans (bytes_of hk), retires_retireWith (hforget.trans hk)⟩
  · rw [exec_xlat, execXlat, withGate_go (gate_of_committed (by rw [hw]; rfl))]
    simp only [hw, if_neg (Nat.not_lt.mpr hdue), hplan, hpoison, x]
  · rw [retireWith_core, Core.retire_rk]
    exact (putK_rk x.2.core k x.1 s.now 1).trans (fillEntry_token ..)
  · rw [retireWith_core, Core.retire_rk, ← hrk j]
    exact putK_rk_ne x.2.core k j x.1 s.now 1 hj
  · rw [retireWith_core, Core.still_retire, still_note]
    exact still_fill_back ((still_putK ..).trans (by rw [hcore, still_forget]))
  · have hentry := State.fillEntry_entry s s.core.partId s.core.task (s.core.rs a).toNat (s.core.rs b).toNat r home gran mode frames
    simp only [fillEntry_token, ofNat_freeIndex] at hentry
    exact hentry
  · exact fillEntry_entry_ne s s.core.partId s.core.task (s.core.rs a).toNat (s.core.rs b).toNat r home gran mode frames hm

/-! ## The fault of an `xlat`, and the frame-cache fill (R39, R42, R84) -/

theorem xlatFault_of_waiting {q : Core} {k : BitVec 4} {a b : BitVec 5} {r : BitVec 2} {code at' : Nat}
    (hcur : q.cur = some (.xlat k a b r)) (hw : q.waiting = .xlat code at' false) :
    q.xlatFault = some ((q.rs a).toNat, (q.rs b).toNat, r, code) := by
  unfold Core.xlatFault
  rw [hcur, hw]

theorem sweeping_eq_false {s : State} {part : Nat}
    (h : ∀ x e, (x, e) ∈ s.almanac → e.owner = part → e.state ≠ .revoking) : s.sweeping part = false := by
  rw [State.sweeping, List.any_eq_false]
  rintro ⟨x, e⟩ hx
  simpa using h x e hx

theorem askSweeps_nil (s : State) : s.askSweeps [] = s := by
  have h : s.releases ++ [] = s.releases := List.append_nil _
  exact congrArg (fun rs => ({ s with releases := rs } : State)) h

/-- F2 restarts an `xlat` that fits as it stands, with no page moved and no entry released (R84). -/
theorem xlat_restarts {s : State} {n : Nat} {q : Core} {k : BitVec 4} {a b : BitVec 5} {r : BitVec 2} {code at' : Nat}
    {home : Option Nat} {gran : Nat} {mode : ProtMode} {frames : List Nat} (hq : s.coreAt n = some q)
    (hcur : q.cur = some (.xlat k a b r)) (hw : q.waiting = .xlat code at' false)
    (hplan : s.xlatPlan q.partId (q.rs a) (q.rs b) r = .ok home gran mode frames)
    (hsweep : ∀ x e, (x, e) ∈ s.almanac → e.owner = q.partId → e.state ≠ .revoking) :
    exec (.xlatFaultResolution n (.resolve [] [])) s = .next (s.restartXlat n) := by
  have hresolve : s.resolve q.partId (q.rs a).toNat (q.rs b).toNat r = none := by
    unfold State.resolve
    simp only [BitVec.ofNat_toNat, BitVec.setWidth_eq, hplan, sweeping_eq_false hsweep]
    rfl
  have hnone : ((s.strayEntries q.partId).filter fun i => ([] : List Nat).contains i) = [] := by
    simp
  rw [exec_xlatFaultResolution, execXlatFaultResolution, hq, Option.bind_some, xlatFault_of_waiting hcur hw]
  simp only [Option.map_some, List.foldl_nil, hnone, askSweeps_nil, hresolve, Option.isNone_none, if_true]

/-- F2 delivers a fault as it stands when it decides (R42). -/
theorem xlat_delivers {s : State} {n : Nat} {q : Core} {k : BitVec 4} {a b : BitVec 5} {r : BitVec 2} {code at' code' at2 : Nat}
    (hq : s.coreAt n = some q) (hcur : q.cur = some (.xlat k a b r)) (hw : q.waiting = .xlat code at' false)
    (hplan : s.xlatPlan q.partId (q.rs a) (q.rs b) r = .fault code' at2) :
    exec (.xlatFaultResolution n .deliver) s = .next (s.modAt n fun c => { c with waiting := .xlat code' at2 true }) := by
  rw [exec_xlatFaultResolution, execXlatFaultResolution, hq, Option.bind_some, xlatFault_of_waiting hcur hw]
  simp only [Option.map_some, State.deliverXlat, BitVec.ofNat_toNat, BitVec.setWidth_eq, hplan]

/-- The line of a frame-cache fill is in the cache (R39). -/
theorem mem_tfcFill (tfc : List TfcEntry) (e : TfcEntry) (victim : Nat) : e ∈ tfcFill tfc e victim := by
  unfold tfcFill
  dsimp only
  split_ifs <;> simp

theorem exec_tfcMissFill_due {s : State} {x frame due : Nat} (h : s.core.tfcReq = some (x, frame, due)) (hdue : due ≤ s.now) :
    exec .tfcMissFill s = .next { s with
      core := { s.core with tfcReq := none
                            tfc := tfcFill s.core.tfc ⟨x, frame, (s.entry x).gen, (s.entry x).state == .active, (s.entry x).rights,
                              (s.entry x).mode⟩ (Config.tfcVictim s.fv) }
      fv := s.fv + 1 } := by
  rw [exec_tfcMissFill, execTfcMissFill, h]
  exact if_neg (Nat.not_lt.mpr hdue)

/-- Settles O33: the plan's extent tests, the strand's waits, the fill, the two answers of F2, and the frame-cache fill. -/
theorem translation : Obligations.Translation := by
  intro k a b r due code at' home gran mode frames s c i va len plan waits
  refine ⟨fun h => xlatPlan_unmapped_extent s _ r h, fun h0 ha h => xlatPlan_long_extent s _ r h0 ha h,
    fun h0 ha hb h => xlatPlan_high_extent s _ r h0 ha hb h, fun hw => xlat_begins hw, fun hw hdue => ⟨fun hplan _ =>
    xlat_faults hw hdue hplan, fun hplan _ => xlat_pages hw hdue hplan, fun hplan hpoison _ => ?_⟩, exec_xlat_given,
    exec_xlat_delivered, fun n q hq hcur hwait => ⟨fun hplan hsweep => ?_, fun code' at2 hplan => ?_⟩, fun x frame hreq hdue => ?_⟩
  · obtain ⟨t, hexec, htok, hothers, hstill, hentry, hentries, hbytes, hretires⟩ := xlat_fills hw hdue hplan hpoison
    refine ⟨t, hexec, htok, hothers, hstill, ?_, ?_, ?_, ?_, ?_, ?_, ?_, ?_, ?_, ?_, ?_, hentries, hbytes, hretires⟩
    all_goals rw [hentry]
  · exact ⟨_, xlat_restarts hq hcur hwait hplan hsweep, onlyCore_modAt { s with fv := s.fv + 1 } fun _ h => h⟩
  · exact ⟨_, xlat_delivers hq hcur hwait hplan, onlyCore_modAt s fun _ h => h⟩
  · exact ⟨_, exec_tfcMissFill_due hreq hdue, rfl, mem_tfcFill .., rfl, rfl⟩

end Sys2Proof.Machine
end

section
/-! SUPPORT. Revocation (03 R59, R60, 06 R132): the steps of a Jubilee sweep, from the broadcast to the free entry, and the change
of seal keys. -/

namespace Sys2Proof.Machine

/-! ## One Almanac entry set -/

/-- Where the Almanac has one entry set, that entry is the one given and every other stands. -/
theorem entry_of_mapSet {s u : State} {i : Nat} {e : AlmanacEntry} (h : u.almanac = mapSet s.almanac i e) :
    u.entry i = e ∧ ∀ j, j ≠ i → u.entry j = s.entry j := by
  refine ⟨?_, fun j hj => ?_⟩
  · rw [State.entry, h, mapGet_mapSet]; rfl
  · rw [State.entry, h, mapGet_mapSet_ne _ _ hj, State.entry]

/-! ## The broadcast (R59 steps 1 and 2) -/

/-- An invalidate of an index is on its way to a core, with a due cycle of its own. -/
def State.invalidateSent (s : State) (index : Nat) (c : Core) : Core :=
  { c with sweeps := c.sweeps ++ [(index, s.now + 1 + Config.untimedDelay (s.fv + c.phys), s.now)] }

/-- An entry whose sweep has begun: REVOKING under its next generation, in quarantine when it has none (R60). -/
def AlmanacEntry.revoked (e : AlmanacEntry) (nextTask : Nat) : AlmanacEntry :=
  { e with state := .revoking, gen := if e.gen = 0xFFF then 1 else e.gen + 1, acks := []
           quarantined := e.quarantined || decide (e.gen = 0xFFF), made := if e.gen = 0xFFF then nextTask else e.made }

theorem startSweep_of_active {s : State} {index : Nat} (h : (s.entry index).state = .active) :
    s.startSweep index = { s.modAll (s.invalidateSent index) with
      almanac := mapSet s.almanac index ((s.entry index).revoked s.taskNext)
      releases := s.releases.filter fun r => r.1 ≠ index
      fv := s.fv + 256 } := by
  unfold State.startSweep
  simp only [h, ne_eq, not_true_eq_false, if_false]
  rfl

/-- The sweep of an ACTIVE entry: it is REVOKING under its next generation, and every core is sent an invalidate. -/
theorem jubileeSweep_active {s : State} {index : Nat} (h : (s.entry index).state = .active) :
    ∃ u, exec (.jubileeSweep index) s = .next u ∧ u.entry index = (s.entry index).revoked s.taskNext ∧
      (∀ i, i ≠ index → u.entry i = s.entry i) ∧
      (∀ (i : Nat) (k : Core), s.cores[i]? = some k → ∃ d, s.now < d ∧
        u.cores[i]? = some { k with sweeps := k.sweeps ++ [(index, d, s.now)] }) ∧
      { u with core := s.core, others := s.others, almanac := s.almanac, releases := s.releases, fv := s.fv } = s := by
  have hu := startSweep_of_active h
  obtain ⟨hentry, hothers⟩ := entry_of_mapSet (congrArg State.almanac hu)
  have hcores : (s.startSweep index).cores = s.cores.map (s.invalidateSent index) := congrArg State.cores hu
  refine ⟨s.startSweep index, rfl, hentry, hothers, fun i k hk =>
    ⟨s.now + 1 + Config.untimedDelay (s.fv + k.phys), by omega, ?_⟩, by rw [hu]; rfl⟩
  rw [hcores, List.getElem?_map, hk]
  rfl

theorem jubileeSweep_not_active {s : State} {index : Nat} (h : (s.entry index).state ≠ .active) :
    exec (.jubileeSweep index) s = .next s := congrArg Host.Outcome.next (if_pos h)

/-! ## The invalidate (R59 step 3, R132) -/

/-- The core after the invalidate of an index: its cached lines of it are gone, and the acknowledgement is due. -/
def Core.invalidated (c : Core) (index : Nat) : Core :=
  { c with tfc := c.tfc.filter fun x => x.index ≠ index
           sweeps := c.sweeps.map fun y => if y.1 = index then (index, 0, y.2.2) else y }

theorem exec_tokenInvalidate_due {s : State} {n index due since : Nat} {q : Core} (hq : s.coreAt n = some q)
    (hs : q.sweepOf index = some (index, due, since)) (h0 : due ≠ 0) (hdue : due ≤ s.now) :
    exec (.tokenInvalidate n index) s = .next ((s.modAt n fun c => c.invalidated index).revokeWait n index) := by
  rw [exec_tokenInvalidate, execTokenInvalidate, hq, Option.bind_some, hs]
  exact if_neg (not_or.mpr ⟨h0, Nat.not_lt.mpr hdue⟩)

/-- A core that waits at no word under the index has no wait ended. -/
theorem revokeWait_of_elsewhere {s : State} {n index : Nat} {c : Core} (hc : s.coreAt n = some c)
    (h : ∀ id y, c.waiting = .waita id none → c.access? id = some y → y.index ≠ some index) : s.revokeWait n index = s := by
  unfold State.revokeWait
  rw [hc, Option.bind_some]
  split
  · next c' a' heq =>
    split at heq
    · next id hw =>
      obtain ⟨y, hy, hya⟩ := Option.map_eq_some_iff.mp heq
      obtain ⟨rfl, rfl⟩ := Prod.mk.inj hya
      exact if_neg (h id y hw hy)
    · cases heq
  · rfl

/-- A core that waits at a word under the index has its registration withdrawn and its wait ended as revoked (R132). -/
theorem revokeWait_of_waiting {s : State} {n index : Nat} {c : Core} {a : Access} (hc : s.coreAt n = some c)
    (hw : c.waiting = .waita a.id none) (ha : c.access? a.id = some a) (hi : a.index = some index) :
    s.revokeWait n index = (s.withdraw (a.point c.phys) n a.id).endWait ⟨n, a.id, a.place.1, a.n⟩
      ⟨0, true, 2, setterFirmware⟩ fun k => { k with revpend := true } := by
  unfold State.revokeWait
  rw [hc, Option.bind_some, hw]
  simp only [ha, Option.map_some, hi, if_true]

theorem modDie_cores (s : State) (d : Nat) (f : Die → Die) : (s.modDie d f).cores = s.cores := by
  unfold State.modDie; split <;> rfl

theorem setWaiters_cores (s : State) (p : Point) (ws : List Waiter) : (s.setWaiters p ws).cores = s.cores := by
  cases p with
  | slice d => exact modDie_cores ..
  | msc | lender => rfl

theorem die_modDie (s : State) (d : Nat) (f : Die → Die) : (s.modDie d f).die d = f (s.die d) := by
  match d with
  | 0 | 1 | 2 => simp [State.modDie, State.die]
  | 3 => simp [State.modDie, State.die]
  | n + 4 => simp [State.modDie, State.die, Array.getD]

theorem waitersAt_setWaiters (s : State) (p : Point) (ws : List Waiter) : (s.setWaiters p ws).waitersAt p = ws := by
  cases p with
  | slice d => exact congrArg Die.waiters (die_modDie ..)
  | msc | lender => rfl

theorem waitersAt_modAt (s : State) (n : Nat) (f : Core → Core) (p : Point) : (s.modAt n f).waitersAt p = s.waitersAt p := by
  cases p <;> rfl

theorem coreAt_congr {s u : State} (h : u.cores = s.cores) (n : Nat) : u.coreAt n = s.coreAt n := by
  rw [State.coreAt, h, State.coreAt]

/-- Ending a registered wait: the core's access leaves, and its `waita` has its result. -/
theorem coreAt_endWait {s : State} {w : Waiter} {r : WaitEnd} {mark : Core → Core} {c : Core} (hm : ∀ k, (mark k).phys = k.phys)
    (hc : s.coreAt w.core = some c) (hw : c.waiting = .waita w.acc none) :
    (s.endWait w r mark).coreAt w.core = some (mark { c.dropAccess w.acc with waiting := .waita w.acc (some r) }) := by
  unfold State.endWait
  rw [coreAt_modAt s (fun k hk => ?_), if_pos rfl, hc, Option.map_some]
  · simp only [hw, if_true]
  · split
    · split_ifs
      · exact (hm _).trans hk
      · exact hk
    · exact hk

theorem coreAt_invalidated {s : State} {n : Nat} {q : Core} (hq : s.coreAt n = some q) (index : Nat) :
    (s.modAt n fun c => c.invalidated index).coreAt n = some (q.invalidated index) := by
  rw [coreAt_modAt (f := fun c => c.invalidated index) s (fun _ h => h), if_pos rfl, hq]; rfl

theorem tokenInvalidate_elsewhere {s : State} {n index due since : Nat} {q : Core} (hq : s.coreAt n = some q)
    (hs : q.sweepOf index = some (index, due, since)) (h0 : due ≠ 0) (hdue : due ≤ s.now)
    (h : ∀ id y, q.waiting = .waita id none → q.access? id = some y → y.index ≠ some index) :
    exec (.tokenInvalidate n index) s = .next (s.modAt n fun c => c.invalidated index) := by
  have hcore : (s.modAt n fun c => c.invalidated index).coreAt n = some (q.invalidated index) := coreAt_invalidated hq index
  rw [exec_tokenInvalidate_due hq hs h0 hdue, revokeWait_of_elsewhere hcore h]

/-- The state after the invalidate ends a wait as revoked (R132). -/
def State.waitRevoked (s : State) (n index phys : Nat) (a : Access) : State :=
  ((s.modAt n fun c => c.invalidated index).withdraw (a.point phys) n a.id).endWait ⟨n, a.id, a.place.1, a.n⟩
    ⟨0, true, 2, setterFirmware⟩ fun k => { k with revpend := true }

theorem exec_tokenInvalidate_waiting {s : State} {n index due since : Nat} {q : Core} {a : Access} (hq : s.coreAt n = some q)
    (hs : q.sweepOf index = some (index, due, since)) (h0 : due ≠ 0) (hdue : due ≤ s.now) (hw : q.waiting = .waita a.id none)
    (ha : q.access? a.id = some a) (hi : a.index = some index) :
    exec (.tokenInvalidate n index) s = .next (s.waitRevoked n index q.phys a) := by
  rw [exec_tokenInvalidate_due hq hs h0 hdue]
  exact congrArg Host.Outcome.next (revokeWait_of_waiting (c := q.invalidated index) (coreAt_invalidated hq index) hw ha hi)

theorem coreAt_waitRevoked {s : State} {n : Nat} {q : Core} {a : Access} (hq : s.coreAt n = some q) (index : Nat)
    (hw : q.waiting = .waita a.id none) : (s.waitRevoked n index q.phys a).coreAt n = some { q.invalidated index with
      acc := q.acc.filter fun y => y.id ≠ a.id, waiting := .waita a.id (some ⟨0, true, 2, setterFirmware⟩), revpend := true } := by
  have hwithdrawn : ((s.modAt n fun c => c.invalidated index).withdraw (a.point q.phys) n a.id).coreAt n = some (q.invalidated index) :=
    (coreAt_congr (setWaiters_cores ..) n).trans (coreAt_invalidated hq index)
  exact coreAt_endWait (w := ⟨n, a.id, a.place.1, a.n⟩) (r := ⟨0, true, 2, setterFirmware⟩)
    (mark := fun k => { k with revpend := true }) (fun _ => rfl) hwithdrawn hw

theorem waitersAt_waitRevoked (s : State) (n index phys : Nat) (a : Access) :
    (s.waitRevoked n index phys a).waitersAt (a.point phys) =
      (s.waitersAt (a.point phys)).filter fun w => !(w.core == n && w.acc == a.id) := by
  rw [State.waitRevoked, State.endWait, waitersAt_modAt, State.withdraw, waitersAt_setWaiters, waitersAt_modAt]

/-! ## The acknowledgement and the abort (R59 step 3, R60) -/

/-- A core that has acknowledged the sweep of an index. -/
def Core.acknowledged (c : Core) (index : Nat) : Core := { c with sweeps := c.sweeps.filter fun y => y.1 ≠ index }

theorem exec_sweepAck_clear {s : State} {n index since : Nat} {q : Core} (hq : s.coreAt n = some q)
    (hs : q.sweepOf index = some (index, 0, since)) (hu : q.usesIndex index = false) :
    exec (.sweepAck n index) s = .next { s.modAt n fun c => c.acknowledged index with
      almanac := mapSet s.almanac index { s.entry index with acks := (s.entry index).acks ++ [n] } } := by
  rw [exec_sweepAck, execSweepAck, hq]
  simp only [hs, hu, Bool.false_eq_true, if_false]
  rfl

theorem sweepAck_clear {s : State} {n index since : Nat} {q : Core} (hq : s.coreAt n = some q)
    (hs : q.sweepOf index = some (index, 0, since)) (hu : q.usesIndex index = false) :
    ∃ u, exec (.sweepAck n index) s = .next u ∧ (u.entry index).acks = (s.entry index).acks ++ [n] ∧
      (∀ i, i ≠ index → u.entry i = s.entry i) ∧
      OnlyCore n (fun c => c.acknowledged index) { s with almanac := u.almanac } u := by
  obtain ⟨hentry, hothers⟩ := entry_of_mapSet (s := s) (i := index) (e := { s.entry index with acks := (s.entry index).acks ++ [n] })
    (u := { s.modAt n fun c => c.acknowledged index with
      almanac := mapSet s.almanac index { s.entry index with acks := (s.entry index).acks ++ [n] } }) rfl
  exact ⟨_, exec_sweepAck_clear hq hs hu, congrArg AlmanacEntry.acks hentry, hothers, onlyCore_modAt
    { s with almanac := mapSet s.almanac index { s.entry index with acks := (s.entry index).acks ++ [n] } } fun _ hc => hc⟩

theorem sweepAck_in_use {s : State} {n index since : Nat} {q : Core} (hq : s.coreAt n = some q)
    (hs : q.sweepOf index = some (index, 0, since)) (hu : q.usesIndex index = true) :
    exec (.sweepAck n index) s = .next s := by
  rw [exec_sweepAck, execSweepAck, hq]
  simp only [hs, hu, if_true]

/-- The core after an abort: what runs under the index is stopped, what is held under it discarded (R60). -/
def State.abortedCore (s : State) (index : Nat) (c : Core) : Core :=
  ((c.pinHolders index).foldl (fun k m => k.abortCmd m (s.membersOf m.launch.kind) s.now) c).abortHeld index

theorem abortCmd_phys (c : Core) (m : Cmd) (members now : Nat) : (c.abortCmd m members now).phys = c.phys := by
  unfold Core.abortCmd
  split
  · split_ifs <;> rfl
  · rfl

theorem abortHeld_phys (c : Core) (index : Nat) : (c.abortHeld index).phys = c.phys := by
  unfold Core.abortHeld
  split
  · split_ifs <;> rfl
  · rfl

theorem abortedCore_phys (s : State) (index : Nat) (c : Core) : (s.abortedCore index c).phys = c.phys := by
  unfold State.abortedCore
  rw [abortHeld_phys]
  generalize c.pinHolders index = ms
  induction ms generalizing c with
  | nil => rfl
  | cons m ms ih => rw [List.foldl_cons, ih, abortCmd_phys]

/-- The abort of a collective enters it among those of its task, and nothing else outside the core (R320). -/
theorem noteAborted_eq (s : State) (c : Core) (index : Nat) :
    s.noteAborted c index = { s with tasks := (s.noteAborted c index).tasks } := by
  unfold State.noteAborted State.noteCollOf
  split
  · split_ifs
    · split <;> rfl
    · rfl
  · rfl

theorem noteAborted_elsewhere {s : State} {c : Core} {index : Nat} (h : ∀ x, c.copy.held = some x → index ∉ launchPins x.kind) :
    s.noteAborted c index = s := by
  unfold State.noteAborted
  split
  · next x hx => exact if_neg (by simpa using h x hx)
  · rfl

theorem task?_modTask {s : State} {id : Nat} {f : Task → Task} {t : Task} (hf : ∀ x, (f x).id = x.id) (ht : s.task? id = some t) :
    (s.modTask id f).task? id = some (f t) := by
  have hid : ∀ x : Task, (if x.id = id then f x else x).id = x.id := fun x => by
    split_ifs
    · exact hf x
    · rfl
  have htid : t.id = id := by
    rw [State.task?] at ht
    simpa using List.find?_some ht
  rw [State.task?] at ht
  rw [State.task?, State.modTask, List.find?_map]
  simp only [Function.comp_def, hid, ht, Option.map_some, htid, if_true]

/-- An aborted collective that has not started stands among those of its task, unstarted (R320). -/
theorem task?_noteAborted {s : State} {c : Core} {index : Nat} {x : Launch} {kd : CollKind} {op dt gn ct : Nat} {sr ds : Place} {t : Task}
    (hx : c.copy.held = some x) (hk : x.kind = .coll kd op dt gn ct sr ds) (hi : index ∈ launchPins x.kind)
    (ht : s.task? c.task = some t) :
    (s.noteAborted c index).task? c.task = some { t with
      colls := t.colls ++ [⟨gn, (t.colls.filter fun r => r.group = gn && r.core = c.phys).length, c.phys, false, 0, []⟩] } := by
  have hi' : (launchPins x.kind).contains index = true := by simpa using hi
  unfold State.noteAborted
  simp only [hx, if_pos hi']
  rw [hk]
  exact task?_modTask (fun _ => rfl) ht

theorem abortHeld_held {c : Core} {index : Nat} {x : Launch} (hx : c.copy.held = some x) (hi : index ∈ launchPins x.kind) :
    (c.abortHeld index).copy.held = none ∧ (c.abortHeld index).tags = c.tags ||| 1#64 <<< (x.tag % 64) ∧
      (c.abortHeld index).tagrev = c.tagrev ||| 1#64 <<< (x.tag % 64) := by
  have hi' : (launchPins x.kind).contains index = true := by simpa using hi
  unfold Core.abortHeld
  simp only [hx, if_pos hi']
  exact ⟨rfl, rfl, rfl⟩

/-- The abort of a core that has not acknowledged in 10 ms (R60). -/
theorem exec_sweepAbort_late {s : State} {n index since : Nat} {q : Core} (hq : s.coreAt n = some q)
    (hs : q.sweepOf index = some (index, 0, since)) (hlate : since + 40000000 ≤ s.now) :
    exec (.sweepAbort n index) s = .next ((s.noteAborted q index).modAt n fun _ => s.abortedCore index q) := by
  have h : q.sweepLate index s.now = true := by
    unfold Core.sweepLate
    rw [hs]
    have hcycles : Config.sweepAbortCycles = 40000000 := rfl
    simpa only [hcycles, decide_eq_true_eq] using hlate
  rw [exec_sweepAbort, execSweepAbort, hq]
  simp only [h, if_true]
  rfl

theorem onlyCore_sweepAbort {s : State} {n index : Nat} {q : Core} (hq : s.coreAt n = some q) :
    let u := (s.noteAborted q index).modAt n fun _ => s.abortedCore index q
    OnlyCore n (fun _ => s.abortedCore index q) { s with tasks := u.tasks } u := by
  intro u
  have hu : u = ({ s with tasks := (s.noteAborted q index).tasks } : State).modAt n fun _ => s.abortedCore index q :=
    congrArg (fun v : State => v.modAt n fun _ => s.abortedCore index q) (noteAborted_eq ..)
  have htasks : u.tasks = (s.noteAborted q index).tasks := rfl
  rw [htasks, hu]
  exact onlyCore_modAt _ fun _ _ => (abortedCore_phys ..).trans (coreAt_phys hq)

/-! ## The free entry and new seal keys (R59 step 4, R60) -/

theorem sweepFree_done {s : State} {index : Nat} (he : (s.entry index).state = .revoking)
    (hall : ∀ k, k ∈ s.cores → ∀ y, y ∈ k.sweeps → y.1 ≠ index) :
    exec (.sweepFree index) s = .next { s with
      almanac := mapSet s.almanac index { s.entry index with state := .free, frames := [], acks := [] } } := by
  have hdone : s.sweepDone index = true := by
    rw [State.sweepDone, he, Bool.and_eq_true, List.all_eq_true]
    refine ⟨rfl, fun k hk => ?_⟩
    rw [Option.isNone_iff_eq_none, Core.sweepOf, List.find?_eq_none]
    exact fun y hy => by simpa using hall k hk y hy
  rw [exec_sweepFree, execSweepFree, if_pos hdone]

/-- A partition gets a seal key of its own (R60). -/
def State.newSealKey (s : State) (p : Nat) : State :=
  { s.modPart p (fun x => { x with sealKey := s.keyNext }) with keyNext := s.keyNext + 1 }

theorem newSealKey_eq (s : State) (p : Nat) :
    s.newSealKey p = { s with parts := (s.newSealKey p).parts, keyNext := s.keyNext + 1 } := by
  unfold State.newSealKey State.modPart
  split <;> rfl

theorem mapGet_modPart (s : State) (p : Nat) (f : Partition → Partition) :
    mapGet (s.modPart p f).parts p = (mapGet s.parts p).map f := by
  unfold State.modPart
  cases h : mapGet s.parts p with
  | none => exact h
  | some x => exact mapGet_mapSet ..

theorem mapGet_modPart_ne (s : State) {p i : Nat} (f : Partition → Partition) (h : i ≠ p) :
    mapGet (s.modPart p f).parts i = mapGet s.parts i := by
  unfold State.modPart
  split
  · exact mapGet_mapSet_ne _ _ h
  · rfl

theorem newSealKeys_eq (s : State) (ps : List Nat) :
    ps.foldl State.newSealKey s = { s with parts := (ps.foldl State.newSealKey s).parts, keyNext := s.keyNext + ps.length } := by
  induction ps generalizing s with
  | nil => rfl
  | cons p ps ih =>
    rw [List.foldl_cons, ih, List.length_cons, newSealKey_eq]
    simp only [Nat.add_comm, Nat.add_left_comm]

theorem mapGet_newSealKeys_ne {s : State} {ps : List Nat} {i : Nat} (hi : i ∉ ps) :
    mapGet (ps.foldl State.newSealKey s).parts i = mapGet s.parts i := by
  induction ps generalizing s with
  | nil => rfl
  | cons p ps ih =>
    rw [List.mem_cons, not_or] at hi
    rw [List.foldl_cons, ih hi.2]
    exact mapGet_modPart_ne s _ hi.1

/-- Each partition of a list has a new seal key once they are given out, and nothing else of it changes. -/
theorem mapGet_newSealKeys {s : State} {ps : List Nat} {i : Nat} {x : Partition} (hi : i ∈ ps) (hx : mapGet s.parts i = some x) :
    ∃ k, s.keyNext ≤ k ∧ k < s.keyNext + ps.length ∧
      mapGet (ps.foldl State.newSealKey s).parts i = some { x with sealKey := k } := by
  induction ps generalizing s x with
  | nil => cases hi
  | cons p ps ih =>
    rw [List.foldl_cons, List.length_cons]
    by_cases hrest : i ∈ ps
    · have hnext : ∃ y, mapGet (s.newSealKey p).parts i = some y ∧ ∀ k, { y with sealKey := k } = { x with sealKey := k } := by
        by_cases hp : i = p
        · subst hp
          exact ⟨{ x with sealKey := s.keyNext }, (mapGet_modPart ..).trans (by rw [hx]; rfl), fun _ => rfl⟩
        · exact ⟨x, (mapGet_modPart_ne s _ hp).trans hx, fun _ => rfl⟩
      obtain ⟨y, hy, hsame⟩ := hnext
      obtain ⟨k, hlo, hhi, hk⟩ := ih hrest hy
      have hnow : (s.newSealKey p).keyNext = s.keyNext + 1 := rfl
      exact ⟨k, by omega, by omega, by rw [hk, hsame]⟩
    · obtain rfl : i = p := (List.mem_cons.mp hi).resolve_right hrest
      refine ⟨s.keyNext, Nat.le_refl _, by omega, ?_⟩
      rw [mapGet_newSealKeys_ne hrest]
      exact (mapGet_modPart ..).trans (by rw [hx]; rfl)

/-- The end of a quarantine: the entry is fresh, and those that have owned it have new seal keys (R60). -/
theorem sealKeyRotation_over {s : State} {index : Nat} (hq : (s.entry index).quarantined = true)
    (hf : (s.entry index).state = .free) (ht : ∀ t, t ∈ s.tasks → (s.entry index).made ≤ t.id) :
    let s1 := (s.entry index).owners.foldl State.newSealKey s
    exec (.sealKeyRotation index) s = .next { s with
      parts := s1.parts, keyNext := s.keyNext + (s.entry index).owners.length
      almanac := mapSet s.almanac index { freshEntry with gen := 1, owners := (s.entry index).owners } } := by
  intro s1
  have hover : s.quarantineOver index = true := by
    simp only [State.quarantineOver, hq, hf, Bool.true_and, Bool.and_eq_true, List.all_eq_true, decide_eq_true_eq]
    exact ⟨rfl, ht⟩
  have hs1 : s1 = { s with parts := s1.parts, keyNext := s.keyNext + (s.entry index).owners.length } := newSealKeys_eq ..
  rw [exec_sealKeyRotation, execSealKeyRotation, if_pos hover]
  exact congrArg (fun v : State => Host.Outcome.next { v with
    almanac := mapSet v.almanac index { freshEntry with gen := 1, owners := (s.entry index).owners } }) hs1

end Sys2Proof.Machine
end

section
/-! SUPPORT. Frames and pages (03 R59, R63, 04 R82, R83, 17 R368, 18 R382, R387): what the firmware
writes to main memory, frames freed and zeroed, grants ended. -/

namespace Sys2Proof.Machine

/-! ## Tables set at many keys -/

theorem mapGet_foldl_mapSet {α : Type} (h : Nat → α) (ks : List Nat) (m : SMap α) (k : Nat) :
    mapGet (ks.foldl (fun m x => mapSet m x (h x)) m) k = if k ∈ ks then some (h k) else mapGet m k := by
  induction ks generalizing m with
  | nil => rfl
  | cons x ks ih =>
    rw [List.foldl_cons, ih]
    by_cases hk : k = x
    · subst hk
      simp [mapGet_mapSet]
    · simp [hk, mapGet_mapSet_ne]

theorem mapGet_map_snd {α : Type} (f : α → α) (m : SMap α) (k : Nat) :
    mapGet (m.map fun x => (x.1, f x.2)) k = (mapGet m k).map f := by
  induction m with
  | nil => rfl
  | cons c rest ih =>
    obtain ⟨a, y⟩ := c
    rw [List.map_cons, mapGet, mapGet, ih]
    split_ifs <;> rfl

theorem mem_of_mapGet {α : Type} {m : SMap α} {k : Nat} {x : α} (h : mapGet m k = some x) : (k, x) ∈ m := by
  induction m with
  | nil => cases h
  | cons c rest ih =>
    obtain ⟨a, y⟩ := c
    rw [mapGet] at h
    split_ifs at h with ha
    · cases h; cases ha; exact List.mem_cons_self
    · exact List.mem_cons_of_mem _ (ih h)

/-! ## Writes of firmware to main memory (R82, R382) -/

/-- Between two states only the counters and MACs of the integrity tree may differ. -/
def OnlyTree (s u : State) : Prop :=
  { u with writeCtr := s.writeCtr, treeCtr := s.treeCtr, treeRoot := s.treeRoot, lineMac := s.lineMac, nodeMac := s.nodeMac } = s

theorem OnlyTree.trans {s t u : State} (h : OnlyTree s t) (k : OnlyTree t u) : OnlyTree s u := by
  have hset : ({ u with writeCtr := s.writeCtr, treeCtr := s.treeCtr, treeRoot := s.treeRoot, lineMac := s.lineMac
                        nodeMac := s.nodeMac } : State) =
      { ({ u with writeCtr := t.writeCtr, treeCtr := t.treeCtr, treeRoot := t.treeRoot, lineMac := t.lineMac
                  nodeMac := t.nodeMac } : State) with
        writeCtr := s.writeCtr, treeCtr := s.treeCtr, treeRoot := s.treeRoot, lineMac := s.lineMac, nodeMac := s.nodeMac } := rfl
  unfold OnlyTree at *
  rw [hset, k, h]

theorem countLine_onlyTree (s : State) (line : Nat) : OnlyTree s (s.countLine line) := by
  unfold State.countLine; split_ifs <;> rfl

theorem countLines_onlyTree (s : State) (as : List Nat) : OnlyTree s (s.countLines as) := by
  unfold State.countLines
  generalize (as.map fun a => a / 128).eraseDups = ls
  induction ls generalizing s with
  | nil => rfl
  | cons l ls ih => exact (countLine_onlyTree s l).trans (ih _)

/-- Between two states only what a write of main memory moves may differ. -/
def OnlyMain (s u : State) : Prop :=
  { u with mem := s.mem, marks := s.marks, dies := s.dies, seq := s.seq
           writeCtr := s.writeCtr, treeCtr := s.treeCtr, treeRoot := s.treeRoot, lineMac := s.lineMac, nodeMac := s.nodeMac } = s

theorem fwWrite_onlyMain (s : State) (cells : List Host.Cell) : OnlyMain s (s.fwWrite cells) := by
  have h := countLines_onlyTree { s with
    mem := ((s.fwCells cells).foldl putMarked (s.mem, s.marks)).1, marks := ((s.fwCells cells).foldl putMarked (s.mem, s.marks)).2
    seq := s.seq + 1, dies := s.dies.map fun x => x.put (s.fwCells cells) } (cells.map (·.1))
  have := congrArg (fun v : State => { v with mem := s.mem, marks := s.marks, dies := s.dies, seq := s.seq }) h
  exact this

theorem putMarked_newer {v : Memory × SMap Mark} {c : Nat × Byte × Mark} (h : newer v.2 c.1 c.2.2 = true) :
    putMarked v c = (memSet v.1 c.1 c.2.1, mapSet v.2 c.1 c.2.2) := if_pos h

theorem newer_mapSet_same (m : SMap Mark) (a : Nat) (k : Mark) : newer (mapSet m a k) a k = true := by
  unfold newer markOf
  rw [mapGet_mapSet]
  simp

theorem newer_putMarked_ne (v : Memory × SMap Mark) (c : Nat × Byte × Mark) {x : Nat} (k : Mark) (h : x ≠ c.1) :
    newer (putMarked v c).2 x k = newer v.2 x k := by
  unfold putMarked
  split_ifs
  · unfold newer markOf
    rw [mapGet_mapSet_ne _ _ h]
  · rfl

theorem memGet_putMarked_ne (v : Memory × SMap Mark) (c : Nat × Byte × Mark) {x : Nat} (h : x ≠ c.1) :
    memGet (putMarked v c).1 x = memGet v.1 x :=
  memGet_putMarkeds_ne v [c] fun d hd => by rw [List.mem_singleton.mp hd]; exact Ne.symm h

/-- Zeros put at an address, under a place that stands there from the first one on, leave 0 there. -/
theorem memGet_zeros (mk : Nat → Mark) {x : Nat} (cells : List Host.Cell) {v : Memory × SMap Mark} (hwf : v.1.wf = true)
    (hn : newer v.2 x (mk x) = true) (hz : ∀ c, c ∈ cells → c.2 = 0)
    (hx : (∃ c ∈ cells, c.1 = x) ∨ memGet v.1 x = 0) :
    memGet ((cells.map fun c => (c.1, c.2, mk c.1)).foldl putMarked v).1 x = 0 := by
  induction cells generalizing v with
  | nil => exact hx.resolve_left (by simp)
  | cons c rest ih =>
    rw [List.map_cons, List.foldl_cons]
    have hrest : ∀ d, d ∈ rest → d.2 = 0 := fun d hd => hz d (List.mem_cons_of_mem c hd)
    by_cases hc : c.1 = x
    · subst hc
      rw [putMarked_newer hn]
      refine ih (wf_memSet _ _ hwf) (newer_mapSet_same ..) hrest (.inr ?_)
      rw [memGet_memSet _ _ hwf]
      exact hz c List.mem_cons_self
    · refine ih (wf_putMarked _ hwf) ?_ hrest ?_
      · rw [newer_putMarked_ne v _ _ (Ne.symm hc)]; exact hn
      · rw [memGet_putMarked_ne v _ (Ne.symm hc)]
        refine hx.imp_left fun ⟨d, hd, hdx⟩ => ⟨d, (List.mem_cons.mp hd).resolve_left fun e => hc (e ▸ hdx), hdx⟩

/-- The place that a firmware write takes at an address (R82). -/
def State.fwMark (s : State) (a : Nat) : Mark :=
  ⟨max ((markOf s.marks a).elim 0 Mark.stamp) ((mapGet s.floor a).getD 0) + 1, s.seq, 0, 0⟩

theorem newer_fwMark (s : State) (a : Nat) : newer s.marks a (s.fwMark a) = true := by
  unfold newer
  cases h : markOf s.marks a with
  | none => rfl
  | some k =>
    have hlt : k.stamp < (s.fwMark a).stamp := by
      simp only [State.fwMark, h, Option.elim_some]; omega
    simp [Mark.before, hlt]

theorem fwWrite_mem (s : State) (cells : List Host.Cell) : (s.fwWrite cells).mem =
    ((cells.map fun c => (c.1, c.2, s.fwMark c.1)).foldl putMarked (s.mem, s.marks)).1 := countLines_mem ..

/-- Firmware that zeroes bytes leaves 0 at each of them. -/
theorem memGet_fwWrite_zeros {s : State} {cells : List Host.Cell} {x : Nat} (hm : s.mem.wf = true) (hz : ∀ c, c ∈ cells → c.2 = 0)
    (hx : ∃ c ∈ cells, c.1 = x) : memGet (s.fwWrite cells).mem x = 0 := by
  rw [fwWrite_mem]
  exact memGet_zeros s.fwMark cells hm (newer_fwMark s x) hz (.inl hx)

theorem memGet_fwWrite_ne (s : State) {cells : List Host.Cell} {x : Nat} (h : ∀ c, c ∈ cells → c.1 ≠ x) :
    memGet (s.fwWrite cells).mem x = memGet s.mem x := by
  rw [fwWrite_mem]
  refine memGet_putMarkeds_ne _ _ fun d hd => ?_
  obtain ⟨c, hc, rfl⟩ := List.mem_map.mp hd
  exact h c hc

/-! ## Frames freed: zeroed, and fresh in the POT (R63, R382) -/

theorem potOf_setFrames (s : State) (lo count : Nat) (e : PotEntry) (f : Nat) :
    (s.setFrames lo count e).potOf f = if lo ≤ f ∧ f < lo + count then e else s.potOf f := by
  have hfold : (s.setFrames lo count e).pot = ((List.range count).map (lo + ·)).foldl (fun m x => mapSet m x e) s.pot := by
    rw [List.foldl_map]; rfl
  have hmem : f ∈ (List.range count).map (lo + ·) ↔ lo ≤ f ∧ f < lo + count := by
    simp only [List.mem_map, List.mem_range]
    exact ⟨fun ⟨i, hi, hf⟩ => by omega, fun h => ⟨f - lo, by omega, by omega⟩⟩
  rw [State.potOf, hfold, mapGet_foldl_mapSet (fun _ => e)]
  simp only [hmem]
  split_ifs <;> rfl

/-- Zeroed frames: every byte of them that has ever been written. -/
theorem memGet_fillFrames_zero {s : State} {fs : List Nat} {x : Nat} (hm : s.mem.wf = true) (hf : x / 65536 ∈ fs)
    (hx : markOf s.marks x ≠ none) : memGet (s.fillFrames fs []).mem x = 0 := by
  obtain ⟨k, hk⟩ := Option.ne_none_iff_exists'.mp hx
  refine memGet_fwWrite_zeros hm (fun c hc => ?_) ⟨(x, 0), ?_, rfl⟩
  · rw [List.append_nil] at hc
    obtain ⟨d, -, rfl⟩ := List.mem_map.mp hc
    rfl
  · rw [List.append_nil]
    exact List.mem_map.mpr ⟨(x, k), List.mem_filter.mpr ⟨mem_of_mapGet hk, by simpa using hf⟩, rfl⟩

theorem memGet_fillFrames_ne (s : State) {fs : List Nat} {x : Nat} (hf : x / 65536 ∉ fs) :
    memGet (s.fillFrames fs []).mem x = memGet s.mem x := by
  refine memGet_fwWrite_ne s fun c hc => ?_
  rw [List.append_nil] at hc
  obtain ⟨d, hd, rfl⟩ := List.mem_map.mp hc
  have hin : d.1 / 65536 ∈ fs := by simpa using (List.mem_filter.mp hd).2
  exact fun e => hf (e ▸ hin)

theorem fillFrames_onlyMain (s : State) (fs : List Nat) (cells : List Host.Cell) : OnlyMain s (s.fillFrames fs cells) :=
  fwWrite_onlyMain ..

theorem OnlyMain.pot {s u : State} (h : OnlyMain s u) : u.pot = s.pot := by
  have := congrArg State.pot h; exact this

theorem OnlyMain.parts {s u : State} (h : OnlyMain s u) : u.parts = s.parts := by
  have := congrArg State.parts h; exact this

/-- A grant ends: it goes, its frames are free and zeroed, and nothing else changes (R63, R387). -/
def GrantEnds (s : State) (gr : Grant) (u : State) : Prop :=
  u.grants = s.grants.erase gr ∧
  (∀ f, gr.lo ≤ f → f < gr.lo + gr.count → u.potOf f = freshPot) ∧
  (∀ f, f < gr.lo ∨ gr.lo + gr.count ≤ f → u.potOf f = s.potOf f) ∧
  (MemoryOk s → ∀ x, gr.lo * 65536 ≤ x → x < (gr.lo + gr.count) * 65536 → markOf s.marks x ≠ none → memGet u.mem x = 0) ∧
  (∀ x, x < gr.lo * 65536 ∨ (gr.lo + gr.count) * 65536 ≤ x → memGet u.mem x = memGet s.mem x) ∧
  { u with grants := s.grants, pot := s.pot, mem := s.mem, marks := s.marks, dies := s.dies, seq := s.seq
           writeCtr := s.writeCtr, treeCtr := s.treeCtr, treeRoot := s.treeRoot, lineMac := s.lineMac, nodeMac := s.nodeMac } = s

theorem mem_grantFrames {lo count f : Nat} : f ∈ (List.range count).map (lo + ·) ↔ lo ≤ f ∧ f < lo + count := by
  simp only [List.mem_map, List.mem_range]
  exact ⟨fun ⟨i, hi, hf⟩ => by omega, fun h => ⟨f - lo, by omega, by omega⟩⟩

theorem grantEnds_endGrant (s : State) (gr : Grant) : GrantEnds s gr (s.endGrant gr) := by
  have hmain := fillFrames_onlyMain s ((List.range gr.count).map (gr.lo + ·)) []
  have hpot : ∀ f, (s.endGrant gr).potOf f = if gr.lo ≤ f ∧ f < gr.lo + gr.count then freshPot else s.potOf f := fun f => by
    have h := potOf_setFrames (s.fillFrames ((List.range gr.count).map (gr.lo + ·)) []) gr.lo gr.count freshPot f
    rw [State.potOf, State.potOf, hmain.pot] at h
    exact h
  refine ⟨rfl, fun f hlo hhi => ?_, fun f hout => ?_, fun hm x hlo hhi hx => ?_, fun x hout => ?_, ?_⟩
  · rw [hpot, if_pos ⟨hlo, hhi⟩]
  · rw [hpot, if_neg (by omega)]
  · exact memGet_fillFrames_zero hm (mem_grantFrames.mpr (by omega)) hx
  · exact memGet_fillFrames_ne s fun hin => by
      have := mem_grantFrames.mp hin
      omega
  · have := congrArg (fun v : State => { v with grants := s.grants, pot := s.pot }) hmain
    exact this

theorem reclaimCompletion_ends {s : State} {pkg lo count : Nat} {gr : Grant}
    (h : (s.grants.find? fun g => g.pkg == pkg && g.lo == lo && g.count == count && g.reclaim.isSome) = some gr) :
    exec (.reclaimCompletion pkg lo count) s = .next (s.endGrant gr) := by
  rw [exec_reclaimCompletion, execReclaimCompletion, h]

theorem grantClose_ends {s : State} {pkg lo count : Nat} {gr : Grant}
    (h : (s.grants.find? fun g => g.pkg == pkg && g.lo == lo && g.count == count
      && (g.reclaim.map fun t => decide (t + 400000000 ≤ s.now)).getD false) = some gr) :
    exec (.grantClose pkg lo count) s = .next (s.endGrant gr) := by
  have hcycles : Config.reclaimCycles = 400000000 := rfl
  rw [exec_grantClose, execGrantClose, hcycles, h]

end Sys2Proof.Machine
end

section
/-! SUPPORT. The moves of pages between tiers, and what the firmware writes as it moves one (03 R59, 04 R82, R83, 18 R382, R387). -/

namespace Sys2Proof.Machine

/-! ## What the parts of a move leave unchanged -/

theorem modPart_only (s : State) (p : Nat) (f : Partition → Partition) : { s.modPart p f with parts := s.parts } = s := by
  unfold State.modPart
  split <;> rfl

theorem readPage_only (s : State) (groups : List Nat) (g : PageMap) : { s.readPage groups g with fw := s.fw } = s := by
  unfold State.readPage
  generalize mainFrames groups g = fs
  induction fs generalizing s with
  | nil => rfl
  | cons f fs ih =>
    have h := congrArg (fun u : State => { u with fw := s.fw }) (ih (s.countCorrected .main (f * 65536) 65536))
    exact h

theorem Partition.version_flash (p : Partition) (g : PageMap) (d : PagePlace) : (p.version g d).flash = p.flash := by
  unfold Partition.version
  split
  · split <;> rfl
  · rfl

theorem Partition.version_next (p : Partition) {g : PageMap} (b : Nat) (h : g.mode = .integrity) :
    mapGet (p.version g (.flash b)).versions (pageAddr g) = some ((mapGet p.versions (pageAddr g)).getD 0 + 1) := by
  unfold Partition.version
  rw [if_pos h]
  exact mapGet_mapSet ..

/-- Between two states only what a move writes may differ: partitions, the bytes of the tiers, and the POT. -/
def OnlyPlace (s u : State) : Prop :=
  { u with parts := s.parts, mem := s.mem, lentMem := s.lentMem, marks := s.marks, dies := s.dies, seq := s.seq, pot := s.pot
           writeCtr := s.writeCtr, treeCtr := s.treeCtr, treeRoot := s.treeRoot, lineMac := s.lineMac, nodeMac := s.nodeMac } = s

theorem OnlyPlace.of_parts {s u : State} (h : { u with parts := s.parts } = s) : OnlyPlace s u := by
  have := congrArg (fun v : State => { v with
    mem := s.mem, lentMem := s.lentMem, marks := s.marks, dies := s.dies, seq := s.seq, pot := s.pot
    writeCtr := s.writeCtr, treeCtr := s.treeCtr, treeRoot := s.treeRoot, lineMac := s.lineMac, nodeMac := s.nodeMac }) h
  exact this

/-- Frames that are to be protected in a mode. -/
def State.inMode (s : State) (fs : List Nat) (mode : ProtMode) : State :=
  { s with pot := fs.foldl (fun m x => mapSet m x { s.potOf x with mode := mode }) s.pot }

theorem fillPlace_main (s : State) (part : Nat) (p : Partition) (f n : Nat) (mode : ProtMode) (bytes : List Host.Cell) :
    s.fillPlace part p (.main f) n mode bytes =
      (s.inMode ((List.range n).map (nthFrame p.req.groups f)) mode).fillFrames ((List.range n).map (nthFrame p.req.groups f))
        (bytes.map fun c => (pageByteAddr p.req.groups (.main f) c.1, c.2)) := rfl

theorem potOf_inMode (s : State) {fs : List Nat} (mode : ProtMode) {x : Nat} (h : x ∈ fs) : ((s.inMode fs mode).potOf x).mode = mode := by
  rw [State.potOf, State.inMode, mapGet_foldl_mapSet, if_pos h, Option.getD_some]

theorem fillPlace_onlyPlace (s : State) (part : Nat) (p : Partition) (d : PagePlace) (n : Nat) (mode : ProtMode) (bytes : List Host.Cell) :
    OnlyPlace s (s.fillPlace part p d n mode bytes) := by
  cases d with
  | main f =>
    rw [fillPlace_main]
    have h := congrArg (fun v : State => { v with parts := s.parts, lentMem := s.lentMem, pot := s.pot })
      (fillFrames_onlyMain (s.inMode ((List.range n).map (nthFrame p.req.groups f)) mode)
        ((List.range n).map (nthFrame p.req.groups f)) (bytes.map fun c => (pageByteAddr p.req.groups (.main f) c.1, c.2)))
    exact h
  | flash b => exact OnlyPlace.of_parts (modPart_only s part _)
  | lent k f => rfl

/-- The bytes of a page change nothing of what a partition maps. -/
theorem fillPlace_part {s : State} {part : Nat} {p : Partition} (h : mapGet s.parts part = some p) (q : Partition) (d : PagePlace)
    (n : Nat) (mode : ProtMode) (bytes : List Host.Cell) :
    ∃ x, mapGet (s.fillPlace part q d n mode bytes).parts part = some x ∧ x.pages = p.pages ∧ x.versions = p.versions := by
  cases d with
  | main f =>
    refine ⟨p, ?_, rfl, rfl⟩
    rw [fillPlace_main, (fillFrames_onlyMain _ _ _).parts]
    exact h
  | flash b =>
    rw [State.fillPlace, mapGet_modPart, h]
    exact ⟨_, rfl, rfl, rfl⟩
  | lent k f => exact ⟨p, h, rfl, rfl⟩

theorem potOf_fillPlace (s : State) (part : Nat) (p : Partition) {f i n : Nat} (mode : ProtMode) (bytes : List Host.Cell) (h : i < n) :
    ((s.fillPlace part p (.main f) n mode bytes).potOf (nthFrame p.req.groups f i)).mode = mode := by
  have hin : nthFrame p.req.groups f i ∈ (List.range n).map (nthFrame p.req.groups f) :=
    List.mem_map.mpr ⟨i, List.mem_range.mpr h, rfl⟩
  rw [fillPlace_main, State.potOf, (fillFrames_onlyMain _ _ _).pot]
  exact potOf_inMode s mode hin

/-! ## A move that is put off or refused (R59, R82) -/

section
variable {s : State} {part page : Nat} {dest : PagePlace} {p : Partition} {g : PageMap}

theorem movePage_refused (hp : mapGet s.parts part = some p) (hg : pageAt p.pages page = some g)
    (h : s.pinned part g = true ∨ s.pageOwned part p.req.groups g = false ∨ s.placeOk part p g dest = false) :
    s.movePage part page dest = none := by
  rw [State.movePage, hp, Option.bind_some, hg, Option.bind_some]
  exact if_pos (by simpa using h)

theorem queueMove_waits (hp : mapGet s.parts part = some p) (hg : pageAt p.pages page = some g) (hpin : s.pinned part g = true)
    (hok : s.placeOk part p g dest = true) (hm : (part, page, dest) ∉ s.moves) :
    s.queueMove part page dest = State.revokePins { s with moves := s.moves ++ [(part, page, dest)] } part g := by
  rw [State.queueMove, hp, Option.bind_some, hg, Option.map_some]
  exact if_pos (by simp [hpin, hok, hm])

theorem queueMove_none (hp : mapGet s.parts part = some p) (hg : pageAt p.pages page = some g)
    (h : s.pinned part g = false ∨ s.placeOk part p g dest = false) : s.queueMove part page dest = s := by
  rw [State.queueMove, hp, Option.bind_some, hg, Option.map_some]
  exact if_neg fun ⟨h1, h2, _⟩ => by rcases h with h | h <;> simp_all

theorem pageMove_waits (hp : mapGet s.parts part = some p) (hg : pageAt p.pages page = some g) (hpin : s.pinned part g = true)
    (hok : s.placeOk part p g dest = true) (hm : (part, page, dest) ∉ s.moves) :
    exec (.pageMove part page dest) s = .next (State.revokePins { s with moves := s.moves ++ [(part, page, dest)] } part g) := by
  rw [exec_pageMove, execPageMove, movePage_refused hp hg (.inl hpin), Option.getD_none, queueMove_waits hp hg hpin hok hm]

/-- A page that neither moves nor waits to. -/
theorem pageMove_stays (hp : mapGet s.parts part = some p) (hg : pageAt p.pages page = some g)
    (hm : s.movePage part page dest = none) (h : s.pinned part g = false ∨ s.placeOk part p g dest = false) :
    exec (.pageMove part page dest) s = .next s := by
  rw [exec_pageMove, execPageMove, hm, Option.getD_none, queueMove_none hp hg h]

theorem pageMove_moves {u : State} (hm : s.movePage part page dest = some u) : exec (.pageMove part page dest) s = .next u := by
  rw [exec_pageMove, execPageMove, hm, Option.getD_some]

/-! ## A page that nothing holds -/

/-- Nothing pins the page, its frames are the partition's, and the place is open to it. -/
def State.freeToMove (s : State) (part : Nat) (p : Partition) (g : PageMap) (dest : PagePlace) : Prop :=
  s.pinned part g = false ∧ s.pageOwned part p.req.groups g = true ∧ s.placeOk part p g dest = true

theorem State.freeToMove.not_refused (h : s.freeToMove part p g dest) :
    ¬(s.pinned part g = true ∨ ¬s.pageOwned part p.req.groups g = true ∨ ¬s.placeOk part p g dest = true) := by
  obtain ⟨h1, h2, h3⟩ := h
  simp [h1, h2, h3]

theorem movePage_bad (hp : mapGet s.parts part = some p) (hg : pageAt p.pages page = some g) (h : s.freeToMove part p g dest)
    (hb : pageBad p g = true) : s.movePage part page dest = some (s.dropPage part g) := by
  rw [State.movePage, hp, Option.bind_some, hg, Option.bind_some, if_neg h.not_refused, if_pos hb]

theorem movePage_poisoned (hp : mapGet s.parts part = some p) (hg : pageAt p.pages page = some g) (h : s.freeToMove part p g dest)
    (hb : pageBad p g = false) (hl : s.pageLine p.req.groups g .poisoned ≠ none) : s.movePage part page dest = none := by
  rw [State.movePage, hp, Option.bind_some, hg, Option.bind_some, if_neg h.not_refused, if_neg (by simp [hb]),
    if_pos (Option.isSome_iff_ne_none.mpr hl)]

theorem movePage_badMac {l : Nat} (hp : mapGet s.parts part = some p) (hg : pageAt p.pages page = some g) (h : s.freeToMove part p g dest)
    (hb : pageBad p g = false) (hl : s.pageLine p.req.groups g .poisoned = none) (hm : s.pageLine p.req.groups g .badMac = some l) :
    s.movePage part page dest = some ((s.unmapPage part g).logIntegrity part l none 0) := by
  rw [State.movePage, hp, Option.bind_some, hg, Option.bind_some, if_neg h.not_refused, if_neg (by simp [hb]),
    if_neg (by simp [hl]), hm]

/-- The bytes of a page at its new place, its partition not yet told. -/
def State.moved (s : State) (part : Nat) (p : Partition) (g : PageMap) (dest : PagePlace) : State :=
  (s.readPage p.req.groups g).fillPlace part p dest (pageUnits g) g.mode (s.placeBytes p g.place (pageUnits g))

/-- The partition maps the page at its new place. -/
def Partition.remapped (p : Partition) (g : PageMap) (dest : PagePlace) : Partition :=
  { p.version g dest with
    pages := p.pages.map fun x => if x.page = g.page ∧ x.gran = g.gran then { x with place := dest } else x }

theorem movePage_goes (hp : mapGet s.parts part = some p) (hg : pageAt p.pages page = some g) (h : s.freeToMove part p g dest)
    (hb : pageBad p g = false) (hl : s.pageLine p.req.groups g .poisoned = none) (hm : s.pageLine p.req.groups g .badMac = none) :
    s.movePage part page dest = some ((s.moved part p g dest).modPart part fun x => x.remapped g dest) := by
  rw [State.movePage, hp, Option.bind_some, hg, Option.bind_some, if_neg h.not_refused, if_neg (by simp [hb]),
    if_neg (by simp [hl]), hm]
  rfl

/-! ## The outcomes -/

theorem unmapPage_pages (hp : mapGet s.parts part = some p) (g : PageMap) :
    (mapGet (s.unmapPage part g).parts part).map Partition.pages =
      some (p.pages.filter fun x => !(x.page == g.page && x.gran == g.gran)) := by
  rw [State.unmapPage, mapGet_modPart, hp]
  rfl

theorem unmapPage_only (s : State) (part : Nat) (g : PageMap) : { s.unmapPage part g with parts := s.parts } = s := modPart_only ..

theorem dropPage_secLog (s : State) (part : Nat) (g : PageMap) :
    (s.dropPage part g).trust.secLog = s.trust.secLog ++ [⟨part, none, 0, false, s.time, none, 0⟩] := rfl

theorem dropPage_only (s : State) (part : Nat) (g : PageMap) :
    { s.dropPage part g with parts := s.parts, trust := s.trust } = s := by
  have := congrArg (fun u : State => { u with trust := s.trust }) (unmapPage_only s part g)
  exact this

theorem moved_part (hp : mapGet s.parts part = some p) (g : PageMap) (dest : PagePlace) :
    ∃ x, mapGet (s.moved part p g dest).parts part = some x ∧ x.pages = p.pages ∧ x.versions = p.versions := by
  have hread : (s.readPage p.req.groups g).parts = s.parts := by
    have := congrArg State.parts (readPage_only s p.req.groups g); exact this
  exact fillPlace_part (by rw [hread]; exact hp) ..

/-- A page that has moved is mapped at its new place, under its next version count in flash. -/
theorem remapped_part (hp : mapGet s.parts part = some p) (g : PageMap) (dest : PagePlace) :
    ∃ x, mapGet ((s.moved part p g dest).modPart part fun x => x.remapped g dest).parts part = some x ∧
      x.pages = (p.pages.map fun x => if x.page = g.page ∧ x.gran = g.gran then { x with place := dest } else x) ∧
      (∀ b, dest = .flash b → g.mode = .integrity →
        mapGet x.versions (pageAddr g) = some ((mapGet p.versions (pageAddr g)).getD 0 + 1)) ∧
      some x.flash = (mapGet (s.moved part p g dest).parts part).map Partition.flash := by
  obtain ⟨y, hy, hpages, hversions⟩ := moved_part hp g dest
  rw [mapGet_modPart, hy]
  refine ⟨_, rfl, ?_, fun b hb hm => ?_, ?_⟩
  · rw [← hpages]
    rfl
  · subst hb
    rw [← hversions]
    exact y.version_next b hm
  · exact congrArg some (y.version_flash g dest)

/-- What a move writes, and the firmware's counts, as they were before it. -/
def State.outsidePlace (s u : State) : State := { u with
  parts := s.parts, mem := s.mem, lentMem := s.lentMem, marks := s.marks, dies := s.dies, seq := s.seq, pot := s.pot
  writeCtr := s.writeCtr, treeCtr := s.treeCtr, treeRoot := s.treeRoot, lineMac := s.lineMac, nodeMac := s.nodeMac, fw := s.fw }

theorem moved_only (s : State) (part : Nat) (p : Partition) (g : PageMap) (dest : PagePlace) (f : Partition → Partition) :
    s.outsidePlace ((s.moved part p g dest).modPart part f) = s := by
  have hmap := congrArg s.outsidePlace (modPart_only (s.moved part p g dest) part f)
  have hfill := congrArg s.outsidePlace (fillPlace_onlyPlace (s.readPage p.req.groups g) part p dest (pageUnits g) g.mode
    (s.placeBytes p g.place (pageUnits g)))
  have hread := congrArg s.outsidePlace (readPage_only s p.req.groups g)
  exact hmap.trans (hfill.trans hread)

end

end Sys2Proof.Machine
end

section
/-! SUPPORT. Changes of the frames' owners, and frames lent (02 R33, R34, 03 R63, 17 R368, 18 R382, R387). -/

namespace Sys2Proof.Machine

/-! ## Frames marked TRANSITION (R382) -/

/-- A step over one frame that marks its entry TRANSITION, and touches of the POT nothing else. -/
def MarksFrame (step : State → Nat → State) : Prop :=
  ∀ s f, (step s f).pot = mapSet s.pot f { s.potOf f with transition := true }

theorem potOf_foldl_marks {step : State → Nat → State} (h : MarksFrame step) (fs : List Nat) (s : State) (x : Nat) :
    (fs.foldl step s).potOf x = if x ∈ fs then { s.potOf x with transition := true } else s.potOf x := by
  induction fs generalizing s with
  | nil => rfl
  | cons f fs ih =>
    have hstep : (step s f).potOf x = if x = f then { s.potOf f with transition := true } else s.potOf x := by
      rw [State.potOf, h]
      split_ifs with hx
      · rw [hx, mapGet_mapSet, Option.getD_some]
      · rw [mapGet_mapSet_ne _ _ hx, State.potOf]
    rw [List.foldl_cons, ih, hstep]
    by_cases hx : x = f
    · subst hx; simp
    · simp [hx]

theorem inChange_marks : MarksFrame State.inChange := fun _ _ => rfl

theorem toFirmware_marks : MarksFrame State.toFirmware := fun _ _ => rfl

theorem foldl_inChange_only (fs : List Nat) (s : State) : { fs.foldl State.inChange s with pot := s.pot } = s := by
  induction fs generalizing s with
  | nil => rfl
  | cons f fs ih =>
    have h := congrArg (fun u : State => { u with pot := s.pot }) (ih (s.inChange f))
    exact h

theorem foldl_toFirmware_only (fs : List Nat) (s : State) :
    { fs.foldl State.toFirmware s with pot := s.pot, potWork := s.potWork } = s := by
  induction fs generalizing s with
  | nil => rfl
  | cons f fs ih =>
    have h := congrArg (fun u : State => { u with pot := s.pot, potWork := s.potWork }) (ih (s.toFirmware f))
    exact h

theorem mem_getD_singleton {o : Option (List Nat)} {f : Nat} (h : ∀ fs, o = some fs → f ∈ fs) : f ∈ o.getD [f] := by
  cases o with
  | none => exact List.mem_singleton.mpr rfl
  | some fs => exact h fs rfl

/-- A frame changes with those of the page on it, and so itself (R34). -/
theorem mem_potFrames (s : State) (f : Nat) : f ∈ s.potFrames f := by
  unfold State.potFrames
  split
  · refine mem_getD_singleton fun fs hfs => ?_
    obtain ⟨p, -, hfind⟩ := Option.bind_eq_some_iff.mp hfs
    simpa using List.find?_some hfind
  · exact List.mem_singleton.mpr rfl

/-! ## An INTEGRITY entry (R359, R385, R386) -/

theorem logIntegrity_secLog (s : State) (part line : Nat) (rank : Option Nat) (pc : BitVec 32) :
    (s.logIntegrity part line rank pc).trust.secLog =
      s.trust.secLog ++ [⟨part, some (line / 512), line % 512, s.nodeFails line, s.time, rank, pc⟩] := by
  have h : ((s.potFrames (line / 512)).foldl State.toFirmware s).trust = s.trust := by
    have := congrArg State.trust (foldl_toFirmware_only (s.potFrames (line / 512)) s); exact this
  rw [← h]
  rfl

theorem logIntegrity_transition (s : State) (part line : Nat) (rank : Option Nat) (pc : BitVec 32) :
    ((s.logIntegrity part line rank pc).potOf (line / 512)).transition = true := by
  have h := potOf_foldl_marks toFirmware_marks (s.potFrames (line / 512)) s (line / 512)
  rw [if_pos (mem_potFrames s _)] at h
  exact congrArg PotEntry.transition h

/-- A partition loses frames. -/
def Partition.without (p : Partition) (fs : List Nat) : Partition := { p with frames := p.frames.filter fun y => !fs.contains y }

theorem logIntegrity_pages (s : State) (part line : Nat) (rank : Option Nat) (pc : BitVec 32) :
    (mapGet (s.logIntegrity part line rank pc).parts part).map Partition.pages = (mapGet s.parts part).map Partition.pages := by
  have h : ((s.potFrames (line / 512)).foldl State.toFirmware s).parts = s.parts := by
    have := congrArg State.parts (foldl_toFirmware_only (s.potFrames (line / 512)) s); exact this
  rw [← h]
  have hparts := mapGet_map_snd (Partition.without · (s.potFrames (line / 512)))
    ((s.potFrames (line / 512)).foldl State.toFirmware s).parts part
  have := congrArg (Option.map Partition.pages) hparts
  rw [Option.map_map] at this
  exact this

/-- A page that fails its MAC as it is read is mapped no more, its frame is on its way to the firmware, and it is logged (R385). -/
theorem unmapped_logged {s : State} {part : Nat} {p : Partition} (hp : mapGet s.parts part = some p) (g : PageMap) (l : Nat) :
    (mapGet ((s.unmapPage part g).logIntegrity part l none 0).parts part).map Partition.pages =
        some (p.pages.filter fun x => !(x.page == g.page && x.gran == g.gran)) ∧
      (((s.unmapPage part g).logIntegrity part l none 0).potOf (l / 512)).transition = true ∧
      ((s.unmapPage part g).logIntegrity part l none 0).trust.secLog =
        s.trust.secLog ++ [⟨part, some (l / 512), l % 512, s.nodeFails l, s.time, none, 0⟩] := by
  have hlog := logIntegrity_secLog (s.unmapPage part g) part l none 0
  have hentry : (⟨part, some (l / 512), l % 512, (s.unmapPage part g).nodeFails l, (s.unmapPage part g).time, none, 0⟩ : SecEntry) =
      ⟨part, some (l / 512), l % 512, s.nodeFails l, s.time, none, 0⟩ := by
    have := congrArg (fun u : State => (⟨part, some (l / 512), l % 512, u.nodeFails l, u.time, none, 0⟩ : SecEntry))
      (unmapPage_only s part g)
    exact this
  have htrust : (s.unmapPage part g).trust = s.trust := by
    have := congrArg State.trust (unmapPage_only s part g); exact this
  exact ⟨(logIntegrity_pages ..).trans (unmapPage_pages hp g), logIntegrity_transition .., by rw [hlog, hentry, htrust]⟩

/-! ## POT_CHANGE (R33, R34, R81, R382, R390) -/

section
variable {s : State} {frame : Nat} {owner : FrameOwner} {world : World} {mode : ProtMode}

theorem potOk_false {fs : List Nat} (hf : frame ∈ fs)
    (h : (s.potOf frame).transition = true ∨ (s.potOf frame).owner = .firmware ∨ channelGroup frame < 2 ∨
      (∃ k x, owner = .part k ∧ mapGet s.parts k = some x ∧
        (x.teardown ≠ none ∨ (s.potOf frame).owner ≠ .part k ∧ channelGroup frame ≠ s.nextGroup k x)) ∨
      (∃ k, (s.potOf frame).owner = .part k ∧ owner ≠ .part k ∧ s.framesLeft k < 65600 + fs.length)) :
    s.potOk fs owner = false := by
  refine List.all_eq_false.mpr ⟨frame, hf, fun hok => ?_⟩
  simp only [Bool.and_eq_true] at hok
  obtain ⟨⟨⟨⟨htrans, hown⟩, hgroup⟩, hleft⟩, hnext⟩ := hok
  rcases h with h | h | h | ⟨k, x, rfl, hx, h⟩ | ⟨k, hk, hne, h⟩
  · simp [h] at htrans
  · simp [h] at hown
  · have := of_decide_eq_true hgroup
    omega
  · simp only [hx, Option.any_some, Bool.and_eq_true, Bool.or_eq_true, beq_iff_eq, Option.isNone_iff_eq_none] at hnext
    obtain ⟨hdown, hgrp⟩ := hnext
    rcases h with h | ⟨h1, h2⟩
    · exact h hdown
    · exact hgrp.elim h1 h2
  · simp only [hk, Bool.or_eq_true, beq_iff_eq, decide_eq_true_eq] at hleft
    exact hleft.elim hne (by omega)

theorem potChange_refused (h : s.potOk (s.potFrames frame) owner = false) :
    exec (.potChange frame world owner mode) s = .next s := by
  rw [exec_potChange, execPotChange]
  exact if_pos (by simp [h])

/-- Steps 1 and 2 of a change of frames: marked, noted for the firmware, and what pins them asked to go. -/
def State.potChanged (s : State) (fs : List Nat) (e : PotEntry) : State :=
  State.askSweeps { fs.foldl State.inChange s with potWork := s.potWork ++ fs.map fun f => (f, e) } (s.pinsFrames fs)

theorem potChange_made (h : s.potOk (s.potFrames frame) owner = true) :
    exec (.potChange frame world owner mode) s = .next (s.potChanged (s.potFrames frame) ⟨world, owner, mode, false⟩) := by
  rw [exec_potChange, execPotChange]
  exact if_neg (by simp [h])

theorem potOf_potChanged (s : State) (fs : List Nat) (e : PotEntry) (f : Nat) :
    (s.potChanged fs e).potOf f = if f ∈ fs then { s.potOf f with transition := true } else s.potOf f :=
  potOf_foldl_marks inChange_marks fs s f

end

theorem releases_askSweeps (s : State) (is : List Nat) : ∃ more, (s.askSweeps is).releases = s.releases ++ more := ⟨_, rfl⟩

/-- Every ACTIVE entry that F2 is asked to release stands in its list (R59). -/
theorem mem_releases_askSweeps {s : State} {is : List Nat} {i : Nat} (hi : i ∈ is) (ha : (s.entry i).state = .active) :
    (i, (s.entry i).gen.toNat) ∈ (s.askSweeps is).releases := by
  unfold State.askSweeps
  refine List.mem_append.mpr ?_
  by_cases hr : s.released i = true
  · obtain ⟨r, hr, he⟩ := List.any_eq_true.mp hr
    simp only [Bool.and_eq_true, beq_iff_eq] at he
    exact .inl (by rw [← he.1, ← he.1, ← he.2] at *; exact hr)
  · exact .inr (List.mem_map.mpr ⟨i, List.mem_filter.mpr ⟨hi, by simp [ha, hr]⟩, rfl⟩)

theorem potChanged_base (s : State) (fs : List Nat) (e : PotEntry) :
    { s.potChanged fs e with pot := s.pot, potWork := s.potWork, releases := s.releases } = s := by
  have h := congrArg (fun u : State => { u with potWork := s.potWork, releases := s.releases }) (foldl_inChange_only fs s)
  exact h

theorem potChanged_releases (s : State) (fs : List Nat) (e : PotEntry) :
    (s.potChanged fs e).releases = (s.askSweeps (s.pinsFrames fs)).releases := by
  have h := congrArg (fun u : State => (u.askSweeps (s.pinsFrames fs)).releases) (foldl_inChange_only fs s)
  exact h

/-! ## Frames lent (R33, R63, R368, R387) -/

section
variable {s : State} {pkg lo count : Nat}

theorem grantOpen_not_serving (h : s.serves = false) : exec (.grantOpen pkg lo count) s = .next s := by
  rw [exec_grantOpen, execGrantOpen]
  exact if_neg fun hc => by simp [h] at hc

/-- The frames may be lent: free ones of this package, none of the firmware's groups, none changing (R33, R368). -/
def State.mayLend (s : State) (lo count : Nat) : Prop :=
  s.serves = true ∧ 0 < count ∧ 2 ≤ channelGroup lo ∧ (lo + count) * 65536 ≤ Config.mainMemoryEnd ∧
    ∀ f, lo ≤ f → f < lo + count → (s.potOf f).owner = .free ∧ (s.potOf f).transition = false

theorem State.mayLend.all (h : s.mayLend lo count) :
    ((List.range count).all fun i => (s.potOf (lo + i)).owner == .free && !(s.potOf (lo + i)).transition) = true := by
  obtain ⟨-, -, -, -, hfree⟩ := h
  refine List.all_eq_true.mpr fun i hi => ?_
  obtain ⟨hown, htrans⟩ := hfree (lo + i) (Nat.le_add_right ..) (Nat.add_lt_add_left (List.mem_range.mp hi) lo)
  simp [hown, htrans]

theorem grantOpen_keyed (h : s.mayLend lo count) (hs : s.sessionWith pkg = true) :
    exec (.grantOpen pkg lo count) s = .next { s.setFrames lo count ⟨.secure, .firmware, .encrypted, false⟩ with
      grants := s.grants ++ [⟨pkg, lo, count, none, some s.keyNext⟩], keyNext := s.keyNext + 1 } := by
  obtain ⟨hserves, hcount, hgroup, hend, -⟩ := id h
  rw [exec_grantOpen, execGrantOpen, if_pos ⟨hserves, hcount, hgroup, hend, h.all⟩, if_pos hs]

theorem grantOpen_clear (h : s.mayLend lo count) (hs : s.sessionWith pkg = false) :
    exec (.grantOpen pkg lo count) s = .next { s.setFrames lo count ⟨.secure, .firmware, .clear, false⟩ with
      grants := s.grants ++ [⟨pkg, lo, count, none, none⟩] } := by
  obtain ⟨hserves, hcount, hgroup, hend, -⟩ := id h
  rw [exec_grantOpen, execGrantOpen, if_pos ⟨hserves, hcount, hgroup, hend, h.all⟩, if_neg (by simp [hs])]

/-- A grant of those frames to that package whose reclaim has not been asked for. -/
def Grant.open (g : Grant) (pkg lo count : Nat) : Bool := g.pkg == pkg && g.lo == lo && g.count == count && g.reclaim.isNone

theorem Grant.open_iff {g : Grant} : g.open pkg lo count = true ↔ g.pkg = pkg ∧ g.lo = lo ∧ g.count = count ∧ g.reclaim = none := by
  simp [Grant.open, and_assoc]

theorem lenderReclaim_lender (h : ∃ g ∈ s.grants, g.open pkg lo count = true) : exec (.lenderReclaim pkg lo count) s =
    .next { s with grants := s.grants.map fun g => if g.open pkg lo count then { g with reclaim := some s.now } else g } := by
  rw [exec_lenderReclaim, execLenderReclaim]
  exact if_pos (List.any_eq_true.mpr h)

theorem lenderReclaim_borrower (h : ∀ g ∈ s.grants, ¬g.open pkg lo count = true)
    (hb : ∃ x, x ∈ s.parts ∧ pagesLent x.2 pkg lo count ≠ []) : exec (.lenderReclaim pkg lo count) s =
    .next (State.askSweeps { s with borrowed := s.borrowed ++ [⟨pkg, lo, count, some s.now, none⟩] }
      (s.borrowedEntries pkg lo count)) := by
  obtain ⟨x, hx, hne⟩ := hb
  rw [exec_lenderReclaim, execLenderReclaim]
  refine (if_neg fun hany => ?_).trans (if_pos (List.any_eq_true.mpr ⟨x, hx, by simpa using hne⟩))
  obtain ⟨g, hg, ho⟩ := List.any_eq_true.mp hany
  exact h g hg ho

end

end Sys2Proof.Machine
end

section
/-! PROOF. The sweeps, pages, lent frames and changes of owner of O55, from the rules of the files before. -/

namespace Sys2Proof.Machine

section
variable {s : State} {index n : Nat}

/-- A core that has not acknowledged in 10 ms: all that it runs or holds under the index ends (R60). -/
theorem sweepAbort_late {since : Nat} {q : Core} (hq : s.coreAt n = some q) (hs : q.sweepOf index = some (index, 0, since))
    (hlate : since + 40000000 ≤ s.now) :
    ∃ u d, exec (.sweepAbort n index) s = .next u ∧ OnlyCore n (fun _ => d) { s with tasks := u.tasks } u ∧
      ((∀ h, q.copy.held = some h → index ∉ launchPins h.kind) → u.tasks = s.tasks) ∧
      (∀ h t kd op dt gn ct sr ds, q.copy.held = some h → h.kind = .coll kd op dt gn ct sr ds → index ∈ launchPins h.kind →
        s.task? q.task = some t → u.task? q.task = some { t with
          colls := t.colls ++ [⟨gn, (t.colls.filter fun r => r.group = gn && r.core = n).length, n, false, 0, []⟩] }) ∧
      d = ((q.pinHolders index).foldl (fun k m => k.abortCmd m (s.membersOf m.launch.kind) s.now) q).abortHeld index ∧
      (∀ h, q.copy.held = some h → index ∈ launchPins h.kind → q.pinHolders index = [] → d.copy.held = none ∧
        d.tags = q.tags ||| 1#64 <<< (h.tag % 64) ∧ d.tagrev = q.tagrev ||| 1#64 <<< (h.tag % 64)) := by
  refine ⟨_, s.abortedCore index q, exec_sweepAbort_late hq hs hlate, onlyCore_sweepAbort hq, fun helse => ?_,
    fun h t kd op dt gn ct sr ds hh hk hi ht => ?_, rfl, fun h hh hi hnone => ?_⟩
  · have := congrArg State.tasks (noteAborted_elsewhere (s := s) helse)
    exact this
  · rw [← coreAt_phys hq]
    exact task?_noteAborted hh hk hi ht
  · have hcore : s.abortedCore index q = q.abortHeld index := by rw [State.abortedCore, hnone, List.foldl_nil]
    rw [hcore]
    exact abortHeld_held hh hi

theorem sweepFree_frees (he : (s.entry index).state = .revoking) (hall : ∀ k, k ∈ s.cores → ∀ y, y ∈ k.sweeps → y.1 ≠ index) :
    ∃ u, exec (.sweepFree index) s = .next u ∧ u.entry index = { s.entry index with state := .free, frames := [], acks := [] } ∧
      (∀ i, i ≠ index → u.entry i = s.entry i) ∧ { u with almanac := s.almanac } = s := by
  obtain ⟨hentry, hothers⟩ := entry_of_mapSet (s := s) (i := index) (e := { s.entry index with state := .free, frames := [], acks := [] })
    (u := { s with almanac := mapSet s.almanac index { s.entry index with state := .free, frames := [], acks := [] } }) rfl
  exact ⟨_, sweepFree_done he hall, hentry, hothers, rfl⟩

/-- New seal keys let an entry that ran out of generations serve again (R60). -/
theorem sealKeyRotation_renews (hq : (s.entry index).quarantined = true) (hf : (s.entry index).state = .free)
    (ht : ∀ t, t ∈ s.tasks → (s.entry index).made ≤ t.id) :
    ∃ u, exec (.sealKeyRotation index) s = .next u ∧
      (u.entry index).state = .free ∧ (u.entry index).gen = 1 ∧ (u.entry index).quarantined = false ∧
      (∀ i, i ≠ index → u.entry i = s.entry i) ∧
      (∀ i x, i ∈ (s.entry index).owners → mapGet s.parts i = some x → ∃ k, s.keyNext ≤ k ∧ k < u.keyNext ∧
        mapGet u.parts i = some { x with sealKey := k }) ∧
      (∀ i, i ∉ (s.entry index).owners → mapGet u.parts i = mapGet s.parts i) ∧
      { u with almanac := s.almanac, parts := s.parts, keyNext := s.keyNext } = s := by
  obtain ⟨hentry, hothers⟩ := entry_of_mapSet (s := s) (i := index)
    (e := { freshEntry with gen := 1, owners := (s.entry index).owners })
    (u := { s with
      parts := ((s.entry index).owners.foldl State.newSealKey s).parts, keyNext := s.keyNext + (s.entry index).owners.length
      almanac := mapSet s.almanac index { freshEntry with gen := 1, owners := (s.entry index).owners } }) rfl
  refine ⟨_, sealKeyRotation_over hq hf ht, congrArg AlmanacEntry.state hentry, congrArg AlmanacEntry.gen hentry,
    congrArg AlmanacEntry.quarantined hentry, hothers, fun i x hi hx => mapGet_newSealKeys hi hx,
    fun i hi => mapGet_newSealKeys_ne hi, rfl⟩

end

section
variable {s : State} {part page : Nat} {dest : PagePlace} {p : Partition} {g : PageMap}

/-- A page that nothing holds and that reads whole moves: its bytes are at its new place, and its partition maps it there. -/
theorem pageMove_goes (hp : mapGet s.parts part = some p) (hg : pageAt p.pages page = some g) (h : s.freeToMove part p g dest)
    (hb : pageBad p g = false) (hl : s.pageLine p.req.groups g .poisoned = none) (hm : s.pageLine p.req.groups g .badMac = none) :
    ∃ u, exec (.pageMove part page dest) s = .next u ∧
      (mapGet u.parts part).map Partition.pages =
        some (p.pages.map fun x => if x.page = g.page ∧ x.gran = g.gran then { x with place := dest } else x) ∧
      (∀ b, dest = .flash b → g.mode = .integrity →
        ((mapGet u.parts part).bind fun x => mapGet x.versions (pageAddr g)) = some ((mapGet p.versions (pageAddr g)).getD 0 + 1)) ∧
      (u.mem, u.lentMem, u.dies, u.fw) =
        ((s.moved part p g dest).mem, (s.moved part p g dest).lentMem, (s.moved part p g dest).dies, (s.moved part p g dest).fw) ∧
      (mapGet u.parts part).map Partition.flash = (mapGet (s.moved part p g dest).parts part).map Partition.flash ∧
      (∀ f, dest = .main f → ∀ i, i < pageUnits g → (u.potOf (nthFrame p.req.groups f i)).mode = g.mode) ∧ s.outsidePlace u = s := by
  obtain ⟨x, hx, hpages, hversions, hflash⟩ := remapped_part hp g dest
  have hpot : ((s.moved part p g dest).modPart part fun x => x.remapped g dest).pot = (s.moved part p g dest).pot := by
    have := congrArg State.pot (modPart_only (s.moved part p g dest) part fun x => x.remapped g dest); exact this
  have hbytes := congrArg (fun v : State => (v.mem, v.lentMem, v.dies, v.fw))
    (modPart_only (s.moved part p g dest) part fun x => x.remapped g dest)
  refine ⟨_, pageMove_moves (movePage_goes hp hg h hb hl hm), ?_, fun b hd hi => ?_, hbytes, ?_, fun f hd i hi => ?_,
    moved_only s part p g dest _⟩
  · rw [hx, Option.map_some, hpages]
  · rw [hx, Option.bind_some]
    exact hversions b hd hi
  · rw [hx, Option.map_some, hflash]
  · subst hd
    rw [State.potOf, hpot]
    exact potOf_fillPlace _ part p g.mode _ hi

end

section
variable {s : State} {pkg lo count : Nat}

theorem grantOpen_lends (h : s.mayLend lo count) :
    ∃ u, exec (.grantOpen pkg lo count) s = .next u ∧
      (s.sessionWith pkg = true → u.grants = s.grants ++ [⟨pkg, lo, count, none, some s.keyNext⟩] ∧ u.keyNext = s.keyNext + 1 ∧
        ∀ f, lo ≤ f → f < lo + count → u.potOf f = ⟨.secure, .firmware, .encrypted, false⟩) ∧
      (s.sessionWith pkg = false → u.grants = s.grants ++ [⟨pkg, lo, count, none, none⟩] ∧ u.keyNext = s.keyNext ∧
        ∀ f, lo ≤ f → f < lo + count → u.potOf f = ⟨.secure, .firmware, .clear, false⟩) ∧
      (∀ f, f < lo ∨ lo + count ≤ f → u.potOf f = s.potOf f) ∧
      { u with grants := s.grants, pot := s.pot, keyNext := s.keyNext } = s := by
  have hin : ∀ e f, lo ≤ f → f < lo + count → (s.setFrames lo count e).potOf f = e := fun e f hlo hhi => by
    rw [potOf_setFrames, if_pos ⟨hlo, hhi⟩]
  have hout : ∀ e f, f < lo ∨ lo + count ≤ f → (s.setFrames lo count e).potOf f = s.potOf f := fun e f hf => by
    rw [potOf_setFrames, if_neg (by omega)]
  cases hs : s.sessionWith pkg with
  | true => exact ⟨_, grantOpen_keyed h hs, fun _ => ⟨rfl, rfl, hin _⟩, fun hno => Bool.noConfusion hno, hout _, rfl⟩
  | false => exact ⟨_, grantOpen_clear h hs, fun hno => Bool.noConfusion hno, fun _ => ⟨rfl, rfl, hin _⟩, hout _, rfl⟩

theorem lenderReclaim_starts (h : ∃ g, g ∈ s.grants ∧ g.pkg = pkg ∧ g.lo = lo ∧ g.count = count ∧ g.reclaim = none) :
    ∃ u, exec (.lenderReclaim pkg lo count) s = .next u ∧
      (∀ (i : Nat) (g : Grant), s.grants[i]? = some g →
        ((g.pkg = pkg ∧ g.lo = lo ∧ g.count = count ∧ g.reclaim = none) → u.grants[i]? = some { g with reclaim := some s.now }) ∧
        (¬(g.pkg = pkg ∧ g.lo = lo ∧ g.count = count ∧ g.reclaim = none) → u.grants[i]? = some g)) ∧
      { u with grants := s.grants } = s := by
  simp only [← Grant.open_iff] at h ⊢
  refine ⟨_, lenderReclaim_lender h, fun i g hg => ⟨fun ho => ?_, fun ho => ?_⟩, rfl⟩
  · rw [List.getElem?_map, hg, Option.map_some, if_pos ho]
  · rw [List.getElem?_map, hg, Option.map_some, if_neg ho]

end

/-- The frames of a change are marked, the firmware has its work, and what pins them is asked to go (R382, R59). -/
theorem potChange_begins {s : State} {frame : Nat} {world : World} {owner : FrameOwner} {mode : ProtMode}
    (h : s.potOk (s.potFrames frame) owner = true) :
    ∃ u more, exec (.potChange frame world owner mode) s = .next u ∧
      frame ∈ s.potFrames frame ∧ (∀ f, f ∈ s.potFrames frame → u.potOf f = { s.potOf f with transition := true }) ∧
      (∀ f, f ∉ s.potFrames frame → u.potOf f = s.potOf f) ∧
      u.potWork = s.potWork ++ (s.potFrames frame).map (fun f => (f, ⟨world, owner, mode, false⟩)) ∧ u.releases = s.releases ++ more ∧
      (∀ i, i ∈ s.pinsFrames (s.potFrames frame) → (s.entry i).state = .active → (i, (s.entry i).gen.toNat) ∈ u.releases) ∧
      { u with pot := s.pot, potWork := s.potWork, releases := s.releases } = s := by
  obtain ⟨more, hmore⟩ := releases_askSweeps s (s.pinsFrames (s.potFrames frame))
  refine ⟨_, more, potChange_made h, mem_potFrames s frame, fun f hf => ?_, fun f hf => ?_, rfl,
    (potChanged_releases ..).trans hmore, fun i hi ha => ?_, potChanged_base ..⟩
  · rw [potOf_potChanged, if_pos hf]
  · rw [potOf_potChanged, if_neg hf]
  · rw [potChanged_releases]
    exact mem_releases_askSweeps hi ha

/-- Settles O55, step by step of a sweep and outcome by outcome of a move: each clause is the rule of that step. -/
theorem revocation : Obligations.Revocation := by
  intro n index part page pkg lo count frame due since dest world owner mode p g gr q a s e mine entryOnly closes
  have hcloses : ∀ i, exec i s = .next (s.endGrant gr) → closes i := fun i hi => ⟨_, hi, grantEnds_endGrant s gr⟩
  refine ⟨fun he => ?_, jubileeSweep_not_active, ?_,
    fun hq hs => ⟨sweepAck_clear hq hs, sweepAck_in_use hq hs, sweepAbort_late hq hs⟩, sweepFree_frees, sealKeyRotation_renews, ?_, grantOpen_not_serving,
    fun hserves hcount hgroup hend hfree => grantOpen_lends ⟨hserves, hcount, hgroup, hend, hfree⟩,
    ⟨lenderReclaim_starts, fun hno hlent => ?_⟩, fun h => hcloses _ (reclaimCompletion_ends h), fun h => hcloses _ (grantClose_ends h),
    fun h => potChange_refused (potOk_false (mem_potFrames s frame) h), potChange_begins⟩
  case refine_1 =>
    obtain ⟨u, hexec, hentry, hrest⟩ := jubileeSweep_active he
    refine ⟨u, hexec, congrArg AlmanacEntry.state hentry, congrArg AlmanacEntry.gen hentry, fun hlast => ?_,
      ?_, ?_, hrest⟩
    all_goals rw [hentry]
    · have hlast : (s.entry index).gen = 0xFFF := hlast
      simp [AlmanacEntry.revoked, hlast]
    · rfl
    · rfl
  case refine_2 =>
    intro hq hs h0 hdue dropped
    refine ⟨fun helse => ?_, fun hw ha hi => ?_⟩
    · exact ⟨_, tokenInvalidate_elsewhere hq hs h0 hdue helse, onlyCore_modAt (f := dropped) s fun _ h => h⟩
    · exact ⟨_, exec_tokenInvalidate_waiting hq hs h0 hdue hw ha hi, coreAt_waitRevoked hq index hw, waitersAt_waitRevoked ..⟩
  case refine_3 =>
    intro hp hg fs v gone
    refine ⟨pageMove_waits hp hg, fun hok => ?_, fun hpin hown => ?_, fun hpin hok hown => ?_⟩
    · exact pageMove_stays hp hg (movePage_refused hp hg (.inr (.inr hok))) (.inr hok)
    · exact pageMove_stays hp hg (movePage_refused hp hg (.inr (.inl hown))) (.inl hpin)
    · have hfree : s.freeToMove part p g dest := ⟨hpin, hown, hok⟩
      exact ⟨fun hb => ⟨_, pageMove_moves (movePage_bad hp hg hfree hb), unmapPage_pages hp g,
          dropPage_secLog s part g, dropPage_only s part g⟩,
        fun hb hl => pageMove_stays hp hg (movePage_poisoned hp hg hfree hb hl) (.inl hpin),
        fun l hb hl hm => ⟨_, pageMove_moves (movePage_badMac hp hg hfree hb hl hm), unmapped_logged hp g l⟩,
        pageMove_goes hp hg hfree⟩
  case refine_4 =>
    exact ⟨_, lenderReclaim_borrower (fun g hg ho => hno g hg (Grant.open_iff.mp ho)) hlent, rfl, rfl, rfl⟩

end Sys2Proof.Machine
end

section
/-! SUPPORT. Timed reads over scalar stores, reads made later, the value of loaded bytes, tokens sealed and unsealed
(04 R68, R69, R76, 11 R240, R245, 03 R48, R49). -/

namespace Sys2Proof.Machine

/-! ## A timed read over one more write (R69) -/

/-- A byte read on a cycle over the byte `y` that stands without the write. -/
def TimedWrite.over (w : TimedWrite) (lane : Bool) (cycle x : Nat) (y : Byte) : Byte :=
  if w.lane = lane ∧ w.expose ≤ cycle then w.cells.foldl (fun y c => if c.1 = x then c.2 else y) y else y

theorem timedByte_append (m : Memory) (ws : List TimedWrite) (w : TimedWrite) (lane : Bool) (cycle x : Nat) :
    timedByte m (ws ++ [w]) lane cycle x = w.over lane cycle x (timedByte m ws lane cycle x) := by
  rw [timedByte, List.foldl_append]; rfl

theorem foldl_cellsAt (a x : Nat) (bs : List Byte) (y : Byte) :
    (cellsAt a bs).foldl (fun y c => if c.1 = x then c.2 else y) y =
      if a ≤ x ∧ x < a + bs.length then bs.getD (x - a) 0 else y := by
  induction bs generalizing a y with
  | nil => rw [if_neg (by simp only [List.length_nil]; omega)]; rfl
  | cons b bs ih =>
    rw [cellsAt, List.foldl_cons, ih, List.length_cons]
    by_cases hx : a = x
    · subst hx
      rw [if_neg (by omega), if_pos rfl, if_pos (by omega), Nat.sub_self]; rfl
    · rw [if_neg hx]
      by_cases hin : a + 1 ≤ x ∧ x < a + 1 + bs.length
      · rw [if_pos hin, if_pos (by omega), show x - a = x - (a + 1) + 1 by omega]; rfl
      · rw [if_neg hin, if_neg (by omega)]

/-- A run of bytes written to the scratchpad shows from its exposure cycle on, where it stands. -/
theorem over_cellsAt (e a u x : Nat) (bs : List Byte) (strand : Bool) (y : Byte) :
    TimedWrite.over ⟨e, false, cellsAt a bs, strand⟩ false u x y =
      if e ≤ u ∧ a ≤ x ∧ x < a + bs.length then bs.getD (x - a) 0 else y := by
  simp only [TimedWrite.over, foldl_cellsAt, true_and, ite_and]

theorem getD_take (bs : List Byte) {n i : Nat} (h : i < n) : (bs.take n).getD i 0 = bs.getD i 0 := by
  simp [List.getD_eq_getElem?_getD, h]

theorem getD_drop (bs : List Byte) (n i : Nat) : (bs.drop n).getD i 0 = bs.getD (n + i) 0 := by
  simp [List.getD_eq_getElem?_getD, List.getElem?_drop]

/-- A timed read over a scalar store: its lower part four cycles on, what lies beyond the 64-byte boundary a cycle later (R68, R76). -/
theorem timedByte_scrStore (c : Core) (t u a x : Nat) (bs : List Byte) :
    let d := c.scrStore t a bs
    timedByte d.scr d.timed false u x =
      if a ≤ x ∧ x < a + bs.length ∧ (if x < a + (64 - a % 64) then t + 4 else t + 5) ≤ u then bs.getD (x - a) 0
      else timedByte c.scr c.timed false u x := by
  intro d
  by_cases hlow : min bs.length (64 - a % 64) < bs.length
  · have hd : d = (c.pushTimed ⟨t + 4, false, cellsAt a (bs.take (min bs.length (64 - a % 64))), true⟩).pushTimed
        ⟨t + 5, false, cellsAt (a + min bs.length (64 - a % 64)) (bs.drop (min bs.length (64 - a % 64))), true⟩ := if_pos hlow
    rw [hd]
    simp only [Core.pushTimed, timedByte_append, over_cellsAt, List.length_take, List.length_drop]
    generalize hl : min bs.length (64 - a % 64) = low at *
    by_cases hx : x < a + (64 - a % 64)
    · rw [if_pos hx, if_neg (by omega)]
      by_cases hin : a ≤ x ∧ x < a + bs.length ∧ t + 4 ≤ u
      · rw [if_pos hin, if_pos (by omega), getD_take _ (by omega)]
      · rw [if_neg hin, if_neg (by omega)]
    · rw [if_neg hx]
      by_cases hin : a ≤ x ∧ x < a + bs.length ∧ t + 5 ≤ u
      · rw [if_pos hin, if_pos (by omega), getD_drop, show low + (x - (a + low)) = x - a by omega]
      · rw [if_neg hin, if_neg (by omega), if_neg (by omega)]
  · have hd : d = c.pushTimed ⟨t + 4, false, cellsAt a (bs.take (min bs.length (64 - a % 64))), true⟩ := if_neg hlow
    have htake : bs.take (min bs.length (64 - a % 64)) = bs := List.take_of_length_le (by omega)
    rw [hd, htake]
    simp only [Core.pushTimed, timedByte_append, over_cellsAt]
    refine if_congr ⟨fun ⟨he, ha, hx⟩ => ⟨ha, hx, ?_⟩, fun ⟨ha, hx, he⟩ => ⟨?_, ha, hx⟩⟩ rfl rfl
    · rwa [if_pos (by omega)]
    · rwa [if_pos (by omega)] at he

/-! ## A read that an issued load makes later (R69, R76, R250) -/

/-- A later read that changes the core as `f` says, no read still to be made among it, does so and is then made. -/
theorem makeLate_eq {s : State} {x : LateRead} {f : Core → Core} (hr : (s.readLate x).core = f s.core)
    (hl : (f s.core).late = s.core.late) : s.makeLate x = s.mod fun c => { f c with late := c.late.erase x } := by
  have h : s.makeLate x = s.mod fun _ => { (s.readLate x).core with late := (s.readLate x).core.late.erase x } := rfl
  rw [h, hr, hl]; rfl

/-! ## The value of loaded bytes (R5, R240, R245) -/

theorem bytesToNat_lt (bs : List Byte) : bytesToNat bs < 2 ^ (8 * bs.length) := by
  induction bs with
  | nil => exact Nat.one_pos
  | cons b bs ih =>
    have hb := b.isLt
    rw [bytesToNat, List.length_cons, Nat.mul_add, Nat.pow_add]
    omega

theorem bytesToNat_natToBytes (n x : Nat) : bytesToNat (natToBytes n x) = x % 2 ^ (8 * n) := by
  induction n generalizing x with
  | zero => exact (Nat.mod_one x).symm
  | succ n ih =>
    have h256 : (2 : Nat) ^ 8 = 256 := rfl
    rw [natToBytes, bytesToNat, ih, BitVec.toNat_ofNat, Nat.mul_succ, Nat.pow_add, Nat.mul_comm (2 ^ (8 * n)), Nat.mod_mul, h256]

theorem signed_eq_toInt {w : Nat} (x : Nat) (hw : 0 < w) : signed w x = (BitVec.ofNat w x).toInt := by
  obtain ⟨v, rfl⟩ := Nat.exists_eq_succ_of_ne_zero hw.ne'
  rw [signed, BitVec.toInt_eq_toNat_cond, BitVec.toNat_ofNat, Nat.succ_sub_one, Nat.pow_succ]
  split_ifs <;> push_cast <;> omega

theorem loadValue_zeroExtended {bs : List Byte} (h : bs.length ≤ 8) : (loadValue bs false).toNat = bytesToNat bs := by
  have hlt : bytesToNat bs < 2 ^ 64 := (bytesToNat_lt bs).trans_le (Nat.pow_le_pow_right (by decide) (by omega))
  exact (BitVec.toNat_ofNat ..).trans (Nat.mod_eq_of_lt hlt)

theorem loadValue_signExtended {bs : List Byte} (hne : bs ≠ []) (h : bs.length ≤ 8) :
    (loadValue bs true).toInt = (BitVec.ofNat (8 * bs.length) (bytesToNat bs)).toInt := by
  have hpos : 0 < 8 * bs.length := by have := List.length_pos_iff.mpr hne; omega
  have hv : loadValue bs true = (BitVec.ofNat (8 * bs.length) (bytesToNat bs)).signExtend 64 :=
    congrArg (BitVec.ofInt 64) (signed_eq_toInt _ hpos)
  rw [hv, BitVec.toInt_signExtend_of_le (by omega)]

/-! ## A token sealed and unsealed (R36, R48, R49) -/

theorem Token.toNat_lt (t : Token) : t.toNat < 2 ^ 128 := by
  obtain ⟨v, l, i, g, p, r⟩ := t
  have := v.isLt; have := l.isLt; have := i.isLt; have := g.isLt; have := p.isLt; have := r.isLt
  simp only [Token.toNat]; omega

theorem Token.ofNat_toNat (t : Token) : Token.ofNat t.toNat = t := by
  obtain ⟨v, l, i, g, p, r⟩ := t
  have := v.isLt; have := l.isLt; have := i.isLt; have := g.isLt; have := p.isLt; have := r.isLt
  simp only [Token.toNat, Token.ofNat, Token.mk.injEq]
  refine ⟨?_, ?_, ?_, ?_, ?_, ?_⟩ <;> apply BitVec.eq_of_toNat_eq <;> rw [BitVec.toNat_ofNat] <;> omega

/-- The three fields of a sealed image (R48). -/
theorem sealToken_fields (key part : Nat) (t : Token) :
    bytesToNat ((sealToken key part t).take 16) = t.toNat ∧
      bytesToNat (((sealToken key part t).drop 16).take 8) = (sealMac key t.toNat part).toNat ∧
      bytesToNat ((sealToken key part t).drop 24) = 0 := by
  have htake : (sealToken key part t).take 16 = natToBytes 16 t.toNat := by
    rw [sealToken, List.append_assoc]; exact List.take_left' (length_natToBytes ..)
  have hdrop : (sealToken key part t).drop 16 = natToBytes 8 (sealMac key t.toNat part).toNat ++ natToBytes 8 0 := by
    rw [sealToken, List.append_assoc]; exact List.drop_left' (length_natToBytes ..)
  have hrest : (sealToken key part t).drop 24 = natToBytes 8 0 :=
    List.drop_left' (by rw [List.length_append, length_natToBytes, length_natToBytes])
  refine ⟨?_, ?_, ?_⟩
  · rw [htake, bytesToNat_natToBytes]; exact Nat.mod_eq_of_lt t.toNat_lt
  · rw [hdrop, List.take_left' (length_natToBytes ..), bytesToNat_natToBytes]
    exact Nat.mod_eq_of_lt (BitVec.isLt _)
  · rw [hrest, bytesToNat_natToBytes]; exact Nat.zero_mod _

/-- A sealed image passes its MAC and its zero field; the partition its token names decides. -/
theorem unsealToken_sealToken (key part : Nat) (t : Token) :
    unsealToken key part (sealToken key part t) = if t.part.toNat = part then t else Token.zero := by
  obtain ⟨himage, hmac, hzero⟩ := sealToken_fields key part t
  simp only [unsealToken, himage, hmac, hzero, Token.ofNat_toNat, ne_eq, not_true, false_or, ite_not]

/-- Settles O36: the timed read over a store, each later read by its destination, and the fields of the sealed image. -/
theorem loadedBytes : Obligations.LoadedBytes := by
  refine ⟨fun c t u a x bs => ?_, fun a n m low sext d k g grp s => ?_,
    fun bs => loadValue_zeroExtended, fun bs => loadValue_signExtended, fun key part t h => ?_, fun key part t h => ?_⟩
  · intro d before after low
    have hafter : after = _ := timedByte_scrStore c t u a x bs
    refine ⟨fun hout => ?_, fun i hi hx => ⟨fun hlow => ?_, fun hhigh => ?_⟩⟩
    · rw [hafter, if_neg (by omega)]
    · rw [hafter, if_pos (show x < a + (64 - a % 64) by omega), show x - a = i by omega]
      exact if_congr (by omega) rfl rfl
    · rw [hafter, if_neg (show ¬ x < a + (64 - a % 64) by omega), show x - a = i by omega]
      exact if_congr (by omega) rfl rfl
  · have hd : BitVec.ofNat 5 d.toNat = d := BitVec.ofNat_toNat ..
    have hk : BitVec.ofNat 4 k.toNat = k := BitVec.ofNat_toNat ..
    refine ⟨makeLate_eq ?_ (Core.ws_late ..), makeLate_eq ?_ rfl, makeLate_eq ?_ rfl, fun offs => makeLate_eq ?_ rfl⟩
    all_goals simp only [State.readLate, State.mod_core, hd, hk]
  · rw [unsealToken_sealToken, if_pos h]
  · rw [unsealToken_sealToken, if_neg h]

end Sys2Proof.Machine
end

section
/-! SUPPORT. Bytes written cell by cell: what a memory, a view of package memory and a cluster's shared memory read as after it
(04 R68, 02 R23, 05 R103). -/

namespace Sys2Proof.Machine

/-! ## Cells written one by one -/

section
variable {σ : Type} {get : σ → Nat → Byte} {put : σ → Host.Cell → σ}

/-- An address that no cell names reads as before. -/
theorem get_foldl_ne (hne : ∀ m c y, y ≠ c.1 → get (put m c) y = get m y) (m : σ) {y : Nat} (cells : List Host.Cell)
    (h : ∀ b, (y, b) ∉ cells) : get (cells.foldl put m) y = get m y := by
  induction cells generalizing m with
  | nil => rfl
  | cons c rest ih =>
    have hc : y ≠ c.1 := fun e => h c.2 (e ▸ List.mem_cons_self)
    rw [List.foldl_cons, ih _ fun b hb => h b (List.mem_cons_of_mem c hb), hne _ _ _ hc]

/-- An address that the cells name with one byte only reads as that byte, where every write keeps the form `ok`. -/
theorem get_foldl_once {ok : σ → Prop} (hne : ∀ m c y, y ≠ c.1 → get (put m c) y = get m y)
    (heq : ∀ m c, ok m → get (put m c) c.1 = c.2) (hok : ∀ m c, ok m → ok (put m c)) {m : σ} (hm : ok m) {y : Nat} {b : Byte}
    (cells : List Host.Cell) (h : (y, b) ∈ cells) (once : ∀ b', (y, b') ∈ cells → b = b') : get (cells.foldl put m) y = b := by
  induction cells generalizing m with
  | nil => exact absurd h List.not_mem_nil
  | cons c rest ih =>
    have hrest : ∀ b', (y, b') ∈ rest → b = b' := fun b' hb => once b' (List.mem_cons_of_mem c hb)
    rw [List.foldl_cons]
    by_cases hin : (y, b) ∈ rest
    · exact ih (hok m c hm) hin hrest
    · have hc : (y, b) = c := (List.mem_cons.mp h).resolve_right hin
      subst hc
      rw [get_foldl_ne hne _ rest fun b' hb => hin (hrest b' hb ▸ hb)]
      exact heq m (y, b) hm

end

theorem memPut_eq_foldl (m : Memory) (cells : List Host.Cell) : memPut m cells = cells.foldl (fun m c => memSet m c.1 c.2) m := by
  induction cells generalizing m with
  | nil => rfl
  | cons c rest ih => exact ih (memSet m c.1 c.2)

theorem memGet_memPut_once {m : Memory} (hm : m.wf = true) {y : Nat} {b : Byte} {cells : List Host.Cell} (h : (y, b) ∈ cells)
    (once : ∀ b', (y, b') ∈ cells → b = b') : memGet (memPut m cells) y = b := by
  rw [memPut_eq_foldl]
  exact get_foldl_once (ok := fun m : Memory => m.wf = true) (fun m c _ => memGet_memSet_ne m c.2)
    (fun _ c => memGet_memSet c.1 c.2) (fun _ c => wf_memSet c.1 c.2) hm cells h once

theorem memGet_memPut_other (m : Memory) {y : Nat} {cells : List Host.Cell} (h : ∀ b, (y, b) ∉ cells) :
    memGet (memPut m cells) y = memGet m y :=
  memGet_memPut_ne m cells fun c hc e => h c.2 (e ▸ hc)

/-- Runs of cells written one after another, those that `p` chooses. -/
theorem foldl_memPut_filter {α : Type} (p : α → Bool) (cells : α → List Host.Cell) (ws : List α) (m : Memory) :
    ws.foldl (fun m w => if p w then memPut m (cells w) else m) m = memPut m ((ws.filter p).flatMap cells) := by
  induction ws generalizing m with
  | nil => rfl
  | cons w ws ih =>
    rw [List.foldl_cons, ih]
    cases hp : p w with
    | false => rw [List.filter_cons_of_neg (by simp [hp])]; rfl
    | true => rw [List.filter_cons_of_pos hp, List.flatMap_cons, memPut_append]; rfl

/-! ## Cells put into a view under their places (R103) -/

/-- A place is put over what stands at its address when that comes before it, or is the same place again. -/
theorem newer_iff {m : SMap Mark} {a : Nat} {k : Mark} :
    newer m a k = true ↔ ∀ x, markOf m a = some x → x.before k = true ∨ (x.stamp = k.stamp ∧ x.seq = k.seq) := by
  unfold newer
  cases markOf m a <;> simp

theorem putMarked_older {v : Memory × SMap Mark} {c : Nat × Byte × Mark} (h : ¬ newer v.2 c.1 c.2.2 = true) : putMarked v c = v :=
  if_neg h

theorem memGet_putMarkeds_once {v : Memory × SMap Mark} (hv : v.1.wf = true) {z : Nat × Byte × Mark}
    (cells : List (Nat × Byte × Mark)) (hz : z ∈ cells) (once : ∀ c, c ∈ cells → c.1 = z.1 → c = z)
    (hn : newer v.2 z.1 z.2.2 = true) : memGet (cells.foldl putMarked v).1 z.1 = z.2.1 := by
  induction cells generalizing v with
  | nil => exact absurd hz List.not_mem_nil
  | cons c rest ih =>
    have hrest : ∀ d, d ∈ rest → d.1 = z.1 → d = z := fun d hd => once d (List.mem_cons_of_mem c hd)
    rw [List.foldl_cons]
    by_cases hc : c.1 = z.1
    · obtain rfl := once c List.mem_cons_self hc
      by_cases hin : c ∈ rest
      · refine ih (wf_putMarked _ hv) hin hrest ?_
        rw [putMarked_newer hn]; exact newer_mapSet_same ..
      · rw [memGet_putMarkeds_ne _ rest fun d hd e => hin (hrest d hd e ▸ hd), putMarked_newer hn]
        exact memGet_memSet _ _ hv
    · refine ih (wf_putMarked _ hv) ((List.mem_cons.mp hz).resolve_left fun e => hc (e ▸ rfl)) hrest ?_
      rw [newer_putMarked_ne _ _ _ (Ne.symm hc)]; exact hn

/-- A byte where a later store stands keeps it. -/
theorem memGet_putMarkeds_older {v : Memory × SMap Mark} {y : Nat} (cells : List (Nat × Byte × Mark))
    (h : ∀ c, c ∈ cells → c.1 = y → ¬ newer v.2 y c.2.2 = true) : memGet (cells.foldl putMarked v).1 y = memGet v.1 y := by
  induction cells generalizing v with
  | nil => rfl
  | cons c rest ih =>
    have hrest : ∀ d, d ∈ rest → d.1 = y → ¬ newer v.2 y d.2.2 = true := fun d hd => h d (List.mem_cons_of_mem c hd)
    rw [List.foldl_cons]
    by_cases hc : c.1 = y
    · rw [putMarked_older (by rw [hc]; exact h c List.mem_cons_self hc)]
      exact ih hrest
    · rw [ih fun d hd e => by rw [newer_putMarked_ne _ _ _ (Ne.symm hc)]; exact hrest d hd e, memGet_putMarked_ne _ _ (Ne.symm hc)]

/-! ## A cluster's shared memory (R23) -/

/-- One byte through the CSM window, at the bank of the core that holds it. -/
def csmPutOne (cluster now : Nat) (s : State) (c : Host.Cell) : State :=
  (s.ensureCore (csmCore cluster c.1)).modAt (csmCore cluster c.1) fun k =>
    (k.scrPut [(csmAddr c.1, c.2)]).takeWrite now (csmAddr c.1) 1 false

theorem csmPut_eq_foldl (s : State) (cluster : Nat) (cells : List Host.Cell) :
    s.csmPut cluster cells = cells.foldl (csmPutOne cluster s.now) s := rfl

/-- Each byte of a cluster's shared memory has a core and an address of its own. -/
theorem csmAddr_ne {cluster x y : Nat} (hc : csmCore cluster x = csmCore cluster y) (h : x ≠ y) : csmAddr x ≠ csmAddr y := by
  unfold csmCore at hc
  unfold csmAddr
  omega

theorem ensureCore_cores (s : State) (n : Nat) :
    (s.ensureCore n).cores = s.cores ++ if (s.coreAt n).isSome then [] else [Core.initial n] := by
  unfold State.ensureCore
  split
  · next h => rw [h]; exact (List.append_nil _).symm
  · next h => rw [h]; rfl

theorem coreAt_ensureCore (s : State) (n m : Nat) :
    (s.ensureCore n).coreAt m = if m = n then some ((s.coreAt n).getD (Core.initial n)) else s.coreAt m := by
  have hfind : (s.ensureCore n).coreAt m =
      (s.coreAt m).or ((if (s.coreAt n).isSome then [] else [Core.initial n]).find? fun c => c.phys = m) := by
    rw [State.coreAt, ensureCore_cores, List.find?_append]; rfl
  rw [hfind]
  have hinit : (Core.initial n).phys = n := rfl
  by_cases hm : m = n
  · subst hm
    cases s.coreAt m <;> simp [hinit]
  · rw [if_neg hm]
    cases s.coreAt n <;> simp [hinit, Ne.symm hm]

/-- A core that is not on yet reads as zeros, on or not. -/
theorem csmByte_eq (s : State) (cluster x : Nat) :
    s.csmByte cluster x = memGet ((s.coreAt (csmCore cluster x)).getD (Core.initial (csmCore cluster x))).scr (csmAddr x) := by
  unfold State.csmByte
  cases s.coreAt (csmCore cluster x) <;> rfl

theorem coreAt_csmPutOne (cluster now : Nat) (s : State) (c : Host.Cell) (m : Nat) :
    (csmPutOne cluster now s c).coreAt m =
      if m = csmCore cluster c.1 then
        some ((((s.coreAt m).getD (Core.initial m)).scrPut [(csmAddr c.1, c.2)]).takeWrite now (csmAddr c.1) 1 false)
      else s.coreAt m := by
  rw [csmPutOne, coreAt_modAt _ (by exact fun _ h => h)]
  by_cases hm : m = csmCore cluster c.1
  · rw [if_pos hm, if_pos hm, coreAt_ensureCore, if_pos rfl, hm]; rfl
  · rw [if_neg hm, if_neg hm, coreAt_ensureCore, if_neg hm]

theorem csmByte_csmPutOne_ne (cluster now : Nat) (s : State) (c : Host.Cell) {y : Nat} (h : y ≠ c.1) :
    (csmPutOne cluster now s c).csmByte cluster y = s.csmByte cluster y := by
  rw [csmByte_eq, csmByte_eq, coreAt_csmPutOne]
  split_ifs with hc
  · exact memGet_memSet_ne _ _ (csmAddr_ne hc h)
  · rfl

/-- Every scratchpad that is on has the canonical form. -/
def ScratchOk (s : State) : Prop := ∀ q, q ∈ s.cores → q.scr.wf = true

theorem ScratchOk.coreAt {s : State} (h : ScratchOk s) (n : Nat) : ((s.coreAt n).getD (Core.initial n)).scr.wf = true := by
  cases hn : s.coreAt n with
  | none => exact wf_nil
  | some c => exact h c (List.mem_of_find?_eq_some hn)

theorem csmByte_csmPutOne {cluster now : Nat} {s : State} (c : Host.Cell) (h : ScratchOk s) :
    (csmPutOne cluster now s c).csmByte cluster c.1 = c.2 := by
  rw [csmByte_eq, coreAt_csmPutOne, if_pos rfl]
  exact memGet_memSet _ _ (h.coreAt _)

theorem scratchOk_csmPutOne {cluster now : Nat} {s : State} (c : Host.Cell) (h : ScratchOk s) :
    ScratchOk (csmPutOne cluster now s c) := by
  have hensure : ScratchOk (s.ensureCore (csmCore cluster c.1)) := fun q hq => by
    rw [ensureCore_cores, List.mem_append] at hq
    refine hq.elim (h q) fun hq => ?_
    split_ifs at hq
    · exact absurd hq List.not_mem_nil
    · rw [List.mem_singleton.mp hq]; exact wf_nil
  intro q hq
  rw [csmPutOne, cores_modAt] at hq
  obtain ⟨k, hk, rfl⟩ := List.mem_map.mp hq
  split_ifs
  · exact wf_memSet _ _ (hensure k hk)
  · exact hensure k hk

/-! ## A write to a space other than main memory -/

/-- What orders the strand's accesses: the cycle, those outstanding, and what the strand has stored and seen (R93). -/
def State.order (s : State) : Nat × List Access × List Nat × Engine := (s.now, s.core.acc, s.core.dep, s.core.copy)

theorem order_csmPutOne (cluster now : Nat) (s : State) (c : Host.Cell) : (csmPutOne cluster now s c).order = s.order := by
  have hensure : (s.ensureCore (csmCore cluster c.1)).order = s.order := by
    unfold State.ensureCore; split <;> rfl
  rw [← hensure]
  unfold csmPutOne State.modAt State.order
  dsimp only
  split_ifs <;> rfl

theorem order_putSpace (s : State) (sp : Space) (cells : List Host.Cell) : (s.putSpace sp cells).order = s.order := by
  cases sp with
  | csm k =>
    show (s.csmPut k cells).order = s.order
    rw [csmPut_eq_foldl]
    exact List.foldlRecOn (motive := fun u : State => u.order = s.order) cells _ rfl fun u hu c _ => (order_csmPutOne ..).trans hu
  | pool d => show (s.modDie d _).order = _; unfold State.modDie; split <;> rfl
  | main | lent | wb | own => rfl

theorem putSpace_now (s : State) (sp : Space) (cells : List Host.Cell) : (s.putSpace sp cells).now = s.now :=
  congrArg (·.1) (order_putSpace s sp cells)

theorem putSpace_acc (s : State) (sp : Space) (cells : List Host.Cell) : (s.putSpace sp cells).core.acc = s.core.acc :=
  congrArg (·.2.1) (order_putSpace s sp cells)

theorem putSpace_dep (s : State) (sp : Space) (cells : List Host.Cell) : (s.putSpace sp cells).core.dep = s.core.dep :=
  congrArg (·.2.2.1) (order_putSpace s sp cells)

theorem putSpace_copy (s : State) (sp : Space) (cells : List Host.Cell) : (s.putSpace sp cells).core.copy = s.core.copy :=
  congrArg (·.2.2.2) (order_putSpace s sp cells)

theorem spaceByte_putSpace_ne (s : State) (sp : Space) {cells : List Host.Cell} {y : Nat} (h : ∀ b, (y, b) ∉ cells) :
    (s.putSpace sp cells).spaceByte sp y = s.spaceByte sp y := by
  cases sp with
  | main => rfl
  | lent p => exact memGet_memPut_other _ fun b hb => h b (List.mem_of_mem_filter hb)
  | csm k => exact get_foldl_ne (get := fun u : State => u.csmByte k) (fun m c y => csmByte_csmPutOne_ne k s.now m c) s cells h
  | pool d =>
    show memGet ((s.modDie d _).die d).pool y = _
    rw [die_modDie]
    exact memGet_memPut_other _ h
  | wb | own => exact memGet_memPut_other _ h

/-- A local space reads as what is written to it (R23, R29). -/
theorem spaceByte_putSpace_once {s : State} {sp : Space} (hsp : sp = .own ∨ sp = .wb ∨ (∃ k, sp = .csm k) ∨ ∃ k, sp = .pool k)
    (hcores : ∀ q, q ∈ s.cores → q.scr.wf = true ∧ q.wb.wf = true) (hpool : ∀ k, (s.die k).pool.wf = true)
    {cells : List Host.Cell} {y : Nat} {b : Byte} (h : (y, b) ∈ cells) (once : ∀ b', (y, b') ∈ cells → b = b') :
    (s.putSpace sp cells).spaceByte sp y = b := by
  obtain ⟨hscr, hwb⟩ := hcores s.core List.mem_cons_self
  rcases hsp with rfl | rfl | ⟨k, rfl⟩ | ⟨k, rfl⟩
  · exact memGet_memPut_once hscr h once
  · exact memGet_memPut_once hwb h once
  · exact get_foldl_once (get := fun u : State => u.csmByte k) (ok := ScratchOk) (fun m c y => csmByte_csmPutOne_ne k s.now m c)
      (fun _ c => csmByte_csmPutOne c) (fun _ c => scratchOk_csmPutOne c) (fun q hq => (hcores q hq).1) cells h once
  · show memGet ((s.modDie k _).die k).pool y = _
    rw [die_modDie]
    exact memGet_memPut_once (hpool k) h once

theorem lentMem_putSpace_once {s : State} (p : Nat) (hm : s.lentMem.wf = true) {cells : List Host.Cell} {y : Nat} {b : Byte}
    (h : (y, b) ∈ cells) (once : ∀ b', (y, b') ∈ cells → b = b') (hopen : s.lentClosed y = false) :
    memGet (s.putSpace (.lent p) cells).lentMem y = b :=
  memGet_memPut_once hm (List.mem_filter.mpr ⟨h, by simp [hopen]⟩) fun b' hb => once b' (List.mem_of_mem_filter hb)

end Sys2Proof.Machine
end

section
/-! SUPPORT. Stores brought to an end: exposures, the parts of a store, a store to main memory and its way to the other dies (04 R68, 05 R101-R103,
11 R241, R246). -/

namespace Sys2Proof.Machine

/-! ## Exposure (R68) -/

theorem expose_scr (c : Core) (now : Nat) : (c.expose now).scr =
    memPut c.scr (((c.timed.filter fun w => w.due now).filter fun w => !w.lane).flatMap fun w => w.cells) := by
  rw [← foldl_memPut_filter]
  refine congrArg (fun f => List.foldl f c.scr _) (funext₂ fun m w => ?_)
  cases w.lane <;> rfl

theorem expose_lanes (c : Core) (now : Nat) : (c.expose now).lanes =
    memPut c.lanes (((c.timed.filter fun w => w.due now).filter fun w => w.lane).flatMap fun w => w.cells) :=
  foldl_memPut_filter ..

/-! ## A part of a store is done (R241, R246) -/

/-- Part `i` of the access is done: it leaves its queue with the last, else it goes on, on this cycle at the earliest; beside that
the state is `u`, which stands for what the part writes. -/
def PartDone (s : State) (a : Access) (i : Nat) (u t : State) : Prop :=
  (a.parts.eraseIdx i = [] → t.core.acc = s.core.acc.filter fun y => y.id ≠ a.id) ∧
  (a.parts.eraseIdx i ≠ [] → ∃ due, s.now ≤ due ∧ t.core.acc = s.core.acc.map fun y =>
    if y.id = a.id then { a with parts := a.parts.eraseIdx i, due := due, arrived := none } else y) ∧
  { t.core with acc := u.core.acc, dep := u.core.dep, copy := u.core.copy } = u.core ∧ { t with core := u.core, fv := u.fv } = u

theorem partDone_core (s : State) (a : Access) (i : Nat) :
    (s.partDone a i).core = { s.core with acc := (s.partDone a i).core.acc } := by
  unfold State.partDone; dsimp only; split_ifs <;> rfl

theorem partDone_acc_last {s : State} {a : Access} {i : Nat} (h : a.parts.eraseIdx i = []) :
    (s.partDone a i).core.acc = s.core.acc.filter fun y => y.id ≠ a.id := by
  unfold State.partDone; rw [h]; rfl

theorem partDone_acc_more {s : State} {a : Access} {i : Nat} (h : a.parts.eraseIdx i ≠ []) :
    (s.partDone a i).core.acc = s.core.acc.map fun y =>
      if y.id = a.id then { a with parts := a.parts.eraseIdx i, due := s.again, arrived := none } else y := by
  unfold State.partDone
  dsimp only
  rw [if_neg (by simpa using h)]; rfl

/-- A part is done whose bytes `u` has and after which `f` changes no more than the strand's memory of what it has stored. -/
theorem partDone_done {s u : State} {f : Core → Core} (a : Access) (i : Nat) (hacc : u.core.acc = s.core.acc) (hnow : u.now = s.now)
    (hf : f u.core = { u.core with dep := (f u.core).dep, copy := (f u.core).copy }) :
    PartDone s a i u ((u.mod f).partDone a i) := by
  have hmod : (u.mod f).core.acc = s.core.acc := by rw [State.mod_core, hf]; exact hacc
  refine ⟨fun h => ?_, fun h => ⟨(u.mod f).again, ?_, ?_⟩, ?_, rfl⟩
  · rw [partDone_acc_last h, hmod]
  · have hlater : u.now ≤ (u.mod f).again := Nat.le_add_right ..
    exact hnow ▸ hlater
  · rw [partDone_acc_more h, hmod]
  · rw [partDone_core, State.mod_core, hf]

theorem partDone_putSpace (s : State) (a : Access) (i : Nat) (sp : Space) (cells : List Host.Cell) :
    PartDone s a i (s.putSpace sp cells) ((s.putSpace sp cells).partDone a i) :=
  partDone_done (f := fun c => c) a i (putSpace_acc ..) (putSpace_now ..) rfl

theorem Core.depend_precedes_eq (c : Core) (d num id : Nat) : (c.depend d num).precedes id =
    { c with dep := (c.depend d num).dep, copy := ((c.depend d num).precedes id).copy } := rfl

/-- After it the strand depends on the store (R93). -/
theorem partDone_done_depend {s u : State} (a : Access) (i d num n : Nat) (hacc : u.core.acc = s.core.acc) (hnow : u.now = s.now) :
    PartDone s a i u ((u.mod fun c => (c.depend d num).precedes n).partDone a i) :=
  partDone_done a i hacc hnow (Core.depend_precedes_eq u.core d num n)

theorem partDone_dep (s : State) (a : Access) (i : Nat) : (s.partDone a i).core.dep = s.core.dep := by
  rw [partDone_core]

theorem partDone_copy (s : State) (a : Access) (i : Nat) : (s.partDone a i).core.copy = s.core.copy := by
  rw [partDone_core]

theorem die_partDone (s : State) (f : Core → Core) (a : Access) (i e : Nat) : ((s.mod f).partDone a i).die e = s.die e := rfl

theorem mem_partDone (s : State) (f : Core → Core) (a : Access) (i : Nat) : ((s.mod f).partDone a i).mem = s.mem := rfl

/-- A queue that moves on changes no byte. -/
theorem spaceByte_partDone (s : State) (a : Access) (i : Nat) (sp : Space) (y : Nat) :
    (s.partDone a i).spaceByte sp y = s.spaceByte sp y := by
  have hphys : (s.partDone a i).core.phys = s.core.phys := by rw [partDone_core]
  have hscr : (s.partDone a i).core.scr = s.core.scr := by rw [partDone_core]
  have hwb : (s.partDone a i).core.wb = s.core.wb := by rw [partDone_core]
  have hlanes : (s.partDone a i).core.lanes = s.core.lanes := by rw [partDone_core]
  exact (bytesKept_mod s (fun _ => (s.partDone a i).core) hphys hscr hwb hlanes).1 sp y

/-! ## Stores that are ready (R241, R246) -/

theorem isStore_of_kind {a : Access} (h : a.kind = .store) : a.isStore = true := by rw [Access.isStore, h]

theorem exec_localStorePerformed_ready {s : State} {id : Nat} {a : Access} (ha : s.core.access? id = some a) (hk : a.kind = .store)
    (ht : a.isToken = false) (hr : s.ready a = true) (hf : s.partFree a (a.parts.getD (s.nextPart a) []) = true) :
    exec (.localStorePerformed id) s =
      .next ((s.putSpace a.space (a.parts.getD (s.nextPart a) [])).partDone a (s.nextPart a)) := by
  rw [exec_localStorePerformed, execLocalStorePerformed, ha]
  simp only [isStore_of_kind hk, ht, hr, hf, Bool.false_eq_true, not_false_eq_true, and_self, not_true_eq_false, if_false, if_true]

theorem exec_tokenStorePerformed_lent {s : State} {id p : Nat} {a : Access} (ha : s.core.access? id = some a) (hk : a.kind = .store)
    (hsp : a.space = .lent p) (hb : s.bind a = none) (hr : s.ready a = true) :
    exec (.tokenStorePerformed id) s =
      .next ((s.putSpace (.lent p) (a.parts.getD (s.nextPart a) [])).partDone a (s.nextPart a)) := by
  have ht : a.isToken = true := by rw [Access.isToken, hsp]
  rw [exec_tokenStorePerformed, execTokenStorePerformed, ha]
  simp only [isStore_of_kind hk, ht, and_self, not_true_eq_false, if_false, hsp, hb, hr, if_true]

theorem undecoded_none {cells : List Host.Cell} (h : ∀ y, y ∈ cells → y.1 < Config.mainMemoryEnd) :
    undecoded .main (cells.map fun c => (c.1, 1)) = none := by
  have hfind : ((cells.map fun c => (c.1, 1)).find? fun r => decide (Config.mainMemoryEnd < r.1 + r.2)) = none := by
    refine List.find?_eq_none.mpr fun r hr => ?_
    obtain ⟨c, hc, rfl⟩ := List.mem_map.mp hr
    have := h c hc
    simp only [decide_eq_true_eq]; omega
  rw [undecoded, hfind]; rfl

theorem exec_tokenStorePerformed_main {s : State} {id : Nat} {a : Access} (ha : s.core.access? id = some a) (hk : a.kind = .store)
    (hsp : a.space = .main) (hr : s.ready a = true) (hin : ∀ y, y ∈ a.parts.getD (s.nextPart a) [] → y.1 < Config.mainMemoryEnd) :
    let u := s.storeMain (dieOf s.core.phys) (a.parts.getD (s.nextPart a) [])
    exec (.tokenStorePerformed id) s =
      .next ((u.mod fun c => (c.depend (dieOf s.core.phys) (u.lastNum (dieOf s.core.phys))).precedes a.id).partDone a (s.nextPart a)) := by
  have ht : a.isToken = true := by rw [Access.isToken, hsp]
  have hb : s.bind a = none := by rw [State.bind, hsp]
  rw [exec_tokenStorePerformed, execTokenStorePerformed, ha]
  simp only [isStore_of_kind hk, ht, and_self, not_true_eq_false, if_false, hsp, hb, hr, undecoded_none hin]

/-! ## One die of four -/

theorem die_modDie_ne (s : State) {d e : Nat} (f : Die → Die) (hd : d < 4) (he : e < 4) (h : e ≠ d) :
    (s.modDie d f).die e = s.die e := by
  match d, e with
  | 0, 1 | 0, 2 | 0, 3 | 1, 0 | 1, 2 | 1, 3 | 2, 0 | 2, 1 | 2, 3 | 3, 0 | 3, 1 | 3, 2 => simp [State.modDie, State.die]
  | 0, 0 | 1, 1 | 2, 2 | 3, 3 => exact absurd rfl h
  | _ + 4, _ => omega
  | _, _ + 4 => omega

/-- Between two states only dies may differ. -/
def OnlyDies (s u : State) : Prop := { u with dies := s.dies } = s

theorem OnlyDies.trans {s t u : State} (h : OnlyDies s t) (k : OnlyDies t u) : OnlyDies s u := by
  have := congrArg (fun v : State => { v with dies := s.dies }) k
  exact this.trans h

theorem OnlyDies.core {s u : State} (h : OnlyDies s u) : u.core = s.core := by
  have := congrArg State.core h; exact this

theorem OnlyDies.now {s u : State} (h : OnlyDies s u) : u.now = s.now := by
  have := congrArg State.now h; exact this

theorem modDie_onlyDies (s : State) (d : Nat) (f : Die → Die) : OnlyDies s (s.modDie d f) := by
  unfold State.modDie; split <;> rfl

/-! ## A store goes out to the other dies (R101) -/

/-- A store of die `d` on its way to die `f`. -/
def exportTo (d num : Nat) (clock : List Nat) (cells : List (Nat × Byte × Mark)) (s : State) (f : Nat) : State :=
  if f = d then s
  else s.modDie f fun x => { x with inbox := x.inbox ++ [⟨d, num, clock, cells, s.now + 1 + Config.untimedDelay (s.fv + f)⟩] }

section
variable {d num : Nat} {clock : List Nat} {cells : List (Nat × Byte × Mark)}

theorem exportTo_onlyDies (s : State) (f : Nat) : OnlyDies s (exportTo d num clock cells s f) := by
  unfold exportTo
  split_ifs
  · rfl
  · exact modDie_onlyDies ..

theorem exports_onlyDies (s : State) (fs : List Nat) : OnlyDies s (fs.foldl (exportTo d num clock cells) s) :=
  List.foldlRecOn (motive := OnlyDies s) fs _ rfl fun _ h f _ => h.trans (exportTo_onlyDies _ f)

theorem die_exportTo_ne (s : State) {e f : Nat} (he : e < 4) (hf : f < 4) (h : e = d ∨ e ≠ f) :
    (exportTo d num clock cells s f).die e = s.die e := by
  unfold exportTo
  split_ifs with hfd
  · rfl
  · exact die_modDie_ne s _ hf he (by omega)

theorem die_exports_ne (s : State) {e : Nat} (he : e < 4) (fs : List Nat) (hfs : ∀ f, f ∈ fs → f < 4) (h : e = d ∨ e ∉ fs) :
    (fs.foldl (exportTo d num clock cells) s).die e = s.die e :=
  List.foldlRecOn (motive := fun u : State => u.die e = s.die e) fs _ rfl fun _ hu f hf =>
    (die_exportTo_ne _ he (hfs f hf) (h.imp_right fun hn heq => hn (heq ▸ hf))).trans hu

/-- Each other die has the store at the end of what is on its way to it, due on a later cycle. -/
theorem die_exports (s : State) {e : Nat} (he : e < 4) (hd : e ≠ d) (fs : List Nat) (hfs : ∀ f, f ∈ fs → f < 4) (hnodup : fs.Nodup)
    (hin : e ∈ fs) : ∃ due, s.now < due ∧
      (fs.foldl (exportTo d num clock cells) s).die e = { s.die e with inbox := (s.die e).inbox ++ [⟨d, num, clock, cells, due⟩] } := by
  induction fs generalizing s with
  | nil => exact absurd hin List.not_mem_nil
  | cons f fs ih =>
    obtain ⟨hf, hnodup⟩ := List.nodup_cons.mp hnodup
    have hfs' : ∀ g, g ∈ fs → g < 4 := fun g hg => hfs g (List.mem_cons_of_mem f hg)
    rw [List.foldl_cons]
    by_cases hef : e = f
    · subst hef
      refine ⟨s.now + 1 + Config.untimedDelay (s.fv + e), by omega, ?_⟩
      rw [die_exports_ne _ he fs hfs' (.inr hf), exportTo, if_neg hd, die_modDie]
    · have hnow : (exportTo d num clock cells s f).now = s.now := (exportTo_onlyDies s f).now
      have := ih (exportTo d num clock cells s f) hfs' hnodup ((List.mem_cons.mp hin).resolve_left hef)
      rwa [hnow, die_exportTo_ne s he (hfs f List.mem_cons_self) (.inr hef)] at this

end

/-! ## A store performed at its home slice (R101) -/

/-- The cells of the next store of a die, with its number there. -/
def State.numbered (s : State) (d : Nat) (cells : List (Nat × Byte × Mark)) : List (Nat × Byte × Mark) :=
  cells.map fun c => (c.1, c.2.1, { c.2.2 with die := d, num := (s.die d).exported + 1 })

/-- The store in the view of its own die. -/
def State.performedHere (s : State) (d : Nat) (cells : List (Nat × Byte × Mark)) : State :=
  s.modDie d fun x => { x.put (s.numbered d cells) with exported := (s.die d).exported + 1 }

/-- The store's clock (R101). -/
def State.exportClock (s : State) (d : Nat) : List Nat :=
  (List.range 4).map fun e => if e = d then (s.die d).exported + 1 else s.countIn d e

/-- The store in its own die and on its way to the other three. -/
def State.performedDies (s : State) (d : Nat) (cells : List (Nat × Byte × Mark)) : State :=
  (List.range 4).foldl (exportTo d ((s.die d).exported + 1) (s.exportClock d) (s.numbered d cells)) (s.performedHere d cells)

section
variable (s : State) (d : Nat) (cells : List (Nat × Byte × Mark))

theorem performMarked_eq : s.performMarked d cells = { s.performedDies d cells with
    mem := ((s.numbered d cells).foldl putMarked ((s.performedHere d cells).mem, (s.performedHere d cells).marks)).1
    marks := ((s.numbered d cells).foldl putMarked ((s.performedHere d cells).mem, (s.performedHere d cells).marks)).2
    fv := (s.performedDies d cells).fv + 4 } := rfl

theorem performedHere_onlyDies : OnlyDies s (s.performedHere d cells) := modDie_onlyDies ..

theorem performedDies_onlyDies : OnlyDies s (s.performedDies d cells) :=
  (performedHere_onlyDies s d cells).trans (exports_onlyDies _ _)

theorem performMarked_core : (s.performMarked d cells).core = s.core := (performedDies_onlyDies s d cells).core

theorem performMarked_now : (s.performMarked d cells).now = s.now := (performedDies_onlyDies s d cells).now

theorem performMarked_mem : (s.performMarked d cells).mem = ((s.numbered d cells).foldl putMarked (s.mem, s.marks)).1 := by
  rw [performMarked_eq, State.performedHere, modDie_mem, modDie_marks]

/-- The die that performs the store has it in its view. -/
theorem die_performMarked (hd : d < 4) : (s.performMarked d cells).die d =
    { (s.die d).put (s.numbered d cells) with exported := (s.die d).exported + 1 } :=
  (die_exports_ne (s.performedHere d cells) hd (List.range 4) (fun _ => List.mem_range.mp) (.inl rfl)).trans (die_modDie ..)

/-- Every other die has it on its way. -/
theorem die_performMarked_ne (hd : d < 4) {f : Nat} (hf : f < 4) (h : f ≠ d) : ∃ due, s.now < due ∧
    (s.performMarked d cells).die f = { s.die f with
      inbox := (s.die f).inbox ++ [⟨d, (s.die d).exported + 1, s.exportClock d, s.numbered d cells, due⟩] } := by
  have hhere : (s.performedHere d cells).die f = s.die f := die_modDie_ne s _ hd hf h
  obtain ⟨due, hdue, hdie⟩ := die_exports (d := d) (num := (s.die d).exported + 1) (clock := s.exportClock d)
    (cells := s.numbered d cells) (s.performedHere d cells) hf h (List.range 4) (fun _ => List.mem_range.mp) List.nodup_range
    (List.mem_range.mpr hf)
  rw [(performedHere_onlyDies s d cells).now] at hdue
  rw [hhere] at hdie
  exact ⟨due, hdue, hdie⟩

end

/-! ## A store to main memory (R101, R103, R241) -/

/-- The cells of a store to main memory with the places they take. -/
def State.storeCells (s : State) (d : Nat) (cells : List Host.Cell) : List (Nat × Byte × Mark) :=
  cells.map fun c => (c.1, c.2, ⟨s.stampFor d c.1, s.seq, d, (s.die d).exported + 1⟩)

/-- The same cells before the store has its number. -/
def State.placed (s : State) (d : Nat) (cells : List Host.Cell) : List (Nat × Byte × Mark) :=
  cells.map fun c => (c.1, c.2, ⟨s.stampFor d c.1, s.seq, d, 0⟩)

/-- The state once a store has drawn its stamp and its place in the sequence. -/
def State.drawn (s : State) : State := { s with fv := s.fv + 1, seq := s.seq + 1 }

theorem storeMain_eq (s : State) (d : Nat) (cells : List Host.Cell) :
    s.storeMain d cells = (s.drawn.performMarked d (s.placed d cells)).countLines (cells.map (·.1)) := rfl

theorem numbered_placed (s : State) (d : Nat) (cells : List Host.Cell) :
    s.drawn.numbered d (s.placed d cells) = s.storeCells d cells := by
  rw [State.numbered, State.placed, List.map_map]; rfl

theorem OnlyTree.core {s u : State} (h : OnlyTree s u) : u.core = s.core := by
  have := congrArg State.core h; exact this

theorem OnlyTree.now {s u : State} (h : OnlyTree s u) : u.now = s.now := by
  have := congrArg State.now h; exact this

theorem OnlyTree.die {s u : State} (h : OnlyTree s u) (e : Nat) : u.die e = s.die e := by
  have := congrArg (State.die · e) h; exact this

section
variable {s : State} {d : Nat} {cells : List Host.Cell}

theorem storeMain_onlyTree : OnlyTree (s.drawn.performMarked d (s.placed d cells)) (s.storeMain d cells) := countLines_onlyTree ..

theorem storeMain_core : (s.storeMain d cells).core = s.core := storeMain_onlyTree.core.trans (performMarked_core ..)

theorem storeMain_now : (s.storeMain d cells).now = s.now := storeMain_onlyTree.now.trans (performMarked_now ..)

theorem die_storeMain (hd : d < 4) : (s.storeMain d cells).die d =
    { (s.die d).put (s.storeCells d cells) with exported := (s.die d).exported + 1 } := by
  rw [storeMain_onlyTree.die, die_performMarked _ _ _ hd, numbered_placed]; rfl

theorem die_storeMain_ne (hd : d < 4) {f : Nat} (hf : f < 4) (h : f ≠ d) : ∃ clock due, s.now < due ∧
    (s.storeMain d cells).die f = { s.die f with
      inbox := (s.die f).inbox ++ [⟨d, (s.die d).exported + 1, clock, s.storeCells d cells, due⟩] } := by
  obtain ⟨due, hdue, hdie⟩ := die_performMarked_ne s.drawn d (s.placed d cells) hd hf h
  rw [numbered_placed] at hdie
  exact ⟨_, due, hdue, (storeMain_onlyTree.die f).trans hdie⟩

theorem storeMain_mem : (s.storeMain d cells).mem = ((s.storeCells d cells).foldl putMarked (s.mem, s.marks)).1 := by
  rw [storeMain_eq, countLines_mem, performMarked_mem, numbered_placed]; rfl

theorem storeCells_ne {y : Nat} (h : ∀ b, (y, b) ∉ cells) : ∀ z, z ∈ s.storeCells d cells → z.1 ≠ y := by
  intro z hz
  obtain ⟨c, hc, rfl⟩ := List.mem_map.mp hz
  exact fun e => h c.2 (e ▸ hc)

/-- The place of a new store in its die's view comes after what stands there (R103). -/
theorem newer_stampFor (s : State) (d a num : Nat) : newer (s.die d).marks a ⟨s.stampFor d a, s.seq, d, num⟩ = true := by
  refine newer_iff.mpr fun k hk => .inl ?_
  have hlt : k.stamp < s.stampFor d a := by simp only [State.stampFor, hk]; omega
  simp [Mark.before, hlt]

theorem view_storeMain_once (hd : d < 4) (hwf : (s.die d).view.wf = true) {y : Nat} {b : Byte} (h : (y, b) ∈ cells)
    (once : ∀ b', (y, b') ∈ cells → b = b') : memGet ((s.storeMain d cells).die d).view y = b := by
  rw [die_storeMain hd]
  refine memGet_putMarkeds_once (v := ((s.die d).view, (s.die d).marks)) hwf
    (z := (y, b, ⟨s.stampFor d y, s.seq, d, (s.die d).exported + 1⟩)) (s.storeCells d cells)
    (List.mem_map.mpr ⟨(y, b), h, rfl⟩) (fun z hz hzy => ?_) (newer_stampFor ..)
  obtain ⟨⟨x, b'⟩, hc, rfl⟩ := List.mem_map.mp hz
  obtain rfl : x = y := hzy
  rw [once b' hc]

theorem view_storeMain_ne (hd : d < 4) {y : Nat} (h : ∀ b, (y, b) ∉ cells) :
    memGet ((s.storeMain d cells).die d).view y = memGet (s.die d).view y := by
  rw [die_storeMain hd]
  exact memGet_putMarkeds_ne _ _ (storeCells_ne h)

end

/-! ## An exported store applied (R102, R103) -/

theorem exec_exportedStoreApply_found {s : State} {src dst : Nat} {x : Export}
    (h : ((s.die dst).inbox.find? fun e => e.src == src && s.canApply dst e) = some x) :
    exec (.exportedStoreApply src dst) s = .next (s.modDie dst fun y => y.apply x) := by
  rw [exec_exportedStoreApply, execExportedStoreApply, h]

theorem src_of_found {s : State} {src dst : Nat} {x : Export}
    (h : ((s.die dst).inbox.find? fun e => e.src == src && s.canApply dst e) = some x) : x.src = src := by
  have := List.find?_some h
  simp only [Bool.and_eq_true, beq_iff_eq] at this
  exact this.1

end Sys2Proof.Machine
end

section
/-! PROOF. The stores of O49: exposure, a part performed where it stands, a token store at its home slice or its lender, an exported
store applied. -/

namespace Sys2Proof.Machine

/-- Settles O49: each event by what it writes, and by what its part of the queue leaves. -/
theorem storesPerformed : Obligations.StoresPerformed := by
  intro id src dst a x s c d cells rest once part later
  refine ⟨⟨_, rfl, expose_scr .., expose_lanes .., rfl, rfl, rfl⟩, fun ha hk hsp hr hf => ?_, fun ha hk hsp hr hd hin => ?_,
    fun p ha hk hsp hb hr => ?_, fun hdst hx => ?_⟩
  case refine_1 =>
    have ht : a.isToken = false := by
      rcases hsp with h | h | ⟨k, h⟩ | ⟨k, h⟩ <;> rw [Access.isToken, h]
    refine ⟨_, exec_localStorePerformed_ready ha hk ht hr hf, partDone_putSpace ..,
      (partDone_dep ..).trans (putSpace_dep ..), (partDone_copy ..).trans (putSpace_copy ..), fun y hy => ?_, fun hcores hpool honce y b hb => ?_⟩
    · rw [spaceByte_partDone, spaceByte_putSpace_ne s a.space hy]
    · rw [spaceByte_partDone, spaceByte_putSpace_once hsp hcores hpool hb fun b' => honce y b b' hb]
  case refine_2 =>
    have hnum : (s.storeMain d cells).lastNum d = (s.die d).exported + 1 := by rw [State.lastNum, die_storeMain hd]
    have hcore : (s.storeMain d cells).core = c := storeMain_core
    refine ⟨_, exec_tokenStorePerformed_main ha hk hsp hr hin,
      partDone_done_depend a _ _ _ _ (congrArg Core.acc hcore) storeMain_now, ?_, ?_, ?_, ?_, fun hwf honce y b hb => ?_,
      fun y hy => ⟨?_, ?_⟩, fun f hf hfd => ?_⟩
    · rw [die_partDone, die_storeMain hd]
    · rw [partDone_dep, State.mod_core, hnum, hcore]; rfl
    · rw [partDone_copy, State.mod_core, hnum, hcore]
    · rw [partDone_core, State.mod_core, hcore, Core.depend_precedes_eq]
    · rw [die_partDone, view_storeMain_once hd hwf hb fun b' => honce y b b' hb]
    · rw [die_partDone, view_storeMain_ne hd hy]
    · rw [mem_partDone, storeMain_mem]
      exact memGet_putMarkeds_ne _ _ (storeCells_ne hy)
    · obtain ⟨clock, due, hdue, hdie⟩ := die_storeMain_ne (cells := cells) hd hf hfd
      rw [die_partDone, hdie]
      refine ⟨rfl, _, rfl, rfl, rfl, ?_, hdue⟩
      simp [State.storeCells, Function.comp_def]
  case refine_3 =>
    exact ⟨_, exec_tokenStorePerformed_lent ha hk hsp hb hr, partDone_putSpace .., partDone_dep ..,
      fun hwf honce y b hy hopen => lentMem_putSpace_once p hwf hy (fun b' => honce y b b' hy) hopen⟩
  case refine_4 =>
    have hsrc := src_of_found hx
    have hdie : (s.modDie dst fun y => y.apply x).die dst = (s.die dst).apply x := die_modDie ..
    refine ⟨_, exec_exportedStoreApply_found hx, ?_, ?_, ?_, ?_, fun hwf honce z hz hlater => ?_, fun y hy => ?_,
      fun y k hk holder => ?_, fun f hf hfd => die_modDie_ne s _ hdst hf hfd, modDie_onlyDies ..⟩
    all_goals rw [hdie]
    · rw [Die.apply, hsrc]
    · rw [Die.apply, hsrc]
    · rfl
    · rfl
    · exact memGet_putMarkeds_once (v := ((s.die dst).view, (s.die dst).marks)) hwf x.cells hz (fun y hy => honce y z hy hz)
        (newer_iff.mpr hlater)
    · exact memGet_putMarkeds_ne _ _ hy
    · refine memGet_putMarkeds_older (v := ((s.die dst).view, (s.die dst).marks)) x.cells fun z hz hzy hn => ?_
      exact holder z hz hzy (newer_iff.mp hn k hk)

end Sys2Proof.Machine
end

section
/-! SUPPORT. Fences (05 R93-R96, R105, R106): what `ownDone`, `seenHere` and `reached` say of accesses, stores and dies,
and the outcomes of `State.fenced` before the strand's clock is taken and after. -/

namespace Sys2Proof.Machine

/-! ## What a fence waits for -/

/-- Every earlier access of the strand is performed and what it has seen is in its die (R93, R95, R96), as the
statement spells it out. -/
def State.FenceDone (s : State) (dm : Bool) : Prop :=
  (∀ a, a ∈ s.core.acc → dm = false ∧ ∃ p, a.space = .lent p) ∧ (∀ w, w ∈ s.core.timed → w.strand = false) ∧
    s.core.late = [] ∧ s.core.depMsc = [] ∧ ∀ e, e < 4 → s.core.dep.getD e 0 ≤ s.countIn (dieOf s.core.phys) e

/-- Every die has every store that a clock counts (R105). -/
def State.Everywhere (s : State) (clock : Nat → Nat) : Prop := ∀ d e, d < 4 → e < 4 → clock e ≤ s.countIn d e

theorem ownDone_iff (c : Core) (dm : Bool) :
    c.ownDone dm = true ↔ (∀ a, a ∈ c.acc → dm = false ∧ ∃ p, a.space = .lent p) ∧
      (∀ w, w ∈ c.timed → w.strand = false) ∧ c.late = [] := by
  simp only [Core.ownDone, Bool.and_eq_true, List.all_eq_true, Bool.not_eq_true', List.isEmpty_iff, and_assoc]
  refine and_congr (forall₂_congr fun a _ => and_congr_right fun _ => ?_) Iff.rfl
  cases a.space <;> simp

theorem seenHere_iff (s : State) :
    s.seenHere = true ↔ s.core.depMsc = [] ∧ ∀ e, e < 4 → s.core.dep.getD e 0 ≤ s.countIn (dieOf s.core.phys) e := by
  simp only [State.seenHere, Bool.and_eq_true, List.isEmpty_iff, List.all_eq_true, List.mem_range, decide_eq_true_eq]

theorem fenceDone_iff (s : State) (dm : Bool) : s.FenceDone dm ↔ s.core.ownDone dm = true ∧ s.seenHere = true := by
  rw [ownDone_iff, seenHere_iff, State.FenceDone, and_assoc, and_assoc]

theorem reached_iff (s : State) (clock : List Nat) : s.reached clock = true ↔ s.Everywhere (clock.getD · 0) := by
  simp only [State.reached, State.Everywhere, List.all_eq_true, List.mem_range, decide_eq_true_eq]
  exact ⟨fun h d e hd he => h d hd e he, fun h d hd e he => h d e hd he⟩

theorem getD_dieClock (s : State) (d : Nat) {e : Nat} (he : e < 4) : (s.dieClock d).getD e 0 = s.countIn d e := by
  simp [State.dieClock, he]

theorem reached_dieClock_iff (s : State) (d : Nat) : s.reached (s.dieClock d) = true ↔ s.Everywhere (s.countIn d) := by
  rw [reached_iff]
  exact forall₄_congr fun _ e _ he => by show (s.dieClock d).getD e 0 ≤ _ ↔ _; rw [getD_dieClock s d he]

/-! ## The outcomes of a fence -/

theorem onlyRetires_retireWith (s : State) : OnlyRetires s (retireWith s fun c => c) := onlyRetires_of (keeps_refl _) rfl

theorem does_coFence (s : State) :
    Does (fun c => { c with coFence := s.now + 1 }) s (retireWith s fun c => { c with coFence := s.now + 1 }) := by
  have hk : Keeps s.core { s.core with coFence := s.now + 1 } := ⟨rfl, rfl, rfl, rfl, rfl, rfl⟩
  exact ⟨Core.still_retire .., rfl, bytes_of hk, retires_of hk⟩

section
variable {s : State} {dm : Bool} {reason : BitVec 8} {k : State → State}

theorem fenced_wait_done {clock : List Nat} (hw : s.core.waiting = .fence clock) (hr : s.Everywhere (clock.getD · 0)) :
    s.fenced dm reason k = k s := by
  unfold State.fenced
  rw [hw]
  exact if_pos ((reached_iff s clock).mpr hr)

theorem fenced_wait_stalls {clock : List Nat} (hw : s.core.waiting = .fence clock) (hr : ¬s.Everywhere (clock.getD · 0)) :
    s.fenced dm reason k = s.stallFor reason := by
  unfold State.fenced
  rw [hw]
  exact if_neg (mt (reached_iff s clock).mp hr)

/-- A fence that has not yet taken its clock. -/
theorem fenced_first (hw : s.core.waiting = .none) :
    s.fenced dm reason k =
      if ¬s.core.ownDone dm ∨ ¬s.seenHere then s.stallFor reason
      else if s.reached (s.dieClock (dieOf s.core.phys)) then k s
      else State.stallFor (s.mod fun c => { c with waiting := .fence (s.dieClock (dieOf s.core.phys)) }) reason := by
  unfold State.fenced
  rw [hw]

theorem fenced_done (hw : s.core.waiting = .none) (hd : s.FenceDone dm)
    (hr : s.Everywhere (s.countIn (dieOf s.core.phys))) : s.fenced dm reason k = k s := by
  obtain ⟨ho, hs⟩ := (fenceDone_iff s dm).mp hd
  rw [fenced_first hw, if_neg (by simp [ho, hs]), if_pos ((reached_dieClock_iff s _).mpr hr)]

theorem fenced_stalls (hw : s.core.waiting = .none) (hd : ¬s.FenceDone dm) : s.fenced dm reason k = s.stallFor reason := by
  rw [fenced_first hw, if_pos]
  rw [fenceDone_iff, not_and_or] at hd
  exact hd

theorem fenced_waits (hw : s.core.waiting = .none) (hd : s.FenceDone dm)
    (hr : ¬s.Everywhere (s.countIn (dieOf s.core.phys))) :
    s.fenced dm reason k =
      State.stallFor (s.mod fun c => { c with waiting := .fence (s.dieClock (dieOf s.core.phys)) }) reason := by
  obtain ⟨ho, hs⟩ := (fenceDone_iff s dm).mp hd
  rw [fenced_first hw, if_neg (by simp [ho, hs]), if_neg (mt (reached_dieClock_iff s _).mp hr)]

end

/-! ## The fences -/

theorem dieFence_done {s : State} {i : Instr} (hg : gate i s = .go) (hd : s.FenceDone false) :
    dieFence i s = .next (retireWith s fun c => c) := by
  rw [dieFence, withGate_go hg, if_pos ((fenceDone_iff s false).mp hd)]

theorem dieFence_stalls {s : State} {i : Instr} (hg : gate i s = .go) (hd : ¬s.FenceDone false) :
    dieFence i s = .next (s.stallFor 13) := by
  rw [dieFence, withGate_go hg, if_neg (mt (fenceDone_iff s false).mpr hd)]

theorem execFenceCo_done {s : State} (hg : gate .fenceCo s = .go) (hd : s.FenceDone false) :
    execFenceCo s = .next (retireWith s fun c => { c with coFence := s.now + 1 }) := by
  rw [execFenceCo, withGate_go hg, if_pos ((fenceDone_iff s false).mp hd)]

theorem execFenceCo_stalls {s : State} (hg : gate .fenceCo s = .go) (hd : ¬s.FenceDone false) :
    execFenceCo s = .next (s.stallFor 13) := by
  rw [execFenceCo, withGate_go hg, if_neg (mt (fenceDone_iff s false).mpr hd)]

/-- The fences of scope PK and DM. -/
def wideFence (dm : Bool) : Instr := if dm then .fenceDm else .fencePk

theorem exec_wideFence {s : State} {dm : Bool} (hg : gate (wideFence dm) s = .go) :
    exec (wideFence dm) s = .next (s.fenced dm 13 fun s => retireWith s fun c => c) := by
  cases dm with
  | false => exact (exec_fencePk s).trans (withGate_go hg)
  | true => exact (exec_fenceDm s).trans (withGate_go hg)

end Sys2Proof.Machine
end

section
/-! PROOF. The fences of O26, from the outcomes above. -/

namespace Sys2Proof.Machine

section
variable {s : State}

/-! ## Within the die -/

theorem fenceCo_completes (hd : s.FenceDone false) :
    Completes .fenceCo s (Does (fun c => { c with coFence := s.now + 1 }) s) :=
  fun hg => ⟨_, execFenceCo_done hg hd, does_coFence s⟩

theorem fenceCl_retires (hd : s.FenceDone false) : Completes .fenceCl s (OnlyRetires s) :=
  fun hg => ⟨_, dieFence_done hg hd, onlyRetires_retireWith s⟩

theorem fenceDi_retires (hd : s.FenceDone false) : Completes .fenceDi s (OnlyRetires s) :=
  fun hg => ⟨_, dieFence_done hg hd, onlyRetires_retireWith s⟩

/-! ## Of the package -/

variable {dm : Bool}

theorem wideFence_retires (h : s.fenced dm 13 (fun s => retireWith s fun c => c) = retireWith s fun c => c) :
    Completes (wideFence dm) s (OnlyRetires s) :=
  fun hg => ⟨_, (exec_wideFence hg).trans (congrArg _ h), onlyRetires_retireWith s⟩

theorem wideFence_stalls (h : s.fenced dm 13 (fun s => retireWith s fun c => c) = s.stallFor 13)
    (hg : gate (wideFence dm) s = .go) : exec (wideFence dm) s = .next (s.stallFor 13) :=
  (exec_wideFence hg).trans (congrArg _ h)

/-- What a strand leaves alone that stalls with a clock to wait for. -/
def StallsOn (clock : List Nat) (s t : State) : Prop :=
  t.core.waiting = .fence clock ∧ t.core.pc = s.core.pc ∧ t.core.vigil = s.core.vigil ∧ t.core.still = s.core.still ∧
    Outside s t ∧ BytesKept s t

theorem stallFor_fence (s : State) (clock : List Nat) (reason : BitVec 8) :
    StallsOn clock s (State.stallFor (s.mod fun c => { c with waiting := .fence clock }) reason) := by
  have hmod : State.stallFor (s.mod fun c => { c with waiting := .fence clock }) reason =
      s.mod fun c => Core.stalled { c with waiting := .fence clock } reason s.now := rfl
  rw [hmod]
  exact ⟨rfl, rfl, rfl, rfl, outside_mod .., bytesKept_mod _ _ rfl rfl rfl rfl⟩

theorem wideFence_waits (hw : s.core.waiting = .none) (hd : s.FenceDone dm)
    (hr : ¬s.Everywhere (s.countIn (dieOf s.core.phys))) :
    Completes (wideFence dm) s fun t => ∃ clock, t.core.waiting = .fence clock ∧
      (∀ e, e < 4 → clock.getD e 0 = s.countIn (dieOf s.core.phys) e) ∧
      t.core.pc = s.core.pc ∧ t.core.vigil = s.core.vigil ∧ t.core.still = s.core.still ∧ Outside s t ∧ BytesKept s t := by
  intro hg
  obtain ⟨hwait, hrest⟩ := stallFor_fence s (s.dieClock (dieOf s.core.phys)) 13
  exact ⟨_, (exec_wideFence hg).trans (congrArg _ (fenced_waits hw hd hr)), _, hwait,
    fun e he => getD_dieClock s _ he, hrest⟩

end

/-- Settles O26: the fences of a die by what the strand has done, those of the package by `State.fenced`, before its
clock is taken and after. -/
theorem fences : Obligations.Fences := by
  intro s
  refine ⟨fun hd => ⟨fenceCo_completes hd, fenceCl_retires hd, fenceDi_retires hd⟩, fun hd => ⟨?_, ?_, ?_⟩,
    fun hw => ⟨?_, ?_, ?_, ?_, ?_⟩, fun clock hw => ⟨fun hr => ⟨?_, ?_⟩, fun hr => ⟨?_, ?_⟩⟩⟩
  · exact fun hg => execFenceCo_stalls hg hd
  · exact fun hg => dieFence_stalls hg hd
  · exact fun hg => dieFence_stalls hg hd
  · exact fun hd hr => wideFence_retires (dm := false) (fenced_done hw hd hr)
  · exact fun hd hr => wideFence_retires (dm := true) (fenced_done hw hd hr)
  · exact fun hd => wideFence_stalls (dm := false) (fenced_stalls hw hd)
  · exact fun hd => wideFence_stalls (dm := true) (fenced_stalls hw hd)
  · rintro dm i (⟨rfl, rfl⟩ | ⟨rfl, rfl⟩) hd hr
    · exact wideFence_waits (dm := false) hw hd hr
    · exact wideFence_waits (dm := true) hw hd hr
  · exact wideFence_retires (dm := false) (fenced_wait_done hw hr)
  · exact wideFence_retires (dm := true) (fenced_wait_done hw hr)
  · exact wideFence_stalls (dm := false) (fenced_wait_stalls hw hr)
  · exact wideFence_stalls (dm := true) (fenced_wait_stalls hw hr)

end Sys2Proof.Machine
end

section
/-! SUPPORT. What leaves the memory that every package-wide access goes to alone, operation by operation of the model
(05 R101, R103): stores, atomics and firmware write it, nothing else does. -/

namespace Sys2Proof.Machine

section
variable (s : State)

/-! ## Cores, tasks, traps -/

@[simp] theorem State.modAt_mem (n : Nat) (f : Core → Core) : (s.modAt n f).mem = s.mem := rfl
@[simp] theorem State.modAll_mem (f : Core → Core) : (s.modAll f).mem = s.mem := rfl
@[simp] theorem State.askSweeps_mem (is : List Nat) : (s.askSweeps is).mem = s.mem := rfl
@[simp] theorem State.modTask_mem (id : Nat) (f : Task → Task) : (s.modTask id f).mem = s.mem := rfl
@[simp] theorem State.modQueue_mem (part num : Nat) (f : Queue → Queue) : (s.modQueue part num f).mem = s.mem := rfl

@[simp] theorem State.modPart_mem (p : Nat) (f : Partition → Partition) : (s.modPart p f).mem = s.mem := by
  unfold State.modPart; split <;> rfl

@[simp] theorem State.record_mem (part ring : Nat) (r : Completion) :
    (s.record part ring r).mem = s.mem := by simp [State.record]

@[simp] theorem State.journal_mem (e : JournalEvent) : (s.journal e).mem = s.mem := by
  unfold State.journal; split <;> rfl

@[simp] theorem State.enterOwed_mem : s.enterOwed.mem = s.mem :=
  mem_foldl _ (fun _ _ => by simp) _ _

@[simp] theorem State.scan_mem : s.scan.mem = s.mem := by
  unfold State.scan
  split
  · rfl
  · exact mem_foldl _ (fun s e => by split <;> simp) _ _

@[simp] theorem State.post_mem (e : Request) : (s.post e).mem = s.mem := rfl
@[simp] theorem State.rearm_mem (part id : Nat) : (s.rearm part id).mem = s.mem := rfl

@[simp] theorem State.closeTask_mem (t : Task) (e : PartEnd) : (s.closeTask t e).mem = s.mem := by
  unfold State.closeTask; split <;> rfl

@[simp] theorem State.partEnded_mem (t : Task) (e : PartEnd) : (s.partEnded t e).mem = s.mem := by
  unfold State.partEnded; split <;> simp

@[simp] theorem State.ringWrite_mem (c : Core) (isWait : Bool) (mk : Nat → List Byte) :
    (s.ringWrite c isWait mk).mem = s.mem := by
  simp only [State.ringWrite]
  repeat' split
  all_goals simp

@[simp] theorem State.logWait_mem (c : Core) (i : Instr) (ended : Nat) (setter : BitVec 32) :
    (s.logWait c i ended setter).mem = s.mem := by
  simp only [State.logWait]
  repeat' split
  all_goals simp

@[simp] theorem State.logEnded_mem (task : Nat) : (s.logEnded task).mem = s.mem := by
  unfold State.logEnded
  refine mem_foldl _ (fun s c => ?_) s _
  repeat' split
  all_goals simp

@[simp] theorem State.dropWaiters_mem (id : Nat) : (s.dropWaiters id).mem = s.mem := rfl
@[simp] theorem State.dumpsMissed_mem (cs : List Core) : (s.dumpsMissed cs).mem = s.mem := rfl

@[simp] theorem State.endTask_mem (id : Nat) (status : EndStatus) (cause : BitVec 8) (rank : Nat) (pc : BitVec 32) :
    (s.endTask id status cause rank pc).mem = s.mem := by
  simp only [State.endTask]; split <;> simp

@[simp] theorem State.takeTrap_mem (code : BitVec 8) (val : Word) (pc : BitVec 32) :
    (s.takeTrap code val pc).mem = s.mem := by
  unfold State.takeTrap; split_ifs <;> simp

@[simp] theorem State.vigilFault_mem : s.vigilFault.mem = s.mem := by simp [State.vigilFault]
@[simp] theorem State.inChange_mem (f : Nat) : (s.inChange f).mem = s.mem := rfl
@[simp] theorem State.toFirmware_mem (f : Nat) : (s.toFirmware f).mem = s.mem := rfl

@[simp] theorem State.logIntegrity_mem (part line : Nat) (rank : Option Nat) (pc : BitVec 32) :
    (s.logIntegrity part line rank pc).mem = s.mem :=
  mem_foldl _ (fun _ _ => by simp) _ _

@[simp] theorem State.integrityFault_mem (r : PoisonReport) : (s.integrityFault r).mem = s.mem := by
  unfold State.integrityFault; split <;> simp

@[simp] theorem State.logPoison_mem (r : PoisonReport) : (s.logPoison r).mem = s.mem := by
  unfold State.logPoison; split <;> rfl

@[simp] theorem State.takePoison_mem (r : PoisonReport) : (s.takePoison r).mem = s.mem := by
  unfold State.takePoison; split <;> simp

@[simp] theorem State.stallFor_mem (reason : BitVec 8) : (s.stallFor reason).mem = s.mem := rfl

@[simp] theorem State.startFill_mem (t : Token) (off : Nat) : (s.startFill t off).mem = s.mem := by
  unfold State.startFill; split <;> rfl

@[simp] theorem State.issueAccess_mem (a : Access) : (s.issueAccess a).mem = s.mem := rfl

/-! ## Retirement -/

@[simp] theorem retireWith_mem (f : Core → Core) : (retireWith s f).mem = s.mem := rfl

/-! ## Accesses issued -/

@[simp] theorem State.localFetch_mem (kind : AccKind) (r : Region) (a n : Nat) (ord : BitVec 2) :
    (s.localFetch kind r a n ord).mem = s.mem := rfl

@[simp] theorem State.localStore_mem (r : Region) (a : Nat) (bs : List Byte) (ord : BitVec 2) :
    (s.localStore r a bs ord).mem = s.mem := by
  unfold State.localStore; split <;> rfl

@[simp] theorem State.tokenFetch_mem (kind : AccKind) (t : TokenAccess) (ord : BitVec 2) (scope : BitVec 3) :
    (s.tokenFetch kind t ord scope).mem = s.mem := rfl

/-! ## The stack -/

@[simp] theorem State.push_mem (bs : List Byte) : (s.push bs).mem = s.mem := by
  simp only [State.push]; split <;> simp

theorem State.pop_mem (n : Nat) (eff : List Byte → Bool → State → State) (heff : ∀ t u v, (eff t u v).mem = v.mem) :
    (s.pop n eff).mem = s.mem := by
  simp only [State.pop]
  repeat' split
  all_goals simp [heff]

/-! ## Accesses by token and by the local map -/

@[simp] theorem State.makeLate_mem (x : LateRead) : (s.makeLate x).mem = s.mem := rfl

/-! ## Waits for a word -/

@[simp] theorem State.endWaita_mem (i : Instr) (d : BitVec 4) (r : WaitEnd) :
    (s.endWaita i d r).mem = s.mem := by simp [State.endWaita]

/-! ## Fences, ends, counters -/

theorem State.fenced_mem (dm : Bool) (reason : BitVec 8) (k : State → State) (hk : ∀ t, (k t).mem = t.mem) :
    (s.fenced dm reason k).mem = s.mem := by
  simp only [State.fenced]
  repeat' split
  all_goals simp [hk]

@[simp] theorem State.dropStale_mem : s.dropStale.mem = s.mem := rfl

/-! ## Curve loads -/

@[simp] theorem State.cmptRead_mem (rows : List Host.Cell) (a next : Nat) : (s.cmptRead rows a next).mem = s.mem := by
  simp only [State.cmptRead]
  repeat' split
  all_goals simp

/-! ## Synchronisation -/

@[simp] theorem State.modBar_mem (k : Nat) (id : BitVec 5) (f : Barrier → Barrier) : (s.modBar k id f).mem = s.mem := rfl

@[simp] theorem State.tellWait_mem (c : Core) : (s.tellWait c).mem = s.mem := by
  unfold State.tellWait
  repeat' split
  all_goals rfl

/-! ## Frame-cache misses of engines -/

@[simp] theorem State.engineMiss_mem (t : Token) (off : Nat) : (s.engineMiss t off).mem = s.mem := by
  unfold State.engineMiss; split <;> rfl

/-! ## Launch words -/

@[simp] theorem State.noteCollOf_mem (c : Core) (kind : LaunchKind) (started : Bool) (cmd : Nat) :
    (s.noteCollOf c kind started cmd).mem = s.mem := by
  unfold State.noteCollOf; split <;> rfl

@[simp] theorem State.noteColl_mem (kind : LaunchKind) (started : Bool) (cmd : Nat) :
    (s.noteColl kind started cmd).mem = s.mem := by simp [State.noteColl]

/-! ## Memory that is not package main memory, and what a read does -/

@[simp] theorem State.ensureCore_mem (n : Nat) : (s.ensureCore n).mem = s.mem := by
  unfold State.ensureCore; split <;> rfl

@[simp] theorem State.countCorrected_mem (sp : Space) (a n : Nat) : (s.countCorrected sp a n).mem = s.mem := by
  unfold State.countCorrected; split <;> rfl

@[simp] theorem State.takeCsm_mem (sp : Space) (a n : Nat) : (s.takeCsm sp a n).mem = s.mem := by
  unfold State.takeCsm; split <;> simp [modDie_mem]

@[simp] theorem State.modPort_mem (p : Nat) (f : Port → Port) : (s.modPort p f).mem = s.mem := by
  unfold State.modPort; split <;> rfl

@[simp] theorem State.holdPlace_mem (a : Access) : (s.holdPlace a).mem = s.mem := by
  unfold State.holdPlace; split <;> rfl

@[simp] theorem State.dependOn_mem (sp : Space) (a n : Nat) : (s.dependOn sp a n).mem = s.mem := by
  unfold State.dependOn; split <;> rfl

/-! ## Accesses brought to an end -/

@[simp] theorem State.partDone_mem (a : Access) (i : Nat) : (s.partDone a i).mem = s.mem := rfl
@[simp] theorem State.deliver_mem (a : Access) : (s.deliver a).mem = s.mem := rfl

@[simp] theorem State.strikeAtomic_mem (isLocal : Bool) (who : Core → Bool) (va n : Nat) :
    (s.strikeAtomic isLocal who va n).mem = s.mem := rfl

@[simp] theorem State.strikeToken_mem (a : Access) : (s.strikeToken a).mem = s.mem := rfl
@[simp] theorem State.endWait_mem (w : Waiter) (r : WaitEnd) (mark : Core → Core) : (s.endWait w r mark).mem = s.mem := rfl

@[simp] theorem State.answerWait_mem (w : Waiter) (r : WaitEnd) (mark : Core → Core) :
    (s.answerWait w r mark).mem = s.mem := by
  unfold State.answerWait; split <;> rfl

@[simp] theorem State.setWaiters_mem (p : Point) (ws : List Waiter) : (s.setWaiters p ws).mem = s.mem := by
  unfold State.setWaiters; split <;> simp [modDie_mem]

@[simp] theorem State.wakeRemote_mem (p : Point) (a n new : Nat) : (s.wakeRemote p a n new).mem = s.mem := rfl

@[simp] theorem State.wake_mem (p : Point) (a n new : Nat) (who : BitVec 32) (seen : Core → Core) :
    (s.wake p a n new who seen).mem = s.mem := by
  unfold State.wake
  rw [mem_foldl _ (fun s w => by simp)]
  simp

@[simp] theorem State.dependAt_mem (p : Point) (a n : Nat) : (s.dependAt p a n).mem = s.mem := by
  unfold State.dependAt; split <;> rfl

@[simp] theorem State.numberMsc_mem (seq d num : Nat) : (s.numberMsc seq d num).mem = s.mem := rfl

@[simp] theorem State.takeRow_mem (a : Access) : (s.takeRow a).mem = s.mem := by
  unfold State.takeRow; split <;> simp [modDie_mem]

@[simp] theorem State.waitNow_mem (a : Access) (r : WaitEnd) : (s.waitNow a r).mem = s.mem := rfl
@[simp] theorem State.withdraw_mem (p : Point) (core acc : Nat) :
    (s.withdraw p core acc).mem = s.mem := by simp [State.withdraw]

@[simp] theorem State.reportAt_mem (integrity : Bool) : (s.reportAt integrity).mem = s.mem := by
  unfold State.reportAt
  repeat' split
  all_goals simp

/-! ## The copy engine -/

@[simp] theorem State.copyTake_mem (m : Cmd) (members n next : Nat) : (s.copyTake m members n next).mem = s.mem := rfl
@[simp] theorem State.copyPoison_mem (m : Cmd) (members : Nat) (r : PoisonReport) :
    (s.copyPoison m members r).mem = s.mem := rfl

@[simp] theorem State.copyStop_mem (m : Cmd) : (s.copyStop m).mem = s.mem := by
  unfold State.copyStop; split <;> simp

@[simp] theorem State.readIndex_mem (m : Cmd) (a n : Nat) : (s.readIndex m a n).mem = s.mem := by
  unfold State.readIndex; split_ifs <;> simp

@[simp] theorem State.sendPiece_mem (sp : Space) (a : Nat) : (s.sendPiece sp a).mem = s.mem := by
  unfold State.sendPiece
  repeat' split
  all_goals simp

@[simp] theorem State.copyHold_mem (m : Cmd) : (s.copyHold m).mem = s.mem := by
  unfold State.copyHold
  repeat' split
  all_goals rfl

@[simp] theorem State.startCopy_mem (m : Cmd) : (s.startCopy m).mem = s.mem := by
  simp only [State.startCopy]; split <;> rfl

/-! ## Collectives -/

@[simp] theorem State.noteFailed_mem (t : Task) (group seq : Nat) : (s.noteFailed t group seq).mem = s.mem := rfl

@[simp] theorem State.collIssue_mem (t : Task) (group : Nat) (seq : Nat) (ms : List (Nat × Nat)) (cmds : List (Core × Cmd))
    (failed : Bool) :
    (State.collIssue s t group seq ms cmds failed).mem = s.mem := by
  simp only [State.collIssue, State.modTask_mem]
  refine mem_foldl _ (fun st x => ?_) s cmds
  split <;> simp

/-! ## Launches -/

@[simp] theorem State.startLaunch_mem (e : EngineId) (h : Launch) : (s.startLaunch e h).mem = s.mem := by
  unfold State.startLaunch; split <;> simp

/-! ## Pages and sweeps -/

@[simp] theorem State.unmapPage_mem (part : Nat) (g : PageMap) :
    (s.unmapPage part g).mem = s.mem := by simp [State.unmapPage]
@[simp] theorem State.dropPage_mem (part : Nat) (g : PageMap) : (s.dropPage part g).mem = s.mem := by simp [State.dropPage]

@[simp] theorem State.readPage_mem (groups : List Nat) (g : PageMap) : (s.readPage groups g).mem = s.mem :=
  mem_foldl _ (fun _ _ => by simp) _ _

@[simp] theorem State.startSweep_mem (i : Nat) : (s.startSweep i).mem = s.mem := by
  simp only [State.startSweep]; split <;> rfl

/-! ## Queues, dispatch, the start of a task -/

@[simp] theorem State.append_mem (part num : Nat) (k : Packet) (armed : Option Fired) :
    (s.append part num k armed).mem = s.mem := rfl

@[simp] theorem State.roundWon_mem (part : Nat) (q : Queue) : (s.roundWon part q).mem = s.mem := by simp [State.roundWon]
@[simp] theorem State.restLevels_mem : s.restLevels.mem = s.mem := rfl
@[simp] theorem State.settleQueues_mem : s.settleQueues.mem = s.mem := by simp [State.settleQueues]

@[simp] theorem State.handover_mem (k part : Nat) : (s.handover k part).mem = s.mem := by
  simp only [State.handover]
  split
  · rfl
  · rw [State.modAll_mem, mem_foldl _ (fun s j => by simp)]

@[simp] theorem movePool_getD_mem (r : PoolRange) (die : Nat) : ((s.movePool r die).getD s).mem = s.mem := by
  unfold State.movePool
  cases poolGap (s.pools.erase r) die r.mb <;> simp [modDie_mem]

@[simp] theorem State.moveCluster_mem (part k k' : Nat) : (s.moveCluster part k k').mem = s.mem := by
  simp only [State.moveCluster]
  split
  · simp
  · split
    · rw [movePool_getD_mem]; simp
    · simp

@[simp] theorem State.startBarriers_mem (k : Nat) (crew : List Nat) : (s.startBarriers k crew).mem = s.mem := rfl

@[simp] theorem State.dispatchNow_mem (part num packet idx : Nat) : (s.dispatchNow part num packet idx).mem = s.mem := by
  unfold State.dispatchNow
  repeat' split
  · rfl
  · rfl
  · simp only []
    rw [mem_foldl _ (fun s q => by simp)]; simp
  · rfl

@[simp] theorem State.releaseNow_mem (part num packet : Nat) : (s.releaseNow part num packet).mem = s.mem := by
  unfold State.releaseNow
  repeat' split
  all_goals simp

@[simp] theorem State.destroyNow_mem (part num : Nat) : (s.destroyNow part num).mem = s.mem := by
  unfold State.destroyNow
  split
  · rfl
  · simp only []
    rw [mem_foldl _ (fun s q => by simp), mem_foldl _ (fun s q => by simp), State.modQueue_mem]

@[simp] theorem State.armNow_mem (e : ArmEntry) : (s.armNow e).mem = s.mem := by
  unfold State.armNow; split <;> rfl

@[simp] theorem State.fireNow_mem (part num ring : Nat) (k : Packet) (f : Fired) :
    (s.fireNow part num ring k f).mem = s.mem := by
  unfold State.fireNow
  repeat' split
  all_goals simp

@[simp] theorem State.defineNow_mem (part graph : Nat) (nodes : List GraphNode) :
    (s.defineNow part graph nodes).mem = s.mem := by simp [State.defineNow]

@[simp] theorem State.disarmNow_mem (part tag : Nat) : (s.disarmNow part tag).mem = s.mem := rfl

@[simp] theorem State.patchNow_mem (part graph i : Nat) (new : GraphNode) :
    (s.patchNow part graph i new).mem = s.mem := by simp [State.patchNow]

@[simp] theorem State.replayNow_mem (part num packet : Nat) : (s.replayNow part num packet).mem = s.mem := by
  unfold State.replayNow
  repeat' split
  all_goals simp

@[simp] theorem State.createNow_mem (part num level weight ring : Nat) :
    (s.createNow part num level weight ring).mem = s.mem := by
  unfold State.createNow; split <;> rfl

@[simp] theorem State.clearDebug_mem (id : Nat) : (s.clearDebug id).mem = s.mem := rfl

@[simp] theorem State.effect_mem (e : JournalEvent) : (s.effect e).mem = s.mem := by
  unfold State.effect
  repeat' split
  all_goals simp

@[simp] theorem State.readImage_mem (e : AlmanacEntry) (va n : Nat) : (s.readImage e va n).mem = s.mem := by
  unfold State.readImage
  split
  · rfl
  · exact mem_foldl _ (fun _ _ => by simp) _ _

@[simp] theorem State.startCrew_mem (t : Task) (p : Partition) (image : List Byte) (tok : Token) :
    (s.startCrew t p image tok).mem = s.mem := by
  simp only [State.startCrew, State.modTask_mem, State.modPart_mem]
  exact mem_foldl _ (fun _ _ => by simp) _ _

/-! ## Scheduling and contexts -/

@[simp] theorem State.submit_mem (part num : Nat) (k : Packet) (bad : Partition → Option Nat) :
    (s.submit part num k bad).mem = s.mem := by
  unfold State.submit
  repeat' split
  all_goals simp

@[simp] theorem State.request_mem (part : Nat) (e : Request) : (s.request part e).mem = s.mem := by
  unfold State.request; split <;> rfl

@[simp] theorem State.modCluster_mem (k : Nat) (f : Cluster → Cluster) : (s.modCluster k f).mem = s.mem := rfl

@[simp] theorem State.gangDone_mem (k : Nat) : (s.gangDone k).mem = s.mem := by
  unfold State.gangDone; split <;> rfl

@[simp] theorem State.stopCancelled_mem : s.stopCancelled.mem = s.mem := by
  unfold State.stopCancelled; split <;> rfl

theorem State.onCore_mem (n : Nat) (f : State → State) (hf : ∀ t, (f t).mem = t.mem) : (s.onCore n f).mem = s.mem := by
  unfold State.onCore; split <;> simp [hf]

@[simp] theorem State.restoreNow_mem (x : Saved) : (s.restoreNow x).mem = s.mem := by
  simp only [State.restoreNow]
  rw [State.onCore_mem]
  · simp
  · intro t; split <;> simp

@[simp] theorem State.restore_mem (x : Saved) : (s.restore x).mem = s.mem := by
  unfold State.restore; split <;> simp

@[simp] theorem State.bring_mem (x : Saved) (k : Nat) : (s.bring x k).mem = s.mem := by
  simp only [State.bring, State.handover_mem]
  split
  · rfl
  · rw [State.moveCluster_mem]

@[simp] theorem State.withdrawGang_mem (k : Nat) : (s.withdrawGang k).mem = s.mem := by
  simp only [State.withdrawGang]
  rw [mem_foldl _ (fun s x => by split <;> simp)]
  simp

/-! ## Services -/

theorem State.serve_mem (core : Nat) (n : BitVec 5 → Bool) (f : Core → State → State) (hf : ∀ t u, (f t u).mem = u.mem) :
    (s.serve core n f).mem = s.mem := by
  unfold State.serve
  repeat' split
  all_goals simp [hf]

@[simp] theorem State.releaseEquinox_mem (t : Task) : (s.releaseEquinox t).mem = s.mem := by
  unfold State.releaseEquinox; split <;> rfl

@[simp] theorem State.logInterrupted_mem (r : Report) : (s.logInterrupted r).mem = s.mem := by
  unfold State.logInterrupted
  repeat' split
  all_goals simp

@[simp] theorem State.deliverReport_mem (r : Report) : (s.deliverReport r).mem = s.mem := by
  unfold State.deliverReport; split <;> simp

@[simp] theorem State.restartXlat_mem (core : Nat) : (s.restartXlat core).mem = s.mem := rfl

@[simp] theorem State.deliverXlat_mem (core part va len : Nat) (rights : BitVec 2) :
    (s.deliverXlat core part va len rights).mem = s.mem := by
  unfold State.deliverXlat; split <;> rfl

/-! ## Sweeps and grants -/

@[simp] theorem State.revokeWait_mem (core index : Nat) : (s.revokeWait core index).mem = s.mem := by
  unfold State.revokeWait
  repeat' split
  all_goals simp

@[simp] theorem State.noteAborted_mem (c : Core) (index : Nat) : (s.noteAborted c index).mem = s.mem := by
  unfold State.noteAborted
  repeat' split
  all_goals simp

@[simp] theorem State.revokePins_mem (part : Nat) (g : PageMap) : (s.revokePins part g).mem = s.mem := rfl

@[simp] theorem State.queueMove_mem (part page : Nat) (dest : PagePlace) : (s.queueMove part page dest).mem = s.mem := by
  unfold State.queueMove
  repeat' split
  all_goals rfl

@[simp] theorem State.setFrames_mem (lo count : Nat) (e : PotEntry) : (s.setFrames lo count e).mem = s.mem := rfl

/-! ## The fabric -/

@[simp] theorem State.reply_mem (r : RemoteRequest) (x : Reply) : (s.reply r x).mem = s.mem := rfl
@[simp] theorem State.answer_mem (r : RemoteRequest) (x : Reply) : (s.answer r x).mem = s.mem := rfl

@[simp] theorem State.lostEffect_mem (c : Core) (a : Access) : (s.lostEffect c a).mem = s.mem := by
  simp only [State.lostEffect]
  split
  · rw [mem_foldl _ (fun s q => by split <;> simp [putSpace_mem])]
  · repeat' split
    all_goals simp [putSpace_mem]
  · rfl

@[simp] theorem State.setSwitch_mem (x : Switch) : (s.setSwitch x).mem = s.mem := rfl
@[simp] theorem State.failCollectives_mem (part switch : Nat) : (s.failCollectives part switch).mem = s.mem := rfl

@[simp] theorem State.keepKeys_mem (x : Switch) (ok : Nat → Bool) : (s.keepKeys x ok).mem = s.mem :=
  mem_foldl _ (fun _ _ => by simp) _ _

@[simp] theorem State.slew_mem : s.slew.mem = s.mem := by
  unfold State.slew; split <;> rfl

/-! ## Partitions -/

@[simp] theorem State.claimFrames_mem (r : PartitionRequest) : (s.claimFrames r).mem = s.mem := rfl
@[simp] theorem State.modStores_mem (f : KeyStore → KeyStore) : (s.modStores f).mem = s.mem := rfl
@[simp] theorem State.loadKeys_mem (part xts gcm : Nat) : (s.loadKeys part xts gcm).mem = s.mem := rfl

@[simp] theorem State.endPartition_mem (part : Nat) (nonce : BitVec 64) : (s.endPartition part nonce).mem = s.mem := by
  simp only [State.endPartition, State.modPart_mem]
  rw [mem_foldl _ (fun s q => by simp), mem_foldl _ (fun s q => by simp)]

@[simp] theorem State.zeroLocal_mem (part : Nat) : (s.zeroLocal part).mem = s.mem := rfl

@[simp] theorem State.closeGrants_mem (part : Nat) (p : Partition) :
    (s.closeGrants part p).mem = s.mem := by simp [State.closeGrants]

@[simp] theorem State.toStep_mem (part n : Nat) : (s.toStep part n).mem = s.mem := by simp [State.toStep]
@[simp] theorem State.failStep_mem (part : Nat) (p : Partition) (n : Nat) : (s.failStep part p n).mem = s.mem := rfl
@[simp] theorem State.eraseKeys_mem (part : Nat) : (s.eraseKeys part).mem = s.mem := by simp [State.eraseKeys]

@[simp] theorem State.finishTeardown_mem (part : Nat) (p : Partition) (nonce : BitVec 64) :
    (s.finishTeardown part p nonce).mem = s.mem := rfl

/-! ## Observation -/

@[simp] theorem State.sample_mem (c : Core) : (s.sample c).mem = s.mem := by
  unfold State.sample; split <;> simp

@[simp] theorem State.stopCores_mem : s.stopCores.mem = s.mem := rfl

/-! ## The device -/

@[simp] theorem State.reading_mem (die celsius : Nat) : (s.reading die celsius).mem = s.mem := modDie_mem ..

/-! ## The cycle -/

@[simp] theorem State.nextPhase_mem : s.nextPhase.mem = s.mem := rfl

@[simp] theorem State.turnOver_mem : s.turnOver.mem = s.mem := by
  unfold State.turnOver
  repeat' split
  all_goals rfl

@[simp] theorem State.inOrder_mem : s.inOrder.mem = s.mem := by
  unfold State.inOrder; split <;> rfl

end

end Sys2Proof.Machine
end

section
/-! SUPPORT. What writes that memory keeps its canonical form (05 R101, R103, R104, 06 R114, 18 R382): atomics, writes of
firmware and of other packages, resets, and what firmware does of itself. -/

namespace Sys2Proof.Machine

/-! ## Writers -/

theorem wf_foldl {α : Type} {f : State → α → State} (hf : ∀ s x, s.mem.wf = true → (f s x).mem.wf = true)
    {s : State} (xs : List α) (h : s.mem.wf = true) : (xs.foldl f s).mem.wf = true := by
  induction xs generalizing s with
  | nil => exact h
  | cons x rest ih => exact ih (hf s x h)

@[simp] theorem wf_atomicWrite {s : State} (acc : Access) (p : Point) (cells : List Host.Cell) (h : s.mem.wf = true) :
    (s.atomicWrite acc p cells).mem.wf = true := by
  cases p with
  | slice d => simp [State.atomicWrite, wf_storeMain, h]
  | msc => simp [State.atomicWrite, wf_mscWrite, h]
  | lender => simp [State.atomicWrite, putSpace_mem, h]

@[simp] theorem wf_applyAtomic {s : State} (a : Access) (op : BitVec 4) (t x : Nat) (p : Point) (h : s.mem.wf = true) :
    (s.applyAtomic a op t x p).mem.wf = true := by
  simp only [State.applyAtomic]
  split_ifs <;> simp [h]

@[simp] theorem wf_atomicHome {s : State} (a : Access) (stamp seq : Nat) (h : s.mem.wf = true) :
    (s.atomicHome a stamp seq).mem.wf = true := by
  simp [State.atomicHome, wf_performMarked, h]

@[simp] theorem wf_fillFrames {s : State} (fs : List Nat) (cells : List Host.Cell) (h : s.mem.wf = true) :
    (s.fillFrames fs cells).mem.wf = true :=
  wf_fwWrite _ h

@[simp] theorem wf_fillPlace {s : State} (part : Nat) (p : Partition) (d : PagePlace) (n : Nat) (mode : ProtMode)
    (bytes : List Host.Cell) (h : s.mem.wf = true) : (s.fillPlace part p d n mode bytes).mem.wf = true := by
  cases d <;> simp [State.fillPlace, h]

@[simp] theorem wf_land {s : State} (p : Partition) (va : Nat) (bytes : List Byte) (h : s.mem.wf = true) :
    (s.land p va bytes).mem.wf = true :=
  wf_fwWrite _ h

@[simp] theorem wf_freeFrames {s : State} (lo count : Nat) (h : s.mem.wf = true) :
    (s.freeFrames lo count).mem.wf = true := by
  simp [State.freeFrames, h]

@[simp] theorem wf_endGrant {s : State} (g : Grant) (h : s.mem.wf = true) : (s.endGrant g).mem.wf = true := by
  simp [State.endGrant, h]

@[simp] theorem wf_potOne {s : State} (w : Nat × PotEntry) (h : s.mem.wf = true) : (s.potOne w).mem.wf = true := by
  simp only [State.potOne]
  split_ifs <;> simp [h]

@[simp] theorem wf_remoteWrite {s : State} (r : RemoteRequest) (x : Nat) (h : s.mem.wf = true) :
    (s.remoteWrite r x).mem.wf = true := by
  unfold State.remoteWrite
  split
  · exact wf_storeMain _ _ h
  · exact wf_performMarked _ _ (wf_mscWrite _ h)

@[simp] theorem wf_applyRemote {s : State} (r : RemoteRequest) (h : s.mem.wf = true) : (s.applyRemote r).mem.wf = true := by
  simp only [State.applyRemote]
  repeat' split
  all_goals simp [h]

@[simp] theorem wf_scrub {s : State} (frames : List Nat) (h : s.mem.wf = true) : (s.scrub frames).mem.wf = true := by
  simp [State.scrub, h]

@[simp] theorem wf_blank (s : State) (b : Boot) (n : Nat) : (s.blank b n).mem.wf = true := wf_nil

@[simp] theorem wf_thermal {s : State} (h : s.mem.wf = true) : s.thermal.mem.wf = true := by
  unfold State.thermal
  split_ifs <;> simp [h]

@[simp] theorem wf_bringUp (s : State) (env : BootEnv) : (s.bringUp env).mem.wf = true := by
  simp only [State.bringUp]
  split <;> exact wf_nil

/-! ## The steps of firmware -/

/-- Where an act of F2 changes the state, main memory is in its canonical form. -/
def ActWf (a : F2Act) : Prop := ∀ t, a = .act t → t.mem.wf = true

@[simp] theorem actWf_act (t : State) : ActWf (.act t) ↔ t.mem.wf = true :=
  ⟨fun h => h t rfl, fun h u e => by cases e; exact h⟩

@[simp] theorem actWf_wait : ActWf .wait := fun _ e => nomatch e

@[simp] theorem actWf_deliver : ActWf .deliver := fun _ e => nomatch e

theorem wf_getD {o : Option State} {s : State} (ho : ∀ t, t ∈ o → t.mem.wf = true) (h : s.mem.wf = true) :
    (o.getD s).mem.wf = true := by
  cases o with
  | none => exact h
  | some t => exact ho t rfl

theorem fillEntry_mem (s : State) (part task va len : Nat) (rights : BitVec 2) (home : Option Nat) (gran : Nat)
    (mode : ProtMode) (frames : List Nat) : (s.fillEntry part task va len rights home gran mode frames).2.mem = s.mem :=
  State.modPart_mem _ part _

theorem wf_watchdogStep {s t : State} (e : t ∈ s.watchdogStep) : t.mem.wf = true := by
  unfold State.watchdogStep at e
  split at e <;> cases e
  exact wf_bringUp _ _

section
variable {s : State} (h : s.mem.wf = true)
include h

theorem wf_movePage {t : State} {part va : Nat} {dest : PagePlace} (e : t ∈ s.movePage part va dest) : t.mem.wf = true := by
  obtain ⟨p, -, e⟩ := Option.bind_eq_some_iff.mp e
  obtain ⟨g, -, e⟩ := Option.bind_eq_some_iff.mp e
  split_ifs at e
  · cases e; simp [h]
  · split at e <;> cases e <;> simp [h]

theorem makeRoom_actWf {part : Nat} {p : Partition} {keep : List Nat} : ActWf (s.makeRoom part p keep) := by
  simp only [State.makeRoom]
  split
  · split
    · next e =>
      obtain ⟨d, -, e⟩ := Option.bind_eq_some_iff.mp e
      simp [wf_movePage h e]
    · simp
  · split
    · simp
    · split <;> simp [h]

theorem sweepPins_actWf {part : Nat} {g : PageMap} : ActWf (s.sweepPins part g) := by
  unfold State.sweepPins
  split <;> simp [h]

theorem freeShare_actWf {part : Nat} : ActWf (s.freeShare part) := by
  unfold State.freeShare
  split
  · simp [h]
  · split <;> simp

theorem pageIn_actWf {part va len : Nat} : ActWf (s.pageIn part va len) := by
  simp only [State.pageIn]
  split
  · simp
  · split
    · simp
    · split
      · exact makeRoom_actWf h
      · split
        · next e => simp [wf_movePage h e]
        · exact sweepPins_actWf h

theorem resolve_actWf {part va len : Nat} {rights : BitVec 2} : ∀ a, a ∈ s.resolve part va len rights → ActWf a := by
  unfold State.resolve
  split
  · split <;> simp
  · simp [pageIn_actWf h]
  · simp [freeShare_actWf h]
  · simp

theorem wf_xlatStep {t : State} {core : Nat} (e : t ∈ s.xlatStep core) : t.mem.wf = true := by
  obtain ⟨c, -, e⟩ := Option.bind_eq_some_iff.mp e
  obtain ⟨⟨va, len, rights, _⟩, -, e⟩ := Option.bind_eq_some_iff.mp e
  simp only at e
  split at e
  · cases e; simp [h]
  · next er => cases e; exact resolve_actWf h _ er t rfl
  · cases e
  · cases e; simp [h]

theorem wf_fillFor {t : Task} {va len : Nat} {rights : BitVec 2} {x : Token × State} (e : x ∈ s.fillFor t va len rights) :
    x.2.mem.wf = true := by
  unfold State.fillFor at e
  split at e <;> cases e
  simpa [fillEntry_mem] using h

theorem wf_loadStep {t : Task} {u : State} (e : u ∈ s.loadStep t) : u.mem.wf = true := by
  simp only [State.loadStep] at e
  split at e
  · split at e
    · obtain ⟨p, -, e⟩ := Option.bind_eq_some_iff.mp e
      obtain ⟨x, ex, e⟩ := Option.bind_eq_some_iff.mp e
      have hx : x.2.mem.wf = true := wf_fillFor h ex
      split at e
      · cases e; simp [h]
      · split at e
        · cases e; simp [h]
        · split at e
          · cases e; simp [hx]
          · split at e
            · next y ey =>
              have hy : y.2.mem.wf = true := wf_fillFor (by simpa using hx) ey
              cases e; simp [hy]
            · split at e
              · cases e
              · next er => cases e; exact freeShare_actWf h _ (Option.some.inj er)
              · cases e
              · cases e; simp [h]
    · next er => cases e; exact resolve_actWf h _ er _ rfl
    · cases e
    · cases e; simp [h]
  · next er =>
    obtain ⟨b, -, er⟩ := Option.bind_eq_some_iff.mp er
    cases e; exact resolve_actWf h _ er _ rfl
  · cases e
  · cases e; simp [h]

theorem wf_moveStep {t : State} (e : t ∈ s.moveStep) : t.mem.wf = true := by
  unfold State.moveStep at e
  split at e
  · cases e; exact wf_getD (fun _ => wf_movePage h) h
  · obtain ⟨x, -, rfl⟩ := Option.map_eq_some_iff.mp e
    simp [h]

theorem wf_returnStep {t : State} {g : Grant} (e : t ∈ s.returnStep g) : t.mem.wf = true := by
  simp only [State.returnStep] at e
  split at e
  · split_ifs at e <;> cases e
    exact h
  · split at e
    · cases e
    · split at e
      · obtain ⟨u, eu, rfl⟩ := Option.map_eq_some_iff.mp e
        have hu : u.mem.wf = true := wf_movePage h eu
        exact hu
      · split at e
        · next er => cases e; exact makeRoom_actWf h _ er
        · cases e

theorem wf_potStep {t : State} {w : Nat × PotEntry} (e : t ∈ s.potStep w) : t.mem.wf = true := by
  simp only [State.potStep] at e
  split at e
  · cases e
  · cases e
    exact wf_foldl (fun _ w => wf_potOne w) _ h

theorem wf_teardownStep {u : State} {part : Nat} {p : Partition} {t : Teardown} (e : u ∈ s.teardownStep part p t) :
    u.mem.wf = true := by
  simp only [State.teardownStep] at e
  split at e
  · split at e <;> cases e; simp [h]
  · split at e <;> cases e; simp [h]
  · split at e
    · cases e
    · cases e; split <;> simp [h]
  · cases e; split <;> simp [h]
  · cases e; split <;> simp [h]

theorem wf_acceptStep {t : State} (e : t ∈ s.acceptStep) : t.mem.wf = true := by
  unfold State.acceptStep at e
  split at e
  · cases e
  · split at e
    · cases e
    · cases e; split <;> simp [h]

theorem wf_transferStep {t : State} (e : t ∈ s.transferStep) : t.mem.wf = true := by
  unfold State.transferStep at e
  split at e <;> cases e
  exact h

theorem wf_replyStep {t : State} (e : t ∈ s.replyStep) : t.mem.wf = true := by
  obtain ⟨x, -, e⟩ := List.exists_of_findSome?_eq_some e
  obtain ⟨p, -, rfl⟩ := Option.map_eq_some_iff.mp e
  simp [h]
end

end Sys2Proof.Machine
end

section
/-! SUPPORT. Outcomes after which that memory is in its canonical form: of the gate, of the forms that instructions share,
and of engine words. -/

namespace Sys2Proof.Machine

/-- Where the outcome goes on, main memory is in its canonical form. -/
def NextWf (o : Out) : Prop := ∀ t, o = .next t → MemoryOk t

@[simp] theorem nextWf_next (t : State) : NextWf (.next t) ↔ t.mem.wf = true :=
  ⟨fun h => h t rfl, fun h u e => by cases e; exact h⟩

@[simp] theorem nextWf_fault (f : Fault) : NextWf (.fault f) := fun _ e => nomatch e

section
variable {s : State} (h : s.mem.wf = true)
include h

/-! ## The gate and the forms that instructions share -/

theorem withGate_nextWf {i : Instr} {eff : State → State} (heff : (eff s).mem = s.mem) : NextWf (withGate i s eff) := by
  unfold withGate
  split <;> simp [heff, h]

theorem alu2_nextWf {i : Instr} {d a b : BitVec 5} {lat : Nat} {f : Word → Word → Word} : NextWf (alu2 i d a b lat f s) :=
  withGate_nextWf h rfl

theorem alu1_nextWf {i : Instr} {d a : BitVec 5} {f : Word → Word} : NextWf (alu1 i d a f s) := withGate_nextWf h rfl

theorem divOp_nextWf {i : Instr} {d a b : BitVec 5} {f : Word → Word → Word} : NextWf (divOp i d a b f s) :=
  withGate_nextWf h rfl

theorem cmpRR_nextWf {i : Instr} {k : Cond6} {a b : BitVec 5} : NextWf (cmpRR i k a b s) := withGate_nextWf h rfl

theorem cmpRI_nextWf {i : Instr} {k : Cond6} {a : BitVec 5} {x : Word} : NextWf (cmpRI i k a x s) := withGate_nextWf h rfl

theorem condBranch_nextWf {i : Instr} {t : BitVec 2} {want : Bool} : NextWf (condBranch i t want s) := withGate_nextWf h rfl

theorem vecOp_nextWf {i : Instr} {d : BitVec 4} {p : BitVec 3} {lat : Nat} {f : Core → Nat → Nat → BitVec 32} :
    NextWf (vecOp i d p lat f s) := withGate_nextWf h rfl

theorem vec1_nextWf {i : Instr} {d a : BitVec 4} {p : BitVec 3} {lat : Nat} {f : BitVec 32 → BitVec 32} :
    NextWf (vec1 i d a p lat f s) := vecOp_nextWf h

theorem vec2_nextWf {i : Instr} {d a b : BitVec 4} {p : BitVec 3} {lat : Nat} {f : BitVec 32 → BitVec 32 → BitVec 32} :
    NextWf (vec2 i d a b p lat f s) := vecOp_nextWf h

theorem vecSfn_nextWf {i : Instr} {f : Sfn} {d a : BitVec 4} {p : BitVec 3} {g : BitVec 1} :
    NextWf (vecSfn i f d a p g s) := vec1_nextWf h

theorem vecRed_nextWf {i : Instr} {k : Red} {row : Bool} {d a : BitVec 4} {t : BitVec 2} :
    NextWf (vecRed i k row d a t s) :=
  vecOp_nextWf h

theorem vecFlag_nextWf {i : Instr} {d a : BitVec 4} {p : BitVec 3} {f : BitVec 32 → BitVec 32 × BitVec 5} :
    NextWf (vecFlag i d a p f s) := withGate_nextWf h rfl

theorem predOp_nextWf {i : Instr} {d : BitVec 3} {f : Core → PReg} : NextWf (predOp i d f s) := withGate_nextWf h rfl

theorem tagWait_nextWf {i : Instr} {a : BitVec 5} {test : Word → Word → Bool} : NextWf (tagWait i a test s) :=
  withGate_nextWf h (by simp only []; split <;> simp)

theorem dieFence_nextWf {i : Instr} : NextWf (dieFence i s) := withGate_nextWf h (by split <;> rfl)

theorem equinox_nextWf {i : Instr} {isAlign : Bool} : NextWf (equinox i isAlign s) :=
  withGate_nextWf h (by
    split
    · simp
    · rfl
    · exact State.fenced_mem _ _ _ _ fun _ => rfl)

theorem barForm_nextWf {i : Instr} {eff : State → State} (heff : (eff s).mem = s.mem) : NextWf (barForm i eff s) :=
  withGate_nextWf h (by split; exacts [heff, rfl])

theorem tokenForm_nextWf {i : Instr} {event : BitVec 8} {null : Core → Core} {eff : TokenAccess → State → State}
    (heff : ∀ t, (eff t s).mem = s.mem) : NextWf (tokenForm i event null eff s) := by
  refine withGate_nextWf h ?_
  repeat' split
  all_goals simp [heff]

theorem localForm_nextWf {i : Instr} {eff : Region → Nat → Nat → State → State}
    (heff : ∀ r a n, (eff r a n s).mem = s.mem) : NextWf (localForm i eff s) := by
  refine withGate_nextWf h ?_
  repeat' split
  all_goals simp [heff]

theorem amoForm_nextWf {i : Instr} {op d c : BitVec 4} {p : BitVec 3} {o : BitVec 2} : NextWf (amoForm i op d c p o s) :=
  tokenForm_nextWf h fun _ => by simp

theorem lamoForm_nextWf {i : Instr} {op d c : BitVec 4} {o : BitVec 2} : NextWf (lamoForm i op d c o s) :=
  localForm_nextWf h fun _ _ _ => by simp

/-! ## Engine words -/

theorem paramWord_nextWf {f : Core → Engine → Except Nat Engine} : NextWf (paramWord s f) := by
  simp only [paramWord]
  split <;> simp [h]

theorem condWord_nextWf {mk : BitVec 64 → Cond} : NextWf (condWord mk s) := paramWord_nextWf h

theorem wrongQueue_nextWf {own : EngineId} : NextWf (wrongQueue own s) := by simp [wrongQueue, h]

theorem launchWord_nextWf {own : EngineId} {parse : Core → List Entry → Except Nat Prepared} {unset : Prepared → Bool} :
    NextWf (launchWord own s parse unset) := by
  simp only [launchWord]
  repeat' split
  all_goals simp [h, wrongQueue_nextWf]

theorem collWord_nextWf {kind : CollKind} {op dt : Nat} : NextWf (collWord kind op dt s) := by
  have hl : NextWf (launchWord .copy s (collParse s kind op dt) s.groupUnset) := launchWord_nextWf h
  unfold collWord
  split
  · next t e =>
    have ht : t.mem.wf = true := hl t e
    repeat' split
    all_goals simp [ht]
  · exact hl
end

end Sys2Proof.Machine
end

section
/-! SUPPORT. Every instruction and event keeps the canonical form of that memory. -/

namespace Sys2Proof.Machine

theorem nextWf_of_mem {s t : State} (h : s.mem.wf = true) (e : t.mem = s.mem) : NextWf (.next t) :=
  (nextWf_next t).mpr (e ▸ h)

theorem readPiece_mem (s : State) (a : Access) : (s.readPiece a).2.mem = s.mem := by simp [State.readPiece]

section
variable {s : State} (h : s.mem.wf = true)
include h

/-! ## Instructions with cases of their own -/

theorem execSvc_nextWf (n : BitVec 5) : NextWf (execSvc n s) :=
  withGate_nextWf h (by
    split
    · rfl
    · rfl
    · exact State.fenced_mem _ _ _ _ fun _ => rfl)

theorem execBarArrive_nextWf (d id : BitVec 5) : NextWf (execBarArrive d id s) :=
  barForm_nextWf h (by simp only []; split <;> rfl)

theorem execBarWait_nextWf (a id : BitVec 5) : NextWf (execBarWait a id s) := by
  refine withGate_nextWf h ?_
  split
  · split
    · simp
    · rfl
  · split <;> rfl

theorem execXlat_nextWf (k : BitVec 4) (a b : BitVec 5) (r : BitVec 2) : NextWf (execXlat k a b r s) := by
  refine withGate_nextWf h ?_
  simp only []
  split
  · split
    · rfl
    · split
      · rfl
      · rfl
      · split
        · simp
        · exact fillEntry_mem ..
  · simp
  · rfl
  · rfl

theorem execXlatFaultResolution_nextWf (core : Nat) (act : XlatAction) : NextWf (execXlatFaultResolution core act s) := by
  simp only [execXlatFaultResolution]
  split
  · simp [h]
  · split
    · rw [nextWf_next, apply_ite State.mem, State.restartXlat_mem, ite_self, State.askSweeps_mem]
      refine wf_foldl (fun st x hst => ?_) _ h
      split
      · exact wf_getD (fun _ => wf_movePage hst) hst
      · exact hst
    · split <;> simp [h]

/-! ## Accesses as they are performed -/

theorem wf_sendLine {t : State} {a : Access} {pkg : Nat} {upper : Bool} (e : t ∈ s.sendLine a pkg upper) :
    t.mem.wf = true := by
  obtain ⟨-, e⟩ := Option.ite_none_left_eq_some.mp e
  obtain ⟨p, -, e⟩ := Option.bind_eq_some_iff.mp e
  obtain ⟨x, -, rfl⟩ := Option.map_eq_some_iff.mp e
  simp [h]

theorem wf_bind {t : State} {a : Access} (e : t ∈ s.bind a) : t.mem.wf = true := by
  unfold State.bind at e
  split at e
  · rw [Option.orElse_eq_orElse, ← Option.or_eq_orElse] at e
    rcases Option.or_eq_some_iff.mp e with e | ⟨-, e⟩
    · exact wf_sendLine h e
    · exact wf_sendLine h e
  · cases e

theorem wf_spoil {t : State} {a : Access} (e : t ∈ s.spoil a) : t.mem.wf = true := by
  simp only [State.spoil] at e
  split at e <;> cases e
  exact h

theorem execTokenStorePerformed_nextWf (id : Nat) : NextWf (execTokenStorePerformed id s) := by
  simp only [execTokenStorePerformed]
  split
  · simp [h]
  · split
    · simp [h]
    · split
      · next e => simp [wf_bind h e]
      · split <;> simp [putSpace_mem, h]
      · split
        · simp [h]
        · split
          · simp
          · simp [wf_storeMain, h]

theorem execLoadDataReturn_nextWf (id : Nat) : NextWf (execLoadDataReturn id s) := by
  unfold execLoadDataReturn
  split
  · simp [h]
  · next a _ =>
    have hp : (s.readPiece a).2.mem = s.mem := readPiece_mem s a
    split
    · simp [h]
    · split
      · next e => simp [wf_bind h e]
      · split
        · simp [h]
        · split
          · simp [h]
          · split
            · simp
            · split
              next a' s1 e =>
                have h1 : s1.mem.wf = true := by rw [e] at hp; exact hp ▸ h
                split <;> simp [h1]

theorem execAtomicApply_nextWf (id : Nat) : NextWf (execAtomicApply id s) := by
  simp only [execAtomicApply]
  split
  · simp [h]
  · split
    · next e => simp [wf_bind h e]
    · split <;> simp [h]
    · split
      · simp [h]
      · split
        · simp [h]
        · split
          · simp
          · exact (nextWf_next _).mpr (wf_getD (fun _ => wf_spoil h) (wf_applyAtomic _ _ _ _ _ h))
    · simp [h]

theorem execWaitaRegister_nextWf (id : Nat) : NextWf (execWaitaRegister id s) := by
  simp only [execWaitaRegister]
  split
  · simp [h]
  · split
    · next e => simp [wf_bind h e]
    · split <;> simp [h]
    · split
      · simp [h]
      · split
        · simp [h]
        · split
          · simp
          · split
            · simp [h]
            · split
              · simp [h]
              · split <;> simp [h]
    · simp [h]

theorem execLocalAtomicApply_nextWf (id : Nat) : NextWf (execLocalAtomicApply id s) := by
  simp only [execLocalAtomicApply]
  split
  · simp [h]
  · split
    · split
      · simp [h]
      · split
        · simp [h]
        · split
          · next e => simp [wf_spoil h e]
          · split
            · split <;> simp [putSpace_mem, h]
            · simp [h]
    · simp [h]

/-! ## Events of the crew, of firmware and of the package -/

theorem execCollectiveComplete_nextWf (task group : Nat) : NextWf (execCollectiveComplete task group s) := by
  simp only [execCollectiveComplete]
  split
  · simp [h]
  · split
    · simp [h]
    · split
      · simp [h]
      · split
        · simp [h]
        · rw [nextWf_next, mem_foldl _ fun st x => by split <;> simp]
          exact h

theorem execImageLoad_nextWf (task : Nat) : NextWf (execImageLoad task s) := by
  unfold execImageLoad
  split
  · simp [h]
  · split
    · simp [h]
    · exact (nextWf_next _).mpr (wf_getD (fun _ => wf_loadStep h) h)

theorem execTakeover_nextWf : NextWf (execTakeover s) := by
  simp only [execTakeover]
  split
  · rw [nextWf_next, State.settleQueues_mem, mem_foldl _ fun st k => by simp, State.enterOwed_mem]
    exact h
  · simp [h]

theorem execSealKeyRotation_nextWf (index : Nat) : NextWf (execSealKeyRotation index s) := by
  simp only [execSealKeyRotation]
  split
  · rw [nextWf_next]
    exact wf_foldl (fun st p hst => by simpa using hst) _ h
  · simp [h]

theorem execPageMove_nextWf (part page : Nat) (dest : PagePlace) : NextWf (execPageMove part page dest s) := by
  rw [execPageMove, nextWf_next]
  cases e : s.movePage part page dest with
  | none => simp [h]
  | some t => exact wf_movePage h e

theorem execPotChange_nextWf (frame : Nat) (world : World) (owner : FrameOwner) (mode : ProtMode) :
    NextWf (execPotChange frame world owner mode s) := by
  simp only [execPotChange]
  split
  · simp [h]
  · rw [nextWf_next, State.askSweeps_mem, mem_foldl _ State.inChange_mem]
    exact h

theorem execTransfer_nextWf (req : OwnerRequest) : NextWf (execTransfer req s) := by
  simp only [execTransfer]
  split
  · rw [nextWf_next, mem_foldl _ fun st x => by simp]
    exact h
  · simp [h]

theorem execThermalResume_nextWf (celsius : List Nat) : NextWf (execThermalResume celsius s) := by
  rw [execThermalResume, nextWf_next]
  apply wf_thermal
  rw [mem_foldl _ fun st d => by simp]
  exact h

theorem execRecovery_nextWf (img : FirmwareImage) : NextWf (execRecovery img s) := by
  unfold execRecovery
  split
  · exact (nextWf_next _).mpr (wf_bringUp _ _)
  · simp [h]
end

/-! ## Every instruction and event -/

/-- The instructions first, by the form they share, then the events that one unfolding settles, then those above. -/
theorem exec_nextWf (i : Instr) {s : State} (h : s.mem.wf = true) : NextWf (exec i s) := by
  unfold exec
  cases i with
  | add | sub | and | or | xor | andn | orn | xnor | sll | srl | sra | rol | ror | mul | mulh | mulhu | min | max | minu |
    maxu | sel | fsl | fsr => exact alu2_nextWf h
  | div | divu | rem | remu => exact divOp_nextWf h
  | clz | ctz | popc | bswap | brev | addi | andi | ori | xori | slli | srli | srai | rori => exact alu1_nextWf h
  | cmpEq | cmpNe | cmpLt | cmpGe | cmpLtu | cmpGeu | tst => exact cmpRR_nextWf h
  | cmpiEq | cmpiNe | cmpiLt | cmpiGe | cmpiLtu | cmpiGeu | tsti => exact cmpRI_nextWf h
  | br | bz => exact condBranch_nextWf h
  | sync | alignEquinox => exact equinox_nextWf h
  | fenceCl | fenceDi => exact dieFence_nextWf h
  | tagWany | tagWall => exact tagWait_nextWf h
  | amoAdd | amoAnd | amoOr | amoXor | amoMin | amoMax | amoMinu | amoMaxu | amoSwap | amoCas | amoFadd | amoAddt =>
    exact amoForm_nextWf h
  | lamoAdd | lamoAnd | lamoOr | lamoXor | lamoMin | lamoMax | lamoMinu | lamoMaxu | lamoSwap | lamoCas | lamoFadd =>
    exact lamoForm_nextWf h
  | vaddI32 | vsubI32 | vmulI32 | vmulhI32 | vmulhU32 | vminI32 | vmaxI32 | vminU32 | vmaxU32 | vaddsI32 | vsubsI32 | vand |
    vor | vxor | vandn | vsll | vsrl | vsra | vaddF32 | vsubF32 | vmulF32 | vminF32 | vmaxF32 => exact vec2_nextWf h
  | vabsI32 | vnegI32 | vmov | vclz | vpopc | vabsF32 | vnegF32 | vcvtWiden | vcvtF32I32 => exact vec1_nextWf h
  | vsel | vfmaF32 | vrotRa | vrotCa | vbrow | vbcol | vidxR | vidxC | vins | vbcast => exact vecOp_nextWf h
  | vcvtNarrow | vcvtI32F32 | vcvtsNarrow => exact vecFlag_nextWf h
  | vsumRa | vsumCa | vmaxRa | vmaxCa | vminRa | vminCa => exact vecRed_nextWf h
  | pand | por | pxor | pandn | pnot | pmov => exact predOp_nextWf h
  | vrcp | vrsqrt | vsqrt | vexp2 | vlog2 | vexp | vtanh | vsigm | vsin | vcos | verf => exact vecSfn_nextWf h
  | nop | sval | ktok | dup | drop | swap | lit | litx => exact paramWord_nextWf h
  | atStamp | gate => exact condWord_nextWf h
  | mma | mmaSp | mwb | copy1d | copyNd | gather | scatter | wbfill | lrst | ldly | lwin | llaunchMin | llaunchMax | lcapV |
    lcapO => exact launchWord_nextWf h
  | collAr | collRs | collAg => exact collWord_nextWf h
  | reservedEngineWord => exact wrongQueue_nextWf h
  | movi | lut3 | ptg | ptr | mfb | mtl | mfl | mfbc | mtbc | loop | eret | mfc | ctrSel | tagFfr | tagClr | enqM | enqC |
    enqL | fmtq | kinfo | kmov | ksub | kclr | vext | vcmp | vany | vall | pcnt | vqnt | vdqnt | vldL | vstL =>
    exact withGate_nextWf h rfl
  | call | loopPush | trap => exact withGate_nextWf h (by simp)
  | fenceCo => exact withGate_nextWf h (by split <;> rfl)
  | krel | endOp | mtc | yield | waita | cmpt =>
    refine withGate_nextWf h ?_
    simp only []
    repeat' split
    all_goals simp
  | kst | kld | ld | st => exact tokenForm_nextWf h fun _ => rfl
  | kstL | kldL | lds | sts | vld | vst => exact localForm_nextWf h fun r _ _ => by cases r <;> simp
  | ret | loopPop => exact withGate_nextWf h (State.pop_mem _ _ _ fun _ _ _ => rfl)
  | fencePk | fenceDm => exact withGate_nextWf h (State.fenced_mem _ _ _ _ fun _ => rfl)
  | barDrop => exact barForm_nextWf h rfl
  | svcTime | svcLog | svcLimit | svcUnassigned => exact nextWf_of_mem h (State.serve_mem _ _ _ _ fun _ _ => by simp)
  | localStorePerformed =>
    simp only [execLocalStorePerformed]
    repeat' split
    all_goals simp [putSpace_mem, h]
  | exportedStoreApply =>
    simp only [execExportedStoreApply]
    split <;> simp [modDie_mem, h]
  | telemetryLogDrain | writeExposure | poison | integrity | pcSample | ringDrain | tasks | replay | queueCreate |
    queueDestroy | arm | disarm | jubileeSweep | axtosTrainingStart | axtosTrainingDone | axtosKeysInstalled | flitReceive |
    linkRetry | rekeyTimeout | ptpSourceLoss | scheduleStopArm | stopResume | liveDump | thermalStop | thermalTrip |
    ptpSourceRegained | rekeyComplete | reservedEncoding =>
    simp [execTelemetryLogDrain, execWriteExposure, execPoison, execIntegrity, execPcSample, execRingDrain,
      execTasks, execReplay, execQueueCreate, execQueueDestroy, execArm, execDisarm, execJubileeSweep,
      execAxtosTrainingStart, execAxtosTrainingDone, execAxtosKeysInstalled, execFlitReceive, execLinkRetry,
      execRekeyTimeout, execPtpSourceLoss, execScheduleStopArm, execStopResume, execLiveDump, execThermalStop,
      execThermalTrip, execPtpSourceRegained, execRekeyComplete, execReservedEncoding, h]
  | preemptionRequest | partitionCreate | sweepFree | uetConnectionSetup | ptpLock | debugRequest | scheduleCycleStop |
    firmwareImage | enrol | powerOn | moduleReset | cumulativeAcknowledgement | waitaTimeout |
    deferredReportDelivery | dispatchRound | contextSave | graphDefine | patch | grantClose | reclaimCompletion =>
    simp only [execPreemptionRequest, execPartitionCreate, execSweepFree, execUetConnectionSetup, execPtpLock,
      execDebugRequest, execScheduleCycleStop, execFirmwareImage, execEnrol, execPowerOn, execModuleReset,
      execCumulativeAcknowledgement, execWaitaTimeout, execDeferredReportDelivery, execDispatchRound,
      execContextSave, execGraphDefine, execPatch, execGrantClose, execReclaimCompletion]
    split <;> simp [h]
  | watchInstalled | vigil | equinoxRelease | tfcMissFill | atomicResultReturn | engineLaunchStart | matrixComplete |
    mwbComplete | copyComplete | lanternComplete | tlimitExpiry | gangWithdraw | contextRestore | fire | partitionTeardown |
    journalAck | tokenInvalidate | sweepAck | sweepAbort | remoteRequestArrival | remoteRequestLost | spdmSession |
    jobKeyGrant | jobKeyWithdraw | grantOpen | counterWrap | barHeldArrival | collectiveGroupCreate |
    uncorrectableErrorReport | lenderReclaim | remoteRetransmit | samplecfgWrite =>
    simp only [execWatchInstalled, execVigil, execEquinoxRelease, execTfcMissFill, execAtomicResultReturn,
      execEngineLaunchStart, execMatrixComplete, execMwbComplete, execCopyComplete, execLanternComplete,
      execTlimitExpiry, execGangWithdraw, execContextRestore, execFire, execPartitionTeardown, execJournalAck,
      execTokenInvalidate, execSweepAck, execSweepAbort, execRemoteRequestArrival, execRemoteRequestLost,
      execSpdmSession, execJobKeyGrant, execJobKeyWithdraw, execGrantOpen, execCounterWrap, execBarHeldArrival,
      execCollectiveGroupCreate, execUncorrectableErrorReport, execLenderReclaim, execRemoteRetransmit,
      execSamplecfgWrite]
    repeat' split
    all_goals simp [h]
  | svc n => exact execSvc_nextWf h n
  | barArrive d imm => exact execBarArrive_nextWf h d imm
  | barWait a imm => exact execBarWait_nextWf h a imm
  | xlat k a b r => exact execXlat_nextWf h k a b r
  | xlatFaultResolution core act => exact execXlatFaultResolution_nextWf h core act
  | tokenStorePerformed id => exact execTokenStorePerformed_nextWf h id
  | loadDataReturn id => exact execLoadDataReturn_nextWf h id
  | atomicApply id => exact execAtomicApply_nextWf h id
  | waitaRegister id => exact execWaitaRegister_nextWf h id
  | localAtomicApply id => exact execLocalAtomicApply_nextWf h id
  | collectiveComplete task group => exact execCollectiveComplete_nextWf h task group
  | imageLoad task => exact execImageLoad_nextWf h task
  | takeover => exact execTakeover_nextWf h
  | sealKeyRotation index => exact execSealKeyRotation_nextWf h index
  | pageMove part page dest => exact execPageMove_nextWf h part page dest
  | potChange frame world owner mode => exact execPotChange_nextWf h frame world owner mode
  | transfer req => exact execTransfer_nextWf h req
  | thermalResume celsius => exact execThermalResume_nextWf h celsius
  | recovery img => exact execRecovery_nextWf h img

end Sys2Proof.Machine
end

section
/-! PROOF. Every step keeps the canonical form of that memory, O60: each part of the cycle takes events that do. -/

namespace Sys2Proof.Machine

/-- An event that keeps the canonical form of main memory. -/
def KeepsWf (f : State → Out) : Prop := ∀ s : State, s.mem.wf = true → NextWf (f s)

theorem exec_keepsWf (i : Instr) : KeepsWf (exec i) := fun _ h => exec_nextWf i h

theorem next_keepsWf {f : State → State} (hf : ∀ s, (f s).mem = s.mem) : KeepsWf fun s => .next (f s) :=
  fun s h => nextWf_of_mem h (hf s)

theorem wf_after {s : State} {f : State → Out} (hf : KeepsWf f) (h : s.mem.wf = true) : (s.after f).mem.wf = true := by
  unfold State.after
  split
  · next e => exact hf s h _ e
  · exact h

theorem firstEvent_nextWf {s : State} {fs : List (State → Out)} (hf : ∀ f, f ∈ fs → KeepsWf f)
    (h : s.mem.wf = true) {o : Out} (e : s.firstEvent fs = some o) : NextWf o := by
  induction fs with
  | nil => cases e
  | cons f fs ih =>
    have hfs : ∀ o, f s = o → NextWf o := fun o eo => eo ▸ hf f List.mem_cons_self s h
    unfold State.firstEvent at e
    split at e
    · next t et =>
      split at e
      · exact ih (fun g hg => hf g (List.mem_cons_of_mem _ hg)) e
      · cases e; exact hfs _ et
    · next o' _ => cases e; exact hfs _ rfl

theorem firstEvent_getD_nextWf {s t : State} {fs : List (State → Out)} (hf : ∀ f, f ∈ fs → KeepsWf f) (h : s.mem.wf = true)
    (ht : t.mem = s.mem) : NextWf ((s.firstEvent fs).getD (.next t)) := by
  cases e : s.firstEvent fs with
  | none => exact nextWf_of_mem h ht
  | some o => exact firstEvent_nextWf hf h e

theorem eventOr_nextWf {s : State} {fs : List (State → Out)} (hf : ∀ f, f ∈ fs → KeepsWf f) (h : s.mem.wf = true) :
    NextWf (s.eventOr fs) :=
  firstEvent_getD_nextWf hf h (State.turnOver_mem s)

/-! ## Events -/

theorem accessEvents_keepsWf (n : Nat) (a : Access) : ∀ f, f ∈ accessEvents n a → KeepsWf f := by
  refine List.forall_mem_append.mpr ⟨?_, ?_⟩
  · split
    · exact List.forall_mem_singleton.mpr (exec_keepsWf (.loadDataReturn a.id))
    · exact List.forall_mem_singleton.mpr (exec_keepsWf (.loadDataReturn a.id))
    · exact List.forall_mem_singleton.mpr (exec_keepsWf (.loadDataReturn a.id))
    · split
      · exact List.forall_mem_singleton.mpr (exec_keepsWf (.tokenStorePerformed a.id))
      · exact List.forall_mem_singleton.mpr (exec_keepsWf (.localStorePerformed a.id))
    · have hr : ∀ f, f ∈ [execAtomicResultReturn a.id] → KeepsWf f :=
        List.forall_mem_singleton.mpr (exec_keepsWf (.atomicResultReturn a.id))
      split
      · exact List.forall_mem_cons.mpr ⟨exec_keepsWf (.atomicApply a.id), hr⟩
      · exact List.forall_mem_cons.mpr ⟨exec_keepsWf (.localAtomicApply a.id), hr⟩
    · exact List.forall_mem_singleton.mpr (exec_keepsWf (.waitaRegister a.id))
  · split
    · exact List.forall_mem_singleton.mpr (exec_keepsWf (.remoteRequestLost n a.id))
    · exact List.forall_mem_nil _

theorem sweepEvents_keepsWf (n : Nat) (x : Nat × Nat × Nat) : ∀ f, f ∈ sweepEvents n x → KeepsWf f := by
  simp only [sweepEvents, List.forall_mem_cons]
  exact ⟨exec_keepsWf (.tokenInvalidate n x.1), exec_keepsWf (.sweepAck n x.1), exec_keepsWf (.sweepAbort n x.1),
    List.forall_mem_nil _⟩

theorem commandEnds_keepsWf (task : Nat) (m : Cmd) : ∀ f, f ∈ commandEnds task m → KeepsWf f := by
  unfold commandEnds
  split
  case h_2 =>
    exact List.forall_mem_cons.mpr ⟨next_keepsWf fun s => by split <;> rfl,
      List.forall_mem_singleton.mpr (exec_keepsWf (.mwbComplete m.id))⟩
  case h_1 => exact List.forall_mem_singleton.mpr (exec_keepsWf (.matrixComplete m.id))
  case h_3 g _ _ _ _ => exact List.forall_mem_singleton.mpr (exec_keepsWf (.collectiveComplete task g))
  iterate 4 exact List.forall_mem_singleton.mpr (exec_keepsWf (.copyComplete m.id))
  all_goals exact List.forall_mem_singleton.mpr (exec_keepsWf (.lanternComplete m.id))

theorem copyFlush_keepsWf (m : Cmd) : KeepsWf fun s => s.copyFlush m := by
  intro s h
  simp only [State.copyFlush]
  split
  · split
    · simp
    · simp [wf_storeMain, h]
  · simp [putSpace_mem, h]

theorem copyRead_keepsWf (m : Cmd) : KeepsWf fun s => s.copyRead m := by
  intro s h
  simp only [State.copyRead]
  repeat' split
  all_goals simp [h]

theorem flushEvents_keepsWf (s : State) (m : Cmd) : ∀ f, f ∈ s.flushEvents m → KeepsWf f := by
  refine List.forall_mem_append.mpr ⟨List.forall_mem_singleton.mpr (next_keepsWf fun s => State.copyHold_mem s m), ?_⟩
  split
  · exact List.forall_mem_singleton.mpr (copyFlush_keepsWf m)
  · exact List.forall_mem_nil _

theorem lanternWrites_keepsWf (c : Core) (now : Nat) : ∀ f, f ∈ c.lanternWrites now → KeepsWf f :=
  List.forall_mem_map.mpr fun _ _ => next_keepsWf fun _ => rfl

theorem copyReads_keepsWf (s : State) (at' : Option (Space × Nat) → Bool) : ∀ f, f ∈ s.copyReads at' → KeepsWf f :=
  List.forall_mem_map.mpr fun m _ => copyRead_keepsWf m

theorem chunkReads_keepsWf (s : State) : ∀ f, f ∈ s.chunkReads → KeepsWf f :=
  List.forall_mem_map.mpr fun _ _ => next_keepsWf fun _ => rfl

theorem startEvents_keepsWf : ∀ f, f ∈ startEvents → KeepsWf f :=
  List.forall_mem_map.mpr fun e _ s h => by
    split
    · exact nextWf_of_mem h rfl
    · exact exec_nextWf (.engineLaunchStart e) h

theorem missEvents_keepsWf : ∀ f, f ∈ missEvents → KeepsWf f :=
  List.forall_mem_map.mpr fun e _ => exec_keepsWf (.engineLaunchStart e)

theorem heldArrivals_keepsWf (s : State) : ∀ f, f ∈ s.heldArrivals → KeepsWf f :=
  List.forall_mem_map.mpr fun _ _ => exec_keepsWf (.barHeldArrival ..)

theorem rekeyEvents_keepsWf (s : State) : ∀ f, f ∈ s.rekeyEvents → KeepsWf f :=
  List.forall_mem_flatMap.mpr fun _ _ => List.forall_mem_map.mpr fun _ _ => exec_keepsWf (.rekeyTimeout ..)

theorem strandWrites_keepsWf (s : State) : ∀ f, f ∈ s.strandWrites → KeepsWf f := by
  refine List.forall_mem_append.mpr ⟨?_, List.forall_mem_flatMap.mpr fun a _ => accessEvents_keepsWf _ a⟩
  split
  · exact List.forall_mem_singleton.mpr (exec_keepsWf .writeExposure)
  · exact List.forall_mem_nil _

theorem engineEnds_keepsWf (s : State) : ∀ f, f ∈ s.engineEnds → KeepsWf f := by
  simp only [State.engineEnds]
  split
  · simp only [List.forall_mem_append, List.forall_mem_flatMap, List.forall_mem_map, List.forall_mem_cons]
    exact ⟨⟨⟨⟨⟨⟨fun m _ => commandEnds_keepsWf _ m, fun _ _ => next_keepsWf fun _ => rfl⟩,
      fun m _ => commandEnds_keepsWf _ m⟩, fun m _ => flushEvents_keepsWf s m⟩, lanternWrites_keepsWf _ _⟩,
      fun m _ => commandEnds_keepsWf _ m⟩, exec_keepsWf .watchInstalled, exec_keepsWf .contextSave, List.forall_mem_nil _⟩
  · exact List.forall_mem_nil _

/-! ## Inputs and firmware -/

theorem takeFirst_nextWf {s : State} (h : s.mem.wf = true) (x : Option (Nat × Instr)) : NextWf (s.takeFirst x) := by
  unfold State.takeFirst
  split
  · exact nextWf_of_mem h rfl
  · next x =>
    have h1 : ({ s with inputs := s.inputs.erase x } : State).mem.wf = true := h
    simp only
    split
    · exact exec_nextWf x.2 h1
    · exact nextWf_of_mem h rfl

theorem takeInput_keepsWf : KeepsWf State.takeInput := fun _ h => takeFirst_nextWf h _

theorem takeSwitch_keepsWf : KeepsWf State.takeSwitch := fun _ h => takeFirst_nextWf h _

theorem takeArrival_keepsWf : KeepsWf State.takeArrival := fun _ h => takeFirst_nextWf h _

theorem wf_releaseStep {s : State} (h : s.mem.wf = true) : s.releaseStep.mem.wf = true := by
  unfold State.releaseStep
  split
  · exact h
  · split
    · exact wf_after (exec_keepsWf (.jubileeSweep _)) h
    · exact h

theorem wf_firmwareSteps {s : State} (h : s.mem.wf = true) : ∀ t, t ∈ s.firmwareSteps → t.mem.wf = true := by
  have ha {f : State → Out} (hf : KeepsWf f) : (s.after f).mem.wf = true := wf_after hf h
  have hg {o : Option State} (ho : ∀ t, t ∈ o → t.mem.wf = true) : (o.getD s).mem.wf = true := wf_getD ho h
  simp only [State.firmwareSteps, List.forall_mem_append, List.forall_mem_flatMap, List.forall_mem_map,
    List.forall_mem_cons]
  refine ⟨⟨⟨⟨⟨⟨⟨⟨?_, ?_⟩, ?_⟩, ?_⟩, ?_⟩, ?_⟩, ?_⟩, ?_⟩, ?_⟩
  · exact ⟨hg fun _ => wf_watchdogStep, ha (exec_keepsWf .journalAck), ha (exec_keepsWf .takeover),
      hg fun _ => wf_acceptStep h, wf_releaseStep h, hg fun _ => wf_moveStep h,
      hg fun _ => wf_transferStep h, List.forall_mem_nil _⟩
  · exact fun p _ => ha (exec_keepsWf (.dispatchRound p.1))
  · exact fun t _ => ⟨ha (exec_keepsWf (.imageLoad t.id)), ha (exec_keepsWf (.tlimitExpiry t.id)), List.forall_mem_nil _⟩
  · exact fun k _ => ha (exec_keepsWf (.gangWithdraw k))
  · exact fun c _ => ⟨ha (exec_keepsWf (.svcTime c.phys)), ha (exec_keepsWf (.svcLog c.phys)),
      ha (exec_keepsWf (.svcLimit c.phys)), ha (exec_keepsWf (.svcUnassigned c.phys)),
      hg fun _ => wf_xlatStep h, List.forall_mem_nil _⟩
  · exact fun e _ => ⟨ha (exec_keepsWf (.sweepFree e.1)), ha (exec_keepsWf (.sealKeyRotation e.1)), List.forall_mem_nil _⟩
  · exact fun g _ => hg fun _ => wf_returnStep h
  · exact fun w _ => hg fun _ => wf_potStep h
  · intro x _
    split
    · exact hg fun _ => wf_teardownStep h
    · exact h

theorem firmwareStep_keepsWf : KeepsWf State.firmwareStep := by
  intro s h
  simp only [State.firmwareStep]
  split
  · exact nextWf_of_mem h rfl
  · split
    · next t e =>
      have ht : t.mem.wf = true := wf_firmwareSteps h t (List.mem_filter.mp (List.mem_of_getElem? e)).1
      simp [ht]
    · exact nextWf_of_mem h rfl

/-! ## The parts of the cycle -/

theorem packagePart_nextWf {s : State} (h : s.mem.wf = true) : NextWf s.packagePart := by
  refine firstEvent_getD_nextWf ?_ h (State.nextPhase_mem s)
  simp only [List.forall_mem_append, List.forall_mem_map, List.forall_mem_cons]
  exact ⟨⟨⟨⟨fun k _ => next_keepsWf fun s => State.gangDone_mem s k, takeInput_keepsWf, List.forall_mem_nil _⟩,
    fun t _ => exec_keepsWf (.equinoxRelease t.id)⟩, rekeyEvents_keepsWf s⟩,
    fun s h => (nextWf_next _).mpr (wf_getD (fun _ => wf_replyStep h) h), firmwareStep_keepsWf,
    List.forall_mem_nil _⟩

theorem ownPart_nextWf {s : State} (h : s.mem.wf = true) : NextWf s.ownPart := by
  refine eventOr_nextWf ?_ h
  split
  · exact strandWrites_keepsWf s
  · exact engineEnds_keepsWf s

theorem accessPart_nextWf {s : State} (h : s.mem.wf = true) : NextWf s.accessPart := by
  refine eventOr_nextWf ?_ h
  simp only [List.forall_mem_append, List.forall_mem_flatMap]
  refine ⟨⟨fun a _ => accessEvents_keepsWf _ a, ?_⟩, ?_⟩
  · split
    · exact List.forall_mem_append.mpr ⟨copyReads_keepsWf s _,
        List.forall_mem_flatMap.mpr fun m _ => flushEvents_keepsWf s m⟩
    · exact List.forall_mem_nil _
  · split
    · exact List.forall_mem_cons.mpr ⟨exec_keepsWf .tfcMissFill,
        List.forall_mem_flatMap.mpr fun x _ => sweepEvents_keepsWf _ x⟩
    · exact List.forall_mem_nil _

theorem inboundPart_nextWf {s : State} (h : s.mem.wf = true) : NextWf s.inboundPart := by
  refine firstEvent_getD_nextWf ?_ h (State.nextPhase_mem s)
  simp only [List.forall_mem_append, List.forall_mem_flatMap, List.forall_mem_map, List.forall_mem_singleton]
  exact ⟨fun d _ e _ => exec_keepsWf (.exportedStoreApply e.src d), takeArrival_keepsWf⟩

theorem dequeuePart_nextWf {s : State} (h : s.mem.wf = true) : NextWf s.dequeuePart := by
  unfold State.dequeuePart
  split
  · simp only [State.takeWord]
    split
    · exact exec_nextWf _ h
    · exact exec_nextWf (.reservedEngineWord _) h
  · split <;> simp [h]

theorem startPart_nextWf {s : State} (h : s.mem.wf = true) : NextWf s.startPart := by
  unfold State.startPart
  split
  · simp [h]
  · refine eventOr_nextWf ?_ h
    simp only [List.forall_mem_append]
    refine ⟨⟨⟨chunkReads_keepsWf s, startEvents_keepsWf⟩, lanternWrites_keepsWf _ _⟩, ?_⟩
    split
    · exact List.forall_mem_nil _
    · exact missEvents_keepsWf

theorem issue_nextWf {s : State} (h : s.mem.wf = true) (w : BitVec 32) : NextWf (s.issue w) := by
  unfold State.issue
  split
  · exact exec_nextWf _ h
  · exact exec_nextWf (.reservedEncoding w) h

theorem fetch_nextWf {s : State} (h : s.mem.wf = true) : NextWf s.fetch := by
  simp only [State.fetch]
  split
  · simp [h]
  · split
    · simp [h]
    · split
      · split
        · exact issue_nextWf (s := s.mod _) h _
        · simp [h]
      · split
        · simp [h]
        · exact issue_nextWf (s := (s.mod _).mod _) h _

theorem issuePart_nextWf {s : State} (h : s.mem.wf = true) : NextWf s.issuePart := by
  simp only [State.issuePart]
  split
  · simp [h]
  · split
    · simp [h]
    · split
      · exact exec_nextWf .deferredReportDelivery h
      · split
        · exact exec_nextWf _ h
        · exact fetch_nextWf h

theorem strandPart_nextWf {s : State} (h : s.mem.wf = true) : NextWf s.strandPart := by
  simp only [State.strandPart]
  split
  · simp [h]
  · split
    · simp [h]
    · split
      · simp [h]
      · split
        · simp [h]
        · exact issuePart_nextWf h

theorem enginePart_nextWf {s : State} (h : s.mem.wf = true) : NextWf s.enginePart := by
  refine eventOr_nextWf ?_ h
  refine List.forall_mem_append.mpr ⟨?_, heldArrivals_keepsWf s⟩
  split
  · simp only [List.forall_mem_append, List.forall_mem_map, List.forall_mem_singleton]
    exact ⟨⟨⟨⟨⟨⟨copyReads_keepsWf s _, fun _ _ => next_keepsWf fun _ => rfl⟩, chunkReads_keepsWf s⟩, startEvents_keepsWf⟩,
      missEvents_keepsWf⟩, lanternWrites_keepsWf _ _⟩, exec_keepsWf .waitaTimeout⟩
  · exact List.forall_mem_nil _

theorem windowRead_keepsWf : KeepsWf State.windowRead := by
  intro s h
  simp only [State.windowRead]
  repeat' split
  all_goals simp [h, mem_foldl]

theorem windowPart_nextWf {s : State} (h : s.mem.wf = true) : NextWf s.windowPart := by
  refine eventOr_nextWf ?_ h
  simp only [List.forall_mem_append, List.forall_mem_flatMap, List.forall_mem_cons]
  refine ⟨fun a _ => accessEvents_keepsWf _ a, windowRead_keepsWf, ?_⟩
  split
  · exact copyReads_keepsWf s _
  · exact List.forall_mem_nil _

theorem tick_mem (s : State) : s.tick.mem = s.mem := by
  simp only [State.tick, State.stopCores_mem, State.slew_mem, State.modAll_mem]
  rw [mem_foldl _ State.tellWait_mem, mem_foldl _ State.sample_mem]
  exact State.inOrder_mem s

theorem step_nextWf {s : State} (h : s.mem.wf = true) : NextWf (step s) := by
  unfold step State.cycle
  split
  · exact packagePart_nextWf h
  · exact ownPart_nextWf h
  · exact accessPart_nextWf h
  · exact inboundPart_nextWf h
  · exact dequeuePart_nextWf h
  · exact startPart_nextWf h
  · exact strandPart_nextWf h
  · exact enginePart_nextWf h
  · exact windowPart_nextWf h
  · exact firstEvent_getD_nextWf (List.forall_mem_singleton.mpr takeSwitch_keepsWf) h (tick_mem s)

/-- Settles O60: each part of the cycle keeps the form, since every event it can take does. -/
theorem stepKeepsMemory : Obligations.StepKeepsMemory := fun _ _ h e => step_nextWf h _ e

end Sys2Proof.Machine
end

section
/-! SUPPORT. When the events of loads and token atomics go ahead (05 R90, 11 R240, 06 R114). -/

namespace Sys2Proof.Machine

/-- A load at the head of what orders it, on a cycle with its port free. -/
structure LoadReady (s : State) (id : Nat) (a : Access) : Prop where
  id_eq : a.id = id
  found : s.core.access? id = some a
  sent : s.bind a = none
  ready : s.ready a = true
  port : s.portFree a = true

/-- A token atomic in package memory that is ready for its serialisation point. -/
structure AtomicReady (s : State) (id : Nat) (a : Access) (op : BitVec 4) (n t x : Nat) : Prop where
  kind : a.kind = .atomic op n t x
  id_eq : a.id = id
  found : s.core.access? id = some a
  space : a.space = .main
  stage : a.stage = .waiting
  parts : a.parts = []
  reads : a.reads = [(a.place.1, a.n)]
  ready : s.ready a = true
  decoded : a.place.1 + a.n ≤ Config.mainMemoryEnd
  good : s.poisonIn .main a.place.1 a.place.2 = false
  macGood : s.macBad .main a.place.1 a.place.2 = false

end Sys2Proof.Machine
end

section
/-! SUPPORT. What an atomic makes of the old value, T and x (06 R119, R121, R129). -/

namespace Sys2Proof.Machine

variable (n old t x : Nat)

/-- The value of n bytes in two's complement. -/
theorem signed_bytes (hn : 0 < n) (y : Nat) : signed (8 * n) y = (BitVec.ofNat (8 * n) y).toInt :=
  signed_eq_toInt y (by omega)

theorem amoNew_add : amoNew 0 n old t x = (old + x) % 2 ^ (8 * n) := rfl
theorem amoNew_and : amoNew 1 n old t x = Nat.land old x := rfl
theorem amoNew_or : amoNew 2 n old t x = Nat.lor old x := rfl
theorem amoNew_xor : amoNew 3 n old t x = Nat.xor old x := rfl
theorem amoNew_min : amoNew 4 n old t x = if signed (8 * n) x < signed (8 * n) old then x else old := by simp [amoNew]
theorem amoNew_max : amoNew 5 n old t x = if signed (8 * n) old < signed (8 * n) x then x else old := by simp [amoNew]
theorem amoNew_minu : amoNew 6 n old t x = min old x := by
  have h : amoNew 6 n old t x = if x < old then x else old := by simp [amoNew]
  rw [h]; split_ifs <;> omega
theorem amoNew_maxu : amoNew 7 n old t x = max old x := by
  have h : amoNew 7 n old t x = if old < x then x else old := by simp [amoNew]
  rw [h]; split_ifs <;> omega
theorem amoNew_swap : amoNew 8 n old t x = x := rfl
theorem amoNew_cas : amoNew 9 n old t x = if old = t then x else old := rfl
theorem amoNew_fadd : amoNew 10 n old t x = (toF32 .rne ((f32 (BitVec.ofNat 32 old)).add (f32 (BitVec.ofNat 32 x)))).toNat := rfl
theorem amoNew_addt : amoNew 11 n old t x = (old + x) % 2 ^ (8 * n) := rfl

theorem amoWrites_eq_false_iff (op : BitVec 4) : amoWrites op old t = false ↔ op = 9 ∧ old ≠ t := by
  simp [amoWrites]

theorem amoCrosses_iff (y : Nat) : amoCrosses n old y t = true ↔
    (signed (8 * n) old < signed (8 * n) t ∧ signed (8 * n) t ≤ signed (8 * n) y) ∨
      (signed (8 * n) y ≤ signed (8 * n) t ∧ signed (8 * n) t < signed (8 * n) old) := by
  simp [amoCrosses]

/-- Settles O38: one equation of `amoNew` per operation, and what the signed comparisons of the least and greatest choose. -/
theorem atomicValues : Obligations.AtomicValues := by
  intro n old t x hn _ _ _ v new
  have hpos : 0 < n := by omega
  have hv (y : Nat) : v y = signed (8 * n) y := (signed_bytes n hpos y).symm
  have hmin : new 4 = if v x < v old then x else old := by simp only [hv]; exact amoNew_min ..
  have hmax : new 5 = if v old < v x then x else old := by simp only [hv]; exact amoNew_max ..
  have least : (new 4 = old ∨ new 4 = x) ∧ v (new 4) ≤ v old ∧ v (new 4) ≤ v x := by
    rw [hmin]; split_ifs with h
    · exact ⟨.inr rfl, h.le, le_rfl⟩
    · exact ⟨.inl rfl, le_rfl, not_lt.mp h⟩
  have greatest : (new 5 = old ∨ new 5 = x) ∧ v old ≤ v (new 5) ∧ v x ≤ v (new 5) := by
    rw [hmax]; split_ifs with h
    · exact ⟨.inr rfl, h.le, le_rfl⟩
    · exact ⟨.inl rfl, le_rfl, not_lt.mp h⟩
  obtain ⟨hmem, hle, hle'⟩ := least
  obtain ⟨gmem, gle, gle'⟩ := greatest
  refine ⟨amoNew_add .., amoNew_and .., amoNew_or .., amoNew_xor .., hmem, hle, hle', gmem, gle, gle', amoNew_minu ..,
    amoNew_maxu .., amoNew_swap .., amoNew_cas .., fun _ => amoNew_fadd .., amoNew_addt .., fun op _ => amoWrites_eq_false_iff .., fun y _ => ?_⟩
  simp only [hv]
  exact amoCrosses_iff ..

end Sys2Proof.Machine
end

section
/-! SUPPORT. Atomics and `waita` at issue (06 R114-R120, R125, R130). -/

namespace Sys2Proof.Machine

/-! ## An atomic that passes is issued -/

/-- The access `a` has been issued between two states, and nothing else is left: `Issued` where no watchpoint leaves a trace. -/
def IssuedAlone (s : State) (a : Access) (u : State) : Prop :=
  u.core.acc = s.core.acc ++ [{ a with id := s.core.accNext, issued := s.now, due := s.dueCycle, way := s.waysFor a }] ∧
    s.now < s.dueCycle ∧ { u.core.still with acc := s.core.acc, accNext := s.core.accNext } = s.core.still ∧
    OutsideFree s u ∧ BytesKept s u

theorem issuedAlone_of_issued {s u : State} {a : Access} (h : Issued s a u) (hw : u.core.watchNow = s.core.watchNow) :
    IssuedAlone s a u ∧ Retires s u := by
  obtain ⟨hacc, hdue, hstill, hout, hbytes, hret⟩ := h
  rw [← hw] at hstill
  exact ⟨⟨hacc, hdue, hstill, hout, hbytes⟩, hret⟩

/-- A token atomic whose access passes is issued with its operation and operands, and retires (R119, R120, R125). -/
theorem amoForm_issues {i : Instr} {op d y : BitVec 4} {p : BitVec 3} {o : BitVec 2} {s : State} {x : TokenAccess}
    (he : exec i s = amoForm i op d y p o s) (hx : s.core.tokenAccess i = some x)
    (hok : s.checkRights x.tok x.off x.n x.need = .ok) :
    let e := s.entry x.tok.index.toNat
    let kind := AccKind.atomic op d.toNat ((s.core.rn d).toNat % 2 ^ (8 * x.n)) ((s.core.rn y).toNat % 2 ^ (8 * x.n))
    Completes i s fun u => IssuedAlone s { Access.make kind e.space x.n o p x.va with
      reads := e.loadRanges x.va x.n, index := some x.tok.index.toNat } u ∧ Retires s u := by
  intro e kind hgo
  obtain ⟨u, hu, hwatch, hissued⟩ := tokenLoad_completes (kind := kind) (o := o) (p := p) he hx rfl hok hgo
  exact ⟨u, hu, issuedAlone_of_issued hissued hwatch⟩

/-- A local atomic whose access passes is issued with its operation and operands, and retires (R116, R120). -/
theorem lamoForm_issues {i : Instr} {op d y : BitVec 4} {o : BitVec 2} {s : State} {x : LocalAccess} {r : Region}
    (he : exec i s = lamoForm i op d y o s) (hx : s.core.localAccess i = some x)
    (hr : s.core.local? x.addr x.n x.store = some r) :
    let q := s.core.spaceOf r x.addr.toNat
    let kind := AccKind.atomic op d.toNat ((s.core.rn d).toNat % 2 ^ (8 * x.n)) ((s.core.rn y).toNat % 2 ^ (8 * x.n))
    Completes i s fun u => IssuedAlone s { Access.make kind q.1 x.n o 0 x.addr.toNat with reads := pieces q.2 x.n } u ∧ Retires s u := by
  intro q kind
  refine completes_localForm he hx hr ?_
  obtain ⟨hissued, hwatch⟩ := issued_localFetch s kind r x.addr.toNat x.n o
  exact issuedAlone_of_issued hissued hwatch

/-! ## waita (R130) -/

/-- Issuing an access and waiting for it moves the wait and the access alone. -/
theorem issuedAlone_stallFor (s : State) (a : Access) (w : Waiting) (reason : BitVec 8) :
    let u := State.stallFor ((s.issueAccess a).mod fun c => { c with waiting := w }) reason
    IssuedAlone s a u ∧ u.core.waiting = w ∧ u.core.pc = s.core.pc ∧ u.core.vigil = s.core.vigil := by
  intro u
  have hu : OnlyWaits w (s.issueAccess a) u := onlyWaits_stallFor (s.issueAccess a) w (s.fv + 1) reason
  obtain ⟨hwait, hstill, hpc, hvigil, -, hbytes⟩ := hu
  have hacc : u.core.still.acc = (s.issueAccess a).core.still.acc := by rw [hstill]
  have hfree : OutsideFree s u := ((outsideFree_issueAccess s a).mod _).mod _
  refine ⟨⟨hacc, s.now_lt_dueCycle, ?_, hfree, (bytesKept_issueAccess s a).trans hbytes⟩, hwait, hpc, hvigil⟩
  rw [hstill, still_issueAccess]
  rfl

theorem waita_registers {s : State} {z : BitVec 1} {d k b x : BitVec 4} {p : BitVec 3} (hw : s.core.waiting = .none)
    (hok : s.checkRights (s.core.rk k) (s.core.rn b).toNat (amoSize z) 1 = .ok) :
    exec (.waita z d k b x p) s = withGate (.waita z d k b x p) s fun s =>
      State.stallFor ((s.tokenFetch (.waita d.toNat ((s.core.rn x).toNat % 2 ^ (8 * amoSize z)))
        ⟨s.core.rk k, (s.core.rn b).toNat, amoSize z, 1, true⟩ 0 p).mod fun c =>
          { c with waiting := .waita (c.accNext - 1) none }) 12 := by
  rw [exec_waita, execWaita]
  exact withGate_congr (by simp only [hw, Core.tokenAccess, hok])

theorem putBc_rs (c : Core) (b : Bool) (now : Nat) (r : BitVec 5) : (c.putBc b now).rs r = c.rs r := rfl

/-- A scalar register and BC written as the instruction retires. -/
theorem onlyScalarBc_put (s : State) (d : BitVec 5) (x : Word) (b : Bool) (t : Nat) :
    let u := retireWith s fun c => (c.put d x t 1).putBc b t
    u.core.rs d = (if d = 0 then 0 else x) ∧ u.core.bc = b ∧ OnlyScalarBc d s u := by
  intro u
  have hk : Keeps s.core ((s.core.put d x t 1).putBc b t) := (keeps_put ..).trans (keeps_putBc ..)
  refine ⟨?_, ?_, fun q hq => ?_, ?_, rfl, bytes_of hk, retires_of hk⟩
  · rw [retireWith_core, Core.retire_rs, putBc_rs, put_rs]
  · rw [retireWith_core, Core.retire_bc]; rfl
  · rw [retireWith_core, Core.retire_rs, putBc_rs, put_rs_ne _ _ _ _ _ _ hq]
  · rw [retireWith_core, Core.still_retire, still_putBc, still_put]; rfl

/-- A `waita` whose wait has ended writes the value and BC, and leaves its wait record (R130, R398). -/
theorem waita_ends {s : State} {z : BitVec 1} {d k b x : BitVec 4} {p : BitVec 3} {id : Nat} {w : WaitEnd}
    (hw : s.core.waiting = .waita id (some w)) :
    exec (.waita z d k b x p) s = withGate (.waita z d k b x p) s fun s => s.endWaita (.waita z d k b x p) d w := by
  rw [exec_waita, execWaita]
  exact withGate_congr (by simp only [hw])

theorem setWidth5_eq_zero (d : BitVec 4) : d.setWidth 5 = 0 ↔ d = 0 := by
  revert d; decide

/-- Settles O37: every token atomic is one form, every local atomic another, and `waita` begins its wait or ends it. -/
theorem atomicsIssued : Obligations.AtomicsIssued := by
  intro z d k b x a i p o r s c issued kind t e off va token scr m
  have hamo {y : Instr} {op : BitVec 4} {n : Nat} (he : exec y s = amoForm y op d x p o s)
      (hx : c.tokenAccess y = some ⟨t, off, n, 3, true⟩) : token y op n := fun hok => amoForm_issues he hx hok
  have hlamo {y : Instr} {op : BitVec 4} {n : Nat} (he : exec y s = lamoForm y op d x o s)
      (hx : c.localAccess y = some ⟨c.rn a + BitVec.ofNat 64 (i.toNat * n), n, true, true⟩) : scr y op n :=
    fun hr => lamoForm_issues he hx hr
  refine ⟨hamo (exec_amoAdd ..) rfl, hamo (exec_amoAnd ..) rfl, hamo (exec_amoOr ..) rfl, hamo (exec_amoXor ..) rfl,
    hamo (exec_amoMin ..) rfl, hamo (exec_amoMax ..) rfl, hamo (exec_amoMinu ..) rfl, hamo (exec_amoMaxu ..) rfl,
    hamo (exec_amoSwap ..) rfl, hamo (exec_amoCas ..) rfl, hamo (exec_amoFadd ..) rfl, hamo (exec_amoAddt ..) rfl,
    hlamo (exec_lamoAdd ..) rfl, hlamo (exec_lamoAnd ..) rfl, hlamo (exec_lamoOr ..) rfl, hlamo (exec_lamoXor ..) rfl,
    hlamo (exec_lamoMin ..) rfl, hlamo (exec_lamoMax ..) rfl, hlamo (exec_lamoMinu ..) rfl, hlamo (exec_lamoMaxu ..) rfl,
    hlamo (exec_lamoSwap ..) rfl, hlamo (exec_lamoCas ..) rfl, hlamo (exec_lamoFadd ..) rfl, fun hw hok hgo => ?_, fun id w hw hgo => ?_⟩
  · refine ⟨_, (waita_registers hw hok).trans (withGate_go hgo), ?_⟩
    exact issuedAlone_stallFor s _ (.waita c.accNext none) 12
  · refine ⟨_, (waita_ends hw).trans (withGate_go hgo), ?_⟩
    obtain ⟨hd, hbc, honly⟩ :=
      onlyScalarBc_put (s.logWait c (.waita z d k b x p) w.ended w.setter) (d.setWidth 5) w.value w.bc s.now
    exact ⟨hd.trans (if_congr (setWidth5_eq_zero d) rfl rfl), hbc, honly⟩

end Sys2Proof.Machine
end

section
/-! SUPPORT. The ports (17 R366, R369, R371, 06 R127): what each event makes of its port, and that it changes nothing else. -/

namespace Sys2Proof.Machine

/-! ## One port of sixteen -/

theorem ports_modPort {s : State} {port : Nat} {x : Port} (hx : s.ports[port]? = some x) (f : Port → Port) :
    (s.modPort port f).ports[port]? = some (f x) := by
  obtain ⟨hp, rfl⟩ := Vector.getElem?_eq_some_iff.mp hx
  simp [State.modPort, hp]

theorem ports_modPort_ne (s : State) {port j : Nat} (f : Port → Port) (h : j ≠ port) :
    (s.modPort port f).ports[j]? = s.ports[j]? := by
  unfold State.modPort
  split_ifs
  · simp [Ne.symm h]
  · rfl

theorem modPort_onlyPorts (s : State) (port : Nat) (f : Port → Port) : { s.modPort port f with ports := s.ports } = s := by
  unfold State.modPort; split_ifs <;> rfl

/-- The event makes the port `y` and changes nothing else. -/
def PortBecomes (s : State) (port : Nat) (i : Instr) (y : Port) : Prop :=
  ∃ u, exec i s = .next u ∧ u.ports[port]? = some y ∧ (∀ j, j ≠ port → u.ports[j]? = s.ports[j]?) ∧
    { u with ports := s.ports } = s

theorem portBecomes_of {s : State} {port : Nat} {x y : Port} {i : Instr} {f : Port → Port} (hx : s.ports[port]? = some x)
    (he : exec i s = .next (s.modPort port f)) (hf : f x = y) : PortBecomes s port i y :=
  ⟨_, he, hf ▸ ports_modPort hx f, fun _ h => ports_modPort_ne s f h, modPort_onlyPorts s port f⟩

/-! ## Training and keys (R366, R369, R371) -/

section
variable {s : State} {port : Nat} {x : Port} {dir : LinkDir} (hx : s.ports[port]? = some x)
include hx

theorem trainingStart_trains (hdown : (x.link dir).state = .down) (hboot : s.boot = .running) :
    PortBecomes s port (.axtosTrainingStart ⟨port, dir⟩) (x.setLink dir { x.link dir with state := .training }) :=
  portBecomes_of hx rfl (if_pos ⟨hboot, hdown⟩)

theorem trainingDone_keys (htrains : (x.link dir).state = .training) (ok : Bool) :
    PortBecomes s port (.axtosTrainingDone ⟨port, dir⟩ ok)
      (x.setLink dir { x.link dir with state := if ok then .keying else .down }) :=
  portBecomes_of hx rfl (if_pos htrains)

theorem spdmSession_port (hkeying : x.tx.state = .keying ∨ x.rx.state = .keying) (ok : Bool) (m : Nat) :
    PortBecomes s port (.spdmSession (.port port) ok m) (if ok then { x with session := 1 } else x.drop s.now) :=
  portBecomes_of hx rfl (if_pos hkeying)

theorem keysInstalled_keys (hkeying : (x.link dir).state = .keying) (hsession : x.session ≠ 0) :
    PortBecomes s port (.axtosKeysInstalled ⟨port, dir⟩) { x.newKey dir 0 with failures := 0 } :=
  portBecomes_of hx rfl (if_pos ⟨hkeying, hsession⟩)

theorem rekeyTimeout_drops {since : Nat} (hsince : (x.link dir).rekeySince = some since) (hlate : since + 4000000 ≤ s.now) :
    PortBecomes s port (.rekeyTimeout ⟨port, dir⟩) (x.drop s.now) := by
  refine portBecomes_of hx rfl ?_
  simp only [hsince]
  exact if_pos hlate

theorem rekeyComplete_keys (hup : (x.link dir).state = .up) (hrekey : (x.link dir).rekeySince ≠ none) :
    PortBecomes s port (.rekeyComplete ⟨port, dir⟩) (x.newKey dir ((x.link dir).rekey + 1)) :=
  portBecomes_of hx rfl (if_pos ⟨hup, Option.isSome_iff_ne_none.mpr hrekey⟩)

theorem linkRetry_resends (fs : BitVec 16) :
    PortBecomes s port (.linkRetry port fs) { x with retry := x.retry.dropWhile fun y => y.1 ≠ fs } :=
  portBecomes_of hx rfl rfl

end

theorem Port.goes_iff {x : Port} : x.goes = true ↔ x.tx.state = .up ∧ x.rx.state = .up := by
  simp [Port.goes]

/-- The port that has gone DOWN both ways (R369). -/
theorem Port.drop_eq (x : Port) (now : Nat) : x.drop now = { x with
    tx := { x.tx with state := .down, rekeySince := none }, rx := { x.rx with state := .down, rekeySince := none }
    downSince := if x.tx.state = .up ∧ x.rx.state = .up then now else x.downSince, session := 0, failures := 0, retryFrom := none } := by
  simp only [Port.drop, Port.goes_iff]

/-! ## Flits received (R369) -/

section
variable {x : Port} (seq : BitVec 16) (sealed : FlitSeal) (note : Option LinkNote) (now : Nat)
  (hup : x.rx.state = .up) (hkeyed : x.rx.rekeySince = none)
include hup hkeyed

theorem Port.receive_damaged : x.receive seq sealed false note now = { x with retryFrom := some x.rx.seq } := by
  simp [Port.receive, hup, hkeyed]

theorem Port.receive_expected : x.receive x.rx.seq sealed true note now = x.take sealed now note := by
  simp [Port.receive, hup, hkeyed]

theorem Port.receive_again (h : 1 ≤ (x.rx.seq - seq).toNat) (h' : (x.rx.seq - seq).toNat ≤ 512) :
    x.receive seq sealed true note now = x := by
  have h0 : (x.rx.seq - seq).toNat ≠ 0 := by omega
  simp only [Port.receive, hup, hkeyed, h0, h']; rfl

theorem Port.receive_ahead (h : 512 < (x.rx.seq - seq).toNat) :
    x.receive seq sealed true note now = { x with retryFrom := some x.rx.seq } := by
  have h0 : (x.rx.seq - seq).toNat ≠ 0 := by omega
  have h1 : ¬(x.rx.seq - seq).toNat ≤ 512 := by omega
  simp only [Port.receive, hup, hkeyed, h0, h1]; rfl

end

/-- The port with the flit it expected accepted. -/
def Port.accepted (x : Port) : Port :=
  { x with
    rx := { x.rx with ctr := x.rx.ctr + 1, seq := x.rx.seq + 1 }, delivered := x.delivered ++ [x.rx.seq], failures := 0
    retryFrom := none }

theorem Port.take_sealed (x : Port) (now : Nat) (note : Option LinkNote) :
    x.take ⟨x.rx.rekey, x.rx.ctr⟩ now note = x.accepted.heed note now := if_pos ⟨rfl, rfl⟩

/-- A tag failure: the third in a row takes the port DOWN, another asks for a rekey. -/
theorem Port.take_unsealed (x : Port) {key ctr : Nat} (now : Nat) (note : Option LinkNote) (h : key ≠ x.rx.rekey ∨ ctr ≠ x.rx.ctr) :
    x.take ⟨key, ctr⟩ now note = if x.failures = 2 then x.drop now
      else { x with failures := x.failures + 1, rx := { x.rx with rekeySince := some now } } := by
  have hbad : ¬(key = x.rx.rekey ∧ ctr = x.rx.ctr) := fun ⟨hk, hc⟩ => h.elim (· hk) (· hc)
  have hthird : x.failures + 1 = 3 ↔ x.failures = 2 := by omega
  rw [Port.take, if_neg hbad]
  exact if_congr hthird rfl rfl

/-! ## Acknowledgements of this package's requests (R127) -/

/-- A 16-bit number that names a request sent and not yet acknowledged covers all up to it. -/
theorem Port.covered_eq {x : Port} {dest seq y : Nat} (hlow : (mapGet x.acked dest).getD 0 ≤ y)
    (hsent : y < (mapGet x.nextSeq dest).getD 0) (hwin : y < (mapGet x.acked dest).getD 0 + 65535) (hseq : y % 65536 = seq % 65536) :
    x.covered dest seq = y + 1 := by
  have hb : (mapGet x.acked dest).getD 0 + (seq + 1 + 65536 - (mapGet x.acked dest).getD 0 % 65536) % 65536 = y + 1 := by omega
  simp only [Port.covered, hb]
  exact if_pos hsent

theorem ack_covers {s : State} {port dest seq y : Nat} {x : Port} (hx : s.ports[port]? = some x)
    (hlow : (mapGet x.acked dest).getD 0 ≤ y) (hsent : y < (mapGet x.nextSeq dest).getD 0)
    (hwin : y < (mapGet x.acked dest).getD 0 + 65535) (hseq : y % 65536 = seq % 65536) :
    PortBecomes s port (.cumulativeAcknowledgement Config.packageNumber port dest seq)
      { x with acked := mapSet x.acked dest (y + 1) } := by
  have he : exec (.cumulativeAcknowledgement Config.packageNumber port dest seq) s =
      .next (s.modPort port fun p => { p with acked := mapSet p.acked dest (p.covered dest seq) }) := if_pos rfl
  exact portBecomes_of hx he (by rw [Port.covered_eq hlow hsent hwin hseq])

theorem ack_elsewhere {s : State} {pkg port dest seq : Nat} (h : pkg ≠ Config.packageNumber) :
    exec (.cumulativeAcknowledgement pkg port dest seq) s = .next { s with
      filter := s.filter.filter fun y => !(y.pkg == pkg && y.port == port &&
        decide ((seq % 65536 + 65536 - y.seq % 65536) % 65536 < 32768)) } := if_neg h

/-! ## A request that travels again (R127) -/

/-- The request of a port's number for a package, as a core holds it. -/
def sentAs (port dest seq : Nat) (y : Access) : Bool :=
  y.space == .lent dest && (y.port == some (port, seq) || y.port2 == some (port, seq))

theorem sentAs_iff {port dest seq : Nat} {y : Access} : sentAs port dest seq y = true ↔
    y.space = .lent dest ∧ (y.port = some (port, seq) ∨ y.port2 = some (port, seq)) := by simp [sentAs]

/-- The request travels again until a later cycle. -/
def resent (port dest seq due : Nat) (y : Access) : Access :=
  if y.space = .lent dest ∧ (y.port = some (port, seq) ∨ y.port2 = some (port, seq)) then { y with due := max y.due due } else y

theorem remoteRetransmit_travels {s : State} {port dest seq : Nat} {x : Port} (hx : s.ports[port]? = some x)
    (hroom : s.flitRoom port = true)
    (hmine : ∃ c y, c ∈ s.cores ∧ y ∈ c.acc ∧ y.space = .lent dest ∧ (y.port = some (port, seq) ∨ y.port2 = some (port, seq))) :
    ∃ u, exec (.remoteRetransmit port dest seq) s = .next u ∧
      u.cores = s.cores.map (fun c => { c with acc := c.acc.map (resent port dest seq s.dueCycle) }) ∧
      u.ports[port]? = some x.flit ∧ { u with core := s.core, others := s.others, fv := s.fv, ports := s.ports } = s := by
  have hany : (s.cores.any fun c => c.acc.any (sentAs port dest seq)) = true := by
    obtain ⟨c, y, hc, hy, hsent⟩ := hmine
    exact List.any_eq_true.mpr ⟨c, hc, List.any_eq_true.mpr ⟨y, hy, sentAs_iff.mpr hsent⟩⟩
  have hresent : (fun y => if sentAs port dest seq y then { y with due := max y.due s.dueCycle } else y) =
      resent port dest seq s.dueCycle := by
    funext y; exact if_congr sentAs_iff rfl rfl
  have he : exec (.remoteRetransmit port dest seq) s = .next { (s.modPort port Port.flit).modAll (fun c =>
      { c with acc := c.acc.map (resent port dest seq s.dueCycle) }) with fv := s.fv + 1 } := by
    rw [← hresent]; exact if_pos ⟨hroom, hany⟩
  obtain ⟨hp, -⟩ := Vector.getElem?_eq_some_iff.mp hx
  refine ⟨_, he, ?_, ports_modPort hx Port.flit, ?_⟩
  · rw [State.modPort, dif_pos hp]; rfl
  · rw [State.modPort, dif_pos hp]; rfl

end Sys2Proof.Machine
end

section
/-! SUPPORT. Requests of other packages (06 R127, R130, 17 R366-R368): what answers one, and what is kept of the answer. -/

namespace Sys2Proof.Machine

/-! ## What a write of main memory leaves alone -/

/-- Between two states only what a write of main memory moves may differ: the bytes, their places, the dies' views and what is on
its way to them, the integrity tree, the counts of free values and of the order. -/
def OnlyWritten (s u : State) : Prop :=
  { u with mem := s.mem, marks := s.marks, floor := s.floor, dies := s.dies, seq := s.seq, fv := s.fv, writeCtr := s.writeCtr
           treeCtr := s.treeCtr, treeRoot := s.treeRoot, lineMac := s.lineMac, nodeMac := s.nodeMac } = s

theorem OnlyWritten.trans {s t u : State} (h : OnlyWritten s t) (k : OnlyWritten t u) : OnlyWritten s u := by
  have := congrArg (fun v : State => { v with
    mem := s.mem, marks := s.marks, floor := s.floor, dies := s.dies, seq := s.seq, fv := s.fv, writeCtr := s.writeCtr
    treeCtr := s.treeCtr, treeRoot := s.treeRoot, lineMac := s.lineMac, nodeMac := s.nodeMac }) k
  exact this.trans h

theorem OnlyTree.onlyWritten {s u : State} (h : OnlyTree s u) : OnlyWritten s u := by
  have := congrArg (fun v : State => { v with
    mem := s.mem, marks := s.marks, floor := s.floor, dies := s.dies, seq := s.seq, fv := s.fv }) h
  exact this

theorem OnlyDies.onlyWritten {s u : State} (h : OnlyDies s u) : OnlyWritten s u := by
  have := congrArg (fun v : State => { v with
    mem := s.mem, marks := s.marks, floor := s.floor, seq := s.seq, fv := s.fv, writeCtr := s.writeCtr
    treeCtr := s.treeCtr, treeRoot := s.treeRoot, lineMac := s.lineMac, nodeMac := s.nodeMac }) h
  exact this

theorem performMarked_onlyWritten (s : State) (d : Nat) (cells : List (Nat × Byte × Mark)) :
    OnlyWritten s (s.performMarked d cells) := (performedDies_onlyDies s d cells).onlyWritten

theorem storeMain_onlyWritten (s : State) (d : Nat) (cells : List Host.Cell) : OnlyWritten s (s.storeMain d cells) := by
  have hdrawn : OnlyWritten s s.drawn := rfl
  exact (hdrawn.trans (performMarked_onlyWritten s.drawn d (s.placed d cells))).trans storeMain_onlyTree.onlyWritten

/-- The cells at the memory-side cache, before the lines' counters rise. -/
def State.mscPlaced (s : State) (cells : List (Nat × Byte × Mark)) : State :=
  { s with mem := (cells.foldl putMarked (s.mem, s.marks)).1, marks := (cells.foldl putMarked (s.mem, s.marks)).2, seq := s.seq + 1
           floor := cells.foldl (fun f c => mapSet f c.1 c.2.2.stamp) s.floor }

theorem mscWrite_eq (s : State) (cells : List (Nat × Byte × Mark)) :
    s.mscWrite cells = (s.mscPlaced cells).countLines (cells.map (·.1)) := rfl

theorem mscWrite_onlyWritten (s : State) (cells : List (Nat × Byte × Mark)) : OnlyWritten s (s.mscWrite cells) := by
  have hplaced : OnlyWritten s (s.mscPlaced cells) := rfl
  exact hplaced.trans (countLines_onlyTree ..).onlyWritten

theorem remoteWrite_onlyWritten (s : State) (r : RemoteRequest) (x : Nat) : OnlyWritten s (s.remoteWrite r x) := by
  unfold State.remoteWrite
  cases r.die with
  | some d => exact storeMain_onlyWritten ..
  | none =>
    let cells := s.mscCells (s.remoteDie r) (cellsAt r.addr (natToBytes r.size x))
    have hdrawn : OnlyWritten (s.mscWrite cells) { s.mscWrite cells with fv := s.fv + 1 } := rfl
    exact ((mscWrite_onlyWritten s cells).trans hdrawn).trans (performMarked_onlyWritten _ _ cells)

theorem OnlyWritten.outbox {s u : State} (h : OnlyWritten s u) : u.outbox = s.outbox := by
  have := congrArg State.outbox h; exact this

theorem OnlyWritten.filter {s u : State} (h : OnlyWritten s u) : u.filter = s.filter := by
  have := congrArg State.filter h; exact this

/-! ## Requests that are not applied (R127, R366, R368) -/

theorem RemoteOp.reads_iff {op : RemoteOp} : Sys2Proof.Machine.RemoteOp.reads op = true ↔
    (∀ v, op ≠ .store v) ∧ ∀ v, op ≠ .withdraw v := by
  cases op <;> simp [Sys2Proof.Machine.RemoteOp.reads]

section
variable {s : State} {r : RemoteRequest}

theorem arrival_uncarried (h : s.carries r.pkg = false) : exec (.remoteRequestArrival r) s = .next s := by
  rw [exec_remoteRequestArrival, execRemoteRequestArrival, h]; rfl

theorem arrival_ungranted (hc : s.carries r.pkg = true) (hg : s.granted r = false) : exec (.remoteRequestArrival r) s =
    if Sys2Proof.Machine.RemoteOp.reads r.op then .next (s.reply r (.poison r.pkg r.port r.seq)) else .next s := by
  rw [exec_remoteRequestArrival, execRemoteRequestArrival, hc, hg]; rfl

/-- A request that is carried and lies within a grant, by what the filter of its slice has of it. -/
theorem arrival_granted (hc : s.carries r.pkg = true) (hg : s.granted r = true) : exec (.remoteRequestArrival r) s =
    match s.cached r with
    | some e => .next (s.reply r e.reply)
    | none => if s.filterFull r then .next (s.reply r (.busy r.pkg r.port r.seq))
      else if s.poisonIn .main r.addr r.size ∧ Sys2Proof.Machine.RemoteOp.reads r.op then
        .next (s.reply r (.poison r.pkg r.port r.seq))
      else .next (s.applyRemote r) := by
  rw [exec_remoteRequestArrival, execRemoteRequestArrival, hc, hg]; rfl

theorem arrival_cached (hc : s.carries r.pkg = true) (hg : s.granted r = true) {e : FilterEntry} (he : s.cached r = some e) :
    exec (.remoteRequestArrival r) s = .next (s.reply r e.reply) := by
  rw [arrival_granted hc hg, he]

theorem arrival_busy (hc : s.carries r.pkg = true) (hg : s.granted r = true) (he : s.cached r = none) (hf : s.filterFull r = true) :
    exec (.remoteRequestArrival r) s = .next (s.reply r (.busy r.pkg r.port r.seq)) := by
  rw [arrival_granted hc hg, he, hf]; rfl

theorem arrival_poisoned (hc : s.carries r.pkg = true) (hg : s.granted r = true) (he : s.cached r = none)
    (hf : s.filterFull r = false) (hp : s.poisonIn .main r.addr r.size = true) (hr : Sys2Proof.Machine.RemoteOp.reads r.op = true) :
    exec (.remoteRequestArrival r) s = .next (s.reply r (.poison r.pkg r.port r.seq)) := by
  rw [arrival_granted hc hg, he, hf]
  simp [hp, hr]

theorem arrival_applied (hc : s.carries r.pkg = true) (hg : s.granted r = true) (he : s.cached r = none)
    (hf : s.filterFull r = false)
    (hclean : ¬(s.poisonIn .main r.addr r.size = true ∧ Sys2Proof.Machine.RemoteOp.reads r.op = true)) :
    exec (.remoteRequestArrival r) s = .next (s.applyRemote r) := by
  rw [arrival_granted hc hg, he, hf]
  simp [hclean]

/-! ## Requests applied at their slice (R124, R127, R130) -/

/-- The request is answered and its answer kept, over what its effect made of the state. -/
def Answered (s : State) (r : RemoteRequest) (y : Reply) (base u : State) : Prop :=
  u.outbox = s.outbox ++ [(r.addr, y)] ∧ u.filter = s.filter ++ [⟨sliceOf r, r.pkg, r.port, r.seq, y⟩] ∧
    { u with outbox := base.outbox, filter := base.filter } = base

theorem answered_answer {y : Reply} {base : State} (ho : base.outbox = s.outbox) (hf : base.filter = s.filter) :
    Answered s r y base (base.answer r y) :=
  ⟨congrArg (· ++ _) ho, congrArg (· ++ _) hf, rfl⟩

/-- The state with the corrected errors of the request's lines counted. -/
def State.countedFor (s : State) (r : RemoteRequest) : State := s.countCorrected .main r.addr r.size

theorem applyRemote_load (h : r.op = .load) :
    s.applyRemote r = (s.countedFor r).answer r (.data r.pkg r.port r.seq (s.wordAt (remotePoint r) r.addr r.size)) := by
  simp only [State.applyRemote, h]; rfl

theorem applyRemote_store {v : Nat} (h : r.op = .store v) :
    s.applyRemote r = ((s.countedFor r).remoteWrite r v).answer r (.ack r.pkg r.port r.seq) := by
  simp only [State.applyRemote, h]; rfl

/-- What an atomic that crosses no threshold leaves in memory. -/
def State.remoteAtomicWrite (s : State) (r : RemoteRequest) (op : BitVec 4) (old t x : Nat) : State :=
  if amoWrites op old t then (s.countedFor r).remoteWrite r (amoNew op r.size old t x) else s.countedFor r

theorem remoteAtomicWrite_outbox (op : BitVec 4) (old t x : Nat) : (s.remoteAtomicWrite r op old t x).outbox = s.outbox := by
  unfold State.remoteAtomicWrite; split_ifs
  · exact (remoteWrite_onlyWritten ..).outbox
  · rfl

theorem remoteAtomicWrite_filter (op : BitVec 4) (old t x : Nat) : (s.remoteAtomicWrite r op old t x).filter = s.filter := by
  unfold State.remoteAtomicWrite; split_ifs
  · exact (remoteWrite_onlyWritten ..).filter
  · rfl

theorem applyRemote_atomic {op : BitVec 4} {t x : Nat} {red : Bool} (h : r.op = .atomic op t x red) :
    let old := s.wordAt (remotePoint r) r.addr r.size
    op ≠ 11 ∨ amoCrosses r.size old (amoNew op r.size old t x) t = false →
    s.applyRemote r = (s.remoteAtomicWrite r op old t x).answer r
      (if red then .ack r.pkg r.port r.seq else .data r.pkg r.port r.seq old) := by
  intro old hcross
  have hno : ¬(op = 11 ∧ amoCrosses r.size old (amoNew op r.size old t x) t = true) := fun ⟨ho, hx⟩ =>
    hcross.elim (· ho) fun hf => Bool.false_ne_true (hf.symm.trans hx)
  simp only [State.applyRemote, h]
  rw [if_neg hno]; rfl

theorem applyRemote_register {v : Nat} (h : r.op = .register v) : s.applyRemote r =
    let old := s.wordAt (remotePoint r) r.addr r.size
    if signed (8 * r.size) v ≤ signed (8 * r.size) old then (s.countedFor r).answer r (.waited r.pkg r.port r.seq old true)
    else if s.tableFull (remotePoint r) r.addr then (s.countedFor r).answer r (.waited r.pkg r.port r.seq old false)
    else State.answer { s.countedFor r with remoteWaits := s.remoteWaits ++ [r] } r (.ack r.pkg r.port r.seq) := by
  simp only [State.applyRemote, h]; rfl

theorem applyRemote_register_reached {v : Nat} (h : r.op = .register v)
    (hle : signed (8 * r.size) v ≤ signed (8 * r.size) (s.wordAt (remotePoint r) r.addr r.size)) : s.applyRemote r =
      (s.countedFor r).answer r (.waited r.pkg r.port r.seq (s.wordAt (remotePoint r) r.addr r.size) true) :=
  (applyRemote_register h).trans (if_pos hle)

theorem applyRemote_register_full {v : Nat} (h : r.op = .register v)
    (hlt : signed (8 * r.size) (s.wordAt (remotePoint r) r.addr r.size) < signed (8 * r.size) v)
    (hfull : s.tableFull (remotePoint r) r.addr = true) : s.applyRemote r =
      (s.countedFor r).answer r (.waited r.pkg r.port r.seq (s.wordAt (remotePoint r) r.addr r.size) false) :=
  (applyRemote_register h).trans ((if_neg (not_le.mpr hlt)).trans (if_pos hfull))

theorem applyRemote_register_waits {v : Nat} (h : r.op = .register v)
    (hlt : signed (8 * r.size) (s.wordAt (remotePoint r) r.addr r.size) < signed (8 * r.size) v)
    (hfull : s.tableFull (remotePoint r) r.addr = false) : s.applyRemote r =
      State.answer { s.countedFor r with remoteWaits := s.remoteWaits ++ [r] } r (.ack r.pkg r.port r.seq) :=
  (applyRemote_register h).trans ((if_neg (not_le.mpr hlt)).trans (if_neg (Bool.eq_false_iff.mp hfull)))

/-- The registration a withdrawal names. -/
def withdraws (r : RemoteRequest) (q : Nat) (y : RemoteRequest) : Bool :=
  y.pkg == r.pkg && y.port == r.port && y.seq == q && remotePoint y == remotePoint r

theorem applyRemote_withdraw {q : Nat} (h : r.op = .withdraw q) : s.applyRemote r =
    let kept := { s.countedFor r with remoteWaits := s.remoteWaits.filter fun y => !withdraws r q y }
    if s.remoteWaits.any (withdraws r q) then
      State.answer (kept.reply r (.waited r.pkg r.port q (s.wordAt (remotePoint r) r.addr r.size) false)) r (.ack r.pkg r.port r.seq)
    else kept.answer r (.ack r.pkg r.port r.seq) := by
  simp only [State.applyRemote, h]; rfl

theorem applyRemote_withdraw_some {q : Nat} (h : r.op = .withdraw q) (hany : s.remoteWaits.any (withdraws r q) = true) :
    s.applyRemote r = State.answer (State.reply { s.countedFor r with remoteWaits := s.remoteWaits.filter fun y => !withdraws r q y }
      r (.waited r.pkg r.port q (s.wordAt (remotePoint r) r.addr r.size) false)) r (.ack r.pkg r.port r.seq) :=
  (applyRemote_withdraw h).trans (if_pos hany)

theorem applyRemote_withdraw_none {q : Nat} (h : r.op = .withdraw q) (hn : s.remoteWaits.any (withdraws r q) = false) :
    s.applyRemote r = (s.countedFor r).answer r (.ack r.pkg r.port r.seq) := by
  have hall : (s.remoteWaits.filter fun y => !withdraws r q y) = s.remoteWaits :=
    List.filter_eq_self.mpr fun y hy => by rw [List.any_eq_false] at hn; simpa using hn y hy
  rw [applyRemote_withdraw h, hn, hall]; rfl

theorem load_answered (h : r.op = .load) :
    Answered s r (.data r.pkg r.port r.seq (s.wordAt (remotePoint r) r.addr r.size)) (s.countedFor r) (s.applyRemote r) := by
  rw [applyRemote_load h]; exact answered_answer rfl rfl

theorem store_answered {v : Nat} (h : r.op = .store v) :
    Answered s r (.ack r.pkg r.port r.seq) ((s.countedFor r).remoteWrite r v) (s.applyRemote r) := by
  have hw := remoteWrite_onlyWritten (s.countedFor r) r v
  rw [applyRemote_store h]; exact answered_answer hw.outbox hw.filter

theorem atomic_answered {op : BitVec 4} {t x : Nat} {red : Bool} (h : r.op = .atomic op t x red) :
    let old := s.wordAt (remotePoint r) r.addr r.size
    op ≠ 11 ∨ amoCrosses r.size old (amoNew op r.size old t x) t = false →
    Answered s r (if red then .ack r.pkg r.port r.seq else .data r.pkg r.port r.seq old) (s.remoteAtomicWrite r op old t x)
      (s.applyRemote r) := by
  intro old hcross
  rw [applyRemote_atomic h hcross]; exact answered_answer (remoteAtomicWrite_outbox ..) (remoteAtomicWrite_filter ..)

theorem register_reached_answered {v : Nat} (h : r.op = .register v)
    (hle : signed (8 * r.size) v ≤ signed (8 * r.size) (s.wordAt (remotePoint r) r.addr r.size)) :
    Answered s r (.waited r.pkg r.port r.seq (s.wordAt (remotePoint r) r.addr r.size) true) (s.countedFor r) (s.applyRemote r) := by
  rw [applyRemote_register_reached h hle]; exact answered_answer rfl rfl

theorem register_full_answered {v : Nat} (h : r.op = .register v)
    (hlt : signed (8 * r.size) (s.wordAt (remotePoint r) r.addr r.size) < signed (8 * r.size) v)
    (hfull : s.tableFull (remotePoint r) r.addr = true) :
    Answered s r (.waited r.pkg r.port r.seq (s.wordAt (remotePoint r) r.addr r.size) false) (s.countedFor r) (s.applyRemote r) := by
  rw [applyRemote_register_full h hlt hfull]; exact answered_answer rfl rfl

theorem register_waits_answered {v : Nat} (h : r.op = .register v)
    (hlt : signed (8 * r.size) (s.wordAt (remotePoint r) r.addr r.size) < signed (8 * r.size) v)
    (hfull : s.tableFull (remotePoint r) r.addr = false) :
    Answered s r (.ack r.pkg r.port r.seq) { s.countedFor r with remoteWaits := s.remoteWaits ++ [r] } (s.applyRemote r) := by
  rw [applyRemote_register_waits h hlt hfull]; exact answered_answer rfl rfl

theorem withdraw_none_answered {q : Nat} (h : r.op = .withdraw q) (hn : s.remoteWaits.any (withdraws r q) = false) :
    Answered s r (.ack r.pkg r.port r.seq) (s.countedFor r) (s.applyRemote r) := by
  rw [applyRemote_withdraw_none h hn]; exact answered_answer rfl rfl

/-- Two replies, of which the second is kept. -/
theorem answered_twice {c : State} {l : List RemoteRequest} {x y : Reply} (ho : c.outbox = s.outbox) (hf : c.filter = s.filter)
    (hw : c.remoteWaits = s.remoteWaits) :
    let u := State.answer (State.reply { c with remoteWaits := l } r x) r y
    u.remoteWaits = l ∧ u.outbox = s.outbox ++ [(r.addr, x), (r.addr, y)] ∧
      u.filter = s.filter ++ [⟨sliceOf r, r.pkg, r.port, r.seq, y⟩] ∧
      { u with remoteWaits := s.remoteWaits, outbox := s.outbox, filter := s.filter } = c := by
  rw [← ho, ← hf, ← hw]
  exact ⟨rfl, List.append_assoc c.outbox [_] [_], rfl, rfl⟩

/-- A withdrawal that meets its registration: the wait ends with the word's value, and the withdrawal is acknowledged (R130). -/
theorem withdraw_some_answered {q : Nat} (h : r.op = .withdraw q) (hany : s.remoteWaits.any (withdraws r q) = true) :
    let u := s.applyRemote r
    u.remoteWaits = s.remoteWaits.filter (fun y => !withdraws r q y) ∧
      u.outbox = s.outbox ++ [(r.addr, .waited r.pkg r.port q (s.wordAt (remotePoint r) r.addr r.size) false),
        (r.addr, .ack r.pkg r.port r.seq)] ∧
      u.filter = s.filter ++ [⟨sliceOf r, r.pkg, r.port, r.seq, .ack r.pkg r.port r.seq⟩] ∧
      { u with remoteWaits := s.remoteWaits, outbox := s.outbox, filter := s.filter } = s.countedFor r := by
  rw [applyRemote_withdraw_some h hany]
  exact answered_twice rfl rfl rfl

end

/-! ## Replies leave (R367, R369) -/

theorem replyStep_leaves {s u : State} (h : s.replyStep = some u) : ∃ y k, y ∈ s.outbox ∧ s.portFor (Reply.pkg y.2) y.1 = some k ∧
    s.flitRoom k = true ∧ u.replies = s.replies ++ [y.2] ∧ u.outbox = s.outbox.erase y ∧
    { u with ports := s.ports, replies := s.replies, outbox := s.outbox } = s := by
  obtain ⟨y, hy, hsent⟩ := List.exists_of_findSome?_eq_some h
  obtain ⟨k, hk, rfl⟩ := Option.map_eq_some_iff.mp hsent
  obtain ⟨hport, hroom⟩ := Option.filter_eq_some_iff.mp hk
  have hback := congrArg (fun v : State => { v with replies := s.replies, outbox := s.outbox }) (modPort_onlyPorts s k Port.flit)
  exact ⟨y, k, hy, hport, hroom, rfl, rfl, hback⟩

end Sys2Proof.Machine
end

section
/-! SUPPORT. Requests of this package that are lost with their port (06 R127, R128, R360), switches and job keys (17 R371, R374, R375),
Ultra Ethernet connections and package time (17 R370, R379). -/

namespace Sys2Proof.Machine

/-! ## Whether a request is lost (R128, R367) -/

section
variable {s : State} {a : Access}

theorem owes_lower (h : a.crossing = false) : a.owes false = true := by
  unfold Access.owes
  split_ifs with he
  · rfl
  · cases ht : a.touches with
    | nil => exact absurd (by rw [ht]; rfl) he
    | cons r rs => simp [h]

theorem not_owes_upper (h : a.crossing = false) : a.owes true = false := by
  unfold Access.owes
  split_ifs
  · rfl
  · simp [h]

theorem space_of_lent (h : a.lent = true) : ∃ k, a.space = .lent k := by
  cases hsp : a.space with
  | lent k => exact ⟨k, rfl⟩
  | main | csm | pool | wb | own => rw [Access.lent, hsp] at h; exact absurd h Bool.false_ne_true

theorem lineLost_of_port {port seq : Nat} {x : Port} (hlent : a.lent = true) (ha : a.port = some (port, seq))
    (hx : s.ports[port]? = some x) (hdown : x.tx.state ≠ .up ∨ x.rx.state ≠ .up) (hlate : x.downSince + 200000000 ≤ s.now) :
    s.lineLost a false = true := by
  obtain ⟨k, hsp⟩ := space_of_lent hlent
  have hgoes : x.goes = false := by
    rw [Bool.eq_false_iff]
    exact fun hg => (Port.goes_iff.mp hg).elim fun ht hr => hdown.elim (· ht) (· hr)
  have hlost : s.portLost port = true := by
    simp [State.portLost, hx, hgoes, Config.portLostCycles, hlate]
  simp only [State.lineLost, hsp, ha]
  exact hlost

theorem requestLost_of_lower (hcross : a.crossing = false) (hlost : s.lineLost a false = true) : s.requestLost a = true := by
  simp [State.requestLost, owes_lower hcross, hlost]

theorem lent_of_requestLost (h : s.requestLost a = true) : ∃ k, a.space = .lent k := by
  cases hsp : a.space with
  | lent k => exact ⟨k, rfl⟩
  | main | csm | pool | wb | own => simp [State.requestLost, State.lineLost, hsp] at h

end

/-! ## The effect of a lost request (R128, R129) -/

/-- Between two states only lent memory, and the count of free values, may differ. -/
def OnlyLent (s u : State) : Prop := { u with lentMem := s.lentMem, fv := s.fv } = s

theorem OnlyLent.trans {s t u : State} (h : OnlyLent s t) (k : OnlyLent t u) : OnlyLent s u := by
  have := congrArg (fun v : State => { v with lentMem := s.lentMem, fv := s.fv }) k
  exact this.trans h

theorem OnlyLent.cores {s u : State} (h : OnlyLent s u) : u.cores = s.cores := by
  have := congrArg State.cores h; exact this

theorem OnlyLent.fw {s u : State} (h : OnlyLent s u) : u.fw = s.fw := by
  have := congrArg State.fw h; exact this

theorem drawFree_onlyLent (s : State) : OnlyLent s { s with fv := s.fv + 1 } := rfl

/-- A lost request writes to its lender or not at all, unless it wakes the waiters of an `amo.addt`. -/
theorem lostEffect_onlyLent {s : State} {c : Core} {a : Access} {k : Nat} (hsp : a.space = .lent k)
    (hk : ∀ d t x, a.kind ≠ .atomic 11 d t x) : OnlyLent s (s.lostEffect c a) := by
  have hput : ∀ (u : State) (cells : List Host.Cell), OnlyLent u (u.putSpace a.space cells) := fun u cells => by rw [hsp]; rfl
  unfold State.lostEffect
  split
  · refine List.foldlRecOn (motive := OnlyLent s) _ _ (drawFree_onlyLent s) fun u hu h _ => ?_
    dsimp only
    split_ifs
    · exact hu.trans (hput ..)
    · exact hu
  · next op d t x hkind _ =>
    dsimp only
    split_ifs with hwrites hcross
    · exact absurd (hcross.1 ▸ hkind) (hk d t x)
    · exact (drawFree_onlyLent s).trans (hput ..)
    · exact drawFree_onlyLent s
  · exact drawFree_onlyLent s

theorem answerWait_fw (s : State) (w : Waiter) (r : WaitEnd) (mark : Core → Core) : (s.answerWait w r mark).fw = s.fw := by
  unfold State.answerWait; split_ifs <;> rfl

theorem wake_lender_fw (s : State) (a n new : Nat) (who : BitVec 32) (seen : Core → Core) :
    (s.wake .lender a n new who seen).fw = s.fw :=
  List.foldlRecOn (motive := fun u : State => u.fw = s.fw) _ _ rfl fun u hu w _ => (answerWait_fw u w _ _).trans hu

theorem lostEffect_fw {s : State} {c : Core} {a : Access} {k : Nat} (hsp : a.space = .lent k) :
    (s.lostEffect c a).fw = s.fw := by
  by_cases hk : ∀ d t x, a.kind ≠ .atomic 11 d t x
  · exact (lostEffect_onlyLent hsp hk).fw
  · push Not at hk
    obtain ⟨d, t, x, hkind⟩ := hk
    unfold State.lostEffect
    rw [hkind, hsp]
    dsimp only
    cases a.stage with
    | waiting =>
      dsimp only
      split_ifs
      · exact wake_lender_fw ..
      · rfl
      · rfl
    | applied | registered | answered => rfl

/-! ## The completion of a lost request at its core (R128, R360) -/

theorem Core.poisonReturn_eq (c : Core) (a : Access) (r : PoisonReport) : c.poisonReturn a r = { c with
    redOwed := (c.poisonReturn a r).redOwed, owed := (c.poisonReturn a r).owed, marks := (c.poisonReturn a r).marks } := by
  unfold Core.poisonReturn
  split
  · rfl
  · split <;> rfl

/-- What a lost request leaves at its core: the access is gone, and something is owed, marked or no longer waited for. -/
theorem Core.lose_eq (c : Core) (a : Access) (now : Nat) : c.lose a now = { c.dropAccess a.id with
    redOwed := (c.lose a now).redOwed, owed := (c.lose a now).owed, marks := (c.lose a now).marks
    waiting := (c.lose a now).waiting } := by
  unfold Core.lose
  dsimp only
  split
  · split <;> rfl
  · split
    · split <;> rfl
    · rfl
  · rw [Core.poisonReturn_eq]

theorem Core.lose_phys (c : Core) (a : Access) (now : Nat) : (c.lose a now).phys = c.phys := by rw [Core.lose_eq]; rfl
theorem Core.lose_acc (c : Core) (a : Access) (now : Nat) : (c.lose a now).acc = c.acc.filter fun y => y.id ≠ a.id := by
  rw [Core.lose_eq]; rfl
theorem Core.lose_s (c : Core) (a : Access) (now : Nat) : (c.lose a now).s = c.s := by rw [Core.lose_eq]; rfl

/-- Poisoned data of a load into a scalar register mark it. -/
theorem poisonReturn_marks {c : Core} {a : Access} {r : PoisonReport} {g : Nat} {sx : Bool} (hk : a.kind = .load (.s g) sx)
    (hg : 0 < g) : (Reg.s g, r) ∈ (c.poisonReturn a r).marks := by
  obtain ⟨g, rfl⟩ : ∃ m, g = m + 1 := ⟨g - 1, by omega⟩
  simp [Core.poisonReturn, Access.dst, hk]

theorem lose_load {c : Core} {a : Access} {now g : Nat} {sx : Bool} (hk : a.kind = .load (.s g) sx) (hg : 0 < g) :
    (Reg.s g, (⟨now, false, 4, BitVec.ofNat 5 g, BitVec.ofNat 56 a.va, a.line⟩ : PoisonReport)) ∈ (c.lose a now).marks := by
  have hreport : ({ a.report now with integrity := false, src := 4 } : PoisonReport) =
      ⟨now, false, 4, BitVec.ofNat 5 g, BitVec.ofNat 56 a.va, a.line⟩ := by simp [Access.report, Access.dst, hk]
  have hlose : c.lose a now = (c.dropAccess a.id).poisonReturn a { a.report now with integrity := false, src := 4 } := by
    simp only [Core.lose, hk]
  rw [hlose, hreport]
  exact poisonReturn_marks hk hg

theorem lose_waita {c : Core} {a : Access} {now d v : Nat} (hk : a.kind = .waita d v) (hw : c.waiting = .waita a.id none) :
    (c.lose a now).waiting = .waita a.id (some ⟨0, false, 0, setterNone⟩) := by
  simp only [Core.lose, hk, hw, if_true]

theorem lose_store {c : Core} {a : Access} {now : Nat} (hk : a.kind = .store) : ∃ y, y ∈ (c.lose a now).owed ∧ y.src = 6 := by
  simp only [Core.lose, hk]
  split_ifs with hany
  · obtain ⟨y, hy, hsrc⟩ := List.any_eq_true.mp hany
    exact ⟨y, hy, of_decide_eq_true hsrc⟩
  · exact ⟨_, List.mem_append_right _ (List.mem_singleton_self _), rfl⟩

/-! ## REMOTE_REQUEST_LOST (R128) -/

section
variable {s : State} {n id : Nat} {q : Core} {a : Access} (hq : s.coreAt n = some q) (ha : q.access? id = some a)
include hq ha

theorem remoteRequestLost_stands (hl : s.requestLost a = false) : exec (.remoteRequestLost n id) s = .next s := by
  rw [exec_remoteRequestLost, execRemoteRequestLost]
  simp only [hq, Option.bind_some, ha, Option.map_some, hl]
  rfl

/-- The state without the registration of a lost `waita` at its lender. -/
def State.unregistered (s : State) (n id : Nat) : State :=
  { s with lentWaiters := s.lentWaiters.filter fun w => !(w.core == n && w.acc == id) }

/-- The sequence numbers that F5 logs: those of the lines that are lost. -/
def State.lostSeqs (s : State) (a : Access) : List Nat :=
  (if a.owes false && s.lineLost a false then (a.port.map (·.2)).toList else []) ++
    (if a.owes true && s.lineLost a true then (a.port2.map (·.2)).toList else [])

theorem exec_remoteRequestLost_lost (hl : s.requestLost a = true) : exec (.remoteRequestLost n id) s =
    let s1 := (s.unregistered n id).lostEffect q a
    .next { s1.modAt n (fun c => c.lose a s.now) with fw := { s1.fw with failures := s1.fw.failures ++ s.lostSeqs a } } := by
  rw [exec_remoteRequestLost, execRemoteRequestLost]
  simp only [hq, Option.bind_some, ha, Option.map_some, hl, if_true, State.lostSeqs, List.append_assoc]
  rfl

theorem remoteRequestLost_logs {seq port : Nat} (hl : s.requestLost a = true) (hcross : a.crossing = false)
    (hline : s.lineLost a false = true) (hp : a.port = some (port, seq)) :
    ∃ u, exec (.remoteRequestLost n id) s = .next u ∧ u.fw.failures = s.fw.failures ++ [seq] := by
  obtain ⟨k, hsp⟩ := lent_of_requestLost hl
  have hseqs : s.lostSeqs a = [seq] := by
    simp [State.lostSeqs, owes_lower hcross, not_owes_upper hcross, hline, hp]
  have hfw : ((s.unregistered n id).lostEffect q a).fw = s.fw := lostEffect_fw hsp
  refine ⟨_, exec_remoteRequestLost_lost hq ha hl, ?_⟩
  simp only [hfw, hseqs]

theorem remoteRequestLost_loses (hl : s.requestLost a = true) (hk : ∀ d t x, a.kind ≠ .atomic 11 d t x) :
    ∃ u, exec (.remoteRequestLost n id) s = .next u ∧ u.coreAt n = some (q.lose a s.now) ∧
      ∀ k, k ≠ n → u.coreAt k = s.coreAt k := by
  obtain ⟨k, hsp⟩ := lent_of_requestLost hl
  have hcores : ((s.unregistered n id).lostEffect q a).cores = s.cores := (lostEffect_onlyLent hsp hk).cores
  have hcore (m : Nat) := coreAt_modAt ((s.unregistered n id).lostEffect q a) (n := n) (f := fun c => c.lose a s.now)
    (fun c hc => (c.lose_phys a s.now).trans hc) m
  simp only [coreAt_congr hcores] at hcore
  refine ⟨_, exec_remoteRequestLost_lost hq ha hl, (hcore n).trans ?_, fun k hk => (hcore k).trans (if_neg hk)⟩
  rw [if_pos rfl, hq]; rfl

end

/-! ## Switches and their job keys (R371, R374, R375) -/

theorem switch_num {s : State} {sw : Nat} {w : Switch} (h : s.switch? sw = some w) : w.num = sw := by
  have := List.find?_some h; exact of_decide_eq_true this

theorem switch?_setSwitch (s : State) (x : Switch) : (s.setSwitch x).switch? x.num = some x := by
  have hnone : (s.switches.filter fun y => y.num ≠ x.num).find? (fun y => y.num = x.num) = none :=
    List.find?_eq_none.mpr fun y hy => by simpa using (List.mem_filter.mp hy).2
  rw [State.switch?, State.setSwitch, List.find?_append, hnone]
  simp

/-- Between two states only cores may differ. -/
def OnlyCores (s u : State) : Prop := { u with core := s.core, others := s.others } = s

theorem OnlyCores.trans {s t u : State} (h : OnlyCores s t) (k : OnlyCores t u) : OnlyCores s u := by
  have := congrArg (fun v : State => { v with core := s.core, others := s.others }) k
  exact this.trans h

/-- The cores once a switch has lost keys. -/
def State.loseKeys (s : State) (sw : Nat) (ps : List Nat) : State := ps.foldl (fun st p => st.failCollectives p sw) s

theorem loseKeys_onlyCores (s : State) (sw : Nat) (ps : List Nat) : OnlyCores s (s.loseKeys sw ps) :=
  List.foldlRecOn (motive := OnlyCores s) ps _ rfl fun _ hu _ _ => hu.trans rfl

theorem keepKeys_eq (s : State) (x : Switch) (ok : Nat → Bool) : s.keepKeys x ok =
    (s.loseKeys x.num (x.keys.filter fun p => !ok p)).setSwitch { x with keys := x.keys.filter ok } := rfl

theorem keepKeys_keeps (s : State) (x : Switch) (ok : Nat → Bool) :
    (s.keepKeys x ok).switch? x.num = some { x with keys := x.keys.filter ok } ∧
      { s.keepKeys x ok with switches := s.switches, core := s.core, others := s.others } = s := by
  refine ⟨switch?_setSwitch _ { x with keys := x.keys.filter ok }, ?_⟩
  have := congrArg (fun v : State => { v with switches := s.switches }) (loseKeys_onlyCores s x.num (x.keys.filter fun p => !ok p))
  exact this

theorem keepKeys_none (s : State) (x : Switch) :
    (s.keepKeys x fun _ => false).switch? x.num = some { x with keys := [] } ∧
      { s.keepKeys x (fun _ => false) with switches := s.switches, core := s.core, others := s.others } = s := by
  have h := keepKeys_keeps s x fun _ => false
  rwa [List.filter_false] at h

/-- A command that ran over the switch in the network fails (R375). -/
def State.failedOver (s : State) (c : Core) (sw : Nat) (m : Cmd) : Cmd :=
  if m.shift = 0 ∧ s.runsOver c m sw then { m with null := true } else m

/-- A core whose partition loses its key at a switch. -/
def State.keyLost (s : State) (part sw : Nat) (c : Core) : Core :=
  if c.partId = part then { c with copy := { c.copy with running := c.copy.running.map (s.failedOver c sw) } } else c

theorem failedOver_failedOver (s : State) (c : Core) (sw : Nat) (m : Cmd) :
    s.failedOver c sw (s.failedOver c sw m) = s.failedOver c sw m := by
  by_cases h : m.shift = 0 ∧ s.runsOver c m sw = true
  · have hm : s.failedOver c sw m = { m with null := true } := if_pos h
    rw [hm]; exact if_pos h
  · have hm : s.failedOver c sw m = m := if_neg h
    rw [hm, hm]

/-- A key lost once more changes nothing. -/
theorem keyLost_keyLost (s : State) (part sw : Nat) (c : Core) :
    s.keyLost part sw (s.keyLost part sw c) = s.keyLost part sw c := by
  by_cases h : c.partId = part
  · have hc : s.keyLost part sw c = { c with copy := { c.copy with running := c.copy.running.map (s.failedOver c sw) } } := if_pos h
    have hagain : (c.copy.running.map (s.failedOver c sw)).map (s.failedOver c sw) = c.copy.running.map (s.failedOver c sw) := by
      rw [List.map_map]
      exact List.map_congr_left fun m _ => failedOver_failedOver s c sw m
    rw [hc]
    refine Eq.trans (if_pos h) ?_
    exact congrArg (fun l => ({ c with copy := { c.copy with running := l } } : Core)) hagain
  · have hc : s.keyLost part sw c = c := if_neg h
    rw [hc, hc]

theorem failCollectives_twice (s : State) (part sw : Nat) :
    (s.failCollectives part sw).failCollectives part sw = s.failCollectives part sw := by
  have hothers : (s.others.map (s.keyLost part sw)).map (s.keyLost part sw) = s.others.map (s.keyLost part sw) := by
    rw [List.map_map]
    exact List.map_congr_left fun c _ => keyLost_keyLost s part sw c
  have hagain : (s.modAll (s.keyLost part sw)).modAll (s.keyLost part sw) = s.modAll (s.keyLost part sw) := by
    simp only [State.modAll, hothers, keyLost_keyLost]
  exact hagain

theorem loseKeys_same {s : State} {part sw : Nat} {ps : List Nat} (hall : ∀ p, p ∈ ps → p = part) (hne : ps ≠ []) :
    s.loseKeys sw ps = s.failCollectives part sw := by
  induction ps generalizing s with
  | nil => exact absurd rfl hne
  | cons p ps ih =>
    obtain rfl : p = part := hall p List.mem_cons_self
    cases ps with
    | nil => rfl
    | cons p' ps =>
      exact (ih (fun x hx => hall x (List.mem_cons_of_mem _ hx)) (List.cons_ne_nil _ _)).trans (failCollectives_twice s p sw)

theorem keepKeys_withdraw_core (s : State) {x : Switch} {part : Nat} (h : part ∈ x.keys) :
    (s.keepKeys x fun k => decide (k ≠ part)).core = s.keyLost part x.num s.core := by
  have hlost : s.loseKeys x.num (x.keys.filter fun p => !decide (p ≠ part)) = s.failCollectives part x.num := by
    refine loseKeys_same (fun p hp => by simpa using (List.mem_filter.mp hp).2) (List.ne_nil_of_mem (a := part) ?_)
    exact List.mem_filter.mpr ⟨h, by simp⟩
  rw [keepKeys_eq, hlost]; rfl

section
variable {s : State} {sw : Nat} {w : Switch} (hw : s.switch? sw = some w)
include hw

theorem spdmSession_measures (model m : Nat) : exec (.spdmSession (.switch sw model) true m) s =
    let x := { w with model := model, measurement := m, attestedAt := some s.now }
    .next (s.keepKeys x (s.acceptsSwitch x)) := by
  rw [exec_spdmSession, execSpdmSession]
  simp only [hw, Option.getD_some, if_true]

theorem spdmSession_fails (model m : Nat) : exec (.spdmSession (.switch sw model) false m) s =
    .next (s.keepKeys { w with attestedAt := none } fun _ => false) := by
  rw [exec_spdmSession, execSpdmSession]
  simp only [hw, Option.getD_some, Bool.false_eq_true, if_false]

theorem jobKeyWithdraw_withdraws (part : Nat) : exec (.jobKeyWithdraw part ⟨sw, false⟩) s =
    .next (s.keepKeys w fun k => decide (k ≠ part)) := by
  rw [exec_jobKeyWithdraw, execJobKeyWithdraw]
  simp only [hw, Bool.false_eq_true, if_false]

theorem jobKeyWithdraw_resets (part : Nat) : exec (.jobKeyWithdraw part ⟨sw, true⟩) s =
    .next (s.keepKeys { w with attestedAt := none } fun _ => false) := by
  rw [exec_jobKeyWithdraw, execJobKeyWithdraw]
  simp only [hw, if_true]

end

theorem jobKeyGrant_grants {s : State} {part sw : Nat} {p : Partition} {w : Switch} (hw : s.switch? sw = some w)
    (hp : mapGet s.parts part = some p) (hkey : p.jobKey ≠ none) (hpolicy : (w.model, w.measurement) ∈ p.req.policy)
    (hnew : part ∉ w.keys) (hday : ∃ t, w.attestedAt = some t ∧ s.now ≤ t + 24 * 3600 * 4000000000) :
    exec (.jobKeyGrant part sw) s = .next (s.setSwitch { w with keys := w.keys ++ [part] }) := by
  obtain ⟨t, ht, hnow⟩ := hday
  rw [exec_jobKeyGrant, execJobKeyGrant]
  simp only [hp, hw, ht]
  refine if_pos ⟨Option.isSome_iff_ne_none.mpr hkey, List.contains_iff_mem.mpr hpolicy, ?_, decide_eq_true hnow⟩
  exact fun h => hnew (List.contains_iff_mem.mp h)

/-! ## Connections and package time (R370, R379) -/

theorem uetSupported_eq_false {op : UetOptions} (h : op.encrypted = false ∨ op.unreliable = true ∨ op.idempotent = true ∨ op.other = true ∨
    op.remoteAccess = true ∨ op.receiverCredit = true ∨ 4096 < op.mtu) : uetSupported op = false := by
  rw [Bool.eq_false_iff]
  intro hs
  simp only [uetSupported, Bool.and_eq_true, Bool.not_eq_true', decide_eq_true_eq] at hs
  obtain ⟨⟨⟨⟨⟨⟨⟨⟨⟨_, hi⟩, ho⟩, hu⟩, hra⟩, he⟩, hrc⟩, hm⟩, _⟩, _⟩ := hs
  simp_all
  omega

theorem uetSupported_eq_true {op : UetOptions} (hord : op.unordered = true ∨ op.ordered = true) (hunrel : op.unreliable = false)
    (hidem : op.idempotent = false) (hother : op.other = false) (hremote : op.remoteAccess = false) (henc : op.encrypted = true)
    (hcredit : op.receiverCredit = false) (hmtu : op.mtu ≤ 4096) (hbytes : op.messageBytes ≤ 2 ^ 24) (hflight : op.inFlight ≤ 4096) :
    uetSupported op = true := by
  simp only [uetSupported, hunrel, hidem, hother, hremote, henc, hcredit, Bool.not_false, Bool.and_true, Bool.and_eq_true,
    Bool.or_eq_true, decide_eq_true_eq]
  exact ⟨⟨⟨hord, hmtu⟩, hbytes⟩, hflight⟩

theorem uetSetup_connects {s : State} {peer : Nat} {op : UetOptions} (hs : uetSupported op = true) (hb : s.boot = .running)
    (hstep : s.bootStep = 7) (hnew : peer ∉ s.uet) : exec (.uetConnectionSetup peer op) s = .next { s with uet := s.uet ++ [peer] } :=
  if_pos ⟨hs, hb, hstep, fun h => hnew (List.contains_iff_mem.mp h)⟩

theorem uetSetup_refuses {s : State} {peer : Nat} {op : UetOptions} (hs : uetSupported op = false) :
    exec (.uetConnectionSetup peer op) s = .next s :=
  if_neg fun ⟨h, _⟩ => Bool.false_ne_true (hs.symm.trans h)

theorem slew_base (s : State) : ∃ d : Int, -1 ≤ d ∧ d ≤ 1 ∧ s.slew.ptp.base = s.ptp.base + d ∧
    (s.ptp.locked = false ∨ s.ptp.holdover = true ∨ s.now % 40000 ≠ 0 → s.slew = s) := by
  by_cases h : s.ptp.locked = true ∧ ¬s.ptp.holdover = true ∧ s.now % (10 * Config.cyclesPerMicro) = 0
  · have hs : s.slew = { s with
        ptp := { s.ptp with base := s.ptp.base + ((Config.pick s.fv % 3 : Nat) : Int) - 1 }, fv := s.fv + 1 } := if_pos h
    obtain ⟨hl, hh, hn⟩ := h
    refine ⟨((Config.pick s.fv % 3 : Nat) : Int) - 1, by omega, by omega, by rw [hs]; simp only; omega, fun hor => ?_⟩
    rcases hor with hor | hor | hor
    · exact absurd (hor.symm.trans hl) Bool.false_ne_true
    · exact absurd hor hh
    · exact absurd hn hor
  · have hs : s.slew = s := if_neg h
    exact ⟨0, by omega, by omega, by rw [hs, Int.add_zero], fun _ => hs⟩

theorem ptpLock_locks {s : State} {domain time : Nat} (hl : s.ptp.locked = false) (hb : s.boot = .running)
    (hd : domain = s.ptp.domain) : ∃ u, exec (.ptpLock ⟨domain, time⟩) s = .next u ∧
      u.time = time ∧ u.ptp.locked = true ∧ u.ptp.holdover = false ∧ u.ptp.domain = domain ∧
      u.bootStep = (if s.bootStep = 6 then 7 else s.bootStep) ∧ { u with ptp := s.ptp, bootStep := s.bootStep } = s := by
  refine ⟨{ s with ptp := ⟨domain, true, false, (time : Int) - (s.now / 4 : Nat)⟩
                   bootStep := if s.bootStep = 6 then 7 else s.bootStep }, ?_, ?_, rfl, rfl, rfl, rfl, rfl⟩
  · rw [exec_ptpLock, execPtpLock]
    refine if_neg fun h => ?_
    rcases h with h | h | h
    · exact Bool.false_ne_true (hl.symm.trans h)
    · exact h hb
    · exact h hd
  · simp only [State.time]; omega

end Sys2Proof.Machine
end

section
/-! PROOF. The fabric of O56: ports, requests of other packages and of this one, switches, connections, package time. -/

namespace Sys2Proof.Machine

/-- Settles O56: each event by the lemma that says what it makes of its port, its reply, its request, its switch or the time. -/
theorem fabric : Obligations.Fabric := by
  intro port part sw pkg dest seq n id domain time key ctr m model peer since dir fs ok note op r e q a x w p s becomes l dropped
    keyed flit got back answers reads old full counted kept mine late fails hit known
  have hdrop : x.drop s.now = dropped := Port.drop_eq x s.now
  have hkeyed (k : Nat) : x.newKey dir k = keyed k := by cases dir <;> rfl
  refine ⟨fun hx => ⟨fun hd hb => trainingStart_trains hx hd hb, fun ht => trainingDone_keys hx ht ok,
      fun hk => hdrop ▸ spdmSession_port hx hk ok m, fun hk hs => hkeyed 0 ▸ keysInstalled_keys hx hk hs, fun hup hr => ?_,
      linkRetry_resends hx fs, fun hs hl => hdrop ▸ rekeyTimeout_drops hx hs hl, fun hu hr => hkeyed _ ▸ rekeyComplete_keys hx hu hr,
      fun y hlow hsent hwin hy => ack_covers hx hlow hsent hwin hy, fun hroom hmine => ?_⟩,
    arrival_uncarried, fun hc hg => ⟨fun hr => ?_, fun hr => ?_⟩, fun hc hg he => arrival_cached hc hg he,
    fun hc hg he hf => arrival_busy hc hg he hf,
    fun ⟨hc, hg, he, hf⟩ hp hr => arrival_poisoned hc hg he hf hp (RemoteOp.reads_iff.mpr hr), fun ⟨hc, hg, he, hf⟩ hclean => ?_,
    fun u hu => replyStep_leaves hu, ack_elsewhere, fun hq ha hlent hcross hport hx hdown hlate => ?_,
    fun hq ha hl => remoteRequestLost_stands hq ha hl, fun hq ha hl hk => ?_, fun hw => ⟨?_, ?_, fun hp hkey hpol hnew hday => ?_,
      fun hin => ?_, ?_⟩, ?_, fun hor => ?_, ptpLock_locks, slew_base s, rfl, rfl⟩
  · have takes (hfs : fs = x.rx.seq) {y : Port} (hy : x.take ⟨key, ctr⟩ s.now note = y) : becomes (flit true) y :=
      portBecomes_of hx rfl (by rw [hfs]; exact (Port.receive_expected _ note s.now hup hr).trans hy)
    refine ⟨portBecomes_of hx rfl (Port.receive_damaged fs _ note s.now hup hr), fun hfs hk hc => ?_, fun hfs hbad => ?_,
      fun h h' => portBecomes_of hx rfl (Port.receive_again fs _ note s.now hup hr h h'),
      fun h => portBecomes_of hx rfl (Port.receive_ahead fs _ note s.now hup hr h)⟩
    · subst hk hc
      exact ⟨fun hn => takes hfs ((x.take_sealed s.now note).trans (by rw [hn]; rfl)),
        fun y hn => takes hfs ((x.take_sealed s.now note).trans (by rw [hn]; rfl)),
        fun hn => takes hfs ((x.take_sealed s.now note).trans (by rw [hn]; rfl))⟩
    · exact takes hfs (hdrop ▸ x.take_unsealed s.now note hbad)
  · obtain ⟨u, hu, hcores, hport, hrest⟩ := remoteRetransmit_travels hx hroom hmine
    exact ⟨u, hu, s.now_lt_dueCycle, hcores, hport, hrest⟩
  · exact (arrival_ungranted hc hg).trans (if_pos (RemoteOp.reads_iff.mpr hr))
  · exact (arrival_ungranted hc hg).trans (if_neg fun h => hr (RemoteOp.reads_iff.mp h))
  · have happlied : exec (.remoteRequestArrival r) s = .next (s.applyRemote r) := arrival_applied hc hg he hf fun ⟨hp, hr⟩ =>
      hclean.elim (fun h => Bool.false_ne_true (h.symm.trans hp)) (· (RemoteOp.reads_iff.mp hr))
    exact ⟨_, happlied, load_answered, fun v => store_answered, fun o t v d => atomic_answered, fun v => register_reached_answered,
      fun v h hlt => ⟨register_full_answered h hlt, register_waits_answered h hlt⟩,
      fun v h => ⟨withdraw_none_answered h, withdraw_some_answered h⟩⟩
  · have hline := lineLost_of_port hlent hport hx hdown hlate
    have hl := requestLost_of_lower hcross hline
    exact ⟨hl, remoteRequestLost_logs hq ha hl hcross hline hport⟩
  · have hid : a.id = id := by have := List.find?_some ha; exact of_decide_eq_true this
    obtain ⟨u, hu, hcore, hothers⟩ := remoteRequestLost_loses hq ha hl hk
    exact ⟨u, hu, hcore, hothers, hid ▸ q.lose_acc a s.now, fun g sx hg hpos _ => ⟨q.lose_s a s.now, lose_load hg hpos⟩,
      fun d v hd hw => hid ▸ lose_waita hd (hid ▸ hw), lose_store⟩
  · obtain rfl : w.num = sw := switch_num hw
    exact ⟨_, spdmSession_measures hw model m, keepKeys_keeps s { w with model := model, measurement := m, attestedAt := some s.now } _⟩
  · obtain rfl : w.num = sw := switch_num hw
    exact ⟨_, spdmSession_fails hw model m, (keepKeys_none s { w with attestedAt := none }).1⟩
  · obtain rfl : w.num = sw := switch_num hw
    exact ⟨_, jobKeyGrant_grants hw hp hkey hpol hnew hday, switch?_setSwitch s { w with keys := w.keys ++ [part] }, rfl⟩
  · obtain rfl : w.num = sw := switch_num hw
    obtain ⟨hkept, hrest⟩ := keepKeys_keeps s w fun k => decide (k ≠ part)
    have hcore := keepKeys_withdraw_core s hin
    exact ⟨_, jobKeyWithdraw_withdraws hw part, hkept, fun hpart => hcore.trans (if_pos hpart), fun hpart => hcore.trans (if_neg hpart), hrest⟩
  · obtain rfl : w.num = sw := switch_num hw
    exact ⟨_, jobKeyWithdraw_resets hw part, keepKeys_none s { w with attestedAt := none }⟩
  · intro hb hstep hnew hord hunrel hidem hother hremote henc hcredit hmtu hbytes hflight
    exact uetSetup_connects (uetSupported_eq_true hord hunrel hidem hother hremote henc hcredit hmtu hbytes hflight) hb hstep hnew
  · exact uetSetup_refuses (uetSupported_eq_false hor)

end Sys2Proof.Machine
end

section
/-! SUPPORT. Loads that return (04 R76, 05 R90, 11 R240, R243, R245, R248): one piece read, the last piece delivered. -/

namespace Sys2Proof.Machine

/-! ## States whose memories read alike -/

/-- No byte changes where no scratchpad, pool, view or other memory does. -/
theorem bytesKept_of_memories {s u : State} (hphys : u.core.phys = s.core.phys) (hscr : u.core.scr = s.core.scr)
    (hwb : u.core.wb = s.core.wb) (hlanes : u.core.lanes = s.core.lanes)
    (hcores : ∀ n, (u.coreAt n).map Core.scr = (s.coreAt n).map Core.scr)
    (hpool : ∀ k, (u.die k).pool = (s.die k).pool) (hview : ∀ k, (u.die k).view = (s.die k).view)
    (hmem : u.mem = s.mem) (hlent : u.lentMem = s.lentMem) : BytesKept s u := by
  refine ⟨fun sp y => ?_, fun k y => by rw [hview], fun y => ⟨by rw [hmem], by rw [hlanes]⟩⟩
  cases sp with
  | main => simp only [State.spaceByte, hphys, hview]
  | lent => simp only [State.spaceByte, hlent]
  | csm k =>
    have byte (v : State) : v.csmByte k y = (((v.coreAt (csmCore k y)).map Core.scr).map fun m => memGet m (csmAddr y)).getD 0 := by
      unfold State.csmByte; cases v.coreAt (csmCore k y) <;> rfl
    simp only [State.spaceByte, byte, hcores]
  | pool k => simp only [State.spaceByte, hpool]
  | wb => simp only [State.spaceByte, hwb]
  | own => simp only [State.spaceByte, hscr]

theorem scr_coreAt_modAt (s : State) (n : Nat) {f : Core → Core} (hp : ∀ c, (f c).phys = c.phys) (hs : ∀ c, (f c).scr = c.scr)
    (m : Nat) : ((s.modAt n f).coreAt m).map Core.scr = (s.coreAt m).map Core.scr := by
  rw [coreAt_modAt s fun c hc => (hp c).trans hc]
  split_ifs with h
  · subst h
    rw [Option.map_map]
    exact congrArg (Option.map · _) (funext hs)
  · rfl

/-! ## The ports a reader takes (R67) -/

theorem takeCsm_core (s : State) (sp : Space) (a n : Nat) :
    (s.takeCsm sp a n).core = { s.core with bankReads := (s.takeCsm sp a n).core.bankReads } := by
  cases sp with
  | csm k => simp only [State.takeCsm, State.modAt]; split_ifs <;> rfl
  | pool d => simp only [State.takeCsm, (modDie_onlyDies s d _).core]
  | main | lent | wb | own => rfl

theorem takeCsm_outside (s : State) (sp : Space) (a n : Nat) :
    { s.takeCsm sp a n with core := s.core, others := s.others, dies := s.dies } = s := by
  cases sp with
  | pool d =>
    have := congrArg (fun v : State => { v with core := s.core, others := s.others }) (modDie_onlyDies s d fun x =>
      x.useRows s.now [a / 64, (a + n - 1) / 64] false)
    exact this
  | csm | main | lent | wb | own => rfl

theorem die_eq_getElem (s : State) (k : Nat) : s.die k = s.dies[min k 3]'(by omega) := by
  unfold State.die
  by_cases h : k < 4
  · have hk : min k 3 = k := by omega
    simp [Array.getD, h, hk]
  · have hk : min k 3 = 3 := by omega
    simp [Array.getD, h, hk]

theorem dies_modDie (s : State) (d : Nat) (f : Die → Die) : (s.modDie d f).dies = s.dies.set (min d 3) (f (s.die d)) (by omega) := by
  rw [die_eq_getElem]
  match d with
  | 0 | 1 | 2 | n + 3 => simp [State.modDie]

/-- What a change of one die leaves alone in it, it leaves alone in every die. -/
theorem die_modDie_congr {β : Type} (g : Die → β) (s : State) (d k : Nat) {f : Die → Die} (hf : ∀ x, g (f x) = g x) :
    g ((s.modDie d f).die k) = g (s.die k) := by
  rw [die_eq_getElem, die_eq_getElem s k]
  simp only [dies_modDie, Vector.getElem_set]
  split_ifs with h
  · rw [hf, die_eq_getElem]; simp only [h]
  · rfl

theorem bytesKept_modDie (s : State) (d : Nat) {f : Die → Die} (hp : ∀ x, (f x).pool = x.pool) (hv : ∀ x, (f x).view = x.view) :
    BytesKept s (s.modDie d f) := by
  have honly : OnlyDies s (s.modDie d f) := modDie_onlyDies ..
  have hcore := honly.core
  have hlent : (s.modDie d f).lentMem = s.lentMem := by
    have := congrArg State.lentMem honly; exact this
  exact bytesKept_of_memories (congrArg Core.phys hcore) (congrArg Core.scr hcore) (congrArg Core.wb hcore)
    (congrArg Core.lanes hcore) (fun m => by rw [coreAt_congr (modDie_cores ..)]) (fun k => die_modDie_congr Die.pool s d k hp)
    (fun k => die_modDie_congr Die.view s d k hv) (modDie_mem ..) hlent

theorem bytesKept_modAt (s : State) (n : Nat) {f : Core → Core} (hphys : ∀ c, (f c).phys = c.phys) (hscr : ∀ c, (f c).scr = c.scr)
    (hwb : (f s.core).wb = s.core.wb) (hlanes : (f s.core).lanes = s.core.lanes) : BytesKept s (s.modAt n f) := by
  have hcore : (s.modAt n f).core = if s.core.phys = n then f s.core else s.core := rfl
  refine bytesKept_of_memories ?_ ?_ ?_ ?_ (scr_coreAt_modAt s n hphys hscr) (fun _ => rfl) (fun _ => rfl) rfl rfl
  all_goals
    rw [hcore]
    split_ifs
    · simp only [hphys, hscr, hwb, hlanes]
    · rfl

theorem bytesKept_takeCsm (s : State) (sp : Space) (a n : Nat) : BytesKept s (s.takeCsm sp a n) := by
  cases sp with
  | csm k => exact bytesKept_modAt s _ (fun _ => rfl) (fun _ => rfl) rfl rfl
  | pool d => exact bytesKept_modDie s d (fun _ => rfl) fun _ => rfl
  | main | lent | wb | own => exact bytesKept_refl s

/-! ## What a read is remembered by (R91, R93) -/

theorem dependOn_core (s : State) (sp : Space) (a n : Nat) :
    (s.dependOn sp a n).core = { s.core with dep := (s.dependOn sp a n).core.dep } := by
  cases sp with
  | main =>
    refine List.foldlRecOn (motive := fun u : Core => u = { s.core with dep := u.dep }) (List.range n) _ rfl fun u hu i _ => ?_
    split
    · next k _ => exact congrArg (fun v : Core => { v with dep := (u.depend k.die k.num).dep }) hu
    · exact hu
  | lent | csm | pool | wb | own => rfl

theorem dependOn_outside (s : State) (sp : Space) (a n : Nat) : Outside s (s.dependOn sp a n) := by
  cases sp <;> rfl

theorem countCorrected_outside (s : State) (sp : Space) (a n : Nat) : { s.countCorrected sp a n with fw := s.fw } = s := by
  cases sp <;> rfl

theorem countCorrected_core (s : State) (sp : Space) (a n : Nat) : (s.countCorrected sp a n).core = s.core := by
  cases sp <;> rfl

theorem Core.precedes_eq (c : Core) (id : Nat) : c.precedes id = { c with copy := (c.precedes id).copy } := rfl

/-! ## One piece of a load is read (R76) -/

/-- The state once the running core has read n bytes of a space for an access. -/
def State.afterRead (s : State) (sp : Space) (a n id : Nat) : State :=
  (((s.takeCsm sp a n).dependOn sp a n).mod fun c => c.precedes id).countCorrected sp a n

section
variable (s : State) (sp : Space) (a n id : Nat)

theorem afterRead_core : (s.afterRead sp a n id).core = { s.core with
    bankReads := (s.afterRead sp a n id).core.bankReads, dep := (s.afterRead sp a n id).core.dep
    copy := (s.afterRead sp a n id).core.copy } := by
  have hport := takeCsm_core s sp a n
  have hdep := dependOn_core (s.takeCsm sp a n) sp a n
  have hcore : (s.afterRead sp a n id).core = ((s.takeCsm sp a n).dependOn sp a n).core.precedes id := countCorrected_core ..
  rw [hcore, Core.precedes_eq, hdep, hport]

/-- What a read leaves of the state outside the core: the ports taken and the errors counted. -/
def ReadOutside (u : State) : Prop :=
  u.others = (s.takeCsm sp a n).others ∧ u.dies = (s.takeCsm sp a n).dies ∧ u.fw = (s.countCorrected sp a n).fw ∧
    { u with core := s.core, others := s.others, dies := s.dies, fw := s.fw } = s

theorem readOutside_afterRead : ReadOutside s sp a n (s.afterRead sp a n id) := by
  cases sp with
  | pool d =>
    have hout := takeCsm_outside s (.pool d) a n
    have hfw := congrArg State.fw hout
    have hrest := congrArg (fun v : State => { v with fw := s.fw }) hout
    exact ⟨rfl, rfl, hfw, hrest⟩
  | main | lent | csm | wb | own => exact ⟨rfl, rfl, rfl, rfl⟩

theorem bytesKept_countCorrected : BytesKept s (s.countCorrected sp a n) := by
  cases sp <;> exact bytesKept_refl s

theorem bytesKept_dependOn : BytesKept s (s.dependOn sp a n) := by
  have hcore := dependOn_core s sp a n
  have hmod : s.dependOn sp a n = s.mod fun _ => (s.dependOn sp a n).core := by cases sp <;> rfl
  rw [hmod]
  refine bytesKept_mod s _ ?_ ?_ ?_ ?_ <;> rw [hcore]

theorem bytesKept_afterRead : BytesKept s (s.afterRead sp a n id) :=
  (((bytesKept_takeCsm s sp a n).trans (bytesKept_dependOn ..)).trans (bytesKept_mod _ _ rfl rfl rfl rfl)).trans
    (bytesKept_countCorrected ..)

end

/-- The load with the bytes of its next piece. -/
def State.withPiece (s : State) (a : Access) : Access := (s.readPiece a).1

/-- A load that is ready reads a piece: the last completes it, another leaves it waiting for the next. -/
theorem exec_loadDataReturn_reads {s : State} {id : Nat} {a : Access} (hload : a.isLoad = true) (ha : s.core.access? id = some a)
    (hb : s.bind a = none) (hr : s.ready a = true) (hp : s.portFree a = true) (hu : undecoded a.space a.unread = none) :
    exec (.loadDataReturn id) s =
      let u := s.afterRead a.space (s.nextPiece a).1 (s.nextPiece a).2 a.id
      if (s.withPiece a).unread.isEmpty then .next ((u.mod fun c => c.dropAccess id).deliver (s.withPiece a))
      else .next { u with core := u.core.setAccess (s.withPiece a), fv := u.fv + 1 } := by
  rw [exec_loadDataReturn, execLoadDataReturn, ha]
  simp only [hload, hb, hr, hp, hu, not_true_eq_false, if_false]
  rfl

/-! ## Data returned to a register (R240, R243, R245, R248, R49) -/

theorem Core.put_eq (c : Core) (d : BitVec 5) (x : Word) (now lat : Nat) : c.put d x now lat = { c with
    s := (c.put d x now lat).s, marks := (c.put d x now lat).marks, owed := (c.put d x now lat).owed
    ready := (c.put d x now lat).ready } := by
  unfold Core.put Core.ws; split_ifs <;> rfl

theorem poisonReturn_of_load {a : Access} (h : a.isLoad = true) (c : Core) (r : PoisonReport) :
    c.poisonReturn a r = { c with owed := (c.poisonReturn a r).owed, marks := (c.poisonReturn a r).marks } := by
  unfold Core.poisonReturn
  split
  · next hk => rw [Access.isLoad, hk] at h; exact absurd h Bool.false_ne_true
  · split <;> rfl

theorem deliver_marked {s : State} {a : Access} (h : a.poisoned = true ∨ a.badMac = true) :
    (s.deliver a).core = s.core.poisonReturn a (a.report s.now) := if_pos h

theorem deliver_load {s : State} {a : Access} {n : Nat} {sext : Bool} (hk : a.kind = .load (.s n) sext)
    (hp : a.poisoned = false) (hm : a.badMac = false) :
    (s.deliver a).core = s.core.put (BitVec.ofNat 5 n) (loadValue a.bytes sext) s.now 0 := by
  simp [State.deliver, hk, hp, hm]

theorem deliver_kload {s : State} {a : Access} {n : Nat} (hk : a.kind = .kload n) (hp : a.poisoned = false) (hm : a.badMac = false) :
    (s.deliver a).core = s.core.putK (BitVec.ofNat 4 n) (unsealToken s.sealKey s.core.partId a.bytes) s.now 6 := by
  simp [State.deliver, hk, hp, hm]

theorem deliver_vload {s : State} {a : Access} {n : Nat} {g : PReg} (hk : a.kind = .vload n g) (hp : a.poisoned = false)
    (hm : a.badMac = false) : (s.deliver a).core =
      s.core.putV (BitVec.ofNat 4 n) (guarded g (s.core.rv (BitVec.ofNat 4 n)) (elemAt a.bytes)) (s.now - 3) 0 := by
  simp [State.deliver, hk, hp, hm]

theorem deliver_load_keeps {s : State} {a : Access} {n : Nat} {sext : Bool} (hk : a.kind = .load (.s n) sext) :
    (s.deliver a).core.v = s.core.v ∧ (s.deliver a).core.k = s.core.k := by
  by_cases hbad : a.poisoned = true ∨ a.badMac = true
  · rw [deliver_marked hbad, poisonReturn_of_load (by rw [Access.isLoad, hk])]; exact ⟨rfl, rfl⟩
  · obtain ⟨hp, hm⟩ : a.poisoned = false ∧ a.badMac = false := by simpa using hbad
    rw [deliver_load hk hp hm, Core.put_eq]; exact ⟨rfl, rfl⟩

theorem deliver_kload_keeps {s : State} {a : Access} {n : Nat} (hk : a.kind = .kload n) :
    (s.deliver a).core.s = s.core.s ∧ (s.deliver a).core.v = s.core.v := by
  by_cases hbad : a.poisoned = true ∨ a.badMac = true
  · rw [deliver_marked hbad, poisonReturn_of_load (by rw [Access.isLoad, hk])]; exact ⟨rfl, rfl⟩
  · obtain ⟨hp, hm⟩ : a.poisoned = false ∧ a.badMac = false := by simpa using hbad
    rw [deliver_kload hk hp hm]; exact ⟨rfl, rfl⟩

theorem deliver_vload_keeps {s : State} {a : Access} {n : Nat} {g : PReg} (hk : a.kind = .vload n g) :
    (s.deliver a).core.s = s.core.s ∧ (s.deliver a).core.k = s.core.k := by
  by_cases hbad : a.poisoned = true ∨ a.badMac = true
  · rw [deliver_marked hbad, poisonReturn_of_load (by rw [Access.isLoad, hk])]; exact ⟨rfl, rfl⟩
  · obtain ⟨hp, hm⟩ : a.poisoned = false ∧ a.badMac = false := by simpa using hbad
    rw [deliver_vload hk hp hm]; exact ⟨rfl, rfl⟩

/-- Returned data of a load move registers, their marks, what is owed and the cycles registers are ready on. -/
theorem deliver_core_of_load {a : Access} (h : a.isLoad = true) (s : State) : (s.deliver a).core = { s.core with
    s := (s.deliver a).core.s, v := (s.deliver a).core.v, k := (s.deliver a).core.k, marks := (s.deliver a).core.marks
    owed := (s.deliver a).core.owed, ready := (s.deliver a).core.ready } := by
  by_cases hbad : a.poisoned = true ∨ a.badMac = true
  · rw [deliver_marked hbad, poisonReturn_of_load h]
  · obtain ⟨hp, hm⟩ : a.poisoned = false ∧ a.badMac = false := by simpa using hbad
    cases hk : a.kind with
    | load r sext =>
      cases r with
      | s n => rw [deliver_load hk hp hm, Core.put_eq]
      | v | k | p | b | bc | loopRegs => simp [State.deliver, hk, hp, hm]
    | kload n => rw [deliver_kload hk hp hm]; rfl
    | vload n g => rw [deliver_vload hk hp hm]; rfl
    | store | atomic | waita => rw [Access.isLoad, hk] at h; exact absurd h Bool.false_ne_true

/-- A register written by its number reads as the value, `s0` discarding it (R185). -/
theorem rs_put_number (c : Core) {n : Nat} (hn : n < 32) (x : Word) (now lat : Nat) (q : BitVec 5) :
    (c.put (BitVec.ofNat 5 n) x now lat).rs q = if q.toNat = n ∧ q ≠ 0 then x else c.rs q := by
  have hq : q.toNat = n ↔ q = BitVec.ofNat 5 n := by
    rw [BitVec.toNat_eq, BitVec.toNat_ofNat, Nat.mod_eq_of_lt hn]
  by_cases h : q = BitVec.ofNat 5 n
  · subst h
    rw [put_rs]
    by_cases h0 : BitVec.ofNat 5 n = 0
    · rw [if_pos h0, if_neg fun hc => hc.2 h0, h0]; rfl
    · rw [if_neg h0, if_pos ⟨hq.mpr rfl, h0⟩]
  · rw [put_rs_ne _ _ _ _ _ _ h, if_neg fun hc => h (hq.mp hc.1)]

theorem toNat_eq_iff_ofNat {n : Nat} (hn : n < 16) (q : BitVec 4) : q.toNat = n ↔ q = BitVec.ofNat 4 n := by
  rw [BitVec.toNat_eq, BitVec.toNat_ofNat, Nat.mod_eq_of_lt hn]

theorem rk_putK_number (c : Core) {n : Nat} (hn : n < 16) (x : Token) (now lat : Nat) (q : BitVec 4) :
    (c.putK (BitVec.ofNat 4 n) x now lat).rk q = if q.toNat = n then x else c.rk q := by
  simp only [toNat_eq_iff_ofNat hn]
  split_ifs with h
  · rw [h, putK_rk]
  · exact putK_rk_ne _ _ _ _ _ _ h

theorem rv_putV_number (c : Core) {n : Nat} (hn : n < 16) (x : VReg) (now lat : Nat) (q : BitVec 4) :
    (c.putV (BitVec.ofNat 4 n) x now lat).rv q = if q.toNat = n then x else c.rv q := by
  simp only [toNat_eq_iff_ofNat hn]
  split_ifs with h
  · rw [h, putV_rv]
  · exact putV_rv_ne _ _ _ _ _ _ h

/-! ## A load completed by its last piece (R76, R243) -/

/-- The state after the last piece of a load. -/
def State.loadDone (s : State) (a : Access) : State :=
  ((s.afterRead a.space (s.nextPiece a).1 (s.nextPiece a).2 a.id).mod fun c => c.dropAccess a.id).deliver (s.withPiece a)

/-- The core without what a load that returns moves: its register, the list of accesses, and what the strand has seen. -/
def Core.seenAs (c u : Core) : Core :=
  { u.still with
    s := c.s, v := c.v, k := c.k, acc := c.acc, dep := c.dep, depMsc := c.depMsc, mscSeen := c.mscSeen, copy := c.copy }

/-- Between two cores only what a load that returns moves may differ. -/
def LoadMoves (c u : Core) : Prop :=
  { u with bankReads := c.bankReads, dep := c.dep, copy := c.copy, acc := c.acc, s := c.s, v := c.v, k := c.k, marks := c.marks
           owed := c.owed, ready := c.ready } = c

theorem LoadMoves.seenAs {c u : Core} (h : LoadMoves c u) : c.seenAs u = c.still := by
  have := congrArg (fun v : Core => { v.still with
    s := c.s, v := c.v, k := c.k, acc := c.acc, dep := c.dep, depMsc := c.depMsc, mscSeen := c.mscSeen, copy := c.copy }) h
  exact this

theorem loadMoves_afterRead (s : State) (sp : Space) (a n id : Nat) : LoadMoves s.core (s.afterRead sp a n id).core := by
  rw [afterRead_core]; rfl

section
variable {s : State} {a : Access}

theorem LoadMoves.trans {c d u : Core} (h : LoadMoves c d) (k : LoadMoves d u) : LoadMoves c u := by
  have := congrArg (fun v : Core => { v with
    bankReads := c.bankReads, dep := c.dep, copy := c.copy, acc := c.acc, s := c.s, v := c.v, k := c.k, marks := c.marks
    owed := c.owed, ready := c.ready }) k
  exact this.trans h

theorem loadMoves_deliver (h : a.isLoad = true) (s : State) : LoadMoves s.core (s.deliver a).core := by
  rw [deliver_core_of_load h]; rfl

theorem loadMoves_dropAccess (c : Core) (id : Nat) : LoadMoves c (c.dropAccess id) := rfl

theorem loadMoves_loadDone (h : a.isLoad = true) : LoadMoves s.core (s.loadDone a).core := by
  have hread := loadMoves_afterRead s a.space (s.nextPiece a).1 (s.nextPiece a).2 a.id
  exact (hread.trans (loadMoves_dropAccess _ a.id)).trans (loadMoves_deliver (a := s.withPiece a) h _)

theorem loadDone_acc (h : a.isLoad = true) : (s.loadDone a).core.acc = s.core.acc.filter fun y => y.id ≠ a.id := by
  have hdeliver := congrArg Core.acc (deliver_core_of_load (a := s.withPiece a) h
    ((s.afterRead a.space (s.nextPiece a).1 (s.nextPiece a).2 a.id).mod fun c => c.dropAccess a.id))
  refine Eq.trans hdeliver ?_
  have hacc : (s.afterRead a.space (s.nextPiece a).1 (s.nextPiece a).2 a.id).core.acc = s.core.acc := by rw [afterRead_core]
  exact congrArg (List.filter _) hacc

theorem loadDone_outside : ReadOutside s a.space (s.nextPiece a).1 (s.nextPiece a).2 (s.loadDone a) :=
  readOutside_afterRead s a.space (s.nextPiece a).1 (s.nextPiece a).2 a.id

theorem bytesKept_loadDone (h : a.isLoad = true) : BytesKept s (s.loadDone a) := by
  let m := (s.afterRead a.space (s.nextPiece a).1 (s.nextPiece a).2 a.id).mod fun c => c.dropAccess a.id
  have hcore := deliver_core_of_load (a := s.withPiece a) h m
  have hdeliver : BytesKept m (m.mod fun _ => (m.deliver (s.withPiece a)).core) := by
    refine bytesKept_mod m _ ?_ ?_ ?_ ?_ <;> rw [hcore]
  have hdrop : BytesKept (s.afterRead a.space (s.nextPiece a).1 (s.nextPiece a).2 a.id) m := bytesKept_mod _ _ rfl rfl rfl rfl
  exact ((bytesKept_afterRead ..).trans hdrop).trans hdeliver

/-- The registers that the data return to are those that stood before the read. -/
theorem registers_afterRead (s : State) (sp : Space) (a n id : Nat) :
    (s.afterRead sp a n id).core.s = s.core.s ∧ (s.afterRead sp a n id).core.v = s.core.v ∧
      (s.afterRead sp a n id).core.k = s.core.k ∧ (s.afterRead sp a n id).core.vtopo = s.core.vtopo := by
  rw [afterRead_core]; exact ⟨rfl, rfl, rfl, rfl⟩

theorem loadDone_load {n : Nat} {sext : Bool} (hk : a.kind = .load (.s n) sext) (hn : n < 32)
    (hp : (s.withPiece a).poisoned = false) (hm : (s.withPiece a).badMac = false) (q : BitVec 5) :
    (s.loadDone a).core.rs q = if q.toNat = n ∧ q ≠ 0 then loadValue (s.withPiece a).bytes sext else s.core.rs q := by
  obtain ⟨hs, -, -, -⟩ := registers_afterRead s a.space (s.nextPiece a).1 (s.nextPiece a).2 a.id
  have hk' : (s.withPiece a).kind = .load (.s n) sext := hk
  rw [State.loadDone, deliver_load hk' hp hm, rs_put_number _ hn]
  simp only [Core.rs, State.mod_core, Core.dropAccess, hs]

theorem loadDone_kload {n : Nat} (hk : a.kind = .kload n) (hn : n < 16) (hp : (s.withPiece a).poisoned = false)
    (hm : (s.withPiece a).badMac = false) (q : BitVec 4) : (s.loadDone a).core.rk q =
      if q.toNat = n then unsealToken s.sealKey s.core.partId (s.withPiece a).bytes else s.core.rk q := by
  let u := s.afterRead a.space (s.nextPiece a).1 (s.nextPiece a).2 a.id
  obtain ⟨-, -, hkreg, hvtopo⟩ := registers_afterRead s a.space (s.nextPiece a).1 (s.nextPiece a).2 a.id
  have hpart : (u.mod fun c => c.dropAccess a.id).core.partId = s.core.partId := congrArg (fun v => (v.extractLsb' 56 6).toNat) hvtopo
  have hparts : u.parts = s.parts := by
    obtain ⟨-, -, -, hrest⟩ := readOutside_afterRead s a.space (s.nextPiece a).1 (s.nextPiece a).2 a.id
    have := congrArg State.parts hrest; exact this
  have hseal : (u.mod fun c => c.dropAccess a.id).sealKey = s.sealKey := by
    rw [State.sealKey, hpart, State.mod_parts, hparts]; rfl
  have hk' : (s.withPiece a).kind = .kload n := hk
  rw [State.loadDone, deliver_kload hk' hp hm, rk_putK_number _ hn, hseal, hpart]
  simp only [Core.rk, State.mod_core, Core.dropAccess, hkreg]

theorem loadDone_vload {n : Nat} {g : PReg} (hk : a.kind = .vload n g) (hn : n < 16) (hp : (s.withPiece a).poisoned = false)
    (hm : (s.withPiece a).badMac = false) (q : BitVec 4) : (s.loadDone a).core.rv q =
      if q.toNat = n then guarded g (s.core.rv q) (elemAt (s.withPiece a).bytes) else s.core.rv q := by
  obtain ⟨-, hv, -, -⟩ := registers_afterRead s a.space (s.nextPiece a).1 (s.nextPiece a).2 a.id
  have hk' : (s.withPiece a).kind = .vload n g := hk
  rw [State.loadDone, deliver_vload hk' hp hm, rv_putV_number _ hn]
  simp only [Core.rv, State.mod_core, Core.dropAccess, hv]
  split_ifs with hq
  · rw [(toNat_eq_iff_ofNat hn q).mp hq]
  · rfl

/-- Poisoned data leave the scalar register and mark it (R243). -/
theorem loadDone_marked {n : Nat} {sext : Bool} (hk : a.kind = .load (.s n) sext) (hp : (s.withPiece a).poisoned = true)
    (hn : 0 < n) : (s.loadDone a).core.s = s.core.s ∧ (Reg.s n, (s.withPiece a).report s.now) ∈ (s.loadDone a).core.marks := by
  obtain ⟨hs, -, -, -⟩ := registers_afterRead s a.space (s.nextPiece a).1 (s.nextPiece a).2 a.id
  have hk' : (s.withPiece a).kind = .load (.s n) sext := hk
  have hload : (s.withPiece a).isLoad = true := by rw [Access.isLoad, hk']
  have hnow : (s.afterRead a.space (s.nextPiece a).1 (s.nextPiece a).2 a.id).now = s.now := by
    obtain ⟨-, -, -, hrest⟩ := readOutside_afterRead s a.space (s.nextPiece a).1 (s.nextPiece a).2 a.id
    have := congrArg State.now hrest; exact this
  rw [State.loadDone, deliver_marked (.inl hp), State.mod_now, hnow]
  refine ⟨?_, poisonReturn_marks hk' hn⟩
  rw [poisonReturn_of_load hload]
  exact hs

theorem loadDone_load_keeps {n : Nat} {sext : Bool} (hk : a.kind = .load (.s n) sext) :
    (s.loadDone a).core.v = s.core.v ∧ (s.loadDone a).core.k = s.core.k := by
  obtain ⟨-, hv, hkreg, -⟩ := registers_afterRead s a.space (s.nextPiece a).1 (s.nextPiece a).2 a.id
  obtain ⟨dv, dk⟩ := deliver_load_keeps (s := (s.afterRead a.space (s.nextPiece a).1 (s.nextPiece a).2 a.id).mod fun c =>
    c.dropAccess a.id) (a := s.withPiece a) hk
  exact ⟨dv.trans hv, dk.trans hkreg⟩

theorem loadDone_kload_keeps {n : Nat} (hk : a.kind = .kload n) :
    (s.loadDone a).core.s = s.core.s ∧ (s.loadDone a).core.v = s.core.v := by
  obtain ⟨hs, hv, -, -⟩ := registers_afterRead s a.space (s.nextPiece a).1 (s.nextPiece a).2 a.id
  obtain ⟨ds, dv⟩ := deliver_kload_keeps (s := (s.afterRead a.space (s.nextPiece a).1 (s.nextPiece a).2 a.id).mod fun c =>
    c.dropAccess a.id) (a := s.withPiece a) hk
  exact ⟨ds.trans hs, dv.trans hv⟩

theorem loadDone_vload_keeps {n : Nat} {g : PReg} (hk : a.kind = .vload n g) :
    (s.loadDone a).core.s = s.core.s ∧ (s.loadDone a).core.k = s.core.k := by
  obtain ⟨hs, -, hkreg, -⟩ := registers_afterRead s a.space (s.nextPiece a).1 (s.nextPiece a).2 a.id
  obtain ⟨ds, dk⟩ := deliver_vload_keeps (s := (s.afterRead a.space (s.nextPiece a).1 (s.nextPiece a).2 a.id).mod fun c =>
    c.dropAccess a.id) (a := s.withPiece a) hk
  exact ⟨ds.trans hs, dk.trans hkreg⟩

end

/-! ## A load of one piece -/

theorem length_spaceRead (s : State) (sp : Space) (a n : Nat) : (s.spaceRead sp a n).length = n := by
  induction n generalizing a with
  | zero => rfl
  | succ n ih => rw [State.spaceRead, List.length_cons, ih]

/-- Bytes laid out from an address read back in order. -/
theorem memGet_cellsAt (a : Nat) (bs : List Byte) {i : Nat} (hi : i < bs.length) : memGet (cellsAt a bs) (a + i) = bs[i] := by
  induction bs generalizing a i with
  | nil => exact absurd hi (Nat.not_lt_zero i)
  | cons b bs ih =>
    cases i with
    | zero => simp [cellsAt, memGet, mapGet]
    | succ j =>
      have hj := ih (a + 1) (Nat.lt_of_succ_lt_succ hi)
      rw [show a + 1 + j = a + (j + 1) by omega] at hj
      have hne : a ≠ a + (j + 1) := by omega
      rw [List.getElem_cons_succ, ← hj]
      simp only [cellsAt, memGet, mapGet, if_neg hne]

section
variable {s : State} {a : Access} {r : Nat × Nat} (hreads : a.reads = [r]) (hr : 0 < r.2) (hgot : a.got = [])
include hreads hgot

theorem unread_whole : a.unread = [r] := by simp [Access.unread, hreads, hgot]

theorem nextPiece_whole : s.nextPiece a = r := by
  rw [State.nextPiece, unread_whole hreads hgot, List.length_singleton, Nat.mod_one]; rfl

theorem bytes_withPiece_whole : (s.withPiece a).bytes = s.spaceRead a.space r.1 r.2 := by
  have hcells : (s.withPiece a).got = cellsAt r.1 (s.spaceRead a.space r.1 r.2) := by
    have : (s.withPiece a).got = a.got ++ cellsAt (s.nextPiece a).1 (s.spaceRead a.space (s.nextPiece a).1 (s.nextPiece a).2) := rfl
    rw [this, hgot, nextPiece_whole hreads hgot]; rfl
  have hreads' : (s.withPiece a).reads = [r] := hreads
  have hlen := length_spaceRead s a.space r.1 r.2
  rw [Access.bytes, hreads', hcells, List.flatMap_singleton]
  refine List.ext_getElem (by rw [List.length_map, List.length_range, hlen]) fun i hi hi' => ?_
  rw [List.getElem_map, List.getElem_range]
  exact memGet_cellsAt r.1 _ hi'

include hr

theorem unread_withPiece_whole : (s.withPiece a).unread = [] := by
  obtain ⟨m, hm⟩ : ∃ m, r.2 = m + 1 := ⟨r.2 - 1, by omega⟩
  have hcells : (s.withPiece a).got = a.got ++ cellsAt (s.nextPiece a).1 (s.spaceRead a.space (s.nextPiece a).1 (s.nextPiece a).2) := rfl
  have hreads' : (s.withPiece a).reads = [r] := hreads
  rw [Access.unread, hreads', hcells, hgot, nextPiece_whole hreads hgot, hm]
  simp [State.spaceRead, cellsAt]

end

/-! ## The event of a load (R76, R90) -/

/-- The state after a piece of a load that is not its last. -/
def State.loadGoes (s : State) (a : Access) : State :=
  let u := s.afterRead a.space (s.nextPiece a).1 (s.nextPiece a).2 a.id
  { u with core := u.core.setAccess (s.withPiece a), fv := u.fv + 1 }

section
variable {s : State} {a : Access}

theorem loadMoves_loadGoes : LoadMoves s.core (s.loadGoes a).core := loadMoves_afterRead s a.space (s.nextPiece a).1 (s.nextPiece a).2 a.id

theorem loadGoes_registers :
    ((s.loadGoes a).core.s, (s.loadGoes a).core.v, (s.loadGoes a).core.k) = (s.core.s, s.core.v, s.core.k) := by
  obtain ⟨hs, hv, hk, -⟩ := registers_afterRead s a.space (s.nextPiece a).1 (s.nextPiece a).2 a.id
  exact congrArg₂ Prod.mk hs (congrArg₂ Prod.mk hv hk)

theorem loadGoes_acc : (s.loadGoes a).core.acc = s.core.acc.map fun y => if y.id = a.id then s.withPiece a else y := by
  have hacc : (s.afterRead a.space (s.nextPiece a).1 (s.nextPiece a).2 a.id).core.acc = s.core.acc := by rw [afterRead_core]
  exact congrArg (List.map _) hacc

theorem bytesKept_loadGoes : BytesKept s (s.loadGoes a) := by
  let u := s.afterRead a.space (s.nextPiece a).1 (s.nextPiece a).2 a.id
  have hset : BytesKept u (u.mod fun c => c.setAccess (s.withPiece a)) := bytesKept_mod u _ rfl rfl rfl rfl
  exact (bytesKept_afterRead s a.space _ _ a.id).trans hset

/-- What the event of a load leaves of the state outside the core, the count of free values apart. -/
theorem ReadOutside.free {sp : Space} {x n : Nat} {u : State} (h : ReadOutside s sp x n u) :
    u.others = (s.takeCsm sp x n).others ∧ u.dies = (s.takeCsm sp x n).dies ∧ u.fw = (s.countCorrected sp x n).fw ∧
      { u with core := s.core, others := s.others, dies := s.dies, fw := s.fw, fv := s.fv } = s := by
  obtain ⟨hothers, hdies, hfw, hrest⟩ := h
  have hfree := congrArg (fun v : State => { v with fv := s.fv }) hrest
  exact ⟨hothers, hdies, hfw, hfree⟩

theorem loadGoes_outside : let p := s.nextPiece a
    (s.loadGoes a).others = (s.takeCsm a.space p.1 p.2).others ∧ (s.loadGoes a).dies = (s.takeCsm a.space p.1 p.2).dies ∧
      (s.loadGoes a).fw = (s.countCorrected a.space p.1 p.2).fw ∧
      { s.loadGoes a with core := s.core, others := s.others, dies := s.dies, fw := s.fw, fv := s.fv } = s :=
  (readOutside_afterRead s a.space (s.nextPiece a).1 (s.nextPiece a).2 a.id).free

variable {id : Nat} (hload : a.isLoad = true) (h : LoadReady s id a) (hu : undecoded a.space a.unread = none)
include hload h hu

theorem loadDataReturn_done (hlast : (s.withPiece a).unread = []) : exec (.loadDataReturn id) s = .next (s.loadDone a) := by
  rw [exec_loadDataReturn_reads hload h.found h.sent h.ready h.port hu, hlast, ← h.id_eq]; rfl

theorem loadDataReturn_goes (hmore : (s.withPiece a).unread ≠ []) : exec (.loadDataReturn id) s = .next (s.loadGoes a) := by
  have hne : (s.withPiece a).unread.isEmpty = false := by simpa using hmore
  rw [exec_loadDataReturn_reads hload h.found h.sent h.ready h.port hu, hne]; rfl

end

/-- A load of one piece that is ready returns its data (R90, R240). -/
theorem loadDataReturn_whole {s : State} {id : Nat} {a : Access} {r : Nat × Nat} (hload : a.isLoad = true) (h : LoadReady s id a)
    (hreads : a.reads = [r]) (hr : 0 < r.2) (hgot : a.got = []) (hu : undecoded a.space [r] = none) :
    exec (.loadDataReturn id) s = .next (s.loadDone a) :=
  loadDataReturn_done hload h ((unread_whole hreads hgot).symm ▸ hu) (unread_withPiece_whole hreads hr hgot)

section
variable {s : State} {id : Nat} {a : Access} {r : Nat × Nat} (hload : a.isLoad = true) (h : LoadReady s id a)
include hload h

/-- A load of one piece that is ready completes with what holds of the state after its last piece. -/
theorem loadDataReturn_completes (hreads : a.reads = [r]) (hr : 0 < r.2) (hgot : a.got = []) (hu : undecoded a.space [r] = none)
    {P : State → Prop} (hP : P (s.loadDone a)) : ∃ u, exec (.loadDataReturn id) s = .next u ∧
      (u.core.acc = s.core.acc.filter fun y => y.id ≠ id) ∧ P u ∧ s.core.seenAs u.core = s.core.still ∧ u.fv = s.fv ∧
      (u.others = (s.takeCsm a.space r.1 r.2).others ∧ u.dies = (s.takeCsm a.space r.1 r.2).dies ∧
        u.fw = (s.countCorrected a.space r.1 r.2).fw ∧
        { u with core := s.core, others := s.others, dies := s.dies, fw := s.fw, fv := s.fv } = s ∧ BytesKept s u) := by
  have hout : ReadOutside s a.space (s.nextPiece a).1 (s.nextPiece a).2 (s.loadDone a) := loadDone_outside
  obtain ⟨hothers, hdies, hfw, hfree⟩ := hout.free
  obtain ⟨-, -, -, hrest⟩ := hout
  rw [nextPiece_whole hreads hgot] at hothers hdies hfw
  have hfv : (s.loadDone a).fv = s.fv := by
    have := congrArg State.fv hrest; exact this
  exact ⟨_, loadDataReturn_whole hload h hreads hr hgot hu, h.id_eq ▸ loadDone_acc hload, hP, (loadMoves_loadDone hload).seenAs, hfv,
    hothers, hdies, hfw, hfree, bytesKept_loadDone hload⟩

end

section
variable {s : State} {a : Access} {r : Nat × Nat} (hreads : a.reads = [r]) (hgot : a.got = [])
include hreads hgot

theorem poisoned_withPiece_whole (hp : a.poisoned = false) : (s.withPiece a).poisoned = s.poisonIn a.space r.1 r.2 := by
  have h : (s.withPiece a).poisoned = (a.poisoned || s.poisonIn a.space (s.nextPiece a).1 (s.nextPiece a).2) := rfl
  rw [h, hp, nextPiece_whole hreads hgot, Bool.false_or]

theorem report_withPiece_whole (hm : a.badMac = false) (hbad : s.poisonIn a.space r.1 r.2 = true) {n : Nat} {sext : Bool}
    (hk : a.kind = .load (.s n) sext) : (s.withPiece a).report s.now =
      ⟨s.now, false, a.src, BitVec.ofNat 5 n, BitVec.ofNat 56 a.va, a.line <|> s.firstLine a.space r.1 r.2 .badMac⟩ := by
  have hmac : (s.withPiece a).badMac = false := by
    have h : (s.withPiece a).badMac = (a.badMac || (s.macBad a.space (s.nextPiece a).1 (s.nextPiece a).2 &&
      !s.poisonIn a.space (s.nextPiece a).1 (s.nextPiece a).2)) := rfl
    rw [h, hm, nextPiece_whole hreads hgot, hbad, Bool.not_true, Bool.and_false, Bool.false_or]
  have hline : (s.withPiece a).line = (a.line <|> s.firstLine a.space r.1 r.2 .badMac) := by
    have h : (s.withPiece a).line =
      (a.line <|> s.firstLine a.space (s.nextPiece a).1 (s.nextPiece a).2 .badMac) := rfl
    rw [h, nextPiece_whole hreads hgot]
  have hdst : (s.withPiece a).dst = some (.s n, n) := by
    have hk' : (s.withPiece a).kind = .load (.s n) sext := hk
    rw [Access.dst, hk']
  have hsrc : (s.withPiece a).src = a.src := rfl
  have hva : (s.withPiece a).va = a.va := rfl
  rw [Access.report, hmac, hsrc, hdst, hline, hva]; rfl

end

theorem badMac_withPiece {s : State} {a : Access} (hm : a.badMac = false)
    (hmac : s.macBad a.space (s.nextPiece a).1 (s.nextPiece a).2 = false) : (s.withPiece a).badMac = false := by
  have h : (s.withPiece a).badMac = (a.badMac || (s.macBad a.space (s.nextPiece a).1 (s.nextPiece a).2 &&
    !s.poisonIn a.space (s.nextPiece a).1 (s.nextPiece a).2)) := rfl
  rw [h, hm, hmac, Bool.false_and, Bool.false_or]

theorem poisoned_withPiece {s : State} {a : Access} (hp : a.poisoned = false)
    (hgood : s.poisonIn a.space (s.nextPiece a).1 (s.nextPiece a).2 = false) : (s.withPiece a).poisoned = false := by
  have h : (s.withPiece a).poisoned = (a.poisoned || s.poisonIn a.space (s.nextPiece a).1 (s.nextPiece a).2) := rfl
  rw [h, hp, hgood, Bool.false_or]

/-! ## A piece of a load -/

section
variable {s : State} {id : Nat} {a : Access} (hload : a.isLoad = true) (h : LoadReady s id a)
  (hu : undecoded a.space a.unread = none)
include hload h hu

/-- What the event of a load's piece moves, by whether it was the last. -/
theorem loadDataReturn_piece (p : Nat × Nat) (hp : p = s.nextPiece a) : ∃ u, exec (.loadDataReturn id) s = .next u ∧
    (u.others = (s.takeCsm a.space p.1 p.2).others ∧ u.dies = (s.takeCsm a.space p.1 p.2).dies ∧
      u.fw = (s.countCorrected a.space p.1 p.2).fw ∧
      { u with core := s.core, others := s.others, dies := s.dies, fw := s.fw, fv := s.fv } = s ∧ BytesKept s u) ∧
    s.core.seenAs u.core = s.core.still ∧ ((s.withPiece a).unread ≠ [] → u = s.loadGoes a) ∧
    ((s.withPiece a).unread = [] → u = s.loadDone a) := by
  subst hp
  by_cases hlast : (s.withPiece a).unread = []
  · have hout : ReadOutside s a.space (s.nextPiece a).1 (s.nextPiece a).2 (s.loadDone a) := loadDone_outside
    obtain ⟨hothers, hdies, hfw, hfree⟩ := hout.free
    exact ⟨_, loadDataReturn_done hload h hu hlast, ⟨hothers, hdies, hfw, hfree, bytesKept_loadDone hload⟩,
      (loadMoves_loadDone hload).seenAs, fun hmore => absurd hlast hmore, fun _ => rfl⟩
  · obtain ⟨hothers, hdies, hfw, hfree⟩ := loadGoes_outside (s := s) (a := a)
    exact ⟨_, loadDataReturn_goes hload h hu hlast, ⟨hothers, hdies, hfw, hfree, bytesKept_loadGoes⟩, loadMoves_loadGoes.seenAs,
      fun _ => rfl, fun hno => absurd hno hlast⟩

end

end Sys2Proof.Machine
end

section
/-! SUPPORT. Token atomics at their serialisation point (06 R104, R114, R119, R125, R129): the word's bytes, what a write there
reports, and the waiters it wakes. -/

namespace Sys2Proof.Machine

/-! ## The bytes of a word -/

theorem mem_cellsAt_bounds {a y : Nat} {b : Byte} {bs : List Byte} (h : (y, b) ∈ cellsAt a bs) : a ≤ y ∧ y < a + bs.length := by
  induction bs generalizing a with
  | nil => exact absurd h List.not_mem_nil
  | cons x bs ih =>
    rw [List.length_cons]
    rcases List.mem_cons.mp h with h | h
    · obtain ⟨rfl, -⟩ := Prod.mk.inj h; omega
    · obtain ⟨hlo, hhi⟩ := ih h; omega

theorem notMem_cellsAt {a y n x : Nat} (h : y < a ∨ a + n ≤ y) (b : Byte) : (y, b) ∉ cellsAt a (natToBytes n x) := fun hb => by
  obtain ⟨hlo, hhi⟩ := mem_cellsAt_bounds hb
  rw [length_natToBytes] at hhi
  omega

theorem cellsAt_once {a y : Nat} {b b' : Byte} {bs : List Byte} (h : (y, b) ∈ cellsAt a bs) (h' : (y, b') ∈ cellsAt a bs) :
    b = b' := by
  induction bs generalizing a with
  | nil => exact absurd h List.not_mem_nil
  | cons x bs ih =>
    rcases List.mem_cons.mp h with h1 | h1 <;> rcases List.mem_cons.mp h' with h2 | h2
    · exact (Prod.mk.inj h1).2.trans (Prod.mk.inj h2).2.symm
    · have := (mem_cellsAt_bounds h2).1
      have := (Prod.mk.inj h1).1
      omega
    · have := (mem_cellsAt_bounds h1).1
      have := (Prod.mk.inj h2).1
      omega
    · exact ih h1 h2

theorem memRead_of_cells {m : Memory} {a n x : Nat} (h : ∀ y b, (y, b) ∈ cellsAt a (natToBytes n x) → memGet m y = b) :
    memRead m a n = natToBytes n x := by
  induction n generalizing a x with
  | zero => rfl
  | succ n ih =>
    have hfirst := h a _ List.mem_cons_self
    rw [memRead, natToBytes, hfirst, ih fun y b hb => h y b (List.mem_cons_of_mem _ hb)]

theorem spaceRead_of_cells {s : State} {sp : Space} {a n x : Nat}
    (h : ∀ y b, (y, b) ∈ cellsAt a (natToBytes n x) → s.spaceByte sp y = b) : s.spaceRead sp a n = natToBytes n x := by
  induction n generalizing a x with
  | zero => rfl
  | succ n ih =>
    have hfirst := h a _ List.mem_cons_self
    rw [State.spaceRead, natToBytes, hfirst, ih fun y b hb => h y b (List.mem_cons_of_mem _ hb)]

/-! ## An access of a core -/

theorem access?_id {c : Core} {id : Nat} {y : Access} (h : c.access? id = some y) : y.id = id := by
  have := List.find?_some h
  exact of_decide_eq_true this

theorem access?_setAccess {c : Core} {a y : Access} (h : c.access? a.id = some y) : (c.setAccess a).access? a.id = some a := by
  have hy := access?_id h
  unfold Core.access? Core.setAccess at *
  dsimp only
  rw [List.find?_map]
  have hsame : ((fun x : Access => decide (x.id = a.id)) ∘ fun x => if x.id = a.id then a else x) = fun x => decide (x.id = a.id) := by
    funext x
    by_cases hx : x.id = a.id <;> simp [hx]
  rw [hsame, h, Option.map_some, if_pos hy]

theorem access?_congr {c d : Core} (h : d.acc = c.acc) (id : Nat) : d.access? id = c.access? id := by
  rw [Core.access?, h, Core.access?]

theorem access?_dropAccess_ne (c : Core) {id k : Nat} (h : id ≠ k) : (c.dropAccess k).access? id = c.access? id := by
  unfold Core.access? Core.dropAccess
  dsimp only
  rw [List.find?_filter]
  congr 1
  funext x
  by_cases hx : x.id = id
  · have hk : x.id ≠ k := fun e => h (hx.symm.trans e)
    simp [hx, h]
  · simp [hx]

/-- The core with the access changed and its result due. -/
def State.settleAccess (s : State) (a : Access) : State :=
  { s with core := s.core.setAccess { a with due := s.dueCycle }, fv := s.fv + 1 }

/-- The core with the access changed, its result due, and the access known to what comes after it (R93). -/
def State.settled (s : State) (a : Access) : State := (s.settleAccess a).mod fun c => c.precedes a.id

section
variable (s : State) (a : Access)

theorem setAccess_eq (c : Core) (b : Access) : c.setAccess b = { c with acc := (c.setAccess b).acc } := rfl

theorem settled_core : (s.settled a).core = { s.core with acc := (s.settled a).core.acc, copy := (s.settled a).core.copy } := by
  have hcore : (s.settled a).core = (s.core.setAccess { a with due := s.dueCycle }).precedes a.id := rfl
  rw [hcore, Core.precedes_eq, setAccess_eq]

theorem die_settled (k : Nat) : (s.settled a).die k = s.die k := rfl
theorem settled_mem : (s.settled a).mem = s.mem := rfl

end

theorem access?_settled {s : State} {a y : Access} (h : s.core.access? a.id = some y) :
    (s.settled a).core.access? a.id = some { a with due := s.dueCycle } :=
  access?_setAccess (a := { a with due := s.dueCycle }) h

/-! ## Reports of a write that is watched (R409-R412) -/

/-- Between two states only reports on their way to cores, and the count of free values, may differ. -/
def OnlyReports (s u : State) : Prop :=
  u.core = { s.core with watchFly := u.core.watchFly } ∧ { u with core := s.core, others := s.others, fv := s.fv } = s

/-- A core with the report of an atomic's write that it watches. -/
def struck (isLocal : Bool) (who : Core → Bool) (va n due : Nat) (src : BitVec 17) (c : Core) : Core :=
  if c.ctx ≠ .idle ∧ c.ctx ≠ .ended ∧ who c then
    match c.strike 20 isLocal (span va n) with
    | some (wp, hit) => c.sendWatch ⟨2, wp, due, src, hit⟩
    | none => c
  else c

theorem struck_eq (isLocal : Bool) (who : Core → Bool) (va n due : Nat) (src : BitVec 17) (c : Core) :
    struck isLocal who va n due src c = { c with watchFly := (struck isLocal who va n due src c).watchFly } := by
  unfold struck
  split_ifs
  · split <;> rfl
  · rfl

section
variable (s : State) (isLocal : Bool) (who : Core → Bool) (va n : Nat)

theorem strikeAtomic_onlyReports : OnlyReports s (s.strikeAtomic isLocal who va n) :=
  ⟨struck_eq isLocal who va n _ _ s.core, rfl⟩

theorem bytesKept_strikeAtomic : BytesKept s (s.strikeAtomic isLocal who va n) := by
  have hall := bytesKept_modAll s
    (f := struck isLocal who va n s.dueCycle (BitVec.ofNat 17 (Config.packageNumber * 2 ^ 8 + s.core.vcore)))
    (fun c => by rw [struck_eq]) (fun c => by rw [struck_eq]) (fun c => by rw [struck_eq]) (fun c => by rw [struck_eq])
  exact hall

end

theorem strikeToken_onlyReports (s : State) (a : Access) : OnlyReports s (s.strikeToken a) := strikeAtomic_onlyReports ..

/-! ## The waiters that a write wakes (R129) -/

/-- What a waiter has seen leaves its accesses and its wait alone. -/
def KeepsWait (f : Core → Core) : Prop := ∀ c, (f c).acc = c.acc ∧ (f c).waiting = c.waiting

theorem keepsWait_seenAt (s : State) (p : Point) (a n seq : Nat) : KeepsWait (s.seenAt p a n seq) := fun c => by
  cases p <;> exact ⟨rfl, rfl⟩

theorem answerWait_onlyCores (s : State) (w : Waiter) (r : WaitEnd) (mark : Core → Core) : OnlyCores s (s.answerWait w r mark) := by
  unfold State.answerWait; split_ifs <;> rfl

/-- A core has an access, and does not wait for it. -/
def Core.Holds (c : Core) (id : Nat) (y : Access) : Prop := c.access? id = some y ∧ c.waiting ≠ .waita id none

section
variable {c : Core} {id k : Nat} {y : Access}

theorem holds_answered (h : c.Holds id y) (hne : id ≠ k) (r : WaitEnd) : Core.Holds { c with
    acc := c.acc.map fun a => if a.id = k then { a with stage := .answered r } else a } id y := by
  obtain ⟨hacc, hwait⟩ := h
  refine ⟨?_, hwait⟩
  have hsame : ((fun x : Access => decide (x.id = id)) ∘ fun a => if a.id = k then { a with stage := .answered r } else a) =
      fun x => decide (x.id = id) := by
    funext x
    by_cases hx : x.id = k <;> simp [hx]
  have hy : y.id ≠ k := fun e => hne ((access?_id hacc).symm.trans e)
  unfold Core.access? at *
  rw [List.find?_map, hsame, hacc, Option.map_some, if_neg hy]

theorem holds_ended {mark : Core → Core} (hm : KeepsWait mark) (h : c.Holds id y) (hne : id ≠ k) (r : WaitEnd) :
    (mark { c.dropAccess k with waiting := .waita k (some r) }).Holds id y := by
  obtain ⟨hmacc, hmwait⟩ := hm { c.dropAccess k with waiting := .waita k (some r) }
  refine ⟨?_, ?_⟩
  · rw [access?_congr hmacc]
    exact (access?_dropAccess_ne c hne).trans h.1
  · rw [hmwait]
    exact fun e => by cases e

theorem holds_modAt {s : State} (h : s.core.Holds id y) {n : Nat} {f : Core → Core}
    (hf : s.core.phys = n → (f s.core).Holds id y) : (s.modAt n f).core.Holds id y := by
  unfold State.modAt
  dsimp only
  split_ifs with hn
  · exact hf hn
  · exact h

end

theorem coreAt_running (s : State) : s.coreAt s.core.phys = some s.core := by
  simp [State.coreAt, State.cores]

/-- A wait that ends leaves an access of the running core that stays in its package, unless it is the wait's own. -/
theorem holds_answerWait {s : State} {id : Nat} {y : Access} {mark : Core → Core} (hm : KeepsWait mark) (hy : y.lent = false)
    (h : s.core.Holds id y) (w : Waiter) (r : WaitEnd) : (s.answerWait w r mark).core.Holds id y := by
  unfold State.answerWait
  split_ifs with hblocked
  · refine holds_modAt h fun hcore => holds_answered h (fun e => ?_) r
    have hrun : s.coreAt w.core = some s.core := hcore ▸ coreAt_running s
    have hacc : s.core.access? w.acc = some y := e ▸ h.1
    simp [hrun, hacc, State.canTravel, hy] at hblocked
  · refine holds_modAt h fun _ => ?_
    split
    · next k hk =>
      have hne : id ≠ k := fun e => h.2 (e ▸ hk)
      split_ifs
      · exact holds_ended hm h hne r
      · exact h
    · exact h

/-- The state that a write leaves for the waiters of its word to be answered in. -/
def State.wakened (s : State) (p : Point) (a n new : Nat) : State :=
  (s.wakeRemote p a n new).setWaiters p ((s.waitersAt p).filter fun w => !(w.addr == a && w.n == n))

section
variable (s : State) (p : Point) (a n new : Nat) (who : BitVec 32) (seen : Core → Core)

theorem wake_onlyCores : OnlyCores (s.wakened p a n new) (s.wake p a n new who seen) :=
  List.foldlRecOn (motive := OnlyCores (s.wakened p a n new)) _ _ rfl fun _ hu w _ => hu.trans (answerWait_onlyCores _ w _ _)

theorem wake_waitersAt : (s.wake p a n new who seen).waitersAt p =
    (s.waitersAt p).filter fun w => !(w.addr == a && w.n == n) := by
  have hwake := congrArg (fun v : State => v.waitersAt p) (wake_onlyCores s p a n new who seen)
  have hsame : (s.wake p a n new who seen).waitersAt p = (s.wakened p a n new).waitersAt p := by cases p <;> exact hwake
  exact hsame.trans (waitersAt_setWaiters ..)

theorem die_wake (k : Nat) : (s.wake p a n new who seen).die k = (s.wakened p a n new).die k := by
  have hwake := congrArg (fun v : State => v.die k) (wake_onlyCores s p a n new who seen)
  exact hwake

theorem view_wake (k : Nat) : ((s.wake p a n new who seen).die k).view = (s.die k).view ∧
    ((s.wake p a n new who seen).die k).inbox = (s.die k).inbox := by
  rw [die_wake]
  cases p with
  | slice d => exact ⟨die_modDie_congr Die.view _ d k fun _ => rfl, die_modDie_congr Die.inbox _ d k fun _ => rfl⟩
  | msc | lender => exact ⟨rfl, rfl⟩

theorem wake_mem : (s.wake p a n new who seen).mem = s.mem := by
  have hwake := congrArg State.mem (wake_onlyCores s p a n new who seen)
  have hmem : (s.wake p a n new who seen).mem = (s.wakened p a n new).mem := hwake
  rw [hmem]
  cases p with
  | slice d => exact modDie_mem ..
  | msc | lender => rfl

theorem wakened_core : (s.wakened p a n new).core = s.core := by
  cases p with
  | slice d => exact (modDie_onlyDies ..).core
  | msc | lender => rfl

/-- A write that wakes leaves the running core's own access where it is. -/
theorem holds_wake {id : Nat} {y : Access} (hm : KeepsWait seen) (hy : y.lent = false) (h : s.core.Holds id y) :
    (s.wake p a n new who seen).core.Holds id y :=
  List.foldlRecOn (motive := fun u : State => u.core.Holds id y) _ _ ((wakened_core s p a n new).symm ▸ h)
    fun _ hu w _ => holds_answerWait hm hy hu w _

end

/-! ## The word read and the write made there (R114, R119) -/

/-- The old value of an atomic's word at its point. -/
def State.oldAt (s : State) (a : Access) (p : Point) : Nat := s.wordAt p a.place.1 a.place.2

/-- The state once an atomic has taken its word's old value. -/
def State.takeOld (s : State) (a : Access) (p : Point) : State :=
  (s.dependAt p a.place.1 a.place.2).countCorrected a.space a.place.1 a.place.2

/-- The state once an atomic that writes has reported its write to those that watch it. -/
def State.struckOld (s : State) (a : Access) (p : Point) : State := (s.takeOld a p).strikeToken a

/-- What an atomic makes of the old value (R119). -/
def State.newAt (s : State) (a : Access) (op : BitVec 4) (t x : Nat) (p : Point) : Nat := amoNew op a.n (s.oldAt a p) t x

/-- The bytes an atomic writes, where it writes. -/
def State.newCells (s : State) (a : Access) (op : BitVec 4) (t x : Nat) (p : Point) : List Host.Cell :=
  cellsAt a.place.1 (natToBytes a.n (s.newAt a op t x p))

/-- The state once an atomic has taken the old value and written what it makes of it, before the waiters of the word. -/
def State.atomicDone (s : State) (a : Access) (op : BitVec 4) (t x : Nat) (p : Point) : State :=
  let a1 := { a with stage := AccStage.applied (s.oldAt a p) none }
  State.mod (if amoWrites op (s.oldAt a p) t then (s.struckOld a p).atomicWrite a1 p (s.newCells a op t x p)
    else (s.takeOld a p).settleAccess a1) fun c => c.precedes a.id

section
variable {s : State} {a : Access} {op : BitVec 4} {t x : Nat} {p : Point}

theorem applyAtomic_quiet (h : ¬(op = 11 ∧ amoCrosses a.n (s.oldAt a p) (s.newAt a op t x p) t = true)) :
    s.applyAtomic a op t x p = s.atomicDone a op t x p := if_neg h

theorem applyAtomic_wakes (h : op = 11 ∧ amoCrosses a.n (s.oldAt a p) (s.newAt a op t x p) t = true) :
    ∃ who seen, KeepsWait seen ∧ s.applyAtomic a op t x p =
      (s.atomicDone a op t x p).wake p a.place.1 a.place.2 (s.newAt a op t x p) who seen :=
  ⟨_, _, keepsWait_seenAt _ p a.place.1 a.place.2 _, if_pos h⟩

theorem atomicDone_kept (h : amoWrites op (s.oldAt a p) t = false) : s.atomicDone a op t x p =
    (s.takeOld a p).settled { a with stage := .applied (s.oldAt a p) none } := by
  unfold State.atomicDone
  rw [h]; rfl

/-- The state once the write at a home slice has its number. -/
def State.sliceWritten (s : State) (a : Access) (op : BitVec 4) (t x d : Nat) : State :=
  ((s.struckOld a (.slice d)).storeMain d (s.newCells a op t x (.slice d))).mod fun c =>
    c.depend d (((s.struckOld a (.slice d)).storeMain d (s.newCells a op t x (.slice d))).lastNum d)

theorem atomicDone_slice {d : Nat} (h : amoWrites op (s.oldAt a (.slice d)) t = true) : s.atomicDone a op t x (.slice d) =
    (s.sliceWritten a op t x d).settled { a with stage := .applied (s.oldAt a (.slice d)) none, parts := [] } := by
  unfold State.atomicDone
  rw [h]; rfl

/-- The highest place that the bytes of a word have at the memory-side cache. -/
def State.mscTop (s : State) (cells : List Host.Cell) : Nat :=
  cells.foldl (fun m c => max m (max ((markOf s.marks c.1).elim 0 Mark.stamp) ((mapGet s.floor c.1).getD 0))) 0

/-- The write of an atomic at the memory-side cache with its place in the order. -/
def State.mscMarked (s : State) (cells : List Host.Cell) : List (Nat × Byte × Mark) :=
  cells.map fun c => (c.1, c.2, ⟨s.mscTop cells + 1, s.seq, dieOf s.core.phys, 0⟩)

/-- The state once the write at the memory-side cache has its place. -/
def State.mscWritten (s : State) (a : Access) (op : BitVec 4) (t x : Nat) : State :=
  (s.struckOld a .msc).mscWrite ((s.struckOld a .msc).mscMarked (s.newCells a op t x .msc))

/-- The stamp of that place. -/
def State.mscStamp (s : State) (a : Access) (op : BitVec 4) (t x : Nat) : Nat :=
  (s.struckOld a .msc).mscTop (s.newCells a op t x .msc) + 1

theorem atomicDone_msc (h : amoWrites op (s.oldAt a .msc) t = true) : s.atomicDone a op t x .msc =
    (s.mscWritten a op t x).settled { a with
      stage := .applied (s.oldAt a .msc) (some (s.mscStamp a op t x, (s.struckOld a .msc).seq))
      parts := [s.newCells a op t x .msc] } := by
  unfold State.atomicDone
  rw [h]; rfl

end

end Sys2Proof.Machine
end

section
/-! SUPPORT. What an atomic leaves at its serialisation point: a home slice (06 R114, R119, R125, R129), the memory-side cache and
then its own die (R104). -/

namespace Sys2Proof.Machine

/-! ## The old value taken (R93) -/

/-- What the strand has seen in one byte that it reads at the memory-side cache. -/
def State.seenByte (s : State) (a : Nat) (c : Core) (i : Nat) : Core :=
  match markOf s.marks (a + i) with
  | some k => if s.unnumbered k.seq then c.seeMsc k.seq else if k.num = 0 then c else c.depend k.die k.num
  | none => c

theorem seenByte_eq (s : State) (a : Nat) (c : Core) (i : Nat) :
    s.seenByte a c i = { c with dep := (s.seenByte a c i).dep, depMsc := (s.seenByte a c i).depMsc } := by
  unfold State.seenByte
  split
  · split_ifs <;> rfl
  · rfl

theorem dependMsc_core (s : State) (a n : Nat) : (s.dependMsc a n).core = { s.core with
    dep := (s.dependMsc a n).core.dep, depMsc := (s.dependMsc a n).core.depMsc, mscSeen := (s.dependMsc a n).core.mscSeen } := by
  have hfold : (List.range n).foldl (s.seenByte a) s.core = { s.core with
      dep := ((List.range n).foldl (s.seenByte a) s.core).dep, depMsc := ((List.range n).foldl (s.seenByte a) s.core).depMsc } := by
    refine List.foldlRecOn (motive := fun u : Core => u = { s.core with dep := u.dep, depMsc := u.depMsc }) _ _ rfl fun u hu i _ => ?_
    have hbyte := congrArg (fun v : Core => { v with dep := (s.seenByte a u i).dep, depMsc := (s.seenByte a u i).depMsc }) hu
    exact (seenByte_eq s a u i).trans hbyte
  have hread := congrArg (fun v : Core => { v with mscSeen := (s.dependMsc a n).core.mscSeen }) hfold
  exact hread

section
variable (s : State) (p : Point) (x n : Nat)

theorem dependAt_core : (s.dependAt p x n).core = { s.core with
    dep := (s.dependAt p x n).core.dep, depMsc := (s.dependAt p x n).core.depMsc, mscSeen := (s.dependAt p x n).core.mscSeen } := by
  cases p with
  | slice d =>
    have hslice : (s.dependAt (.slice d) x n).core = (s.dependOn .main x n).core := rfl
    rw [hslice, dependOn_core]
  | msc => exact dependMsc_core ..
  | lender => rfl

theorem dependAt_outside : Outside s (s.dependAt p x n) := by
  cases p with
  | slice d => exact dependOn_outside ..
  | msc | lender => rfl

end

section
variable (s : State) (a : Access) (p : Point)

theorem takeOld_core : (s.takeOld a p).core = { s.core with
    dep := (s.takeOld a p).core.dep, depMsc := (s.takeOld a p).core.depMsc, mscSeen := (s.takeOld a p).core.mscSeen } := by
  have hcount : (s.takeOld a p).core = (s.dependAt p a.place.1 a.place.2).core := countCorrected_core ..
  rw [hcount, dependAt_core]

theorem takeOld_core_slice (d : Nat) : (s.takeOld a (.slice d)).core = { s.core with dep := (s.takeOld a (.slice d)).core.dep } := by
  have hcount : (s.takeOld a (.slice d)).core = (s.dependOn .main a.place.1 a.place.2).core := countCorrected_core ..
  rw [hcount, dependOn_core]

theorem takeOld_outside : { s.takeOld a p with core := s.core, fw := s.fw } = s := by
  have hcount := congrArg (fun v : State => { v with core := s.core })
    (countCorrected_outside (s.dependAt p a.place.1 a.place.2) a.space a.place.1 a.place.2)
  have hfw := congrArg (fun v : State => { v with fw := s.fw }) (dependAt_outside s p a.place.1 a.place.2)
  have hboth := congrArg (fun v : State => { v with fw := s.fw }) hcount
  exact hboth.trans hfw

theorem struckOld_outside : { s.struckOld a p with core := s.core, others := s.others, fw := s.fw, fv := s.fv } = s := by
  obtain ⟨-, hrest⟩ := strikeToken_onlyReports (s.takeOld a p) a
  have hstruck := congrArg (fun v : State => { v with core := s.core, others := s.others, fw := s.fw, fv := s.fv }) hrest
  have hold := congrArg (fun v : State => { v with others := s.others, fv := s.fv }) (takeOld_outside s a p)
  exact hstruck.trans hold

theorem struckOld_core : (s.struckOld a p).core = { (s.takeOld a p).core with watchFly := (s.struckOld a p).core.watchFly } :=
  (strikeToken_onlyReports (s.takeOld a p) a).1

theorem struckOld_acc : (s.struckOld a p).core.acc = s.core.acc := by
  rw [struckOld_core, takeOld_core]

theorem die_takeOld (k : Nat) : (s.takeOld a p).die k = s.die k := by
  have := congrArg (fun v : State => v.die k) (takeOld_outside s a p)
  exact this

theorem die_struckOld (k : Nat) : (s.struckOld a p).die k = s.die k := by
  have := congrArg (fun v : State => v.die k) (struckOld_outside s a p)
  exact this

theorem takeOld_now : (s.takeOld a p).now = s.now := by
  have := congrArg State.now (takeOld_outside s a p)
  exact this

theorem struckOld_now : (s.struckOld a p).now = s.now := by
  have := congrArg State.now (struckOld_outside s a p)
  exact this

theorem takeOld_mem : (s.takeOld a p).mem = s.mem := by
  have := congrArg State.mem (takeOld_outside s a p)
  exact this

theorem struckOld_mem : (s.struckOld a p).mem = s.mem := by
  have := congrArg State.mem (struckOld_outside s a p)
  exact this

theorem struckOld_seq : (s.struckOld a p).seq = s.seq := by
  have := congrArg State.seq (struckOld_outside s a p)
  exact this

end

theorem now_lt_due (s : State) : s.now < s.dueCycle := by
  unfold State.dueCycle; omega

/-! ## At a home slice (R114, R119) -/

/-- Between two cores only what an atomic at a home slice moves may differ. -/
def AtomicMoves (c u : Core) : Prop :=
  { u with acc := c.acc, dep := c.dep, copy := c.copy, watchFly := c.watchFly } = c

theorem AtomicMoves.trans {c d u : Core} (h : AtomicMoves c d) (k : AtomicMoves d u) : AtomicMoves c u := by
  have := congrArg (fun v : Core => { v with acc := c.acc, dep := c.dep, copy := c.copy, watchFly := c.watchFly }) k
  exact this.trans h

theorem atomicMoves_settled (s : State) (a : Access) : AtomicMoves s.core (s.settled a).core := by
  rw [settled_core]; rfl

theorem AtomicMoves.waiting {c u : Core} (h : AtomicMoves c u) : u.waiting = c.waiting := by
  have := congrArg Core.waiting h
  exact this

section
variable {s : State} {a : Access} {op : BitVec 4} {t x d : Nat}

theorem atomicMoves_takeOld : AtomicMoves s.core (s.takeOld a (.slice d)).core := by
  rw [takeOld_core_slice]; rfl

theorem atomicMoves_sliceWritten : AtomicMoves s.core (s.sliceWritten a op t x d).core := by
  have hold : AtomicMoves s.core (s.takeOld a (.slice d)).core := atomicMoves_takeOld
  have hstruck : AtomicMoves (s.takeOld a (.slice d)).core (s.struckOld a (.slice d)).core := by rw [struckOld_core]; rfl
  have hdepend (c : Core) (num : Nat) : AtomicMoves c (c.depend d num) := rfl
  refine (hold.trans hstruck).trans ?_
  rw [State.sliceWritten, State.mod_core, storeMain_core]
  exact hdepend ..

theorem atomicMoves_atomicDone : AtomicMoves s.core (s.atomicDone a op t x (.slice d)).core := by
  cases h : amoWrites op (s.oldAt a (.slice d)) t
  · rw [atomicDone_kept h]; exact atomicMoves_takeOld.trans (atomicMoves_settled ..)
  · rw [atomicDone_slice h]; exact atomicMoves_sliceWritten.trans (atomicMoves_settled ..)

theorem die_atomicDone_kept (h : amoWrites op (s.oldAt a (.slice d)) t = false) (k : Nat) :
    (s.atomicDone a op t x (.slice d)).die k = s.die k := by
  rw [atomicDone_kept h, die_settled, die_takeOld]

theorem die_atomicDone_slice (h : amoWrites op (s.oldAt a (.slice d)) t = true) (k : Nat) :
    (s.atomicDone a op t x (.slice d)).die k =
      ((s.struckOld a (.slice d)).storeMain d (s.newCells a op t x (.slice d))).die k := by
  rw [atomicDone_slice h, die_settled]; rfl

theorem sliceWritten_acc : (s.sliceWritten a op t x d).core.acc = s.core.acc := by
  have hdepend (c : Core) (num : Nat) : (c.depend d num).acc = c.acc := rfl
  rw [State.sliceWritten, State.mod_core, hdepend, storeMain_core, struckOld_acc]

theorem sliceWritten_now : (s.sliceWritten a op t x d).now = s.now := by
  rw [State.sliceWritten, State.mod_now, storeMain_now, struckOld_now]

theorem takeOld_acc (p : Point) : (s.takeOld a p).core.acc = s.core.acc := by rw [takeOld_core]

theorem access?_atomicDone_kept {p : Point} (h : s.core.access? a.id = some a) (hw : amoWrites op (s.oldAt a p) t = false) :
    ∃ due, s.now < due ∧ (s.atomicDone a op t x p).core.access? a.id = some { a with
      stage := .applied (s.oldAt a p) none, due := due } := by
  have hacc : (s.takeOld a p).core.access? a.id = some a := (access?_congr (takeOld_acc p) a.id).trans h
  have hnow := now_lt_due (s.takeOld a p)
  rw [takeOld_now] at hnow
  rw [atomicDone_kept hw]
  exact ⟨_, hnow, access?_settled (a := { a with stage := .applied (s.oldAt a p) none }) hacc⟩

theorem access?_atomicDone_slice (h : s.core.access? a.id = some a) (hw : amoWrites op (s.oldAt a (.slice d)) t = true) :
    ∃ due, s.now < due ∧ (s.atomicDone a op t x (.slice d)).core.access? a.id = some { a with
      stage := .applied (s.oldAt a (.slice d)) none, parts := [], due := due } := by
  have hacc : (s.sliceWritten a op t x d).core.access? a.id = some a := (access?_congr sliceWritten_acc a.id).trans h
  have hnow := now_lt_due (s.sliceWritten a op t x d)
  rw [sliceWritten_now] at hnow
  rw [atomicDone_slice hw]
  exact ⟨_, hnow, access?_settled (a := { a with stage := .applied (s.oldAt a (.slice d)) none, parts := [] }) hacc⟩

theorem access?_atomicDone (hparts : a.parts = []) (h : s.core.access? a.id = some a) :
    ∃ due, s.now < due ∧ (s.atomicDone a op t x (.slice d)).core.access? a.id = some { a with
      stage := .applied (s.oldAt a (.slice d)) none, due := due } := by
  cases hw : amoWrites op (s.oldAt a (.slice d)) t
  · exact access?_atomicDone_kept h hw
  · have hsome := access?_atomicDone_slice (x := x) h hw
    rwa [← hparts] at hsome

theorem waiters_atomicDone_slice (hd : d < 4) : ((s.atomicDone a op t x (.slice d)).die d).waiters = (s.die d).waiters := by
  cases h : amoWrites op (s.oldAt a (.slice d)) t
  · rw [die_atomicDone_kept h]
  · rw [die_atomicDone_slice h, die_storeMain hd]
    have hdie := congrArg Die.waiters (die_struckOld s a (.slice d) d)
    exact hdie

theorem view_atomicDone_slice (hd : d < 4) (hwf : (s.die d).view.wf = true) (h : amoWrites op (s.oldAt a (.slice d)) t = true) :
    memRead ((s.atomicDone a op t x (.slice d)).die d).view a.place.1 a.n = natToBytes a.n (s.newAt a op t x (.slice d)) := by
  rw [die_atomicDone_slice h]
  refine memRead_of_cells fun y b hb => view_storeMain_once hd ?_ hb fun b' hb' => cellsAt_once hb hb'
  rwa [die_struckOld]

theorem view_atomicDone_slice_ne (hd : d < 4) {y : Nat} (hy : y < a.place.1 ∨ a.place.1 + a.n ≤ y) :
    memGet ((s.atomicDone a op t x (.slice d)).die d).view y = memGet (s.die d).view y := by
  cases h : amoWrites op (s.oldAt a (.slice d)) t
  · rw [die_atomicDone_kept h]
  · have hcells : ∀ b, (y, b) ∉ s.newCells a op t x (.slice d) := notMem_cellsAt hy
    rw [die_atomicDone_slice h, view_storeMain_ne hd hcells, die_struckOld]

theorem inbox_atomicDone_slice (hd : d < 4) (h : amoWrites op (s.oldAt a (.slice d)) t = true) {f : Nat} (hf : f < 4) (hne : f ≠ d) :
    ∃ e, ((s.atomicDone a op t x (.slice d)).die f).inbox = (s.die f).inbox ++ [e] ∧ e.src = d ∧
      (e.cells.map fun y => (y.1, y.2.1)) = s.newCells a op t x (.slice d) := by
  obtain ⟨clock, due, -, hdie⟩ := die_storeMain_ne (s := s.struckOld a (.slice d)) (cells := s.newCells a op t x (.slice d)) hd hf hne
  rw [die_atomicDone_slice h, hdie, die_struckOld]
  refine ⟨_, rfl, rfl, ?_⟩
  simp [State.storeCells, Function.comp_def]

end

/-! ## At the memory-side cache (R104, R114) -/

theorem le_foldl_max {α : Type} (f : α → Nat) (xs : List α) (m : Nat) :
    m ≤ xs.foldl (fun m c => max m (f c)) m ∧ ∀ c, c ∈ xs → f c ≤ xs.foldl (fun m c => max m (f c)) m := by
  induction xs generalizing m with
  | nil => exact ⟨Nat.le_refl m, fun c hc => absurd hc List.not_mem_nil⟩
  | cons x xs ih =>
    obtain ⟨hm, hxs⟩ := ih (max m (f x))
    refine ⟨(Nat.le_max_left ..).trans hm, fun c hc => ?_⟩
    rcases List.mem_cons.mp hc with rfl | hc
    · exact (Nat.le_max_right ..).trans hm
    · exact hxs c hc

/-- An atomic at the memory-side cache comes after every store so far (R104). -/
theorem newer_mscTop {s : State} {cells : List Host.Cell} {c : Host.Cell} (h : c ∈ cells) (seq d num : Nat) :
    newer s.marks c.1 ⟨s.mscTop cells + 1, seq, d, num⟩ = true := by
  refine newer_iff.mpr fun k hk => .inl ?_
  have htop := (le_foldl_max (fun c : Host.Cell => max ((markOf s.marks c.1).elim 0 Mark.stamp) ((mapGet s.floor c.1).getD 0)) cells 0).2 c h
  have hstamp : k.stamp ≤ s.mscTop cells := by
    refine Nat.le_trans ?_ htop
    rw [hk]
    exact Nat.le_max_left ..
  have hlt : k.stamp < s.mscTop cells + 1 := by omega
  simp [Mark.before, hlt]

theorem mem_mscWrite (s : State) (cells : List (Nat × Byte × Mark)) :
    (s.mscWrite cells).mem = (cells.foldl putMarked (s.mem, s.marks)).1 := by
  rw [mscWrite_eq, countLines_mem]; rfl

section
variable {s : State} {a : Access} {op : BitVec 4} {t x : Nat}

theorem mscWritten_core : (s.mscWritten a op t x).core = (s.struckOld a .msc).core := by
  have := congrArg State.core (mscWrite_onlyWritten (s.struckOld a .msc) ((s.struckOld a .msc).mscMarked (s.newCells a op t x .msc)))
  exact this

theorem mscWritten_now : (s.mscWritten a op t x).now = s.now := by
  have := congrArg State.now (mscWrite_onlyWritten (s.struckOld a .msc) ((s.struckOld a .msc).mscMarked (s.newCells a op t x .msc)))
  exact this.trans (struckOld_now ..)

theorem die_mscWritten (k : Nat) : (s.mscWritten a op t x).die k = s.die k := by
  rw [State.mscWritten, mscWrite_eq, (countLines_onlyTree ..).die]
  have := die_struckOld s a .msc k
  exact this

theorem waiting_atomicDone_msc : (s.atomicDone a op t x .msc).core.waiting = s.core.waiting := by
  have hstruck : (s.struckOld a .msc).core.waiting = s.core.waiting := by rw [struckOld_core, takeOld_core]
  cases h : amoWrites op (s.oldAt a .msc) t
  · rw [atomicDone_kept h, settled_core, takeOld_core]
  · rw [atomicDone_msc h, settled_core, mscWritten_core]
    exact hstruck

theorem die_atomicDone_msc (k : Nat) : (s.atomicDone a op t x .msc).die k = s.die k := by
  cases h : amoWrites op (s.oldAt a .msc) t
  · rw [atomicDone_kept h, die_settled, die_takeOld]
  · rw [atomicDone_msc h, die_settled]
    exact die_mscWritten k

theorem waiters_atomicDone_msc : (s.atomicDone a op t x .msc).pkgWaiters = s.pkgWaiters := by
  cases h : amoWrites op (s.oldAt a .msc) t
  · rw [atomicDone_kept h]
    have := congrArg State.pkgWaiters (takeOld_outside s a .msc)
    exact this
  · rw [atomicDone_msc h]
    have hwrite := congrArg State.pkgWaiters
      (mscWrite_onlyWritten (s.struckOld a .msc) ((s.struckOld a .msc).mscMarked (s.newCells a op t x .msc)))
    have hstruck := congrArg State.pkgWaiters (struckOld_outside s a .msc)
    exact Eq.trans hwrite hstruck

theorem access?_atomicDone_msc (h : s.core.access? a.id = some a) (hw : amoWrites op (s.oldAt a .msc) t = true) :
    ∃ due stamp, s.now < due ∧ (s.atomicDone a op t x .msc).core.access? a.id = some { a with
      stage := .applied (s.oldAt a .msc) (some (stamp, s.seq)), parts := [s.newCells a op t x .msc], due := due } := by
  have hacc : (s.mscWritten a op t x).core.access? a.id = some a :=
    (access?_congr ((congrArg Core.acc mscWritten_core).trans (struckOld_acc ..)) a.id).trans h
  have hnow := now_lt_due (s.mscWritten a op t x)
  rw [mscWritten_now] at hnow
  rw [atomicDone_msc hw, struckOld_seq]
  exact ⟨_, s.mscStamp a op t x, hnow, access?_settled (a := { a with
    stage := .applied (s.oldAt a .msc) (some (s.mscStamp a op t x, s.seq)), parts := [s.newCells a op t x .msc] }) hacc⟩

theorem mem_atomicDone_kept (h : amoWrites op (s.oldAt a .msc) t = false) : (s.atomicDone a op t x .msc).mem = s.mem := by
  rw [atomicDone_kept h, settled_mem, takeOld_mem]

theorem mem_atomicDone_msc (h : amoWrites op (s.oldAt a .msc) t = true) : (s.atomicDone a op t x .msc).mem =
    (((s.struckOld a .msc).mscMarked (s.newCells a op t x .msc)).foldl putMarked (s.mem, (s.struckOld a .msc).marks)).1 := by
  rw [atomicDone_msc h, settled_mem, State.mscWritten, mem_mscWrite, struckOld_mem]

theorem memRead_atomicDone_msc (hwf : s.mem.wf = true) (h : amoWrites op (s.oldAt a .msc) t = true) :
    memRead (s.atomicDone a op t x .msc).mem a.place.1 a.n = natToBytes a.n (s.newAt a op t x .msc) := by
  rw [mem_atomicDone_msc h]
  let w := s.struckOld a .msc
  let cells := s.newCells a op t x .msc
  refine memRead_of_cells fun y b hb => ?_
  refine memGet_putMarkeds_once (v := (s.mem, w.marks)) hwf (z := (y, b, ⟨w.mscTop cells + 1, w.seq, dieOf w.core.phys, 0⟩))
    (w.mscMarked cells) (List.mem_map.mpr ⟨(y, b), hb, rfl⟩) (fun z hz hzy => ?_) (newer_mscTop (c := (y, b)) hb ..)
  obtain ⟨⟨x', b'⟩, hc, rfl⟩ := List.mem_map.mp hz
  obtain rfl : x' = y := hzy
  rw [cellsAt_once hb hc]

theorem memGet_atomicDone_msc {y : Nat} (hy : y < a.place.1 ∨ a.place.1 + a.n ≤ y) :
    memGet (s.atomicDone a op t x .msc).mem y = memGet s.mem y := by
  cases h : amoWrites op (s.oldAt a .msc) t
  · rw [mem_atomicDone_kept h]
  · rw [mem_atomicDone_msc h]
    refine memGet_putMarkeds_ne _ _ fun z hz e => ?_
    obtain ⟨⟨y', b⟩, hc, rfl⟩ := List.mem_map.mp hz
    obtain rfl : y' = y := e
    exact notMem_cellsAt hy b hc

end

/-! ## With the waiters that it wakes (R129) -/

section
variable {s : State} {a : Access} {op : BitVec 4} {t x : Nat} {p : Point}

theorem not_crossing {b : Bool} (h : op ≠ 11 ∨ b = false) : ¬(op = 11 ∧ b = true) := fun ⟨hop, hb⟩ =>
  h.elim (· hop) fun hn => Bool.false_ne_true (hn.symm.trans hb)

theorem view_applyAtomic (k : Nat) : ((s.applyAtomic a op t x p).die k).view = ((s.atomicDone a op t x p).die k).view ∧
    ((s.applyAtomic a op t x p).die k).inbox = ((s.atomicDone a op t x p).die k).inbox := by
  by_cases h : op = 11 ∧ amoCrosses a.n (s.oldAt a p) (s.newAt a op t x p) t = true
  · obtain ⟨who, seen, -, hwake⟩ := applyAtomic_wakes h
    rw [hwake]
    exact view_wake _ p _ _ _ who seen k
  · rw [applyAtomic_quiet h]; exact ⟨rfl, rfl⟩

theorem mem_applyAtomic : (s.applyAtomic a op t x p).mem = (s.atomicDone a op t x p).mem := by
  by_cases h : op = 11 ∧ amoCrosses a.n (s.oldAt a p) (s.newAt a op t x p) t = true
  · obtain ⟨who, seen, -, hwake⟩ := applyAtomic_wakes h
    rw [hwake, wake_mem]
  · rw [applyAtomic_quiet h]

theorem access?_applyAtomic {id : Nat} {y : Access} (hy : y.lent = false) (h : (s.atomicDone a op t x p).core.Holds id y) :
    (s.applyAtomic a op t x p).core.access? id = some y := by
  by_cases hc : op = 11 ∧ amoCrosses a.n (s.oldAt a p) (s.newAt a op t x p) t = true
  · obtain ⟨who, seen, hseen, hwake⟩ := applyAtomic_wakes hc
    rw [hwake]
    exact (holds_wake _ p _ _ _ who seen hseen hy h).1
  · rw [applyAtomic_quiet hc]; exact h.1

theorem waitersAt_applyAtomic (h : op = 11 ∧ amoCrosses a.n (s.oldAt a p) (s.newAt a op t x p) t = true) :
    (s.applyAtomic a op t x p).waitersAt p =
      ((s.atomicDone a op t x p).waitersAt p).filter fun w => !(w.addr == a.place.1 && w.n == a.place.2) := by
  obtain ⟨who, seen, -, hwake⟩ := applyAtomic_wakes h
  rw [hwake, wake_waitersAt]

end

end Sys2Proof.Machine
end

section
/-! SUPPORT. The events of token atomics (06 R104, R114, R125): applied at the point, performed in their own die, their result
returned. -/

namespace Sys2Proof.Machine

/-! ## Applied at its point -/

section
variable {s : State} {a : Access}

theorem bind_main (h : a.space = .main) : s.bind a = none := by rw [State.bind, h]

theorem lent_main (h : a.space = .main) : a.lent = false := by rw [Access.lent, h]

theorem isToken_main (h : a.space = .main) : a.isToken = true := by rw [Access.isToken, h]

theorem point_slice (h : a.space = .main) (hs : a.scope.toNat < 3) (n : Nat) : a.point n = .slice (dieOf n) := by
  rw [Access.point, lent_main h, if_neg Bool.false_ne_true, if_neg (Nat.not_le.mpr hs)]

theorem point_msc (h : a.space = .main) (hs : 3 ≤ a.scope.toNat) (n : Nat) : a.point n = .msc := by
  rw [Access.point, lent_main h, if_neg Bool.false_ne_true, if_pos hs]

theorem undecoded_word {x n : Nat} (h : x + n ≤ Config.mainMemoryEnd) : undecoded .main [(x, n)] = none := by
  simp [undecoded, Nat.not_lt.mpr h]

theorem spoil_none (h : s.poisonIn a.space a.place.1 a.place.2 = false) (hm : s.macBad a.space a.place.1 a.place.2 = false) :
    s.spoil a = none := by
  simp [State.spoil, h, hm]

end

theorem place_of_reads {a : Access} {x n : Nat} (h : a.reads = [(x, n)]) : a.place = (x, n) := by rw [Access.place, h]; rfl

section
variable {s : State} {id : Nat} {a : Access} {op : BitVec 4} {n t x : Nat} (h : AtomicReady s id a op n t x)
include h

theorem AtomicReady.place : a.place.2 = a.n := congrArg Prod.snd (place_of_reads h.reads)

theorem atomicApply_applies (hturn : a.point s.core.phys = .msc → s.mscTurn a = true) :
    exec (.atomicApply id) s = .next (s.applyAtomic a op t x (a.point s.core.phys)) := by
  have hbind : s.bind a = none := bind_main h.space
  have hspoil : s.spoil a = none := spoil_none (by rw [h.space]; exact h.good) (by rw [h.space]; exact h.macGood)
  have hdecoded : undecoded a.space a.reads = none := by rw [h.space, h.reads]; exact undecoded_word h.decoded
  rw [exec_atomicApply, execAtomicApply, h.found]
  simp only [h.kind, h.stage, hbind]
  rw [if_neg (by simp [isToken_main h.space, h.ready]), if_neg fun hp => hp.2 (hturn hp.1), hdecoded]
  simp only [hspoil, Option.getD_none]

end

/-! ## Performed in its own die (R104) -/

section
variable {s : State} {a : Access} {stamp seq : Nat}

/-- The write of an atomic with the place it has from the memory-side cache. -/
def State.homeCells (s : State) (a : Access) (stamp seq : Nat) : List (Nat × Byte × Mark) :=
  a.parts.flatten.map fun c => (c.1, c.2, ⟨stamp, seq, dieOf s.core.phys, 0⟩)

/-- The state once that write is performed, before its number is known. -/
def State.homePerformed (s : State) (a : Access) (stamp seq : Nat) : State :=
  s.performMarked (dieOf s.core.phys) (s.homeCells a stamp seq)

/-- The state once that write is known by its number. -/
def State.homeNumbered (s : State) (a : Access) (stamp seq : Nat) : State :=
  (s.homePerformed a stamp seq).numberMsc seq (dieOf s.core.phys) ((s.homePerformed a stamp seq).lastNum (dieOf s.core.phys))

theorem atomicHome_core (s : State) (a : Access) (stamp seq : Nat) : (s.atomicHome a stamp seq).core =
    (((s.homeNumbered a stamp seq).core.setAccess { a with parts := [], due := (s.homeNumbered a stamp seq).dueCycle }).depend
      (dieOf s.core.phys) ((s.homeNumbered a stamp seq).lastNum (dieOf s.core.phys))).precedes a.id := rfl

theorem access?_depend_precedes (c : Core) (d num k id : Nat) : ((c.depend d num).precedes k).access? id = c.access? id := rfl

theorem die_atomicHome (k : Nat) : (s.atomicHome a stamp seq).die k = (s.homePerformed a stamp seq).die k := rfl

theorem mem_atomicHome : (s.atomicHome a stamp seq).mem = (s.homePerformed a stamp seq).mem := rfl

/-- Learning the number of a write leaves a core's accesses alone. -/
theorem numberMsc_acc (s : State) (q d num : Nat) : (s.numberMsc q d num).core.acc = s.core.acc := by
  unfold State.numberMsc State.modAll
  dsimp only
  split_ifs <;> rfl

theorem homeNumbered_acc : (s.homeNumbered a stamp seq).core.acc = s.core.acc :=
  (numberMsc_acc ..).trans (congrArg Core.acc (performMarked_core ..))

theorem homeNumbered_now : (s.homeNumbered a stamp seq).now = s.now := performMarked_now ..

theorem access?_atomicHome (h : s.core.access? a.id = some a) : ∃ due, s.now < due ∧
    (s.atomicHome a stamp seq).core.access? a.id = some { a with parts := [], due := due } := by
  have hacc : (s.homeNumbered a stamp seq).core.access? a.id = some a := (access?_congr homeNumbered_acc a.id).trans h
  have hnow := now_lt_due (s.homeNumbered a stamp seq)
  rw [homeNumbered_now] at hnow
  rw [atomicHome_core, access?_depend_precedes]
  exact ⟨_, hnow, access?_setAccess (a := { a with parts := [], due := (s.homeNumbered a stamp seq).dueCycle }) hacc⟩

theorem atomicApply_home {id : Nat} {op : BitVec 4} {n t x old : Nat} (hk : a.kind = .atomic op n t x)
    (ha : s.core.access? id = some a) (hsp : a.space = .main) (hst : a.stage = .applied old (some (stamp, seq)))
    (hp : a.parts ≠ []) (hd : a.due ≤ s.now) : exec (.atomicApply id) s = .next (s.atomicHome a stamp seq) := by
  rw [exec_atomicApply, execAtomicApply, ha]
  simp only [hk, hsp, hst]
  rw [if_pos ⟨hd, by simpa using hp⟩]

theorem numbered_homeCells_ne {y : Nat} (h : ∀ b, (y, b) ∉ a.parts.flatten) :
    ∀ z, z ∈ s.numbered (dieOf s.core.phys) (s.homeCells a stamp seq) → z.1 ≠ y := by
  intro z hz e
  obtain ⟨c, hc, rfl⟩ := List.mem_map.mp hz
  obtain ⟨⟨y', b'⟩, hin, rfl⟩ := List.mem_map.mp hc
  obtain rfl : y' = y := e
  exact h b' hin

variable (hd : dieOf s.core.phys < 4)
include hd

theorem die_homePerformed : (s.homePerformed a stamp seq).die (dieOf s.core.phys) =
    { (s.die (dieOf s.core.phys)).put (s.numbered (dieOf s.core.phys) (s.homeCells a stamp seq)) with
      exported := (s.die (dieOf s.core.phys)).exported + 1 } := die_performMarked s _ _ hd

theorem view_atomicHome (hwf : (s.die (dieOf s.core.phys)).view.wf = true) {y : Nat} {b : Byte} (h : (y, b) ∈ a.parts.flatten)
    (once : ∀ b', (y, b') ∈ a.parts.flatten → b = b')
    (later : ∀ k, markOf (s.die (dieOf s.core.phys)).marks y = some k → k.stamp < stamp ∨ (k.stamp = stamp ∧ k.seq ≤ seq)) :
    memGet ((s.atomicHome a stamp seq).die (dieOf s.core.phys)).view y = b := by
  let num := (s.die (dieOf s.core.phys)).exported + 1
  rw [die_atomicHome, die_homePerformed hd]
  refine memGet_putMarkeds_once (v := ((s.die (dieOf s.core.phys)).view, (s.die (dieOf s.core.phys)).marks)) hwf
    (z := (y, b, ⟨stamp, seq, dieOf s.core.phys, num⟩)) (s.numbered (dieOf s.core.phys) (s.homeCells a stamp seq)) ?_
    (fun z hz hzy => ?_) (newer_iff.mpr fun k hk => ?_)
  · exact List.mem_map.mpr ⟨_, List.mem_map.mpr ⟨(y, b), h, rfl⟩, rfl⟩
  · obtain ⟨c, hc, rfl⟩ := List.mem_map.mp hz
    obtain ⟨⟨y', b'⟩, hin, rfl⟩ := List.mem_map.mp hc
    obtain rfl : y' = y := hzy
    rw [once b' hin]
  · simp only [Mark.before, Bool.or_eq_true, Bool.and_eq_true, decide_eq_true_eq, beq_iff_eq]
    have := later k hk
    omega

theorem memGet_atomicHome {y : Nat} (h : ∀ b, (y, b) ∉ a.parts.flatten) :
    memGet ((s.atomicHome a stamp seq).die (dieOf s.core.phys)).view y = memGet (s.die (dieOf s.core.phys)).view y ∧
      memGet (s.atomicHome a stamp seq).mem y = memGet s.mem y := by
  rw [die_atomicHome, die_homePerformed hd, mem_atomicHome, State.homePerformed, performMarked_mem]
  exact ⟨memGet_putMarkeds_ne _ _ (numbered_homeCells_ne h), memGet_putMarkeds_ne _ _ (numbered_homeCells_ne h)⟩

theorem exported_atomicHome : ((s.atomicHome a stamp seq).die (dieOf s.core.phys)).exported =
    (s.die (dieOf s.core.phys)).exported + 1 := by
  rw [die_atomicHome, die_homePerformed hd]

theorem inbox_atomicHome {f : Nat} (hf : f < 4) (hne : f ≠ dieOf s.core.phys) :
    ((s.atomicHome a stamp seq).die f).view = (s.die f).view ∧
      ∃ e, ((s.atomicHome a stamp seq).die f).inbox = (s.die f).inbox ++ [e] ∧ e.src = dieOf s.core.phys ∧
        (e.cells.map fun y => (y.1, y.2.1)) = a.parts.flatten := by
  obtain ⟨due, -, hdie⟩ := die_performMarked_ne s (dieOf s.core.phys) (s.homeCells a stamp seq) hd hf hne
  rw [die_atomicHome, State.homePerformed, hdie]
  refine ⟨rfl, _, rfl, rfl, ?_⟩
  simp [State.numbered, State.homeCells, Function.comp_def]

end

/-! ## Its result returned (R125) -/

theorem atomicResultReturn_returns {s : State} {id : Nat} {a : Access} {op : BitVec 4} {n t x old : Nat} {num : Option (Nat × Nat)}
    (hk : a.kind = .atomic op n t x) (hst : a.stage = .applied old num) (ha : s.core.access? id = some a) (hp : a.parts = [])
    (hd : a.due ≤ s.now) (ht : s.canTravel a = true) :
    exec (.atomicResultReturn id) s = .next ((s.mod fun c => c.dropAccess id).deliver a) := by
  rw [exec_atomicResultReturn, execAtomicResultReturn, ha]
  simp only [hk, hst]
  exact if_pos ⟨hd, by rw [hp]; rfl, ht⟩

theorem deliver_atomic {s : State} {a : Access} {op : BitVec 4} {n t x old : Nat} {num : Option (Nat × Nat)}
    (hk : a.kind = .atomic op n t x) (hst : a.stage = .applied old num) (hp : a.poisoned = false) (hm : a.badMac = false) :
    s.deliver a = s.mod fun c => c.put (BitVec.ofNat 5 n) (BitVec.ofNat 64 old) s.now 0 := by
  simp [State.deliver, hk, hst, hp, hm]

/-- A register written moves its marks, what is owed for it and when it is ready, and no access. -/
theorem put_acc_still (c b : Core) (d : BitVec 5) (x : Word) (now lat : Nat)
    (h : { c.still with s := b.s, acc := b.acc } = b.still) :
    (c.put d x now lat).acc = c.acc ∧ { (c.put d x now lat).still with s := b.s, acc := b.acc } = b.still := by
  rw [Core.put_eq]
  exact ⟨rfl, h⟩

theorem bytesKept_put (s : State) (d : BitVec 5) (x : Word) (now lat : Nat) : BytesKept s (s.mod fun c => c.put d x now lat) :=
  bytesKept_mod s _ (by rw [Core.put_eq]) (by rw [Core.put_eq]) (by rw [Core.put_eq]) (by rw [Core.put_eq])

end Sys2Proof.Machine
end

section
/-! SUPPORT. Local atomics (06 R116): the row taken, the word read and written there, the result due. -/

namespace Sys2Proof.Machine

/-! ## What a local atomic moves in its core -/

/-- Between two cores only what a local atomic moves may differ. -/
def LocalMoves (c u : Core) : Prop :=
  { u with acc := c.acc, watchFly := c.watchFly, scr := c.scr, wb := c.wb, bankReads := c.bankReads, bankWrites := c.bankWrites } = c

theorem LocalMoves.trans {c d u : Core} (h : LocalMoves c d) (k : LocalMoves d u) : LocalMoves c u := by
  have := congrArg (fun v : Core => { v with
    acc := c.acc, watchFly := c.watchFly, scr := c.scr, wb := c.wb, bankReads := c.bankReads, bankWrites := c.bankWrites }) k
  exact this.trans h

/-- Between two cores only the uses of their ports may differ. -/
def PortMoves (c u : Core) : Prop := { u with bankReads := c.bankReads, bankWrites := c.bankWrites } = c

theorem PortMoves.localMoves {c u : Core} (h : PortMoves c u) : LocalMoves c u := by
  have := congrArg (fun v : Core => { v with acc := c.acc, watchFly := c.watchFly, scr := c.scr, wb := c.wb }) h
  exact this

theorem PortMoves.acc {c u : Core} (h : PortMoves c u) : u.acc = c.acc := by
  have := congrArg Core.acc h
  exact this

theorem PortMoves.scr {c u : Core} (h : PortMoves c u) : u.scr = c.scr ∧ u.wb = c.wb := by
  have hs := congrArg Core.scr h
  have hw := congrArg Core.wb h
  exact ⟨hs, hw⟩

/-! ## The row of a local atomic (R67, R116) -/

/-- A core with both ports of a row taken. -/
def rowTaken (now x n : Nat) (c : Core) : Core := (c.takePort now x n).takeWrite now x n true

theorem portMoves_rowTaken (now x n : Nat) (c : Core) : PortMoves c (rowTaken now x n c) := by
  have h : rowTaken now x n c = { c with
    bankReads := (rowTaken now x n c).bankReads, bankWrites := (rowTaken now x n c).bankWrites } := rfl
  rw [h]; rfl

theorem portMoves_modAt (s : State) (n : Nat) {f : Core → Core} (hf : PortMoves s.core (f s.core)) :
    PortMoves s.core (s.modAt n f).core := by
  unfold State.modAt
  dsimp only
  split_ifs
  · exact hf
  · rfl

/-- The spaces of local atomics. -/
def Space.OnChip (sp : Space) : Prop := sp = .own ∨ sp = .wb ∨ (∃ k, sp = .csm k) ∨ ∃ k, sp = .pool k

theorem onChip_of_local {a : Access} (h : a.isToken = false) : a.space.OnChip := by
  cases hsp : a.space with
  | main | lent k => rw [Access.isToken, hsp] at h; exact absurd h Bool.noConfusion
  | own => exact .inl rfl
  | wb => exact .inr (.inl rfl)
  | csm k => exact .inr (.inr (.inl ⟨k, rfl⟩))
  | pool k => exact .inr (.inr (.inr ⟨k, rfl⟩))

section
variable (s : State) (a : Access)

/-- A row taken is in the own scratchpad, in a core of the cluster, in the pool, or none. -/
theorem takeRow_cases : s.takeRow a = s ∨ (∃ x n, s.takeRow a = s.mod (rowTaken s.now x n)) ∨
    (∃ m x n, s.takeRow a = s.modAt m (rowTaken s.now x n)) ∨
    ∃ d rows, s.takeRow a = s.modDie d fun y => y.useRows s.now rows true := by
  unfold State.takeRow
  split
  · exact .inr (.inl ⟨_, _, rfl⟩)
  · exact .inr (.inr (.inl ⟨_, _, _, rfl⟩))
  · exact .inr (.inr (.inr ⟨_, _, rfl⟩))
  · exact .inl rfl

theorem portMoves_takeRow : PortMoves s.core (s.takeRow a).core := by
  rcases takeRow_cases s a with h | ⟨x, n, h⟩ | ⟨m, x, n, h⟩ | ⟨d, rows, h⟩ <;> rw [h]
  · rfl
  · exact portMoves_rowTaken ..
  · exact portMoves_modAt s m (portMoves_rowTaken ..)
  · rw [(modDie_onlyDies ..).core]; rfl

theorem takeRow_now : (s.takeRow a).now = s.now := by
  rcases takeRow_cases s a with h | ⟨x, n, h⟩ | ⟨m, x, n, h⟩ | ⟨d, rows, h⟩ <;> rw [h]
  · rfl
  · rfl
  · exact (modDie_onlyDies ..).now

/-- The cores' memories stand as they were. -/
theorem cores_takeRow {q : Core} (hq : q ∈ (s.takeRow a).cores) : ∃ r, r ∈ s.cores ∧ q.scr = r.scr ∧ q.wb = r.wb := by
  rcases takeRow_cases s a with h | ⟨x, n, h⟩ | ⟨m, x, n, h⟩ | ⟨d, rows, h⟩ <;> rw [h] at hq
  · exact ⟨q, hq, rfl, rfl⟩
  · rcases List.mem_cons.mp hq with rfl | hq
    · exact ⟨s.core, List.mem_cons_self, (portMoves_rowTaken s.now x n s.core).scr⟩
    · exact ⟨q, List.mem_cons_of_mem _ hq, rfl, rfl⟩
  · rw [cores_modAt] at hq
    obtain ⟨r, hr, rfl⟩ := List.mem_map.mp hq
    refine ⟨r, hr, ?_⟩
    split_ifs
    · exact (portMoves_rowTaken s.now x n r).scr
    · exact ⟨rfl, rfl⟩
  · rw [modDie_cores] at hq
    exact ⟨q, hq, rfl, rfl⟩

theorem pool_takeRow (k : Nat) : ((s.takeRow a).die k).pool = (s.die k).pool := by
  rcases takeRow_cases s a with h | ⟨x, n, h⟩ | ⟨m, x, n, h⟩ | ⟨d, rows, h⟩ <;> rw [h]
  · rfl
  · rfl
  · exact die_modDie_congr Die.pool s d k fun _ => rfl

theorem bytesKept_takeRow : BytesKept s (s.takeRow a) := by
  rcases takeRow_cases s a with h | ⟨x, n, h⟩ | ⟨m, x, n, h⟩ | ⟨d, rows, h⟩ <;> rw [h]
  · exact bytesKept_refl s
  · exact bytesKept_mod s _ rfl rfl rfl rfl
  · exact bytesKept_modAt s m (fun _ => rfl) (fun _ => rfl) rfl rfl
  · exact bytesKept_modDie s d (fun _ => rfl) fun _ => rfl

end

/-! ## The word written and its watchers told (R116, R409) -/

theorem localMoves_modAt (s : State) (n : Nat) {f : Core → Core} (hf : ∀ c, LocalMoves c (f c)) :
    LocalMoves s.core (s.modAt n f).core := by
  unfold State.modAt
  dsimp only
  split_ifs
  · exact hf s.core
  · rfl

theorem localMoves_scrPut (c : Core) (cells : List Host.Cell) (cycle x n : Nat) :
    LocalMoves c ((c.scrPut cells).takeWrite cycle x n false) := by
  have h : (c.scrPut cells).takeWrite cycle x n false = { c with
    scr := memPut c.scr cells, bankWrites := ((c.scrPut cells).takeWrite cycle x n false).bankWrites } := rfl
  rw [h]; rfl

theorem ensureCore_core (s : State) (n : Nat) : (s.ensureCore n).core = s.core := by
  unfold State.ensureCore; split <;> rfl

theorem localMoves_csmPut (s : State) (k : Nat) (cells : List Host.Cell) : LocalMoves s.core (s.csmPut k cells).core := by
  rw [csmPut_eq_foldl]
  refine List.foldlRecOn (motive := fun u : State => LocalMoves s.core u.core) cells _ rfl fun u hu c _ => hu.trans ?_
  have hput := localMoves_modAt (u.ensureCore (csmCore k c.1)) (csmCore k c.1) fun b =>
    localMoves_scrPut b [(csmAddr c.1, c.2)] s.now (csmAddr c.1) 1
  rwa [ensureCore_core] at hput

theorem localMoves_putSpace (s : State) (sp : Space) (cells : List Host.Cell) : LocalMoves s.core (s.putSpace sp cells).core := by
  cases sp with
  | csm k => exact localMoves_csmPut s k cells
  | pool d =>
    have hcore : (s.putSpace (.pool d) cells).core = s.core := (modDie_onlyDies ..).core
    rw [hcore]; rfl
  | main | lent | wb | own => rfl

/-- The reports of a local atomic's write: in the own scratchpad or a core of the cluster. -/
def State.localReport (s : State) (a : Access) (phys : Nat) : State :=
  match a.space with
  | .own => s.strikeAtomic true (fun c => c.phys == phys) a.place.1 a.n
  | .csm k => s.strikeAtomic true (fun c => c.phys == csmCore k a.place.1) (csmAddr a.place.1) a.n
  | _ => s

section
variable (s : State) (a : Access) (phys : Nat)

theorem localReport_cases : s.localReport a phys = s ∨ ∃ who va, s.localReport a phys = s.strikeAtomic true who va a.n := by
  unfold State.localReport
  split
  · exact .inr ⟨_, _, rfl⟩
  · exact .inr ⟨_, _, rfl⟩
  · exact .inl rfl

theorem localReport_onlyReports : OnlyReports s (s.localReport a phys) := by
  rcases localReport_cases s a phys with h | ⟨who, va, h⟩ <;> rw [h]
  · exact ⟨rfl, rfl⟩
  · exact strikeAtomic_onlyReports s true who va a.n

theorem bytesKept_localReport : BytesKept s (s.localReport a phys) := by
  rcases localReport_cases s a phys with h | ⟨who, va, h⟩ <;> rw [h]
  · exact bytesKept_refl s
  · exact bytesKept_strikeAtomic s true who va a.n

end

theorem OnlyReports.localMoves {s u : State} (h : OnlyReports s u) : LocalMoves s.core u.core := by
  rw [h.1]; rfl

theorem OnlyReports.acc {s u : State} (h : OnlyReports s u) : u.core.acc = s.core.acc := by
  rw [h.1]

theorem OnlyReports.now {s u : State} (h : OnlyReports s u) : u.now = s.now := by
  have := congrArg State.now h.2
  exact this

theorem OnlyReports.mem {s u : State} (h : OnlyReports s u) : u.mem = s.mem := by
  have := congrArg State.mem h.2
  exact this

/-! ## A local atomic applied (R116) -/

/-- The old value of a local atomic's word. -/
def State.localOld (s : State) (a : Access) : Nat := bytesToNat (s.spaceRead a.space a.place.1 a.place.2)

/-- The bytes a local atomic writes, where it writes. -/
def State.localCells (s : State) (a : Access) (op : BitVec 4) (t x : Nat) : List Host.Cell :=
  cellsAt a.place.1 (natToBytes a.n (amoNew op a.n (s.localOld a) t x))

/-- The state once a local atomic has taken its row and written there. -/
def State.localWritten (s : State) (a : Access) (op : BitVec 4) (t x : Nat) : State :=
  ((s.takeRow a).putSpace a.space (s.localCells a op t x)).localReport a (s.takeRow a).core.phys

/-- The state once a local atomic has taken its row, and written where its operation writes. -/
def State.localDone (s : State) (a : Access) (op : BitVec 4) (t x : Nat) : State :=
  if amoWrites op (s.localOld a) t then s.localWritten a op t x else s.takeRow a

/-- The core with the result of a local atomic due. -/
def State.localSettled (s : State) (a : Access) : State :=
  { s with core := s.core.setAccess { a with due := s.dueCycle + 1 }, fv := s.fv + 1 }

section
variable {s : State} {id : Nat} {a : Access} {op : BitVec 4} {n t x : Nat}

theorem localAtomicApply_applies (hk : a.kind = .atomic op n t x) (ha : s.core.access? id = some a) (hst : a.stage = .waiting)
    (ht : a.isToken = false) (hr : s.ready a = true) (hf : s.rowFree a = true) (hs : s.spoil a = none) :
    exec (.localAtomicApply id) s =
      .next ((s.localDone a op t x).localSettled { a with stage := .applied (s.localOld a) none }) := by
  rw [exec_localAtomicApply, execLocalAtomicApply, ha]
  simp only [hk, hst, ht, hr, hf, hs]
  rfl

theorem localWritten_acc : (s.localWritten a op t x).core.acc = s.core.acc := by
  rw [State.localWritten, (localReport_onlyReports ..).acc, putSpace_acc, (portMoves_takeRow s a).acc]

theorem localDone_acc : (s.localDone a op t x).core.acc = s.core.acc := by
  unfold State.localDone
  split_ifs
  · exact localWritten_acc
  · exact (portMoves_takeRow s a).acc

theorem localDone_now : (s.localDone a op t x).now = s.now := by
  unfold State.localDone State.localWritten
  split_ifs
  · rw [(localReport_onlyReports ..).now, putSpace_now, takeRow_now]
  · exact takeRow_now s a

theorem localDone_mem : (s.localDone a op t x).mem = s.mem := by
  unfold State.localDone State.localWritten
  split_ifs
  · rw [(localReport_onlyReports ..).mem, putSpace_mem, State.takeRow_mem]
  · exact State.takeRow_mem s a

theorem localMoves_localDone : LocalMoves s.core (s.localDone a op t x).core := by
  unfold State.localDone State.localWritten
  split_ifs
  · exact ((portMoves_takeRow s a).localMoves.trans (localMoves_putSpace ..)).trans (localReport_onlyReports ..).localMoves
  · exact (portMoves_takeRow s a).localMoves

theorem spaceByte_localWritten (y : Nat) : (s.localWritten a op t x).spaceByte a.space y =
    ((s.takeRow a).putSpace a.space (s.localCells a op t x)).spaceByte a.space y :=
  (bytesKept_localReport ..).1 a.space y

theorem spaceByte_localDone_ne {y : Nat} (hy : y < a.place.1 ∨ a.place.1 + a.n ≤ y) :
    (s.localDone a op t x).spaceByte a.space y = s.spaceByte a.space y := by
  have htake := (bytesKept_takeRow s a).1 a.space y
  unfold State.localDone
  split_ifs
  · rw [spaceByte_localWritten, spaceByte_putSpace_ne (cells := s.localCells a op t x) _ _ (notMem_cellsAt hy), htake]
  · exact htake

theorem spaceRead_localDone (hsp : a.isToken = false) (hcores : ∀ q, q ∈ s.cores → q.scr.wf = true ∧ q.wb.wf = true)
    (hpool : ∀ k, (s.die k).pool.wf = true) (hw : amoWrites op (s.localOld a) t = true) :
    (s.localDone a op t x).spaceRead a.space a.place.1 a.n = natToBytes a.n (amoNew op a.n (s.localOld a) t x) := by
  have hdone : s.localDone a op t x = s.localWritten a op t x := if_pos hw
  rw [hdone]
  refine spaceRead_of_cells fun y b hb => ?_
  rw [spaceByte_localWritten]
  refine spaceByte_putSpace_once (onChip_of_local hsp) (fun q hq => ?_) (fun k => ?_) hb fun b' hb' => cellsAt_once hb hb'
  · obtain ⟨r, hr, hscr, hwb⟩ := cores_takeRow s a hq
    rw [hscr, hwb]
    exact hcores r hr
  · rw [pool_takeRow]
    exact hpool k

end

section
variable (s : State) (a : Access)

theorem localMoves_localSettled : LocalMoves s.core (s.localSettled a).core := rfl

theorem bytesKept_localSettled : BytesKept s (s.localSettled a) :=
  bytesKept_mod s (fun c => c.setAccess { a with due := s.dueCycle + 1 }) rfl rfl rfl rfl

end

theorem access?_localSettled {s : State} {a y : Access} (h : s.core.access? a.id = some y) :
    (s.localSettled a).core.access? a.id = some { a with due := s.dueCycle + 1 } :=
  access?_setAccess (a := { a with due := s.dueCycle + 1 }) h

theorem spaceRead_congr {s u : State} {sp : Space} (h : ∀ y, u.spaceByte sp y = s.spaceByte sp y) (a n : Nat) :
    u.spaceRead sp a n = s.spaceRead sp a n := by
  induction n generalizing a with
  | zero => rfl
  | succ n ih => rw [State.spaceRead, State.spaceRead, h, ih]

end Sys2Proof.Machine
end

section
/-! SUPPORT. The waits of `waita` (06 R130, R132): ended at the registration, registered, withdrawn. -/

namespace Sys2Proof.Machine

/-! ## What the strand has seen (R93) -/

/-- Between two cores only what the strand has seen may differ. -/
def SeenMoves (c u : Core) : Prop := { u with dep := c.dep, depMsc := c.depMsc, mscSeen := c.mscSeen, copy := c.copy } = c

theorem seenMoves_dependAt (s : State) (p : Point) (x n : Nat) : SeenMoves s.core (s.dependAt p x n).core := by
  rw [dependAt_core]; rfl

theorem waitersAt_dependAt (s : State) (p : Point) (x n : Nat) (q : Point) : (s.dependAt p x n).waitersAt q = s.waitersAt q := by
  have h := congrArg (fun v : State => v.waitersAt q) (dependAt_outside s p x n)
  cases q <;> exact h

/-! ## A wait that ends (R130) -/

/-- A wait of the running core that has ended with a result: its access is gone, and the strand goes on otherwise as it was. -/
def WaitEnds (s : State) (id : Nat) (w : WaitEnd) (u : State) : Prop :=
  u.core.waiting = .waita id (some w) ∧ (u.core.acc = s.core.acc.filter fun y => y.id ≠ id) ∧ s.core.seenAs u.core = s.core.still

theorem waitEnds_waitNow {s u : State} {a : Access} (h : SeenMoves s.core u.core) (hw : s.core.waiting = .waita a.id none)
    (r : WaitEnd) : WaitEnds s a.id r (u.waitNow a r) := by
  have hwait : u.core.waiting = .waita a.id none := by
    have := congrArg Core.waiting h
    exact this.trans hw
  have hacc : u.core.acc = s.core.acc := by
    have := congrArg Core.acc h
    exact this
  have hcore : (u.waitNow a r).core = { u.core.dropAccess a.id with waiting := .waita a.id (some r) } := by
    simp [State.waitNow, State.endWait, State.modAt, hwait]
  rw [WaitEnds, hcore]
  refine ⟨rfl, ?_, ?_⟩
  · show u.core.acc.filter _ = _
    rw [hacc]
  · have := congrArg s.core.seenAs h
    exact this

theorem waitersAt_waitNow (s : State) (a : Access) (r : WaitEnd) (p : Point) : (s.waitNow a r).waitersAt p = s.waitersAt p :=
  waitersAt_modAt ..

/-! ## At its registration (R130, R132) -/

/-- The state once a registration has read its word. -/
def State.waitRead (s : State) (a : Access) (p : Point) : State :=
  ((s.dependAt p a.place.1 a.place.2).mod fun c => c.precedes a.id).countCorrected a.space a.place.1 a.place.2

theorem seenMoves_waitRead (s : State) (a : Access) (p : Point) : SeenMoves s.core (s.waitRead a p).core := by
  have hprec (c : Core) : SeenMoves c (c.precedes a.id) := by rw [Core.precedes_eq]; rfl
  have htrans {c d u : Core} (h : SeenMoves c d) (k : SeenMoves d u) : SeenMoves c u := by
    have := congrArg (fun v : Core => { v with dep := c.dep, depMsc := c.depMsc, mscSeen := c.mscSeen, copy := c.copy }) k
    exact this.trans h
  rw [State.waitRead, countCorrected_core]
  exact htrans (seenMoves_dependAt s p a.place.1 a.place.2) (hprec _)

/-- The state with a waiter entered at its point. -/
def State.registered (s : State) (a : Access) (p : Point) : State :=
  { (s.setWaiters p (s.waitersAt p ++ [⟨s.core.phys, a.id, a.place.1, a.n⟩])).mod fun c =>
      c.setAccess { a with stage := .registered, due := s.withdrawalDue a } with fv := s.fv + 1 }

/-- A registration in package memory that is ready for its home slice. -/
structure WaitaReady (s : State) (id : Nat) (a : Access) (n x : Nat) : Prop where
  kind : a.kind = .waita n x
  id_eq : a.id = id
  found : s.core.access? id = some a
  space : a.space = .main
  stage : a.stage = .waiting
  scope : a.scope.toNat < 3
  reads : a.reads = [a.place]
  ready : s.ready a = true
  decoded : a.place.1 + a.place.2 ≤ Config.mainMemoryEnd
  good : s.poisonIn .main a.place.1 a.place.2 = false
  macGood : s.macBad .main a.place.1 a.place.2 = false

section
variable {s : State} {id : Nat} {a : Access} {n x : Nat} (h : WaitaReady s id a n x)
include h

theorem waitaRegister_reads : exec (.waitaRegister id) s =
    let p := Point.slice (dieOf s.core.phys)
    let w := s.wordAt p a.place.1 a.place.2
    if signed (8 * a.n) x ≤ signed (8 * a.n) w then .next ((s.waitRead a p).waitNow a ⟨BitVec.ofNat 64 w, true, 0, setterNone⟩)
    else if s.tableFull p a.place.1 then .next ((s.waitRead a p).waitNow a ⟨BitVec.ofNat 64 w, false, 0, setterNone⟩)
    else .next (s.registered a p) := by
  have hbind : s.bind a = none := bind_main h.space
  have hpoint : a.point s.core.phys = .slice (dieOf s.core.phys) := point_slice h.space h.scope _
  have hdecoded : undecoded a.space a.reads = none := by rw [h.space, h.reads]; exact undecoded_word h.decoded
  have hgood : ¬(s.poisonIn a.space a.place.1 a.place.2 = true ∨ s.macBad a.space a.place.1 a.place.2 = true) := by
    rw [h.space, h.good, h.macGood]; decide
  have hready : ¬¬s.ready a = true := not_not.mpr h.ready
  rw [exec_waitaRegister, execWaitaRegister, h.found]
  dsimp only
  split
  · next hu => rw [hbind] at hu; cases hu
  · next hst => rw [h.stage] at hst; cases hst
  · next d x' hk hst hb =>
    rw [h.kind] at hk
    obtain ⟨rfl, rfl⟩ := AccKind.waita.inj hk
    rw [if_neg hready, hpoint, if_neg (by simp), hdecoded, if_neg hgood, ← h.id_eq]
    rfl
  · next hall => exact (hall n x h.kind h.stage hbind).elim

end

section
variable (s : State) (a : Access) (d : Nat)

theorem waiters_registered : ((s.registered a (.slice d)).die d).waiters =
    (s.die d).waiters ++ [⟨s.core.phys, a.id, a.place.1, a.n⟩] :=
  waitersAt_setWaiters s (.slice d) _

theorem registered_core : (s.registered a (.slice d)).core =
    s.core.setAccess { a with stage := .registered, due := s.withdrawalDue a } := by
  have hcore : (s.setWaiters (.slice d) (s.waitersAt (.slice d) ++ [⟨s.core.phys, a.id, a.place.1, a.n⟩])).core = s.core :=
    (modDie_onlyDies ..).core
  have h := congrArg (fun c : Core => c.setAccess { a with stage := .registered, due := s.withdrawalDue a }) hcore
  exact h

theorem registered_outside : { s.registered a (.slice d) with core := s.core, dies := s.dies, fv := s.fv } = s := by
  have h := congrArg (fun v : State => { v with core := s.core, fv := s.fv })
    (modDie_onlyDies s d fun y => { y with waiters := s.waitersAt (.slice d) ++ [⟨s.core.phys, a.id, a.place.1, a.n⟩] })
  exact h

end

/-! ## After its timeout (R130) -/

/-- The state once a registration is withdrawn and its word read. -/
def State.withdrawn (s : State) (a : Access) : State :=
  (s.withdraw (a.point s.core.phys) s.core.phys a.id).dependAt (a.point s.core.phys) a.place.1 a.place.2

section
variable (s : State) (a : Access)

theorem waitaTimeout_withdraws {s : State} {a : Access} (h : s.waitExpired = some a) : exec .waitaTimeout s =
    .next ((s.withdrawn a).waitNow a
      ⟨BitVec.ofNat 64 (s.wordAt (a.point s.core.phys) a.place.1 a.place.2), false, 1, setterNone⟩) := by
  rw [exec_waitaTimeout, execWaitaTimeout, h]; rfl

theorem setWaiters_core (s : State) (p : Point) (ws : List Waiter) : (s.setWaiters p ws).core = s.core := by
  cases p with
  | slice d => exact (modDie_onlyDies ..).core
  | msc | lender => rfl

theorem seenMoves_withdrawn : SeenMoves s.core (s.withdrawn a).core := by
  have h := seenMoves_dependAt (s.withdraw (a.point s.core.phys) s.core.phys a.id) (a.point s.core.phys) a.place.1 a.place.2
  have hcore : (s.withdraw (a.point s.core.phys) s.core.phys a.id).core = s.core := setWaiters_core ..
  rwa [hcore] at h

theorem waitersAt_withdrawn : (s.withdrawn a).waitersAt (a.point s.core.phys) =
    (s.waitersAt (a.point s.core.phys)).filter fun w => !(w.core == s.core.phys && w.acc == a.id) := by
  rw [State.withdrawn, waitersAt_dependAt, State.withdraw, waitersAt_setWaiters]

end

end Sys2Proof.Machine
end

section
/-! PROOF. The loads, atomics and waits of O50: each clause by the event it speaks of. -/

namespace Sys2Proof.Machine

/-- Settles O50: loads by the piece they read, atomics by their point, `waita` by its registration and its withdrawal. -/
theorem loadsAndAtomics : Obligations.LoadsAndAtomics := by
  intro id n t x op num a r s c d bs clean gone reads seen outside loads word waits value atomic
  have isReady (h : reads) : LoadReady s id a := by
    obtain ⟨hid, hacc, hb, hr, hp⟩ := h
    exact ⟨hid, hacc, hb, hr, hp⟩
  refine ⟨fun sext hk hr hone hlen hgot hp hm hu => ?_, fun hk hr hone hlen hgot hp hm hu => ?_,
    fun g hk hr hone hlen hgot hp hm hu => ?_, ?_, ?_, ?_, ?_, ?_, ?_, ?_, ?_⟩
  case refine_1 =>
    have hload : a.isLoad = true := by rw [Access.isLoad, hk]
    have hpiece := nextPiece_whole (s := s) hone hgot
    have hpoisoned := poisoned_withPiece_whole (s := s) hone hgot hp
    refine loadDataReturn_completes hload (isReady hr) hone hlen hgot hu ⟨fun hclean hn q => ?_, fun hbad hn => ?_, loadDone_load_keeps hk⟩
    · obtain ⟨hgood, hmac⟩ := hclean
      rw [loadDone_load hk hn (hpoisoned.trans hgood) (badMac_withPiece hm (hpiece.symm ▸ hmac)), bytes_withPiece_whole hone hgot]
    · obtain ⟨hkept, hmark⟩ := loadDone_marked hk (hpoisoned.trans hbad) hn
      rw [report_withPiece_whole hone hgot hm hbad hk] at hmark
      exact ⟨hkept, hmark⟩
  case refine_2 =>
    have hload : a.isLoad = true := by rw [Access.isLoad, hk]
    have hpiece := nextPiece_whole (s := s) hone hgot
    have hpoisoned := poisoned_withPiece_whole (s := s) hone hgot hp
    refine loadDataReturn_completes hload (isReady hr) hone hlen hgot hu ⟨fun hclean hn q => ?_, loadDone_kload_keeps hk⟩
    obtain ⟨hgood, hmac⟩ := hclean
    rw [loadDone_kload hk hn (hpoisoned.trans hgood) (badMac_withPiece hm (hpiece.symm ▸ hmac)), bytes_withPiece_whole hone hgot]
  case refine_3 =>
    have hload : a.isLoad = true := by rw [Access.isLoad, hk]
    have hpiece := nextPiece_whole (s := s) hone hgot
    have hpoisoned := poisoned_withPiece_whole (s := s) hone hgot hp
    refine loadDataReturn_completes hload (isReady hr) hone hlen hgot hu ⟨fun hclean hn q => ?_, loadDone_vload_keeps hk⟩
    obtain ⟨hgood, hmac⟩ := hclean
    rw [loadDone_vload hk hn (hpoisoned.trans hgood) (badMac_withPiece hm (hpiece.symm ▸ hmac)), bytes_withPiece_whole hone hgot]
  case refine_4 =>
    intro p got left bytes hload hr hu
    obtain ⟨u, hexec, hout, hseen, hgoes, hdone⟩ := loadDataReturn_piece hload (isReady hr) hu p rfl
    have hid : a.id = id := (isReady hr).id_eq
    refine ⟨u, hexec, hout, hseen, fun hmore => ?_, fun hlast => ?_⟩
    · rw [hgoes hmore, ← hid]
      exact ⟨loadGoes_registers, s.again, Nat.le_add_right .., loadGoes_acc⟩
    · rw [hdone hlast]
      have hgone := loadDone_acc (s := s) hload
      rw [hid] at hgone
      refine ⟨hgone, fun hp hm hgood hmac => ?_⟩
      have hp' := poisoned_withPiece hp hgood
      have hm' := badMac_withPiece hm hmac
      exact ⟨fun sext hk hn => loadDone_load hk hn hp' hm', fun hk hn => loadDone_kload hk hn hp' hm',
        fun g hk hn => loadDone_vload hk hn hp' hm'⟩
  case refine_5 =>
    rintro ⟨hk, hid, hacc, hsp, hst, hparts, hreads, hr, hin, hgood, hmac⟩ hscope hd
    subst hid
    have h : AtomicReady s a.id a op n t x := ⟨hk, rfl, hacc, hsp, hst, hparts, hreads, hr, hin, hgood, hmac⟩
    have hpoint : a.point s.core.phys = .slice d := point_slice hsp hscope _
    have hexec := atomicApply_applies h fun hp => by rw [hpoint] at hp; cases hp
    rw [hpoint] at hexec
    refine ⟨_, hexec, ?_⟩
    intro old new
    have hold : s.oldAt a (.slice d) = old := congrArg (memReadNat (s.die d).view a.place.1) h.place
    have hnew : s.newAt a op t x (.slice d) = new := congrArg (amoNew op a.n · t x) hold
    have hview (f : Nat) := view_applyAtomic (s := s) (a := a) (op := op) (t := t) (x := x) (p := .slice d) f
    refine ⟨fun hwait => ?_, fun hw f _ => ?_, fun hw hwf => ?_, fun hw f hf hne => ?_, fun y hy => ?_, fun hop hc => ?_, fun hquiet => ?_⟩
    · obtain ⟨due, hdue, hsome⟩ := access?_atomicDone (op := op) (t := t) (x := x) (d := d) hparts hacc
      refine ⟨{ a with stage := .applied (s.oldAt a (.slice d)) none, due := due }, access?_applyAtomic (lent_main hsp) ⟨hsome, ?_⟩,
        by rw [hold], hparts, hdue⟩
      rw [atomicMoves_atomicDone.waiting]; exact hwait
    · rw [(hview f).1, (hview f).2, die_atomicDone_kept (hold.symm ▸ hw)]
      exact ⟨rfl, rfl⟩
    · rw [(hview d).1, view_atomicDone_slice hd hwf (hold.symm ▸ hw), hnew]
    · obtain ⟨e, hinbox, hsrc, hcells⟩ := inbox_atomicDone_slice (x := x) (s := s) (a := a) hd (hold.symm ▸ hw) hf hne
      exact ⟨e, (hview f).2.trans hinbox, hsrc, by rw [hcells, State.newCells, hnew]⟩
    · rw [(hview d).1, view_atomicDone_slice_ne hd hy]
    · have hwaiters := waitersAt_applyAtomic (s := s) (a := a) (x := x) (p := .slice d) ⟨hop, by rw [hold, hnew]; exact hc⟩
      have hsame := waiters_atomicDone_slice (s := s) (a := a) (op := op) (t := t) (x := x) hd
      rw [h.place] at hwaiters
      exact hwaiters.trans (congrArg (List.filter _) hsame)
    · rw [applyAtomic_quiet (by rw [hold, hnew]; exact not_crossing hquiet)]
      exact ⟨atomicMoves_atomicDone, waiters_atomicDone_slice hd⟩
  case refine_6 =>
    rintro ⟨hk, hid, hacc, hsp, hst, hparts, hreads, hr, hin, hgood, hmac⟩ hscope hturn
    subst hid
    have h : AtomicReady s a.id a op n t x := ⟨hk, rfl, hacc, hsp, hst, hparts, hreads, hr, hin, hgood, hmac⟩
    have hpoint : a.point s.core.phys = .msc := point_msc hsp hscope _
    have hexec := atomicApply_applies h fun _ => hturn
    rw [hpoint] at hexec
    refine ⟨_, hexec, ?_⟩
    intro old new
    have hold : s.oldAt a .msc = old := congrArg (memReadNat s.mem a.place.1) h.place
    have hnew : s.newAt a op t x .msc = new := congrArg (amoNew op a.n · t x) hold
    have hmem := mem_applyAtomic (s := s) (a := a) (op := op) (t := t) (x := x) (p := .msc)
    refine ⟨fun hwait => ?_, fun hw => ?_, fun hw hwf => ?_, fun y hy => ?_, fun f _ => ?_, fun hop hc => ?_, fun hquiet => ?_⟩
    · have hwaits : (s.atomicDone a op t x .msc).core.waiting ≠ .waita a.id none := by rw [waiting_atomicDone_msc]; exact hwait
      cases hw : amoWrites op old t
      · obtain ⟨due, hdue, hsome⟩ := access?_atomicDone_kept (x := x) (p := .msc) hacc (hold.symm ▸ hw)
        exact ⟨{ a with stage := .applied (s.oldAt a .msc) none, due := due },
          access?_applyAtomic (lent_main hsp) ⟨hsome, hwaits⟩, hdue, fun _ => ⟨by rw [hold], hparts⟩,
          fun hw' => absurd hw' Bool.false_ne_true⟩
      · obtain ⟨due, stamp, hdue, hsome⟩ := access?_atomicDone_msc (x := x) hacc (hold.symm ▸ hw)
        exact ⟨{ a with
            stage := .applied (s.oldAt a .msc) (some (stamp, s.seq)), parts := [s.newCells a op t x .msc], due := due },
          access?_applyAtomic (lent_main hsp) ⟨hsome, hwaits⟩, hdue, fun hw' => absurd hw'.symm Bool.false_ne_true,
          fun _ => ⟨by rw [State.newCells, hnew], stamp, by rw [hold]⟩⟩
    · rw [hmem, mem_atomicDone_kept (hold.symm ▸ hw)]
    · rw [hmem, memRead_atomicDone_msc hwf (hold.symm ▸ hw), hnew]
    · rw [hmem, memGet_atomicDone_msc hy]
    · obtain ⟨hview, hinbox⟩ := view_applyAtomic (s := s) (a := a) (op := op) (t := t) (x := x) (p := .msc) f
      rw [hview, hinbox, die_atomicDone_msc]
      exact ⟨rfl, rfl⟩
    · have hwaiters := waitersAt_applyAtomic (s := s) (a := a) (x := x) (p := .msc) ⟨hop, by rw [hold, hnew]; exact hc⟩
      rw [h.place] at hwaiters
      exact hwaiters.trans (congrArg (List.filter _) waiters_atomicDone_msc)
    · rw [applyAtomic_quiet (by rw [hold, hnew]; exact not_crossing hquiet)]
      exact waiters_atomicDone_msc
  case refine_7 =>
    intro old stamp q hk hid hacc hsp hst hparts hdue hd
    subst hid
    obtain ⟨due, hlater, hsome⟩ := access?_atomicHome (stamp := stamp) (seq := q) hacc
    exact ⟨_, atomicApply_home hk hacc hsp hst hparts hdue, exported_atomicHome hd, ⟨_, hsome, rfl, rfl, hlater⟩,
      fun hwf honce y b hb hlater => view_atomicHome hd hwf hb (fun b' => honce y b b' hb) hlater,
      fun y hy => memGet_atomicHome hd hy, fun f hf hne => inbox_atomicHome hd hf hne⟩
  case refine_8 =>
    intro old hk hst hacc hparts hdue hn htravel hp hm
    refine ⟨_, atomicResultReturn_returns hk hst hacc hparts hdue htravel, ?_⟩
    rw [deliver_atomic hk hst hp hm]
    obtain ⟨hgone, hstill⟩ := put_acc_still (c.dropAccess id) c (BitVec.ofNat 5 n) (BitVec.ofNat 64 old) s.now 0 rfl
    have hdrop : BytesKept s (s.mod fun c => c.dropAccess id) := bytesKept_mod s _ rfl rfl rfl rfl
    exact ⟨hgone, fun q => rs_put_number _ hn _ _ _ q, hstill, rfl, hdrop.trans (bytesKept_put ..)⟩
  case refine_9 =>
    intro hk hid hacc hst htoken hr hrow hspoil
    subst hid
    refine ⟨_, localAtomicApply_applies hk hacc hst htoken hr hrow hspoil, ?_⟩
    have hsettled (y : Nat) := (bytesKept_localSettled (s.localDone a op t x) { a with stage := .applied (s.localOld a) none }).1 a.space y
    have hfound : (s.localDone a op t x).core.access? a.id = some a := (access?_congr localDone_acc a.id).trans hacc
    refine ⟨⟨_, access?_localSettled (a := { a with stage := .applied (s.localOld a) none }) hfound, rfl, ?_⟩, fun hw => ?_,
      fun hw hcores hpool => ?_, fun y hy => (hsettled y).trans (spaceByte_localDone_ne hy), localDone_mem,
      localMoves_localDone.trans (localMoves_localSettled ..)⟩
    · have hdue := now_lt_due (s.localDone a op t x)
      rw [localDone_now] at hdue
      show s.now + 2 ≤ (s.localDone a op t x).dueCycle + 1
      omega
    · have hno : amoWrites op (s.localOld a) t = false := hw
      have hdone : s.localDone a op t x = s.takeRow a := if_neg (by rw [hno]; exact Bool.false_ne_true)
      have hkept := bytesKept_localSettled (s.localDone a op t x) { a with stage := .applied (s.localOld a) none }
      rw [hdone] at hkept ⊢
      exact (bytesKept_takeRow s a).trans hkept
    · exact (spaceRead_congr hsettled a.place.1 a.n).trans (spaceRead_localDone htoken hcores hpool hw)
  case refine_10 =>
    intro hk hid hacc hsp hst hwait hscope hreads hr hin hgood hmac p v reached
    subst hid
    have hexec := waitaRegister_reads ⟨hk, rfl, hacc, hsp, hst, hscope, hreads, hr, hin, hgood, hmac⟩
    have hends := waitEnds_waitNow (seenMoves_waitRead s a p) hwait
    refine ⟨fun hreached => ?_, fun hshort hfull => ?_, fun hshort hroom hd => ?_⟩
    · obtain ⟨hwaiting, hgone, hseen⟩ := hends ⟨BitVec.ofNat 64 v, true, 0, setterNone⟩
      exact ⟨_, hexec.trans (if_pos hreached), hwaiting, hgone, hseen⟩
    · obtain ⟨hwaiting, hgone, hseen⟩ := hends ⟨BitVec.ofNat 64 v, false, 0, setterNone⟩
      exact ⟨_, hexec.trans ((if_neg hshort).trans (if_pos hfull)), hwaiting, hgone, hseen⟩
    · have hcore := registered_core s a d
      refine ⟨_, hexec.trans ((if_neg hshort).trans (if_neg (by rw [hroom]; exact Bool.false_ne_true))), waiters_registered s a d,
        ?_, ?_, ?_, registered_outside s a d⟩
      · exact (congrArg Core.waiting hcore).trans hwait
      · exact congrArg Core.acc hcore
      · exact congrArg (fun u : Core => { u with acc := c.acc }) hcore
  case refine_11 =>
    intro hexpired hid hwait
    subst hid
    obtain ⟨hwaiting, hgone, hseen⟩ := waitEnds_waitNow (seenMoves_withdrawn s a) hwait
      ⟨BitVec.ofNat 64 (s.wordAt (a.point s.core.phys) a.place.1 a.place.2), false, 1, setterNone⟩
    exact ⟨_, waitaTimeout_withdraws hexpired, ⟨hwaiting, hgone, hseen⟩, (waitersAt_waitNow ..).trans (waitersAt_withdrawn s a)⟩

end Sys2Proof.Machine
end

section
/-! PROOF. What reset leaves, O58. -/

namespace Sys2Proof.Machine

/-! ## Tables and registers filled alike -/

theorem of_replicate_getElem? {α : Type} {n i : Nat} {x y : α} (h : (Vector.replicate n y)[i]? = some x) : x = y := by
  obtain ⟨_, hx⟩ := Vector.getElem?_eq_some_iff.mp h
  rw [← hx, Vector.getElem_replicate]

theorem reset_die (d : Nat) : State.reset.die d = Die.initial := by
  simp only [State.die, State.reset, Array.getD, Vector.size_toArray]
  split_ifs <;> simp

theorem initial_rs (n : Nat) (r : BitVec 5) : (Core.initial n).rs r = 0 := by
  unfold Core.rs
  split_ifs
  · rfl
  · exact Vector.getElem_replicate _

theorem initial_rp (n : Nat) {r : BitVec 3} (h : r ≠ 0) : (Core.initial n).rp r = 0 := by
  have hr : 0 ≠ r.toNat := fun e => h (BitVec.eq_of_toNat_eq e.symm)
  rw [Core.rp, if_neg h]
  exact (Vector.getElem_set_ne (by decide) r.isLt hr).trans (Vector.getElem_replicate r.isLt)

theorem initial_eng (n : Nat) (e : EngineId) : (Core.initial n).eng e = Engine.empty := by
  cases e <;> rfl

/-- Settles O58: the fields of the state of bring-up, its tables and registers being filled alike. -/
theorem resetState : Obligations.ResetState := by
  refine ⟨rfl, rfl, rfl, rfl, rfl, rfl, fun i x hx => ?_, fun _ => ⟨rfl, rfl⟩, fun _ => ⟨rfl, rfl⟩, fun _ => ⟨rfl, rfl, rfl, rfl⟩,
    fun d a => ?_, rfl, initial_rs 0, rfl, fun r => initial_rp 0, fun r => Vector.getElem_replicate _,
    fun r => Vector.getElem_replicate _, rfl, rfl, rfl, rfl, fun r => Vector.getElem_replicate _, rfl, rfl, rfl, rfl, rfl, rfl, rfl,
    rfl, rfl, rfl, rfl, fun e => ?_, rfl, fun i x => of_replicate_getElem?, rfl, fun _ => rfl, fun _ => rfl, rfl⟩
  · rw [of_replicate_getElem? hx]; exact ⟨rfl, rfl⟩
  · rw [reset_die]; exact ⟨rfl, rfl⟩
  · have he : State.reset.core.eng e = Engine.empty := initial_eng 0 e
    rw [he]
    exact ⟨rfl, rfl, rfl⟩

end Sys2Proof.Machine
end

section
/-! PROOF. Where control goes after an instruction that does not itself transfer, O11. -/

namespace Sys2Proof.Machine

/-- The loop-end test is made and met (R156): at `le`, with `lc` not 0, and not in the delay slot of a taken transfer. -/
def Core.AtLoopEnd (c : Core) : Prop := c.lc ≠ 0 ∧ c.pc.setWidth 64 = c.le ∧ ∀ n t e, c.slots ≠ some ⟨n, some t, e⟩

theorem inTakenSlot_iff (c : Core) : c.inTakenSlot = true ↔ ∃ n t e, c.slots = some ⟨n, some t, e⟩ := by
  unfold Core.inTakenSlot
  split
  next n t e h => exact ⟨fun _ => ⟨n, t, e, h⟩, fun _ => rfl⟩
  next h => exact ⟨fun hf => absurd hf Bool.false_ne_true, fun ⟨n, t, e, hs⟩ => absurd hs (h n t e)⟩

/-- The delay slots after one more of them has been passed (R222). -/
def Core.slotsPassed (c : Core) : Option Slots :=
  match c.slots with
  | some ⟨n + 2, t, e⟩ => some ⟨n + 1, t, e⟩
  | _ => none

theorem atLoopEnd_iff (c : Core) : c.AtLoopEnd ↔ c.lc ≠ 0 ∧ c.pc.setWidth 64 = c.le ∧ ¬c.inTakenSlot = true := by
  rw [inTakenSlot_iff, Core.AtLoopEnd]
  simp only [not_exists, ne_eq]

theorem advance_slots (c : Core) : c.advance.slots = c.slotsPassed := by
  unfold Core.advance
  dsimp only
  split_ifs <;> rfl

section
variable {c : Core}

theorem advance_loopBack (h : c.AtLoopEnd) (hn : 1 < c.lc.toNat) : c.advance.lc = c.lc - 1 ∧
    c.advance.pc = (c.heldLs.getD c.ls).setWidth 32 := by
  unfold Core.advance
  dsimp only
  rw [if_pos ((atLoopEnd_iff c).mp h), if_pos hn]
  exact ⟨rfl, rfl⟩

theorem advance_loopLeft (h : c.AtLoopEnd) (hn : ¬1 < c.lc.toNat) : c.advance.lc = 0 ∧ c.advance.pc = (c.le + 4).setWidth 32 := by
  unfold Core.advance
  dsimp only
  rw [if_pos ((atLoopEnd_iff c).mp h), if_neg hn]
  exact ⟨rfl, rfl⟩

/-- The held loop writes are taken up by the test (R157). -/
theorem advance_held (h : c.AtLoopEnd) : c.advance.ls = c.heldLs.getD c.ls ∧ c.advance.le = c.heldLe.getD c.le ∧
    c.advance.heldLs = none ∧ c.advance.heldLe = none := by
  unfold Core.advance
  dsimp only
  rw [if_pos ((atLoopEnd_iff c).mp h)]
  split_ifs <;> exact ⟨rfl, rfl, rfl, rfl⟩

theorem advance_elsewhere (h : ¬c.AtLoopEnd) : c.advance.lc = c.lc ∧ c.advance.ls = c.ls ∧ c.advance.le = c.le ∧
    c.advance.heldLs = c.heldLs ∧ c.advance.heldLe = c.heldLe := by
  unfold Core.advance
  dsimp only
  rw [if_neg (mt (atLoopEnd_iff c).mpr h)]
  exact ⟨rfl, rfl, rfl, rfl, rfl⟩

theorem advance_nextWord (h : ¬c.AtLoopEnd) (hs : ∀ t e, c.slots ≠ some ⟨1, some t, e⟩) : c.advance.pc = c.pc + 4 := by
  unfold Core.advance
  dsimp only
  rw [if_neg (mt (atLoopEnd_iff c).mpr h)]
  split
  next t e hs' => exact absurd hs' (hs t e)
  next => rfl

theorem advance_transfers {t : BitVec 32} {e : Nat} (hs : c.slots = some ⟨1, some t, e⟩) : c.advance.pc = t := by
  have hend : ¬c.AtLoopEnd := fun ⟨_, _, hfree⟩ => hfree 1 t e hs
  unfold Core.advance
  dsimp only
  rw [if_neg (mt (atLoopEnd_iff c).mpr hend), hs]
  rfl

end

/-- Settles O11: the loop-end test met and not met, the delay slots counted either way. -/
theorem pathOfControl : Obligations.PathOfControl := by
  intro c
  refine ⟨advance_loopBack, fun h hlc => advance_loopLeft h (by rw [hlc]; decide), advance_held, advance_elsewhere,
    advance_nextWord, fun t e hs => ⟨advance_transfers hs, ?_⟩, fun t e hs => ?_, fun e hs => ?_⟩
  all_goals rw [advance_slots, Core.slotsPassed, hs]

end Sys2Proof.Machine
end

section
/-! SUPPORT. The hardware loops (07 R153, R155, R157, R158): the loop registers under their writes, and the stack's words pushed and
popped. -/

namespace Sys2Proof.Machine

/-! ## The loop registers (R155, R157) -/

/-- The loop registers, with the writes that are held. -/
def Core.loopRegs (c : Core) : BitVec 32 × Word × Word × Option Word × Option Word := (c.lc, c.ls, c.le, c.heldLs, c.heldLe)

/-- A loop opened and control sent on (R155). -/
def Core.openLoop (c : Core) (n : BitVec 32) (ls le : Word) (pc : BitVec 32) (now : Nat) : Core :=
  ({ c.applyHeld with ls := ls, le := le, lc := n }.after .loopRegs (now + 1)).retireTo pc now

theorem openLoop_fields (c : Core) (n : BitVec 32) (ls le : Word) (pc : BitVec 32) (now : Nat) :
    let d := c.openLoop n ls le pc now
    d.loopRegs = (n, ls, le, none, none) ∧ d.pc = pc ∧ d.still = c.still ∧ d.vigil = c.vigil - 1 := ⟨rfl, rfl, rfl, rfl⟩

theorem exec_loop_go {a : BitVec 5} {i : BitVec 12} {s : State} (hg : gate (.loop a i) s = .go) :
    let n : BitVec 32 := (s.core.rs a).setWidth 32
    let last : Word := s.core.pc.setWidth 64 + 4 * (i.setWidth 64 + 1)
    exec (.loop a i) s = .next (s.mod fun c => c.openLoop n (c.pc.setWidth 64 + 4) last
      (if n = 0 then (last + 4).setWidth 32 else c.pc + 4) s.now) := by
  intro n last
  refine (exec_loop a i s).trans ((withGate_go hg).trans (congrArg Host.Outcome.next ?_))
  by_cases hn : n = 0
  · simp only [if_pos hn]; exact congrArg (fun k : Core => ({ s with core := k } : State)) (if_pos hn)
  · simp only [if_neg hn]; exact congrArg (fun k : Core => ({ s with core := k } : State)) (if_neg hn)

section
variable {c : Core} {v : Word}

theorem writeLoop_lc (h : v.setWidth 32 ≠ (0 : BitVec 32)) : c.writeLoop 0 v = { c with lc := v.setWidth 32 } := if_neg h

theorem writeLoop_lc_zero (h : v.setWidth 32 = (0 : BitVec 32)) :
    c.writeLoop 0 v = Core.applyHeld { c with lc := v.setWidth 32 } := if_pos h

theorem writeLoop_ls (h : c.lc = 0) : c.writeLoop 1 v = { c with ls := clear4 v } := if_pos h

theorem writeLoop_le (h : c.lc = 0) : c.writeLoop 2 v = { c with le := clear4 v } := if_pos h

theorem writeLoop_ls_held (h : c.lc ≠ 0) : c.writeLoop 1 v = { c with heldLs := some (clear4 v) } := if_neg h

theorem writeLoop_le_held (h : c.lc ≠ 0) : c.writeLoop 2 v = { c with heldLe := some (clear4 v) } := if_neg h

/-- A loop register written is all that changes. -/
theorem writeLoop_eq (x : BitVec 2) : c.writeLoop x v = { c with
    lc := (c.writeLoop x v).lc, ls := (c.writeLoop x v).ls, le := (c.writeLoop x v).le
    heldLs := (c.writeLoop x v).heldLs, heldLe := (c.writeLoop x v).heldLe } := by
  unfold Core.writeLoop
  dsimp only
  split_ifs <;> rfl

end

/-- A core with its loop registers changed, and what follows the loop-end test, retires with its memories in place. -/
theorem bytesKept_retireWith {s : State} {f : Core → Core} (hp : (f s.core).phys = s.core.phys) (hs : (f s.core).scr = s.core.scr)
    (hw : (f s.core).wb = s.core.wb) (hl : (f s.core).lanes = s.core.lanes) : BytesKept s (retireWith s f) := by
  have hstill := (f s.core).still_retire s.now
  refine bytesKept_mod s _ ?_ ?_ ?_ ?_
  · have := congrArg Core.phys hstill; exact Eq.trans this hp
  · have := congrArg Core.scr hstill; exact Eq.trans this hs
  · have := congrArg Core.wb hstill; exact Eq.trans this hw
  · have := congrArg Core.lanes hstill; exact Eq.trans this hl

/-- A loop register written, before the instruction retires. -/
def Core.loopWritten (c : Core) (x : BitVec 2) (v : Word) (now : Nat) : Core := (c.writeLoop x v).after .loopRegs (now + 1)

theorem mtl_completes (a : BitVec 5) (x : BitVec 2) (s : State) : Completes (.mtl a x) s fun t =>
    let c := s.core.loopWritten x (s.core.rs a) s.now
    c.still = s.core.still ∧ t.core.path = c.advance.path ∧ t.core.still = s.core.still ∧ t.core.vigil = s.core.vigil - 1 ∧
      Outside s t ∧ BytesKept s t ∧ c.pc = s.core.pc ∧ c.slots = s.core.slots := by
  intro hg
  have hc : s.core.loopWritten x (s.core.rs a) s.now = { s.core with
      lc := (s.core.writeLoop x (s.core.rs a)).lc, ls := (s.core.writeLoop x (s.core.rs a)).ls
      le := (s.core.writeLoop x (s.core.rs a)).le, heldLs := (s.core.writeLoop x (s.core.rs a)).heldLs
      heldLe := (s.core.writeLoop x (s.core.rs a)).heldLe
      ready := (s.core.loopWritten x (s.core.rs a) s.now).ready } :=
    congrArg (fun k : Core => ({ k with ready := (s.core.loopWritten x (s.core.rs a) s.now).ready } : Core)) (writeLoop_eq x)
  have hstill : (s.core.loopWritten x (s.core.rs a) s.now).still = s.core.still := by rw [hc]; rfl
  refine ⟨retireWith s fun c => c.loopWritten x (c.rs a) s.now, (exec_mtl a x s).trans (withGate_go hg), hstill, rfl,
    (Core.still_retire ..).trans hstill, ?_, rfl, ?_, ?_, ?_⟩
  · rw [retireWith_core, Core.vigil_retire, hc]
  · refine bytesKept_retireWith ?_ ?_ ?_ ?_ <;> rw [hc]
  · rw [hc]
  · rw [hc]

/-! ## The stack's words pushed (R153, R246) -/

section
variable {s : State} {r : Region} {bs : List Byte}

theorem push_passes (h : s.core.local? (s.core.rs 31 - BitVec.ofNat 64 bs.length) bs.length true = some r) :
    let a := s.core.rs 31 - BitVec.ofNat 64 bs.length
    s.push bs = (s.localStore r a.toNat bs 0).mod fun c =>
      (c.strikeStore true (span a.toNat bs.length) s.now).put 31 a s.now 1 := by
  intro a
  unfold State.push
  dsimp only
  rw [show s.core.local? (s.core.rs spReg - BitVec.ofNat 64 bs.length) bs.length true = some r from h]
  rfl

theorem keeps_localStore (s : State) (r : Region) (a : Nat) (bs : List Byte) (o : BitVec 2) :
    Keeps s.core (s.localStore r a bs o).core := by
  cases r with
  | scratch => exact keeps_scrStore ..
  | csm | pool | weight => exact keeps_issueAccess ..

theorem localStore_s (s : State) (r : Region) (a : Nat) (bs : List Byte) (o : BitVec 2) :
    (s.localStore r a bs o).core.s = s.core.s := by
  cases r with
  | scratch => show (s.core.scrStore s.now a bs).s = _; rw [Core.scrStore_eq]
  | csm | pool | weight => rfl

theorem localStore_outsideFree (s : State) (r : Region) (a : Nat) (bs : List Byte) (o : BitVec 2) :
    OutsideFree s (s.localStore r a bs o) := by
  cases r with
  | scratch | csm | pool | weight => rfl

theorem bytesKept_of_keeps {s : State} {u : State} (h : Keeps s.core u.core) (hout : OutsideFree s u) : BytesKept s u := by
  have hcore : BytesKept s (s.mod fun _ => u.core) := bytesKept_mod s _ h.phys h.scr h.wb h.lanes
  have hu : u = { s.mod (fun _ => u.core) with fv := u.fv } :=
    (congrArg (fun v : State => ({ v with core := u.core, fv := u.fv } : State)) hout :)
  rw [hu]
  exact hcore

theorem Core.rs_congr {c d : Core} (h : d.s = c.s) (q : BitVec 5) : d.rs q = c.rs q := by
  unfold Core.rs
  rw [h]

theorem OutsideFree.of_mod {s u : State} {f : Core → Core} (h : OutsideFree (s.mod f) u) : OutsideFree s u := by
  have hback := congrArg (fun v : State => ({ v with core := s.core } : State)) h
  exact hback

/-- What a push leaves: the words on their way to memory, `sp` moved. -/
def Pushed (s : State) (r : Region) (a : Word) (bs : List Byte) (u : State) : Prop :=
  let st := s.localStore r a.toNat bs 0
  Keeps s.core u.core ∧ OutsideFree s u ∧ u.core.timed = st.core.timed ∧ u.core.acc = st.core.acc ∧ u.core.rs 31 = a ∧
    ∀ q, q ≠ 31 → u.core.rs q = s.core.rs q

theorem pushed_push {a : Word} (ha : s.core.rs 31 - BitVec.ofNat 64 bs.length = a)
    (h : s.core.local? a bs.length true = some r) : Pushed s r a bs (s.push bs) := by
  subst ha
  let a := s.core.rs 31 - BitVec.ofNat 64 bs.length
  let st := s.localStore r a.toNat bs 0
  have hs : (st.core.strikeStore true (span a.toNat bs.length) s.now).s = s.core.s :=
    (congrArg Core.s (Core.strikeStore_eq ..)).trans (localStore_s ..)
  rw [push_passes h]
  refine ⟨((keeps_localStore ..).trans (keeps_strikeStore ..)).trans (keeps_put ..), (localStore_outsideFree ..).mod _, ?_, ?_, ?_, ?_⟩
  · rw [State.mod_core, Core.put_eq, Core.strikeStore_timed]
  · rw [State.mod_core, Core.put_eq, Core.strikeStore_eq]
  · exact (put_rs ..).trans (if_neg (by decide))
  · exact fun q hq => (put_rs_ne _ _ _ _ _ _ hq).trans (Core.rs_congr hs q)

/-! ## loop.push (R158) -/

/-- What `loop.push` leaves of the loop: it is closed, its held writes taken up. -/
def Core.closeLoop (c : Core) (now : Nat) : Core := { c with lc := 0, nextIssue := now + 3 }.after .loopRegs (now + 3)

/-- The three words of `loop.push`, held writes first. -/
def Core.loopWords (c : Core) : List Byte :=
  natToBytes 8 c.lc.toNat ++ natToBytes 8 (c.heldLs.getD c.ls).toNat ++ natToBytes 8 (c.heldLe.getD c.le).toNat

theorem length_loopWords (c : Core) : c.loopWords.length = 24 := by simp [Core.loopWords, length_natToBytes]

/-- The writes of a store do not depend on the loop registers. -/
theorem localStore_applyHeld (s : State) (r : Region) (a : Nat) (bs : List Byte) :
    ((s.mod Core.applyHeld).localStore r a bs 0).core.timed = (s.localStore r a bs 0).core.timed ∧
      ((s.mod Core.applyHeld).localStore r a bs 0).core.acc = (s.localStore r a bs 0).core.acc := by
  cases r with
  | scratch =>
    show (s.core.applyHeld.scrStore s.now a bs).timed = (s.core.scrStore s.now a bs).timed ∧ _
    unfold State.localStore
    simp only [State.mod_core]
    unfold Core.scrStore
    dsimp only
    split_ifs <;> exact ⟨rfl, rfl⟩
  | csm | pool | weight => exact ⟨rfl, rfl⟩

/-- No loop-end test is made where no loop is active (R156). -/
theorem retire_loopRegs {c : Core} (now : Nat) (h : c.lc = 0) : (c.retire now).loopRegs = c.loopRegs := by
  obtain ⟨hlc, hls, hle, hheldLs, hheldLe⟩ := advance_elsewhere (c := c) fun hend => hend.1 h
  show (c.advance.lc, c.advance.ls, c.advance.le, c.advance.heldLs, c.advance.heldLe) = _
  rw [hlc, hls, hle, hheldLs, hheldLe]
  rfl

theorem exec_loopPush_go {s : State} (hg : gate .loopPush s = .go) : exec .loopPush s =
    .next (retireWith ((s.mod Core.applyHeld).push s.core.loopWords) fun c => c.closeLoop s.now) :=
  exec_loopPush s |>.trans (withGate_go hg)

/-- What `loop.push` makes of the state that its push leaves. -/
theorem loopPush_retires {s u : State} (hk : Keeps s.core.applyHeld u.core)
    (hout : OutsideFree (s.mod Core.applyHeld) u) :
    let t := retireWith u fun c => c.closeLoop s.now
    t.core.loopRegs = (0, s.core.heldLs.getD s.core.ls, s.core.heldLe.getD s.core.le, none, none) ∧
      (∀ q, t.core.rs q = u.core.rs q) ∧ t.core.timed = u.core.timed ∧ t.core.acc = u.core.acc ∧
      t.core.vigil = s.core.vigil - 1 ∧ OutsideFree s t ∧ BytesKept s t := by
  have hregs : (u.core.closeLoop s.now).loopRegs = (0, s.core.heldLs.getD s.core.ls, s.core.heldLe.getD s.core.le, none, none) := by
    have hpath := hk.path
    simp only [Core.path, Prod.mk.injEq] at hpath
    obtain ⟨-, -, -, hls, hle, hheldLs, hheldLe⟩ := hpath
    show ((0 : BitVec 32), u.core.ls, u.core.le, u.core.heldLs, u.core.heldLe) = _
    rw [hls, hle, hheldLs, hheldLe]
    rfl
  refine ⟨(retire_loopRegs u.now rfl).trans hregs, fun q => ?_, ?_, ?_, ?_, hout.of_mod.retireWith _, ?_⟩
  · exact (Core.retire_rs ..).trans (Core.rs_congr rfl q)
  · exact Core.retire_timed ..
  · exact Core.retire_acc ..
  · exact (Core.vigil_retire ..).trans (congrArg (· - 1) hk.vigil)
  · have hheld : BytesKept s (s.mod Core.applyHeld) := bytesKept_mod s _ rfl rfl rfl rfl
    have hpush : BytesKept (s.mod Core.applyHeld) u := bytesKept_of_keeps hk hout
    exact (hheld.trans hpush).trans (bytesKept_retireWith rfl rfl rfl rfl)

theorem loopPush_completes {s : State} {r : Region} (h : s.core.local? (s.core.rs 31 - 24) 24 true = some r) :
    Completes .loopPush s fun t =>
      let st := s.localStore r (s.core.rs 31 - 24).toNat s.core.loopWords 0
      t.core.rs 31 = s.core.rs 31 - 24 ∧ t.core.lc = 0 ∧ t.core.ls = s.core.heldLs.getD s.core.ls ∧
      t.core.le = s.core.heldLe.getD s.core.le ∧ t.core.heldLs = none ∧ t.core.heldLe = none ∧
      t.core.timed = st.core.timed ∧ t.core.acc = st.core.acc ∧ (∀ q, q ≠ 31 → t.core.rs q = s.core.rs q) ∧
      t.core.vigil = s.core.vigil - 1 ∧ OutsideFree s t ∧ BytesKept s t := by
  intro hg
  have hlen := length_loopWords s.core
  have hpush : Pushed (s.mod Core.applyHeld) r (s.core.rs 31 - 24) s.core.loopWords
      ((s.mod Core.applyHeld).push s.core.loopWords) := pushed_push (by rw [hlen]; rfl) (by rw [hlen]; exact h)
  obtain ⟨hk, hout, htimed, hacc, hsp, hrs⟩ := hpush
  obtain ⟨htimed', hacc'⟩ := localStore_applyHeld s r (s.core.rs 31 - 24).toNat s.core.loopWords
  obtain ⟨hregs, hrs', htimed'', hacc'', hvigil, hout', hbytes⟩ := loopPush_retires hk hout
  simp only [Core.loopRegs, Prod.mk.injEq] at hregs
  obtain ⟨hlc, hls, hle, hheldLs, hheldLe⟩ := hregs
  refine ⟨_, exec_loopPush_go hg, ?_, hlc, hls, hle, hheldLs, hheldLe, ?_, ?_, fun q hq => ?_, hvigil, hout', hbytes⟩
  · exact (hrs' 31).trans hsp
  · exact htimed''.trans (htimed.trans htimed')
  · exact hacc''.trans (hacc.trans hacc')
  · exact (hrs' q).trans (hrs q hq)

end

/-! ## The stack's words popped (R67, R153) -/

section
variable {s : State} {n : Nat} {bs : List Byte} {bad : Bool} {eff : List Byte → Bool → State → State}

/-- A core with read ports of its banks taken. -/
def Core.reading (c : Core) (ports : List (Nat × Nat)) : Core := { c with bankReads := ports }

/-- A read that is made goes on with its bytes, its ports taken in the own scratchpad. -/
theorem pop_reads (h : PopReads s n bs bad) :
    ∃ ports, s.pop n eff = eff bs bad (s.mod fun c => c.reading ports) := by
  unfold State.pop
  dsimp only
  rcases h with ⟨hr, rfl, rfl⟩ | ⟨r, hr, hne, hw⟩
  · rw [show regionOf s.core.poolMb (s.core.rs spReg).toNat = some .scratch from hr]
    exact ⟨(s.core.takePorts s.now (s.core.rs spReg).toNat n).bankReads, congrArg _
      (congrArg (fun k : Core => ({ s with core := k } : State)) (Core.takePorts_eq ..))⟩
  · rw [show regionOf s.core.poolMb (s.core.rs spReg).toNat = some r from hr, hw]
    cases r with
    | scratch => exact absurd rfl hne
    | csm | pool | weight => exact ⟨s.core.bankReads, rfl⟩

theorem pop_waits {r : Region} (hr : regionOf s.core.poolMb (s.core.rs 31).toNat = some r) (hne : r ≠ .scratch)
    (hw : s.core.waiting = .none) : s.pop n eff =
      State.stallFor { s with core := { s.core with waiting := .until s.dueCycle }, fv := s.fv + 1 } 1 := by
  unfold State.pop
  dsimp only
  rw [show regionOf s.core.poolMb (s.core.rs spReg).toNat = some r from hr, hw]
  cases r with
  | scratch => exact absurd rfl hne
  | csm | pool | weight => rfl

theorem popWaits_of {i : Instr} (he : exec i s = withGate i s fun s => s.pop n eff) : PopWaits i s := by
  intro r hr hne hw hg
  obtain ⟨hwait, -, hpc, -, -, hbytes⟩ := onlyWaits_stallFor s (.until s.dueCycle) (s.fv + 1) 1
  exact ⟨_, he.trans ((withGate_go hg).trans (congrArg _ (pop_waits hr hne hw))), hwait, rfl, hpc, hbytes, rfl⟩

end

/-! ## A read outside the own scratchpad, made (R67, R70) -/

/-- A range read through the CSM window or in the pool moves read ports alone. -/
theorem takeCsms_moves (s : State) (sp : Space) (rows : List (Nat × Nat)) :
    let t := rows.foldl (fun st y => st.takeCsm sp y.1 y.2) s
    (∃ ports, t.core = { s.core with bankReads := ports }) ∧ BytesKept s t := by
  induction rows generalizing s with
  | nil => exact ⟨⟨_, rfl⟩, bytesKept_refl s⟩
  | cons y ys ih =>
    obtain ⟨⟨ports, hcore⟩, hbytes⟩ := ih (s.takeCsm sp y.1 y.2)
    refine ⟨⟨ports, hcore.trans ?_⟩, (bytesKept_takeCsm s sp y.1 y.2).trans hbytes⟩
    rw [takeCsm_core]

/-- What a strand that waits for a read outside the own scratchpad has once it is made. -/
def State.windowTaken (s : State) (r : Region) (a n : Nat) : State :=
  State.mod ((rowRanges 4 (s.core.spaceOf r a).2 n).foldl (fun st y => st.takeCsm (s.core.spaceOf r a).1 y.1 y.2) s) fun c =>
    { c with waiting := .got (s.localNow r a n) (s.poolPoisoned r a n) }

theorem windowReads_of {s : State} {i : Instr} {x : LocalAccess} {r : Region} {due : Nat} (hi : waitsHere i = true)
    (hx : s.core.localAccess i = some x) (hcur : s.core.cur = some i) (hw : s.core.waiting = .until due) (hdue : due ≤ s.now)
    (hr : regionOf s.core.poolMb x.addr.toNat = some r)
    (hfree : s.rangeFree (s.core.spaceOf r x.addr.toNat).1 (rowRanges 4 (s.core.spaceOf r x.addr.toNat).2 x.n) = true) :
    WindowReads s r x.addr.toNat x.n := by
  obtain ⟨⟨ports, hcore⟩, hbytes⟩ := takeCsms_moves s (s.core.spaceOf r x.addr.toNat).1
    (rowRanges 4 (s.core.spaceOf r x.addr.toNat).2 x.n)
  refine ⟨s.windowTaken r x.addr.toNat x.n, ?_, rfl, ?_, ?_, hbytes.trans (bytesKept_mod _ _ rfl rfl rfl rfl)⟩
  · unfold State.windowRead
    simp only [hcur, hw, if_pos hi, hx, hr, hdue, hfree, and_self, if_true]
    rfl
  · rw [State.windowTaken, State.mod_core, hcore]; rfl
  · rw [State.windowTaken, State.mod_core, hcore]

/-! ## loop.pop (R158) -/

/-- `sp` moved and the next issue put off, before the loop registers are read back. -/
def Core.popSp (c : Core) (now : Nat) : Core := { c with nextIssue := now + 3 }.put 31 (c.rs 31 + 24) now 1

/-- The loop registers read back, a split read's upper part to come. -/
def Core.popLoop (c : Core) (bs : List Byte) (now : Nat) : Core :=
  let c1 := if regionOf c.poolMb (c.rs 31).toNat = some .scratch then (c.popSp now).readUpper now (c.rs 31).toNat 24 .loop
    else c.popSp now
  { c1.applyHeld with
    lc := BitVec.ofNat 32 (bytesToNat (bs.take 8))
    ls := clear4 (BitVec.ofNat 64 (bytesToNat ((bs.drop 8).take 8)))
    le := clear4 (BitVec.ofNat 64 (bytesToNat (bs.drop 16))) }.after .loopRegs (now + 3)

/-- `loop.pop` of a core, by what its read met. -/
def Core.popped (c : Core) (bs : List Byte) (bad : Bool) (now : Nat) : Core :=
  if bad then (c.popSp now).owe 0 (c.rs 31).toNat now else c.popLoop bs now

theorem exec_loopPop_pop (s : State) : exec .loopPop s =
    withGate .loopPop s fun s => s.pop 24 fun bs bad s => retireWith s fun c => c.popped bs bad s.now := exec_loopPop s

theorem popSp_eq (c : Core) (now : Nat) : c.popSp now = { c with
    nextIssue := now + 3, s := (c.popSp now).s, marks := (c.popSp now).marks, owed := (c.popSp now).owed
    ready := (c.popSp now).ready } := Core.put_eq ..

theorem popped_eq (c : Core) (bs : List Byte) (bad : Bool) (now : Nat) : c.popped bs bad now = { c with
    nextIssue := now + 3, s := (c.popSp now).s, marks := (c.popSp now).marks
    owed := (c.popped bs bad now).owed, ready := (c.popped bs bad now).ready, late := (c.popped bs bad now).late
    lc := (c.popped bs bad now).lc, ls := (c.popped bs bad now).ls, le := (c.popped bs bad now).le
    heldLs := (c.popped bs bad now).heldLs, heldLe := (c.popped bs bad now).heldLe } := by
  unfold Core.popped Core.popLoop
  rw [Core.readUpper_eq, popSp_eq]
  split_ifs <;> rfl

/-- The low 64 bits of a little-endian number stand in its first eight bytes. -/
theorem bytesToNat_take (bs : List Byte) (k : Nat) : bytesToNat (bs.take k) = bytesToNat bs % 256 ^ k := by
  induction k generalizing bs with
  | zero => simp [bytesToNat, Nat.mod_one]
  | succ k ih =>
    cases bs with
    | nil => rw [List.take_nil, bytesToNat, Nat.zero_mod]
    | cons b bs =>
      have hb : b.toNat < 256 := b.isLt
      rw [List.take_succ_cons, bytesToNat, bytesToNat, ih, Nat.pow_succ', Nat.mod_mul, Nat.add_mul_mod_self_left,
        Nat.mod_eq_of_lt hb, Nat.add_mul_div_left _ _ (by decide), Nat.div_eq_of_lt hb, Nat.zero_add]

theorem ofNat_bytesToNat_take (bs : List Byte) : BitVec.ofNat 64 (bytesToNat (bs.take 8)) = BitVec.ofNat 64 (bytesToNat bs) := by
  refine BitVec.eq_of_toNat_eq ?_
  rw [BitVec.toNat_ofNat, BitVec.toNat_ofNat, bytesToNat_take]
  exact Nat.mod_mod_of_dvd _ (by decide)

theorem popped_loopRegs (c : Core) (bs : List Byte) (bad : Bool) (now : Nat) : (c.popped bs bad now).loopRegs =
    if bad then c.loopRegs else (BitVec.ofNat 32 (bytesToNat (bs.take 8)), clear4 (BitVec.ofNat 64 (bytesToNat ((bs.drop 8).take 8))),
      clear4 (BitVec.ofNat 64 (bytesToNat ((bs.drop 16).take 8))), none, none) := by
  cases bad with
  | false => rw [ofNat_bytesToNat_take (bs.drop 16)]; rfl
  | true =>
    have h : c.popped bs true now = (c.popSp now).owe 0 (c.rs 31).toNat now := if_pos rfl
    rw [h, popSp_eq]
    rfl

/-- The upper part of a split read is still to come (R76). -/
theorem popped_late (c : Core) (bs : List Byte) (bad : Bool) (now : Nat) : (c.popped bs bad now).late =
    (if bad = false ∧ regionOf c.poolMb (c.rs 31).toNat = some .scratch then c.readUpper now (c.rs 31).toNat 24 .loop else c).late := by
  have hsp : (c.popSp now).late = c.late := by rw [popSp_eq]
  cases bad with
  | true =>
    have h : c.popped bs true now = (c.popSp now).owe 0 (c.rs 31).toNat now := if_pos rfl
    rw [h, if_neg fun hb => absurd hb.1 Bool.noConfusion]
    exact hsp
  | false =>
    have h : c.popped bs false now = c.popLoop bs now := if_neg Bool.false_ne_true
    rw [h, Core.popLoop]
    by_cases hr : regionOf c.poolMb (c.rs 31).toNat = some .scratch
    · rw [if_pos hr, if_pos ⟨rfl, hr⟩]
      refine Core.late_readUpper_congr ?_ ?_ ?_ .. <;> rw [popSp_eq]
    · rw [if_neg hr, if_neg fun hb => hr hb.2]
      exact hsp

theorem popSp_rs (c : Core) (now : Nat) : (c.popSp now).rs 31 = c.rs 31 + 24 ∧ ∀ q, q ≠ 31 → (c.popSp now).rs q = c.rs q :=
  ⟨(put_rs ..).trans (if_neg (by decide)), fun q hq => (put_rs_ne _ _ _ _ _ _ hq).trans (Core.rs_congr rfl q)⟩

theorem popped_late_congr {c d : Core} (hs : d.scr = c.scr) (ht : d.timed = c.timed) (hl : d.late = c.late)
    (hsp : d.rs 31 = c.rs 31) (hmb : d.poolMb = c.poolMb) (bs : List Byte) (bad : Bool) (now : Nat) :
    (d.popped bs bad now).late = (c.popped bs bad now).late := by
  rw [popped_late, popped_late, hsp, hmb]
  split_ifs
  · exact Core.late_readUpper_congr hs ht hl ..
  · exact hl

theorem exec_loopPop_reads {s : State} {bs : List Byte} {bad : Bool} (h : PopReads s 24 bs bad) (hg : gate .loopPop s = .go) :
    ∃ ports, exec .loopPop s = .next (retireWith (s.mod fun c => c.reading ports) fun c => c.popped bs bad s.now) := by
  obtain ⟨ports, hpop⟩ := pop_reads h
  exact ⟨ports, (exec_loopPop_pop s).trans ((withGate_go hg).trans (congrArg _ hpop))⟩

theorem loopPop_completes {s : State} {bs : List Byte} {bad : Bool} (h : PopReads s 24 bs bad) :
    Completes .loopPop s fun t => ∃ c : Core, t.core.path = c.advance.path ∧ c.pc = s.core.pc ∧ c.slots = s.core.slots ∧
      c.loopRegs = (s.core.popped bs bad s.now).loopRegs ∧ t.core.late = (s.core.popped bs bad s.now).late ∧
      t.core.rs 31 = s.core.rs 31 + 24 ∧ t.core.timed = s.core.timed ∧ t.core.acc = s.core.acc ∧
      (∀ r, r ≠ 31 → t.core.rs r = s.core.rs r) ∧ t.core.vigil = s.core.vigil - 1 ∧ OutsideFree s t ∧ BytesKept s t := by
  intro hg
  obtain ⟨ports, hexec⟩ := exec_loopPop_reads h hg
  have heq := popped_eq (s.core.reading ports) bs bad s.now
  obtain ⟨hsp, hrs⟩ := popSp_rs (s.core.reading ports) s.now
  have hs : ((s.core.reading ports).popped bs bad s.now).s = ((s.core.reading ports).popSp s.now).s := by rw [heq]
  have hports : BytesKept s (s.mod fun c => c.reading ports) := bytesKept_mod s _ rfl rfl rfl rfl
  have hlate : ((s.core.reading ports).popped bs bad s.now).late = (s.core.popped bs bad s.now).late :=
    popped_late_congr (c := s.core) (d := s.core.reading ports) rfl rfl rfl (Core.rs_congr rfl 31) rfl ..
  have htimed : ((s.core.reading ports).popped bs bad s.now).timed = s.core.timed := by rw [heq]; rfl
  have hacc : ((s.core.reading ports).popped bs bad s.now).acc = s.core.acc := by rw [heq]; rfl
  have hvigil : ((s.core.reading ports).popped bs bad s.now).vigil = s.core.vigil := by rw [heq]; rfl
  refine ⟨_, hexec, (s.core.reading ports).popped bs bad s.now, rfl, ?_, ?_, ?_, (Core.retire_late ..).trans hlate,
    (Core.retire_rs ..).trans ((Core.rs_congr hs 31).trans hsp), (Core.retire_timed ..).trans htimed,
    (Core.retire_acc ..).trans hacc, fun q hq => (Core.retire_rs ..).trans ((Core.rs_congr hs q).trans (hrs q hq)),
    (Core.vigil_retire ..).trans (congrArg (· - 1) hvigil), rfl, hports.trans (bytesKept_retireWith ?_ ?_ ?_ ?_)⟩
  · rw [heq]; rfl
  · rw [heq]; rfl
  · rw [popped_loopRegs, popped_loopRegs]; rfl
  · exact (congrArg Core.phys heq :)
  · exact (congrArg Core.scr heq :)
  · exact (congrArg Core.wb heq :)
  · exact (congrArg Core.lanes heq :)

end Sys2Proof.Machine
end

section
/-! PROOF. The loops of O14, from the rules above. -/

namespace Sys2Proof.Machine

theorem loop_completes (a : BitVec 5) (i : BitVec 12) (s : State) :
    let pc : Word := s.core.pc.setWidth 64
    let last : Word := pc + 4 * (i.setWidth 64 + 1)
    let n : BitVec 32 := (s.core.rs a).setWidth 32
    Completes (.loop a i) s fun t =>
      t.core.lc = n ∧ t.core.ls = pc + 4 ∧ t.core.le = last ∧ t.core.heldLs = none ∧ t.core.heldLe = none ∧
      t.core.pc = (if n = 0 then (last + 4).setWidth 32 else s.core.pc + 4) ∧ t.core.still = s.core.still ∧
      t.core.vigil = s.core.vigil - 1 ∧ Outside s t ∧ BytesKept s t :=
  by
  intro pc last n hg
  obtain ⟨hregs, hpc, hstill, hvigil⟩ := openLoop_fields s.core n (pc + 4) last
    (if n = 0 then (last + 4).setWidth 32 else s.core.pc + 4) s.now
  simp only [Core.loopRegs, Prod.mk.injEq] at hregs
  obtain ⟨hlc, hls, hle, hheldLs, hheldLe⟩ := hregs
  refine ⟨_, exec_loop_go hg, hlc, hls, hle, hheldLs, hheldLe, hpc, hstill, hvigil, rfl, bytesKept_mod s _ ?_ ?_ ?_ ?_⟩
  · exact (congrArg Core.phys hstill :)
  · exact (congrArg Core.scr hstill :)
  · exact (congrArg Core.wb hstill :)
  · exact (congrArg Core.lanes hstill :)

theorem mfl_puts (d : BitVec 5) (x : BitVec 2) (s : State) : Puts (.mfl d x) d s (s.core.readLoop x) :=
  puts_put (x := fun c => c.readLoop x) (exec_mfl d x s)

/-- Settles O14: each instruction by what it leaves of the loop registers. -/
theorem loops : Obligations.Loops := by
  refine ⟨fun d a i s => ⟨loop_completes a i s, mfl_puts d 0 s, mfl_puts d 1 s, mfl_puts d 2 s, fun r hg => ?_⟩,
    fun s bs bad => ⟨fun r hr => loopPush_completes hr, fun hr hg => ?_, popWaits_of (exec_loopPop_pop s), ?_⟩⟩
  · obtain ⟨t, hexec, hstill, hpath, hrest⟩ := mtl_completes a r s hg
    obtain ⟨hkept, hvigil, hout, hbytes, hpc, hslots⟩ := hrest
    refine ⟨t, hexec, _, hstill, hpath, hkept, hvigil, hout, hbytes, hpc, hslots, ?_, ?_, ?_, ?_, ?_, ?_⟩
    · rintro rfl hn
      rw [Core.loopWritten, writeLoop_lc hn]
      rfl
    · rintro rfl hn
      rw [Core.loopWritten, writeLoop_lc_zero hn]
      exact congrArg (·, _) hn
    · rintro rfl hlc
      rw [Core.loopWritten, writeLoop_ls hlc]
      exact ⟨rfl, rfl, hlc⟩
    · rintro rfl hlc
      rw [Core.loopWritten, writeLoop_le hlc]
      exact ⟨rfl, rfl, hlc⟩
    · rintro rfl hlc
      rw [Core.loopWritten, writeLoop_ls_held hlc]
      rfl
    · rintro rfl hlc
      rw [Core.loopWritten, writeLoop_le_held hlc]
      rfl
  · obtain ⟨t, hexec, c, hpath, hpc, hslots, hregs, hlate, hsp, htimed, hacc, hrest⟩ := loopPop_completes hr hg
    exact ⟨t, hexec, c, hpath, hpc, hslots, hregs.trans (popped_loopRegs ..), hlate.trans (popped_late ..), hsp, htimed, hacc, hrest⟩
  · intro due r hcur hw hdue hr _ hfree
    exact windowReads_of (i := .loopPop) (x := ⟨s.core.rs 31, 24, false, false⟩) rfl rfl hcur hw hdue hr hfree

end Sys2Proof.Machine
end

section
/-! PROOF. The end of a task of O24, refuted: a live dump that the core still owes as it ends is reported by F6 (19 R407), with
`fw.telemetryFlags`, while the statement has `fw` stand. -/

namespace Sys2Proof.Machine

/-- A task of two cores, of which neither has ended. -/
def pairTask : Task where
  id := 1
  part := 3
  queue := 0
  packet := 0
  idx := 0
  desc := ⟨0, 0, 0, 0, 0, 0, 0, 0, 0, 0, 0, 0⟩
  cores := [0, 1]
  loaded := true
  ended := []
  arrivals := []
  released := 0
  lastArriver := 0
  releaseDue := 0
  startedAt := some 0
  ending := none
  payload := none
  groups := []
  colls := []

/-- Its core of rank 0 at `end`, with a live dump posted that no `yield` has taken. -/
def owingDump : State :=
  { State.reset.mod fun c => { c with ctx := .running, task := 1, crew := 0x20000, vigil := 1, cur := some .endOp, dump := true }
    with tasks := [pairTask] }

theorem gate_owingDump : gate .endOp owingDump = .go := by rfl

/-- The `end` of the first of two cores reports the dump and leaves the task running. -/
theorem exec_owingDump : ∃ u, exec .endOp owingDump = .next u ∧ u.fw.telemetryFlags = [.dumpMissed 0] := by
  rw [exec_endOp]
  exact ⟨_, withGate_go gate_owingDump, by decide⟩

/-- Refutes O24: `end` retires on a core with a live dump posted, and `fw` gains the report of the missed dump (R407). -/
theorem not_endOfTask : ¬ Obligations.EndOfTask := by
  unfold Obligations.EndOfTask
  intro h
  obtain ⟨-, hends⟩ := h pairTask owingDump
  obtain ⟨u, hexec, -, -, -, -, -, -, -, -, -, -, hfw⟩ := hends (by decide) rfl gate_owingDump
  obtain ⟨u', hexec', hflags⟩ := exec_owingDump
  have hu : u = u' := Host.Outcome.next.inj (hexec.symm.trans hexec')
  have hkept : u.fw = owingDump.fw := hfw
  have hnone : u.fw.telemetryFlags = [] := by rw [hkept]; rfl
  rw [← hu, hnone] at hflags
  exact List.cons_ne_nil _ _ hflags.symm

end Sys2Proof.Machine
end

section
/-! SUPPORT. What `yield` waits for, and the token registers it finds stale (07 R148, 03 R54, R60). -/

namespace Sys2Proof.Machine

/-! ## Bits packed into a number -/

theorem testBit_packed (f : Nat → Bool) (n i : Nat) :
    ((List.range n).foldr (fun j acc => 2 * acc + (f j).toNat) 0).testBit i = (decide (i < n) && f i) := by
  induction n generalizing f i with
  | zero => simp
  | succ n ih =>
    rw [List.range_succ_eq_map, List.foldr_cons, List.foldr_map]
    have hbit : (f 0).toNat < 2 := Bool.toNat_lt (f 0)
    cases i with
    | zero => rw [Nat.testBit_zero, Nat.mul_add_mod]; cases f 0 <;> rfl
    | succ i =>
      rw [Nat.testBit_add_one, Nat.mul_add_div (by decide), Nat.div_eq_of_lt hbit, Nat.add_zero]
      exact (ih (fun j => f (j + 1)) i).trans (by simp)

theorem getLsbD_packed (f : Nat → Bool) {n i : Nat} (hi : i < n) (hn : n ≤ 64) :
    (BitVec.ofNat 64 ((List.range n).foldr (fun j acc => 2 * acc + (f j).toNat) 0)).getLsbD i = f i := by
  rw [BitVec.getLsbD_ofNat, testBit_packed, decide_eq_true hi, decide_eq_true (hi.trans_le hn)]
  simp

/-! ## Stale tokens -/

theorem staleMask_getLsbD (s : State) (i : BitVec 4) :
    let t := s.core.rk i
    let e := s.entry t.index.toNat
    s.staleMask.getLsbD i.toNat = true ↔
      t.gen ≠ 0 ∧ t.part.toNat = s.core.partId ∧ (e.state = .free ∨ e.owner = t.part.toNat) ∧
        (e.state ≠ .active ∨ e.gen ≠ t.gen) := by
  rw [State.staleMask, getLsbD_packed _ i.isLt (by decide), decide_eq_true_iff, BitVec.ofNat_toNat, BitVec.setWidth_eq]

/-- A line of the cache stays when no token register names its index, or its entry is still active at its generation. -/
theorem mem_dropStale_tfc (s : State) (e : TfcEntry) : e ∈ s.dropStale.core.tfc ↔
    e ∈ s.core.tfc ∧ ((∃ i, (s.core.rk i).index.toNat = e.index) →
      (s.entry e.index).state = .active ∧ (s.entry e.index).gen = e.gen) := by
  have hnamed : ((List.range 16).any fun i => (s.core.rk (BitVec.ofNat 4 i)).index.toNat == e.index) = true ↔
      ∃ i, (s.core.rk i).index.toNat = e.index := by
    rw [List.any_eq_true]
    refine ⟨fun ⟨i, _, hi⟩ => ⟨_, beq_iff_eq.mp hi⟩, fun ⟨i, hi⟩ => ⟨i.toNat, List.mem_range.mpr i.isLt, ?_⟩⟩
    rw [BitVec.ofNat_toNat, BitVec.setWidth_eq]
    exact beq_iff_eq.mpr hi
  rw [State.dropStale, State.mod_core, List.mem_filter, ← hnamed]
  refine and_congr_right fun _ => ?_
  cases (List.range 16).any fun i => (s.core.rk (BitVec.ofNat 4 i)).index.toNat == e.index <;> simp

/-! ## What is drained -/

/-- An engine with nothing queued and nothing running, as the statements spell it out. -/
def Engine.Idle (e : Engine) : Prop := e.queue = [] ∧ e.hand = [] ∧ e.held = none ∧ e.running = []

theorem idle_iff (e : Engine) : e.idle = true ↔ e.Idle := by
  simp [Engine.idle, Engine.Idle, and_assoc]

/-- What a pre-empting `yield` waits for, as the statement spells it out. -/
def Core.YieldDone (c : Core) (now : Nat) : Prop :=
  c.matrix.Idle ∧ c.copy.Idle ∧ c.lantern.Idle ∧ c.acc = [] ∧ c.timed = [] ∧ c.late = [] ∧ c.reporting now = false

theorem yieldDone_iff (c : Core) (now : Nat) :
    c.YieldDone now ↔ ¬(¬c.drained ∨ ¬c.late.isEmpty ∨ c.reporting now) := by
  simp [Core.YieldDone, Core.drained, idle_iff, and_assoc]

end Sys2Proof.Machine
end

section
/-! PROOF. The `yield` of O23: at once, waiting, with a live dump, and with REVPEND set. -/

namespace Sys2Proof.Machine

/-- The Vigil that `yield` sets. -/
def yieldVigil (n : BitVec 12) : BitVec 16 := n.setWidth 16 <<< 4

def Core.withVigil (c : Core) (v : BitVec 16) : Core := { c with vigil := v }

/-- A core drained that waits for F1. -/
def Core.drainedWait (c : Core) (v : BitVec 16) (now : Nat) : Core := Core.stalled { c with vigil := v, waiting := .drain } 17 now

theorem withVigil_fields (c : Core) (v : BitVec 16) :
    let d := c.withVigil v
    d.still = c.still ∧ d.vigil = v ∧ d.path = c.path ∧ d.pc = c.pc := ⟨rfl, rfl, rfl, rfl⟩

theorem drainedWait_fields (c : Core) (v : BitVec 16) (now : Nat) :
    let d := c.drainedWait v now
    d.still = c.still ∧ d.vigil = v ∧ d.waiting = .drain ∧ d.pc = c.pc := ⟨rfl, rfl, rfl, rfl⟩

theorem bytesKept_of_still {s : State} {f : Core → Core} (h : (f s.core).still = s.core.still) : BytesKept s (s.mod f) := by
  refine bytesKept_mod s f ?_ ?_ ?_ ?_
  · exact (congrArg Core.phys h :)
  · exact (congrArg Core.scr h :)
  · exact (congrArg Core.wb h :)
  · exact (congrArg Core.lanes h :)

/-- A state with Vigil reloaded. -/
def State.reload (s : State) (n : BitVec 12) : State := s.mod fun c => c.withVigil (yieldVigil n)

/-- A `yield` that goes on: it does not count against Vigil. -/
def State.goOn (s : State) : State := s.mod fun c => (c.advance).finish false s.now

/-- A live dump taken (R407). -/
def State.dumped (s : State) (n : BitVec 12) : State :=
  { s.reload n with
    core := { (s.reload n).core with dump := false }
    dumps := (s.reload n).dumps ++ [⟨s.core.phys, true, (s.reload n).core, s.allotment, []⟩] }

theorem dumped_core (n : BitVec 12) (s : State) :
    (s.dumped n).core.path = s.core.path ∧ (s.dumped n).core.vigil = yieldVigil n ∧ (s.dumped n).core.pc = s.core.pc := ⟨rfl, rfl, rfl⟩

/-- A core drained that waits for F1. -/
def State.standDrained (s : State) (vigil : BitVec 16) : State :=
  State.stallFor (s.mod fun c => { c with vigil := vigil, waiting := .drain }) 17

theorem standDrained_eq (s : State) (v : BitVec 16) : s.standDrained v = s.mod fun c => c.drainedWait v s.now := rfl

section
variable {n : BitVec 12} {m : BitVec 16} {s : State}

/-- A `yield` that takes no REVOKED. -/
theorem exec_yield_plain (h : s.core.waiting = .none ∧ s.core.revpend = false ∨ s.core.waiting = .drain)
    (hg : gate (.yield n m) s = .go) : exec (.yield n m) s = .next (
      if ¬s.core.preempt ∧ ¬s.core.dump then (s.reload n).goOn
      else if ¬s.core.drained ∨ ¬s.core.late.isEmpty ∨ s.core.reporting s.now then
        State.stallFor (s.mod fun c => { c with waiting := .drain }) 17
      else if s.core.preempt then State.standDrained (if s.core.dump then s.dumped n else s.reload n) s.core.vigil
      else State.goOn (if s.core.dump then s.dumped n else s.reload n)) := by
  refine (exec_yield n m s).trans ((withGate_go hg).trans (congrArg Host.Outcome.next ?_))
  rcases h with ⟨hw, hr⟩ | hw
  · rw [hw]; exact if_neg fun hrev => Bool.false_ne_true (hr.symm.trans hrev.2)
  · rw [hw]; exact if_neg fun hrev => hrev.1 rfl

/-- What a `yield` that goes on leaves. -/
def Leaves (n : BitVec 12) (s t : State) : Prop :=
  t.core.vigil = yieldVigil n ∧ t.core.path = s.core.advance.path ∧ t.core.cur = none ∧ t.core.waiting = .none ∧ BytesKept s t

theorem leaves_goOn {u : State} (hk : u.core.path = s.core.path) (hv : u.core.vigil = yieldVigil n) (hb : BytesKept s u) :
    Leaves n s u.goOn :=
  ⟨(Core.vigil_advance _).trans hv, Core.path_advance hk, rfl, rfl, hb.trans (bytesKept_of_still u.core.still_advance)⟩

theorem bytesKept_reload : BytesKept s (s.reload n) := bytesKept_of_still rfl

theorem bytesKept_dumped : BytesKept s (s.dumped n) :=
  bytesKept_mod s (fun c => { c.withVigil (yieldVigil n) with dump := false }) rfl rfl rfl rfl

/-- What a waiting `yield` leaves. -/
def YieldWaits (s t : State) : Prop :=
  t.core.waiting = .drain ∧ t.core.pc = s.core.pc ∧ t.core.vigil = s.core.vigil ∧ t.core.still = s.core.still ∧ Outside s t ∧ BytesKept s t

theorem yieldWaits_mod {f : Core → Core} (hwait : (f s.core).waiting = .drain) (hstill : (f s.core).still = s.core.still)
    (hpc : (f s.core).pc = s.core.pc) (hvigil : (f s.core).vigil = s.core.vigil) : YieldWaits s (s.mod f) :=
  ⟨hwait, hpc, hvigil, hstill, outside_mod .., bytesKept_of_still hstill⟩

theorem yieldWaits_drain : YieldWaits s (State.stallFor (s.mod fun c => { c with waiting := .drain }) 17) :=
  yieldWaits_mod (f := fun c => Core.stalled { c with waiting := .drain } 17 s.now) rfl rfl rfl rfl

theorem yieldWaits_standDrained : YieldWaits s ((s.reload n).standDrained s.core.vigil) := by
  obtain ⟨hstill, -, -, hpc⟩ := withVigil_fields s.core (yieldVigil n)
  obtain ⟨hstill', hvigil, hwait, hpc'⟩ := drainedWait_fields (s.core.withVigil (yieldVigil n)) s.core.vigil s.now
  rw [standDrained_eq]
  exact yieldWaits_mod (f := fun c => (c.withVigil (yieldVigil n)).drainedWait s.core.vigil s.now) hwait
    (hstill'.trans hstill) (hpc'.trans hpc) hvigil

/-- A live dump is a copy of the core with Vigil reloaded; its request is taken. -/
theorem dumped_takes {f : Core → Core} (hd : s.core.dump = true) (hstill : ∀ c, (f c).still = c.still) :
    let t := (s.dumped n).mod f
    { t.core.still with dump := true } = s.core.still ∧ (∃ k : Core, k.still = s.core.still ∧ k.vigil = yieldVigil n ∧
      k.path = s.core.path ∧ t.dumps = s.dumps ++ [⟨s.core.phys, true, k, s.allotment, []⟩]) ∧
      { t with core := s.core, dumps := s.dumps } = s := by
  obtain ⟨hk, hvigil, hpath, -⟩ := withVigil_fields s.core (yieldVigil n)
  refine ⟨?_, ⟨(s.reload n).core, hk, hvigil, hpath, rfl⟩, rfl⟩
  rw [State.mod_core, hstill, ← hd]
  exact (congrArg (fun k : Core => ({ k with dump := s.core.dump } : Core)) hk :)

/-! ## REVOKED (R54) -/

theorem yield_revoked_waits (hw : s.core.waiting = .none) (hr : s.core.revpend = true) (hg : gate (.yield n m) s = .go) :
    exec (.yield n m) s = .next (State.stallFor { s with
      core := { s.core with waiting := .until (s.now + Config.untimedDelay s.fv % 65) }, fv := s.fv + 1 } 18) := by
  refine (exec_yield n m s).trans ((withGate_go hg).trans (congrArg Host.Outcome.next ?_))
  rw [hw]
  exact if_pos ⟨Waiting.noConfusion, hr⟩

/-- Before its trap, REVOKED clears REVPEND and drops stale lines of the cache. -/
def State.revoked (s : State) : State := s.dropStale.mod fun c => { c with revpend := false }

theorem revoked_kept (s : State) :
    { s.revoked.core with revpend := s.core.revpend, tfc := s.core.tfc } = s.core ∧ s.revoked.core.revpend = false ∧
      Outside s s.revoked ∧ BytesKept s s.revoked := by
  have hmod : s.revoked = s.mod fun c => { c with tfc := s.dropStale.core.tfc, revpend := false } := rfl
  rw [hmod]
  exact ⟨rfl, rfl, rfl, bytesKept_mod s _ rfl rfl rfl rfl⟩

theorem yield_revoked_taken {u : Nat} (hw : s.core.waiting = .until u) (hu : u ≤ s.now) (hg : gate (.yield n m) s = .go) :
    exec (.yield n m) s = .next
      (s.revoked.takeTrap 7 s.staleMask s.core.pc) := by
  refine (exec_yield n m s).trans ((withGate_go hg).trans (congrArg Host.Outcome.next ?_))
  rw [hw]
  exact if_neg (Nat.not_lt.mpr hu)

end

/-- Settles O23: by what is pending as `yield` issues, and by what it waits for. -/
theorem yield : Obligations.Yield := by
  refine ⟨fun n m s => ⟨fun h => ⟨fun hp hd hg => ?_, fun hpd hdone hg => ?_, fun hp hd hdone hg => ?_, fun hd hdone hg => ?_⟩,
    fun hw hr hg => ?_, fun u hw hu hg => ?_⟩, fun i s => staleMask_getLsbD s i⟩
  · have hexec := exec_yield_plain h hg
    rw [if_pos (by simp [hp, hd])] at hexec
    exact ⟨_, hexec, leaves_goOn rfl rfl bytesKept_reload, Core.still_advance _, rfl⟩
  · have hexec := exec_yield_plain h hg
    rw [if_neg (by rcases hpd with hp | hd <;> simp [*]), if_pos (not_not.mp (mt (yieldDone_iff ..).mpr hdone))] at hexec
    exact ⟨_, hexec, yieldWaits_drain⟩
  · have hexec := exec_yield_plain h hg
    rw [if_neg (by simp [hp]), if_neg ((yieldDone_iff ..).mp hdone), if_pos hp, if_neg (by simp [hd])] at hexec
    exact ⟨_, hexec, yieldWaits_standDrained⟩
  · have hexec := exec_yield_plain h hg
    obtain ⟨hpath, hreload, hpc⟩ := dumped_core n s
    rw [if_neg (by simp [hd]), if_neg ((yieldDone_iff ..).mp hdone), if_pos hd] at hexec
    cases hp : s.core.preempt with
    | true =>
      rw [if_pos hp, standDrained_eq] at hexec
      have hdrain := fun c : Core => drainedWait_fields c s.core.vigil s.now
      obtain ⟨hstill, hcopy, hout⟩ := dumped_takes (n := n) (f := fun c => c.drainedWait s.core.vigil s.now) hd
        fun c => (hdrain c).left
      obtain ⟨hkept, hvigil, hwait, hpc'⟩ := hdrain (s.dumped n).core
      exact ⟨_, hexec, hstill, hcopy, hout, fun hf => absurd hf Bool.noConfusion,
        fun _ => ⟨hwait, hpc'.trans hpc, hvigil, bytesKept_dumped.trans (bytesKept_of_still hkept)⟩⟩
    | false =>
      rw [if_neg (by simp [hp])] at hexec
      obtain ⟨hstill, hcopy, hout⟩ := dumped_takes (n := n) (f := fun c => (c.advance).finish false s.now) hd Core.still_advance
      exact ⟨_, hexec, hstill, hcopy, hout, fun _ => leaves_goOn hpath hreload bytesKept_dumped, fun hf => absurd hf Bool.noConfusion⟩
  · obtain ⟨-, hstill, hpc, hvigil, hout, -⟩ := onlyWaits_stallFor s (.until (s.now + Config.untimedDelay s.fv % 65)) (s.fv + 1) 18
    exact ⟨_, yield_revoked_waits hw hr hg, ⟨_, rfl, Nat.le_add_right .., Nat.add_le_add_left (Nat.lt_succ_iff.mp (Nat.mod_lt _ (by decide))) _⟩,
      hpc, hstill, hvigil, hout⟩
  · obtain ⟨hback, hrev, hout, hbytes⟩ := revoked_kept s
    exact ⟨_, yield_revoked_taken hw hu hg, _, rfl, hback, hrev, hout, hbytes, mem_dropStale_tfc s⟩

end Sys2Proof.Machine
end

section
/-! SUPPORT. The Equinox (07 R140, R141): arrival, release, and what the cores of a crew then hear. -/

namespace Sys2Proof.Machine

theorem task?_id {s : State} {n : Nat} {t : Task} (ht : s.task? n = some t) : t.id = n := by
  rw [State.task?] at ht
  simpa using List.find?_some ht

/-! ## Arrival and leaving -/

/-- What an arrival adds to the task. -/
def Task.arrive (t : Task) (rank : Nat) (isAlign : Bool) : Task :=
  { t with arrivals := t.arrivals ++ [(rank, isAlign)], lastArriver := rank }

/-- A strand that has arrived at its next Equinox. -/
def Core.atInstance (c : Core) (n now : Nat) : Core := Core.stalled { c with waiting := .equinox n none } 10 now

theorem atInstance_fields (c : Core) (n now : Nat) :
    let d := c.atInstance n now
    d.waiting = .equinox n none ∧ d.still = c.still ∧ d.pc = c.pc ∧ d.vigil = c.vigil := ⟨rfl, rfl, rfl, rfl⟩

theorem arrive_stalls (s : State) (al : Bool) : (s.arrive al).stallFor 10 =
    (s.modTask s.core.task fun t => t.arrive s.core.rank al).mod fun c => c.atInstance (c.eqx + 1) s.now := rfl

/-- What an arrival leaves of the state. -/
def Arrives (t : Task) (al : Bool) (s u : State) : Prop :=
  u.task? s.core.task = some (t.arrive s.core.rank al) ∧
    u.core.waiting = .equinox (s.core.eqx + 1) none ∧ u.core.still = s.core.still ∧ u.core.pc = s.core.pc ∧ u.core.vigil = s.core.vigil ∧
    { u with core := s.core, tasks := s.tasks } = s ∧ BytesKept s u

theorem arrives_stallFor {s : State} {t : Task} (ht : s.task? s.core.task = some t) (al : Bool) :
    Arrives t al s ((s.arrive al).stallFor 10) := by
  have htask := task?_modTask (f := fun t => t.arrive s.core.rank al) (fun _ => rfl) ht
  obtain ⟨hwait, hstill, hpc, hvigil⟩ := atInstance_fields s.core (s.core.eqx + 1) s.now
  have hbytes : BytesKept s (s.mod fun c => c.atInstance (c.eqx + 1) s.now) := bytesKept_of_still hstill
  rw [arrive_stalls]
  exact ⟨htask, hwait, hstill, hpc, hvigil, rfl, hbytes⟩

theorem keeps_eqx (c : Core) (n : Nat) : Keeps c { c with eqx := n } := ⟨rfl, rfl, rfl, rfl, rfl, rfl⟩

section
variable {i : Instr} {al : Bool} {s : State} (he : exec i s = equinox i al s)
include he

theorem equinox_arrives {t : Task} (hw : s.core.waiting = .none) (ho : s.core.ownDone false = true) (hs : s.seenHere = true)
    (hr : s.reached (s.dieClock (dieOf s.core.phys)) = true) (ht : s.task? s.core.task = some t) :
    Completes i s (Arrives t al s) := by
  intro hg
  have hfence : (s.fenced false 10 fun s => State.stallFor (s.arrive al) 10) = State.stallFor (s.arrive al) 10 :=
    fenced_done hw ((fenceDone_iff s false).mpr ⟨ho, hs⟩) ((reached_dieClock_iff s _).mp hr)
  refine ⟨_, he.trans ((withGate_go hg).trans (congrArg Host.Outcome.next ?_)), arrives_stallFor ht al⟩
  rw [hw]
  exact hfence

theorem equinox_leaves {n last : Nat} (hw : s.core.waiting = .equinox n (some last)) :
    Completes i s (Does (fun c => { c with eqx := c.eqx + 1 })
      (s.logWait s.core i 0 (setterCore Config.packageNumber last))) := by
  intro hg
  have hexec : exec i s = .next (retireWith (s.logWait s.core i 0 (setterCore Config.packageNumber last)) fun c =>
      { c with eqx := c.eqx + 1 }) := by
    refine he.trans ((withGate_go hg).trans (congrArg Host.Outcome.next ?_))
    rw [hw]
  have hk : ∀ u : State, Keeps u.core { u.core with eqx := u.core.eqx + 1 } := fun u => keeps_eqx u.core _
  generalize s.logWait s.core i 0 (setterCore Config.packageNumber last) = u at hexec ⊢
  exact ⟨_, hexec, Core.still_retire .., outside_mod .., bytes_of (hk u), retires_of (hk u)⟩

theorem equinox_stalls {n : Nat} (hw : s.core.waiting = .equinox n none) : exec i s = .next (s.stallFor 10) := by
  have hg : gate i s = .go := gate_of_committed (by rw [hw]; rfl)
  refine he.trans ((withGate_go hg).trans (congrArg Host.Outcome.next ?_))
  rw [hw]

end

/-! ## The release -/

/-- What the release makes of the task. -/
def Task.release (t : Task) : Task := { t with released := t.released + 1, arrivals := [], releaseDue := 0 }

/-- The CALENDAR that the cores take when all arrivals were `align`. -/
def State.alignedTo (s : State) (t : Task) : Nat :=
  (s.cores.filter fun c => t.liveCores.contains c.phys).foldl (fun m c => max m c.calendarNow) 0

section
variable {s : State} {t : Task}

theorem hear_phys (c : Core) (last : Nat) : (c.hear last).phys = c.phys := by
  unfold Core.hear
  split <;> rfl

theorem alignedTo_le {k : Core} (hk : k ∈ s.cores) (hlive : k.phys ∈ t.liveCores) : k.calendarNow ≤ s.alignedTo t :=
  (le_foldl_max Core.calendarNow _ 0).2 k (List.mem_filter.mpr ⟨hk, List.contains_iff_mem.mpr hlive⟩)

theorem foldl_max_mem {α : Type} (f : α → Nat) (xs : List α) (m : Nat) :
    xs.foldl (fun m c => max m (f c)) m = m ∨ ∃ c, c ∈ xs ∧ f c = xs.foldl (fun m c => max m (f c)) m := by
  induction xs generalizing m with
  | nil => exact .inl rfl
  | cons x xs ih =>
    rw [List.foldl_cons]
    rcases ih (max m (f x)) with h | ⟨c, hc, hf⟩
    · rw [h]
      rcases Nat.le_total (f x) m with hle | hle
      · exact .inl (Nat.max_eq_left hle)
      · exact .inr ⟨x, List.mem_cons_self, (Nat.max_eq_right hle).symm⟩
    · exact .inr ⟨c, List.mem_cons_of_mem _ hc, hf⟩

/-- The largest CALENDAR is that of a core. -/
theorem alignedTo_attained (h : ∃ k, k ∈ s.cores ∧ k.phys ∈ t.liveCores) :
    ∃ k, k ∈ s.cores ∧ k.phys ∈ t.liveCores ∧ k.calendarNow = s.alignedTo t := by
  rcases foldl_max_mem Core.calendarNow (s.cores.filter fun c => t.liveCores.contains c.phys) 0 with h0 | ⟨k, hk, hf⟩
  · obtain ⟨k, hk, hlive⟩ := h
    have hle : k.calendarNow ≤ s.alignedTo t := alignedTo_le hk hlive
    have htop : s.alignedTo t = 0 := h0
    exact ⟨k, hk, hlive, by omega⟩
  · obtain ⟨hmem, hlive⟩ := List.mem_filter.mp hk
    exact ⟨k, hmem, List.contains_iff_mem.mp hlive, hf⟩

/-- The cores of the crew that have not ended hear of the last arriver. -/
def State.heard (s : State) (t : Task) : State :=
  (s.modTask t.id Task.release).modAll fun c => if t.liveCores.contains c.phys then c.hear t.lastArriver else c

theorem releaseEquinox_mixed (h : ∃ r, (r, false) ∈ t.arrivals) : s.releaseEquinox t = s.heard t := by
  obtain ⟨r, hr⟩ := h
  exact if_neg fun hall => Bool.false_ne_true (List.all_eq_true.mp hall _ hr)

theorem releaseEquinox_align (h : ∀ a, a ∈ t.arrivals → a.2 = true) : s.releaseEquinox t =
    (s.heard t).modAll fun c => if t.liveCores.contains c.phys then { c with calendar := BitVec.ofNat 64 (s.alignedTo t) } else c :=
  if_pos (List.all_eq_true.mpr h)

theorem heard_cores : (s.heard t).cores = s.cores.map fun k => if k.phys ∈ t.liveCores then k.hear t.lastArriver else k := by
  show List.map (fun c : Core => if t.liveCores.contains c.phys then c.hear t.lastArriver else c) s.cores = _
  simp only [List.contains_iff_mem]

theorem aligned_cores (top : Word) :
    ((s.heard t).modAll fun c => if t.liveCores.contains c.phys then { c with calendar := top } else c).cores =
      s.cores.map fun k => if k.phys ∈ t.liveCores then { k.hear t.lastArriver with calendar := top } else k := by
  show List.map (fun c : Core => if t.liveCores.contains c.phys then { c with calendar := top } else c) (s.heard t).cores = _
  rw [heard_cores, List.map_map]
  refine List.map_congr_left fun k _ => ?_
  simp only [Function.comp_apply, List.contains_iff_mem]
  by_cases hk : k.phys ∈ t.liveCores
  · rw [if_pos hk, if_pos hk, hear_phys, if_pos hk]
  · rw [if_neg hk, if_neg hk, if_neg hk]

/-- Whatever the arrivals, a release moves the task, the waits and the Calendars alone. -/
theorem releaseEquinox_moves (ht : s.task? t.id = some t) :
    (s.releaseEquinox t).task? t.id = some t.release ∧
      { s.releaseEquinox t with core := s.core, others := s.others, tasks := s.tasks } = s := by
  have htask : (s.modTask t.id Task.release).task? t.id = some t.release := task?_modTask (fun _ => rfl) ht
  by_cases h : ∀ a, a ∈ t.arrivals → a.2 = true
  · rw [releaseEquinox_align h]; exact ⟨htask, rfl⟩
  · have hmixed : ∃ r, (r, false) ∈ t.arrivals := by
      push Not at h
      obtain ⟨⟨r, al⟩, hmem, hne⟩ := h
      exact ⟨r, (Bool.eq_false_of_not_eq_true hne : al = false) ▸ hmem⟩
    rw [releaseEquinox_mixed hmixed]; exact ⟨htask, rfl⟩

theorem allArrived_of (hne : t.arrivals ≠ []) (h : ∀ r, r < t.cores.length → r ∈ t.ended ∨ ∃ a, (r, a) ∈ t.arrivals) :
    t.allArrived = true := by
  simp only [Task.allArrived, Bool.and_eq_true, Bool.not_eq_true', List.isEmpty_eq_false_iff, List.all_eq_true, List.mem_range,
    Bool.or_eq_true, List.contains_iff_mem, List.any_eq_true, decide_eq_true_eq]
  exact ⟨hne, fun r hr => (h r hr).imp_right fun ⟨a, ha⟩ => ⟨_, ha, rfl⟩⟩

/-- The release once all have arrived: at once for a crew of one, else an untimed while later. -/
theorem exec_equinoxRelease_all {n : Nat} (ht : s.task? n = some t) (hend : t.ending = none) (hall : t.allArrived = true) :
    exec (.equinoxRelease n) s = .next (
      if t.cores.length = 1 then s.releaseEquinox t
      else if t.releaseDue = 0 then { s.modTask n (fun x => { x with releaseDue := s.dueCycle }) with fv := s.fv + 1 }
      else if t.releaseDue ≤ s.now then s.releaseEquinox t else s) := by
  rw [exec_equinoxRelease, execEquinoxRelease, ht]
  have hgoes : ¬(¬t.allArrived ∨ t.ending.isSome) := by simp [hall, hend]
  dsimp only
  rw [if_neg hgoes]
  split_ifs <;> rfl

end

end Sys2Proof.Machine
end

section
/-! PROOF. The Equinox of O27, from the rules above. -/

namespace Sys2Proof.Machine

/-- Settles O27: arrival and leaving by the strand's wait, the release by what has arrived. -/
theorem equinoxes : Obligations.Equinox := by
  intro t n s
  refine ⟨fun hw ho hs hr ht => equinox_arrives (exec_sync s) hw ho hs hr ht,
    fun hw ho hs hr ht => equinox_arrives (exec_alignEquinox s) hw ho hs hr ht,
    ⟨fun last hw => equinox_leaves (exec_sync s) hw, fun hw => equinox_stalls (exec_sync s) hw⟩,
    ⟨fun last hw => equinox_leaves (exec_alignEquinox s) hw, fun hw => equinox_stalls (exec_alignEquinox s) hw⟩, ?_⟩
  intro ht hend hne harr
  obtain rfl := task?_id ht
  have hexec := exec_equinoxRelease_all ht hend (allArrived_of hne harr)
  refine ⟨fun hdue => ?_, fun hone hdue => ?_⟩
  · obtain ⟨htask, hmoves⟩ := releaseEquinox_moves ht
    refine ⟨s.releaseEquinox t, hexec.trans (congrArg _ ?_), htask, fun hmixed => ?_, fun halign => ?_, hmoves⟩
    · rcases hdue with hone | ⟨hset, hnow⟩
      · rw [if_pos hone]
      · rw [if_neg hset, if_pos hnow, ite_self]
    · rw [releaseEquinox_mixed hmixed]; exact heard_cores
    · refine ⟨s.alignedTo t, fun k hk hlive => alignedTo_le hk hlive, alignedTo_attained, ?_⟩
      rw [releaseEquinox_align halign]; exact aligned_cores _
  · rw [if_neg hone, if_pos hdue] at hexec
    exact ⟨_, hexec, task?_modTask (fun _ => rfl) ht, State.now_lt_dueCycle s, rfl⟩

end Sys2Proof.Machine
end

section
/-! SUPPORT. The barrier objects (07 R144, R145): what changes of one object, of one cycle's arrivals and drops, and of its completion
test. -/

namespace Sys2Proof.Machine

/-! ## One object of one cluster -/

/-- A barrier object of a cluster. -/
def State.bar (s : State) (k : Nat) (id : BitVec 5) : Barrier := (s.cluster k).bars[id.toNat]

/-- One object of one cluster has changed. -/
def BarAt (k : Nat) (id : BitVec 5) (b : Barrier) (s t : State) : Prop :=
  t.bar k id = b ∧ (∀ j, j ≠ id → t.bar k j = s.bar k j) ∧ ∀ j, j ≠ k → t.cluster j = s.cluster j

theorem barAt_modBar (s : State) (k : Nat) (id : BitVec 5) (f : Barrier → Barrier) : BarAt k id (f (s.bar k id)) s (s.modBar k id f) := by
  have hcluster : (s.modBar k id f).cluster k = { s.cluster k with bars := (s.cluster k).bars.set id.toNat (f (s.bar k id)) } := by
    simp only [State.cluster, State.modBar, State.bar, mapGet_mapSet, Option.getD_some]
  refine ⟨?_, fun j hj => ?_, fun j hj => ?_⟩
  · simp only [State.bar, hcluster, Vector.getElem_set_self]
  · have hne : id.toNat ≠ j.toNat := fun h => hj (BitVec.eq_of_toNat_eq h.symm)
    simp only [State.bar, hcluster, Vector.getElem_set_ne _ _ hne]
  · simp only [State.cluster, State.modBar, mapGet_mapSet_ne _ _ hj]

/-! ## Arrivals and drops as the statement spells them out -/

section
variable {b : Barrier} {q : Nat}

/-- A position that has arrived already, in this phase or in one its arrival is held for. -/
def Barrier.Again (b : Barrier) (q : Nat) : Prop :=
  b.members &&& posBit q ≠ 0 ∧ (b.arr &&& posBit q ≠ 0 ∨ ∃ x, x ∈ b.held ∧ x.1 = q)

theorem holds_iff : b.holds q = true ↔ b.Again q := by
  simp [Barrier.holds, Barrier.Again]

theorem heldPhase_eq : b.heldPhase q = (((b.held.filter fun x => x.1 == q).getLast?).elim b.phase fun x => x.2) + 1 := by
  unfold Barrier.heldPhase
  split <;> next h => rw [h]; rfl

theorem arrive_member (h : b.members &&& posBit q ≠ 0) :
    b.arrive q = { b with touched := true, cand := max b.cand (8 + q), arr := b.arr ||| posBit q } := if_neg h

theorem arrive_joins (h : b.members &&& posBit q = 0) :
    b.arrive q = { b with touched := true, cand := max b.cand (8 + q), join := b.join ||| posBit q } := if_pos h

end

/-! ## The order of one cycle's arrivals and drops (R145) -/

theorem posBit_disjoint {q r : Nat} (hq : q < 8) (hr : r < 8) (h : q ≠ r) : posBit r &&& ~~~posBit q = posBit r := by
  have hall : ∀ q, q < 8 → ∀ r, r < 8 → q ≠ r → posBit r &&& ~~~posBit q = posBit r := by decide
  exact hall q hq r hr h

theorem arrive_comm (b : Barrier) (q r : Nat) : (b.arrive q).arrive r = (b.arrive r).arrive q := by
  have hcand : max (max b.cand (8 + q)) (8 + r) = max (max b.cand (8 + r)) (8 + q) := Nat.max_right_comm ..
  have hor : ∀ x : BitVec 8, x ||| posBit q ||| posBit r = x ||| posBit r ||| posBit q := fun x => by
    rw [BitVec.or_assoc, BitVec.or_comm (posBit q), ← BitVec.or_assoc]
  by_cases hq : b.members &&& posBit q = 0 <;> by_cases hr : b.members &&& posBit r = 0
  · simp only [Barrier.arrive, if_pos hq, if_pos hr, hcand, hor]
  · simp only [Barrier.arrive, if_pos hq, if_neg hr, hcand]
  · simp only [Barrier.arrive, if_neg hq, if_pos hr, hcand]
  · simp only [Barrier.arrive, if_neg hq, if_neg hr, hcand, hor]

theorem drop_comm (b : Barrier) (q r : Nat) : (b.drop q).drop r = (b.drop r).drop q := by
  have hcand : max (max b.cand q) r = max (max b.cand r) q := Nat.max_right_comm ..
  have hand : ∀ x : BitVec 8, x &&& ~~~posBit q &&& ~~~posBit r = x &&& ~~~posBit r &&& ~~~posBit q := fun x => by
    rw [BitVec.and_assoc, BitVec.and_comm (~~~posBit q), ← BitVec.and_assoc]
  simp only [Barrier.drop, hcand, hand]

/-- A drop and an arrival of different positions: the drop leaves the arrival's bit in place. -/
theorem drop_arrive_comm (b : Barrier) {q r : Nat} (hq : q < 8) (hr : r < 8) (h : q ≠ r) : (b.drop q).arrive r = (b.arrive r).drop q := by
  have hbit := posBit_disjoint hq hr h
  have hmember : (b.drop q).members &&& posBit r = b.members &&& posBit r := by
    show b.members &&& ~~~posBit q &&& posBit r = _
    rw [BitVec.and_assoc, BitVec.and_comm (~~~posBit q), hbit]
  have hcand : max (max b.cand q) (8 + r) = max (max b.cand (8 + r)) q := Nat.max_right_comm ..
  have hjoin : (b.join &&& ~~~posBit q) ||| posBit r = (b.join ||| posBit r) &&& ~~~posBit q := by
    rw [BitVec.and_or_distrib_right, hbit]
  by_cases hm : b.members &&& posBit r = 0
  · rw [arrive_joins hm, arrive_joins (hmember.trans hm)]
    simp only [Barrier.drop, hcand, hjoin]
  · rw [arrive_member hm, arrive_member (hmember ▸ hm)]
    simp only [Barrier.drop, hcand]

/-! ## bar.arrive and bar.drop -/

/-- What an arrival or a drop leaves but for its object: the phase it gives. -/
def GivesPhase (d : BitVec 5) (phase : BitVec 32) (s t : State) : Prop :=
  t.core.rs d = (if d = 0 then 0 else phase.setWidth 64) ∧ (∀ r, r ≠ d → t.core.rs r = s.core.rs r) ∧
    { t.core.still with s := s.core.s } = s.core.still ∧ { t with core := s.core, clusters := s.clusters, fv := s.fv } = s ∧
    BytesKept s t ∧ Retires s t

/-- The phase given, ready at a cycle. -/
def Core.givePhase (c : Core) (d : BitVec 5) (phase : BitVec 32) (due now : Nat) : Core :=
  (c.put d (phase.setWidth 64) now 1).after (sr d) due

theorem keeps_givePhase (c : Core) (d : BitVec 5) (phase : BitVec 32) (due now : Nat) : Keeps c (c.givePhase d phase due now) :=
  (keeps_put ..).trans (keeps_after ..)

theorem givesPhase_retireWith (s : State) (cs : SMap Cluster) (fv : Nat) (d : BitVec 5) (phase : BitVec 32) (due : Nat) :
    GivesPhase d phase s (retireWith { s with clusters := cs, fv := fv } fun c => c.givePhase d phase due s.now) := by
  have hk := keeps_givePhase s.core d phase due s.now
  refine ⟨?_, fun r hr => ?_, ?_, rfl, bytes_of hk, retires_of hk⟩
  · exact (Core.retire_rs ..).trans (put_rs s.core d (phase.setWidth 64) s.now 1)
  · exact (Core.retire_rs ..).trans (put_rs_ne s.core d r (phase.setWidth 64) s.now 1 hr)
  · rw [retireWith_core, Core.still_retire]
    exact still_s_back ((still_after ..).trans (still_put ..))

theorem barAt_retireWith {k : Nat} {id : BitVec 5} {b : Barrier} {s t : State} (fv : Nat) (f : Core → Core) (h : BarAt k id b s t) :
    BarAt k id b s (retireWith { t with fv := fv } f) := h

/-- The release wait of R93 is over. -/
def State.ReleaseDone (s : State) : Prop := s.core.ownDone false = true ∧ s.seenHere = true

section
variable {d a id : BitVec 5} {s : State}

theorem barForm_goes {i : Instr} {eff : State → State} (hdone : s.ReleaseDone) (hg : gate i s = .go) : barForm i eff s = .next (eff s) :=
  (withGate_go hg).trans (congrArg _ (if_pos hdone))

theorem barForm_stalls {i : Instr} {eff : State → State} (hwait : s.core.ownDone false = false ∨ s.seenHere = false) (hg : gate i s = .go) :
    barForm i eff s = .next (s.stallFor 8) :=
  (withGate_go hg).trans (congrArg _ (if_neg fun h => by rcases hwait with hw | hw <;> simp [hw] at h))

/-- An arrival applied at once. -/
theorem barArrive_now (hdone : s.ReleaseDone) (h : ¬(s.bar (clusterOf s.core.phys) id).Again (posOf s.core.phys)) :
    let b := s.bar (clusterOf s.core.phys) id
    Completes (.barArrive d id) s fun t => GivesPhase d b.phase s t ∧
      BarAt (clusterOf s.core.phys) id (b.arrive (posOf s.core.phys)) s t := by
  intro b hg
  have hexec : exec (.barArrive d id) s = .next (retireWith { s.modBar (clusterOf s.core.phys) id (fun b => b.arrive (posOf s.core.phys))
      with fv := s.fv + 1 } fun c => c.givePhase d b.phase s.dueCycle s.now) :=
    (exec_barArrive d id s).trans ((barForm_goes hdone hg).trans (congrArg _ (if_neg (mt holds_iff.mp h))))
  exact ⟨_, hexec, givesPhase_retireWith .., barAt_retireWith _ _ (barAt_modBar ..)⟩

/-- An arrival held for a later phase. -/
theorem barArrive_held (hdone : s.ReleaseDone) (h : (s.bar (clusterOf s.core.phys) id).Again (posOf s.core.phys)) :
    let b := s.bar (clusterOf s.core.phys) id
    let q := posOf s.core.phys
    Completes (.barArrive d id) s fun t => GivesPhase d (b.heldPhase q) s t ∧
      BarAt (clusterOf s.core.phys) id { b with held := b.held ++ [(q, b.heldPhase q)] } s t := by
  intro b q hg
  have hexec : exec (.barArrive d id) s = .next (retireWith
      { s.modBar (clusterOf s.core.phys) id (fun x => { x with held := x.held ++ [(q, b.heldPhase q)] }) with fv := s.fv }
      fun c => c.givePhase d (b.heldPhase q) (heldReply id (b.heldPhase q)) s.now) :=
    (exec_barArrive d id s).trans ((barForm_goes hdone hg).trans (congrArg _ (if_pos (holds_iff.mpr h))))
  exact ⟨_, hexec, givesPhase_retireWith .., barAt_retireWith _ _
    (barAt_modBar s (clusterOf s.core.phys) id fun x => { x with held := x.held ++ [(q, b.heldPhase q)] })⟩

theorem barDrop_now (hdone : s.ReleaseDone) :
    let b := s.bar (clusterOf s.core.phys) id
    Completes (.barDrop d id) s fun t => GivesPhase d b.phase s t ∧
      BarAt (clusterOf s.core.phys) id (b.drop (posOf s.core.phys)) s t := by
  intro b hg
  have hexec : exec (.barDrop d id) s = .next (retireWith { s.modBar (clusterOf s.core.phys) id (fun b => b.drop (posOf s.core.phys))
      with fv := s.fv + 1 } fun c => c.givePhase d b.phase s.dueCycle s.now) :=
    (exec_barDrop d id s).trans (barForm_goes hdone hg)
  exact ⟨_, hexec, givesPhase_retireWith .., barAt_retireWith _ _ (barAt_modBar ..)⟩

/-! ## bar.wait -/

theorem phaseOver_iff (s : State) (c : Core) (a id : BitVec 5) : s.phaseOver c a id = true ↔
    let ago := ((s.bar (clusterOf c.phys) id).phase - (c.rs a).setWidth 32).toNat
    1 ≤ ago ∧ ago ≤ 2 ^ 31 := by
  simp only [State.phaseOver, Bool.and_eq_true, decide_eq_true_eq, State.bar]

/-- A `bar.wait` to which no message of the completion is on its way. -/
theorem exec_barWait_untold (hw : s.core.waiting = .none) (hg : gate (.barWait a id) s = .go) : exec (.barWait a id) s = .next
    (if s.core.stall ≠ 11 ∧ s.phaseOver s.core a id then retireWith s fun c => c else s.stallFor 11) := by
  refine (exec_barWait a id s).trans ((withGate_go hg).trans (congrArg _ ?_))
  rw [hw]

theorem exec_barWait_told {due : Nat} {setter : BitVec 32} (hw : s.core.waiting = .told due setter)
    (hg : gate (.barWait a id) s = .go) : exec (.barWait a id) s = .next
      (if due ≤ s.now then retireWith (s.logWait s.core (.barWait a id) 0 setter) fun c => c else s.stallFor 11) := by
  refine (exec_barWait a id s).trans ((withGate_go hg).trans (congrArg _ ?_))
  rw [hw]

/-- The message of a completion, sent to a `bar.wait` that has stalled. -/
theorem tellWait_stalled (hcur : s.core.cur = some (.barWait a id)) (hw : s.core.waiting = .none) (hstall : s.core.stall = 11) :
    s.tellWait s.core = if s.phaseOver s.core a id then
      State.modAt { s with fv := s.fv + 1 } s.core.phys fun x => { x with waiting := .told s.dueCycle (setterCore Config.packageNumber
        (((s.coreAt (clusterOf s.core.phys * 8 + (s.bar (clusterOf s.core.phys) id).lastPos)).map Core.vcore).getD 0)) }
    else s := by
  unfold State.tellWait
  rw [hcur, hw]
  simp only [hstall, true_and]
  rfl

end

/-! ## Held arrivals -/

theorem barHeldArrival_applies {s : State} {cl : Nat} {id : BitVec 5} {pos : BitVec 3}
    (h : (pos.toNat, (s.bar cl id).phase) ∈ (s.bar cl id).held) :
    let b := s.bar cl id
    ∃ t, exec (.barHeldArrival cl id pos) s = .next t ∧
      BarAt cl id (Barrier.arrive { b with held := b.held.erase (pos.toNat, b.phase) } pos.toNat) s t := by
  refine ⟨_, (exec_barHeldArrival cl id pos s).trans (if_pos (List.contains_iff_mem.mpr h)), ?_⟩
  exact barAt_modBar s cl id fun b => Barrier.arrive { b with held := b.held.erase (pos.toNat, b.phase) } pos.toNat

/-! ## The completion test -/

theorem complete_full {b : Barrier} (ht : b.touched = true) (ha : b.arr &&& b.members = b.members) : b.complete =
    { b with touched := false, cand := 0, phase := b.phase + 1, arr := 0, members := b.members ||| b.join, join := 0
             lastPos := b.cand % 8 } := if_pos ⟨ht, ha⟩

theorem complete_stands {b : Barrier} (h : b.touched = false ∨ b.arr &&& b.members ≠ b.members) :
    b.complete = { b with touched := false, cand := 0 } :=
  if_neg fun hfull => h.elim (fun ht => Bool.false_ne_true (ht.symm.trans hfull.left)) fun ha => ha hfull.right

end Sys2Proof.Machine
end

section
/-! PROOF. The barriers of O29, from the rules above. -/

namespace Sys2Proof.Machine

/-- Settles O29: each instruction by the object it changes, the order of one cycle by the cases of membership. -/
theorem barriers : Obligations.Barriers := by
  refine ⟨fun d a id cl pos s => ⟨fun ho hs => ⟨fun hn hm hg => ?_, fun hn hm hg => ?_, fun ha hg => ?_, fun hg => ?_⟩, ?_,
    fun hw hstall hpast hg => ?_, fun hw hnot hg => ?_, fun hcur hw hstall => ⟨fun hpast => ?_, fun hpast => ?_⟩,
    fun due setter hw => ⟨fun hdue hg => ?_, fun hdue hg => ?_⟩, fun hheld => ?_⟩,
    fun b q r hq hr => ⟨arrive_comm b q r, drop_comm b q r, drop_arrive_comm b hq hr⟩, by decide,
    fun b => ⟨fun ht ha => ?_, complete_stands⟩⟩
  · obtain ⟨t, hexec, ⟨hrs, hrs', hstill, hout, hbytes, hret⟩, hbar⟩ := barArrive_now ⟨ho, hs⟩ hn hg
    exact ⟨t, hexec, hrs, hrs', hstill, arrive_member hm ▸ hbar, hout, hbytes, hret⟩
  · obtain ⟨t, hexec, ⟨hrs, hrs', hstill, hout, hbytes, hret⟩, hbar⟩ := barArrive_now ⟨ho, hs⟩ hn hg
    exact ⟨t, hexec, hrs, hrs', hstill, arrive_joins (not_not.mp hm) ▸ hbar, hout, hbytes, hret⟩
  · obtain ⟨t, hexec, ⟨hrs, hrs', hstill, hout, hbytes, hret⟩, hbar⟩ := barArrive_held ⟨ho, hs⟩ ha hg
    rw [heldPhase_eq] at hrs hbar
    exact ⟨t, hexec, hrs, hrs', hstill, hbar, hout, hbytes, hret⟩
  · obtain ⟨t, hexec, ⟨hrs, hrs', hstill, hout, hbytes, hret⟩, hbar⟩ := barDrop_now ⟨ho, hs⟩ hg
    exact ⟨t, hexec, hrs, hrs', hstill, hbar, hout, hbytes, hret⟩
  · rintro hwait i (rfl | rfl) hg
    · exact (exec_barArrive d id s).trans (barForm_stalls hwait hg)
    · exact (exec_barDrop d id s).trans (barForm_stalls hwait hg)
  · exact ⟨_, (exec_barWait_untold hw hg).trans (congrArg _ (if_pos ⟨hstall, (phaseOver_iff ..).mpr hpast⟩)), onlyRetires_retireWith s⟩
  · refine (exec_barWait_untold hw hg).trans (congrArg _ (if_neg fun h => ?_))
    exact hnot.elim h.left fun hp => hp ((phaseOver_iff ..).mp h.right)
  · rw [tellWait_stalled hcur hw hstall, if_pos ((phaseOver_iff ..).mpr hpast)]
    exact onlyCore_modAt _ fun _ hc => hc
  · rw [tellWait_stalled hcur hw hstall, if_neg (mt (phaseOver_iff ..).mp hpast)]
  · exact ⟨_, (exec_barWait_told hw hg).trans (congrArg _ (if_pos hdue)), onlyRetires_retireWith _⟩
  · exact (exec_barWait_told hw hg).trans (congrArg _ (if_neg (Nat.not_le.mpr hdue)))
  · exact barHeldArrival_applies hheld
  · rw [complete_full ht ha]
    exact ⟨rfl, rfl, rfl, rfl, rfl, rfl, rfl, rfl⟩

end Sys2Proof.Machine
end

section
/-! SUPPORT. The end of a task (07 R137, R138, 15 R349): what the records of its waits, its missed dumps and its waiters leave alone,
and what the end makes of the task, its cores and the journal. -/

namespace Sys2Proof.Machine

/-! ## Records of the wait ring (R396, R398) -/

/-- Only rings of partitions and pools of dies may differ. -/
def OnlyLogs (s u : State) : Prop := ∃ parts dies, u = { s with parts := parts, dies := dies }

theorem onlyLogs_refl (s : State) : OnlyLogs s s := ⟨s.parts, s.dies, rfl⟩

theorem OnlyLogs.trans {s t u : State} (h : OnlyLogs s t) (k : OnlyLogs t u) : OnlyLogs s u := by
  obtain ⟨_, _, rfl⟩ := h
  obtain ⟨_, _, rfl⟩ := k
  exact ⟨_, _, rfl⟩

theorem ringWrite_onlyLogs (s : State) (c : Core) (isWait : Bool) (mk : Nat → List Byte) : OnlyLogs s (s.ringWrite c isWait mk) := by
  unfold State.ringWrite
  split
  · exact onlyLogs_refl s
  · dsimp only
    split
    · exact ⟨_, _, rfl⟩
    · exact onlyLogs_refl s

theorem logWait_onlyLogs (s : State) (c : Core) (i : Instr) (ended : Nat) (setter : BitVec 32) :
    OnlyLogs s (s.logWait c i ended setter) := by
  unfold State.logWait
  dsimp only
  split
  · exact onlyLogs_refl s
  · split_ifs
    · exact onlyLogs_refl s
    · exact ringWrite_onlyLogs ..

theorem logEnded_onlyLogs (s : State) (task : Nat) : OnlyLogs s (s.logEnded task) := by
  refine List.foldlRecOn (motive := OnlyLogs s) s.sorted _ (onlyLogs_refl s) fun u hu c _ => ?_
  split
  · split_ifs
    · exact hu.trans (logWait_onlyLogs ..)
    · exact hu
  · exact hu

/-! ## The journal (R348, R349) -/

theorem journal_eq (s : State) (e : JournalEvent) : s.journal e =
    { s with fw := { s.fw with journal := (s.journal e).fw.journal, owed := (s.journal e).fw.owed } } := by
  unfold State.journal
  split_ifs <;> rfl

/-- A record written, of a state with the same journal. -/
theorem journals_of {s v : State} (hj : v.fw.journal = s.fw.journal) (ho : v.fw.owed = s.fw.owed) (ha : v.fw.acked = s.fw.acked)
    (e : JournalEvent) : Journals e s (v.journal e) := by
  have hopen : v.journalOpen = s.journalOpen := by
    unfold State.journalOpen State.unacked
    rw [hj, ho, ha]
  unfold Journals State.journal
  rw [hopen]
  split_ifs
  · exact ⟨congrArg (· ++ [e]) hj, ho⟩
  · exact ⟨hj, congrArg (· ++ [e]) ho⟩

/-! ## A task stopped -/

/-- A core as the end of a task leaves it. -/
def Core.stopFor (c : Core) (id : Nat) : Core := if c.task = id then c.stopStrand else c

/-- The cores and the waiters of a task stopped, before its end is entered. -/
def State.stopTask (s : State) (id : Nat) : State :=
  ((s.logEnded id).dumpsMissed (s.cores.filter fun c => c.task = id)).dropWaiters id |>.modAll fun c => c.stopFor id

/-- What the end of a task leaves of all but its entry in the journal. -/
structure Stopped (id : Nat) (s u : State) : Prop where
  core : u.core = s.core.stopFor id
  others : u.others = s.others.map fun c => c.stopFor id
  saved : u.saved = s.saved
  clusters : u.clusters = s.clusters
  errors : u.fw.errors = s.fw.errors

theorem stopTask_frame (s : State) (id : Nat) : Stopped id s (s.stopTask id) ∧ (s.stopTask id).tasks = s.tasks ∧
    (s.stopTask id).fw.journal = s.fw.journal ∧ (s.stopTask id).fw.owed = s.fw.owed ∧ (s.stopTask id).fw.acked = s.fw.acked := by
  obtain ⟨parts, dies, hlog⟩ := logEnded_onlyLogs s id
  unfold State.stopTask
  rw [hlog]
  exact ⟨⟨rfl, rfl, rfl, rfl, rfl⟩, rfl, rfl, rfl, rfl⟩

theorem partEnded_stopped {id : Nat} {s v : State} (h : Stopped id s v) (t : Task) (e : PartEnd) : Stopped id s (v.partEnded t e) := by
  unfold State.partEnded
  split_ifs
  · exact h
  · rw [journal_eq]
    exact ⟨h.core, h.others, h.saved, h.clusters, h.errors⟩

section
variable (s : State) (id : Nat) (status : EndStatus) (cause : BitVec 8) (rank : Nat) (pc : BitVec 32)

theorem endTask_eq : s.endTask id status cause rank pc = match (s.stopTask id).task? id with
    | some t => (s.stopTask id).partEnded t ⟨t.idx, status, cause, rank, pc⟩
    | none => s.stopTask id := rfl

theorem endTask_stopped : Stopped id s (s.endTask id status cause rank pc) := by
  rw [endTask_eq]
  obtain ⟨hstop, -⟩ := stopTask_frame s id
  split
  · exact partEnded_stopped hstop _ _
  · exact hstop

end

section
variable {s : State} {t : Task}

theorem task?_congr {u : State} (h : u.tasks = s.tasks) (n : Nat) : u.task? n = s.task? n := by
  rw [State.task?, h]
  rfl

theorem stopFor_ended (c : Core) (id : Nat) (h : (c.stopFor id).task = id) : (c.stopFor id).ctx = .ended := by
  unfold Core.stopFor at h ⊢
  split_ifs with hc
  · rfl
  · rw [if_neg hc] at h
    exact absurd h hc

theorem Stopped.ended {id : Nat} {u : State} (h : Stopped id s u) : ∀ k, k ∈ u.cores → k.task = id → k.ctx = .ended := by
  have hcores : u.cores = s.cores.map fun c => c.stopFor id := by rw [State.cores, h.core, h.others]; rfl
  intro k hk ht
  rw [hcores] at hk
  obtain ⟨c, -, rfl⟩ := List.mem_map.mp hk
  exact stopFor_ended c id ht

/-- A task has ended: its end is entered and journaled, its cores are stopped. -/
def TaskEnds (t : Task) (status : EndStatus) (rank : Nat) (pc : BitVec 32) (s u : State) : Prop :=
  (u.task? t.id).bind (·.ending) = some ⟨t.idx, status, 0, rank, pc⟩ ∧ Journals (.taskEnd t.id) s u ∧
    ∀ k, k ∈ u.cores → k.task = t.id → k.ctx = .ended

theorem endTask_ends (ht : s.task? t.id = some t) (hend : t.ending = none) (status : EndStatus) (rank : Nat) (pc : BitVec 32) :
    TaskEnds t status rank pc s (s.endTask t.id status 0 rank pc) := by
  obtain ⟨-, htasks, hj, ho, ha⟩ := stopTask_frame s t.id
  have ht' : (s.stopTask t.id).task? t.id = some t := (task?_congr htasks t.id).trans ht
  have hopen : ¬t.ending.isSome := by rw [hend]; exact Bool.false_ne_true
  have hu : s.endTask t.id status 0 rank pc =
      ((s.stopTask t.id).modTask t.id fun x => { x with ending := some ⟨t.idx, status, 0, rank, pc⟩ }).journal (.taskEnd t.id) := by
    rw [endTask_eq, ht']
    exact if_neg hopen
  refine ⟨?_, ?_, (endTask_stopped s t.id status 0 rank pc).ended⟩
  · have htask := task?_modTask (f := fun x => { x with ending := some ⟨t.idx, status, 0, rank, pc⟩ }) (fun _ => rfl) ht'
    rw [hu, journal_eq]
    exact (congrArg (Option.bind · Task.ending) htask :)
  · rw [hu]
    exact journals_of (v := (s.stopTask t.id).modTask t.id fun x => { x with ending := some ⟨t.idx, status, 0, rank, pc⟩ }) hj ho ha _

/-- The end of a task counts as one of a state before it with the same journal. -/
theorem TaskEnds.of {v u : State} {status : EndStatus} {rank : Nat} {pc : BitVec 32} (h : TaskEnds t status rank pc v u)
    (hj : v.fw.journal = s.fw.journal) (ho : v.fw.owed = s.fw.owed) (ha : v.fw.acked = s.fw.acked) : TaskEnds t status rank pc s u := by
  obtain ⟨htask, hjournal, hcores⟩ := h
  have hopen : v.journalOpen = s.journalOpen := by
    unfold State.journalOpen State.unacked
    rw [hj, ho, ha]
  refine ⟨htask, ?_, hcores⟩
  unfold Journals at hjournal ⊢
  rwa [hopen, hj, ho] at hjournal

end

end Sys2Proof.Machine
end

section
/-! SUPPORT. The start of a task (07 R136, 15 R336, R345): the crew loaded core by core, and F2's steps toward it. -/

namespace Sys2Proof.Machine

/-! ## One crew core -/

/-- What a crew core of rank `r` holds before its first instruction (R136). -/
structure Crewed (t : Task) (r : Nat) (d : Core) : Prop where
  ctx : d.ctx = .starting
  task : d.task = t.id
  pc : d.pc = BitVec.ofNat 32 t.desc.entry
  sp : d.rs 31 = BitVec.ofNat 64 t.desc.sbase
  rs : ∀ q, q ≠ 31 → d.rs q = 0
  tvec : d.tvec = BitVec.ofNat 32 t.desc.tvec
  sbase : d.sbase = BitVec.ofNat 32 t.desc.sbase
  slimit : d.slimit = BitVec.ofNat 32 t.desc.slimit
  crew : d.crew = BitVec.ofNat 64 (t.cores.length * 2 ^ 16 + r)
  v : d.v = Vector.replicate 16 (Vector.replicate 1024 0)
  calendar : d.calendar = 0
  vigil : d.vigil = 65520
  tags : d.tags = 0
  tagrev : d.tagrev = 0
  waitcfg : d.waitcfg = 20
  inh : d.inh = false
  lan : d.lan = Lantern.initial
  tiles : d.tiles = Vector.replicate 8 (Vector.replicate 128 0)

section
variable (c : Core) (t : Task) (r : Nat) (topo cfg : BitVec 64) (pool : Nat) (image : List Byte) (first : Nat)

theorem load_rs (q : BitVec 5) : (c.load t r topo cfg pool image Token.zero first).rs q =
    ((Core.initial c.phys).ws 31 (BitVec.ofNat 64 t.desc.sbase)).rs q := Core.rs_congr rfl q

theorem load_crewed : Crewed t r (c.load t r topo cfg pool image Token.zero first) where
  ctx := rfl
  task := rfl
  pc := rfl
  sp := (load_rs ..).trans ((Core.rs_ws ..).trans (if_neg (by decide)))
  rs := fun q hq => (load_rs ..).trans ((Core.rs_ws_ne _ _ _ _ hq).trans (initial_rs ..))
  tvec := rfl
  sbase := rfl
  slimit := rfl
  crew := rfl
  v := rfl
  calendar := rfl
  vigil := rfl
  tags := rfl
  tagrev := rfl
  waitcfg := rfl
  inh := rfl
  lan := rfl
  tiles := rfl

/-- What the placement of a core decides. -/
theorem load_placed : let d := c.load t r topo cfg pool image Token.zero first
    d.vtopo = topo ∧ d.poolAt = pool ∧ d.samplecfg = cfg ∧ d.k = Vector.replicate 16 Token.zero ∧ d.nextIssue = first ∧
      d.scr = memWrite c.scr t.desc.load image := by
  have hk : (Vector.replicate 16 Token.zero).set 15 Token.zero = Vector.replicate 16 Token.zero := Vector.set_replicate_self ..
  exact ⟨rfl, rfl, rfl, hk, rfl, rfl⟩

end

/-! ## The crew -/

section
variable (t : Task) (p : Partition) (image : List Byte) (tok : Token)

/-- A crew core as the load leaves it. -/
def State.crewCore (s : State) (k r : Nat) : Core :=
  ((s.coreAt k).getD (Core.initial k)).load t r (p.vtopo t.part (p.virt k)) ((mapGet p.sampling (p.virt k)).getD 0)
    (s.poolBase t.part (p.virt k / 64)) image tok (s.now + 1 + Config.untimedDelay (s.fv + r))

/-- One crew core loaded. -/
def State.loadCore (s : State) (x : Nat × Nat) : State :=
  (s.ensureCore x.1).modAt x.1 fun c =>
    c.load t x.2 (p.vtopo t.part (p.virt x.1)) ((mapGet p.sampling (p.virt x.1)).getD 0)
      (s.poolBase t.part (p.virt x.1 / 64)) image tok (s.now + 1 + Config.untimedDelay (s.fv + x.2))

variable {t p image tok} {s : State}

theorem ensureCore_onlyCores (s : State) (n : Nat) : OnlyCores s (s.ensureCore n) := by
  unfold State.ensureCore
  split <;> rfl

theorem loadCore_onlyCores (x : Nat × Nat) : OnlyCores s (s.loadCore t p image tok x) :=
  (ensureCore_onlyCores s x.1).trans rfl

theorem coreAt_loadCore (x : Nat × Nat) (m : Nat) :
    (s.loadCore t p image tok x).coreAt m = if m = x.1 then some (s.crewCore t p image tok x.1 x.2) else s.coreAt m := by
  rw [State.loadCore, coreAt_modAt _ (by exact fun _ h => h)]
  by_cases hm : m = x.1
  · rw [if_pos hm, if_pos hm, coreAt_ensureCore, if_pos rfl]; rfl
  · rw [if_neg hm, if_neg hm, coreAt_ensureCore, if_neg hm]

theorem crewCore_congr {u : State} {k : Nat} (h : OnlyCores s u) (hk : u.coreAt k = s.coreAt k) (r : Nat) :
    u.crewCore t p image tok k r = s.crewCore t p image tok k r := by
  have hpool : u.poolBase t.part (p.virt k / 64) = s.poolBase t.part (p.virt k / 64) :=
    (congrArg (fun v : State => v.poolBase t.part (p.virt k / 64)) h :)
  have hnow : u.now = s.now := (congrArg State.now h :)
  have hfv : u.fv = s.fv := (congrArg State.fv h :)
  rw [State.crewCore, hpool, hnow, hfv, hk]
  rfl

/-- Each core of a crew of distinct cores is loaded, by what stood there. -/
theorem coreAt_loadCores (xs : List (Nat × Nat)) (hnd : (xs.map Prod.fst).Nodup) :
    let u := xs.foldl (fun st x => st.loadCore t p image tok x) s
    (∀ m, m ∉ xs.map Prod.fst → u.coreAt m = s.coreAt m) ∧ ∀ x, x ∈ xs → u.coreAt x.1 = some (s.crewCore t p image tok x.1 x.2) := by
  induction xs generalizing s with
  | nil => exact ⟨fun _ _ => rfl, fun x hx => absurd hx List.not_mem_nil⟩
  | cons y ys ih =>
    obtain ⟨hy, hnd⟩ := List.nodup_cons.mp hnd
    obtain ⟨hkept, hloaded⟩ := ih (s := s.loadCore t p image tok y) hnd
    refine ⟨fun m hm => ?_, fun x hx => ?_⟩
    · obtain ⟨hne, hm⟩ := not_or.mp (mt List.mem_cons.mpr hm)
      exact (hkept m hm).trans ((coreAt_loadCore y m).trans (if_neg hne))
    · rcases List.mem_cons.mp hx with rfl | hx
      · exact (hkept x.1 hy).trans ((coreAt_loadCore x x.1).trans (if_pos rfl))
      · have hne : x.1 ≠ y.1 := fun h => hy (h ▸ List.mem_map_of_mem hx)
        exact (hloaded x hx).trans (congrArg some (crewCore_congr (loadCore_onlyCores y) ((coreAt_loadCore y x.1).trans (if_neg hne)) x.2))

theorem loadCores_onlyCores (xs : List (Nat × Nat)) : OnlyCores s (xs.foldl (fun st x => st.loadCore t p image tok x) s) :=
  List.foldlRecOn (motive := OnlyCores s) xs _ rfl fun _ hu _ _ => hu.trans (loadCore_onlyCores _)

theorem modPart_rest (s : State) (n : Nat) (f : Partition → Partition) :
    (s.modPart n f).tasks = s.tasks ∧ (s.modPart n f).cores = s.cores ∧ (s.modPart n f).pools = s.pools := by
  unfold State.modPart
  split <;> exact ⟨rfl, rfl, rfl⟩

theorem coreAt_startCrew {k r : Nat} (hnd : t.cores.Nodup) (hk : t.cores[r]? = some k) :
    (s.startCrew t p image tok).coreAt k = some (s.crewCore t p image tok k r) := by
  have hcores : (s.startCrew t p image tok).cores = (t.cores.zipIdx.foldl (fun st x => st.loadCore t p image tok x) s).cores :=
    (modPart_rest ..).right.left
  obtain ⟨-, hloaded⟩ := coreAt_loadCores (s := s) (t := t) (p := p) (image := image) (tok := tok) t.cores.zipIdx
    (by rwa [List.zipIdx_map_fst])
  exact (coreAt_congr hcores k).trans (hloaded (k, r) (List.mk_mem_zipIdx_iff_getElem?.mpr hk))

theorem task?_startCrew (ht : s.task? t.id = some t) : (s.startCrew t p image tok).task? t.id = some { t with loaded := true } := by
  have hload : (t.cores.zipIdx.foldl (fun st x => st.loadCore t p image tok x) s).tasks = s.tasks :=
    (congrArg State.tasks (loadCores_onlyCores (s := s) t.cores.zipIdx) :)
  let u := (t.cores.zipIdx.foldl (fun st x => st.loadCore t p image tok x) s).modPart t.part fun q =>
    { q with sampling := t.cores.foldl (fun m n => mapErase m (p.virt n)) q.sampling }
  have htasks : u.tasks = s.tasks := (modPart_rest ..).left.trans hload
  have hu : u.task? t.id = some t := (task?_congr htasks t.id).trans ht
  exact task?_modTask (f := fun x => { x with loaded := true }) (fun _ => rfl) hu

end

/-! ## The image translated and read (R40, R385) -/

/-- What the translation and the read of an image leave for the load. -/
structure ImageReady (s u : State) : Prop where
  now : u.now = s.now
  pools : u.pools = s.pools
  tasks : u.tasks = s.tasks
  cores : ∃ i, u.cores = s.cores.map fun c => c.forget i

theorem fillEntry_ready (s : State) (part task va len : Nat) (rights : BitVec 2) (home : Option Nat) (gran : Nat) (mode : ProtMode)
    (frames : List Nat) : ImageReady s (s.fillEntry part task va len rights home gran mode frames).2 where
  now := (modPart_now ..).trans rfl
  pools := (modPart_rest ..).right.right.trans rfl
  tasks := (modPart_rest ..).left.trans rfl
  cores := ⟨s.freeIndex, (modPart_rest ..).right.left.trans rfl⟩

theorem fillFor_ready {s s1 : State} {t : Task} {va len : Nat} {rights : BitVec 2} {tok : Token}
    (h : s.fillFor t va len rights = some (tok, s1)) : ImageReady s s1 := by
  unfold State.fillFor at h
  split at h
  · have hs1 : (s.fillEntry ..).2 = s1 := congrArg Prod.snd (Option.some.inj h)
    exact hs1 ▸ fillEntry_ready ..
  · exact absurd h.symm (Option.some_ne_none _)

theorem readImage_eq (s : State) (e : AlmanacEntry) (va n : Nat) :
    ∃ m, s.readImage e va n = { s with fw := { s.fw with corrected := m } } := by
  unfold State.readImage
  split
  · exact ⟨s.fw.corrected, rfl⟩
  · refine List.foldlRecOn (motive := fun u => ∃ m, u = { s with fw := { s.fw with corrected := m } }) _ _ ⟨s.fw.corrected, rfl⟩ ?_
    rintro u ⟨m, rfl⟩ r -
    exact ⟨_, rfl⟩

/-- The state in which a crew is loaded. -/
def State.imageRead (s : State) (tok : Token) (e : AlmanacEntry) (va n : Nat) : State :=
  { s.readImage e va n with releases := s.releases ++ [(tok.index.toNat, tok.gen.toNat)] }

theorem imageRead_ready {s s1 : State} (h : ImageReady s s1) (tok : Token) (e : AlmanacEntry) (va n : Nat) :
    ImageReady s (s1.imageRead tok e va n) := by
  obtain ⟨m, hm⟩ := readImage_eq s1 e va n
  rw [State.imageRead, hm]
  exact ⟨h.now, h.pools, h.tasks, h.cores⟩

/-! ## F2's step (R336, R345) -/

section
variable {s s1 : State} {t : Task} {p : Partition} {tok : Token}

theorem resolve_fillFor {va len : Nat} {rights : BitVec 2} (hs : s.sweeping t.part = false)
    (h : s.fillFor t va len rights = some (tok, s1)) : s.resolve t.part va len rights = none := by
  unfold State.fillFor at h
  unfold State.resolve
  split at h
  · next hplan => rw [hplan]; exact if_neg (by rw [hs]; exact Bool.false_ne_true)
  · exact absurd h.symm (Option.some_ne_none _)

theorem resolve_fault {va len code at' : Nat} {part : Nat} {rights : BitVec 2} (h6 : code ≠ 6)
    (h : s.xlatPlan part (BitVec.ofNat 64 va) (BitVec.ofNat 64 len) rights = .fault code at') :
    s.resolve part va len rights = some .deliver := by
  unfold State.resolve
  rw [h]
  split
  · next hc => exact XlatPlan.noConfusion hc
  · next hc => exact XlatPlan.noConfusion hc
  · next hc => exact absurd (XlatPlan.fault.inj hc).left h6
  · rfl

theorem loadStep_deliver (hl : t.landed = none) (hr : s.resolve t.part t.desc.imgVa t.desc.imgLen 1 = some .deliver) :
    s.loadStep t = some (s.endTask t.id .image 0 0 0) := by
  unfold State.loadStep
  rw [hl, hr]
  rfl

/-- The bytes of a task's image under its entry. -/
def State.imageOf (s : State) (t : Task) (e : AlmanacEntry) : List Byte := s.imageBytes e t.desc.imgVa t.desc.imgLen

/-- An image whose translation is made as it stands; no payload has landed. -/
structure Filled (s s1 : State) (t : Task) (p : Partition) (tok : Token) : Prop where
  landed : t.landed = none
  part : mapGet s.parts t.part = some p
  sweeping : s.sweeping t.part = false
  filled : s.fillFor t t.desc.imgVa t.desc.imgLen 1 = some (tok, s1)

section
variable (h : Filled s s1 t p tok)
include h

theorem loadStep_poisoned (hpoison : s.imageLine (s1.entry tok.index.toNat) t.desc.imgVa t.desc.imgLen .poisoned ≠ none) :
    s.loadStep t = some (s.endTask t.id .image 0 0 0) := by
  unfold State.loadStep
  rw [h.landed, resolve_fillFor h.sweeping h.filled, h.part, h.filled]
  dsimp only [Option.bind_none, Option.bind_some]
  rw [if_pos (Option.isSome_iff_ne_none.mpr hpoison)]

theorem loadStep_badMac {line : Nat} (hpoison : s.imageLine (s1.entry tok.index.toNat) t.desc.imgVa t.desc.imgLen .poisoned = none)
    (hmac : s.imageLine (s1.entry tok.index.toNat) t.desc.imgVa t.desc.imgLen .badMac = some line) :
    s.loadStep t = some ((s.logIntegrity t.part line none 0).endTask t.id .image 0 0 0) := by
  unfold State.loadStep
  rw [h.landed, resolve_fillFor h.sweeping h.filled, h.part, h.filled]
  dsimp only [Option.bind_none, Option.bind_some]
  rw [if_neg (by rw [hpoison]; exact Bool.false_ne_true), hmac]

theorem loadStep_starts (hpoison : s.imageLine (s1.entry tok.index.toNat) t.desc.imgVa t.desc.imgLen .poisoned = none)
    (hmac : s.imageLine (s1.entry tok.index.toNat) t.desc.imgVa t.desc.imgLen .badMac = none) :
    let e := s1.entry tok.index.toNat
    s.loadStep t = some ((s1.imageRead tok e t.desc.imgVa t.desc.imgLen).startCrew t p (s.imageOf t e) Token.zero) := by
  unfold State.loadStep
  rw [h.landed, resolve_fillFor h.sweeping h.filled, h.part, h.filled]
  dsimp only [Option.bind_none, Option.bind_some]
  rw [if_neg (by rw [hpoison]; exact Bool.false_ne_true), hmac]
  rfl

end

theorem exec_imageLoad_step {u : State} (ht : s.task? t.id = some t) (hend : t.ending = none) (hload : t.loaded = false)
    (hstep : s.loadStep t = some u) : exec (.imageLoad t.id) s = .next u := by
  rw [exec_imageLoad, execImageLoad, ht]
  have hopen : ¬(t.loaded = true ∨ t.ending.isSome = true) := by simp [hload, hend]
  dsimp only
  rw [if_neg hopen, hstep]
  rfl

/-- The record of an integrity failure leaves the journal and the tasks alone. -/
theorem logIntegrity_frame (s : State) (part line : Nat) (rank : Option Nat) (pc : BitVec 32) :
    let u := s.logIntegrity part line rank pc
    u.tasks = s.tasks ∧ u.fw = s.fw := by
  have hfold : ∀ fs : List Nat, (fs.foldl State.toFirmware s).tasks = s.tasks ∧ (fs.foldl State.toFirmware s).fw = s.fw := fun fs =>
    List.foldlRecOn (motive := fun u : State => u.tasks = s.tasks ∧ u.fw = s.fw) fs _ ⟨rfl, rfl⟩ fun _ hu _ _ => hu
  exact hfold (s.potFrames (line / 512))

/-- A bad line of the image ends the task; one that fails its MAC is logged first (R385). -/
theorem logIntegrity_endTask_ends (ht : s.task? t.id = some t) (hend : t.ending = none) (part line : Nat) :
    TaskEnds t .image 0 0 s ((s.logIntegrity part line none 0).endTask t.id .image 0 0 0) := by
  obtain ⟨htasks, hfw⟩ := logIntegrity_frame s part line none 0
  have ht' : (s.logIntegrity part line none 0).task? t.id = some t := (task?_congr htasks t.id).trans ht
  exact (endTask_ends ht' hend .image 0 0).of (congrArg Firmware.journal hfw) (congrArg Firmware.owed hfw) (congrArg Firmware.acked hfw)

end

end Sys2Proof.Machine
end

section
/-! SUPPORT. Time limit, pre-emption as a gang, and contexts saved and put back (07 R148-R150, 15 R337, 16 R363-R365). -/

namespace Sys2Proof.Machine

/-! ## The time limit (R337) -/

section
variable {s : State} {t : Task}

theorem limitLeft_over {first : Nat} (hs : t.startedAt = some first) (h0 : t.desc.tlimit ≠ 0)
    (h : t.desc.tlimit * 1000 ≤ s.time - first) : s.limitLeft t = some 0 := by
  rw [State.limitLeft, if_neg h0, hs, Option.getD_some, Nat.sub_eq_zero_of_le h]

/-- The lowest rank that has not ended. -/
theorem lowestRank {r : Nat} (hr : r < t.cores.length) (hrun : r ∉ t.ended) (hlow : ∀ j, j < r → j ∈ t.ended) :
    (List.range t.cores.length).find? (fun r => !t.ended.contains r) = some r := by
  rw [List.find?_range_eq_some]
  simpa [hr, hrun] using hlow

theorem exec_tlimitExpiry_over {first r : Nat} (ht : s.task? t.id = some t) (hend : t.ending = none) (hs : t.startedAt = some first)
    (h0 : t.desc.tlimit ≠ 0) (h : t.desc.tlimit * 1000 ≤ s.time - first) (hsched : s.scheduling = true) (hr : r < t.cores.length)
    (hrun : r ∉ t.ended) (hlow : ∀ j, j < r → j ∈ t.ended) :
    exec (.tlimitExpiry t.id) s = .next (s.endTask t.id .limit 0 r (s.pcOf t (t.cores.getD r 0))) := by
  have hover : t.ending.isNone ∧ t.startedAt.isSome ∧ s.limitLeft t = some 0 ∧ s.scheduling :=
    ⟨by rw [hend]; rfl, by rw [hs]; rfl, limitLeft_over hs h0 h, hsched⟩
  rw [exec_tlimitExpiry, execTlimitExpiry, ht]
  dsimp only
  rw [if_pos hover, lowestRank hr hrun hlow]
  rfl

end

/-! ## Pre-emption as a gang (R150) -/

/-- A core of the cluster that has not stopped for its gang, as the statement spells it out. -/
def Core.Gang (c : Core) (k : Nat) : Prop := clusterOf c.phys = k ∧ (c.ctx = .starting ∨ c.ctx = .running ∨ c.ctx = .frozen)

theorem inGang_iff (c : Core) (k : Nat) : c.inGang k = true ↔ c.Gang k := by
  simp [Core.inGang, Core.Gang, or_assoc]

theorem cluster_modCluster (s : State) (k : Nat) (f : Cluster → Cluster) : (s.modCluster k f).cluster k = f (s.cluster k) := by
  rw [State.cluster, State.modCluster, mapGet_mapSet]
  rfl

theorem cluster_modCluster_ne (s : State) (k : Nat) (f : Cluster → Cluster) {j : Nat} (h : j ≠ k) :
    (s.modCluster k f).cluster j = s.cluster j := by
  rw [State.cluster, State.modCluster, mapGet_mapSet_ne _ _ h]
  rfl

theorem cluster_congr {s u : State} (h : u.clusters = s.clusters) (k : Nat) : u.cluster k = s.cluster k := by
  rw [State.cluster, State.cluster, h]

/-- A core as a gang request leaves it. -/
def Core.askStop (c : Core) (k : Nat) : Core := if c.inGang k then { c with preempt := true } else c

theorem exec_preemptionRequest_gang {s : State} {cluster : Nat} (h : ∃ k, k ∈ s.cores ∧ k.Gang cluster) :
    exec (.preemptionRequest cluster) s = .next ((s.modAll fun c => c.askStop cluster).modCluster cluster fun k =>
      { k with gangSince := some (k.gangSince.getD s.now) }) := by
  obtain ⟨k, hk, hgang⟩ := h
  rw [exec_preemptionRequest]
  exact if_pos (List.any_eq_true.mpr ⟨k, hk, (inGang_iff ..).mpr hgang⟩)

theorem askStop_cores {s : State} {cluster i : Nat} {k : Core} (hk : s.cores[i]? = some k) :
    let u := s.modAll fun c => c.askStop cluster
    (k.Gang cluster → u.cores[i]? = some { k with preempt := true }) ∧ (¬k.Gang cluster → u.cores[i]? = some k) := by
  have hmap : (s.modAll fun c => c.askStop cluster).cores[i]? = some (k.askStop cluster) := by
    show (List.map (fun c => c.askStop cluster) s.cores)[i]? = _
    rw [List.getElem?_map, hk]
    rfl
  exact ⟨fun hg => hmap.trans (congrArg some (if_pos ((inGang_iff ..).mpr hg))),
    fun hg => hmap.trans (congrArg some (if_neg (mt (inGang_iff ..).mp hg)))⟩

/-! ## A trap taken, or the task ended in its place (R352, R356) -/

/-- What neither a trap's entry nor the end of the task changes of a core. -/
def Core.carried (c : Core) := (c.phys, (c.s, c.v, c.p, c.k, c.b, c.bc, c.calendar, c.vigil, c.tags, c.vtopo), (c.scr, c.wb, c.lanes), c.poolAt)

theorem stopFor_carried (c : Core) (id : Nat) : (c.stopFor id).carried = c.carried := by
  unfold Core.stopFor
  split_ifs <;> rfl

/-- A step that leaves the running core's registers, the saved contexts and the clusters. -/
structure Carries (s u : State) : Prop where
  core : u.core.carried = s.core.carried
  saved : u.saved = s.saved
  clusters : u.clusters = s.clusters

theorem Stopped.carries {id : Nat} {s u : State} (h : Stopped id s u) : Carries s u :=
  ⟨(congrArg Core.carried h.core).trans (stopFor_carried ..), h.saved, h.clusters⟩

theorem takeTrap_carries (s : State) (code : BitVec 8) (val : Word) (pc : BitVec 32) : Carries s (s.takeTrap code val pc) := by
  unfold State.takeTrap
  split_ifs
  · exact (endTask_stopped ..).carries
  · exact (endTask_stopped ..).carries
  · exact ⟨rfl, rfl, rfl⟩

/-! ## A context revalidated (R61, R364) -/

theorem restoreMask_congr {s u : State} (hk : u.core.k = s.core.k) (hv : u.core.vtopo = s.core.vtopo) (ha : u.almanac = s.almanac)
    (hparts : u.parts = s.parts) (hpot : u.pot = s.pot) : u.restoreMask = s.restoreMask := by
  have hfields : u.restoreMask = State.restoreMask { s with
      core := { s.core with k := u.core.k, vtopo := u.core.vtopo }, almanac := u.almanac, parts := u.parts, pot := u.pot } := rfl
  rw [hfields, hk, hv, ha, hparts, hpot]

/-- A restored core that goes on, or takes REVOKED. -/
def State.revalidate (s : State) : State :=
  if s.restoreMask ≠ 0 ∨ s.core.revpend then State.takeTrap (s.mod fun c => { c with revpend := false }) 7 s.restoreMask s.core.pc else s

theorem revalidate_carries (s : State) : Carries s s.revalidate := by
  unfold State.revalidate
  split_ifs
  · obtain ⟨hcore, hsaved, hclusters⟩ := takeTrap_carries (s.mod fun c => { c with revpend := false }) 7 s.restoreMask s.core.pc
    exact ⟨hcore.trans rfl, hsaved, hclusters⟩
  · exact ⟨rfl, rfl, rfl⟩

theorem revalidate_goes {s : State} (hm : s.restoreMask = 0) (hr : s.core.revpend = false) : s.revalidate = s :=
  if_neg fun h => h.elim (fun h => h hm) fun h => Bool.false_ne_true (hr.symm.trans h)

theorem revalidate_traps {s : State} (h : s.restoreMask ≠ 0 ∨ s.core.revpend = true) (hi : s.core.inh = false) (ht : s.core.tvec ≠ 0) :
    let q := s.revalidate.core
    q.trapCause = 7 ∧ q.trapVal = s.restoreMask ∧ q.trapPc = s.core.pc &&& ~~~3 ∧ q.pc = s.core.tvec ∧ q.inh = true ∧ q.revpend = false := by
  have htrap : s.revalidate = { s with core := Core.enterTrap { s.core with revpend := false } s.now 7 s.restoreMask s.core.pc } := by
    refine (if_pos h).trans ((if_neg ?_).trans (if_neg ht))
    exact fun hh => Bool.false_ne_true (hi.symm.trans hh)
  rw [htrap]
  exact ⟨rfl, rfl, rfl, rfl, rfl, rfl⟩

/-! ## A change made on another core as the running one -/

/-- A core run in the place of the running one. -/
def State.runAs (s : State) (n : Nat) (c : Core) : State := { s with core := c, others := s.cores.filter fun x => x.phys ≠ n }

/-- The cores of a run change in their places, what the change adds after them. -/
def State.putCores (s u : State) : State :=
  { u with
    core := (u.coreAt s.core.phys).getD u.core
    others := (s.others.filterMap fun x => u.coreAt x.phys) ++ u.cores.filter fun x => !(s.cores.map Core.phys).contains x.phys }

theorem find?_eq_of_forall {α : Type} {p : α → Bool} {xs : List α} {q : α} (hall : ∀ x, x ∈ xs → p x = true → x = q)
    (hex : ∃ x, x ∈ xs ∧ p x = true) : xs.find? p = some q := by
  obtain ⟨x, hx⟩ := Option.isSome_iff_exists.mp (List.find?_isSome.mpr hex)
  rw [hx, hall x (List.mem_of_find?_eq_some hx) (List.find?_some hx)]

theorem coreAt_putCores {s u : State} {n : Nat} (hmem : ∃ x, x ∈ s.cores ∧ x.phys = n) (hn : u.core.phys = n) :
    (s.putCores u).coreAt n = some u.core := by
  have hu : u.coreAt n = some u.core := (congrArg u.coreAt hn.symm).trans (coreAt_running u)
  have hat : ∀ m q, u.coreAt m = some q → q.phys = n → q = u.core := fun m q hq hqn => by
    rw [(coreAt_phys hq).symm.trans hqn, hu] at hq
    exact (Option.some.inj hq).symm
  have hcores : (s.putCores u).cores = ((u.coreAt s.core.phys).getD u.core :: s.others.filterMap fun x => u.coreAt x.phys) ++
      u.cores.filter fun x => !(s.cores.map Core.phys).contains x.phys := rfl
  have hfirst : ((u.coreAt s.core.phys).getD u.core :: s.others.filterMap fun x => u.coreAt x.phys).find? (fun q => q.phys = n) =
      some u.core := by
    refine find?_eq_of_forall (fun q hq hqn => ?_) ⟨u.core, ?_, decide_eq_true hn⟩
    · rcases List.mem_cons.mp hq with rfl | hq
      · cases hv : u.coreAt s.core.phys with
        | none => rfl
        | some v =>
          rw [hv] at hqn
          exact hat _ v hv (of_decide_eq_true hqn)
      · obtain ⟨x, -, hx⟩ := List.mem_filterMap.mp hq
        exact hat _ q hx (of_decide_eq_true hqn)
    · obtain ⟨x, hx, hxn⟩ := hmem
      rcases List.mem_cons.mp hx with rfl | hx
      · rw [hxn, hu]
        exact List.mem_cons_self
      · exact List.mem_cons_of_mem _ (List.mem_filterMap.mpr ⟨x, hx, by rw [hxn, hu]⟩)
  rw [State.coreAt, hcores, List.find?_append, hfirst, Option.some_or]

section
variable {s : State} {n : Nat} {c : Core} {f : State → State}

theorem onCore_eq (hc : s.coreAt n = some c) : s.onCore n f = s.putCores (f (s.runAs n c)) := by
  unfold State.onCore
  rw [hc]
  rfl

theorem coreAt_onCore (hc : s.coreAt n = some c) (hphys : (f (s.runAs n c)).core.phys = n) :
    (s.onCore n f).coreAt n = some (f (s.runAs n c)).core :=
  (congrArg (State.coreAt · n) (onCore_eq hc)).trans
    (coreAt_putCores ⟨c, List.mem_of_find?_eq_some hc, coreAt_phys hc⟩ hphys)

theorem onCore_kept (hsaved : ∀ v, (f v).saved = v.saved) (hclusters : ∀ v, (f v).clusters = v.clusters) :
    (s.onCore n f).saved = s.saved ∧ (s.onCore n f).clusters = s.clusters := by
  cases hc : s.coreAt n with
  | none => unfold State.onCore; rw [hc]; exact ⟨rfl, rfl⟩
  | some c => rw [onCore_eq hc]; exact ⟨hsaved _, hclusters _⟩

end

/-! ## A context put back (R364, R365) -/

section
variable (s : State) (x : Saved)

/-- VTOPO of a context on the core it comes back to. -/
def State.topoFor : BitVec 64 :=
  ((mapGet s.parts x.core.partId).map fun p => p.vtopo x.core.partId (p.virt x.core.phys)).getD x.core.vtopo

/-- A saved core over the memories of the one it comes back to. -/
def State.restoredCore (c : Core) : Core :=
  { x.core.withMemories c with
    vtopo := s.topoFor x
    poolAt := s.poolBase x.core.partId x.core.vdie
    rows := [], rowReads := [], lastRow := none, jumped := false
    ctx := .starting, accNext := c.accNext, cmdNext := c.cmdNext, sweeps := c.sweeps, events := c.events
    nextIssue := s.now + 1 + Config.untimedDelay s.fv }

/-- A context back on its core, before its revalidation. -/
def State.putBack : State :=
  let s1 := (s.ensureCore x.core.phys).modAt x.core.phys fun c => s.restoredCore x c
  { s1 with saved := s1.saved.filter fun y => y.id ≠ x.id, fv := s1.fv + 1 }

theorem restoreNow_eq : s.restoreNow x = (s.putBack x).onCore x.core.phys State.revalidate := rfl

/-- The core of a context as it comes back. -/
def State.comesBack : Core := s.restoredCore x ((s.coreAt x.core.phys).getD (Core.initial x.core.phys))

theorem coreAt_putBack : (s.putBack x).coreAt x.core.phys = some (s.comesBack x) := by
  have hmod : (s.putBack x).coreAt x.core.phys =
      ((s.ensureCore x.core.phys).modAt x.core.phys fun c => s.restoredCore x c).coreAt x.core.phys := coreAt_congr rfl _
  rw [hmod, coreAt_modAt _ (by exact fun _ _ => rfl), if_pos rfl, coreAt_ensureCore, if_pos rfl]
  rfl

theorem ensureCore_kept (n : Nat) : let u := s.ensureCore n
    u.saved = s.saved ∧ u.clusters = s.clusters ∧ u.almanac = s.almanac ∧ u.parts = s.parts ∧ u.pot = s.pot := by
  unfold State.ensureCore
  split <;> exact ⟨rfl, rfl, rfl, rfl, rfl⟩

/-- The tokens that are stale as a context comes back. -/
def State.staleBack : Word := State.restoreMask { s with core := { x.core with vtopo := s.topoFor x } }

theorem restoreMask_putBack : ((s.putBack x).runAs x.core.phys (s.comesBack x)).restoreMask = s.staleBack x := by
  obtain ⟨-, -, ha, hparts, hpot⟩ := ensureCore_kept s x.core.phys
  exact restoreMask_congr rfl rfl ha hparts hpot

theorem restoreNow_kept : (s.restoreNow x).clusters = s.clusters ∧ (s.restoreNow x).saved = s.saved.filter fun y => y.id ≠ x.id := by
  obtain ⟨hsaved, hclusters⟩ := onCore_kept (s := s.putBack x) (n := x.core.phys) (f := State.revalidate)
    (fun v => (revalidate_carries v).saved) fun v => (revalidate_carries v).clusters
  obtain ⟨hsaved', hclusters', -⟩ := ensureCore_kept s x.core.phys
  rw [restoreNow_eq]
  exact ⟨hclusters.trans hclusters', hsaved.trans (congrArg (List.filter fun y : Saved => y.id ≠ x.id) hsaved')⟩

/-- What stands on the core of a context once it is back. -/
def State.backCore : Core := ((s.putBack x).runAs x.core.phys (s.comesBack x)).revalidate.core

theorem backCore_carried : (s.backCore x).carried = (s.comesBack x).carried := (revalidate_carries _).core

theorem coreAt_restoreNow : (s.restoreNow x).coreAt x.core.phys = some (s.backCore x) := by
  rw [restoreNow_eq]
  exact coreAt_onCore (coreAt_putBack s x) (congrArg Prod.fst (backCore_carried s x))

theorem backCore_goes (hm : s.staleBack x = 0) (hr : x.core.revpend = false) : s.backCore x = s.comesBack x := by
  rw [State.backCore, revalidate_goes ((restoreMask_putBack s x).trans hm) hr]
  rfl

theorem backCore_traps (h : s.staleBack x ≠ 0 ∨ x.core.revpend = true) (hi : x.core.inh = false) (ht : x.core.tvec ≠ 0) :
    let q := s.backCore x
    q.trapCause = 7 ∧ q.trapVal = s.staleBack x ∧ q.trapPc = x.core.pc &&& ~~~3 ∧ q.pc = x.core.tvec ∧ q.inh = true ∧ q.revpend = false := by
  have hmask := restoreMask_putBack s x
  have htraps := revalidate_traps (s := (s.putBack x).runAs x.core.phys (s.comesBack x)) (hmask ▸ h) hi ht
  rwa [hmask] at htraps

end

theorem restore_clusters (s : State) (x : Saved) : (s.restore x).clusters = s.clusters := by
  unfold State.restore
  split_ifs
  · exact (endTask_stopped ..).clusters
  · exact (restoreNow_kept s x).left

/-- On the core it was saved from, in a cluster that serves its partition, a context comes back as it stands. -/
theorem exec_contextRestore_here {s : State} {x : Saved} {n ctx : Nat} (hx : s.savedFor n ctx = some x)
    (hheld : s.restoreHeld n x = false) (hn : x.core.phys = n) (howner : (s.cluster (clusterOf n)).owner = some x.core.partId) :
    exec (.contextRestore n ctx) s = .next (s.restore x) := by
  have hbring : s.bring x (clusterOf n) = s := by
    unfold State.bring
    rw [hn]
    simp only [if_true]
    exact if_pos howner
  rw [exec_contextRestore, execContextRestore, hx]
  dsimp only
  rw [if_neg (by rw [hheld]; exact Bool.false_ne_true), hbring, hx]
  rfl

/-! ## A gang withdrawn (R150) -/

theorem cluster_withdrawGang (s : State) (k : Nat) : ((s.withdrawGang k).cluster k).gangSince = none := by
  let s1 := (s.modAll fun c => if clusterOf c.phys = k then { c with preempt := false } else c).modCluster k fun x =>
    { x with gangSince := none }
  have hfold : ((s.stoppedGang k).foldl (fun st x => if st.taskLive x.core.task then st.restore x else st) s1).clusters = s1.clusters := by
    refine List.foldlRecOn (motive := fun u : State => u.clusters = s1.clusters) (s.stoppedGang k) _ rfl fun u hu x _ => ?_
    split_ifs
    · exact (restore_clusters u x).trans hu
    · exact hu
  exact (congrArg Cluster.gangSince ((cluster_congr hfold k).trans (cluster_modCluster ..)) :)

theorem withdrawGang_cores {s : State} (k : Nat) (h : s.saved = []) :
    (s.withdrawGang k).cores = s.cores.map fun c => if clusterOf c.phys = k then { c with preempt := false } else c := by
  have hgang : s.stoppedGang k = [] := by rw [State.stoppedGang, h]; rfl
  unfold State.withdrawGang
  rw [hgang]
  rfl

/-- A core of a gang that has not stopped for the request. -/
def State.GangRuns (s : State) (k : Nat) : Prop := ∃ c, c ∈ s.cores ∧ c.Gang k ∧ c.preempt = true

theorem gangRuns_iff (s : State) (k : Nat) : s.GangRuns k ↔ (s.cores.any fun c => c.inGang k && c.preempt) = true := by
  simp only [State.GangRuns, List.any_eq_true, Bool.and_eq_true, inGang_iff]

section
variable {s : State} {k since : Nat} (hs : (s.cluster k).gangSince = some since)
include hs

theorem exec_gangWithdraw_runs (hdue : since + 8000000 ≤ s.now) (hsched : s.scheduling = true) (hw : s.gangWaits k = false)
    (hrun : s.GangRuns k) : exec (.gangWithdraw k) s = .next (s.withdrawGang k) := by
  rw [exec_gangWithdraw, execGangWithdraw, hs]
  dsimp only
  rw [if_neg (not_not.mpr ((gangRuns_iff s k).mp hrun)), if_pos ⟨hdue, hsched, by rw [hw]; exact Bool.false_ne_true⟩]

theorem exec_gangWithdraw_stopped (hrun : ¬s.GangRuns k) :
    exec (.gangWithdraw k) s = .next (s.modCluster k fun x => { x with gangSince := none }) := by
  have hstop := mt (gangRuns_iff s k).mpr hrun
  rw [exec_gangWithdraw, execGangWithdraw, hs]
  dsimp only
  rw [if_pos hstop, State.gangDone, if_neg hstop]

end

/-! ## A context saved (R363, R365) -/

section
variable (c : Core) (cnt : BitVec 12) (mask : BitVec 16)

/-- What a saved image keeps of its core. -/
theorem savedImage_kept : let y := c.savedImage cnt mask
    (y.phys, y.task, y.s, y.p, y.k, y.b, y.bc) = (c.phys, c.task, c.s, c.p, c.k, c.b, c.bc) ∧ y.path = c.advance.path ∧
      (y.calendar, y.tags, y.tagrev, y.curves, y.ctrsel, y.ctrval) = (c.calendar, c.tags, c.tagrev, c.curves, c.ctrsel, c.ctrval) ∧
      y.fmtstat = c.fmtLate.foldl (fun m z => m ||| z.2) c.fmtstat := by
  have hstill := c.still_advance
  have hregs := congrArg (fun k : Core => (k.phys, k.task, k.s, k.p, k.k, k.b, k.bc)) hstill
  have hrest := congrArg (fun k : Core => (k.calendar, k.tags, k.tagrev, k.curves, k.ctrsel, k.ctrval)) hstill
  have hfmt := congrArg (fun k : Core => k.fmtLate.foldl (fun m z => m ||| z.2) k.fmtstat) hstill
  exact ⟨hregs, rfl, hrest, hfmt⟩

/-- What a saved image takes anew. -/
theorem savedImage_anew : let y := c.savedImage cnt mask
    y.lan = Lantern.initial ∧ y.tiles = Vector.replicate 8 (Vector.replicate 128 0) ∧ y.vigil = cnt.setWidth 16 <<< 4 ∧ y.fmtLate = [] :=
  ⟨rfl, rfl, rfl, rfl⟩

/-- The vectors of the mask are saved, the others are zeros. -/
theorem savedImage_rv (r : BitVec 4) :
    (c.savedImage cnt mask).rv r = if mask.getLsbD r.toNat then c.rv r else Vector.replicate 1024 0 := by
  have hv : c.advance.v = c.v := (congrArg Core.v c.still_advance :)
  have hr : r.toNat < 16 := r.isLt
  have hget : (c.advance.v.toArray.getD r.toNat (Vector.replicate 1024 0) : VReg) = c.rv r := by
    rw [hv]
    simp [Core.rv, hr]
  have himage : (c.savedImage cnt mask).rv r =
      if mask.getLsbD r.toNat then c.advance.v.toArray.getD r.toNat (Vector.replicate 1024 0) else Vector.replicate 1024 0 := by
    simp [Core.savedImage, Core.rv, Core.finish]
  rw [himage, hget]

theorem vacant_fields : c.vacant.ctx = .idle ∧ (c.vacant.scr, c.vacant.wb, c.vacant.lanes) = (c.scr, c.wb, c.lanes) := ⟨rfl, rfl⟩

end

/-- A context saved, before the gang's request is looked at. -/
def State.saveContext (s : State) (cnt : BitVec 12) (mask : BitVec 16) : State :=
  { s.stopCancelled with
    saved := s.saved ++ [⟨s.seq, s.core.savedImage cnt mask, Config.choice s.fv⟩]
    core := s.core.vacant
    seq := s.seq + 1
    fv := s.fv + 1 }

section
variable {s : State} {cnt : BitVec 12} {mask : BitVec 16}

theorem exec_contextSave_drained (hcur : s.core.cur = some (.yield cnt mask)) (hw : s.core.waiting = .drain) (hctx : s.core.ctx = .running)
    (hp : s.core.preempt = true) (hd : s.core.dump = false) (hdr : s.core.drained = true) (hl : s.core.late = [])
    (hrep : s.core.reporting s.now = false) :
    exec .contextSave s = .next ((s.saveContext cnt mask).gangDone (clusterOf s.core.phys)) := by
  have hmask : s.core.saveMask s.now = some (cnt, mask) := by
    simp [Core.saveMask, hcur, hw, hctx, hp, hd, hdr, hl, hrep]
  rw [exec_contextSave, execContextSave, hmask]
  rfl

theorem gangDone_eq (s : State) (k : Nat) : ∃ cs, s.gangDone k = { s with clusters := cs } := by
  unfold State.gangDone
  split_ifs
  · exact ⟨s.clusters, rfl⟩
  · exact ⟨_, rfl⟩

theorem stopCancelled_none (h : s.core.stopAt = none) : s.stopCancelled = s := if_neg (by rw [h]; exact Bool.false_ne_true)

theorem stopCancelled_some {t : BitVec 56} (h : s.core.stopAt = some t) : s.stopCancelled =
    { s with fw := { s.fw with telemetryFlags := s.fw.telemetryFlags ++ [.stopCancelled s.core.phys] } } := if_pos (by rw [h]; rfl)

theorem stopCancelled_only (s : State) : { s.stopCancelled with fw := s.fw } = s := by
  unfold State.stopCancelled
  split_ifs <;> rfl

end

end Sys2Proof.Machine
end

section
/-! PROOF. The contexts of O54, from the rules above. -/

namespace Sys2Proof.Machine

/-- A started crew: each core loaded as R136 has it, and the task marked. -/
theorem imageLoad_starts {s s1 : State} {t : Task} {p : Partition} (ht : s.task? t.id = some t)
    (hprep : ImageReady s s1) (image : List Byte) :
    let u := s1.startCrew t p image Token.zero
    (u.task? t.id).map Task.loaded = some true ∧ ∀ r k, t.cores.Nodup → t.cores[r]? = some k → ∃ d, u.coreAt k = some d ∧
      Crewed t r d ∧ d.vtopo = p.vtopo t.part (p.virt k) ∧ d.poolAt = s.poolBase t.part (p.virt k / 64) ∧
      d.samplecfg = (mapGet p.sampling (p.virt k)).getD 0 ∧ d.k = Vector.replicate 16 Token.zero ∧ s.now < d.nextIssue ∧
      d.scr = memWrite (((s.coreAt k).map Core.scr).getD []) t.desc.load image := by
  obtain ⟨hnow, hpools, htasks, i, hcores⟩ := hprep
  have ht' : s1.task? t.id = some t := (task?_congr htasks t.id).trans ht
  refine ⟨congrArg (Option.map Task.loaded) (task?_startCrew ht'), fun r k hnd hk => ⟨_, coreAt_startCrew hnd hk, load_crewed .., ?_⟩⟩
  obtain ⟨htopo, hpool, hcfg, htok, hfirst, hscr⟩ := load_placed ((s1.coreAt k).getD (Core.initial k)) t r (p.vtopo t.part (p.virt k))
    ((mapGet p.sampling (p.virt k)).getD 0) (s1.poolBase t.part (p.virt k / 64)) image (s1.now + 1 + Config.untimedDelay (s1.fv + r))
  have hbase : s1.poolBase t.part (p.virt k / 64) = s.poolBase t.part (p.virt k / 64) := by
    rw [State.poolBase, State.poolOf?, hpools]
    rfl
  have hold : ((s1.coreAt k).getD (Core.initial k)).scr = ((s.coreAt k).map Core.scr).getD [] := by
    have hk1 : s1.coreAt k = (s.coreAt k).map fun c => c.forget i :=
      (coreAt_congr (u := s1) (s := s.modAll fun c => c.forget i) hcores k).trans (coreAt_modAll s (f := fun c => c.forget i) (fun _ => rfl) k)
    rw [hk1]
    cases s.coreAt k <;> rfl
  refine ⟨htopo, hpool.trans hbase, hcfg, htok, ?_, hscr.trans (congrArg (memWrite · t.desc.load image) hold)⟩
  rw [State.crewCore, hfirst, hnow]
  omega

/-- A pre-empting `yield` that has drained: its image is kept, its core stands empty. -/
theorem saveContext_saved (s : State) (cnt : BitVec 12) (mask : BitVec 16) :
    let u := s.saveContext cnt mask
    (s.core.stopAt = none → u.fw = s.fw) ∧
      (∀ t, s.core.stopAt = some t → u.fw = { s.fw with telemetryFlags := s.fw.telemetryFlags ++ [.stopCancelled s.core.phys] }) ∧
      { u with core := s.core, saved := s.saved, seq := s.seq, fv := s.fv, clusters := s.clusters, fw := s.fw } = s := by
  refine ⟨fun h => ?_, fun t h => ?_, ?_⟩
  · rw [State.saveContext, stopCancelled_none h]
  · rw [State.saveContext, stopCancelled_some h]
  · exact (congrArg (fun v : State => ({ v with core := s.core, saved := s.saved, seq := s.seq, fv := s.fv, clusters := s.clusters } : State))
      (stopCancelled_only s) :)

/-- A context comes back with its registers over the memories of its core. -/
theorem comesBack_fields (s : State) (x : Saved) : let q := s.comesBack x
    (q.s, q.v, q.p, q.k, q.b, q.bc, q.calendar, q.vigil, q.tags, q.vtopo) =
        (x.core.s, x.core.v, x.core.p, x.core.k, x.core.b, x.core.bc, x.core.calendar, x.core.vigil, x.core.tags, s.topoFor x) ∧
      (q.scr, q.wb, q.lanes) = ((s.coreAt x.core.phys).map fun k => (k.scr, k.wb, k.lanes)).getD ([], [], []) ∧
      q.poolAt = s.poolBase x.core.partId x.core.vdie ∧ q.ctx = .starting ∧ q.path = x.core.path ∧ s.now < q.nextIssue := by
  have hmem : let c := (s.coreAt x.core.phys).getD (Core.initial x.core.phys)
      (c.scr, c.wb, c.lanes) = ((s.coreAt x.core.phys).map fun k => (k.scr, k.wb, k.lanes)).getD ([], [], []) := by
    cases s.coreAt x.core.phys <;> rfl
  have hnext : s.now < s.now + 1 + Config.untimedDelay s.fv := by omega
  exact ⟨rfl, hmem, rfl, rfl, rfl, hnext⟩

/-- A damaged image ends its task, and F3 logs it (R365). -/
theorem restore_damaged {s : State} {x : Saved} {t : Task} (hdam : x.damaged = true) (ht : s.task? x.core.task = some t)
    (hend : t.ending = none) : TaskEnds t .fault x.core.rank x.core.pc s (s.restore x) ∧
      (s.restore x).fw.errors = s.fw.errors ++ [.restore x.core.task] := by
  have hid := task?_id ht
  have hrestore : s.restore x = State.endTask { s with fw := { s.fw with errors := s.fw.errors ++ [F3Entry.restore x.core.task] } }
      x.core.task .fault 0 x.core.rank x.core.pc := if_pos hdam
  rw [hrestore, ← hid]
  have ht' : ({ s with fw := { s.fw with errors := s.fw.errors ++ [F3Entry.restore t.id] } } : State).task? t.id = some t :=
    (task?_congr rfl t.id).trans (hid ▸ ht)
  exact ⟨(endTask_ends ht' hend ..).of rfl rfl rfl, (endTask_stopped ..).errors⟩

/-- Settles O54: the load of the image by F2's steps, the limit and the damaged image by the end of a task, the gang by its request,
the context by its image. -/
theorem contexts : Obligations.Contexts := by
  intro task cluster n ctx cnt mask t p x s
  refine ⟨fun ht hend hload hl hp => ?_, fun r first ht hend hst h0 hover hsched hr hrun hlow => ?_, fun hgang => ?_,
    fun since hsince hdue hsched hw => ?_, fun hcur hw hctx hpre hd hdr hlate hrep => ?_, fun hx hheld hn howner => ?_⟩
  · obtain rfl := task?_id ht
    refine ⟨fun tok s1 hsweep hf => ?_, fun code at' hplan h6 => ?_⟩
    · have hfilled : Filled s s1 t p tok := ⟨hl, hp, hsweep, hf⟩
      refine ⟨fun hpoison => ?_, fun hpoison hmac => ?_, fun hpoison hmac => ?_⟩
      · exact ⟨_, exec_imageLoad_step ht hend hload (loadStep_poisoned hfilled hpoison), endTask_ends ht hend ..⟩
      · obtain ⟨line, hline⟩ := Option.ne_none_iff_exists'.mp hmac
        exact ⟨_, exec_imageLoad_step ht hend hload (loadStep_badMac hfilled hpoison hline), logIntegrity_endTask_ends ht hend ..⟩
      · obtain ⟨hloaded, hcrew⟩ := imageLoad_starts (p := p) ht
          (imageRead_ready (fillFor_ready hf) tok (s1.entry tok.index.toNat) t.desc.imgVa t.desc.imgLen)
          (s.imageOf t (s1.entry tok.index.toNat))
        refine ⟨_, exec_imageLoad_step ht hend hload (loadStep_starts hfilled hpoison hmac), hloaded, fun r k hnd hk => ?_⟩
        obtain ⟨d, hd, h, htopo, hpool, hcfg, htok, hfirst, hscr⟩ := hcrew r k hnd hk
        have hlen : (s.imageBytes (s1.entry tok.index.toNat) t.desc.imgVa t.desc.imgLen).length = t.desc.imgLen := by
          rw [State.imageBytes, List.length_map, List.length_range]
        exact ⟨d, hd, h.ctx, h.task, h.pc, h.sp, h.rs, h.tvec, h.sbase, h.slimit, h.crew, htopo, hpool, hcfg, htok, h.v, h.calendar,
          h.vigil, h.tags, h.tagrev, h.waitcfg, h.inh, h.lan, h.tiles, hfirst, hlen, hscr⟩
    · exact ⟨_, exec_imageLoad_step ht hend hload (loadStep_deliver hl (resolve_fault h6 hplan)), endTask_ends ht hend ..⟩
  · obtain rfl := task?_id ht
    exact ⟨_, exec_tlimitExpiry_over ht hend hst h0 hover hsched hr hrun hlow, endTask_ends ht hend ..⟩
  · exact ⟨_, exec_preemptionRequest_gang hgang, fun i k hk => askStop_cores hk, congrArg Cluster.gangSince (cluster_modCluster ..),
      fun j hj => cluster_modCluster_ne _ _ _ hj, rfl⟩
  · by_cases hrun : s.GangRuns cluster
    · exact ⟨_, exec_gangWithdraw_runs hsince hdue hsched hw hrun, cluster_withdrawGang s cluster, fun _ hs => withdrawGang_cores cluster hs⟩
    · exact ⟨_, exec_gangWithdraw_stopped hsince hrun, congrArg Cluster.gangSince (cluster_modCluster ..), fun hg _ => absurd hg hrun⟩
  · obtain ⟨cs, hcs⟩ := gangDone_eq (s.saveContext cnt mask) (clusterOf s.core.phys)
    obtain ⟨hregs, hpath, hrest, hfmt⟩ := savedImage_kept s.core cnt mask
    obtain ⟨hlan, htiles, hvigil, hfmtLate⟩ := savedImage_anew s.core cnt mask
    obtain ⟨hidle, hmem⟩ := vacant_fields s.core
    obtain ⟨hfw, hfw', hout⟩ := saveContext_saved s cnt mask
    refine ⟨_, _, (exec_contextSave_drained hcur hw hctx hpre hd hdr hlate hrep).trans (congrArg _ hcs), rfl, rfl, hregs,
      savedImage_rv s.core cnt mask, hpath, hlan, htiles, hvigil, hfmt, hfmtLate, hrest, hidle, hmem, hfw, hfw', hout⟩
  · subst hn
    have hexec := exec_contextRestore_here hx hheld rfl howner
    refine ⟨fun hdam => ?_, fun hdam ht hend => ?_⟩
    · have hnow : s.restore x = s.restoreNow x := if_neg (by rw [hdam]; exact Bool.false_ne_true)
      have hid : x.id = ctx := by
        have hfound := List.find?_some hx
        simp only [Bool.and_eq_true, decide_eq_true_eq] at hfound
        exact hfound.left
      obtain ⟨hregs, hmem, hpool, hctx, hpath, hnext⟩ := comesBack_fields s x
      have hcarried := backCore_carried s x
      have hregs' := (congrArg (fun k => k.2.1) hcarried).trans hregs
      have hmem' := (congrArg (fun k => k.2.2.1) hcarried).trans hmem
      have hpool' := (congrArg (fun k => k.2.2.2) hcarried).trans hpool
      refine ⟨_, s.backCore x, hexec.trans (congrArg _ hnow), coreAt_restoreNow s x, fun y hy => ?_, hregs', hmem', hpool',
        fun hm hr => ?_, fun hm hi ht => backCore_traps s x hm hi ht⟩
      · rw [(restoreNow_kept s x).right] at hy
        rw [← hid]
        exact of_decide_eq_true (List.mem_filter.mp hy).right
      · rw [backCore_goes s x hm hr]
        exact ⟨hctx, hpath, hnext⟩
    · obtain ⟨hends, herrors⟩ := restore_damaged hdam ht hend
      exact ⟨⟨_, hexec, hends⟩, _, hexec, herrors⟩

end Sys2Proof.Machine
end

section
/-! SUPPORT. Rounding (00 R11, 08 R160, R164). -/

namespace Sys2Proof.Machine

/-! ## Powers of two and binary logarithms -/

theorem pow2_eq_zpow (k : Int) : pow2 k = (2 : Rat) ^ k := by
  unfold pow2
  split_ifs with h
  · obtain ⟨n, rfl⟩ := Int.eq_ofNat_of_zero_le h
    push_cast
    rfl
  · obtain ⟨n, hn⟩ := Int.eq_ofNat_of_zero_le (a := -k) (by omega)
    obtain rfl : k = -n := by omega
    rw [Rat.mkRat_eq_div, neg_neg, zpow_neg]
    simp

theorem pow2_pos (k : Int) : 0 < pow2 k := by
  rw [pow2_eq_zpow]
  exact zpow_pos two_pos k

theorem pow2_add (j k : Int) : pow2 (j + k) = pow2 j * pow2 k := by
  simp only [pow2_eq_zpow, zpow_add₀ (two_ne_zero (α := Rat))]

theorem pow2_natCast (n : Nat) : pow2 n = (2 : Rat) ^ n := by rw [pow2_eq_zpow, zpow_natCast]

theorem pow2_le_pow2 {j k : Int} (h : j ≤ k) : pow2 j ≤ pow2 k := by
  rw [pow2_eq_zpow, pow2_eq_zpow]
  exact zpow_le_zpow_right₀ one_le_two h

theorem lt_of_pow2_lt {j k : Int} (h : pow2 j < pow2 k) : j < k :=
  not_le.mp fun hkj => absurd (pow2_le_pow2 hkj) (not_le.mpr h)

/-- A rational within a factor of two either way of 2^(its numerator's logarithm less its denominator's). -/
theorem ratLog2_estimate {q : Rat} (h : 0 < q) :
    let e : Int := (Nat.log2 q.num.natAbs : Int) - (Nat.log2 q.den : Int)
    pow2 (e - 1) ≤ q ∧ q < pow2 (e + 1) := by
  intro e
  have hnum : 0 < q.num := Rat.num_pos.mpr h
  have hn : (q.num.natAbs : Rat) = q.num := by
    rw [← Int.cast_natCast, Int.natAbs_of_nonneg hnum.le]
  have hden : (0 : Rat) < q.den := by exact_mod_cast q.den_pos
  have hq : q * q.den = (q.num.natAbs : Rat) := by rw [hn, Rat.mul_den_eq_num]
  have hnlo : pow2 (Nat.log2 q.num.natAbs) ≤ (q.num.natAbs : Rat) := by
    rw [pow2_natCast]; exact_mod_cast Nat.log2_self_le (by omega)
  have hnhi : (q.num.natAbs : Rat) < pow2 (Nat.log2 q.num.natAbs + 1) := by
    rw [← Nat.cast_succ, pow2_natCast]; exact_mod_cast Nat.lt_log2_self
  have hdlo : pow2 (Nat.log2 q.den) ≤ (q.den : Rat) := by
    rw [pow2_natCast]; exact_mod_cast Nat.log2_self_le q.den_pos.ne'
  have hdhi : (q.den : Rat) < pow2 (Nat.log2 q.den + 1) := by
    rw [← Nat.cast_succ, pow2_natCast]; exact_mod_cast Nat.lt_log2_self
  constructor
  · refine le_of_mul_le_mul_right ?_ hden
    calc pow2 (e - 1) * q.den ≤ pow2 (e - 1) * pow2 (Nat.log2 q.den + 1) := by gcongr; exact (pow2_pos _).le
      _ = pow2 (Nat.log2 q.num.natAbs) := by rw [← pow2_add]; congr 1; omega
      _ ≤ q * q.den := hq ▸ hnlo
  · refine lt_of_mul_lt_mul_right ?_ hden.le
    calc q * q.den < pow2 (Nat.log2 q.num.natAbs + 1) := hq ▸ hnhi
      _ = pow2 (e + 1) * pow2 (Nat.log2 q.den) := by rw [← pow2_add]; congr 1; omega
      _ ≤ pow2 (e + 1) * q.den := by gcongr; exact (pow2_pos _).le

theorem ratLog2_spec {q : Rat} (h : 0 < q) : pow2 (ratLog2 q) ≤ q ∧ q < pow2 (ratLog2 q + 1) := by
  obtain ⟨hlo, hhi⟩ := ratLog2_estimate h
  unfold ratLog2
  dsimp only
  split_ifs with hbelow habove
  · rw [sub_add_cancel]
    exact ⟨hlo, hbelow⟩
  · exact absurd hhi (not_lt.mpr habove)
  · exact ⟨not_lt.mp hbelow, not_le.mp habove⟩

theorem ratLog2_lt {q : Rat} (h : 0 < q) {k : Int} (hk : q < pow2 k) : ratLog2 q < k :=
  lt_of_pow2_lt ((ratLog2_spec h).1.trans_lt hk)

theorem le_ratLog2 {q : Rat} (h : 0 < q) {k : Int} (hk : pow2 k ≤ q) : k ≤ ratLog2 q :=
  Int.lt_add_one_iff.mp (lt_of_pow2_lt (hk.trans_lt (ratLog2_spec h).2))

/-! ## Rounding to an integer (R11) -/

theorem roundMagNat_natCast (mode : RMode) (neg : Bool) (n : Nat) : roundMagNat mode neg n = n := by
  unfold roundMagNat
  simp [Nat.mod_one]

/-- Rounding does not pass an integer. -/
theorem roundMagNat_le (mode : RMode) (neg : Bool) {q : Rat} {n : Nat} (h0 : 0 ≤ q) (h : q ≤ n) : roundMagNat mode neg q ≤ n := by
  have hnum : q.num.natAbs ≤ n * q.den := by
    have hmul : q * q.den ≤ n * q.den := by gcongr
    rw [Rat.mul_den_eq_num] at hmul
    have : q.num ≤ ((n * q.den : Nat) : Int) := by exact_mod_cast hmul
    have := Rat.num_nonneg.mpr h0
    omega
  have hlo : q.num.natAbs / q.den ≤ n := Nat.div_le_of_le_mul (by rwa [Nat.mul_comm])
  have hup : q.num.natAbs % q.den ≠ 0 → q.num.natAbs / q.den + 1 ≤ n := fun hr => by
    have hdiv := Nat.div_add_mod q.num.natAbs q.den
    refine Nat.lt_of_mul_lt_mul_left (a := q.den) ?_
    rw [Nat.mul_comm q.den n]
    omega
  unfold roundMagNat
  dsimp only
  split_ifs with hr hmode
  · exact hlo
  · exact hup hr
  · exact hlo

theorem roundInt_toNat_le (mode : RMode) {q : Rat} {n : Nat} (h0 : 0 ≤ q) (h : q ≤ n) : (roundInt mode q).toNat ≤ n := by
  unfold roundInt
  dsimp only
  rw [if_neg (not_lt.mpr h0), Int.toNat_natCast, abs_of_nonneg h0]
  exact roundMagNat_le _ _ h0 h

/-! ## The value of a code, rounded (R11, R160) -/

theorem FFmt.mag_pos (f : FFmt) {m : Nat} (h : 0 < m) : 0 < f.mag m := by
  unfold FFmt.mag
  split_ifs
  · exact mul_pos (by exact_mod_cast h) (pow2_pos _)
  · exact mul_pos (by exact_mod_cast Nat.add_pos_left (Nat.two_pow_pos _) _) (pow2_pos _)

/-- A multiple of the unit that a magnitude is rounded in is met exactly. -/
theorem FFmt.roundMag_exact (f : FFmt) (mode : RMode) (neg : Bool) {q : Rat} {e : Int} {n : Nat} (he : max (ratLog2 q) f.emin = e)
    (hq : q = n * pow2 (e - f.fb)) : f.roundMag mode neg q = (e - f.emin).toNat * 2 ^ f.fb + n := by
  unfold FFmt.roundMag
  rw [he]
  dsimp only
  rw [hq, mul_div_assoc, div_self (pow2_pos _).ne', mul_one, roundMagNat_natCast]

/-- A subnormal magnitude. -/
theorem FFmt.mag_subnormal (f : FFmt) {m : Nat} (h : m < 2 ^ f.fb) : f.mag m = m * pow2 (f.emin - f.fb) :=
  if_pos (Nat.div_eq_of_lt h)

/-- A normal magnitude, of exponent field k + 1 and fraction r. -/
theorem FFmt.mag_normal (f : FFmt) {k r : Nat} (h : r < 2 ^ f.fb) :
    f.mag ((k + 1) * 2 ^ f.fb + r) = ((2 ^ f.fb + r : Nat) : Rat) * pow2 (k + f.emin - f.fb) := by
  have hdiv : ((k + 1) * 2 ^ f.fb + r) / 2 ^ f.fb = k + 1 := by
    rw [Nat.mul_comm, Nat.mul_add_div (Nat.two_pow_pos _), Nat.div_eq_of_lt h, Nat.add_zero]
  have hmod : ((k + 1) * 2 ^ f.fb + r) % 2 ^ f.fb = r := by
    rw [Nat.mul_comm, Nat.mul_add_mod, Nat.mod_eq_of_lt h]
  unfold FFmt.mag
  rw [hdiv, hmod, if_neg (Nat.succ_ne_zero k)]
  congr 2
  omega

theorem FFmt.roundMag_mag_subnormal (f : FFmt) (mode : RMode) (neg : Bool) {m : Nat} (h0 : 0 < m) (h : m < 2 ^ f.fb) :
    f.roundMag mode neg (f.mag m) = m := by
  have hq := f.mag_subnormal h
  have hm : (m : Rat) < pow2 f.fb := by rw [pow2_natCast]; exact_mod_cast h
  have hlog : ratLog2 (f.mag m) < f.emin := by
    refine ratLog2_lt (f.mag_pos h0) ?_
    calc f.mag m < pow2 f.fb * pow2 (f.emin - f.fb) := by rw [hq]; gcongr; exact pow2_pos _
      _ = pow2 f.emin := by rw [← pow2_add]; congr 1; omega
  rw [f.roundMag_exact mode neg (max_eq_right hlog.le) hq, Int.sub_self, Int.toNat_zero, Nat.zero_mul, Nat.zero_add]

theorem FFmt.roundMag_mag_normal (f : FFmt) (mode : RMode) (neg : Bool) {k r : Nat} (h : r < 2 ^ f.fb) :
    f.roundMag mode neg (f.mag ((k + 1) * 2 ^ f.fb + r)) = (k + 1) * 2 ^ f.fb + r := by
  have hq := f.mag_normal (k := k) h
  have hpos : 0 < f.mag ((k + 1) * 2 ^ f.fb + r) := f.mag_pos (Nat.add_pos_left (Nat.mul_pos k.succ_pos (Nat.two_pow_pos _)) r)
  have hlo : pow2 f.fb ≤ ((2 ^ f.fb + r : Nat) : Rat) := by
    rw [pow2_natCast]
    exact_mod_cast Nat.le_add_right _ _
  have hhi : ((2 ^ f.fb + r : Nat) : Rat) < pow2 (f.fb + 1) := by
    rw [← Nat.cast_succ, pow2_natCast]
    exact_mod_cast (by rw [pow_succ]; omega : 2 ^ f.fb + r < 2 ^ (f.fb + 1))
  have hlog : ratLog2 (f.mag ((k + 1) * 2 ^ f.fb + r)) = k + f.emin := by
    refine le_antisymm (Int.lt_add_one_iff.mp (ratLog2_lt hpos ?_)) (le_ratLog2 hpos ?_)
    · calc _ < pow2 (f.fb + 1) * pow2 (k + f.emin - f.fb) := by rw [hq]; gcongr; exact pow2_pos _
        _ = _ := by rw [← pow2_add]; congr 1; omega
    · calc pow2 (k + f.emin) = pow2 f.fb * pow2 (k + f.emin - f.fb) := by rw [← pow2_add]; congr 1; omega
        _ ≤ _ := by rw [hq]; gcongr; exact (pow2_pos _).le
  rw [f.roundMag_exact mode neg (by omega : max _ f.emin = k + f.emin) hq, Int.add_sub_cancel, Int.toNat_natCast, Nat.succ_mul,
    Nat.add_assoc]

/-- Rounding the magnitude of a code gives the code. -/
theorem FFmt.roundMag_mag (f : FFmt) (mode : RMode) (neg : Bool) {m : Nat} (h : 0 < m) : f.roundMag mode neg (f.mag m) = m := by
  by_cases hsub : m < 2 ^ f.fb
  · exact f.roundMag_mag_subnormal mode neg h hsub
  · obtain ⟨k, hk⟩ := Nat.exists_eq_succ_of_ne_zero (Nat.div_ne_zero_iff.mpr ⟨(Nat.two_pow_pos f.fb).ne', not_lt.mp hsub⟩)
    have hm : (k + 1) * 2 ^ f.fb + m % 2 ^ f.fb = m := by rw [← Nat.succ_eq_add_one, ← hk, Nat.div_add_mod']
    rw [← hm]
    exact f.roundMag_mag_normal mode neg (Nat.mod_lt m (Nat.two_pow_pos f.fb))

/-- A code is its sign and its magnitude. -/
theorem FFmt.code_parts (f : FFmt) {x : Nat} (hw : 0 < f.width) (h : x < 2 ^ f.width) :
    f.code (decide (2 ^ (f.width - 1) ≤ x % 2 ^ f.width)) (x % 2 ^ (f.width - 1)) = x := by
  have htop : 2 ^ f.width = 2 ^ (f.width - 1) + 2 ^ (f.width - 1) := by
    rw [← Nat.two_mul, ← Nat.pow_succ', Nat.succ_eq_add_one, Nat.sub_add_cancel hw]
  unfold FFmt.code
  simp only [Nat.mod_eq_of_lt h, decide_eq_true_eq]
  split_ifs with hneg
  · rw [Nat.mod_eq_sub_mod hneg, Nat.mod_eq_of_lt (by omega)]
    omega
  · exact Nat.mod_eq_of_lt (not_le.mp hneg)

/-- Rounding the value of a code gives the code. -/
theorem FFmt.round_val (f : FFmt) (mode : RMode) {x : Nat} (hw : 0 < f.width) (h : x < 2 ^ f.width) (hv : f.val x ≠ .nan) :
    f.round mode (f.val x) = x := by
  have hx := f.code_parts hw h
  unfold FFmt.val at hv ⊢
  dsimp only at hv ⊢
  generalize decide (2 ^ (f.width - 1) ≤ x % 2 ^ f.width) = neg at *
  generalize x % 2 ^ (f.width - 1) = m at *
  subst hx
  split_ifs at hv ⊢ with h0 hmax hneg hinf
  · subst h0
    rfl
  · have hlt : -f.mag m < 0 := neg_lt_zero.mpr (f.mag_pos (Nat.pos_of_ne_zero h0))
    simp only [FFmt.round, hlt, decide_true, abs_neg, abs_of_pos (neg_lt_zero.mp hlt), f.roundMag_mag mode _ (Nat.pos_of_ne_zero h0),
      if_pos hmax, hneg]
  · have hlt := f.mag_pos (Nat.pos_of_ne_zero h0)
    simp only [FFmt.round, not_lt.mpr hlt.le, decide_false, abs_of_pos hlt, f.roundMag_mag mode _ (Nat.pos_of_ne_zero h0),
      if_pos hmax, hneg]
  · simp only [FFmt.round, hinf, Option.getD_some]
  · exact absurd rfl hv

/-- An FP32 element rounds to itself (R11, R164). -/
theorem toF32_f32 (mode : RMode) {x : BitVec 32} (h : f32 x ≠ .nan) : toF32 mode (f32 x) = x := by
  unfold toF32
  exact (congrArg (BitVec.ofNat 32) (fp32.round_val mode (by decide) x.isLt h)).trans (BitVec.ofNat_toNat ..)

theorem toF32_nan (mode : RMode) : toF32 mode .nan = nan32 := rfl

end Sys2Proof.Machine
end

section
/-! SUPPORT. Vector results written whole, and FMTSTAT bits that are to be set with them (08 R181, 12 R264, R289, R290). -/

namespace Sys2Proof.Machine

/-! ## FMTSTAT bits to be set (R181) -/

/-- A bit of a union of flags. -/
theorem getLsbD_foldl_or {α : Type} {w : Nat} (f : α → BitVec w) (xs : List α) (b : BitVec w) (j : Nat) :
    (xs.foldl (fun acc y => acc ||| f y) b).getLsbD j = true ↔ b.getLsbD j = true ∨ ∃ y ∈ xs, (f y).getLsbD j = true := by
  induction xs generalizing b with
  | nil => simp
  | cons x xs ih => rw [List.foldl_cons, ih, BitVec.getLsbD_or, Bool.or_eq_true, or_assoc, List.exists_mem_cons_iff]

theorem getLsbD_flagsOf (g : PReg) (f : Nat → Nat → BitVec 5) (j : Nat) : (flagsOf g f).getLsbD j = true ↔
    ∃ r k, r < 16 ∧ k < 64 ∧ g.bit r k = true ∧ (f r k).getLsbD j = true := by
  have hfold : flagsOf g f = (List.range 1024).foldl
      (fun acc i => acc ||| if g.bit (i / 64) (i % 64) then f (i / 64) (i % 64) else 0#5) 0#5 := by
    unfold flagsOf
    refine congrArg (fun h => List.foldl h 0#5 (List.range 1024)) (funext₂ fun acc i => ?_)
    split_ifs
    · rfl
    · rw [BitVec.or_zero]
  have hbit (i : Nat) : (if g.bit (i / 64) (i % 64) then f (i / 64) (i % 64) else 0#5).getLsbD j = true ↔
      g.bit (i / 64) (i % 64) = true ∧ (f (i / 64) (i % 64)).getLsbD j = true := by
    split_ifs with h <;> simp [h]
  rw [hfold, getLsbD_foldl_or]
  simp only [BitVec.getLsbD_zero, Bool.false_eq_true, false_or, List.mem_range, hbit]
  constructor
  · rintro ⟨i, hi, hg, hf⟩
    exact ⟨i / 64, i % 64, by omega, Nat.mod_lt i (by decide), hg, hf⟩
  · rintro ⟨r, k, hr, hk, hg, hf⟩
    have hdiv : (64 * r + k) / 64 = r := by omega
    have hmod : (64 * r + k) % 64 = k := by omega
    exact ⟨64 * r + k, by omega, by rw [hdiv, hmod]; exact ⟨hg, hf⟩⟩

/-! ## Vector results that are written whole, and those with flags to come -/

section
variable {s : State} {f : Core → Core} (hk : Keeps s.core (f s.core)) (hs : (f s.core).still = s.core.still)
include hk hs

theorem onlyVector_putV (d : BitVec 4) (x : Core → VReg) (lat : Nat) :
    let t := retireWith s fun c => (f c).putV d (x c) s.now lat
    t.core.rv d = x s.core ∧ OnlyVector d s t := by
  have hv : (f s.core).v = s.core.v := (congrArg Core.v hs :)
  refine ⟨(Core.retire_rv ..).trans (putV_rv (f s.core) d (x s.core) s.now lat), onlyVector_of (hk.trans (keeps_putV ..))
    (still_v_back ((still_putV ..).trans (by rw [hs]))) fun r h => (putV_rv_ne _ _ _ _ _ _ h).trans ?_⟩
  unfold Core.rv
  rw [hv]

/-- With FMTSTAT bits to be set on the cycle of the result. -/
theorem onlyVectorFlags_putV (d : BitVec 4) (x : Core → VReg) (lat n : Nat) (bits : Core → BitVec 5) :
    let t := retireWith s fun c => ((f c).putV d (x c) s.now lat).fmtLater n (bits c)
    t.core.rv d = x s.core ∧ t.core.fmtLate = s.core.fmtLate ++ [(n, bits s.core)] ∧ OnlyVectorFlags d s t := by
  have hv : (f s.core).v = s.core.v := (congrArg Core.v hs :)
  have hkeeps := (hk.trans (keeps_putV _ d (x s.core) s.now lat)).trans (keeps_fmtLater _ n (bits s.core))
  have hstill : (((f s.core).putV d (x s.core) s.now lat).fmtLater n (bits s.core)).still = { s.core.still with
      v := (((f s.core).unmark (vr d)).wv d (x s.core)).v, fmtLate := s.core.fmtLate ++ [(n, bits s.core)] } := by
    have hlate : (f s.core).fmtLate = s.core.fmtLate := (congrArg Core.fmtLate hs :)
    show { ((f s.core).putV d (x s.core) s.now lat).still with fmtLate := (f s.core).fmtLate ++ [(n, bits s.core)] } = _
    rw [still_putV, hs, hlate]
  have hretire := (Core.still_retire (((f s.core).putV d (x s.core) s.now lat).fmtLater n (bits s.core)) s.now).trans hstill
  refine ⟨(Core.retire_rv ..).trans (putV_rv (f s.core) d (x s.core) s.now lat), (congrArg Core.fmtLate hretire :), fun r h => ?_, ?_,
    rfl, bytes_of hkeeps, retires_of hkeeps⟩
  · refine (Core.retire_rv ..).trans ((putV_rv_ne (f s.core) _ _ _ s.now lat h).trans ?_)
    unfold Core.rv
    rw [hv]
  · rw [retireWith_core, hretire]
    rfl

end

/-- A conversion: its elements, its flags and its frame. -/
theorem vecFlag_completes {i : Instr} {d a : BitVec 4} {p : BitVec 3} {f : BitVec 32 → BitVec 32 × BitVec 5} {s : State}
    (he : exec i s = vecFlag i d a p f s) : Completes i s fun t =>
      (∀ r k, r < 16 → k < 64 → (t.core.rv d).get r k =
        if (s.core.rp p).bit r k then (f ((s.core.rv a).get r k)).1 else (s.core.rv d).get r k) ∧
      (∃ bits, t.core.fmtLate = s.core.fmtLate ++ [(s.now + 6, bits)] ∧ ∀ j, j < 5 → (bits.getLsbD j = true ↔
        ∃ r k, r < 16 ∧ k < 64 ∧ (s.core.rp p).bit r k = true ∧ (f ((s.core.rv a).get r k)).2.getLsbD j = true)) ∧
      OnlyVectorFlags d s t := by
  intro hg
  obtain ⟨hrv, hlate, honly⟩ := onlyVectorFlags_putV (f := fun c => c.useVec s.now (vecOcc i)) (keeps_useVec s.core ..)
    (still_useVec ..) d (fun c => guarded (c.rp p) (c.rv d) fun r k => (f ((c.rv a).get r k)).1) 6 (s.now + 6)
    fun c => flagsOf (c.rp p) fun r k => (f ((c.rv a).get r k)).2
  refine ⟨_, he.trans (withGate_go hg), fun r k hr hk => ?_, ⟨_, hlate, fun j _ => getLsbD_flagsOf ..⟩, honly⟩
  exact (congrArg (VReg.get · r k) hrv).trans (get_guarded _ _ _ hr hk)

/-! ## `vqnt` and `vdqnt` (R289, R290) -/

/-- The core before the result of a quantisation is written: the last cycle of one noted, the unit in use (R266). -/
def Core.quantising (c : Core) (now lat occ : Nat) : Core := { c with quantDone := max c.quantDone (now + lat) }.useVec now occ

theorem keeps_quantising (c : Core) (now lat occ : Nat) : Keeps c (c.quantising now lat occ) := ⟨rfl, rfl, rfl, rfl, rfl, rfl⟩

theorem still_quantising (c : Core) (now lat occ : Nat) : (c.quantising now lat occ).still = c.still := rfl

/-- The register that `vqnt` writes (R289). -/
def Core.quantised (c : Core) (a : BitVec 4) (t : BitVec 2) (f : BitVec 4) : VReg :=
  VReg.of fun r k => match ((List.range 16).map (quantRow c.curves[t.toNat] f.toNat (c.rv a)))[r]? with
    | some y => packedElem (fmtWidth f.toNat) y.1 y.2.1 y.2.2.1 k
    | none => 0

/-- The FMTSTAT bits of the rows of `vqnt` (R181). -/
def Core.quantFlags (c : Core) (a : BitVec 4) (t : BitVec 2) (f : BitVec 4) : BitVec 5 :=
  ((List.range 16).map (quantRow c.curves[t.toNat] f.toNat (c.rv a))).foldl (fun acc y => acc ||| y.2.2.2) 0

theorem vqnt_completes (d a : BitVec 4) (t : BitVec 2) (f : BitVec 4) (s : State) : Completes (.vqnt d a t f) s fun u =>
    u.core.rv d = s.core.quantised a t f ∧ u.core.fmtLate = s.core.fmtLate ++ [(s.now + 14, s.core.quantFlags a t f)] ∧
    OnlyVectorFlags d s u := fun hg =>
  ⟨_, (exec_vqnt d a t f s).trans (withGate_go hg), onlyVectorFlags_putV (f := fun c => c.quantising s.now 14 8)
    (keeps_quantising s.core ..) (still_quantising ..) d (fun c => c.quantised a t f) 14 (s.now + 14) fun c => c.quantFlags a t f⟩

theorem vdqnt_puts (d a : BitVec 4) (t : BitVec 2) (f : BitVec 4) (s : State) : PutsVector (.vdqnt d a t f) d 0 s fun r k =>
    toF32 .rne (scaledVal s.core.curves[t.toNat] f.toNat (packedCode (s.core.rv a) f.toNat r k).1
      (packedCode (s.core.rv a) f.toNat r k).2) := by
  intro hg
  obtain ⟨hrv, honly⟩ := onlyVector_putV (f := fun c => c.quantising s.now 8 4) (keeps_quantising s.core ..) (still_quantising ..) d
    (fun c => VReg.of fun r k => toF32 .rne (scaledVal c.curves[t.toNat] f.toNat (packedCode (c.rv a) f.toNat r k).1
      (packedCode (c.rv a) f.toNat r k).2)) 8
  refine ⟨_, (exec_vdqnt d a t f s).trans (withGate_go hg), fun r k hr hk => ?_, honly⟩
  rw [if_pos (PReg.bit_p0 s.core hr hk)]
  exact (congrArg (VReg.get · r k) hrv).trans (VReg.get_of _ hr hk)

end Sys2Proof.Machine
end

section
/-! PROOF. The floating vector results of O40: the forms by their own equations, and the special inputs of the special functions. -/

namespace Sys2Proof.Machine

/-! ## The special inputs of the special functions (R285) -/

theorem f32_one : f32 0x3F800000 = .num 1 := by
  show fp32.val 0x3F800000 = _
  norm_num [FFmt.val, FFmt.mag, fp32, pow2_eq_zpow]

theorem f32_neg_one : f32 0xBF800000 = .num (-1) := by
  show fp32.val 0xBF800000 = _
  norm_num [FFmt.val, FFmt.mag, fp32, pow2_eq_zpow]

theorem f32_half : f32 0x3F000000 = .num (mkRat 1 2) := by
  show fp32.val 0x3F000000 = _
  norm_num [FFmt.val, FFmt.mag, fp32, pow2_eq_zpow]

/-- The value of an element rounds to the element. -/
theorem toF32_of_f32 (mode : RMode) {x : BitVec 32} {q : Rat} (h : f32 x = .num q) : toF32 mode (.num q) = x :=
  h ▸ toF32_f32 mode fun hnan => Val.noConfusion (h.symm.trans hnan)

/-- A special input that is no number: neither grade flushes it. -/
theorem Sfn.apply_special {f : Sfn} {x : BitVec 32} {v r : Val} (fast : Bool) (hx : f32 x = v) (hv : ∀ q, v ≠ .num q)
    (h : f.special v = some r) : f.apply fast x = toF32 .rne r := by
  unfold Sfn.apply
  dsimp only
  rw [hx]
  cases v with
  | num q => exact absurd rfl (hv q)
  | nan | inf n | zero n => dsimp only; rw [h]

/-- A special input of magnitude 1: neither grade flushes it. -/
theorem Sfn.apply_special_num {f : Sfn} {x : BitVec 32} {q : Rat} {r : Val} (fast : Bool) (hx : f32 x = .num q) (hq : |q| = 1)
    (h : f.special (.num q) = some r) : f.apply fast x = toF32 .rne r := by
  have hnormal : ¬(fast = true ∧ |q| < pow2 (-126)) := by
    rintro ⟨-, hsmall⟩
    exact absurd (hq ▸ hsmall) (not_lt.mpr (pow2_le_pow2 (k := 0) (by decide)))
  unfold Sfn.apply
  dsimp only
  rw [hx]
  dsimp only
  rw [if_neg hnormal, h]

theorem special_inputs (fast : Bool) :
    (∀ (f : Sfn) (x : BitVec 32), f32 x = .nan → f.apply fast x = 0x7FC00000) ∧
    Sfn.rcp.apply fast 0 = 0x7F800000 ∧ Sfn.rcp.apply fast 0x80000000 = 0xFF800000 ∧ Sfn.rcp.apply fast 0xFF800000 = 0x80000000 ∧
    Sfn.rsqrt.apply fast 0x80000000 = 0xFF800000 ∧ Sfn.rsqrt.apply fast 0xBF800000 = 0x7FC00000 ∧
    Sfn.sqrt.apply fast 0x80000000 = 0x80000000 ∧ Sfn.sqrt.apply fast 0xBF800000 = 0x7FC00000 ∧
    Sfn.exp2.apply fast 0xFF800000 = 0 ∧ Sfn.exp.apply fast 0 = 0x3F800000 ∧ Sfn.log2.apply fast 0x3F800000 = 0 ∧
    Sfn.log2.apply fast 0 = 0xFF800000 ∧ Sfn.tanh.apply fast 0xFF800000 = 0xBF800000 ∧ Sfn.sigm.apply fast 0 = 0x3F000000 ∧
    Sfn.sin.apply fast 0x7F800000 = 0x7FC00000 ∧ Sfn.cos.apply fast 0 = 0x3F800000 ∧ Sfn.erf.apply fast 0x7F800000 = 0x3F800000 :=
  ⟨fun _ _ hx => Sfn.apply_special (r := .nan) fast hx nofun rfl,
   Sfn.apply_special (v := .zero false) (r := .inf false) fast rfl nofun rfl,
   Sfn.apply_special (v := .zero true) (r := .inf true) fast rfl nofun rfl,
   Sfn.apply_special (v := .inf true) (r := .zero true) fast rfl nofun rfl,
   Sfn.apply_special (v := .zero true) (r := .inf true) fast rfl nofun rfl,
   Sfn.apply_special_num (r := .nan) fast f32_neg_one (by simp) (by simp [Sfn.special]),
   Sfn.apply_special (v := .zero true) (r := .zero true) fast rfl nofun rfl,
   Sfn.apply_special_num (r := .nan) fast f32_neg_one (by simp) (by simp [Sfn.special]),
   Sfn.apply_special (v := .inf true) (r := .zero false) fast rfl nofun rfl,
   (Sfn.apply_special (v := .zero false) fast rfl nofun rfl).trans (toF32_of_f32 .rne f32_one),
   Sfn.apply_special_num (r := .zero false) fast f32_one abs_one (by simp [Sfn.special]),
   Sfn.apply_special (v := .zero false) (r := .inf true) fast rfl nofun rfl,
   (Sfn.apply_special (v := .inf true) fast rfl nofun rfl).trans (toF32_of_f32 .rne f32_neg_one),
   (Sfn.apply_special (v := .zero false) fast rfl nofun rfl).trans (toF32_of_f32 .rne f32_half),
   Sfn.apply_special (v := .inf false) (r := .nan) fast rfl nofun rfl,
   (Sfn.apply_special (v := .zero false) fast rfl nofun rfl).trans (toF32_of_f32 .rne f32_one),
   (Sfn.apply_special (v := .inf false) fast rfl nofun rfl).trans (toF32_of_f32 .rne f32_one)⟩

/-! ## The forms -/

theorem vec2_puts {i : Instr} {d a b : BitVec 4} {p : BitVec 3} {lat : Nat} {f : BitVec 32 → BitVec 32 → BitVec 32} {s : State}
    (he : exec i s = vec2 i d a b p lat f s) : PutsVector i d p s fun r k => f ((s.core.rv a).get r k) ((s.core.rv b).get r k) :=
  putsVector_of (f := fun c r k => f ((c.rv a).get r k) ((c.rv b).get r k)) he

theorem vec1_puts {i : Instr} {d a : BitVec 4} {p : BitVec 3} {lat : Nat} {f : BitVec 32 → BitVec 32} {s : State}
    (he : exec i s = vec1 i d a p lat f s) : PutsVector i d p s fun r k => f ((s.core.rv a).get r k) :=
  putsVector_of (f := fun c r k => f ((c.rv a).get r k)) he

theorem vecSfn_puts {i : Instr} {f : Sfn} {d a : BitVec 4} {p : BitVec 3} {g : BitVec 1} {s : State}
    (he : exec i s = vecSfn i f d a p g s) : PutsVector i d p s fun r k => f.apply (g == 0) ((s.core.rv a).get r k) :=
  vec1_puts he

theorem sfn_forms (d a : BitVec 4) (p : BitVec 3) (g : BitVec 1) (s : State) :
    ∀ x ∈ [(Instr.vrcp d a p g, Sfn.rcp), (.vrsqrt d a p g, .rsqrt), (.vsqrt d a p g, .sqrt), (.vexp2 d a p g, .exp2),
        (.vlog2 d a p g, .log2), (.vexp d a p g, .exp), (.vtanh d a p g, .tanh), (.vsigm d a p g, .sigm), (.vsin d a p g, .sin),
        (.vcos d a p g, .cos), (.verf d a p g, .erf)],
      PutsVector x.1 d p s fun r k => x.2.apply (g == 0) ((s.core.rv a).get r k) := by
  simp only [List.forall_mem_cons]
  exact ⟨vecSfn_puts (exec_vrcp ..), vecSfn_puts (exec_vrsqrt ..), vecSfn_puts (exec_vsqrt ..), vecSfn_puts (exec_vexp2 ..),
    vecSfn_puts (exec_vlog2 ..), vecSfn_puts (exec_vexp ..), vecSfn_puts (exec_vtanh ..), vecSfn_puts (exec_vsigm ..),
    vecSfn_puts (exec_vsin ..), vecSfn_puts (exec_vcos ..), vecSfn_puts (exec_verf ..), fun _ h => absurd h List.not_mem_nil⟩

/-- Settles O40: each form by its shape, an element's value rounded by `toF32_f32`, and R285's inputs by `special_inputs`. -/
theorem vectorFloat : Obligations.VectorFloat := by
  refine ⟨fun d a b e f p m g s => ⟨vec2_puts (exec_vaddF32 ..), vec2_puts (exec_vsubF32 ..), vec2_puts (exec_vmulF32 ..), ?_,
    vec2_puts (exec_vminF32 ..), vec2_puts (exec_vmaxF32 ..), vec1_puts (exec_vabsF32 ..), vec1_puts (exec_vnegF32 ..),
    vec1_puts (exec_vcvtWiden ..), vec1_puts (exec_vcvtF32I32 ..), vecFlag_completes (exec_vcvtNarrow ..),
    vecFlag_completes (exec_vcvtsNarrow ..), vecFlag_completes (exec_vcvtI32F32 ..), sfn_forms d a p g s,
    fun t => ⟨fun hg => ?_, fun hg => ?_⟩⟩, fun m x hx => toF32_f32 m hx, toF32_nan, special_inputs⟩
  · exact putsVector_of (f := fun c r k => ffma (rmOf m) ((c.rv a).get r k) ((c.rv b).get r k) ((c.rv e).get r k))
      (exec_vfmaF32 ..)
  · obtain ⟨u, hexec, -, -, honly⟩ := vqnt_completes d a t f s hg
    exact ⟨u, hexec, honly⟩
  · obtain ⟨u, hexec, -, honly⟩ := vdqnt_puts d a t f s hg
    exact ⟨u, hexec, honly⟩

end Sys2Proof.Machine
end

section
/-! SUPPORT. Block quantisation (08 R168, R170-R174, 12 R289): a valid curve encodes within its range, every code fits its width, and
the codes packed into a row are read back. -/

namespace Sys2Proof.Machine

/-! ## Valid curves (R172) -/

/-- Seventeen breakpoints that rise from 0 to 32768. -/
structure Rises (ks : List Nat) : Prop where
  first : ks.getD 0 0 = 0
  last : ks.getD 16 0 = 32768
  lt : ∀ i, i < 16 → ks.getD i 0 < ks.getD (i + 1) 0

theorem Rises.le_last {ks : List Nat} (h : Rises ks) {i : Nat} (hi : i ≤ 16) : ks.getD i 0 ≤ 32768 := by
  induction hi using Nat.decreasingInduction with
  | self => exact h.last.le
  | of_succ j hj ih => exact (h.lt j hj).le.trans ih

/-- Either coordinate of a valid curve. -/
theorem Curve.rises_map {q : Curve} (h : q.valid = true) (p : Nat × Nat → Nat) (hfirst : p (0, 0) = 0) (hlast : p (32768, 32768) = 32768)
    (hp : ∀ x y : Nat × Nat, x.1 < y.1 → x.2 < y.2 → p x < p y) : Rises (q.map p) := by
  simp only [Curve.valid, Bool.and_eq_true, decide_eq_true_eq, List.all_eq_true] at h
  obtain ⟨⟨⟨hlen, hhead⟩, hend⟩, hrise⟩ := h
  have hget (i : Nat) (hi : i < q.length) : (q.map p).getD i 0 = p q[i] := by
    rw [List.getD_eq_getElem _ _ (by rwa [List.length_map]), List.getElem_map]
  refine ⟨?_, ?_, fun i hi => ?_⟩
  · rw [List.head?_eq_getElem?, List.getElem?_eq_getElem (by omega)] at hhead
    rw [hget 0 (by omega), Option.some.inj hhead, hfirst]
  · rw [List.getLast?_eq_getElem?, hlen, List.getElem?_eq_getElem (by omega)] at hend
    rw [hget 16 (by omega), Option.some.inj hend, hlast]
  · have hzip : i < (q.zip q.tail).length := by simp; omega
    have hstep := hrise _ (List.getElem_mem hzip)
    rw [List.getElem_zip, List.getElem_tail] at hstep
    rw [hget i (by omega), hget (i + 1) (by omega)]
    exact hp _ _ hstep.1 hstep.2

theorem Curve.valid_rises {q : Curve} (h : q.valid = true) : Rises (q.map (·.1)) ∧ Rises (q.map (·.2)) :=
  ⟨q.rises_map h _ rfl rfl fun _ _ hx _ => hx, q.rises_map h _ rfl rfl fun _ _ _ hy => hy⟩

/-- The last index below n whose breakpoint does not exceed x. -/
theorem foldl_last_le (k : Nat → Rat) (x : Rat) (h0 : k 0 ≤ x) (n : Nat) :
    let m := (List.range n).foldl (fun m i => if k i ≤ x then i else m) 0
    k m ≤ x ∧ m ≤ n - 1 ∧ ∀ j, m < j → j < n → x < k j := by
  induction n with
  | zero => exact ⟨h0, Nat.le_refl 0, fun j _ hj => absurd hj j.not_lt_zero⟩
  | succ n ih =>
    obtain ⟨hle, hm, habove⟩ := ih
    rw [List.range_succ, List.foldl_append, List.foldl_cons, List.foldl_nil]
    split_ifs with hn
    · exact ⟨hn, Nat.le_refl n, fun j hj hj' => absurd hj (by omega)⟩
    · refine ⟨hle, by omega, fun j hj hj' => ?_⟩
      rcases Nat.lt_succ_iff_lt_or_eq.mp hj' with hlt | rfl
      · exact habove j hj hlt
      · exact not_le.mp hn

/-- The segment of a coordinate holds it. -/
theorem segment_spec {ks : List Nat} (h : Rises ks) {x : Rat} (h0 : 0 ≤ x) (h1 : x ≤ 32768) :
    let i := segment ks x
    i < 16 ∧ (ks.getD i 0 : Rat) ≤ x ∧ x ≤ ks.getD (i + 1) 0 := by
  obtain ⟨hle, hi, habove⟩ := foldl_last_le (fun i => (ks.getD i 0 : Rat)) x (by rw [h.first]; exact_mod_cast h0) 16
  have hi' : segment ks x < 16 := Nat.lt_succ_of_le hi
  refine ⟨hi', hle, ?_⟩
  rcases Nat.lt_or_ge (segment ks x + 1) 16 with hlt | hge
  · exact (habove _ (Nat.lt_succ_self _) hlt).le
  · rw [show segment ks x + 1 = 16 by omega, h.last]
    exact_mod_cast h1

/-- Interpolation stays between the ends of its segment. -/
theorem interp_mem {xs ys : List Nat} {i : Nat} {x : Rat} (hxs : xs.getD i 0 < xs.getD (i + 1) 0) (hys : ys.getD i 0 < ys.getD (i + 1) 0)
    (hlo : (xs.getD i 0 : Rat) ≤ x) (hhi : x ≤ xs.getD (i + 1) 0) :
    (ys.getD i 0 : Rat) ≤ interp xs ys i x ∧ interp xs ys i x ≤ ys.getD (i + 1) 0 := by
  have hx : (0 : Rat) < xs.getD (i + 1) 0 - xs.getD i 0 := sub_pos.mpr (by exact_mod_cast hxs)
  have hy : (0 : Rat) ≤ ys.getD (i + 1) 0 - ys.getD i 0 := sub_nonneg.mpr (by exact_mod_cast hys.le)
  unfold interp
  dsimp only
  constructor
  · exact le_add_of_nonneg_right (div_nonneg (mul_nonneg (sub_nonneg.mpr hlo) hy) hx.le)
  · rw [← le_sub_iff_add_le', div_le_iff₀ hx, mul_comm]
    exact mul_le_mul_of_nonneg_left (sub_le_sub_right hhi _) hy

theorem Curve.encode_le {q : Curve} (hq : q.valid = true) (bigM : Nat) {a : Rat} (ha : 0 ≤ a) : (q.encode bigM a).1 ≤ bigM := by
  obtain ⟨hxs, hys⟩ := Curve.valid_rises hq
  have hclamp : 0 ≤ (if decide (1 < a) then 1 else a) ∧ (if decide (1 < a) then 1 else a) ≤ 1 := by
    split_ifs with h
    · exact ⟨zero_le_one, le_rfl⟩
    · exact ⟨ha, not_lt.mp (by simpa using h)⟩
  unfold Curve.encode
  dsimp only
  generalize (if decide (1 < a) = true then 1 else a) = a' at *
  generalize q.map (·.1) = xs at *
  generalize q.map (·.2) = ys at *
  obtain ⟨h0, h1⟩ := hclamp
  obtain ⟨hi, hlo, hhi⟩ := segment_spec hxs (x := 32768 * a') (by linarith) (by linarith)
  obtain ⟨hylo, hyhi⟩ := interp_mem (hxs.lt _ hi) (hys.lt _ hi) hlo hhi
  have hmax : (ys.getD (segment xs (32768 * a') + 1) 0 : Rat) ≤ 32768 := by exact_mod_cast hys.le_last hi
  have hmin : (0 : Rat) ≤ ys.getD (segment xs (32768 * a')) 0 := Nat.cast_nonneg _
  refine roundInt_toNat_le _ (mul_nonneg (Nat.cast_nonneg _) (div_nonneg (hmin.trans hylo) (by norm_num))) ?_
  exact mul_le_of_le_one_right (Nat.cast_nonneg _) ((div_le_one (by norm_num)).mpr (hyhi.trans hmax))

/-! ## Every code fits its width (R160, R168) -/

/-- The codes that a format names fit its width. -/
def FFmt.Fits (f : FFmt) : Prop :=
  0 < f.width ∧ f.maxCode < 2 ^ (f.width - 1) ∧ f.nan.getD 0 < 2 ^ f.width ∧ ∀ i ∈ f.inf, i < 2 ^ (f.width - 1)

theorem FFmt.code_lt {f : FFmt} (hw : 0 < f.width) (neg : Bool) {m : Nat} (h : m < 2 ^ (f.width - 1)) : f.code neg m < 2 ^ f.width := by
  have htop : 2 ^ f.width = 2 * 2 ^ (f.width - 1) := by rw [← Nat.pow_succ', Nat.succ_eq_add_one, Nat.sub_add_cancel hw]
  unfold FFmt.code
  split_ifs <;> omega

theorem FFmt.round_lt {f : FFmt} (hf : f.Fits) (mode : RMode) (x : Val) : f.round mode x < 2 ^ f.width := by
  obtain ⟨hw, hmax, hnan, hinf⟩ := hf
  cases x with
  | nan => exact hnan
  | zero neg => exact f.code_lt hw neg (Nat.two_pow_pos _)
  | inf neg =>
    refine f.code_lt hw neg ?_
    cases hi : f.inf with
    | none => exact hmax
    | some i => exact hinf i hi
  | num q =>
    unfold FFmt.round
    dsimp only
    by_cases hm : f.roundMag mode (decide (q < 0)) |q| ≤ f.maxCode
    · rw [if_pos hm]
      exact f.code_lt hw _ (hm.trans_lt hmax)
    · rw [if_neg hm]
      cases hi : f.inf with
      | none => exact f.code_lt hw _ hmax
      | some i =>
        dsimp only
        split_ifs
        · exact f.code_lt hw _ (hinf i hi)
        · exact f.code_lt hw _ hmax

/-- The floating formats of blocks (R159, R160). -/
theorem ffmtOf_fits {fmt : Nat} (h : 3 ≤ fmt) {f : FFmt} (hf : ffmtOf fmt = some f) : f.Fits ∧ f.width = fmtWidth fmt := by
  have hfmt : (fmt = 3 ∧ f = e4m3) ∨ (fmt = 4 ∧ f = e5m2) ∨ (fmt = 5 ∧ f = e2m1) := by
    unfold ffmtOf at hf
    split at hf <;> simp_all
  rcases hfmt with ⟨rfl, rfl⟩ | ⟨rfl, rfl⟩ | ⟨rfl, rfl⟩
  · exact ⟨⟨by decide, by decide, by decide, by simp [e4m3]⟩, rfl⟩
  · exact ⟨⟨by decide, by decide, by decide, by simp [e5m2]⟩, rfl⟩
  · exact ⟨⟨by decide, by decide, by decide, by simp [e2m1]⟩, rfl⟩

/-- A companded code: its magnitude below half of the codes, the sign above it. -/
theorem quantElem_lt_companded {q : Curve} (hq : q.valid = true) {fmt : Nat} (h : fmt = 8 ∨ fmt = 9) (e : Nat) (x : Val) :
    (quantElem q fmt e x).1 < 2 ^ fmtWidth fmt := by
  have hle := Curve.encode_le hq (2 ^ (fmtWidth fmt - 1) - 1) (abs_nonneg (x.rat * pow2 (127 - e)))
  have hpos : 0 < fmtWidth fmt := by rcases h with rfl | rfl <;> decide
  have htop : 2 ^ fmtWidth fmt = 2 * 2 ^ (fmtWidth fmt - 1) := by
    rw [← Nat.pow_succ', Nat.succ_eq_add_one, Nat.sub_add_cancel hpos]
  have hhalf := Nat.two_pow_pos (fmtWidth fmt - 1)
  unfold quantElem
  dsimp only
  rw [if_pos h]
  dsimp only
  split_ifs <;> omega

theorem quantElem_lt {q : Curve} (hq : q.valid = true) {fmt : Nat} (hfmt : 3 ≤ fmt) (e : Nat) (x : Val) :
    (quantElem q fmt e x).1 < 2 ^ fmtWidth fmt := by
  by_cases hc : fmt = 8 ∨ fmt = 9
  · exact quantElem_lt_companded hq hc e x
  unfold quantElem
  dsimp only
  rw [if_neg hc]
  cases hf : ffmtOf fmt with
  | some f =>
    obtain ⟨hfits, hwidth⟩ := ffmtOf_fits hfmt hf
    rw [← hwidth]
    dsimp only
    split_ifs
    · exact f.round_lt hfits _ _
    · exact f.code_lt hfits.1 _ hfits.2.1
    · exact f.round_lt hfits _ _
  | none =>
    have hpos : (0 : Int) < 2 ^ fmtWidth fmt := by positivity
    dsimp only
    rw [Int.toNat_lt (Int.emod_nonneg _ hpos.ne')]
    exact_mod_cast Int.emod_lt_of_pos _ hpos

/-- The codes of a block: as many as its values, each within its width. -/
theorem quantBlock_codes {q : Curve} (hq : q.valid = true) {fmt : Nat} (hfmt : 3 ≤ fmt) (xs : List Val) :
    (quantBlock q fmt xs).2.1.length = xs.length ∧ ∀ x ∈ (quantBlock q fmt xs).2.1, x < 2 ^ fmtWidth fmt := by
  have hzero : ∀ x ∈ xs.map fun _ => 0, x < 2 ^ fmtWidth fmt := fun x hx => by
    obtain ⟨_, -, rfl⟩ := List.mem_map.mp hx
    exact Nat.two_pow_pos _
  unfold quantBlock
  dsimp only
  split_ifs
  · exact ⟨List.length_map _, hzero⟩
  · exact ⟨List.length_map _, hzero⟩
  · refine ⟨by rw [List.length_map, List.length_map], fun x hx => ?_⟩
    rw [List.map_map] at hx
    obtain ⟨v, -, rfl⟩ := List.mem_map.mp hx
    exact quantElem_lt hq hfmt _ v

/-! ## Codes packed into elements (R163, R289) -/

/-- The number that codes make, lowest first. -/
def packNat (w : Nat) (codes : List Nat) : Nat := codes.foldr (fun x acc => acc * 2 ^ w + x) 0

theorem packCodes_eq (w : Nat) (codes : List Nat) : packCodes w codes = BitVec.ofNat 32 (packNat w codes) := rfl

theorem packNat_cons (w x : Nat) (codes : List Nat) : packNat w (x :: codes) = packNat w codes * 2 ^ w + x := rfl

theorem packNat_lt {w : Nat} {codes : List Nat} (h : ∀ x ∈ codes, x < 2 ^ w) : packNat w codes < 2 ^ (w * codes.length) := by
  induction codes with
  | nil => exact Nat.one_pos
  | cons x xs ih =>
    have hx := h x List.mem_cons_self
    have hxs := ih fun y hy => h y (List.mem_cons_of_mem x hy)
    rw [packNat_cons, List.length_cons, Nat.mul_succ, pow_add]
    nlinarith

theorem packNat_digit {w : Nat} {codes : List Nat} (h : ∀ x ∈ codes, x < 2 ^ w) (j : Nat) :
    packNat w codes / 2 ^ (w * j) % 2 ^ w = codes.getD j 0 := by
  induction codes generalizing j with
  | nil => simp [packNat]
  | cons x xs ih =>
    have hx := h x List.mem_cons_self
    rw [packNat_cons]
    cases j with
    | zero => rw [Nat.mul_zero, pow_zero, Nat.div_one, Nat.mul_add_mod_self_right, Nat.mod_eq_of_lt hx, List.getD_cons_zero]
    | succ j =>
      rw [Nat.mul_succ, Nat.pow_add', ← Nat.div_div_eq_div_mul, Nat.mul_comm (packNat w xs),
        Nat.mul_add_div (Nat.two_pow_pos w), Nat.div_eq_of_lt hx, Nat.add_zero, ih fun y hy => h y (List.mem_cons_of_mem x hy),
        List.getD_cons_succ]

/-- The formats of blocks have codes of four or eight bits (R159). -/
theorem fmtWidth_block {fmt : Nat} (hlo : 3 ≤ fmt) (hhi : fmt ≤ 9) : fmtWidth fmt = 4 ∨ fmtWidth fmt = 8 := by
  unfold fmtWidth
  split_ifs <;> omega

/-- A code read back from a packed row. -/
theorem packedElem_code {w : Nat} (hw : w = 4 ∨ w = 8) {codes : List Nat} (h : ∀ x ∈ codes, x < 2 ^ w) (e0 e1 : Nat) {k : Nat}
    (hk : k < 64) : (packedElem w e0 e1 codes (k / (32 / w))).toNat / 2 ^ (w * (k % (32 / w))) % 2 ^ w = codes.getD k 0 := by
  have hcol : k / (32 / w) < 64 / (32 / w) := by rcases hw with rfl | rfl <;> omega
  have hper : k % (32 / w) < 32 / w := Nat.mod_lt _ (by rcases hw with rfl | rfl <;> decide)
  have hrow : ∀ x ∈ (codes.drop (32 / w * (k / (32 / w)))).take (32 / w), x < 2 ^ w := fun x hx =>
    h x (List.mem_of_mem_drop (List.mem_of_mem_take hx))
  have hlt : packNat w ((codes.drop (32 / w * (k / (32 / w)))).take (32 / w)) < 2 ^ 32 := by
    refine (packNat_lt hrow).trans_le (Nat.pow_le_pow_right (by decide) ?_)
    calc _ ≤ w * (32 / w) := Nat.mul_le_mul_left w (List.length_take_le _ _)
      _ ≤ 32 := Nat.mul_div_le 32 w
  unfold packedElem
  dsimp only
  rw [if_pos hcol, packCodes_eq, BitVec.toNat_ofNat, Nat.mod_eq_of_lt hlt, packNat_digit hrow, List.getD_eq_getElem?_getD,
    List.getElem?_take_of_lt hper, List.getElem?_drop, Nat.div_add_mod, ← List.getD_eq_getElem?_getD]

end Sys2Proof.Machine
end

section
/-! SUPPORT. The loading of a curve by `cmpt` (08 R172, 12 R288): the reads it makes, what it waits for, and its end. -/

namespace Sys2Proof.Machine

/-! ## The wait of the strand -/

theorem OnlyWaits.of_takePort {w : Waiting} {s u : State} {a n : Nat} (h : OnlyWaits w (s.mod fun c => c.takePort s.now a n) u) :
    OnlyWaits w s u := by
  obtain ⟨hwait, hstill, hpc, hvigil, hout, hbytes⟩ := h
  have hport : BytesKept s (s.mod fun c => c.takePort s.now a n) := bytesKept_mod s _ rfl rfl rfl rfl
  exact ⟨hwait, hstill, hpc, hvigil, hout.of_mod, hport.trans hbytes⟩

theorem completes_waits {i : Instr} {s u : State} {w : Waiting} (he : gate i s = .go → exec i s = .next u) (h : OnlyWaits w s u) :
    Completes i s fun u => u.core.waiting = w ∧ u.core.pc = s.core.pc ∧ u.core.vigil = s.core.vigil ∧ u.core.still = s.core.still ∧
      OutsideFree s u ∧ BytesKept s u := fun hg =>
  have ⟨hwait, hstill, hpc, hvigil, hout, hbytes⟩ := h
  ⟨u, he hg, hwait, hpc, hvigil, hstill, hout, hbytes⟩

/-! ## One bank row read (R67, R72, R74) -/

theorem cmptRow_eq (a x : Nat) : cmptRow a x = min (a + 68) (x / 64 * 64 + 64) - x := by
  unfold cmptRow rowEnd
  rw [Nat.succ_mul]

/-- The bytes that `cmpt` reads at `next` as it stands in the own scratchpad. -/
def State.cmptCells (s : State) (a next : Nat) : List Host.Cell := cellsAt next (s.core.scrRead s.now next (cmptRow a next))

/-- What the strand waits for after a row: the next one, or forty cycles after the last (R288). -/
def State.cmptWait (s : State) (rows : List Host.Cell) (a next : Nat) : Waiting :=
  if a + 68 ≤ next + cmptRow a next then .cmpt (rows ++ s.cmptCells a next) 0 (s.now + 40)
  else .cmpt (rows ++ s.cmptCells a next) (next + cmptRow a next) 0

/-- No lock holds the row that `cmpt` reads at `next`, and its read port is free. -/
def State.CmptOpen (s : State) (a next : Nat) : Prop :=
  s.core.lockedAt next (next + cmptRow a next) = false ∧ s.core.matrixReads s.now next (cmptRow a next) = false ∧
    s.core.bankTaken s.now next (cmptRow a next) = false

theorem cmptRead_waits {s : State} {a next : Nat} (rows : List Host.Cell) (ho : s.CmptOpen a next)
    (hpend : s.core.pendTrap = true → s.core.pendingOn s.now next (cmptRow a next) = none) :
    OnlyWaits (s.cmptWait rows a next) s (s.cmptRead rows a next) := by
  obtain ⟨hlock, hmat, hbank⟩ := ho
  have hnone : (if s.core.pendTrap then s.core.pendingOn s.now next (cmptRow a next) else none) = none := by
    split_ifs with h
    · exact hpend h
    · rfl
  have hread : s.cmptRead rows a next = State.stallFor
      (s.mod fun c => { c.takePort s.now next (cmptRow a next) with waiting := s.cmptWait rows a next }) 16 := by
    unfold State.cmptRead
    dsimp only
    rw [hlock, hmat, hbank, hnone]
    rfl
  rw [hread]
  exact (onlyWaits_stallFor (s.mod fun c => c.takePort s.now next (cmptRow a next)) _ s.fv 16).of_takePort

theorem cmptRead_traps {s : State} {a next x : Nat} (rows : List Host.Cell) (ho : s.CmptOpen a next) (htrap : s.core.pendTrap = true)
    (hpend : s.core.pendingOn s.now next (cmptRow a next) = some x) :
    s.cmptRead rows a next = s.takeTrap 5 (BitVec.ofNat 64 x) s.core.pc := by
  obtain ⟨hlock, hmat, hbank⟩ := ho
  unfold State.cmptRead
  dsimp only
  rw [hlock, hmat, hbank, if_pos htrap, hpend]
  rfl

/-- A row that is not the last is followed by the next one. -/
theorem cmptWait_more {s : State} {a next : Nat} (rows : List Host.Cell) (h : next + cmptRow a next < a + 68) :
    s.cmptWait rows a next = .cmpt (rows ++ s.cmptCells a next) (next + cmptRow a next) 0 := if_neg (not_le.mpr h)

theorem cmptWait_last {s : State} {a next : Nat} (rows : List Host.Cell) (h : a + 68 ≤ next + cmptRow a next) :
    s.cmptWait rows a next = .cmpt (rows ++ s.cmptCells a next) 0 (s.now + 40) := if_pos h

/-! ## `cmpt`, by what the strand waits for (R288) -/

section
variable {a b : BitVec 4} {t : BitVec 2} {s : State}

theorem exec_cmpt_scratch (hw : s.core.waiting = .none) (hr : regionOf s.core.poolMb (s.core.rn a + s.core.rn b).toNat = some .scratch)
    (hg : gate (.cmpt a b t) s = .go) :
    exec (.cmpt a b t) s = .next (s.cmptRead [] (s.core.rn a + s.core.rn b).toNat (s.core.rn a + s.core.rn b).toNat) := by
  rw [exec_cmpt, execCmpt, withGate_go hg]
  dsimp only
  rw [hw]
  dsimp only
  rw [if_pos hr]

theorem exec_cmpt_window (hw : s.core.waiting = .none) (hr : regionOf s.core.poolMb (s.core.rn a + s.core.rn b).toNat ≠ some .scratch)
    (hg : gate (.cmpt a b t) s = .go) : exec (.cmpt a b t) s =
      .next (State.stallFor { s with core := { s.core with waiting := .until s.dueCycle }, fv := s.fv + 1 } 16) := by
  rw [exec_cmpt, execCmpt, withGate_go hg]
  dsimp only
  rw [hw]
  dsimp only
  rw [if_neg hr]

theorem exec_cmpt_row {rows : List Host.Cell} {next : Nat} (hw : s.core.waiting = .cmpt rows next 0)
    (hg : gate (.cmpt a b t) s = .go) :
    exec (.cmpt a b t) s = .next (s.cmptRead rows (s.core.rn a + s.core.rn b).toNat next) := by
  rw [exec_cmpt, execCmpt, withGate_go hg]
  dsimp only
  rw [hw]
  rfl

theorem exec_cmpt_got {bs : List Byte} (hw : s.core.waiting = .got bs false) (hg : gate (.cmpt a b t) s = .go) :
    exec (.cmpt a b t) s = .next (State.stallFor (s.mod fun c =>
      { c with waiting := .cmpt (cellsAt (s.core.rn a + s.core.rn b).toNat bs) 0 (s.now + 39) }) 16) := by
  rw [exec_cmpt, execCmpt, withGate_go hg]
  dsimp only
  rw [hw]
  rfl

theorem exec_cmpt_poisoned {bs : List Byte} (hw : s.core.waiting = .got bs true) (hg : gate (.cmpt a b t) s = .go) :
    exec (.cmpt a b t) s = .next (retireWith s fun c => c.owe 0 (s.core.rn a + s.core.rn b).toNat s.now) := by
  rw [exec_cmpt, execCmpt, withGate_go hg]
  dsimp only
  rw [hw]
  rfl

/-- The core after a curve image: its slot set if the image is a valid curve, else CTBAD (R172, R288). -/
def Core.loadCurve (c : Core) (t : BitVec 2) (image : Curve) : Core :=
  if image.valid then { c with curves := c.curves.set t.toNat image } else c.fmtSet fmtCtbad

theorem exec_cmpt_loaded {rows : List Host.Cell} {next due : Nat} (hw : s.core.waiting = .cmpt rows next due) (h0 : due ≠ 0)
    (hdue : due ≤ s.now) (hg : gate (.cmpt a b t) s = .go) :
    exec (.cmpt a b t) s = .next (retireWith s fun c => c.loadCurve t (curveOf (rows.map (·.2)))) := by
  obtain ⟨n, rfl⟩ := Nat.exists_eq_succ_of_ne_zero h0
  rw [exec_cmpt, execCmpt, withGate_go hg]
  dsimp only
  rw [hw]
  exact congrArg Host.Outcome.next (if_neg (not_lt.mpr hdue))

end

theorem keeps_loadCurve (c : Core) (t : BitVec 2) (image : Curve) : Keeps c (c.loadCurve t image) := by
  unfold Core.loadCurve
  split_ifs <;> exact ⟨rfl, rfl, rfl, rfl, rfl, rfl⟩

theorem does_loadCurve {s : State} {t : BitVec 2} {image : Curve} {f : Core → Core} (h : s.core.loadCurve t image = f s.core) :
    Does f s (retireWith s fun c => c.loadCurve t image) :=
  ⟨(Core.still_retire ..).trans (congrArg Core.still h), rfl, bytes_of (keeps_loadCurve ..), retires_of (keeps_loadCurve ..)⟩

theorem keeps_owe (c : Core) (reg a now : Nat) : Keeps c (c.owe reg a now) := ⟨rfl, rfl, rfl, rfl, rfl, rfl⟩

theorem Core.retire_owed (c : Core) (now : Nat) : (c.retire now).owed = c.owed := by
  show c.advance.owed = c.owed
  unfold Core.advance
  dsimp only
  split_ifs <;> rfl

end Sys2Proof.Machine
end

section
/-! PROOF. Quantisation and the loading of curves, O44, from the rules above. -/

namespace Sys2Proof.Machine

/-! ## The rows of `vqnt` (R289) -/

/-- Block k of row r of the register that `vqnt` reads. -/
def Core.blockOf (c : Core) (a : BitVec 4) (t : BitVec 2) (f : BitVec 4) (r k : Nat) : Nat × List Nat × BitVec 5 :=
  quantBlock c.curves[t.toNat] f.toNat (blockVals (c.rv a) r k)

/-- The codes of row r. -/
def Core.codesOf (c : Core) (a : BitVec 4) (t : BitVec 2) (f : BitVec 4) (r : Nat) : List Nat :=
  (c.blockOf a t f r 0).2.1 ++ (c.blockOf a t f r 1).2.1

section
variable (c : Core) (a : BitVec 4) (t : BitVec 2) (f : BitVec 4)

theorem quantised_get {r k : Nat} (hr : r < 16) (hk : k < 64) : (c.quantised a t f).get r k =
    packedElem (fmtWidth f.toNat) (c.blockOf a t f r 0).1 (c.blockOf a t f r 1).1 (c.codesOf a t f r) k := by
  unfold Core.quantised
  rw [VReg.get_of _ hr hk, List.getElem?_map, List.getElem?_range hr]
  rfl

theorem quantFlags_bit (j : Nat) : (c.quantFlags a t f).getLsbD j = true ↔
    ∃ r k, r < 16 ∧ k < 2 ∧ (c.blockOf a t f r k).2.2.getLsbD j = true := by
  have hrow (r : Nat) : (quantRow c.curves[t.toNat] f.toNat (c.rv a) r).2.2.2.getLsbD j = true ↔
      ∃ k, k < 2 ∧ (c.blockOf a t f r k).2.2.getLsbD j = true := by
    show ((c.blockOf a t f r 0).2.2 ||| (c.blockOf a t f r 1).2.2).getLsbD j = true ↔ _
    rw [BitVec.getLsbD_or, Bool.or_eq_true]
    constructor
    · rintro (h | h)
      · exact ⟨0, by decide, h⟩
      · exact ⟨1, by decide, h⟩
    · rintro ⟨k, hk, h⟩
      interval_cases k
      · exact .inl h
      · exact .inr h
  unfold Core.quantFlags
  rw [getLsbD_foldl_or]
  constructor
  · rintro (h | ⟨y, hy, h⟩)
    · exact absurd (h.symm.trans BitVec.getLsbD_zero) Bool.noConfusion
    · obtain ⟨r, hr, rfl⟩ := List.mem_map.mp hy
      obtain ⟨k, hk, hbit⟩ := (hrow r).mp h
      exact ⟨r, k, List.mem_range.mp hr, hk, hbit⟩
  · rintro ⟨r, k, hr, hk, hbit⟩
    exact .inr ⟨_, List.mem_map_of_mem (List.mem_range.mpr hr), (hrow r).mpr ⟨k, hk, hbit⟩⟩

end

section
variable {c : Core} {a : BitVec 4} {t : BitVec 2} {f : BitVec 4} (hv : c.curves[t.toNat].valid = true) (hlo : 3 ≤ f.toNat)
include hv hlo

theorem codesOf_lt (r : Nat) : ∀ x ∈ c.codesOf a t f r, x < 2 ^ fmtWidth f.toNat := fun x hx =>
  (List.mem_append.mp hx).elim ((quantBlock_codes hv hlo _).2 x) ((quantBlock_codes hv hlo _).2 x)

theorem codesOf_getD (r k : Nat) (hk : k < 64) : (c.codesOf a t f r).getD k 0 = (c.blockOf a t f r (k / 32)).2.1.getD (k % 32) 0 := by
  have hlen : (c.blockOf a t f r 0).2.1.length = 32 := by
    unfold Core.blockOf
    rw [(quantBlock_codes hv hlo _).1, blockVals, List.length_map, List.length_range]
  unfold Core.codesOf
  rcases Nat.lt_or_ge k 32 with h | h
  · rw [List.getD_append _ _ _ _ (hlen ▸ h), Nat.div_eq_of_lt h, Nat.mod_eq_of_lt h]
  · rw [List.getD_append_right _ _ _ _ (hlen ▸ h), hlen, show k / 32 = 1 by omega, show k % 32 = k - 32 by omega]

end

/-- What `vqnt` writes under a valid curve. -/
theorem vqnt_rows {d a : BitVec 4} {t : BitVec 2} {f : BitVec 4} {s : State} (hlo : 3 ≤ f.toNat) (hhi : f.toNat ≤ 9)
    (hv : s.core.curves[t.toNat].valid = true) : Completes (.vqnt d a t f) s fun u =>
      let per := 32 / fmtWidth f.toNat
      let w := fmtWidth f.toNat
      (∀ r k, r < 16 → k < 64 → ((u.core.rv d).get r (k / per)).toNat / 2 ^ (w * (k % per)) % 2 ^ w =
        (s.core.blockOf a t f r (k / 32)).2.1.getD (k % 32) 0) ∧
      (∀ r, r < 16 → (u.core.rv d).get r (64 / per) =
        BitVec.ofNat 32 ((s.core.blockOf a t f r 0).1 + 256 * (s.core.blockOf a t f r 1).1)) ∧
      (∀ r k, r < 16 → 64 / per < k → k < 64 → (u.core.rv d).get r k = 0) ∧
      (∃ bits, u.core.fmtLate = s.core.fmtLate ++ [(s.now + 14, bits)] ∧ ∀ j, j < 5 → (bits.getLsbD j = true ↔
        ∃ r k, r < 16 ∧ k < 2 ∧ (s.core.blockOf a t f r k).2.2.getLsbD j = true)) ∧
      OnlyVectorFlags d s u := by
  intro hg
  obtain ⟨u, hexec, hrv, hlate, honly⟩ := vqnt_completes d a t f s hg
  have hw := fmtWidth_block hlo hhi
  refine ⟨u, hexec, fun r k hr hk => ?_, fun r hr => ?_, fun r k hr hcol hk => ?_, ⟨_, hlate, fun j _ => quantFlags_bit ..⟩, honly⟩
  · have hcol : k / (32 / fmtWidth f.toNat) < 64 := (Nat.div_le_self k _).trans_lt hk
    rw [hrv, quantised_get _ _ _ _ hr hcol, packedElem_code hw (codesOf_lt hv hlo r) _ _ hk, codesOf_getD hv hlo r k hk]
  · have hcol : 64 / (32 / fmtWidth f.toNat) < 64 := by rcases hw with hw | hw <;> rw [hw] <;> decide
    rw [hrv, quantised_get _ _ _ _ hr hcol, packedElem]
    rw [if_neg (Nat.lt_irrefl _), if_pos rfl]
  · rw [hrv, quantised_get _ _ _ _ hr hk, packedElem]
    rw [if_neg (by omega), if_neg (by omega)]

/-- The scale of an element's block (R289). -/
theorem packedCode_eq (x : VReg) (fmt r k : Nat) : packedCode x fmt r k =
    ((x.get r (k / (32 / fmtWidth fmt))).toNat / 2 ^ (fmtWidth fmt * (k % (32 / fmtWidth fmt))) % 2 ^ fmtWidth fmt,
      (x.get r (64 / (32 / fmtWidth fmt))).toNat / (if k < 32 then 1 else 256) % 256) := by
  unfold packedCode
  dsimp only
  split_ifs
  · rw [Nat.div_one]
  · rfl

/-- Settles O44: the rows of `vqnt` by their packing, `vdqnt` by its codes, `cmpt` by what the strand waits for. -/
theorem quantisation : Obligations.Quantisation := by
  intro d a b t f rows next due s
  have hrow := cmptRow_eq (s.core.rn a + s.core.rn b).toNat
  simp only [← hrow]
  refine ⟨fun hg => ?_, fun hlo hhi hv => vqnt_rows hlo hhi hv, ?_, fun hw hr ⟨hopen, hpend⟩ => ?_, fun hw hr => ?_,
    fun hw ⟨hopen, hpend⟩ => ⟨fun hmore => ?_, fun hlast => ?_⟩, fun x hw hopen htrap hpend => ?_,
    fun r hcur hw hdue hr _ hfree => ?_, fun bs hw => ?_, fun bs hw hg => ?_, fun hw h0 hdue => ⟨fun hv hg => ?_, fun hv hg => ?_⟩⟩
  · obtain ⟨u, hexec, -, -, honly⟩ := vqnt_completes d a t f s hg
    exact ⟨u, hexec, honly⟩
  · simpa only [packedCode_eq] using vdqnt_puts d a t f s
  · have hmore : (s.core.rn a + s.core.rn b).toNat + cmptRow (s.core.rn a + s.core.rn b).toNat (s.core.rn a + s.core.rn b).toNat <
        (s.core.rn a + s.core.rn b).toNat + 68 := by rw [hrow]; omega
    exact completes_waits (exec_cmpt_scratch hw hr) (cmptWait_more [] hmore ▸ cmptRead_waits [] hopen hpend)
  · exact completes_waits (exec_cmpt_window hw hr) (onlyWaits_stallFor s _ _ 16)
  · exact completes_waits (exec_cmpt_row hw) (cmptWait_more rows hmore ▸ cmptRead_waits rows hopen hpend)
  · exact completes_waits (exec_cmpt_row hw) (cmptWait_last rows hlast ▸ cmptRead_waits rows hopen hpend)
  · have hg : gate (.cmpt a b t) s = .go := gate_of_committed (by rw [hw]; rfl)
    exact (exec_cmpt_row hw hg).trans (congrArg _ (cmptRead_traps rows hopen htrap hpend))
  · exact windowReads_of (i := .cmpt a b t) (x := ⟨s.core.rn a + s.core.rn b, 68, false, false⟩) rfl rfl hcur hw hdue hr hfree
  · exact completes_waits (exec_cmpt_got hw) (onlyWaits_stallFor s _ s.fv 16)
  · exact ⟨_, exec_cmpt_poisoned hw hg, onlyRetires_of (keeps_owe ..) rfl, _, Core.retire_owed .., rfl, rfl, rfl⟩
  · exact ⟨_, exec_cmpt_loaded hw h0 hdue hg, does_loadCurve (if_pos hv)⟩
  · exact ⟨_, exec_cmpt_loaded hw h0 hdue hg, does_loadCurve (if_neg (by rw [hv]; exact Bool.false_ne_true))⟩

end Sys2Proof.Machine
end

section
/-! SUPPORT. Instructions and their words (09 R186-R204): every constructor's round trip together, words as little-endian bytes, and
what a decoder's acceptance says. -/

/-! ## Every constructor (R186-R203) -/

namespace Sys2Proof.Laws.RoundTrip

/-- The round trips of the constructors, in the order of their declaration. -/
theorem roundTrip (i : Instr) : Statement i :=
  Instr.casesOn (motive := Statement) i
    add sub and or xor andn orn xnor sll srl sra rol ror mul mulh mulhu div divu rem remu min max minu maxu clz ctz popc bswap
    brev sel addi andi ori xori slli srli srai rori movi lut3 fsl fsr cmpEq cmpNe cmpLt cmpGe cmpLtu cmpGeu tst cmpiEq cmpiNe
    cmpiLt cmpiGe cmpiLtu cmpiGeu tsti ptg br bz call ret ptr mfb mtl mfl loopPush loopPop mfbc mtbc loop endOp eret trap svc mfc
    mtc ctrSel yield sync alignEquinox fenceCo fenceCl fenceDi fencePk fenceDm tagWany tagWall tagFfr tagClr barArrive barDrop
    barWait enqM enqC enqL fmtq xlat kinfo kmov ksub kst kstL kld kldL kclr krel ld st lds sts amoAdd amoAnd amoOr amoXor amoMin
    amoMax amoMinu amoMaxu amoSwap amoCas amoFadd amoAddt waita lamoAdd lamoAnd lamoOr lamoXor lamoMin lamoMax lamoMinu lamoMaxu
    lamoSwap lamoCas lamoFadd vaddI32 vsubI32 vmulI32 vmulhI32 vmulhU32 vminI32 vmaxI32 vminU32 vmaxU32 vaddsI32 vsubsI32 vabsI32
    vnegI32 vand vor vxor vandn vsll vsrl vsra vmov vsel vclz vpopc vaddF32 vsubF32 vmulF32 vfmaF32 vminF32 vmaxF32 vabsF32
    vnegF32 vcvtNarrow vcvtWiden vcvtI32F32 vcvtF32I32 vcvtsNarrow vsumRa vsumCa vmaxRa vmaxCa vminRa vminCa vrotRa vrotCa vbrow
    vbcol vidxR vidxC vext vins vbcast vcmp pand por pxor pandn pnot vany vall pcnt pmov vrcp vrsqrt vsqrt vexp2 vlog2 vexp vtanh
    vsigm vsin vcos verf cmpt vqnt vdqnt vld vst vldL vstL nop sval ktok atStamp gate dup drop swap lit litx mma mmaSp mwb copy1d
    copyNd gather scatter wbfill collAr collRs collAg lrst ldly lwin llaunchMin llaunchMax lcapV lcapO svcTime svcLog svcLimit
    svcUnassigned telemetryLogDrain counterWrap watchInstalled vigil equinoxRelease barHeldArrival xlatFaultResolution
    writeExposure localStorePerformed tokenStorePerformed exportedStoreApply loadDataReturn poison integrity tfcMissFill
    atomicApply atomicResultReturn waitaRegister waitaTimeout localAtomicApply engineLaunchStart matrixComplete mwbComplete
    copyComplete collectiveComplete lanternComplete deferredReportDelivery pcSample ringDrain dispatchRound imageLoad tlimitExpiry
    preemptionRequest gangWithdraw contextSave contextRestore tasks replay queueCreate queueDestroy arm disarm fire graphDefine
    patch collectiveGroupCreate partitionCreate partitionTeardown journalAck uncorrectableErrorReport takeover jubileeSweep
    tokenInvalidate sweepAck sweepAbort sweepFree sealKeyRotation pageMove lenderReclaim grantClose grantOpen potChange
    remoteRequestArrival remoteRetransmit remoteRequestLost axtosTrainingStart axtosTrainingDone axtosKeysInstalled flitReceive
    linkRetry rekeyTimeout spdmSession jobKeyGrant jobKeyWithdraw uetConnectionSetup ptpLock ptpSourceLoss samplecfgWrite
    debugRequest scheduleStopArm scheduleCycleStop stopResume liveDump firmwareImage transfer enrol thermalStop thermalResume
    thermalTrip powerOn moduleReset recovery ptpSourceRegained rekeyComplete reclaimCompletion cumulativeAcknowledgement
    reservedEncoding reservedEngineWord

end Sys2Proof.Laws.RoundTrip

namespace Sys2Proof.Machine

/-! ## Words as bytes (R5, R202, R211) -/

/-- A word of whole bytes is read back from its little-endian bytes. -/
theorem ofNat_bytesToNat_natToBytes (n : Nat) (w : BitVec (8 * n)) : BitVec.ofNat (8 * n) (bytesToNat (natToBytes n w.toNat)) = w := by
  rw [bytesToNat_natToBytes, Nat.mod_eq_of_lt w.isLt, BitVec.ofNat_toNat, BitVec.setWidth_eq]

theorem decodeBytes_natToBytes {w : BitVec 32} {i : Instr} (h : decodeWord w = .ok i) (rest : List Byte) :
    decodeBytes (natToBytes 4 w.toNat ++ rest) = .ok (i, rest) := by
  have hw : decodeWord (BitVec.ofNat 32 (bytesToNat (natToBytes 4 w.toNat))) = .ok i :=
    (congrArg decodeWord (ofNat_bytesToNat_natToBytes 4 w)).trans h
  simp only [natToBytes, List.cons_append, List.nil_append, decodeBytes] at hw ⊢
  rw [hw]

theorem decodeEngineBytes_natToBytes {w : BitVec 16} {i : Instr} (h : decodeEngineWord w = .ok i) (rest : List Byte) :
    decodeEngineBytes (natToBytes 2 w.toNat ++ rest) = .ok (i, rest) := by
  have hw : decodeEngineWord (BitVec.ofNat 16 (bytesToNat (natToBytes 2 w.toNat))) = .ok i :=
    (congrArg decodeEngineWord (ofNat_bytesToNat_natToBytes 2 w)).trans h
  simp only [natToBytes, List.cons_append, List.nil_append, decodeEngineBytes] at hw ⊢
  rw [hw]

/-! ## What the decoders accept (R200, R203) -/

theorem decodeWord_eq_ok {w : BitVec 32} {i : Instr} (h : decodeWord w = .ok i) : i.wf = true ∧ encodeWord i = some w := by
  unfold decodeWord at h
  split at h
  · cases h
  · split_ifs at h with he hwf
    cases h
    exact ⟨hwf, he⟩

theorem decodeEngineWord_eq_ok {w : BitVec 16} {i : Instr} (h : decodeEngineWord w = .ok i) :
    i.wf = true ∧ encodeEngineWord i = some w := by
  unfold decodeEngineWord at h
  split at h
  · cases h
  · split_ifs at h with he hwf
    cases h
    exact ⟨hwf, he⟩

/-! ## Rows of the encoding tables -/

theorem decodeTableWord_strand {i : Instr} (w : BitVec 32) (he : encodeWord i = some w) (h : i.wf = true) :
    decodeTableWord 32 w.toNat = some i := by
  have hb := decodeBytes_natToBytes ((Laws.RoundTrip.roundTrip i h).1 w he) []
  rw [List.append_nil] at hb
  rw [decodeTableWord, if_neg (by decide), hb]

theorem decodeTableWord_engine {i : Instr} (w : BitVec 16) (he : encodeEngineWord i = some w) (h : i.wf = true) :
    decodeTableWord 16 w.toNat = some i := by
  have hb := decodeEngineBytes_natToBytes ((Laws.RoundTrip.roundTrip i h).2 w he) []
  rw [List.append_nil] at hb
  rw [decodeTableWord, if_pos (by decide), hb]

end Sys2Proof.Machine
end

section
/-! PROOF. The encodings of O1, O2 and O3: the round trips, the decoders' own check, and rows of the tables. -/

namespace Sys2Proof.Machine

/-- Settles O1: the round trip of the constructor, its word read from its bytes. -/
theorem decodeOfEncode : Obligations.DecodeOfEncode := by
  intro i rest h
  obtain ⟨hstrand, hengine⟩ := Laws.RoundTrip.roundTrip i h
  exact ⟨fun w he => decodeBytes_natToBytes (hstrand w he) rest, fun w he => decodeEngineBytes_natToBytes (hengine w he) rest⟩

/-- Settles O2: both decoders encode their candidate again, and check it, before they accept it. -/
theorem wordHasOneMeaning : Obligations.WordHasOneMeaning :=
  ⟨fun _ _ => decodeWord_eq_ok, fun _ _ => decodeEngineWord_eq_ok⟩

/-- Settles O3: each word listed is the encoder's word of a well-formed instruction, but the last four, which the decoders refuse. -/
theorem wordsOfTheSpec : Obligations.WordsOfTheSpec := by
  refine ⟨decodeTableWord_strand 0x0123408F rfl rfl, decodeTableWord_strand 0x00483220 rfl rfl, decodeTableWord_strand 0x00004040 rfl rfl,
    decodeTableWord_strand 0x08001011 rfl rfl, decodeTableWord_strand 0x0000010E rfl rfl, decodeTableWord_strand 0x800005AD rfl rfl,
    decodeTableWord_strand 0x820C2209 rfl rfl, decodeTableWord_strand 0xD2002099 rfl rfl, decodeTableWord_strand 0x013B123B rfl rfl,
    decodeTableWord_strand 0x100398C5 rfl rfl, decodeTableWord_strand 0x28445031 rfl rfl, decodeTableWord_strand 0x00C4112B rfl rfl,
    decodeTableWord_engine 0x0202 rfl rfl, decodeTableWord_engine 0x010A rfl rfl, decodeTableWord_engine 0x4005 rfl rfl,
    decodeTableWord_engine 0x0300 rfl rfl, decodeTableWord_engine 0xD000 rfl rfl, decodeTableWord_engine 0xE500 rfl rfl, ?_⟩
  decide

end Sys2Proof.Machine
end

section
/-! PROOF. The engines' words of O5 and O45: the step that takes one, and a reserved word of the Lantern's found in another engine's
queue, which is reported as the Lantern's (13 R298, R299, 14 R334), where the statement of O45 has it name that engine. -/

namespace Sys2Proof.Machine

/-! ## The step of an engine's turn (R204, R294) -/

theorem step_engineTurn {s : State} (hphase : s.phase = 4) (hclock : s.core.clocked = true)
    (htake : (s.core.eng s.turnEng).canTake s.now = true) : step s = s.takeWord := by
  have hcycle : step s = s.dequeuePart := by rw [step, State.cycle, hphase]; rfl
  rw [hcycle, State.dequeuePart, if_pos ⟨hclock, htake⟩]

theorem takeWord_of_decode {s : State} {i : Instr} (h : decodeEngineWord (s.withPacket.core.eng s.turnEng).word = .ok i) :
    s.takeWord = exec i s.withPacket := by
  rw [State.takeWord, h]

/-- Settles O5: the engine's turn takes its word, which decodes. -/
theorem stepRunsEngineWord : Obligations.StepRunsEngineWord := fun _ _ hphase hclock htake hword =>
  (step_engineTurn hphase hclock htake).trans (takeWord_of_decode hword)

/-! ## Whom a reserved word's report names (R298, R299, R334) -/

theorem Core.modEng_eng (c : Core) (e : EngineId) (f : Engine → Engine) : (c.modEng e f).eng e = f (c.eng e) := by
  cases e <;> rfl

/-- The report of an engine that has not halted names the engine asked for, whose word it may be. -/
theorem Core.engFaultAs_reportedEngine {c : Core} {e : EngineId} (h : (c.eng e).report = none) (who : EngineId) (sched : Bool)
    (sub : Nat) (widx : BitVec 24) (stamp : BitVec 32) (now : Nat) :
    ((c.engFaultAs e who sched sub widx stamp now).eng e).report.map EngineReport.eng = some who := by
  rw [Core.engFaultAs, if_neg (by simp [h])]
  have hnote (d : Core) : (d.note 0x0D).eng e = d.eng e := by cases e <;> rfl
  rw [hnote, Core.modEng_eng]; rfl

/-- A reserved word of the Lantern's is reported as the Lantern's, whichever engine takes it. -/
theorem exec_reservedLanternWord {w : BitVec 16} (hw : lanternWord w = true) {s : State} (h : (s.core.eng s.turnEng).report = none) :
    ∃ u, exec (.reservedEngineWord w) s = .next u ∧ (u.core.eng s.turnEng).report.map EngineReport.eng = some .lantern := by
  rw [exec_reservedEngineWord, execReservedEngineWord, if_pos hw]
  refine ⟨_, rfl, Core.engFaultAs_reportedEngine ?_ ..⟩
  rw [Core.modEng_eng]; exact h

/-- The matrix engine with 0xE001 in hand, an `lrst` whose modifier is not 0. -/
def lanternWordAtMatrix : State := State.reset.withFetchWord 16 0xE001

/-- Refutes O45: the matrix engine takes the reserved word 0xE001, and its report names the Lantern, not the matrix engine. -/
theorem not_engineParameters : ¬ Obligations.EngineParameters := by
  unfold Obligations.EngineParameters
  intro h
  obtain ⟨-, -, -, -, -, -, -, -, -, hreserved⟩ :=
    h 0 0 0 0xE001 (.int 0) (.int 0) 0 Token.zero [] lanternWordAtMatrix
  obtain ⟨t, hexec, hreport, -⟩ := hreserved rfl
  obtain ⟨u, hexec', hlantern⟩ := exec_reservedLanternWord (w := 0xE001) (by decide) (s := lanternWordAtMatrix) rfl
  have htu : t = u := Host.Outcome.next.inj (hexec.symm.trans hexec')
  rw [← htu, hreport] at hlantern
  exact absurd hlantern (by decide)

end Sys2Proof.Machine
end

section
/-! SUPPORT. The scalar unit's arithmetic (10 R213, R214, R217-R219): what the model's words are in terms of bits and integers. -/

namespace Sys2Proof.Machine

/-! ## Shift counts and products (R213) -/

theorem shamt_eq (y : Word) : shamt y = (y.extractLsb' 0 6).toNat := by
  rw [BitVec.extractLsb'_toNat, Nat.shiftRight_zero]; rfl

theorem shamt_lt (y : Word) : shamt y < 64 := Nat.mod_lt _ (by decide)

theorem rotateLeft_shamt (x y : Word) : x.rotateLeft (shamt y) = x <<< shamt y ||| x >>> (64 - shamt y) := by
  rw [BitVec.rotateLeft_def, Nat.mod_eq_of_lt (shamt_lt y)]

theorem rotateRight_shamt (x y : Word) : x.rotateRight (shamt y) = x >>> shamt y ||| x <<< (64 - shamt y) := by
  rw [BitVec.rotateRight_def, Nat.mod_eq_of_lt (shamt_lt y)]

theorem rotateRight_toNat (x : Word) (n : BitVec 6) : x.rotateRight n.toNat = x >>> n.toNat ||| x <<< (64 - n.toNat) := by
  rw [BitVec.rotateRight_def, Nat.mod_eq_of_lt n.isLt]

/-- The upper half of a signed product of 128 bits. -/
theorem mulh_eq (x y : Word) :
    BitVec.ofInt 64 (x.toInt * y.toInt / 2 ^ 64) = (x.signExtend 128 * y.signExtend 128).extractLsb' 64 64 := by
  have hprod : x.signExtend 128 * y.signExtend 128 = BitVec.ofInt 128 (x.toInt * y.toInt) := (BitVec.ofInt_mul ..).symm
  rw [hprod]
  generalize x.toInt * y.toInt = z
  refine BitVec.eq_of_toNat_eq ?_
  rw [BitVec.extractLsb'_toNat, BitVec.toNat_ofInt, BitVec.toNat_ofInt, Nat.shiftRight_eq_div_pow]
  omega

/-- The upper half of an unsigned product of 128 bits. -/
theorem mulhu_eq (x y : Word) :
    BitVec.ofNat 64 (x.toNat * y.toNat / 2 ^ 64) = (x.setWidth 128 * y.setWidth 128).extractLsb' 64 64 := by
  have hlt : x.toNat * y.toNat < 2 ^ 128 := (Nat.mul_lt_mul'' x.isLt y.isLt :)
  refine BitVec.eq_of_toNat_eq ?_
  rw [BitVec.extractLsb'_toNat, BitVec.toNat_mul, BitVec.toNat_setWidth_of_le (by decide), BitVec.toNat_setWidth_of_le (by decide),
    Nat.mod_eq_of_lt hlt, Nat.shiftRight_eq_div_pow, BitVec.toNat_ofNat]

/-! ## The lesser and the greater (R213) -/

theorem ite_lt_eq_ite_le {α β : Type} [LinearOrder β] (p q : β) (x y : α) : (if p < q then x else y) = if q ≤ p then y else x := by
  split_ifs with hlt hle hle
  · exact absurd hlt (not_lt.mpr hle)
  · rfl
  · rfl
  · exact absurd (not_lt.mp hlt) hle

/-! ## Division (R214) -/

/-- The remainder is the dividend's where the divisor is 0, which is what the library's signed remainder gives there too. -/
theorem remS_eq_srem (x y : Word) : remS x y = x.srem y := by
  have hint : BitVec.ofInt 64 (x.toInt.tmod y.toInt) = x.srem y := by rw [← BitVec.toInt_srem, BitVec.ofInt_toInt]
  unfold remS
  split_ifs with hy
  · rw [hy]; exact BitVec.srem_zero.symm
  · exact hint

theorem divS_zero (x : Word) : divS x 0 = BitVec.allOnes 64 := if_pos rfl
theorem remS_zero (x : Word) : remS x 0 = x := if_pos rfl
theorem divU_zero (x : Word) : divU x 0 = BitVec.allOnes 64 := if_pos rfl
theorem remU_zero (x : Word) : remU x 0 = x := if_pos rfl

theorem div_intMin : divS (BitVec.intMin 64) (BitVec.allOnes 64) = BitVec.intMin 64 ∧ remS (BitVec.intMin 64) (BitVec.allOnes 64) = 0 := by
  decide

theorem divU_toNat {x y : Word} (h : y ≠ 0) : (divU x y).toNat = x.toNat / y.toNat := by
  rw [divU, if_neg h, BitVec.toNat_ofNat]
  exact Nat.mod_eq_of_lt ((Nat.div_le_self ..).trans_lt x.isLt)

theorem remU_toNat {x y : Word} (h : y ≠ 0) : (remU x y).toNat = x.toNat % y.toNat := by
  rw [remU, if_neg h, BitVec.toNat_ofNat]
  exact Nat.mod_eq_of_lt ((Nat.mod_le ..).trans_lt x.isLt)

/-- Dividend = quotient · divisor + remainder, modulo 2^64. -/
theorem div_mul_add_rem {x y : Word} (h : y ≠ 0) : x = divS x y * y + remS x y := by
  rw [divS, if_neg h, remS, if_neg h]
  calc x = BitVec.ofInt 64 (x.toInt.tdiv y.toInt * y.toInt + x.toInt.tmod y.toInt) := by
        rw [Int.tdiv_mul_add_tmod, BitVec.ofInt_toInt]
    _ = _ := by rw [BitVec.ofInt_add, BitVec.ofInt_mul, BitVec.ofInt_toInt]

/-- A remainder that is not 0 has the sign of its dividend. -/
theorem tmod_neg_iff {a b : Int} (h : a.tmod b ≠ 0) : a.tmod b < 0 ↔ a < 0 := by
  rcases le_or_gt 0 a with ha | ha
  · exact iff_of_false (not_lt.mpr (Int.tmod_nonneg b ha)) (not_lt.mpr ha)
  · have hneg : 0 ≤ (-a).tmod b := Int.tmod_nonneg b (by omega)
    rw [Int.neg_tmod] at hneg
    exact iff_of_true (by omega) ha

theorem rem_sign (x y : Word) : remS x y = 0 ∨ ((remS x y).toInt < 0 ↔ x.toInt < 0) := by
  rw [remS_eq_srem, or_iff_not_imp_left]
  intro h
  have hmod : x.toInt.tmod y.toInt ≠ 0 := fun h0 => h (BitVec.eq_of_toInt_eq (by rw [BitVec.toInt_srem, h0]; rfl))
  rw [BitVec.toInt_srem]
  exact tmod_neg_iff hmod

/-! ## Counts of bits (R213) -/

theorem clzCount_le (x : Word) : clzCount x ≤ 64 := by
  unfold clzCount; split_ifs <;> omega

theorem clzCount_of_ne {x : Word} (h : x ≠ 0) : clzCount x = 63 - x.toNat.log2 ∧ x.toNat.log2 < 64 := by
  have hn : x.toNat ≠ 0 := fun e => h (BitVec.eq_of_toNat_eq e)
  exact ⟨if_neg h, (Nat.log2_lt hn).mpr x.isLt⟩

/-- Every bit above the highest set one is 0. -/
theorem getLsbD_of_clzCount {x : Word} {i : Nat} (hi : 64 - clzCount x ≤ i) : x.getLsbD i = false := by
  by_cases h : x = 0
  · rw [h]; exact BitVec.getLsbD_zero
  · obtain ⟨hcount, hlog⟩ := clzCount_of_ne h
    refine Nat.testBit_lt_two_pow (Nat.lt_log2_self.trans_le (Nat.pow_le_pow_right (by decide) ?_))
    omega

theorem getLsbD_clzCount {x : Word} (h : clzCount x < 64) : x.getLsbD (63 - clzCount x) = true := by
  have hx : x ≠ 0 := fun e => by rw [e] at h; exact absurd h (by decide)
  have hn : x.toNat ≠ 0 := fun e => hx (BitVec.eq_of_toNat_eq e)
  obtain ⟨hcount, hlog⟩ := clzCount_of_ne hx
  rw [hcount, Nat.sub_sub_self (by omega)]
  exact Nat.testBit_log2 hn

theorem lowestBit_eq_some_iff {x : Word} {i : Nat} : lowestBit x = some i ↔
    x.getLsbD i = true ∧ i < 64 ∧ ∀ j, j < i → x.getLsbD j = false := by
  rw [lowestBit, List.find?_range_eq_some, List.mem_range]
  simp only [Bool.not_eq_true']

theorem lowestBit_eq_none_iff {x : Word} : lowestBit x = none ↔ ∀ i, i < 64 → x.getLsbD i = false := by
  rw [lowestBit, List.find?_eq_none]
  simp only [List.mem_range, Bool.not_eq_true]

/-- What a count of trailing zeros is: the number of the lowest set bit, or 64. -/
theorem ctzCount_spec (x : Word) : ctzCount x ≤ 64 ∧ (∀ i, i < ctzCount x → x.getLsbD i = false) ∧
    (ctzCount x < 64 → x.getLsbD (ctzCount x) = true) := by
  unfold ctzCount
  cases h : lowestBit x with
  | none => exact ⟨le_refl _, lowestBit_eq_none_iff.mp h, fun hlt => absurd hlt (lt_irrefl _)⟩
  | some i =>
    obtain ⟨hset, hlt, hlow⟩ := lowestBit_eq_some_iff.mp h
    exact ⟨hlt.le, hlow, fun _ => hset⟩

theorem foldl_add_toNat (f : Nat → Bool) (xs : List Nat) (n : Nat) :
    xs.foldl (fun m i => m + (f i).toNat) n = n + xs.countP f := by
  induction xs generalizing n with
  | nil => rfl
  | cons x xs ih =>
    rw [List.foldl_cons, ih, List.countP_cons, Nat.add_assoc, Nat.add_comm (f x).toNat]
    cases f x <;> rfl

theorem popCount_eq {w : Nat} (x : BitVec w) : popCount x = (List.range w).countP fun i => x.getLsbD i := by
  rw [popCount, foldl_add_toNat, Nat.zero_add]

/-! ## Reversals (R213) -/

/-- A number of n digits of base 256, the first one highest. -/
def bigEndian (f : Nat → Nat) (n : Nat) : Nat := (List.range n).foldl (fun a i => a * 256 + f i) 0

theorem bigEndian_succ (f : Nat → Nat) (n : Nat) : bigEndian f (n + 1) = bigEndian f n * 256 + f n := by
  rw [bigEndian, List.range_succ, List.foldl_append]; rfl

section
variable {f : Nat → Nat} (hf : ∀ i, f i < 256)
include hf

theorem bigEndian_lt (n : Nat) : bigEndian f n < 256 ^ n := by
  induction n with
  | zero => exact Nat.one_pos
  | succ n ih =>
    have := hf n
    rw [bigEndian_succ, Nat.pow_succ]
    omega

/-- The digit of weight 256^i. -/
theorem bigEndian_digit {n i : Nat} (hi : i < n) : bigEndian f n / 256 ^ i % 256 = f (n - 1 - i) := by
  induction n generalizing i with
  | zero => exact absurd hi (Nat.not_lt_zero i)
  | succ n ih =>
    have hlow := hf n
    rw [bigEndian_succ]
    cases i with
    | zero => rw [Nat.pow_zero, Nat.div_one, Nat.mul_add_mod', Nat.mod_eq_of_lt hlow]; rfl
    | succ i =>
      rw [Nat.pow_succ', ← Nat.div_div_eq_div_mul, show (bigEndian f n * 256 + f n) / 256 = bigEndian f n by omega,
        ih (by omega)]
      congr 1; omega

end

theorem byteSwap_byte (x : Word) {i : Nat} (hi : i < 8) :
    (byteSwap x).extractLsb' (8 * i) 8 = x.extractLsb' (8 * (7 - i)) 8 := by
  have hlt := bigEndian_lt (f := fun j => (x.extractLsb' (8 * j) 8).toNat) (fun j => BitVec.isLt _) 8
  have hdigit := bigEndian_digit (f := fun j => (x.extractLsb' (8 * j) 8).toNat) (fun j => BitVec.isLt _) hi
  refine BitVec.eq_of_toNat_eq ?_
  rw [BitVec.extractLsb'_toNat, byteSwap, BitVec.toNat_ofNat, Nat.shiftRight_eq_div_pow, Nat.pow_mul]
  exact (congrArg (· / 256 ^ i % 256) (Nat.mod_eq_of_lt hlt)).trans hdigit

theorem getLsbD_reversed (x : Word) {i : Nat} (hi : i < 64) : x.reverse.getLsbD i = x.getLsbD (63 - i) := by
  rw [BitVec.getLsbD_reverse, BitVec.getMsbD, decide_eq_true hi, Bool.true_and]

/-! ## Immediates and truth tables (R216, R218) -/

theorem movi_eq (v : BitVec 17) (n : BitVec 6) :
    (v.setWidth 64 <<< n.toNat : Word) = BitVec.ofNat 64 (v.toNat * 2 ^ n.toNat) := by
  refine BitVec.eq_of_toNat_eq ?_
  rw [BitVec.toNat_shiftLeft, BitVec.toNat_setWidth_of_le (by decide), Nat.shiftLeft_eq, BitVec.toNat_ofNat]

theorem lut3Word_bit (a b c : Word) (tbl : BitVec 8) {j : Nat} (hj : j < 64) : (lut3Word a b c tbl).getLsbD j =
    tbl.getLsbD (4 * (a.getLsbD j).toNat + 2 * (b.getLsbD j).toNat + (c.getLsbD j).toNat) :=
  getLsbD_packed _ hj (le_refl 64)

/-! ## Conditions (R219, R281) -/

theorem condHolds_ne (x y : Word) : condHolds .ne x y = decide (x ≠ y) := (decide_not ..).symm

theorem condHolds_tst (x y : Word) : condHolds .tst x y = decide (x &&& y ≠ 0) := (decide_not ..).symm

theorem bne_zero_iff {w : Nat} (x : BitVec w) : (x != 0) = true ↔ ∃ j, j < w ∧ x.getLsbD j = true := by
  rw [bne_iff_ne, ne_eq, show x = 0 ↔ _ from BitVec.zero_iff_eq_false, not_forall]
  refine exists_congr fun j => ⟨fun h => ?_, fun h => by rw [h.2]; exact Bool.noConfusion⟩
  have hj : x.getLsbD j = true := Bool.eq_true_of_not_eq_false h
  exact ⟨BitVec.lt_of_getLsbD hj, hj⟩

theorem beq_allOnes_iff {w : Nat} (x : BitVec w) : (x == BitVec.allOnes w) = true ↔ ∀ j, j < w → x.getLsbD j = true := by
  rw [beq_iff_eq]
  refine ⟨fun h j hj => by rw [h, BitVec.getLsbD_allOnes, decide_eq_true hj], fun h => BitVec.eq_of_getLsbD_eq fun j hj => ?_⟩
  rw [h j hj, BitVec.getLsbD_allOnes, decide_eq_true hj]

end Sys2Proof.Machine
end

section
/-! PROOF. The scalar unit's results, O6 to O10. -/

namespace Sys2Proof.Machine

theorem Puts.of_eq {i : Instr} {d : BitVec 5} {s : State} {x y : Word} (h : Puts i d s x) (hxy : x = y) : Puts i d s y := hxy ▸ h

theorem PutsBc.of_eq {i : Instr} {s : State} {b e : Bool} (h : PutsBc i s b) (hbe : b = e) : PutsBc i s e := hbe ▸ h

section
variable {i : Instr} {d a b : BitVec 5} {s : State}

theorem puts_alu2 {lat : Nat} {f : Word → Word → Word} (he : exec i s = alu2 i d a b lat f s) :
    Puts i d s (f (s.core.rs a) (s.core.rs b)) := puts_put (x := fun c => f (c.rs a) (c.rs b)) he

theorem puts_alu1 {f : Word → Word} (he : exec i s = alu1 i d a f s) : Puts i d s (f (s.core.rs a)) :=
  puts_put (x := fun c => f (c.rs a)) he

/-- A division also occupies the divider (R237). -/
theorem puts_divOp {f : Word → Word → Word} (he : exec i s = divOp i d a b f s) :
    Puts i d s (f (s.core.rs a) (s.core.rs b)) := by
  intro hg
  have hdiv : Keeps s.core { s.core with divFree := s.now + 34 } := ⟨rfl, rfl, rfl, rfl, rfl, rfl⟩
  refine ⟨_, he.trans (withGate_go hg), ?_, onlyScalar_of (hdiv.trans (keeps_put ..)) (still_s_back (still_put ..)) fun r hr => ?_⟩
  · rw [retireWith_core, Core.retire_rs]; exact put_rs ..
  · exact put_rs_ne _ _ _ _ _ _ hr

theorem putsBc_cmpRR {k : Cond6} (he : exec i s = cmpRR i k a b s) : PutsBc i s (condHolds k (s.core.rs a) (s.core.rs b)) :=
  putsBc_of (b := fun c => condHolds k (c.rs a) (c.rs b)) he

theorem putsBc_cmpRI {k : Cond6} {x : Word} (he : exec i s = cmpRI i k a x s) : PutsBc i s (condHolds k (s.core.rs a) x) :=
  putsBc_of (b := fun c => condHolds k (c.rs a) x) he

/-- A vote of a predicate register, which passes through the vector unit (R281). -/
theorem putsBc_vote {v : Core → Bool}
    (he : exec i s = withGate i s fun s => retireWith s fun c => (c.useVec s.now 0).putBc (v c) s.now) : PutsBc i s (v s.core) := by
  intro hg
  refine ⟨_, he.trans (withGate_go hg), ?_, onlyBc_of ((keeps_useVec ..).trans (keeps_putBc ..)) ?_⟩
  · rw [retireWith_core, Core.retire_bc]; rfl
  · exact still_bc_back ((still_putBc ..).trans (by rw [still_useVec]))

end

/-- Settles O6: each form is `alu2` of the word that the rule names. -/
theorem scalarTwoOperands : Obligations.ScalarTwoOperands := by
  intro d a b n s x y k
  have hk : shamt y = k := shamt_eq y
  refine ⟨puts_alu2 (exec_add ..), puts_alu2 (exec_sub ..), puts_alu2 (exec_and ..), puts_alu2 (exec_or ..), puts_alu2 (exec_xor ..),
    puts_alu2 (exec_andn ..), puts_alu2 (exec_orn ..), puts_alu2 (exec_xnor ..), (puts_alu2 (exec_sll ..)).of_eq ?_,
    (puts_alu2 (exec_srl ..)).of_eq ?_, (puts_alu2 (exec_sra ..)).of_eq ?_, (puts_alu2 (exec_rol ..)).of_eq ?_,
    (puts_alu2 (exec_ror ..)).of_eq ?_, puts_alu2 (exec_mul ..), (puts_alu2 (exec_mulh ..)).of_eq (mulh_eq x y),
    (puts_alu2 (exec_mulhu ..)).of_eq (mulhu_eq x y), (puts_alu2 (exec_min ..)).of_eq (ite_lt_eq_ite_le ..),
    (puts_alu2 (exec_max ..)).of_eq (ite_lt_eq_ite_le ..), (puts_alu2 (exec_minu ..)).of_eq (ite_lt_eq_ite_le ..),
    (puts_alu2 (exec_maxu ..)).of_eq (ite_lt_eq_ite_le ..), puts_alu2 (exec_sel ..), puts_alu2 (exec_fsl ..), puts_alu2 (exec_fsr ..)⟩
  · rw [← hk]
  · rw [← hk]
  · rw [← hk]
  · rw [← hk]; exact rotateLeft_shamt x y
  · rw [← hk]; exact rotateRight_shamt x y

/-- Settles O7: the quotients and remainders of the model, with 0 and the least number as divisor and dividend apart. -/
theorem division : Obligations.Division := by
  intro d a b s x y
  refine ⟨divS x y, remS x y, divU x y, remU x y, puts_divOp (exec_div ..), puts_divOp (exec_rem ..), puts_divOp (exec_divu ..),
    puts_divOp (exec_remu ..), fun hy => ?_, fun hx hy => ?_, fun hy => ⟨if_neg hy, ?_, div_mul_add_rem hy, rem_sign x y⟩,
    fun hy => ⟨divU_toNat hy, remU_toNat hy⟩⟩
  · rw [hy]; exact ⟨divS_zero x, remS_zero x, divU_zero x, remU_zero x⟩
  · rw [hx, hy]; exact div_intMin
  · rw [remS, if_neg hy, Int.tmod_def]

/-- Settles O8: the counts of the model, and what its reversals hold bit by bit. -/
theorem scalarBits : Obligations.ScalarBits := by
  intro d a s x
  obtain ⟨hle, hlow, hset⟩ := ctzCount_spec x
  refine ⟨⟨clzCount x, puts_alu1 (exec_clz ..), clzCount_le x, fun i hi => getLsbD_of_clzCount hi, getLsbD_clzCount⟩,
    ⟨ctzCount x, puts_alu1 (exec_ctz ..), hle, hlow, hset⟩, (puts_alu1 (exec_popc ..)).of_eq (congrArg _ (popCount_eq x)),
    ⟨byteSwap x, puts_alu1 (exec_bswap ..), fun i hi => byteSwap_byte x hi⟩,
    ⟨x.reverse, puts_alu1 (exec_brev ..), fun i hi => getLsbD_reversed x hi⟩⟩

/-- Settles O9: one operand and an immediate, or a register moved. -/
theorem scalarImmediates : Obligations.ScalarImmediates := by
  intro d a b c i n v tbl t s x
  refine ⟨puts_alu1 (exec_addi ..), puts_alu1 (exec_andi ..), puts_alu1 (exec_ori ..), puts_alu1 (exec_xori ..),
    puts_alu1 (exec_slli ..), puts_alu1 (exec_srli ..), puts_alu1 (exec_srai ..),
    (puts_alu1 (exec_rori ..)).of_eq (rotateRight_toNat x n),
    (puts_put (x := fun _ => v.setWidth 64 <<< n.toNat) (exec_movi ..)).of_eq (movi_eq v n),
    puts_put (x := fun c => boolWord c.bc) (exec_mfbc ..), puts_put (x := fun c => c.rb t) (exec_mfb ..),
    lut3Word x (s.core.rs b) (s.core.rs c) tbl, puts_put (x := fun k => lut3Word (k.rs a) (k.rs b) (k.rs c) tbl) (exec_lut3 ..),
    fun j hj => lut3Word_bit _ _ _ _ hj⟩

/-- Settles O10: compares and tests by their condition, votes by the bits of the predicate register. -/
theorem branchCondition : Obligations.BranchCondition := by
  intro a b i p s x y e
  refine ⟨putsBc_cmpRR (exec_cmpEq ..), (putsBc_cmpRR (exec_cmpNe ..)).of_eq (condHolds_ne ..), putsBc_cmpRR (exec_cmpLt ..),
    putsBc_cmpRR (exec_cmpGe ..), putsBc_cmpRR (exec_cmpLtu ..), putsBc_cmpRR (exec_cmpGeu ..),
    (putsBc_cmpRR (exec_tst ..)).of_eq (condHolds_tst ..), putsBc_cmpRI (exec_cmpiEq ..),
    (putsBc_cmpRI (exec_cmpiNe ..)).of_eq (condHolds_ne ..), putsBc_cmpRI (exec_cmpiLt ..), putsBc_cmpRI (exec_cmpiGe ..),
    putsBc_cmpRI (exec_cmpiLtu ..), putsBc_cmpRI (exec_cmpiGeu ..), (putsBc_cmpRI (exec_tsti ..)).of_eq (condHolds_tst ..),
    putsBc_of (b := fun c => (c.rs a).getLsbD 0) (exec_mtbc ..),
    ⟨_, putsBc_vote (v := fun c => c.rp p != 0) (exec_vany ..), bne_zero_iff _⟩,
    ⟨_, putsBc_vote (v := fun c => c.rp p == BitVec.allOnes 1024) (exec_vall ..), beq_allOnes_iff _⟩⟩

end Sys2Proof.Machine
end

section
/-! PROOF. Branches, branch targets, calls and returns, O12 and O13. -/

namespace Sys2Proof.Machine

/-! ## br and bz (R222) -/

/-- What a branch leaves: the next word, and two delay slots toward the target of its register if it is taken. -/
def OpensSlots (b : BitVec 2) (s : State) (taken : Bool) (t : State) : Prop :=
  t.core.pc = s.core.pc + 4 ∧ t.core.vigil = s.core.vigil - 1 ∧ t.core.still = s.core.still ∧
  (t.core.lc, t.core.ls, t.core.le, t.core.heldLs, t.core.heldLe)
    = (s.core.lc, s.core.ls, s.core.le, s.core.heldLs, s.core.heldLe) ∧ Outside s t ∧ BytesKept s t ∧
  (if taken then ∃ e, t.core.slots = some ⟨2, some ((s.core.rb b).setWidth 32), e⟩
    else ∃ e, t.core.slots = some ⟨2, none, e⟩)

theorem condBranch_completes {i : Instr} {b : BitVec 2} {want taken : Bool} {s : State} (he : exec i s = condBranch i b want s)
    (ht : s.core.bc = want ↔ taken = true) : Completes i s (OpensSlots b s taken) := by
  intro hg
  refine ⟨_, he.trans (withGate_go hg), rfl, rfl, rfl, rfl, rfl, bytesKept_of_still rfl, ?_⟩
  by_cases hbc : s.core.bc = want
  · rw [if_pos (ht.mp hbc)]
    exact ⟨_, congrArg (fun x => some (Slots.mk 2 x _)) (if_pos hbc)⟩
  · rw [if_neg (mt ht.mpr hbc)]
    exact ⟨_, congrArg (fun x => some (Slots.mk 2 x _)) (if_neg hbc)⟩

/-- Settles O12: `br` is taken where BC is 1, `bz` where it is 0. -/
theorem conditionalBranches : Obligations.ConditionalBranches := fun b s =>
  ⟨condBranch_completes (taken := s.core.bc) (exec_br b s) Iff.rfl,
    condBranch_completes (taken := !s.core.bc) (exec_bz b s) (by rw [Bool.not_eq_true'])⟩

/-! ## Branch-target registers (R221) -/

theorem Core.askRow_eq (c : Core) (a now : Nat) : c.askRow a now = { c with rowReads := (c.askRow a now).rowReads } := by
  unfold Core.askRow; dsimp only; split_ifs <;> rfl

theorem rb_wb' (c : Core) (b : BitVec 2) (x : Word) (now : Nat) : (c.wb' b x now).rb b = clear4 x := by
  simp [Core.wb', Core.rb]

theorem rb_wb'_ne (c : Core) {b r : BitVec 2} (x : Word) (now : Nat) (h : r ≠ b) : (c.wb' b x now).rb r = c.rb r := by
  have hn : b.toNat ≠ r.toNat := fun e => h (BitVec.eq_of_toNat_eq e.symm)
  simp [Core.wb', Core.rb, Vector.getElem_set_ne, hn]

theorem Core.rb_congr {c d : Core} (h : d.b = c.b) (r : BitVec 2) : d.rb r = c.rb r := by
  unfold Core.rb
  rw [h]

/-- A branch-target register aimed, and its row asked for. -/
def Core.aim (c : Core) (b : BitVec 2) (x : Word) (now : Nat) : Core :=
  ((c.wb' b x now).askRow ((c.wb' b x now).rb b).toNat now).after (br' b) (now + 1)

theorem aim_eq (c : Core) (b : BitVec 2) (x : Word) (now : Nat) : c.aim b x now = { c with
    b := (c.wb' b x now).b, btime := (c.wb' b x now).btime, rowReads := (c.aim b x now).rowReads
    ready := (c.aim b x now).ready } := by
  unfold Core.aim
  rw [Core.askRow_eq]
  rfl

theorem keeps_aim (c : Core) (b : BitVec 2) (x : Word) (now : Nat) : Keeps c (c.aim b x now) := by
  rw [aim_eq]; exact ⟨rfl, rfl, rfl, rfl, rfl, rfl⟩

theorem aim_rb (c : Core) (b : BitVec 2) (x : Word) (now : Nat) :
    (c.aim b x now).rb b = clear4 x ∧ ∀ r, r ≠ b → (c.aim b x now).rb r = c.rb r := by
  have hb : (c.aim b x now).b = (c.wb' b x now).b := by rw [aim_eq]
  exact ⟨(Core.rb_congr hb b).trans (rb_wb' ..), fun r hr => (Core.rb_congr hb r).trans (rb_wb'_ne _ _ _ hr)⟩

/-- What `ptg` and `ptr` leave: the register holds the address, bits [1:0] cleared. -/
def Aims (b : BitVec 2) (x : Word) (s t : State) : Prop :=
  t.core.rb b = x &&& ~~~3 ∧ (∀ r, r ≠ b → t.core.rb r = s.core.rb r) ∧
  { t.core.still with b := s.core.b, btime := s.core.btime, rowReads := s.core.rowReads } = s.core.still ∧
  Outside s t ∧ BytesKept s t ∧ Retires s t

theorem aim_completes {i : Instr} {b : BitVec 2} {x : Core → Word} {s : State}
    (he : exec i s = withGate i s fun s => retireWith s fun c => c.aim b (x c) s.now) : Completes i s (Aims b (x s.core) s) := by
  intro hg
  obtain ⟨hb, hrest⟩ := aim_rb s.core b (x s.core) s.now
  have hrb (r : BitVec 2) : (retireWith s fun c => c.aim b (x c) s.now).core.rb r = (s.core.aim b (x s.core) s.now).rb r :=
    Core.rb_congr (Core.retire_b ..) r
  refine ⟨_, he.trans (withGate_go hg), (hrb b).trans hb, fun r hr => (hrb r).trans (hrest r hr), ?_, rfl, bytes_of (keeps_aim ..),
    retires_of (keeps_aim ..)⟩
  rw [retireWith_core, Core.still_retire, aim_eq]
  rfl

/-! ## call (R153, R154, R226) -/

/-- What a transfer through the stack leaves of what it does not say itself: the other registers, the next word, Vigil, the loop
count, what lies outside the core, every byte. -/
def LinkKept (s t : State) : Prop :=
  (∀ r, r ≠ 31 → t.core.rs r = s.core.rs r) ∧ t.core.pc = s.core.pc + 4 ∧ t.core.vigil = s.core.vigil - 1 ∧
    t.core.lc = s.core.lc ∧ OutsideFree s t ∧ BytesKept s t

/-- A row asked for and a transfer begun, past what an instruction has done before. -/
def Core.departs (c : Core) (row : Nat) (target : BitVec 32) (earliest now : Nat) : Core :=
  (c.askRow row now).retireBranch (some target) earliest now

theorem departs_eq (c : Core) (row : Nat) (target : BitVec 32) (earliest now : Nat) : c.departs row target earliest now =
    ({ c with rowReads := (c.askRow row now).rowReads, pc := c.pc + 4, slots := some ⟨2, some target, earliest⟩ } : Core).finish true now := by
  unfold Core.departs
  rw [Core.askRow_eq]
  rfl

/-- A transfer through the stack begun after an effect that keeps the path of control. -/
theorem linkKept_departs {s u : State} (hk : Keeps s.core u.core) (hout : OutsideFree s u)
    (hrs : ∀ r, r ≠ 31 → u.core.rs r = s.core.rs r) (row : Nat) (target : BitVec 32) (earliest now : Nat) :
    LinkKept s (u.mod fun c => c.departs row target earliest now) := by
  have hpath := hk.path
  simp only [Core.path, Prod.mk.injEq] at hpath
  obtain ⟨hpc, -, hlc, -⟩ := hpath
  have hbytes : BytesKept u (u.mod fun c => c.departs row target earliest now) := by
    refine bytesKept_mod u _ ?_ ?_ ?_ ?_ <;> rw [departs_eq] <;> rfl
  refine ⟨fun r hr => ?_, ?_, ?_, ?_, hout.mod _, (bytesKept_of_keeps hk hout).trans hbytes⟩
  · rw [State.mod_core, departs_eq]; exact (Core.rs_congr rfl r).trans (hrs r hr)
  · rw [State.mod_core, departs_eq]; exact congrArg (· + 4) hpc
  · rw [State.mod_core, departs_eq]; exact congrArg (· - 1) hk.vigil
  · rw [State.mod_core, departs_eq]; exact hlc

theorem push_b (s : State) (bs : List Byte) : (s.push bs).core.b = s.core.b := by
  unfold State.push
  dsimp only
  split
  · next r hr =>
    have hstore (r : Region) (a : Nat) : (s.localStore r a bs 0).core.b = s.core.b := by
      cases r with
      | scratch => show (s.core.scrStore s.now a bs).b = _; rw [Core.scrStore_eq]
      | csm | pool | weight => rfl
    rw [State.mod_core, Core.put_eq, Core.strikeStore_eq]
    exact hstore ..
  · rfl

/-- The return address of a `call`, past its delay slots. -/
def Core.returnBytes (c : Core) : List Byte := natToBytes 8 (c.pc.setWidth 64 + 12 : Word).toNat

theorem exec_call_departs (b : BitVec 2) (s : State) : exec (.call b) s = withGate (.call b) s fun s =>
    (s.push s.core.returnBytes).mod fun c =>
      c.departs (s.core.rb b).toNat ((s.core.rb b).setWidth 32) (s.core.targetFrom b s.now) s.now := exec_call b s

theorem call_completes {b : BitVec 2} {s : State} {r : Region} (hr : s.core.local? (s.core.rs 31 - 8) 8 true = some r) :
    Completes (.call b) s fun t =>
      let st := s.localStore r (s.core.rs 31 - 8).toNat s.core.returnBytes 0
      t.core.rs 31 = s.core.rs 31 - 8 ∧ t.core.timed = st.core.timed ∧ t.core.acc = st.core.acc ∧
      (∃ e, t.core.slots = some ⟨2, some ((s.core.rb b).setWidth 32), e⟩) ∧ t.core.b = s.core.b ∧ LinkKept s t := by
  intro hg
  have hlen : s.core.returnBytes.length = 8 := length_natToBytes ..
  have hpush : Pushed s r (s.core.rs 31 - 8) s.core.returnBytes (s.push s.core.returnBytes) :=
    pushed_push (by rw [hlen]; rfl) (by rw [hlen]; exact hr)
  obtain ⟨hk, hout, htimed, hacc, hsp, hrs⟩ := hpush
  refine ⟨_, (exec_call_departs b s).trans (withGate_go hg), ?_, ?_, ?_, ⟨s.core.targetFrom b s.now, ?_⟩, ?_,
    linkKept_departs hk hout hrs ..⟩ <;> rw [State.mod_core, departs_eq]
  · exact (Core.rs_congr rfl 31).trans hsp
  · exact htimed
  · exact hacc
  · rfl
  · exact push_b ..

/-! ## ret (R153, R154, R226, R243) -/

/-- The core of a `ret` once its word is read, by what the read met: the register, `sp`, and the report owed. -/
def Core.linked (c : Core) (b : BitVec 2) (bs : List Byte) (bad : Bool) (now : Nat) : Core :=
  let x : Word := if bad then c.rb b else BitVec.ofNat 64 (bytesToNat bs)
  let c0 := if bad then c.owe b.toNat (c.rs 31).toNat now else c
  ((c0.wb' b x now).after (br' b) (now + 1)).put 31 (c.rs 31 + 8) now 1

theorem linked_eq (c : Core) (b : BitVec 2) (bs : List Byte) (bad : Bool) (now : Nat) : c.linked b bs bad now = { c with
    b := (c.linked b bs bad now).b, btime := (c.linked b bs bad now).btime, s := (c.linked b bs bad now).s
    marks := (c.linked b bs bad now).marks, owed := (c.linked b bs bad now).owed, ready := (c.linked b bs bad now).ready } := by
  unfold Core.linked
  dsimp only
  rw [Core.put_eq]
  split_ifs <;> rfl

theorem keeps_linked (c : Core) (b : BitVec 2) (bs : List Byte) (bad : Bool) (now : Nat) : Keeps c (c.linked b bs bad now) := by
  rw [linked_eq]; exact ⟨rfl, rfl, rfl, rfl, rfl, rfl⟩

/-- The word that `ret` takes its target from; a poisoned one leaves the register as it was (log entry 47). -/
def Core.linkWord (c : Core) (b : BitVec 2) (bs : List Byte) (bad : Bool) : Word :=
  if bad then c.rb b else BitVec.ofNat 64 (bytesToNat bs)

theorem linked_rb (c : Core) (b : BitVec 2) (bs : List Byte) (bad : Bool) (now : Nat) :
    (c.linked b bs bad now).rb b = clear4 (c.linkWord b bs bad) ∧ ∀ r, r ≠ b → (c.linked b bs bad now).rb r = c.rb r := by
  have howe : (if bad then c.owe b.toNat (c.rs 31).toNat now else c).b = c.b := by split_ifs <;> rfl
  have hb : (c.linked b bs bad now).b =
      ((if bad then c.owe b.toNat (c.rs 31).toNat now else c).wb' b (c.linkWord b bs bad) now).b := by
    unfold Core.linked
    dsimp only
    rw [Core.put_eq]
    rfl
  exact ⟨(Core.rb_congr hb b).trans (rb_wb' ..),
    fun r hr => (Core.rb_congr hb r).trans ((rb_wb'_ne _ _ _ hr).trans (Core.rb_congr howe r))⟩

theorem linked_rs (c : Core) (b : BitVec 2) (bs : List Byte) (bad : Bool) (now : Nat) :
    (c.linked b bs bad now).rs 31 = c.rs 31 + 8 ∧ ∀ r, r ≠ 31 → (c.linked b bs bad now).rs r = c.rs r := by
  have howe : (if bad then c.owe b.toNat (c.rs 31).toNat now else c).s = c.s := by split_ifs <;> rfl
  exact ⟨(put_rs ..).trans (if_neg (by decide)), fun r hr => (put_rs_ne _ _ _ _ _ _ hr).trans (Core.rs_congr howe r)⟩

/-- What a `ret` has done when its transfer begins: its target in the register, `sp` past the word, no access begun. -/
structure Links (c : Core) (b : BitVec 2) (x : Word) (d : Core) : Prop where
  keeps : Keeps c d
  target : d.rb b = x &&& ~~~3
  targets : ∀ r, r ≠ b → d.rb r = c.rb r
  sp : d.rs 31 = c.rs 31 + 8
  regs : ∀ r, r ≠ 31 → d.rs r = c.rs r
  timed : d.timed = c.timed
  acc : d.acc = c.acc
  late : d.late = c.late

theorem links_linked (c : Core) (b : BitVec 2) (bs : List Byte) (bad : Bool) (now : Nat) :
    Links c b (c.linkWord b bs bad) (c.linked b bs bad now) := by
  obtain ⟨hb, hbs⟩ := linked_rb c b bs bad now
  obtain ⟨hsp, hrs⟩ := linked_rs c b bs bad now
  have heq := linked_eq c b bs bad now
  exact ⟨keeps_linked .., hb, hbs, hsp, hrs, (congrArg Core.timed heq :), (congrArg Core.acc heq :), (congrArg Core.late heq :)⟩

/-- The read ports that the pop takes are none of it. -/
theorem Links.of_reading {c d : Core} {b : BitVec 2} {x : Word} {ports : List (Nat × Nat)} (h : Links (c.reading ports) b x d) :
    Links c b x d :=
  { h with keeps := (⟨rfl, rfl, rfl, rfl, rfl, rfl⟩ : Keeps c (c.reading ports)).trans h.keeps }

/-- The transfer to the target. -/
def Core.follows (d : Core) (b : BitVec 2) (now : Nat) : Core :=
  d.departs ((d.rb b).setWidth 32).toNat ((d.rb b).setWidth 32) (now + 4) now

theorem Links.follows {s : State} {d : Core} {b : BitVec 2} {x : Word} (h : Links s.core b x d) :
    let t := s.mod fun _ => d.follows b s.now
    t.core.rb b = x &&& ~~~3 ∧ (∀ r, r ≠ b → t.core.rb r = s.core.rb r) ∧ t.core.rs 31 = s.core.rs 31 + 8 ∧
      t.core.timed = s.core.timed ∧ t.core.acc = s.core.acc ∧ t.core.late = s.core.late ∧
      (∃ e, t.core.slots = some ⟨2, some ((x &&& ~~~3).setWidth 32), e⟩) ∧ LinkKept s t := by
  refine ⟨?_, fun r hr => ?_, ?_, ?_, ?_, ?_, ⟨s.now + 4, ?_⟩,
    linkKept_departs (u := s.mod fun _ => d) h.keeps rfl h.regs ..⟩ <;> rw [State.mod_core, Core.follows, departs_eq]
  · exact (Core.rb_congr rfl b).trans h.target
  · exact (Core.rb_congr rfl r).trans (h.targets r hr)
  · exact (Core.rs_congr rfl 31).trans h.sp
  · exact h.timed
  · exact h.acc
  · exact h.late
  · rw [h.target]; rfl

theorem exec_ret_pop (b : BitVec 2) (s : State) : exec (.ret b) s = withGate (.ret b) s fun s => s.pop 8 fun bs bad s =>
    s.mod fun c => (c.linked b bs bad s.now).follows b s.now := exec_ret b s

theorem ret_completes {b : BitVec 2} {s : State} {bs : List Byte} {bad : Bool} (h : PopReads s 8 bs bad) :
    Completes (.ret b) s fun t =>
      let x := s.core.linkWord b bs bad
      t.core.rb b = x &&& ~~~3 ∧ (∀ r, r ≠ b → t.core.rb r = s.core.rb r) ∧ t.core.rs 31 = s.core.rs 31 + 8 ∧
      t.core.timed = s.core.timed ∧ t.core.acc = s.core.acc ∧ t.core.late = s.core.late ∧
      (∃ e, t.core.slots = some ⟨2, some ((x &&& ~~~3).setWidth 32), e⟩) ∧ LinkKept s t := by
  intro hg
  obtain ⟨ports, hpop⟩ := pop_reads h
  have hexec : exec (.ret b) s = .next (s.mod fun c => ((c.reading ports).linked b bs bad s.now).follows b s.now) :=
    (exec_ret_pop b s).trans ((withGate_go hg).trans (congrArg Host.Outcome.next hpop))
  exact ⟨_, hexec, (links_linked (s.core.reading ports) b bs bad s.now).of_reading.follows⟩

/-- Settles O13: `ptg` and `ptr` by what aiming a register leaves, `call` by its push, `ret` by its pop. -/
theorem transferRegisters : Obligations.TransferRegisters := by
  refine ⟨fun b i a s => ⟨aim_completes (x := fun c => c.pc.setWidth 64 + 4 * i.signExtend 64) (exec_ptg b i s),
      aim_completes (x := fun c => c.rs a) (exec_ptr b a s)⟩,
    fun b s bs bad => ⟨fun r hr => call_completes hr, fun h => ret_completes h, popWaits_of (exec_ret_pop b s),
      fun due r hcur hw hdue hr _ hfree => ?_⟩⟩
  exact windowReads_of (i := .ret b) (x := ⟨s.core.rs 31, 8, false, false⟩) rfl rfl hcur hw hdue hr hfree

end Sys2Proof.Machine
end

section
/-! PROOF. Instructions where they may not stand, `trap`, `eret`, and reports taken at issue, O16 and O20. -/

namespace Sys2Proof.Machine

/-! ## Placement (R156, R223, R231, R232) -/

/-- A word that may not stand where it stands takes ILLEGAL before anything else. -/
def TrapsIllegal (s : State) (i : Instr) : Prop := exec i s = .next (s.takeTrap 1 (BitVec.ofNat 64 (encode i)) s.core.pc)

theorem trapsIllegal_of_misplaced {i : Instr} {s : State} (hw : s.core.waiting.committed = false) (hi : isStrand i = true)
    (hm : s.core.misplaced i = true) : TrapsIllegal s i :=
  exec_of_gate_trap hi (by unfold gate; simp only [hw, hm, Bool.false_eq_true, if_false, if_true])

section
variable {c : Core} {i : Instr}

theorem misplaced_in_slot (hi : noSlot i = true) (hs : c.slots ≠ none) : c.misplaced i = true := by
  simp [Core.misplaced, hi, Option.isSome_iff_ne_none.mpr hs]

theorem misplaced_at_loopEnd (hi : noLoopEnd i = true) (hlc : c.lc ≠ 0)
    (hpc : c.pc.setWidth 64 = c.le ∨ c.pc.setWidth 64 = c.le - 4) : c.misplaced i = true := by
  simp only [Core.misplaced, hi, Bool.or_eq_true, Bool.and_eq_true, bne_iff_ne, beq_iff_eq]
  exact .inl (.inr ⟨⟨trivial, hlc⟩, hpc⟩)

theorem misplaced_eret (h : c.inh = false) : c.misplaced .eret = true := by
  simp [Core.misplaced, h]

theorem misplaced_yield {n : BitVec 12} {m : BitVec 16} (h : c.inh = true) : c.misplaced (.yield n m) = true := by
  simp [Core.misplaced, h]

end

/-- Settles O16: each kind of misplaced word is ILLEGAL at the gate. -/
theorem misplacedTraps : Obligations.MisplacedTraps := by
  intro b a n m t s c illegal hw
  have hslot (hs : c.slots ≠ none) (i : Instr) (hi : isStrand i = true) (h : noSlot i = true) : illegal i :=
    trapsIllegal_of_misplaced hw hi (misplaced_in_slot h hs)
  refine ⟨fun hs => ?_, fun hlc hpc => ?_, fun h => trapsIllegal_of_misplaced hw rfl (misplaced_eret h),
    fun h => trapsIllegal_of_misplaced hw rfl (misplaced_yield h)⟩
  · exact ⟨hslot hs _ rfl rfl, hslot hs _ rfl rfl, hslot hs _ rfl rfl, hslot hs _ rfl rfl, hslot hs _ rfl rfl, hslot hs _ rfl rfl,
      hslot hs _ rfl rfl, hslot hs _ rfl rfl, hslot hs _ rfl rfl, hslot hs _ rfl rfl, hslot hs _ rfl rfl, hslot hs _ rfl rfl,
      hslot hs _ rfl rfl⟩
  · have hend (i : Instr) (hi : isStrand i = true) (h : noLoopEnd i = true) : illegal i :=
      trapsIllegal_of_misplaced hw hi (misplaced_at_loopEnd h hlc hpc)
    exact ⟨hend _ rfl rfl, hend _ rfl rfl, hend _ rfl rfl, hend _ rfl rfl, hend _ rfl rfl, hend _ rfl rfl, hend _ rfl rfl⟩

/-! ## trap and eret (R229, R231) -/

theorem trap_completes (n : BitVec 5) (s : State) : Completes (.trap n) s fun t =>
    ∃ u : State, t = u.takeTrap 8 (n.setWidth 64) (s.core.pc + 4) ∧ u.core.vigil = s.core.vigil - 1 ∧ u.core.still = s.core.still ∧
      u.core.path = s.core.path ∧ Outside s u ∧ BytesKept s u := fun hg =>
  ⟨_, (exec_trap n s).trans (withGate_go hg), _, rfl, rfl, rfl, rfl, rfl, bytesKept_of_still rfl⟩

/-- The core that has left its handler. -/
def Core.returned (c : Core) (now : Nat) : Core := (c.leaveTrap now).finish true now

theorem returned_slots (c : Core) (now : Nat) : (c.dsField = 0 → (c.returned now).slots = none) ∧
    (c.dsField ≠ 0 → ∃ e, (c.returned now).slots = some ⟨c.dsField.toNat, some (c.trapTgt &&& ~~~3), e⟩) :=
  ⟨fun h => if_pos h, fun h => ⟨now + 4, if_neg h⟩⟩

theorem still_returned (c : Core) (now : Nat) : { (c.returned now).still with
    inh := c.inh, dsField := c.dsField, redOwed := c.redOwed, redHeld := c.redHeld } = c.still := by
  rw [Core.returned, Core.still_finish]; rfl

theorem eret_completes (s : State) : Completes .eret s fun t => t = (s.mod fun c => c.returned s.now) ∧ BytesKept s t := fun hg =>
  ⟨_, (exec_eret s).trans (withGate_go hg), rfl, bytesKept_mod s (fun c => c.returned s.now) rfl rfl rfl rfl⟩

/-! ## Traps that enter the handler (R352) -/

theorem takeTrap_enters {s : State} (hi : s.core.inh = false) (ht : s.core.tvec ≠ 0) (code : BitVec 8) (v : Word) (pc : BitVec 32) :
    s.takeTrap code v pc = s.mod fun c => c.enterTrap s.now code v pc := by
  unfold State.takeTrap
  rw [if_neg (by rw [hi]; exact Bool.false_ne_true), if_neg ht]
  rfl

/-- The handler is entered for a cause at the instruction at issue, the registers and Vigil standing. -/
def EntersHandler (s : State) (code : BitVec 8) (t : State) : Prop :=
  t.core.trapCause = code ∧ t.core.trapPc = s.core.pc &&& ~~~3 ∧ t.core.pc = s.core.tvec ∧ t.core.inh = true ∧
    t.core.vigil = s.core.vigil ∧ (t.core.s, t.core.v, t.core.p, t.core.k) = (s.core.s, s.core.v, s.core.p, s.core.k)

/-- What a report's delivery has moved before its trap: none of what the trap reads or keeps. -/
structure BeforeTrap (c d : Core) : Prop where
  pc : d.pc = c.pc
  tvec : d.tvec = c.tvec
  inh : d.inh = c.inh
  vigil : d.vigil = c.vigil
  regs : (d.s, d.v, d.p, d.k) = (c.s, c.v, c.p, c.k)

theorem entersHandler_takeTrap {s u : State} (hu : BeforeTrap s.core u.core) (hi : s.core.inh = false) (ht : s.core.tvec ≠ 0)
    (code : BitVec 8) (v : Word) :
    EntersHandler s code (u.takeTrap code v s.core.pc) ∧ (u.takeTrap code v s.core.pc).core.trapVal = v := by
  rw [takeTrap_enters (hu.inh.trans hi) (by rw [hu.tvec]; exact ht)]
  exact ⟨⟨rfl, rfl, hu.tvec, rfl, hu.vigil, hu.regs⟩, rfl⟩

theorem settle_eq (c : Core) (r : PoisonReport) : c.settle r = { c with marks := (c.settle r).marks, owed := (c.settle r).owed } := by
  unfold Core.settle; split_ifs <;> rfl

theorem beforeTrap_takeReport (c : Core) (r : PoisonReport) : BeforeTrap c (c.takeReport r) := by
  unfold Core.takeReport
  split_ifs
  · exact ⟨rfl, rfl, rfl, rfl, rfl⟩
  · rw [settle_eq]; exact ⟨rfl, rfl, rfl, rfl, rfl⟩

theorem logPoison_core (s : State) (r : PoisonReport) : (s.logPoison r).core = s.core := by
  unfold State.logPoison; split_ifs <;> rfl

theorem entersHandler_takePoison {s u : State} {r : PoisonReport} (hu : BeforeTrap s.core u.core) (hr : r.integrity = false)
    (hi : s.core.inh = false) (ht : s.core.tvec ≠ 0) :
    EntersHandler s 12 (u.takePoison r) ∧ (u.takePoison r).core.trapVal = r.src ++ r.reg ++ r.addr := by
  have hlog : BeforeTrap s.core (u.logPoison r).core := (logPoison_core u r).symm ▸ hu
  have hpc : (u.takePoison r) = (u.logPoison r).takeTrap 12 r.val s.core.pc := by
    unfold State.takePoison
    rw [if_neg (by rw [hr]; exact Bool.false_ne_true), hu.pc]
  rw [hpc]
  exact entersHandler_takeTrap hlog hi ht 12 r.val

theorem exec_poison_met {s : State} {r : PoisonReport} (h : s.core.poisonAt s.now = some r) (hr : r.integrity = false) :
    exec .poison s = .next (State.takePoison (s.mod fun c => c.takeReport r) r) := by
  rw [exec_poison, execPoison, State.reportAt, h]
  exact congrArg Host.Outcome.next (if_pos hr)

/-! ## Deferred reports (R354, R355) -/

/-- The cause that a report's trap has (R351). -/
def Report.cause : Report → BitVec 8
  | .precise _ | .imprecise _ => 14
  | .engine _ x => if x.schedmiss then 11 else 10
  | .read _ | .reduction _ => 12

/-- The record of an interrupted wait leaves the core alone (R398). -/
theorem logInterrupted_core (s : State) (r : Report) : (s.logInterrupted r).core = s.core := by
  unfold State.logInterrupted
  split
  · next i _ =>
    split_ifs
    · obtain ⟨parts, dies, h⟩ := logWait_onlyLogs s s.core i 3 setterNone
      rw [h]
    · rfl
  · rfl

theorem emptyEngine_beforeTrap (c : Core) (e : EngineId) : BeforeTrap c (c.emptyEngine e) := by
  cases e <;> exact ⟨rfl, rfl, rfl, rfl, rfl⟩

/-- A report that is delivered enters the handler for its cause, whatever log its wait leaves. -/
theorem entersHandler_deliverReport {s : State} {r : Report} (hr : ∀ x, r = .read x ∨ r = .reduction x → x.integrity = false)
    (hi : s.core.inh = false) (ht : s.core.tvec ≠ 0) : EntersHandler s r.cause (s.deliverReport r) := by
  have hcore := logInterrupted_core s r
  have hmod (f : Core → Core) (h : ∀ c, BeforeTrap c (f c)) : BeforeTrap s.core ((s.logInterrupted r).mod f).core := by
    rw [State.mod_core, hcore]; exact h s.core
  unfold State.deliverReport
  dsimp only
  cases r with
  | precise w =>
    rw [hcore]
    exact (entersHandler_takeTrap (hmod (fun c => { c with watchNow := none }) fun c => ⟨rfl, rfl, rfl, rfl, rfl⟩) hi ht 14 _).1
  | engine e x =>
    rw [hcore]
    exact (entersHandler_takeTrap (hmod (fun c => c.emptyEngine e) fun c => emptyEngine_beforeTrap c e) hi ht _ _).1
  | read x =>
    exact (entersHandler_takePoison (hmod (fun c => { c with engPoison := c.engPoison.erase x }) fun c => ⟨rfl, rfl, rfl, rfl, rfl⟩)
      (hr x (.inl rfl)) hi ht).1
  | reduction x =>
    exact (entersHandler_takePoison (hmod (fun c => { c with redOwed := c.redOwed.erase x }) fun c => ⟨rfl, rfl, rfl, rfl, rfl⟩)
      (hr x (.inr rfl)) hi ht).1
  | imprecise w =>
    rw [hcore]
    exact (entersHandler_takeTrap (hmod (fun c => { c with watchQ := c.watchQ.erase w, watchLost := false })
      fun c => ⟨rfl, rfl, rfl, rfl, rfl⟩) hi ht 14 _).1

theorem exec_deferredReport {s : State} {r : Report} (h : s.core.nextReport s.now = some r) :
    exec .deferredReportDelivery s = .next (s.deliverReport r) := by
  rw [exec_deferredReportDelivery, execDeferredReportDelivery, h]

/-- Settles O20: `trap` and `eret` by what they leave before and after the handler, reports by the trap they take. -/
theorem trapAndReturn : Obligations.TrapAndReturn := by
  intro n s c
  refine ⟨trap_completes n s, fun hg => ?_, fun r hr hint hi ht => ?_, fun r hr hint hi ht => ?_⟩
  · obtain ⟨_, hexec, rfl, hbytes⟩ := eret_completes s hg
    obtain ⟨hnone, hsome⟩ := returned_slots s.core s.now
    exact ⟨_, hexec, rfl, rfl, rfl, rfl, hnone, hsome, rfl, rfl, still_returned .., rfl, rfl, hbytes⟩
  · have hbefore : BeforeTrap s.core (s.mod fun c => c.takeReport r).core := beforeTrap_takeReport ..
    obtain ⟨⟨hcause, hpc, htvec, hinh, hvigil, hregs⟩, hval⟩ := entersHandler_takePoison hbefore hint hi ht
    exact ⟨_, exec_poison_met hr hint, hcause, hval, hpc, htvec, hinh, hvigil, hregs⟩
  · obtain ⟨hcause, hpc, htvec, hinh, hvigil, hregs⟩ := entersHandler_deliverReport hint hi ht
    refine ⟨_, exec_deferredReport hr, hpc, htvec, hinh, hcause.trans ?_, hvigil, hregs⟩
    cases r <;> rfl

end Sys2Proof.Machine
end

section
/-! PROOF. Control registers and counters, O21 and O22. -/

namespace Sys2Proof.Machine

/-! ## Reads (R233-R235, R403, R404) -/

/-- STATUS, laid out field by field (R235). -/
theorem status_eq (c : Core) :
    c.status = (0 : BitVec 59) ++ c.dsField ++ BitVec.ofBool c.inh ++ BitVec.ofBool c.revpend ++ BitVec.ofBool c.oob := by
  unfold Core.status
  generalize c.dsField = ds
  cases c.inh <;> cases c.revpend <;> cases c.oob <;> revert ds <;> decide

/-- From 24 on the map has the counters only (R234). -/
theorem readCreg_of_le (c : Core) (now : Nat) {n : Nat} (h : 24 ≤ n) : c.readCreg now n =
    if n < 48 then c.ctrsel[Fin.ofNat 16 (n % 16)] else Core.ctrNow { c.note 2 with stall := 0 } (Fin.ofNat 16 (n % 16)) := by
  obtain ⟨m, rfl⟩ := Nat.exists_eq_add_of_le' h
  rfl

/-- The number of a counter in the map. -/
theorem ofNat_counter {b : Nat} (k : Fin 16) (hb : b % 16 = 0) : Fin.ofNat 16 ((b + k.val) % 16) = k := by
  refine Fin.ext ?_
  have := k.isLt
  show (b + k.val) % 16 % 16 = k.val
  omega

/-- A counter as an `mfc` of this cycle sees it: the `mfc` is an instruction retired, and no stall (R403). -/
def Core.counterSeen (c : Core) (k : Fin 16) : Word := Core.ctrNow { c.note 2 with stall := 0 } k

/-- A counter read: its register is written again with the events of the whole cycle (R404). -/
def Core.readCounter (c : Core) (d : BitVec 5) (k : Fin 16) (now : Nat) : Core :=
  { c.put d (c.counterSeen k) now 3 with ctrRead := some (d, BitVec.ofNat 4 k) }

section
variable (c : Core) (d : BitVec 5) (k : Fin 16) (now : Nat)

theorem keeps_readCounter : Keeps c (c.readCounter d k now) := (keeps_put c d (c.counterSeen k) now 3).trans ⟨rfl, rfl, rfl, rfl, rfl, rfl⟩

theorem still_readCounter : { (c.readCounter d k now).still with s := c.s } = c.still :=
  still_s_back (still_put c d (c.counterSeen k) now 3)

theorem readCounter_rs : (c.readCounter d k now).rs d = (if d = 0 then 0 else c.counterSeen k) ∧
    ∀ r, r ≠ d → (c.readCounter d k now).rs r = c.rs r :=
  ⟨put_rs c d (c.counterSeen k) now 3, fun _ hr => put_rs_ne c d _ (c.counterSeen k) now 3 hr⟩

theorem retire_ctrRead : (c.retire now).ctrRead = c.ctrRead := by
  show c.advance.ctrRead = c.ctrRead
  unfold Core.advance
  dsimp only
  split_ifs <;> rfl

end

section
variable {d y x : BitVec 5} {s : State} {n : Nat} {k : Fin 16}

theorem mfc_puts (hn : ctrlNumber x y = n) (hlt : n < 48) : Puts (.mfc d y x) d s (s.core.readCreg s.now n) := by
  subst hn
  refine fun hg => puts_put (x := fun c => c.readCreg s.now (ctrlNumber x y)) (lat := 1) ?_ hg
  rw [exec_mfc, execMfc, withGate_go hg, withGate_go hg]
  exact congrArg (fun f => Host.Outcome.next (retireWith s f)) (funext fun c => if_neg (Nat.not_le.mpr hlt))

theorem exec_mfc_counter (hn : ctrlNumber x y = 48 + k) (hg : gate (.mfc d y x) s = .go) :
    exec (.mfc d y x) s = .next (retireWith s fun c => c.readCounter d k s.now) := by
  have hread (c : Core) : c.readCreg s.now (48 + k) = c.counterSeen k := by
    rw [readCreg_of_le c s.now (by omega), if_neg (by omega), ofNat_counter k (by decide), Core.counterSeen]
  have hnum : BitVec.ofNat 4 (48 + k) = BitVec.ofNat 4 k := BitVec.eq_of_toNat_eq (by
    rw [BitVec.toNat_ofNat, BitVec.toNat_ofNat]
    omega)
  refine (exec_mfc d y x s).trans ((withGate_go hg).trans (congrArg (fun f => Host.Outcome.next (retireWith s f)) (funext fun c => ?_)))
  dsimp only
  rw [hn, if_pos (Nat.le_add_right ..), hread, hnum, Core.readCounter]

theorem mfc_counter (hn : ctrlNumber x y = 48 + k) : Puts (.mfc d y x) d s (s.core.counterSeen k) ∧
    Completes (.mfc d y x) s fun t => t.core.ctrRead = some (d, BitVec.ofNat 4 k) := by
  obtain ⟨hrs, hne⟩ := readCounter_rs s.core d k s.now
  refine ⟨fun hg => ⟨_, exec_mfc_counter hn hg, ?_, onlyScalar_of (keeps_readCounter ..) (still_readCounter ..) hne⟩,
    fun hg => ⟨_, exec_mfc_counter hn hg, ?_⟩⟩
  · rw [retireWith_core, Core.retire_rs, hrs]
  · exact retire_ctrRead ..

end

/-- The end of a cycle that reads a counter gives it to the register (R404). -/
theorem countCycle_rs {c : Core} {d : BitVec 5} {k : Fin 16} (h : c.ctrRead = some (d, BitVec.ofNat 4 k)) :
    c.countCycle.rs d = (if d = 0 then 0 else c.ctrNow k) ∧ ∀ r, r ≠ d → c.countCycle.rs r = c.rs r := by
  have hk : (BitVec.ofNat 4 k.val).toFin = k := Fin.ext (Nat.mod_eq_of_lt k.isLt)
  have hs : c.countCycle.s = (c.ws d (c.ctrNow k)).s := by
    unfold Core.countCycle
    rw [h]
    dsimp only
    rw [hk]
  exact ⟨(Core.rs_congr hs d).trans (Core.rs_ws ..), fun r hr => (Core.rs_congr hs r).trans (Core.rs_ws_ne _ _ _ _ hr)⟩

/-- Settles O21: below the counters `mfc` puts what the map holds; a counter is put twice. -/
theorem controlRegistersRead : Obligations.ControlRegistersRead := by
  intro d y x s c n reads
  have map (m : Nat) (hm : m < 48) (h : n = m) : reads (c.readCreg s.now m) := mfc_puts h hm
  refine ⟨fun h => (map 0 (by decide) h).of_eq (status_eq c), map 1 (by decide), map 2 (by decide), map 3 (by decide),
    map 4 (by decide), map 5 (by decide), map 6 (by decide), map 7 (by decide), map 8 (by decide), map 9 (by decide),
    map 10 (by decide), map 11 (by decide), map 12 (by decide), map 13 (by decide), map 14 (by decide), map 15 (by decide),
    map 16 (by decide), map 17 (by decide), map 18 (by decide), map 19 (by decide), map 20 (by decide), map 21 (by decide),
    map 22 (by decide), map 23 (by decide), fun k => ⟨fun h => (map (32 + k) (by omega) h).of_eq ?_, mfc_counter, countCycle_rs⟩⟩
  rw [readCreg_of_le c s.now (by omega), if_pos (by omega)]
  exact congrArg (fun j : Fin 16 => c.ctrsel[j]) (ofNat_counter k (by decide))

/-! ## WPMASK (R408) -/

section
variable (x : Word)

theorem extractLsb'_mode : (x &&& 0x1FFFFF).extractLsb' 16 2 = x.extractLsb' 16 2 := by
  rw [BitVec.extractLsb'_and]; exact BitVec.and_allOnes

theorem wpmaskStored_eq : wpmaskStored x = if x.extractLsb' 16 2 = 3 then x &&& 0x1CFFFF else x &&& 0x1FFFFF := by
  unfold wpmaskStored
  dsimp only
  rw [extractLsb'_mode, BitVec.and_assoc]
  rfl

theorem wpmaskStored_mode : (wpmaskStored x).extractLsb' 16 2 = if x.extractLsb' 16 2 = 3 then 0 else x.extractLsb' 16 2 := by
  rw [wpmaskStored_eq]
  split_ifs
  · rw [BitVec.extractLsb'_and]; exact BitVec.and_zero
  · exact extractLsb'_mode x

/-- A write that installs a watch: one of MODE 2 with ATOM. -/
theorem installs_iff (n : Nat) : installs n x = true ↔ (n = 21 ∨ n = 23) ∧ x.extractLsb' 16 2 = 2 ∧ x.getLsbD 20 = true := by
  have hmode : (wpmaskStored x).extractLsb' 16 2 = 2 ↔ x.extractLsb' 16 2 = 2 := by
    rw [wpmaskStored_mode]
    split_ifs with h
    · exact iff_of_false (by decide) (by rw [h]; decide)
    · exact Iff.rfl
  simp only [installs, Bool.and_eq_true, Bool.or_eq_true, beq_iff_eq, hmode, and_assoc]

end

/-! ## Writes of CTRSEL (R403, R404) -/

/-- What a write of CTRSEL k does: EVENT, EN and HND, and the counter cleared with CLR or on a change. -/
def Selects (k : BitVec 4) (x : Word) (c d : Core) : Prop :=
  d.ctrsel = c.ctrsel.set k.toNat (x &&& 0x180FF) ∧
    d.ctrval = (if x.getLsbD 17 = true ∨ x &&& 0x180FF ≠ c.ctrsel[k.toNat] then c.ctrval.set k.toNat 0 else c.ctrval) ∧
    { d.still with ctrsel := c.ctrsel, ctrval := c.ctrval } = c.still

theorem selects_writeSel (c : Core) (k : BitVec 4) (x : Word) : Selects k x c (c.writeSel k.toFin x) := by
  by_cases h : x.getLsbD 17 = true ∨ x &&& 0x180FF ≠ c.ctrsel[k.toNat]
  · rw [show c.writeSel k.toFin x = _ from if_pos h]
    exact ⟨rfl, (if_pos h).symm, rfl⟩
  · rw [show c.writeSel k.toFin x = c from if_neg h]
    obtain ⟨-, hsame⟩ := not_or.mp h
    refine ⟨?_, (if_neg h).symm, rfl⟩
    rw [not_not.mp hsame, Vector.set_getElem_self]

theorem keeps_writeSel (c : Core) (n : Fin 16) (x : Word) : Keeps c (c.writeSel n x) := by
  unfold Core.writeSel; dsimp only; split_ifs <;> exact ⟨rfl, rfl, rfl, rfl, rfl, rfl⟩

/-- A write of CTRSEL as its instruction retires. -/
theorem selects_retireWith {s : State} {f : Core → Core} {k : BitVec 4} {x : Word} (h : f s.core = s.core.writeSel k.toFin x) :
    Selects k x s.core (retireWith s f).core ∧ Outside s (retireWith s f) ∧ BytesKept s (retireWith s f) ∧
      Retires s (retireWith s f) := by
  have hk : Keeps s.core (f s.core) := h ▸ keeps_writeSel ..
  have hstill : (retireWith s f).core.still = (s.core.writeSel k.toFin x).still :=
    (Core.still_retire ..).trans (congrArg Core.still h)
  obtain ⟨hsel, hval, hrest⟩ := selects_writeSel s.core k x
  exact ⟨⟨(congrArg Core.ctrsel hstill).trans hsel, (congrArg Core.ctrval hstill).trans hval, hstill ▸ hrest⟩, rfl, bytes_of hk,
    retires_of hk⟩

/-! ## mtc (R233, R408) -/

/-- From 24 on only the selectors of counters can be written. -/
theorem writeCreg_of_le (c : Core) (v : Word) {n : Nat} (h : 24 ≤ n) :
    c.writeCreg n v = if 32 ≤ n ∧ n < 48 then c.writeSel (Fin.ofNat 16 (n - 32)) v else c := by
  obtain ⟨m, rfl⟩ := Nat.exists_eq_add_of_le' h
  rfl

theorem writeCreg_readOnly (c : Core) (v : Word) {n : Nat} (h : (8 ≤ n ∧ n ≤ 11) ∨ (15 ≤ n ∧ n ≤ 19) ∨ 48 ≤ n) :
    c.writeCreg n v = c := by
  rcases h with ⟨hl, hu⟩ | ⟨hl, hu⟩ | h
  · interval_cases n <;> rfl
  · interval_cases n <;> rfl
  · rw [writeCreg_of_le c v (by omega), if_neg (by omega)]

theorem writeCreg_ctrsel (c : Core) (v : Word) (k : BitVec 4) : c.writeCreg (32 + k.toNat) v = c.writeSel k.toFin v := by
  have hk : Fin.ofNat 16 (32 + k.toNat - 32) = k.toFin := Fin.ext (by
    show (32 + k.toNat - 32) % 16 = k.toNat
    have := k.isLt
    omega)
  have := k.isLt
  rw [writeCreg_of_le c v (by omega), if_pos (by omega), hk]

theorem keeps_writeCreg (c : Core) (n : Nat) (v : Word) : Keeps c (c.writeCreg n v) := by
  unfold Core.writeCreg
  dsimp only
  split
  case h_16 =>
    split_ifs
    · exact keeps_writeSel ..
    · exact keeps_refl c
  all_goals exact ⟨rfl, rfl, rfl, rfl, rfl, rfl⟩

section
variable {a y x : BitVec 5} {s : State} {n : Nat}

theorem exec_mtc_writes (hn : ctrlNumber x y = n) (hg : gate (.mtc a y x) s = .go)
    (h : (s.core.waiting = .none ∧ ¬installs n (s.core.rs a) = true) ∨ ∃ due, s.core.waiting = .install due true) :
    exec (.mtc a y x) s = .next (retireWith s fun c => c.writeCreg n (s.core.rs a)) := by
  subst hn
  refine (exec_mtc a y x s).trans ((withGate_go hg).trans (congrArg _ ?_))
  obtain ⟨hw, hi⟩ | ⟨due, hw⟩ := h
  · rw [hw]; exact if_neg hi
  · rw [hw]

theorem mtc_does (hn : ctrlNumber x y = n) {f : Core → Core} (hf : s.core.writeCreg n (s.core.rs a) = f s.core)
    (h : (s.core.waiting = .none ∧ ¬installs n (s.core.rs a) = true) ∨ ∃ due, s.core.waiting = .install due true) :
    Completes (.mtc a y x) s (Does f s) := fun hg =>
  ⟨_, exec_mtc_writes hn hg h, (Core.still_retire ..).trans (congrArg Core.still hf), rfl, bytes_of (keeps_writeCreg ..),
    retires_of (keeps_writeCreg ..)⟩

theorem exec_mtc_waits (hw : s.core.waiting = .none) (hi : installs (ctrlNumber x y) (s.core.rs a) = true)
    (hg : gate (.mtc a y x) s = .go) : exec (.mtc a y x) s =
      .next (State.stallFor { s with core := { s.core with waiting := .install s.dueCycle false }, fv := s.fv + 1 } 1) := by
  refine (exec_mtc a y x s).trans ((withGate_go hg).trans (congrArg _ ?_))
  rw [hw]; exact if_pos hi

theorem mtc_selects {k : BitVec 4} (hn : ctrlNumber x y = 32 + k.toNat) (hw : s.core.waiting = .none) :
    Completes (.mtc a y x) s fun t =>
      Selects k (s.core.rs a) s.core t.core ∧ Outside s t ∧ BytesKept s t ∧ Retires s t := fun hg =>
  have hi : ¬installs (32 + k.toNat) (s.core.rs a) = true := fun h => by
    obtain ⟨hn, -, -⟩ := (installs_iff _ _).mp h
    omega
  ⟨_, exec_mtc_writes hn hg (.inl ⟨hw, hi⟩), selects_retireWith (writeCreg_ctrsel ..)⟩

end

/-! ## A counter's wrap, a watch's installation (R401, R408) -/

theorem counterWrap_sets {k : BitVec 4} {s : State} (hmax : s.core.ctrval[k.toNat].extractLsb' 0 48 = BitVec.allOnes 48)
    (hcounts : s.core.countsNow k.toFin = true) : ∃ t, exec (.counterWrap k) s = .next t ∧
      t.core.ctrval[k.toNat] = 1#64 <<< 63 ∧ (∀ j : Fin 16, j ≠ k.toFin → t.core.ctrval[j] = s.core.ctrval[j]) ∧
      { t.core with ctrval := s.core.ctrval } = s.core ∧ Outside s t := by
  refine ⟨_, (exec_counterWrap k s).trans (if_pos ⟨hmax, hcounts⟩), ?_, fun j hj => ?_, rfl, rfl⟩
  · exact (Vector.getElem_set_self ..).trans (if_pos hmax)
  · exact Vector.getElem_set_ne k.toFin.isLt j.isLt fun h => hj (Fin.ext h.symm)

theorem watchInstalled_sets {due : Nat} {s : State} (hw : s.core.waiting = .install due false) (hdue : due ≤ s.now) :
    ∃ t, exec .watchInstalled s = .next t ∧ t.core.waiting = .install due true ∧
      { t.core with waiting := s.core.waiting } = s.core ∧ Outside s t := by
  refine ⟨s.mod fun c => { c with waiting := .install due true }, ?_, rfl, rfl, rfl⟩
  rw [exec_watchInstalled, execWatchInstalled, hw]
  exact if_pos hdue

/-- Settles O22: `mtc` writes as `writeCreg` says, once nothing is to be installed first. -/
theorem controlRegistersWritten : Obligations.ControlRegistersWritten := by
  refine ⟨?_, fun a y x k s => ⟨fun hg => ?_, mtc_selects, counterWrap_sets⟩, fun due s => watchInstalled_sets⟩
  · intro a y x s c n v lo mode waits mask writes
    have hwaits : installs n v = true ↔ waits := installs_iff v n
    have does (m : Nat) {f : Core → Core} (hf : c.writeCreg m v = f c) (h : n = m) : writes f := fun hw =>
      mtc_does h hf (hw.imp_left fun ⟨hnone, hno⟩ => ⟨hnone, h ▸ mt hwaits.mp hno⟩)
    have hmask : wpmaskStored v = mask := wpmaskStored_eq v
    exact ⟨fun hi hw => completes_waits (exec_mtc_waits hw (hwaits.mpr hi)) (onlyWaits_stallFor ..), does 0 rfl, does 1 rfl, does 2 rfl,
      does 3 rfl, does 4 rfl, does 5 rfl, does 6 rfl, does 7 rfl, does 12 rfl, does 13 rfl, does 14 rfl, does 20 rfl, does 22 rfl,
      does 21 (hmask ▸ rfl), does 23 (hmask ▸ rfl), fun h => does n (writeCreg_readOnly c v h) rfl⟩
  · exact ⟨_, (exec_ctrSel a k s).trans (withGate_go hg), selects_retireWith rfl⟩

end Sys2Proof.Machine
end

section
/-! PROOF. The service call and its four services, O25. -/

namespace Sys2Proof.Machine

/-! ## The strand's side (R230) -/

/-- Once its fence is done the `svc` asks, and waits for firmware. -/
theorem exec_svc_asks {k : BitVec 5} {s : State} (hw : s.core.waiting = .none) (hown : s.core.ownDone false = true)
    (hseen : s.seenHere = true) (hreached : s.reached (s.dieClock (dieOf s.core.phys)) = true) (hg : gate (.svc k) s = .go) :
    exec (.svc k) s =
      .next (State.stallFor { s with core := { s.core with waiting := .svc s.dueCycle none }, fv := s.fv + 1 } 15) := by
  refine (exec_svc k s).trans ((withGate_go hg).trans (congrArg _ ?_))
  rw [hw]
  exact (fenced_first hw).trans ((if_neg (by simp [hown, hseen])).trans (if_pos hreached))

theorem svc_asks {k : BitVec 5} {s : State} (hw : s.core.waiting = .none) (hown : s.core.ownDone false = true)
    (hseen : s.seenHere = true) (hreached : s.reached (s.dieClock (dieOf s.core.phys)) = true) : Completes (.svc k) s fun t =>
      t.core.waiting = .svc s.dueCycle none ∧ t.core.pc = s.core.pc ∧ t.core.still = s.core.still ∧
        t.core.vigil = s.core.vigil ∧ OutsideFree s t ∧ BytesKept s t := fun hg =>
  have ⟨hwait, hstill, hpc, hvigil, hout, hbytes⟩ := onlyWaits_stallFor s (.svc s.dueCycle none) (s.fv + 1) 15
  ⟨_, exec_svc_asks hw hown hseen hreached hg, hwait, hpc, hstill, hvigil, hout, hbytes⟩

/-- The core with a reply's two values, of which the first may be missing. -/
def Core.replied (c : Core) (r1 : Option Word) (r2 : Word) (now : Nat) : Core :=
  (r1.elim c fun x => c.put 1 x now 1).put 2 r2 now 1

section
variable (c : Core) (r1 : Option Word) (r2 : Word) (now : Nat)

theorem keeps_replied : Keeps c (c.replied r1 r2 now) := by
  cases r1 with
  | none => exact keeps_put ..
  | some x => exact (keeps_put ..).trans (keeps_put ..)

theorem still_replied : { (c.replied r1 r2 now).still with s := c.s } = c.still := by
  cases r1 with
  | none => exact still_s_back (still_put ..)
  | some x =>
    have hfirst := still_put c 1 x now 1
    have hboth := still_put (c.put 1 x now 1) 2 r2 now 1
    rw [hfirst] at hboth
    exact still_s_back hboth

theorem replied_rs : (c.replied r1 r2 now).rs 1 = r1.getD (c.rs 1) ∧ (c.replied r1 r2 now).rs 2 = r2 ∧
    ∀ r, r ≠ 1 → r ≠ 2 → (c.replied r1 r2 now).rs r = c.rs r := by
  refine ⟨(put_rs_ne _ _ _ _ _ _ (by decide)).trans ?_, put_rs .., fun r h1 h2 => (put_rs_ne _ _ _ _ _ _ h2).trans ?_⟩
  all_goals cases r1 with
    | none => rfl
    | some x => ?_
  · exact put_rs ..
  · exact put_rs_ne _ _ _ _ _ _ h1

end

theorem exec_svc_replied {k : BitVec 5} {s : State} {due : Nat} {r1 : Option Word} {r2 : Word}
    (hw : s.core.waiting = .svc due (some (r1, r2))) (hg : gate (.svc k) s = .go) :
    exec (.svc k) s = .next (retireWith s fun c => c.replied r1 r2 s.now) := by
  refine (exec_svc k s).trans ((withGate_go hg).trans (congrArg _ ?_))
  rw [hw]
  cases r1 <;> rfl

theorem svc_retires {k : BitVec 5} {s : State} {due : Nat} {r1 : Option Word} {r2 : Word}
    (hw : s.core.waiting = .svc due (some (r1, r2))) : Completes (.svc k) s fun t =>
      t.core.rs 1 = r1.getD (s.core.rs 1) ∧ t.core.rs 2 = r2 ∧ (∀ r, r ≠ 1 → r ≠ 2 → t.core.rs r = s.core.rs r) ∧
      { t.core.still with s := s.core.s } = s.core.still ∧ Outside s t ∧ BytesKept s t ∧ Retires s t := by
  intro hg
  have hk := keeps_replied s.core r1 r2 s.now
  obtain ⟨h1, h2, hr⟩ := replied_rs s.core r1 r2 s.now
  refine ⟨_, exec_svc_replied hw hg, ?_, ?_, fun r hr1 hr2 => ?_, ?_, rfl, bytes_of hk, retires_of hk⟩
  · rw [retireWith_core, Core.retire_rs, h1]
  · rw [retireWith_core, Core.retire_rs, h2]
  · rw [retireWith_core, Core.retire_rs, hr r hr1 hr2]
  · rw [retireWith_core, Core.still_retire, still_replied]

/-! ## Firmware's side (R230) -/

/-- A core's `svc` of a number awaits its reply, and firmware has come to it. -/
structure Asks (s : State) (n : Nat) (c : Core) (num : BitVec 5) (due : Nat) : Prop where
  core : s.coreAt n = some c
  cur : c.cur = some (.svc num)
  waits : c.waiting = .svc due none
  reached : due ≤ s.now
  running : c.ctx = .running

/-- A service replies: of u only the core changes, and it has the two values. -/
def RepliesWith (n due : Nat) (r1 : Option Word) (r2 : Word) (u : State) (t : State) : Prop :=
  OnlyCore n (fun c => { c with waiting := .svc due (some (r1, r2)) }) u t

section
variable {s : State} {n due : Nat} {c : Core} {num : BitVec 5} {r1 : Option Word} {r2 : Word}

theorem serve_asked (h : Asks s n c num due) {svc : BitVec 5 → Bool} (hn : svc num = true) (f : Core → State → State) :
    s.serve n svc f = f c s := by
  have hdue : c.serviceDue svc s.now = true := by
    rw [Core.serviceDue, h.cur, h.waits]
    simp [hn, h.reached, h.running]
  rw [State.serve, h.core]
  exact if_pos hdue

theorem reply_phys (c : Core) (r1 : Option Word) (r2 : Word) : (c.reply r1 r2).phys = c.phys := by
  unfold Core.reply; split <;> rfl

theorem repliesWith_modAt {u : State} (hu : u.coreAt n = some c) (hw : c.waiting = .svc due none) :
    RepliesWith n due r1 r2 u (u.modAt n fun c => c.reply r1 r2) := by
  obtain ⟨hcore, hothers, hrest⟩ := onlyCore_modAt u (f := fun c => c.reply r1 r2) fun x hx => (reply_phys x r1 r2).trans hx
  refine ⟨hcore.trans ?_, hothers, hrest⟩
  rw [hu, Option.map_some, Option.map_some, Core.reply, hw]

theorem svcTime_replies (h : Asks s n c 0 due) :
    ∃ t, exec (.svcTime n) s = .next t ∧ RepliesWith n due (some (BitVec.ofNat 64 s.time)) 0 s t :=
  ⟨_, (exec_svcTime n s).trans (congrArg Host.Outcome.next (serve_asked h rfl _)), repliesWith_modAt h.core h.waits⟩

theorem svcUnassigned_replies (h : Asks s n c num due) (hnum : 3 ≤ num.toNat) :
    ∃ t, exec (.svcUnassigned n) s = .next t ∧ RepliesWith n due none (BitVec.allOnes 64) s t :=
  ⟨_, (exec_svcUnassigned n s).trans (congrArg Host.Outcome.next (serve_asked h (decide_eq_true hnum) _)),
    repliesWith_modAt h.core h.waits⟩

/-- The microseconds left, of a task that stands. -/
theorem svcLimit_replies (h : Asks s n c 2 due) {t : Task} (ht : s.task? c.task = some t) :
    ∃ u, exec (.svcLimit n) s = .next u ∧
      RepliesWith n due (some (BitVec.ofNat 64 (microsUp ((s.limitLeft t).getD 0)))) 0 s u := by
  refine ⟨_, (exec_svcLimit n s).trans (congrArg Host.Outcome.next (serve_asked h rfl _)), ?_⟩
  rw [ht]
  exact repliesWith_modAt h.core h.waits

/-- The record that a core logs. -/
def Core.logRecord (c : Core) : List Nat := [(c.rs 1).toNat, (c.rs 2).toNat, (c.rs 3).toNat, (c.rs 4).toNat, c.rank]

/-- A partition's log takes a record, or counts it where it is full. -/
def Partition.logged (p : Partition) (r : List Nat) : Partition :=
  if logPlaces ≤ p.log.length then { p with logDropped := p.logDropped + 1 } else { p with log := p.log ++ [r] }

theorem svcLog_replies (h : Asks s n c 1 due) {p : Partition} (hp : mapGet s.parts c.partId = some p) :
    ∃ t, exec (.svcLog n) s = .next t ∧ RepliesWith n due none (boolWord (decide (logPlaces ≤ p.log.length)))
      { s with parts := mapSet s.parts c.partId (p.logged c.logRecord) } t := by
  refine ⟨_, (exec_svcLog n s).trans (congrArg Host.Outcome.next (serve_asked h rfl _)), ?_⟩
  have hpart (f : Partition → Partition) : s.modPart c.partId f = { s with parts := mapSet s.parts c.partId (f p) } := by
    rw [State.modPart, hp]
  dsimp only
  rw [hp, hpart]
  simp only [Option.all_some, decide_eq_true_eq]
  exact repliesWith_modAt (u := { s with parts := mapSet s.parts c.partId (p.logged c.logRecord) }) h.core h.waits

end

/-- Settles O25: the request by its fence, the reply by its two registers, each service by the reply it gives. -/
theorem service : Obligations.Service := by
  intro k due n r1 r2 c p s replies
  refine ⟨svc_asks, svc_retires,
    fun hcore hcur hw hdue hctx => svcTime_replies ⟨hcore, hcur, hw, hdue, hctx⟩, fun hp hroom hcore hcur hw hdue hctx => ?_,
    fun hp hfull hcore hcur hw hdue hctx => ?_, fun t left ht hleft hcore hcur hw hdue hctx => ?_,
    fun t ht hleft hcore hcur hw hdue hctx => ?_,
    fun num hnum hcore hcur hw hdue hctx => svcUnassigned_replies ⟨hcore, hcur, hw, hdue, hctx⟩ hnum⟩
  · have hno : ¬logPlaces ≤ p.log.length := Nat.not_le.mpr hroom
    have hlog := svcLog_replies ⟨hcore, hcur, hw, hdue, hctx⟩ hp
    rwa [decide_eq_false hno, Partition.logged, if_neg hno] at hlog
  · have hyes : logPlaces ≤ p.log.length := hfull
    have hlog := svcLog_replies ⟨hcore, hcur, hw, hdue, hctx⟩ hp
    rwa [decide_eq_true hyes, Partition.logged, if_pos hyes] at hlog
  · have hlimit := svcLimit_replies ⟨hcore, hcur, hw, hdue, hctx⟩ ht
    rwa [hleft] at hlimit
  · have hlimit := svcLimit_replies ⟨hcore, hcur, hw, hdue, hctx⟩ ht
    rwa [hleft] at hlimit

end Sys2Proof.Machine
end

section
/-! PROOF. The strand's step and its fetch, O4. -/

namespace Sys2Proof.Machine

/-! ## Before the instruction -/

/-- With no read of a load and no row read due, the strand's turn is its instruction's. -/
theorem step_eq_issuePart {s : State} (hphase : s.phase = 6) (hctx : s.core.ctx = .running) (hreads : s.core.rowReads = [])
    (hlate : ∀ x, x ∈ s.core.late → s.now < x.cycle) : step s = s.issuePart := by
  have hdue : ∀ x ∈ s.core.late, x.due s.now = false := fun x hx => decide_eq_false (Nat.not_le.mpr (hlate x hx))
  have hlost : ¬s.core.lateLost s.now = true := by
    rw [Bool.not_eq_true, Core.lateLost, List.any_eq_false]
    intro x hx
    rw [hdue x hx]
    exact Bool.false_ne_true
  have hnone : (s.core.late.find? fun x => x.due s.now) = none :=
    List.find?_eq_none.mpr fun x hx => by rw [hdue x hx]; exact Bool.false_ne_true
  calc step s = s.strandPart := by rw [step, State.cycle, hphase]; rfl
    _ = s.issuePart := by
      rw [State.strandPart, if_neg (not_not.mpr hctx), if_neg hlost, hnone]
      dsimp only
      rw [hreads]
      exact if_neg Bool.false_ne_true

/-- Where its issue cycle has come and no report is due, the instruction at issue runs, or the next one is fetched. -/
theorem issuePart_eq {s : State} (hacted : s.core.acted = false) (hissue : s.core.nextIssue ≤ s.now)
    (hreport : s.core.nextReport s.now = none) : s.issuePart = s.core.cur.elim s.fetch fun i => exec i s := by
  rw [State.issuePart, if_neg (by rw [hacted]; exact Bool.false_ne_true), if_neg (Nat.not_lt.mpr hissue),
    if_neg (by rw [hreport]; exact Bool.false_ne_true)]
  cases s.core.cur <;> rfl

/-! ## The fetch (R211, R212) -/

theorem rowReads_afterJump (c : Core) : c.afterJump.rowReads = c.rowReads := by
  unfold Core.afterJump; split_ifs <;> rfl

theorem rowWord_afterJump (c : Core) (x : FetchRow) : c.afterJump.rowWord x = c.rowWord x := by
  unfold Core.afterJump; split_ifs <;> rfl

theorem portLost_afterJump (c : Core) (now a n : Nat) : c.afterJump.portLost now a n = c.portLost now a n := by
  unfold Core.afterJump; split_ifs <;> rfl

theorem issue_of_decodes {s : State} {w : BitVec 32} {i : Instr} (h : decodeWord w = .ok i) :
    s.issue w = exec i (s.mod fun c => { c.fetched s.now with cur := some i }) := by
  rw [State.issue, h]

section
variable {s : State} {i : Instr} (hpc : s.core.pc.toNat < 0x300000) (hreads : s.core.rowReads = [])
include hpc hreads

/-- The word comes from a row that stands. -/
theorem fetch_of_row {x : FetchRow} (hrow : (s.core.afterJump.rows.find? fun x => x.addr == lineOf s.core.pc.toNat) = some x)
    (hlost : x.lost = 0) (hdec : decodeWord (s.core.rowWord x) = .ok i) :
    s.fetch = exec i (s.mod fun c => { c.afterJump.fetched s.now with cur := some i }) := by
  rw [← rowWord_afterJump] at hdec
  rw [State.fetch, if_neg (Nat.not_le.mpr hpc)]
  dsimp only
  rw [State.mod_core, rowReads_afterJump, hreads, List.any_nil, if_neg Bool.false_ne_true, hrow]
  exact (if_pos hlost).trans (issue_of_decodes hdec)

/-- The word comes from a row read of this cycle. -/
theorem fetch_of_read (hrow : (s.core.afterJump.rows.find? fun x => x.addr == lineOf s.core.pc.toNat) = none)
    (hport : s.core.portLost s.now (lineOf s.core.pc.toNat) 64 = false) (hdec : decodeWord (s.core.fetchWord s.now) = .ok i) :
    s.fetch = exec i (s.mod fun c =>
      { (c.afterJump.makeRowRead s.now ⟨lineOf c.pc.toNat, s.now, 0⟩).fetched s.now with cur := some i }) := by
  rw [State.fetch, if_neg (Nat.not_le.mpr hpc)]
  dsimp only
  rw [State.mod_core, rowReads_afterJump, hreads, List.any_nil, if_neg Bool.false_ne_true, hrow]
  dsimp only
  rw [portLost_afterJump, hport, if_neg Bool.false_ne_true]
  exact issue_of_decodes hdec

end

/-- Settles O4: nothing comes before the strand's instruction, and the fetch finds its word in a row or reads it. -/
theorem stepRunsStrandWord : Obligations.StepRunsStrandWord := by
  intro s i hphase hctx hacted hreads hlate hissue hreport
  have hstep : step s = s.core.cur.elim s.fetch fun i => exec i s :=
    (step_eq_issuePart hphase hctx hreads hlate).trans (issuePart_eq hacted hissue hreport)
  refine ⟨fun hcur => by rw [hstep, hcur]; rfl, fun hcur hpc => ?_⟩
  rw [hstep, hcur]
  exact ⟨fun x => fetch_of_row hpc hreads, fetch_of_read hpc hreads⟩

end Sys2Proof.Machine
end
